-- ==== Sys2Proof/Word.lean ====
section
/-!
DEFINITION. The word type of the S96's byte memories and frames, and the names of its numbered units.
Counts, times and register values are plain numbers: the dictionary gives each entry a range (R445, R446).
-/
namespace Sys2Proof

/-- One byte of a frame, a DOMAIN or a memory (R446). -/
abbrev Byte := BitVec 8

/-- A channel, 0 to 95 (R23). -/
abbrev Ch := Fin 96
/-- A fire engine, 0 to 99; 96 to 99 are the spares S0 to S3 (R23). -/
abbrev Eng := Fin 100
/-- A power domain DOM_0 to DOM_11 (R45). -/
abbrev Dom := Fin 12
/-- A DMA channel, 0 to 15 (R376). -/
abbrev DmaCh := Fin 16
/-- A ring buffer, 0 to 31 (R377). -/
abbrev RingBuf := Fin 32
/-- A Lathe loop, 0 to 239 (R264). -/
abbrev LoopId := Fin 240
/-- A Lathe section slot, 0 to 2,047 (R261). -/
abbrev Slot := Fin 2048
/-- A DRAM rank (ch, r) (R298). -/
abbrev Rank := Fin 5 × Fin 2
/-- A Darine ring: 0 for A, 1 for B (R443). -/
abbrev RingId := Fin 2
/-- A Finup persona: 0 for A, 1 for B, 2 for C (R573). -/
abbrev Persona := Fin 3

/-- The size of TIME, POS and every data word (R73, R74, R258). -/
def word48 : Nat := 2 ^ 48

/-- A number kept modulo 2^48 (R73, R74). -/
def wrap48 (x : Int) : Nat := (x % (2 ^ 48 : Int)).toNat

/-- The signed 48-bit difference `a - b` that orders two TIME or two POS values (R75). -/
def sdiff48 (a b : Int) : Int :=
  let d := (a - b) % (2 ^ 48 : Int)
  if d < 2 ^ 47 then d else d - 2 ^ 48

/-- A number taken modulo 2^48 into the signed 48-bit range (R75). -/
def wrapDiff (x : Rat) : Rat := x - 2 ^ 48 * (((x + 2 ^ 47) / 2 ^ 48).floor : Rat)

end Sys2Proof
end

