-- ==== Sys2Proof/Syntax.lean ====
section
/-!
DEFINITION. The commands of the S96: one constructor of `Instr` per row of spec/opcode_table.json, with the row's
operands. Operands are what comes from outside the block (a written value, a frame's bytes, a timestamp, a reading)
or the unit the event belongs to. Times named `t` are TIME values in CLK_FIRE periods (R73).
-/
namespace Sys2Proof

/-- The ports that carry dictionary accesses, in the order of R43. -/
inductive Port where
  | ringA | ringB | canFd | lhp | fw
  deriving DecidableEq, Repr

/-- The four double-buffered tables of an engine, in the bit order of TABLE_COMMIT (R176). -/
inductive Table where
  | stitch | shape | tile | wave
  deriving DecidableEq, Repr

/-- The encoder settings of R617. -/
inductive EncField where
  | mode | dir | filter
  deriving DecidableEq, Repr

/-- The ring-buffer geometry entries of R377. -/
inductive GeoField where
  | base | lines | stride
  deriving DecidableEq, Repr

/-- The strap levels held while the supplies rise (R554). -/
structure Straps where
  compatEn : Bool
  ringRoot : Bool
  bootSrc  : Fin 16
  deriving DecidableEq, Repr

/-- A fault message of R490: source, kind and the 48-bit address. -/
structure FaultMsg where
  src  : Nat
  kind : Nat
  addr : Nat
  deriving DecidableEq, Repr

/-- What a memory read found (R302, R304, R305). -/
inductive EccResult where
  | good | corrected | uncorrectable
  deriving DecidableEq, Repr

/-- What the boot firmware finds at flash offset 0 (R556, R557): the header fields it checks, and the bytes that
SHA-256 and ECDSA are computed over. -/
structure Patch where
  magic    : Nat
  version  : Nat
  romVer   : Nat
  pubKey   : List Byte
  sig      : List Byte
  signed   : List Byte
  deriving DecidableEq, Repr

/-- What the training of the DRAM found (R296, R298, R299, R316). -/
structure DramFound where
  /-- 16 Gb devices when true, 8 Gb otherwise (R299). -/
  dense       : Bool
  /-- Two ranks on each active channel when true, one otherwise (R298). -/
  twoRanks    : Bool
  spare0      : Bool
  spare1      : Bool
  /-- Active channels that failed training (R340, TRAIN_FAIL). -/
  failed      : List (Fin 4)
  deriving DecidableEq, Repr

/-- An Ethernet frame as an intake port receives it (R378). -/
structure Frame where
  /-- The FCS is right and the FEC could correct every codeword. -/
  good    : Bool
  /-- Bytes from the destination address to the FCS inclusive. -/
  size    : Nat
  dstMac  : Nat
  srcMac  : Nat
  /-- It carries a VLAN tag. -/
  tagged  : Bool
  /-- It is a MAC control frame: PAUSE or priority flow control. -/
  control : Bool
  deriving DecidableEq, Repr

/-- A UDP datagram in a frame: what R378 and R381 check, and where a reply goes (R392). -/
structure Datagram where
  frame    : Frame
  /-- IP destination and source: 4 bytes of IPv4 or 16 of IPv6. -/
  dstIp    : List Byte
  srcIp    : List Byte
  /-- It is a fragment. -/
  fragment : Bool
  /-- Its IPv4 header has options, or its IPv6 header an extension header. -/
  extended : Bool
  srcPort  : Nat
  dstPort  : Nat
  /-- The bytes after the UDP header. -/
  payload  : List Byte
  deriving DecidableEq, Repr

/-- One frame of a Darine ring as received on an IN lane (R402). -/
structure RingFrame where
  /-- Header, payload and CRC. -/
  bytes      : List Byte
  /-- The frame ended in an error block (R406). -/
  errorBlock : Bool
  /-- Ring timestamp of arrival, in 1/256 of a CLK_FIRE period (R401). -/
  arrival    : Nat
  deriving DecidableEq, Repr

/-- A dictionary request of the ring (R410). -/
structure RingReq where
  ring  : RingId
  src   : Nat
  seq   : Nat
  index : Nat
  sub   : Nat
  ofs   : Nat
  /-- Bytes wanted by a read; the data of a write is `data`. -/
  dlen  : Nat
  data  : List Byte
  deriving DecidableEq, Repr

/-- One request to the staging SRAM port, by master in the order of R336: 0 Lathe log, 1 DMA, 2 intake,
3 housekeeping processor, 4 LHP. -/
structure SramReq where
  master : Fin 5
  addr   : Nat
  /-- `none` reads `len` bytes, `some d` writes the bytes d. -/
  data   : Option (List Byte)
  len    : Nat
  /-- What the read of the words touched finds (R339). -/
  ecc    : EccResult
  deriving DecidableEq, Repr

/-- The results of a calibration run (R558, R562, R563), as measured. -/
structure CalResult where
  /-- k = 0: (channel, lane, 0, 0), the lanes on which it ran, whose residuals their reported offsets give; k = 1: (channel, delay in vernier steps, eye, sample phase in taps);
  k = 2: (128 ch + 64 r + 2 b + d, eye, delay in taps, 0); k = 3: (phase, residual in 0.1 ps, new trim, 0). -/
  rows  : List (Nat × Nat × Nat × Nat)
  /-- k = 2: the run was the full sweep of start-up (R558, R563). -/
  sweep : Bool
  deriving DecidableEq, Repr

/-- The commands of the S96, in the order of spec/opcode_table.json. -/
inductive Instr where
  -- Start-up and resets
  | powerOnReset (straps : Straps)
  | otpSensingDone (weak : List (Fin 512))
  | rootPllLock
  | bootFirmwareDone (patch : Option Patch) (flashOk : Bool) (bistFail : List Eng)
  | configToReady (dram : DramFound)
  | clockFault
  | supplyReset (m : Dom) (powerOnLevel : Bool)
  | watchdogExpiry
  | resetN (widthNs : Nat)
  | reset (port : Port) (arg : Nat)
  -- Position
  | encoderEdge (n : Fin 4) (a b : Bool) (held : Nat) (t : Nat)
  | encTimeout (n : Fin 4)
  | triggerEdge (n : Fin 8) (rising : Bool) (t : Nat)
  | ringPosSample (node seq pos : Nat) (vel : Int) (stime : Nat)
  | ringPosStale
  | ringPosPublish
  | observerSample
  | coastLimit
  | changeover (port : Port) (v : Nat)
  | srcPrimaryWrite (port : Port) (v : Nat)
  | srcSecondaryWrite (port : Port) (v : Nat)
  | encConfigWrite (port : Port) (n : Fin 4) (f : EncField) (v : Nat)
  | ringPosNodeWrite (port : Port) (v : Nat)
  -- Lines and speed
  | lineLock (c : Ch)
  | lineFire (c : Ch)
  | planningInterval
  | speedLimPeriod
  | speedLimFreqWrite (port : Port) (v : Nat)
  | buildStart (c : Ch)
  | feedFetch (c : Ch)
  | feedLineReady (c : Ch) (ecc : EccResult)
  | feedTimeout (c : Ch)
  -- Tables and takeover
  | stitchCommit (port : Port) (e : Eng)
  | shapeCommit (port : Port) (e : Eng)
  | tileCommit (port : Port) (e : Eng)
  | waveCommit (port : Port) (e : Eng)
  | foldDone (e : Eng)
  | shadowSyncDone (e : Eng) (tbl : Table)
  | takeoverCopyDone (g : Fin 4) (ok : Bool)
  | takeoverCommand (port : Port) (e : Ch)
  -- Links and head care
  | idleFrameHeader (c : Ch)
  | backchannelFrame (c : Ch) (bytes : List Byte)
  | backchannelSilent (c : Ch)
  | driveFrameOut (c : Ch)
  | driveFrameIn (c : Ch) (bytes : List Byte) (t : Nat)
  | headCareRound
  -- Nozzle health
  | probeScore (e : Eng) (parityError : Bool)
  | learnStart (port : Port) (e : Eng)
  | learnCancel (port : Port) (e : Eng)
  | learnScanEnd (e : Eng)
  | healthEnWrite (port : Port) (e : Eng) (v : Nat)
  | healthMapWrite (port : Port) (e : Eng) (ofs : Nat) (data : List Byte)
  -- Lathe
  | loopSample (l : LoopId) (ecc : EccResult) (slot : Slot)
  | logWrite
  | logEnWrite (port : Port) (v : Nat)
  | loopHandover (port : Port) (l : LoopId)
  | loopHold (port : Port) (l : LoopId)
  | loopRelease (port : Port) (l : LoopId)
  | loopEnWrite (port : Port) (l : LoopId) (v : Nat)
  | sectionWrite (port : Port) (slot : Slot) (sub ofs : Nat) (data : List Byte)
  -- Memory
  | mr4Poll (r : Rank) (rate : Nat) (aboveNominal overTemp : Bool)
  | memoryReadDone (addr : Nat) (ecc : EccResult) (mapEcc : EccResult)
  | patrolScrub (r : Rank) (frame : Fin 1820) (block : Fin 8192) (ecc : EccResult)
  | spareBringupDone (ok0 ok1 : Bool)
  | migPageSwitch (badBlocks : List (Fin 8192))
  | migrationEnd
  | map (port : Port)
  | unmap (port : Port)
  | retire (port : Port)
  | clearPoison (port : Port)
  | pdTimer (r : Rank)
  | srTimer (r : Rank)
  | selfRefreshExit (r : Rank)
  | initDone
  | sramClearDone
  | sramAccessGrant (reqs : List SramReq)
  -- DMA and ring buffers
  | dmaStart (port : Port) (n : DmaCh)
  | dmaPause (port : Port) (n : DmaCh)
  | dmaUnpause (port : Port) (n : DmaCh)
  | dmaAbort (port : Port) (n : DmaCh)
  | dmaChannelRun
  | dmaBurstDone (n : DmaCh) (ecc : EccResult)
  | busTimeout (n : DmaCh) (side : Fin 3)
  | dmaBlockComplete (n : DmaCh)
  | dmaDescriptorLoad (n : DmaCh) (ecc : EccResult)
  | dmaCommitRequest (n : DmaCh)
  | dmaDoneClear (port : Port) (v : Nat)
  | rbWrWrite (port : Port) (r : RingBuf) (v : Nat)
  | rbGeometryWrite (port : Port) (r : RingBuf) (f : GeoField) (v : Nat)
  -- Intake
  | lineSegment (p : Fin 2) (d : Datagram)
  | absentLines (p : Fin 2) (d : Datagram)
  | stagingSramWrite (p : Fin 2) (d : Datagram)
  | segmentWriteDone (r : RingBuf) (line seg : Nat)
  | rsGapTimeout (r : RingBuf) (ecc : EccResult)
  | statusDatagram (r : RingBuf)
  | arpRequest (p : Fin 2) (frame : Frame) (srcIp targetIp : Nat)
  | neighbourSolicitation (p : Fin 2) (frame : Frame) (srcIp targetIp : List Byte)
  | linkDown (p : Fin 2)
  | fecUncorr (p : Fin 2) (codewords : Nat)
  | rsEnWrite (port : Port) (r : RingBuf) (v : Nat)
  -- Darine ring
  | ringFrameForward (i : RingId) (f : RingFrame)
  | ringInjWait (i : RingId)
  | ringDictRead (req : RingReq)
  | ringDictWrite (req : RingReq)
  | announceSend
  | announceReceive (src nonce : Nat)
  | annTimeout
  | ringAbsent
  | laneDown (i : RingId)
  | ringHeal (down : Bool)
  | linkStateSend
  | linkStateReceive (i : RingId) (up : Bool)
  | delayReqSend
  | delayReqReceive (i : RingId) (src seq t2 : Nat)
  | delayRespReceive (i : RingId) (seq t2 t3 t4 : Nat)
  | syncSend
  | syncReceive (i : RingId) (src seq hops origin : Nat) (correction : Int) (ti : Nat)
  | syncLost
  -- CAN FD
  | usdoDownload (node index sub : Nat) (sizeGiven : Bool) (data : List Byte)
  | usdoUpload (node index sub len : Nat)
  | nmtStart
  | nmtStop
  | nmtEnterPreOperational
  | nmtResetNode
  | nmtResetCommunication
  | heartbeat
  | busOffRecovery
  -- Dictionary
  | lhpRead (cmd : Nat)
  | lhpWrite (cmd : Nat)
  | configWrite (port : Port) (index sub ofs : Nat) (data : List Byte)
  | summaryRead (port : Port) (ofs len : Nat)
  -- Jobs and device control
  | arm (port : Port) (arg : Nat)
  | start (port : Port) (arg : Nat)
  | pageStart (c : Ch)
  | stop (port : Port) (arg : Nat)
  | haltEntry
  | abort (port : Port) (arg : Nat)
  | release (port : Port) (arg : Nat)
  | store (port : Port) (arg : Nat)
  | storeEnd (verified : Bool)
  | restore (port : Port)
  | restoreDefaults (port : Port)
  | restoreEnd
  | shutdown (port : Port)
  | shutdownImmediate (port : Port)
  | shutdownStepEnd
  | shutdownBudget
  | countedSettingWrite (port : Port) (index sub v : Nat)
  | countedChangeDone (index sub : Nat)
  | configCrcUpdate
  -- Faults
  | faultMessage (m : FaultMsg)
  | reactionWindowEnd (src : Nat)
  | stickyClear (port : Port) (src v : Nat)
  | clearAll (port : Port) (v : Nat)
  | lostInReactionClear (port : Port) (v : Nat)
  | aliveToggle
  | dieTempRound (temp : Int) (raw : Nat)
  | dieTrip
  -- Supplies and power domains
  | supplyWarn (m : Dom) (mV : Nat)
  | supplyRecover
  | domReqWrite (port : Port) (d : Dom) (v : Nat)
  | domPowerUpDone (d : Dom) (bistFail : List Eng)
  | domFail (d : Dom)
  | domPowerDownDone (d : Dom)
  -- Fuses
  | otpProgram (port : Port) (vppPin : Bool)
  | otpSeal (port : Port) (vppPin : Bool)
  | otpReinforce (port : Port) (vppPin : Bool)
  | otpSense (port : Port)
  | otpOpComplete (failBit : Option (Fin 56)) (weak : Bool)
  -- Burnisher
  | calCmd (port : Port) (v : Nat)
  | calStart (k : Fin 4)
  | calComplete (k : Fin 4) (res : CalResult)
  -- Finup persona
  | finupRun (p : Persona)
  | finupStop (p : Persona)
  | softTrig (p : Persona)
  | resetBuf (p : Persona)
  | statusRead (p : Persona)
  | frameErrCntRead (p : Persona)
  | skipCntRead (p : Persona)
  | finupRegisterWrite (p : Persona) (w : Fin 64) (v : Nat)
  | waveDataWrite (p : Persona) (v : Nat)
  | delayWrite (p : Persona) (i : Fin 32) (v : Nat)
  | finupImageFrame (p : Persona) (frame : Frame) (payload : List Byte)
  | endOfPage (p : Persona)
  | loadReady (p : Persona)
  -- Diagnostics and link events
  | prbsSelWrite (port : Port) (v : Nat)
  | laneUp (i : RingId)
  | linkUp (p : Fin 2) (anDone : Bool)
  | driveBlockLockLost (c : Ch)
  | canBusError (tec rec : Nat)
  | lhpRegisterWrite (reg : Fin 16) (v : Nat)
  | prbsLock (errors : Nat)
  deriving DecidableEq, Repr

end Sys2Proof
end

