-- ==== Sys2Proof/Decode.lean ====
section
/-!
DEFINITION. Decoding. No row of spec/opcode_table.json gives bits: a command of this block is not a word.
-/
namespace Sys2Proof

/-- The command that a word spells by the table's bits: none, since no row has bits. -/
def decodeTableWord (_nbits _w : Nat) : Option Instr := none

end Sys2Proof
end

