-- ==== Sys2Proof/Config.lean ====
section
/-!
DEFINITION. What the spec leaves open and another standard fixes: constants with no body, so that a claim holds
whatever they are.
-/
namespace Sys2Proof.Config

/-- Which of two neighbouring words a value between them is delivered as; the n-th such choice (log entry 7). -/
opaque roundUp : Nat → Bool

/-- The direction in which a lead of A over B counts, and the level of B that counts up in step and direction mode
(R63; log entry 8). -/
opaque quadPolarity : Bool
opaque stepPolarity : Bool

/-- The state of a lane's scrambler after reset (R158, R193; log entry 11), by Head link lane; 4 and 5 are the outbound and the
inbound lane of the Drive link. -/
opaque scramblerSeed : Nat → BitVec 58

/-- Vernier steps by which the block periods of a channel's Head link lag behind TIME (R160; log entry 28). -/
opaque linkPhase : Nat → BitVec 9

/-- The bit that the check bits of a fuse word point at for a syndrome, data bits first, none when it is a double error (R531, R536;
log entry 10). -/
opaque otpLocate : Nat → Option (Fin 55)

/-- RB_TAIL of a ring buffer with a written line that no enabled channel reads, by ring buffer and RB_WR (R369; log entry
39). -/
opaque idleTail : Nat → Nat → BitVec 32

/-- SHA-256 of R557 (log entry 16). -/
opaque sha256 : List (BitVec 8) → List (BitVec 8)

/-- ECDSA verification of R557: key, signature, digest (log entry 16). -/
opaque ecdsaVerify : List (BitVec 8) → List (BitVec 8) → List (BitVec 8) → Bool

/-- A value that the spec leaves open: the n-th drawn (log entry 20). -/
opaque freeValue : Nat → BitVec 48

end Sys2Proof.Config
end

