-- ==== Sys2Proof/Machine/Bits.lean ====
section
/-!
DEFINITION. Bit fields, byte order, sign extension, integer rounding and the checksums of the spec's frames.
-/
namespace Sys2Proof.Machine

/-- Bits [hi:lo] of a number (R13). -/
def bits (x hi lo : Nat) : Nat := (x >>> lo) % 2 ^ (hi + 1 - lo)

/-- Bit i of a number. -/
def bit (x i : Nat) : Bool := x.testBit i

/-- A condition as the bit of weight 2^i. -/
def flag (b : Bool) (i : Nat) : Nat := if b then 2 ^ i else 0

/-- A number with bits [hi:lo] replaced. -/
def putBits (x hi lo v : Nat) : Nat :=
  let m := (2 ^ (hi + 1 - lo) - 1) <<< lo
  (x - (x &&& m)) ||| ((v % 2 ^ (hi + 1 - lo)) <<< lo)

/-- The number that the low `w` bits of x spell in two's complement. -/
def signed (w x : Nat) : Int :=
  let y := x % 2 ^ w
  if y < 2 ^ (w - 1) then y else (y : Int) - 2 ^ w

/-- The low `w` bits of a signed number. -/
def unsigned (w : Nat) (x : Int) : Nat := (x % (2 ^ w : Int)).toNat

/-- A list of bytes as a number, most significant byte first (R14, R446). -/
def ofBytes (l : List Byte) : Nat := l.foldl (fun a b => a * 256 + b.toNat) 0

/-- A number as n bytes, most significant byte first. -/
def toBytes : Nat → Nat → List Byte
  | 0, _ => []
  | n + 1, x => BitVec.ofNat 8 (x >>> (8 * n)) :: toBytes n x

/-- Limits of a number: `lo` at least, `hi` at most. -/
def clampInt (lo hi x : Int) : Int := if x < lo then lo else if hi < x then hi else x

/-- Saturating sum of a 32-bit counter. -/
def sat32 (x : Int) : Int := if x < 2 ^ 32 - 1 then x else 2 ^ 32 - 1

/-- x / y to the nearest integer, a tie up (R618 where it applies); y positive. -/
def divNearest (x y : Int) : Int := (2 * x + y).fdiv (2 * y)

/-- x / y rounded up, y positive. -/
def divCeil (x y : Nat) : Nat := (x + y - 1) / y

/-- Round a rational to the nearest integer, a tie up. -/
def ratNearest (x : Rat) : Int := (x + 1 / 2).floor

/-- Step one value toward a target by at most `lim`. -/
def stepToward (x target lim : Int) : Int :=
  if x < target then (if target - x ≤ lim then target else x + lim)
  else (if x - target ≤ lim then target else x - lim)

/-- One bit of the CRC-16 of polynomial 0x1021 (R159), most significant bit first. -/
def crc16Bit (c : Nat) : Nat := if c ≥ 0x8000 then ((c * 2) % 0x10000) ^^^ 0x1021 else c * 2

/-- CRC-16 of R159 over bytes: polynomial 0x1021, initial value 0xFFFF, not reflected, no final change.
PRESUMED (log entry 13), unsafe: the spec gives polynomial and initial value. -/
def crc16 (l : List Byte) : Nat :=
  l.foldl (fun c b => (List.range 8).foldl (fun c _ => crc16Bit c) (c ^^^ (b.toNat * 256))) 0xFFFF

/-- One bit of the reflected CRC-32C. -/
def crc32Bit (c : Nat) : Nat := if c % 2 = 1 then (c / 2) ^^^ 0x82F63B78 else c / 2

/-- CRC-32C of R383. -/
def crc32c (l : List Byte) : Nat :=
  (l.foldl (fun c b => (List.range 8).foldl (fun c _ => crc32Bit c) (c ^^^ b.toNat)) 0xFFFFFFFF) ^^^ 0xFFFFFFFF

/-- Bytes of ASCII text. -/
def ascii (codes : List Nat) : List Byte := codes.map (BitVec.ofNat 8)

/-- Bits of a number from bit n-1 down to bit 0. -/
def bitsDown : Nat → Nat → List Bool
  | 0, _ => []
  | n + 1, x => x.testBit n :: bitsDown n x

end Sys2Proof.Machine
end

