-- ==== Sys2Proof/Machine/Dict.lean ====
section
/-!
DEFINITION. The object dictionary as a table of rows (R445 to R448): where an entry stands, its type, its access
code, its default, its range. One row serves every unit and subindex that share a line of a chapter's table.
-/
namespace Sys2Proof.Machine

/-- Entry types (R446). `domain n` is a block of n bytes. -/
inductive Ty where
  | bool | u8 | u16 | u32 | u48 | i16 | i32 | i48 | q48 | str | domain (len : Nat)
  deriving DecidableEq, Repr

/-- Access codes (R448). -/
inductive Acc where
  | ro | rw | rws | wo | cnt
  deriving DecidableEq, Repr

/-- A row: the key (index x 256 + subindex) of its first entry, the distance of the keys of consecutive units, the
number of units, the number of consecutive subindexes of a unit, type, access, default by unit and subindex, lowest
and highest value, and what else the range column asks (R445). -/
structure Row where
  k0    : Nat
  step  : Nat
  units : Nat
  subs  : Nat
  ty    : Ty
  acc   : Acc
  dflt  : Nat → Nat → Int
  lo    : Int
  hi    : Int
  ok    : Int → Bool

/-- The key of subindex j of unit i of a row. -/
def rowKey (r : Row) (i j : Nat) : Nat := r.k0 + r.step * i + j

/-- The unit and subindex that a key names in a row. -/
def rowFind (r : Row) (k : Nat) : Option (Nat × Nat) :=
  if k < r.k0 then none
  else
    let i := (k - r.k0) / r.step
    let j := (k - r.k0) % r.step
    if i < r.units ∧ j < r.subs then some (i, j) else none

/-- Bytes of a value of a type (R446); 0 for a STR, whose length is the value's. -/
def tyBytes : Ty → Nat
  | .bool | .u8 => 1
  | .u16 | .i16 => 2
  | .u32 | .i32 => 4
  | .u48 | .i48 | .q48 => 6
  | .str => 0
  | .domain n => n

/-- A type whose values are signed. -/
def tySigned : Ty → Bool
  | .i16 | .i32 | .i48 | .q48 => true
  | _ => false

/-- Which fault sources a number names (R491). -/
def sourceExists (s : Nat) : Bool :=
  s ≤ 0x63 || (0x70 ≤ s && s ≤ 0x74) || s == 0x78 || (0x80 ≤ s && s ≤ 0x90) || s == 0xA0 || s == 0xA1 ||
    s == 0xA8 || s == 0xA9 || s == 0xB0 || s == 0xB8 || s == 0xC0 || s == 0xC8 || (0xD0 ≤ s && s ≤ 0xDC) ||
    s == 0xE0 || s == 0xF0

/-- The default class of each kind of a source, from kind 1 on (R107, R175, R227, R254, R291, R340, R375, R395,
R441, R526, R564): 0 note, 1 degrade, 2 fence, 3 stop, 4 shutdown. -/
def defaultClasses (s : Nat) : List Int :=
  if s ≤ 0x63 then [0, 2, 2, 0, 0, 3, 1, 0, 1, 3, 1, 1, 0, 1, 1]
  else if 0x70 ≤ s ∧ s ≤ 0x74 then [0, 1, 1, 1, 0, 3, 3, 3]
  else if s = 0x78 then [0, 1, 0]
  else if 0x80 ≤ s ∧ s ≤ 0x8F then [0, 0, 0, 0, 1, 2]
  else if s = 0x90 then [1, 1]
  else if s = 0xA0 ∨ s = 0xA1 then [1, 0, 0, 0, 1, 1, 0, 2]
  else if s = 0xA8 ∨ s = 0xA9 then [1, 0, 0, 1, 1, 1, 1, 2]
  else if s = 0xB0 then [0, 1, 0, 0, 3, 0, 0]
  else if s = 0xB8 then [0, 1, 0, 1, 1, 3, 0, 1, 3]
  else if s = 0xC0 then [0, 1]
  else if s = 0xC8 then [0, 1, 0, 1, 1, 0, 4, 0]
  else if s = 0xD0 then [4, 1]
  else if 0xD1 ≤ s ∧ s ≤ 0xDC then [0, 1]
  else if s = 0xE0 then [0, 3, 0]
  else if s = 0xF0 then [0, 1, 1, 3]
  else []

/-- The default class of kind k of a source. -/
def defaultClass (s k : Nat) : Int := (defaultClasses s).getD (k - 1) 0

/-- The source defines kind k, so CLASS_k of it exists (R527). -/
def kindExists (s k : Nat) : Bool := 1 ≤ k && k ≤ (defaultClasses s).length

/-- The classes that a kind may be given (R496, R564). -/
def classAllowed (s k c : Nat) : Bool :=
  let noFence := decide (s = 0xC8 ∨ (0xD0 ≤ s ∧ s ≤ 0xDC) ∨ s = 0xE0 ∨ s = 0xF0)
  let least : Nat :=
    if s ≤ 0x63 then
      if k = 2 ∨ k = 3 ∨ k = 0xA then 2 else if k = 6 ∨ k = 7 ∨ k = 9 ∨ k = 0xF then 1 else 0
    else if s = 0xB8 then if k = 4 ∨ k = 5 then 1 else if k = 6 ∨ k = 9 then 3 else 0
    else if s = 0xB0 then if k = 5 then 2 else 0
    else if 0x70 ≤ s ∧ s ≤ 0x74 then
      if k = 2 ∨ k = 3 ∨ k = 4 then 1 else if k = 6 ∨ k = 7 ∨ k = 8 then 2 else 0
    else if s = 0x78 then if k = 2 then 1 else 0
    else if 0x80 ≤ s ∧ s ≤ 0x8F then if k = 6 then 2 else 0
    else if s = 0xA0 ∨ s = 0xA1 ∨ s = 0xA8 ∨ s = 0xA9 then if k = 8 then 2 else 0
    else if s = 0xD0 then if k = 1 then 4 else 1
    else if 0xD1 ≤ s ∧ s ≤ 0xDC then if k = 2 then 1 else 0
    else if s = 0xE0 then if k = 2 then 3 else 0
    else if s = 0xC8 then if k = 7 then 4 else if k = 4 then 1 else 0
    else if s = 0xF0 then if k = 4 then 3 else 0
    else 0
  decide (least ≤ c ∧ c ≤ 4) && !(c == 2 && (noFence || (decide (s ≤ 0x63) && k == 8)))

namespace E

/-- SRC_PRIMARY, 0x2100.01 (R109). -/
def srcPrimary : Row :=
  ⟨0x210001, 256, 1, 1, .u8, .rws, fun _ _ => 0, 0, 4, fun _ => true⟩
/-- SRC_SECONDARY, 0x2100.02 (R109). -/
def srcSecondary : Row :=
  ⟨0x210002, 256, 1, 1, .u8, .rws, fun _ _ => 5, 0, 5, fun _ => true⟩
/-- SRC_ACTIVE, 0x2100.03 (R109). -/
def srcActive : Row :=
  ⟨0x210003, 256, 1, 1, .u8, .ro, fun _ _ => 0, 0, 255, fun _ => true⟩
/-- CHANGEOVER, 0x2100.04 (R109). -/
def changeover : Row :=
  ⟨0x210004, 256, 1, 1, .u8, .wo, fun _ _ => 0, 1, 1, fun _ => true⟩
/-- AUTO_CHANGE, 0x2100.05 (R109). -/
def autoChange : Row :=
  ⟨0x210005, 256, 1, 1, .bool, .rw, fun _ _ => 1, 0, 1, fun _ => true⟩
/-- LAND_MODE, 0x2100.06 (R109). -/
def landMode : Row :=
  ⟨0x210006, 256, 1, 1, .u8, .rws, fun _ _ => 0, 0, 1, fun _ => true⟩
/-- ENC_MODE, 0x2110 + n.01 (R109). -/
def encMode : Row :=
  ⟨0x211001, 256, 4, 1, .u8, .rws, fun _ _ => 1, 0, 3, fun _ => true⟩
/-- ENC_DIR, 0x2110 + n.02 (R109). -/
def encDir : Row :=
  ⟨0x211002, 256, 4, 1, .bool, .rws, fun _ _ => 0, 0, 1, fun _ => true⟩
/-- ENC_FILTER, 0x2110 + n.03 (R109). -/
def encFilter : Row :=
  ⟨0x211003, 256, 4, 1, .u8, .rws, fun _ _ => 4, 0, 15, fun _ => true⟩
/-- ENC_TIMEOUT, 0x2110 + n.04 (R109). -/
def encTimeout : Row :=
  ⟨0x211004, 256, 4, 1, .u32, .rw, fun _ _ => 100, 10, 100000, fun _ => true⟩
/-- ENC_COUNT, 0x2110 + n.05 (R109). -/
def encCount : Row :=
  ⟨0x211005, 256, 4, 1, .i48, .ro, fun _ _ => 0, -140737488355328, 140737488355327, fun _ => true⟩
/-- ENC_ERRORS, 0x2110 + n.06 (R109). -/
def encErrors : Row :=
  ⟨0x211006, 256, 4, 1, .u32, .ro, fun _ _ => 0, 0, 4294967295, fun _ => true⟩
/-- ENC_LAST_TS, 0x2110 + n.07 (R109). -/
def encLastTs : Row :=
  ⟨0x211007, 256, 4, 1, .u48, .ro, fun _ _ => 0, 0, 281474976710655, fun _ => true⟩
/-- ENC_VMIN, 0x2118.01 (R109). 0.01 is 167,772.16 units of 2^-24: the least word of the range is 167,773. -/
def encVmin : Row :=
  ⟨0x211801, 256, 1, 1, .q48, .rw, fun _ _ => 16777216, 167773, 16777216000, fun _ => true⟩
/-- TRIG_EDGE, 0x2120 + n.01 (R109). -/
def trigEdge : Row :=
  ⟨0x212001, 256, 8, 1, .u8, .rws, fun _ _ => 1, 0, 2, fun _ => true⟩
/-- TRIG_HOLDOFF, 0x2120 + n.02 (R109). -/
def trigHoldoff : Row :=
  ⟨0x212002, 256, 8, 1, .u32, .rw, fun _ _ => 256, 0, 4294967295, fun _ => true⟩
/-- TRIG_OFFSET, 0x2120 + n.03 (R109). -/
def trigOffset : Row :=
  ⟨0x212003, 256, 8, 1, .i48, .rws, fun _ _ => 0, -140737488355328, 140737488355327, fun _ => true⟩
/-- TRIG_LAST_TS, 0x2120 + n.04 (R109). -/
def trigLastTs : Row :=
  ⟨0x212004, 256, 8, 1, .u48, .ro, fun _ _ => 0, 0, 281474976710655, fun _ => true⟩
/-- TRIG_LAST_POS, 0x2120 + n.05 (R109). -/
def trigLastPos : Row :=
  ⟨0x212005, 256, 8, 1, .u48, .ro, fun _ _ => 0, 0, 281474976710655, fun _ => true⟩
/-- TRIG_REJECT, 0x2120 + n.06 (R109). -/
def trigReject : Row :=
  ⟨0x212006, 256, 8, 1, .u32, .ro, fun _ _ => 0, 0, 4294967295, fun _ => true⟩
/-- TRIG_QUEUED, 0x2120 + n.07 (R109). -/
def trigQueued : Row :=
  ⟨0x212007, 256, 8, 1, .u8, .ro, fun _ _ => 0, 0, 255, fun _ => true⟩
/-- FLIGHT_c, 0x2130.01-.60 (R109). -/
def flight : Row :=
  ⟨0x213001, 1, 96, 1, .u32, .rws, fun _ _ => 250000000, 0, 2000000000, fun _ => true⟩
/-- OFFSET_c, 0x2131.01-.60 (R109). -/
def offset : Row :=
  ⟨0x213101, 1, 96, 1, .i32, .rws, fun _ _ => 0, -2147483648, 2147483647, fun _ => true⟩
/-- LAST_LINE_c, 0x2132.01-.60 (R109). -/
def lastLine : Row :=
  ⟨0x213201, 1, 96, 1, .u32, .ro, fun _ _ => 0, 0, 4294967295, fun _ => true⟩
/-- SKIPPED_c, 0x2133.01-.60 (R109). -/
def skipped : Row :=
  ⟨0x213301, 1, 96, 1, .u32, .ro, fun _ _ => 0, 0, 4294967295, fun _ => true⟩
/-- LINE_PITCH, 0x2140.01 (R109). -/
def linePitch : Row :=
  ⟨0x214001, 256, 1, 1, .q48, .rws, fun _ _ => 167772160, 65536, 140737488355328, fun _ => true⟩
/-- LOCK_LEAD, 0x2140.02 (R109). -/
def lockLead : Row :=
  ⟨0x214002, 256, 1, 1, .u32, .rws, fun _ _ => 4000, 1000, 20000, fun _ => true⟩
/-- MAX_FIRE_RATE, 0x2140.03 (R109). -/
def maxFireRate : Row :=
  ⟨0x214003, 256, 1, 1, .u32, .rws, fun _ _ => 120000, 1000, 120000, fun _ => true⟩
/-- BACKLASH_WIN, 0x2150.01 (R109). -/
def backlashWin : Row :=
  ⟨0x215001, 256, 1, 1, .u8, .rw, fun _ _ => 2, 0, 255, fun _ => true⟩
/-- HWM, 0x2150.02 (R109). -/
def hwm : Row :=
  ⟨0x215002, 256, 1, 1, .u48, .ro, fun _ _ => 0, 0, 281474976710655, fun _ => true⟩
/-- REVERSE_COUNT, 0x2150.03 (R109). -/
def reverseCount : Row :=
  ⟨0x215003, 256, 1, 1, .u32, .ro, fun _ _ => 0, 0, 4294967295, fun _ => true⟩
/-- COAST_MAX, 0x2160.01 (R109). -/
def coastMax : Row :=
  ⟨0x216001, 256, 1, 1, .u32, .rw, fun _ _ => 50000, 0, 1000000, fun _ => true⟩
/-- HANDOVER_TOL, 0x2160.02 (R109). -/
def handoverTol : Row :=
  ⟨0x216002, 256, 1, 1, .u32, .rw, fun _ _ => 256, 0, 16777216, fun _ => true⟩
/-- HANDOVER_SLEW, 0x2160.03 (R109). -/
def handoverSlew : Row :=
  ⟨0x216003, 256, 1, 1, .u32, .rw, fun _ _ => 16, 1, 4096, fun _ => true⟩
/-- COAST_ELAPSED, 0x2160.04 (R109). -/
def coastElapsed : Row :=
  ⟨0x216004, 256, 1, 1, .u32, .ro, fun _ _ => 0, 0, 4294967295, fun _ => true⟩
/-- POS_EST, 0x2170.01 (R109). -/
def posEst : Row :=
  ⟨0x217001, 256, 1, 1, .u48, .ro, fun _ _ => 0, 0, 281474976710655, fun _ => true⟩
/-- VEL_EST, 0x2170.02 (R109). -/
def velEst : Row :=
  ⟨0x217002, 256, 1, 1, .q48, .ro, fun _ _ => 0, -140737488355328, 140737488355327, fun _ => true⟩
/-- ACC_EST, 0x2170.03 (R109). -/
def accEst : Row :=
  ⟨0x217003, 256, 1, 1, .q48, .ro, fun _ _ => 0, -140737488355328, 140737488355327, fun _ => true⟩
/-- SAMPLE_TIME, 0x2170.04 (R109). -/
def sampleTime : Row :=
  ⟨0x217004, 256, 1, 1, .u48, .ro, fun _ _ => 0, 0, 281474976710655, fun _ => true⟩
/-- TIME_NOW, 0x2170.05 (R109). -/
def timeNow : Row :=
  ⟨0x217005, 256, 1, 1, .u48, .ro, fun _ _ => 0, 0, 281474976710655, fun _ => true⟩
/-- SKIPPED_TOTAL, 0x2178.01 (R109). -/
def skippedTotal : Row :=
  ⟨0x217801, 256, 1, 1, .u48, .ro, fun _ _ => 0, 0, 281474976710655, fun _ => true⟩
/-- RING_POS_NODE, 0x2180.01 (R109). -/
def ringPosNode : Row :=
  ⟨0x218001, 256, 1, 1, .u16, .rws, fun _ _ => 0, 0, 65535, fun _ => true⟩
/-- RING_POS_TIMEOUT, 0x2180.02 (R109). -/
def ringPosTimeout : Row :=
  ⟨0x218002, 256, 1, 1, .u32, .rw, fun _ _ => 100, 10, 10000, fun _ => true⟩
/-- RING_POS_PUBLISH, 0x2180.03 (R109). -/
def ringPosPublish : Row :=
  ⟨0x218003, 256, 1, 1, .bool, .rws, fun _ _ => 0, 0, 1, fun _ => true⟩
/-- RING_POS_RATE, 0x2180.04 (R109). -/
def ringPosRate : Row :=
  ⟨0x218004, 256, 1, 1, .u32, .rws, fun _ _ => 100, 10, 1000, fun _ => true⟩
/-- SPEED_REQ, 0x2190.01 (R109). -/
def speedReq : Row :=
  ⟨0x219001, 256, 1, 1, .u32, .ro, fun _ _ => 0, 0, 4294967295, fun _ => true⟩
/-- SPEED_LIM_FULL, 0x2190.02 (R109). -/
def speedLimFull : Row :=
  ⟨0x219002, 256, 1, 1, .u32, .rw, fun _ _ => 150000, 1000, 1000000, fun _ => true⟩
/-- SPEED_LIM_FREQ, 0x2190.03 (R109). -/
def speedLimFreq : Row :=
  ⟨0x219003, 256, 1, 1, .u32, .rws, fun _ _ => 10000, 1000, 100000, fun _ => true⟩
/-- SPEED_LIM_EN, 0x2190.04 (R109). -/
def speedLimEn : Row :=
  ⟨0x219004, 256, 1, 1, .bool, .rw, fun _ _ => 1, 0, 1, fun _ => true⟩
/-- SPEED_BCAST, 0x2190.05 (R109). -/
def speedBcast : Row :=
  ⟨0x219005, 256, 1, 1, .bool, .rw, fun _ _ => 1, 0, 1, fun _ => true⟩
/-- POS_STATUS, 0x21F0.01 (R109). -/
def posStatus : Row :=
  ⟨0x21F001, 256, 1, 1, .u16, .ro, fun _ _ => 64, 0, 65535, fun _ => true⟩

/-- ENG_STATE, E + 0x00.01 (R176). -/
def engState : Row :=
  ⟨0x300001, 8192, 100, 1, .u8, .ro, fun _ _ => 0, 0, 255, fun _ => true⟩
/-- CHANNEL, E + 0x00.02 (R176). -/
def channel : Row :=
  ⟨0x300002, 8192, 100, 1, .u8, .ro, fun e _ => if e < 96 then e else 0xFF, 0, 255, fun _ => true⟩
/-- ENG_ENABLE, E + 0x00.03 (R176). -/
def engEnable : Row :=
  ⟨0x300003, 8192, 100, 1, .bool, .rws, fun _ _ => 1, 0, 1, fun _ => true⟩
/-- CH_DISABLE, E + 0x00.04 (R176). -/
def chDisable : Row :=
  ⟨0x300004, 8192, 100, 1, .bool, .cnt, fun _ _ => 0, 0, 1, fun _ => true⟩
/-- CH_DISABLE_LEFT, E + 0x00.05 (R176). -/
def chDisableLeft : Row :=
  ⟨0x300005, 8192, 100, 1, .u8, .ro, fun _ _ => 1, 0, 255, fun _ => true⟩
/-- NOZZLES, E + 0x01.01 (R176). -/
def nozzles : Row :=
  ⟨0x300101, 8192, 100, 1, .u16, .rws, fun _ _ => 12288, 16, 12288, fun v => v % 16 == 0⟩
/-- LINE_COLS, E + 0x01.02 (R176). -/
def lineCols : Row :=
  ⟨0x300102, 8192, 100, 1, .u16, .rws, fun _ _ => 12288, 1, 16383, fun _ => true⟩
/-- DROP_BITS, E + 0x01.03 (R176). -/
def dropBits : Row :=
  ⟨0x300103, 8192, 100, 1, .u8, .rws, fun _ _ => 2, 1, 4, fun v => v == 1 || v == 2 || v == 4⟩
/-- WIN_START, E + 0x01.04 (R176). -/
def winStart : Row :=
  ⟨0x300104, 8192, 100, 1, .u32, .rws, fun _ _ => 0, 0, 1048575, fun _ => true⟩
/-- NB_STRIDE, E + 0x01.05 (R176). -/
def nbStride : Row :=
  ⟨0x300105, 8192, 100, 1, .u8, .rws, fun _ _ => 1, 1, 16, fun _ => true⟩
/-- NB_SPAN, E + 0x01.06 (R176). -/
def nbSpan : Row :=
  ⟨0x300106, 8192, 100, 1, .u8, .rws, fun _ _ => 2, 1, 2, fun _ => true⟩
/-- FEED_AHEAD, E + 0x02.01 (R176). -/
def feedAhead : Row :=
  ⟨0x300201, 8192, 100, 1, .u8, .rws, fun _ _ => 4, 1, 8, fun _ => true⟩
/-- DAMAGED_FILL, E + 0x02.02 (R176). -/
def damagedFill : Row :=
  ⟨0x300202, 8192, 100, 1, .u8, .rw, fun _ _ => 0, 0, 1, fun _ => true⟩
/-- LB_READY, E + 0x02.03 (R176). -/
def lbReady : Row :=
  ⟨0x300203, 8192, 100, 1, .u8, .ro, fun _ _ => 0, 0, 255, fun _ => true⟩
/-- LATE_RUN_MAX, E + 0x02.04 (R176). -/
def lateRunMax : Row :=
  ⟨0x300204, 8192, 100, 1, .u16, .rw, fun _ _ => 16, 1, 65535, fun _ => true⟩
/-- TILE_W, E + 0x03.01 (R176). -/
def tileW : Row :=
  ⟨0x300301, 8192, 100, 1, .u8, .rws, fun _ _ => 64, 8, 128, fun v => [8, 16, 32, 64, 128].contains v⟩
/-- TILE_H, E + 0x03.02 (R176). -/
def tileH : Row :=
  ⟨0x300302, 8192, 100, 1, .u8, .rws, fun _ _ => 64, 8, 64, fun v => [8, 16, 32, 64].contains v⟩
/-- TILE_YOFF, E + 0x03.03 (R176). -/
def tileYoff : Row :=
  ⟨0x300303, 8192, 100, 1, .u16, .rws, fun _ _ => 0, 0, 63, fun _ => true⟩
/-- TABLE_COMMIT, E + 0x04.01 (R176). -/
def tableCommit : Row :=
  ⟨0x300401, 8192, 100, 1, .u8, .wo, fun _ _ => 0, 0, 15, fun _ => true⟩
/-- TABLE_STATUS, E + 0x04.02 (R176). -/
def tableStatus : Row :=
  ⟨0x300402, 8192, 100, 1, .u16, .ro, fun _ _ => 0, 0, 65535, fun _ => true⟩
/-- STITCH_CRC, E + 0x04.03 (R176): 0 before the first commit, takeover or record (DESIGN CHOICE, log entry 59, unsafe). -/
def stitchCrc : Row :=
  ⟨0x300403, 8192, 100, 1, .u32, .ro, fun _ _ => 0, 0, 4294967295, fun _ => true⟩
/-- COMMIT_LINE, E + 0x04.04 (R176). -/
def commitLine : Row :=
  ⟨0x300404, 8192, 100, 1, .u32, .ro, fun _ _ => 0, 0, 4294967295, fun _ => true⟩
/-- HL_RATE, E + 0x05.01 (R176). -/
def hlRate : Row :=
  ⟨0x300501, 8192, 100, 1, .u8, .rws, fun _ _ => 0, 0, 2, fun _ => true⟩
/-- HL_MODE, E + 0x05.02 (R176). -/
def hlMode : Row :=
  ⟨0x300502, 8192, 100, 1, .u8, .ro, fun _ _ => 0, 0, 255, fun _ => true⟩
/-- HL_STATUS, E + 0x05.03 (R176). -/
def hlStatus : Row :=
  ⟨0x300503, 8192, 100, 1, .u16, .ro, fun _ _ => 512, 0, 65535, fun _ => true⟩
/-- HL_SER_TIME, E + 0x05.04 (R176). -/
def hlSerTime : Row :=
  ⟨0x300504, 8192, 100, 1, .u32, .ro, fun _ _ => 8298, 0, 4294967295, fun _ => true⟩
/-- LINES_FIRED, E + 0x06.01 (R176). -/
def linesFired : Row :=
  ⟨0x300601, 8192, 100, 1, .u48, .ro, fun _ _ => 0, 0, 281474976710655, fun _ => true⟩
/-- LATE_LINES, E + 0x06.02 (R176). -/
def lateLines : Row :=
  ⟨0x300602, 8192, 100, 1, .u32, .ro, fun _ _ => 0, 0, 4294967295, fun _ => true⟩
/-- DAMAGED_LINES, E + 0x06.03 (R176). -/
def damagedLines : Row :=
  ⟨0x300603, 8192, 100, 1, .u32, .ro, fun _ _ => 0, 0, 4294967295, fun _ => true⟩
/-- TAKEOVER_LOST, E + 0x06.04 (R176). -/
def takeoverLost : Row :=
  ⟨0x300604, 8192, 100, 1, .u32, .ro, fun _ _ => 0, 0, 4294967295, fun _ => true⟩
/-- SERVED_BY, E + 0x07.01 (R176). -/
def servedBy : Row :=
  ⟨0x300701, 8192, 100, 1, .u8, .ro, fun e _ => e, 0, 255, fun _ => true⟩
/-- TAKEOVER, E + 0x07.02 (R176). -/
def takeover : Row :=
  ⟨0x300702, 8192, 100, 1, .u8, .wo, fun _ _ => 0, 1, 1, fun _ => true⟩
/-- SHAPE_SHADOW, E + 0x10.01-.40 (R176). -/
def shapeShadow : Row :=
  ⟨0x301001, 8192, 100, 64, .u8, .rw, fun _ _ => 0, 0, 255, fun _ => true⟩
/-- SHAPE_ACTIVE, E + 0x11.01-.40 (R176). -/
def shapeActive : Row :=
  ⟨0x301101, 8192, 100, 64, .u8, .ro, fun _ _ => 0, 0, 255, fun _ => true⟩
/-- STITCH_SHADOW, 0x4100 + e.01 (R179). -/
def stitchShadow : Row :=
  ⟨0x410001, 256, 100, 1, (.domain 73728), .rw, fun _ _ => 0, 0, 0, fun _ => true⟩
/-- STITCH_ACTIVE, 0x4100 + e.02 (R179). -/
def stitchActive : Row :=
  ⟨0x410002, 256, 100, 1, (.domain 73728), .ro, fun _ _ => 0, 0, 0, fun _ => true⟩
/-- TILE_SHADOW, 0x4300 + e.01 (R179). -/
def tileShadow : Row :=
  ⟨0x430001, 256, 100, 1, (.domain 2048), .rw, fun _ _ => 0, 0, 0, fun _ => true⟩
/-- TILE_ACTIVE, 0x4300 + e.02 (R179). -/
def tileActive : Row :=
  ⟨0x430002, 256, 100, 1, (.domain 2048), .ro, fun _ _ => 0, 0, 0, fun _ => true⟩

/-- GIRTH_QUOTA, 0x2300.01 (R229). -/
def girthQuota : Row :=
  ⟨0x230001, 256, 1, 1, .u32, .rw, fun _ _ => 0, 0, 1000000, fun _ => true⟩
/-- GIRTH_POWER, 0x2300.02 (R229). -/
def girthPower : Row :=
  ⟨0x230002, 256, 1, 1, .u32, .ro, fun _ _ => 0, 0, 4294967295, fun _ => true⟩
/-- GIRTH_TAU, 0x2300.03 (R229). -/
def girthTau : Row :=
  ⟨0x230003, 256, 1, 1, .u16, .rw, fun _ _ => 10, 1, 1000, fun _ => true⟩
/-- GIRTH_OVER_MS, 0x2300.04 (R229). -/
def girthOverMs : Row :=
  ⟨0x230004, 256, 1, 1, .u32, .ro, fun _ _ => 0, 0, 4294967295, fun _ => true⟩
/-- E_AVG, 0x2300.05 (R229). -/
def eAvg : Row :=
  ⟨0x230005, 256, 1, 1, .u32, .ro, fun _ _ => 0, 0, 4294967295, fun _ => true⟩
/-- GIRTH_ENERGY, 0x2300.06 (R229). -/
def girthEnergy : Row :=
  ⟨0x230006, 256, 1, 1, .u48, .ro, fun _ _ => 0, 0, 281474976710655, fun _ => true⟩
/-- SPEED_MAX, 0x2310.01 (R229). -/
def speedMax : Row :=
  ⟨0x231001, 256, 1, 1, .u32, .rw, fun _ _ => 1920000, 0, 1920000, fun _ => true⟩
/-- SPEED_FLOOR, 0x2310.02 (R229). -/
def speedFloor : Row :=
  ⟨0x231002, 256, 1, 1, .u32, .rw, fun _ _ => 0, 0, 1920000, fun _ => true⟩
/-- DECEL_LIM, 0x2310.03 (R229). -/
def decelLim : Row :=
  ⟨0x231003, 256, 1, 1, .u32, .rw, fun _ _ => 100000, 1000, 10000000, fun _ => true⟩
/-- ACCEL_LIM, 0x2310.04 (R229). -/
def accelLim : Row :=
  ⟨0x231004, 256, 1, 1, .u32, .rw, fun _ _ => 100000, 1000, 10000000, fun _ => true⟩
/-- BUF_RESERVE, 0x2310.05 (R229). -/
def bufReserve : Row :=
  ⟨0x231005, 256, 1, 1, .u32, .rw, fun _ _ => 1024, 0, 1000000, fun _ => true⟩
/-- R_QUOTA, 0x2310.06 (R229). -/
def rQuota : Row :=
  ⟨0x231006, 256, 1, 1, .u32, .ro, fun _ _ => 4294967295, 0, 4294967295, fun _ => true⟩
/-- R_BUF, 0x2310.07 (R229). -/
def rBuf : Row :=
  ⟨0x231007, 256, 1, 1, .u32, .ro, fun _ _ => 0, 0, 4294967295, fun _ => true⟩
/-- SPEED_TARGET, 0x2310.08 (R229). -/
def speedTarget : Row :=
  ⟨0x231008, 256, 1, 1, .u32, .ro, fun _ _ => 0, 0, 4294967295, fun _ => true⟩
/-- LIMITER, 0x2310.09 (R229). -/
def limiter : Row :=
  ⟨0x231009, 256, 1, 1, .u8, .ro, fun _ _ => 5, 0, 255, fun _ => true⟩
/-- LINES_AHEAD, 0x2310.0A (R229). -/
def linesAhead : Row :=
  ⟨0x23100A, 256, 1, 1, .u32, .ro, fun _ _ => 0, 0, 4294967295, fun _ => true⟩
/-- HEAD_TEMP_c, 0x2320.01-.60 (R229). -/
def headTemp : Row :=
  ⟨0x232001, 1, 96, 1, .i16, .ro, fun _ _ => 0, -32768, 32767, fun _ => true⟩
/-- HEAD_RAW_c, 0x2321.01-.60 (R229). -/
def headRaw : Row :=
  ⟨0x232101, 1, 96, 1, .i16, .ro, fun _ _ => 0, -32768, 32767, fun _ => true⟩
/-- TEMP_SRC_c, 0x2322.01-.60 (R229). -/
def tempSrc : Row :=
  ⟨0x232201, 1, 96, 1, .u8, .ro, fun _ _ => 2, 0, 255, fun _ => true⟩
/-- PAUSED_c, 0x2323.01-.60 (R229). -/
def paused : Row :=
  ⟨0x232301, 1, 96, 1, .bool, .ro, fun _ _ => 0, 0, 1, fun _ => true⟩
/-- OT_LINES_c, 0x2324.01-.60 (R229). -/
def otLines : Row :=
  ⟨0x232401, 1, 96, 1, .u32, .ro, fun _ _ => 0, 0, 4294967295, fun _ => true⟩
/-- NB_A_c, 0x2325.01-.60 (R229). -/
def nbA : Row :=
  ⟨0x232501, 1, 96, 1, .u8, .rw, fun c _ => if c = 0 then 0xFF else c - 1, 0, 255, fun v => v == 255 || v ≤ 95⟩
/-- NB_B_c, 0x2326.01-.60 (R229). -/
def nbB : Row :=
  ⟨0x232601, 1, 96, 1, .u8, .rw, fun c _ => if c = 95 then 0xFF else c + 1, 0, 255, fun v => v == 255 || v ≤ 95⟩
/-- HEATER_SET_c, 0x2327.01-.60 (R229). -/
def heaterSet : Row :=
  ⟨0x232701, 1, 96, 1, .i16, .rw, fun _ _ => 0, 0, 1888, fun v => v == 0 || 320 ≤ v⟩
/-- HEATER_DUTY_c, 0x2328.01-.60 (R229). -/
def heaterDuty : Row :=
  ⟨0x232801, 1, 96, 1, .u8, .ro, fun _ _ => 0, 0, 255, fun _ => true⟩
/-- HEATER_I_c, 0x2329.01-.60 (R229). -/
def heaterI : Row :=
  ⟨0x232901, 1, 96, 1, .u16, .ro, fun _ _ => 0, 0, 65535, fun _ => true⟩
/-- STRETCH_c, 0x232A.01-.60 (R229). -/
def stretch : Row :=
  ⟨0x232A01, 1, 96, 1, .u16, .ro, fun _ _ => 4096, 0, 65535, fun _ => true⟩
/-- GAIN_c, 0x232B.01-.60 (R229). -/
def gain : Row :=
  ⟨0x232B01, 1, 96, 1, .u32, .ro, fun _ _ => 65536, 0, 4294967295, fun _ => true⟩
/-- AMP_SCALE_c, 0x232C.01-.60 (R229). -/
def ampScale : Row :=
  ⟨0x232C01, 1, 96, 1, .u32, .rw, fun _ _ => 65536, 32768, 98304, fun _ => true⟩
/-- V_SUP_c, 0x232D.01-.60 (R229). -/
def vSup : Row :=
  ⟨0x232D01, 1, 96, 1, .u16, .ro, fun _ _ => 0, 0, 65535, fun _ => true⟩
/-- DRIVE_SKEW_c, 0x232E.01-.60 (R229). -/
def driveSkew : Row :=
  ⟨0x232E01, 1, 96, 1, .i16, .rws, fun _ _ => 0, -2048, 2047, fun _ => true⟩
/-- DRIVE_STATUS_c, 0x232F.01-.60 (R229). -/
def driveStatus : Row :=
  ⟨0x232F01, 1, 96, 1, .u16, .ro, fun _ _ => 0, 0, 65535, fun _ => true⟩
/-- E_LINE_c, 0x2330.01-.60 (R229). -/
def eLine : Row :=
  ⟨0x233001, 1, 96, 1, .u32, .ro, fun _ _ => 0, 0, 4294967295, fun _ => true⟩
/-- DRIVE_RX_DELAY_c, 0x2331.01-.60 (R229). -/
def driveRxDelay : Row :=
  ⟨0x233101, 1, 96, 1, .u32, .ro, fun _ _ => 0, 0, 4294967295, fun _ => true⟩
/-- HEAD_V_CEIL, 0x2340.01 (R229). -/
def headVCeil : Row :=
  ⟨0x234001, 256, 1, 1, .u16, .cnt, fun _ _ => 0, 0, 1000, fun _ => true⟩
/-- HEAD_V_CEIL_LEFT, 0x2340.02 (R229). -/
def headVCeilLeft : Row :=
  ⟨0x234002, 256, 1, 1, .u8, .ro, fun _ _ => 8, 0, 255, fun _ => true⟩
/-- C_NOZ, 0x2350.01 (R229). -/
def cNoz : Row :=
  ⟨0x235001, 256, 1, 1, .u16, .rw, fun _ _ => 40, 1, 10000, fun _ => true⟩
/-- V_OUT_LSB, 0x2350.02 (R229). -/
def vOutLsb : Row :=
  ⟨0x235002, 256, 1, 1, .u16, .rws, fun _ _ => 1500, 1, 10000, fun _ => true⟩
/-- AMP_V_LSB, 0x2350.03 (R229). -/
def ampVLsb : Row :=
  ⟨0x235003, 256, 1, 1, .u16, .rws, fun _ _ => 6000, 1, 65535, fun _ => true⟩
/-- AMP_I_LSB, 0x2350.04 (R229). -/
def ampILsb : Row :=
  ⟨0x235004, 256, 1, 1, .u16, .rws, fun _ _ => 500, 1, 65535, fun _ => true⟩
/-- GAIN_MIN, 0x2350.05 (R229). -/
def gainMin : Row :=
  ⟨0x235005, 256, 1, 1, .u32, .rw, fun _ _ => 32768, 16384, 65536, fun _ => true⟩
/-- GAIN_MAX, 0x2350.06 (R229). -/
def gainMax : Row :=
  ⟨0x235006, 256, 1, 1, .u32, .rw, fun _ _ => 98304, 65536, 131072, fun _ => true⟩
/-- OT_THRESH, 0x2360.01 (R229). -/
def otThresh : Row :=
  ⟨0x236001, 256, 1, 1, .i16, .rw, fun _ _ => 960, 320, 1920, fun _ => true⟩
/-- PREHEAT_DUTY, 0x2360.02 (R229). -/
def preheatDuty : Row :=
  ⟨0x236002, 256, 1, 1, .u8, .rw, fun _ _ => 128, 0, 255, fun _ => true⟩
/-- PREHEAT_BAND, 0x2360.03 (R229). -/
def preheatBand : Row :=
  ⟨0x236003, 256, 1, 1, .u16, .rw, fun _ _ => 48, 0, 320, fun _ => true⟩
/-- WAVE_SHADOW, 0x4000 + e.01 (R231). -/
def waveShadow : Row :=
  ⟨0x400001, 256, 100, 1, (.domain 8224), .rw, fun _ _ => 0, 0, 0, fun _ => true⟩
/-- WAVE_ACTIVE, 0x4000 + e.02 (R231). -/
def waveActive : Row :=
  ⟨0x400002, 256, 100, 1, (.domain 8224), .ro, fun _ _ => 0, 0, 0, fun _ => true⟩
/-- WAVE_CHECK, 0x4000 + e.03 (R231). -/
def waveCheck : Row :=
  ⟨0x400003, 256, 100, 1, .u8, .ro, fun _ _ => 0, 0, 255, fun _ => true⟩
/-- T_REF, 0x4000 + e.04 (R231). -/
def tRef : Row :=
  ⟨0x400004, 256, 100, 1, .i16, .rws, fun _ _ => 720, -320, 1920, fun _ => true⟩
/-- KT, 0x4000 + e.05 (R231). -/
def waveKt : Row :=
  ⟨0x400005, 256, 100, 1, .i16, .rws, fun _ _ => 0, -32768, 32767, fun _ => true⟩
/-- V_REF, 0x4000 + e.06 (R231). -/
def vRef : Row :=
  ⟨0x400006, 256, 100, 1, .u16, .rws, fun _ _ => 3200, 100, 65535, fun _ => true⟩
/-- KV, 0x4000 + e.07 (R231). -/
def waveKv : Row :=
  ⟨0x400007, 256, 100, 1, .i16, .rws, fun _ _ => 0, -32768, 32767, fun _ => true⟩
/-- SWING_i, 0x4000 + e.10-.18 (R231). -/
def swing : Row :=
  ⟨0x400010, 256, 100, 9, .u32, .ro, fun _ _ => 0, 0, 4294967295, fun _ => true⟩

/-- HEALTH_MAP, 0x4200 + e.01 (R256). -/
def healthMap : Row :=
  ⟨0x420001, 256, 100, 1, (.domain 73728), .rw, fun _ _ => 0, 0, 0, fun _ => true⟩
/-- HEALTH_EN, 0x4200 + e.02 (R256). -/
def healthEn : Row :=
  ⟨0x420002, 256, 100, 1, .bool, .rw, fun _ _ => 0, 0, 1, fun _ => true⟩
/-- TEMPLATE_0, 0x4200 + e.03 (R256). -/
def template0 : Row :=
  ⟨0x420003, 256, 100, 1, (.domain 128), .rw, fun _ _ => 0, 0, 0, fun _ => true⟩
/-- TEMPLATE_1, 0x4200 + e.04 (R256). -/
def template1 : Row :=
  ⟨0x420004, 256, 100, 1, (.domain 128), .rw, fun _ _ => 0, 0, 0, fun _ => true⟩
/-- TEMPLATE_VALID, 0x4200 + e.05 (R256). -/
def templateValid : Row :=
  ⟨0x420005, 256, 100, 1, .u8, .ro, fun _ _ => 0, 0, 255, fun _ => true⟩
/-- LEARN_RATE, 0x4200 + e.06 (R256). -/
def learnRate : Row :=
  ⟨0x420006, 256, 100, 1, .u32, .rw, fun _ _ => 0, 0, 120000, fun _ => true⟩
/-- PROBE_LEARN, 0x4200 + e.07 (R256). -/
def probeLearn : Row :=
  ⟨0x420007, 256, 100, 1, .u8, .wo, fun _ _ => 0, 1, 2, fun _ => true⟩
/-- LEARN_STATUS, 0x4200 + e.08 (R256). -/
def learnStatus : Row :=
  ⟨0x420008, 256, 100, 1, .u8, .ro, fun _ _ => 0, 0, 255, fun _ => true⟩
/-- PROBE_TAPS, 0x4200 + e.09 (R256). -/
def probeTaps : Row :=
  ⟨0x420009, 256, 100, 1, .u8, .rws, fun _ _ => 48, 16, 64, fun _ => true⟩
/-- PROBE_DIV, 0x4200 + e.0A (R256). -/
def probeDiv : Row :=
  ⟨0x42000A, 256, 100, 1, .u8, .rw, fun _ _ => 1, 1, 255, fun _ => true⟩
/-- SCORE_GOOD, 0x4200 + e.0B (R256). -/
def scoreGood : Row :=
  ⟨0x42000B, 256, 100, 1, .u8, .rw, fun _ _ => 160, 1, 255, fun _ => true⟩
/-- SCORE_FAIL, 0x4200 + e.0C (R256). -/
def scoreFail : Row :=
  ⟨0x42000C, 256, 100, 1, .u8, .rw, fun _ _ => 96, 1, 255, fun _ => true⟩
/-- A_TOL, 0x4200 + e.0D (R256). -/
def aTol : Row :=
  ⟨0x42000D, 256, 100, 1, .u8, .rw, fun _ _ => 128, 16, 255, fun _ => true⟩
/-- PROBE_RATE_TOL, 0x4200 + e.0E (R256). -/
def probeRateTol : Row :=
  ⟨0x42000E, 256, 100, 1, .u8, .rw, fun _ _ => 40, 5, 100, fun _ => true⟩
/-- SCAN_NEXT, 0x4200 + e.0F (R256). -/
def scanNext : Row :=
  ⟨0x42000F, 256, 100, 1, .u16, .ro, fun _ _ => 0, 0, 65535, fun _ => true⟩
/-- SCAN_COUNT, 0x4200 + e.10 (R256). -/
def scanCount : Row :=
  ⟨0x420010, 256, 100, 1, .u32, .ro, fun _ _ => 0, 0, 4294967295, fun _ => true⟩
/-- LAST_SCAN_TIME, 0x4200 + e.11 (R256). -/
def lastScanTime : Row :=
  ⟨0x420011, 256, 100, 1, .u32, .ro, fun _ _ => 0, 0, 4294967295, fun _ => true⟩
/-- FAILED_COUNT, 0x4200 + e.12 (R256). -/
def failedCount : Row :=
  ⟨0x420012, 256, 100, 1, .u16, .ro, fun _ _ => 0, 0, 65535, fun _ => true⟩
/-- UNCOVERED_COUNT, 0x4200 + e.13 (R256). -/
def uncoveredCount : Row :=
  ⟨0x420013, 256, 100, 1, .u16, .ro, fun _ _ => 0, 0, 65535, fun _ => true⟩
/-- WEAK_NOW, 0x4200 + e.14 (R256). -/
def weakNow : Row :=
  ⟨0x420014, 256, 100, 1, .u16, .ro, fun _ _ => 0, 0, 65535, fun _ => true⟩
/-- PROBES_INVALID, 0x4200 + e.15 (R256). -/
def probesInvalid : Row :=
  ⟨0x420015, 256, 100, 1, .u32, .ro, fun _ _ => 0, 0, 4294967295, fun _ => true⟩
/-- LAST_FAILED, 0x4200 + e.16 (R256). -/
def lastFailed : Row :=
  ⟨0x420016, 256, 100, 1, .u16, .ro, fun _ _ => 0, 0, 65535, fun _ => true⟩
/-- HEALTH_STATUS, 0x4200 + e.17 (R256). -/
def healthStatus : Row :=
  ⟨0x420017, 256, 100, 1, .u16, .ro, fun _ _ => 0, 0, 65535, fun _ => true⟩

/-- LATHE_LOAD, 0x2200.01 (R292). -/
def latheLoad : Row :=
  ⟨0x220001, 256, 1, 1, .u32, .ro, fun _ _ => 193, 0, 4294967295, fun _ => true⟩
/-- LATHE_LOAD_MAX, 0x2200.02 (R292). -/
def latheLoadMax : Row :=
  ⟨0x220002, 256, 1, 1, .u32, .rw, fun _ _ => 90000, 10000, 95000, fun _ => true⟩
/-- OVERRUNS, 0x2200.03 (R292). -/
def overruns : Row :=
  ⟨0x220003, 256, 1, 1, .u32, .ro, fun _ _ => 0, 0, 4294967295, fun _ => true⟩
/-- KX, 0x2201.01 (R292). -/
def kx : Row :=
  ⟨0x220101, 256, 1, 1, .q48, .rw, fun _ _ => 549755813888, 0, 1099511627776, fun _ => true⟩
/-- KV, 0x2201.02 (R292). -/
def kv : Row :=
  ⟨0x220102, 256, 1, 1, .q48, .rw, fun _ _ => 137438953472, 0, 1099511627776, fun _ => true⟩
/-- KA, 0x2201.03 (R292). -/
def ka : Row :=
  ⟨0x220103, 256, 1, 1, .q48, .rw, fun _ _ => 8589934592, 0, 274877906944, fun _ => true⟩
/-- LOG_EN, 0x2202.01 (R292). -/
def logEn : Row :=
  ⟨0x220201, 256, 1, 1, .bool, .rw, fun _ _ => 0, 0, 1, fun _ => true⟩
/-- LOG_BASE, 0x2202.02 (R292). -/
def logBase : Row :=
  ⟨0x220202, 256, 1, 1, .u48, .rws, fun _ _ => 140737488355328, 0, 281474976710655, fun v => v % 16 == 0⟩
/-- LOG_SIZE, 0x2202.03 (R292). -/
def logSize : Row :=
  ⟨0x220203, 256, 1, 1, .u32, .rws, fun _ _ => 65536, 1024, 1073741824, fun v => v % 16 == 0⟩
/-- LOG_DIV, 0x2202.04 (R292). -/
def logDiv : Row :=
  ⟨0x220204, 256, 1, 1, .u16, .rw, fun _ _ => 1, 1, 65535, fun _ => true⟩
/-- LOG_WR, 0x2202.05 (R292). -/
def logWr : Row :=
  ⟨0x220205, 256, 1, 1, .u48, .ro, fun _ _ => 0, 0, 281474976710655, fun _ => true⟩
/-- LOG_DROPPED, 0x2202.06 (R292). -/
def logDropped : Row :=
  ⟨0x220206, 256, 1, 1, .u32, .ro, fun _ _ => 0, 0, 4294967295, fun _ => true⟩
/-- LOOP_EN, 0x2210 + l.01 (R293). -/
def loopEn : Row :=
  ⟨0x221001, 256, 240, 1, .bool, .rw, fun l _ => if l ≤ 1 ∨ (98 ≤ l ∧ l ≤ 193) then 1 else 0, 0, 1, fun _ => true⟩
/-- TRIG_KIND, 0x2210 + l.02 (R293). -/
def trigKind : Row :=
  ⟨0x221002, 256, 240, 1, .u8, .rws, fun _ _ => 0, 0, 2, fun _ => true⟩
/-- TRIG_DIV, 0x2210 + l.03 (R293). -/
def trigDiv : Row :=
  ⟨0x221003, 256, 240, 1, .u32, .rws, fun _ _ => 25000, 1, 16777216, fun _ => true⟩
/-- TRIG_CH, 0x2210 + l.04 (R293). -/
def trigCh : Row :=
  ⟨0x221004, 256, 240, 1, .u8, .rws, fun _ _ => 0, 0, 95, fun _ => true⟩
/-- SRC_A, 0x2210 + l.05 (R293). -/
def srcA : Row :=
  ⟨0x221005, 256, 240, 1, .u16, .rws, fun _ _ => 0, 0, 65535, fun _ => true⟩
/-- XMODE_A, 0x2210 + l.06 (R293). -/
def xmodeA : Row :=
  ⟨0x221006, 256, 240, 1, .u8, .rws, fun _ _ => 0, 0, 1, fun _ => true⟩
/-- FIRST_A, 0x2210 + l.07 (R293). -/
def firstA : Row :=
  ⟨0x221007, 256, 240, 1, .u16, .rws, fun _ _ => 594, 0, 2047, fun _ => true⟩
/-- LEN_A, 0x2210 + l.08 (R293). -/
def lenA : Row :=
  ⟨0x221008, 256, 240, 1, .u8, .rws, fun _ _ => 0, 0, 16, fun _ => true⟩
/-- SRC_B, 0x2210 + l.09 (R293). -/
def srcB : Row :=
  ⟨0x221009, 256, 240, 1, .u16, .rws, fun _ _ => 0, 0, 65535, fun _ => true⟩
/-- XMODE_B, 0x2210 + l.0A (R293). -/
def xmodeB : Row :=
  ⟨0x22100A, 256, 240, 1, .u8, .rws, fun _ _ => 0, 0, 1, fun _ => true⟩
/-- FIRST_B, 0x2210 + l.0B (R293). -/
def firstB : Row :=
  ⟨0x22100B, 256, 240, 1, .u16, .rws, fun _ _ => 594, 0, 2047, fun _ => true⟩
/-- LEN_B, 0x2210 + l.0C (R293). -/
def lenB : Row :=
  ⟨0x22100C, 256, 240, 1, .u8, .rws, fun _ _ => 0, 0, 16, fun _ => true⟩
/-- SINK, 0x2210 + l.0D (R293). -/
def sink : Row :=
  ⟨0x22100D, 256, 240, 1, .u16, .rws, fun _ _ => 0, 0, 65535, fun _ => true⟩
/-- OUT_MIN, 0x2210 + l.0E (R293). -/
def outMin : Row :=
  ⟨0x22100E, 256, 240, 1, .i48, .rw, fun _ _ => -140737488355328, -140737488355328, 140737488355327, fun _ => true⟩
/-- OUT_MAX, 0x2210 + l.0F (R293). -/
def outMax : Row :=
  ⟨0x22100F, 256, 240, 1, .i48, .rw, fun _ _ => 140737488355327, -140737488355328, 140737488355327, fun _ => true⟩
/-- SLEW_UP, 0x2210 + l.10 (R293). -/
def slewUp : Row :=
  ⟨0x221010, 256, 240, 1, .u48, .rw, fun _ _ => 0, 0, 281474976710655, fun _ => true⟩
/-- SLEW_DOWN, 0x2210 + l.11 (R293). -/
def slewDown : Row :=
  ⟨0x221011, 256, 240, 1, .u48, .rw, fun _ _ => 0, 0, 281474976710655, fun _ => true⟩
/-- STATE_LIM, 0x2210 + l.12 (R293). -/
def stateLim : Row :=
  ⟨0x221012, 256, 240, 1, .u48, .rw, fun _ _ => 140737488355327, 1, 140737488355327, fun _ => true⟩
/-- AW_BACK, 0x2210 + l.13 (R293). -/
def awBack : Row :=
  ⟨0x221013, 256, 240, 1, .bool, .rw, fun _ _ => 1, 0, 1, fun _ => true⟩
/-- REF_TARGET, 0x2210 + l.14 (R293). -/
def refTarget : Row :=
  ⟨0x221014, 256, 240, 1, .i48, .rw, fun _ _ => 0, -140737488355328, 140737488355327, fun _ => true⟩
/-- REF_RATE_UP, 0x2210 + l.15 (R293). -/
def refRateUp : Row :=
  ⟨0x221015, 256, 240, 1, .u48, .rw, fun _ _ => 0, 0, 281474976710655, fun _ => true⟩
/-- REF_RATE_DOWN, 0x2210 + l.16 (R293). -/
def refRateDown : Row :=
  ⟨0x221016, 256, 240, 1, .u48, .rw, fun _ _ => 0, 0, 281474976710655, fun _ => true⟩
/-- REF_NOW, 0x2210 + l.17 (R293). -/
def refNow : Row :=
  ⟨0x221017, 256, 240, 1, .i48, .ro, fun _ _ => 0, -140737488355328, 140737488355327, fun _ => true⟩
/-- HANDOVER_TOL, 0x2210 + l.18 (R293). -/
def loopHandoverTol : Row :=
  ⟨0x221018, 256, 240, 1, .u48, .rw, fun _ _ => 140737488355327, 0, 281474976710655, fun _ => true⟩
/-- HANDOVER_SLEW, 0x2210 + l.19 (R293). -/
def loopHandoverSlew : Row :=
  ⟨0x221019, 256, 240, 1, .u48, .rw, fun _ _ => 140737488355327, 0, 281474976710655, fun _ => true⟩
/-- LOOP_CMD, 0x2210 + l.1A (R293). -/
def loopCmd : Row :=
  ⟨0x22101A, 256, 240, 1, .u8, .wo, fun _ _ => 0, 1, 3, fun _ => true⟩
/-- OUTPUT, 0x2210 + l.1B (R293). -/
def output : Row :=
  ⟨0x22101B, 256, 240, 1, .i48, .ro, fun _ _ => 0, -140737488355328, 140737488355327, fun _ => true⟩
/-- HOFS, 0x2210 + l.1C (R293). -/
def hofs : Row :=
  ⟨0x22101C, 256, 240, 1, .i48, .ro, fun _ _ => 0, -140737488355328, 140737488355327, fun _ => true⟩
/-- Y1, 0x2210 + l.1D (R293). -/
def y1 : Row :=
  ⟨0x22101D, 256, 240, 1, .i48, .ro, fun _ _ => 0, -140737488355328, 140737488355327, fun _ => true⟩
/-- Y2, 0x2210 + l.1E (R293). -/
def y2 : Row :=
  ⟨0x22101E, 256, 240, 1, .i48, .ro, fun _ _ => 0, -140737488355328, 140737488355327, fun _ => true⟩
/-- SRC_CONST, 0x2210 + l.1F (R293). -/
def srcConst : Row :=
  ⟨0x22101F, 256, 240, 1, .i48, .rw, fun _ _ => 0, -140737488355328, 140737488355327, fun _ => true⟩
/-- LOOP_STATUS, 0x2210 + l.20 (R293). -/
def loopStatus : Row :=
  ⟨0x221020, 256, 240, 1, .u16, .ro, fun _ _ => 0, 0, 65535, fun _ => true⟩
/-- SAT_COUNT, 0x2210 + l.21 (R293). -/
def satCount : Row :=
  ⟨0x221021, 256, 240, 1, .u32, .ro, fun _ _ => 0, 0, 4294967295, fun _ => true⟩
/-- HELD_COUNT, 0x2210 + l.22 (R293). -/
def heldCount : Row :=
  ⟨0x221022, 256, 240, 1, .u32, .ro, fun _ _ => 0, 0, 4294967295, fun _ => true⟩
/-- LOG, 0x2210 + l.23 (R293). -/
def log : Row :=
  ⟨0x221023, 256, 240, 1, .bool, .rw, fun _ _ => 0, 0, 1, fun _ => true⟩
/-- B0, 0x5000 + s.01 (R295). -/
def b0 : Row :=
  ⟨0x500001, 256, 2048, 1, .i32, .rw, fun _ _ => 0, -8388608, 8388607, fun _ => true⟩
/-- B1, 0x5000 + s.02 (R295). -/
def b1 : Row :=
  ⟨0x500002, 256, 2048, 1, .i32, .rw, fun _ _ => 0, -8388608, 8388607, fun _ => true⟩
/-- B2, 0x5000 + s.03 (R295). -/
def b2 : Row :=
  ⟨0x500003, 256, 2048, 1, .i32, .rw, fun _ _ => 0, -8388608, 8388607, fun _ => true⟩
/-- A1, 0x5000 + s.04 (R295). -/
def a1 : Row :=
  ⟨0x500004, 256, 2048, 1, .i32, .rw, fun _ _ => 0, -8388608, 8388607, fun _ => true⟩
/-- A2, 0x5000 + s.05 (R295). -/
def a2 : Row :=
  ⟨0x500005, 256, 2048, 1, .i32, .rw, fun _ _ => 0, -8388608, 8388607, fun _ => true⟩
/-- B_SHIFT, 0x5000 + s.06 (R295). -/
def bShift : Row :=
  ⟨0x500006, 256, 2048, 1, .u8, .rw, fun _ _ => 0, 0, 15, fun _ => true⟩
/-- X1, 0x5000 + s.07 (R295). -/
def x1 : Row :=
  ⟨0x500007, 256, 2048, 1, .i48, .rw, fun _ _ => 0, -140737488355328, 140737488355327, fun _ => true⟩
/-- X2, 0x5000 + s.08 (R295). -/
def x2 : Row :=
  ⟨0x500008, 256, 2048, 1, .i48, .rw, fun _ _ => 0, -140737488355328, 140737488355327, fun _ => true⟩
/-- SECTION, 0x5000 + s.09 (R295). -/
def sectionBlock : Row :=
  ⟨0x500009, 256, 2048, 1, (.domain 32), .rw, fun _ _ => 0, 0, 0, fun _ => true⟩

/-- MEM_STATUS, 0x6000.01 (R341). -/
def memStatus : Row :=
  ⟨0x600001, 256, 1, 1, .u16, .ro, fun _ _ => 0, 0, 65535, fun _ => true⟩
/-- DRAM_RATE, 0x6000.02 (R341). -/
def dramRate : Row :=
  ⟨0x600002, 256, 1, 1, .u16, .rw, fun _ _ => 6400, 3200, 6400, fun v => v == 6400 || v == 3200⟩
/-- RANKS_PER_CH, 0x6000.03 (R341). -/
def ranksPerCh : Row :=
  ⟨0x600003, 256, 1, 1, .u8, .ro, fun _ _ => 0, 0, 255, fun _ => true⟩
/-- FRAMES_PER_RANK, 0x6000.04 (R341). -/
def framesPerRank : Row :=
  ⟨0x600004, 256, 1, 1, .u16, .ro, fun _ _ => 0, 0, 65535, fun _ => true⟩
/-- INIT_PAGES, 0x6000.05 (R341). -/
def initPages : Row :=
  ⟨0x600005, 256, 1, 1, .u16, .ro, fun _ _ => 0, 0, 65535, fun _ => true⟩
/-- MAPPED_PAGES, 0x6000.06 (R341). -/
def mappedPages : Row :=
  ⟨0x600006, 256, 1, 1, .u16, .ro, fun _ _ => 0, 0, 65535, fun _ => true⟩
/-- RETIRED_PAGES, 0x6000.07 (R341). -/
def retiredPages : Row :=
  ⟨0x600007, 256, 1, 1, .u16, .ro, fun _ _ => 0, 0, 65535, fun _ => true⟩
/-- MIG_SHARE, 0x6000.08 (R341). -/
def migShare : Row :=
  ⟨0x600008, 256, 1, 1, .u8, .rw, fun _ _ => 10, 1, 50, fun _ => true⟩
/-- MIG_RANK, 0x6000.09 (R341). -/
def migRank : Row :=
  ⟨0x600009, 256, 1, 1, .u8, .ro, fun _ _ => 255, 0, 255, fun _ => true⟩
/-- MIG_PAGES_DONE, 0x6000.0A (R341). -/
def migPagesDone : Row :=
  ⟨0x60000A, 256, 1, 1, .u16, .ro, fun _ _ => 0, 0, 65535, fun _ => true⟩
/-- MIG_POISON_COUNT, 0x6000.0B (R341). -/
def migPoisonCount : Row :=
  ⟨0x60000B, 256, 1, 1, .u32, .ro, fun _ _ => 0, 0, 4294967295, fun _ => true⟩
/-- PD_TIMER, 0x6000.0C (R341). -/
def pdTimer : Row :=
  ⟨0x60000C, 256, 1, 1, .u16, .rw, fun _ _ => 200, 0, 65535, fun _ => true⟩
/-- SR_TIMER, 0x6000.0D (R341). -/
def srTimer : Row :=
  ⟨0x60000D, 256, 1, 1, .u32, .rw, fun _ _ => 1000, 0, 1000000, fun _ => true⟩
/-- SCRUB_PERIOD, 0x6000.0E (R341). -/
def scrubPeriod : Row :=
  ⟨0x60000E, 256, 1, 1, .u16, .rw, fun _ _ => 24, 0, 720, fun _ => true⟩
/-- CE_LIMIT, 0x6000.0F (R341). -/
def ceLimit : Row :=
  ⟨0x60000F, 256, 1, 1, .u16, .rw, fun _ _ => 0, 0, 65535, fun _ => true⟩
/-- rankState0, 0x6010 + ch.01 (R341). -/
def rankState0 : Row :=
  ⟨0x601001, 256, 5, 1, .u8, .ro, fun _ _ => 0, 0, 255, fun _ => true⟩
/-- rankState1, 0x6010 + ch.02 (R341). -/
def rankState1 : Row :=
  ⟨0x601002, 256, 5, 1, .u8, .ro, fun _ _ => 0, 0, 255, fun _ => true⟩
/-- power0, 0x6010 + ch.03 (R341). -/
def power0 : Row :=
  ⟨0x601003, 256, 5, 1, .u8, .ro, fun _ _ => 0, 0, 255, fun _ => true⟩
/-- power1, 0x6010 + ch.04 (R341). -/
def power1 : Row :=
  ⟨0x601004, 256, 5, 1, .u8, .ro, fun _ _ => 0, 0, 255, fun _ => true⟩
/-- ceCount0, 0x6010 + ch.05 (R341). -/
def ceCount0 : Row :=
  ⟨0x601005, 256, 5, 1, .u32, .ro, fun _ _ => 0, 0, 4294967295, fun _ => true⟩
/-- ceCount1, 0x6010 + ch.06 (R341). -/
def ceCount1 : Row :=
  ⟨0x601006, 256, 5, 1, .u32, .ro, fun _ _ => 0, 0, 4294967295, fun _ => true⟩
/-- ueCount0, 0x6010 + ch.07 (R341). -/
def ueCount0 : Row :=
  ⟨0x601007, 256, 5, 1, .u32, .ro, fun _ _ => 0, 0, 4294967295, fun _ => true⟩
/-- ueCount1, 0x6010 + ch.08 (R341). -/
def ueCount1 : Row :=
  ⟨0x601008, 256, 5, 1, .u32, .ro, fun _ _ => 0, 0, 4294967295, fun _ => true⟩
/-- refreshRate, 0x6010 + ch.09 (R341). -/
def refreshRate : Row :=
  ⟨0x601009, 256, 5, 1, .u8, .ro, fun _ _ => 0, 0, 255, fun _ => true⟩
/-- bwRead, 0x6010 + ch.0A (R341). -/
def bwRead : Row :=
  ⟨0x60100A, 256, 5, 1, .u32, .ro, fun _ _ => 0, 0, 4294967295, fun _ => true⟩
/-- bwWrite, 0x6010 + ch.0B (R341). -/
def bwWrite : Row :=
  ⟨0x60100B, 256, 5, 1, .u32, .ro, fun _ _ => 0, 0, 4294967295, fun _ => true⟩
/-- SRAM_STATUS, 0x6030.01 (R341). -/
def sramStatus : Row :=
  ⟨0x603001, 256, 1, 1, .u8, .ro, fun _ _ => 0, 0, 255, fun _ => true⟩
/-- SRAM_CE_COUNT, 0x6030.02 (R341). -/
def sramCeCount : Row :=
  ⟨0x603002, 256, 1, 1, .u32, .ro, fun _ _ => 0, 0, 4294967295, fun _ => true⟩
/-- SRAM_UE_COUNT, 0x6030.03 (R341). -/
def sramUeCount : Row :=
  ⟨0x603003, 256, 1, 1, .u32, .ro, fun _ _ => 0, 0, 4294967295, fun _ => true⟩
/-- PAGE_MAP, 0x6100.01 (R341). -/
def pageMap : Row :=
  ⟨0x610001, 256, 1, 1, (.domain 98304), .ro, fun _ _ => 0, 0, 0, fun _ => true⟩
/-- MAP_PAGE, 0x6101.01 (R341). -/
def mapPage : Row :=
  ⟨0x610101, 256, 1, 1, .u16, .rw, fun _ _ => 0, 0, 16383, fun _ => true⟩
/-- MAP_TARGET, 0x6101.02 (R341). -/
def mapTarget : Row :=
  ⟨0x610102, 256, 1, 1, .u32, .rw, fun _ _ => 0, 0, 4294967295, fun _ => true⟩
/-- MAP_OP, 0x6101.03 (R341). -/
def mapOp : Row :=
  ⟨0x610103, 256, 1, 1, .u8, .wo, fun _ _ => 0, 1, 4, fun _ => true⟩
/-- MAP_RESULT, 0x6101.04 (R341). -/
def mapResult : Row :=
  ⟨0x610104, 256, 1, 1, .u8, .ro, fun _ _ => 0, 0, 255, fun _ => true⟩

/-- SRC, 0x6800 + 0x10 × n.01 (R376). -/
def src : Row :=
  ⟨0x680001, 4096, 16, 1, .u48, .rws, fun _ _ => 0, 0, 281474976710655, fun _ => true⟩
/-- DST, 0x6800 + 0x10 × n.02 (R376). -/
def dst : Row :=
  ⟨0x680002, 4096, 16, 1, .u48, .rws, fun _ _ => 0, 0, 281474976710655, fun _ => true⟩
/-- COUNT, 0x6800 + 0x10 × n.03 (R376). -/
def count : Row :=
  ⟨0x680003, 4096, 16, 1, .u32, .rws, fun _ _ => 0, 0, 4294967295, fun _ => true⟩
/-- CTRL, 0x6800 + 0x10 × n.04 (R376). -/
def ctrl : Row :=
  ⟨0x680004, 4096, 16, 1, .u32, .rws, fun _ _ => 0, 0, 4294967295, fun _ => true⟩
/-- LINK, 0x6800 + 0x10 × n.05 (R376). -/
def link : Row :=
  ⟨0x680005, 4096, 16, 1, .u48, .rws, fun _ _ => 0, 0, 281474976710655, fun v => v % 32 == 0⟩
/-- RS_STRIDE, 0x6800 + 0x10 × n.06 (R376). -/
def rsStride : Row :=
  ⟨0x680006, 4096, 16, 1, .u32, .rws, fun _ _ => 0, 0, 4294967295, fun _ => true⟩
/-- START, 0x6800 + 0x10 × n.07 (R376). -/
def start : Row :=
  ⟨0x680007, 4096, 16, 1, .bool, .wo, fun _ _ => 0, 0, 1, fun _ => true⟩
/-- PAUSE, 0x6800 + 0x10 × n.08 (R376). -/
def pause : Row :=
  ⟨0x680008, 4096, 16, 1, .bool, .rw, fun _ _ => 0, 0, 1, fun _ => true⟩
/-- ABORT, 0x6800 + 0x10 × n.09 (R376). -/
def abort : Row :=
  ⟨0x680009, 4096, 16, 1, .bool, .wo, fun _ _ => 0, 0, 1, fun _ => true⟩
/-- STAT, 0x6800 + 0x10 × n.0A (R376). -/
def stat : Row :=
  ⟨0x68000A, 4096, 16, 1, .u16, .ro, fun _ _ => 0, 0, 65535, fun _ => true⟩
/-- HOPS, 0x6800 + 0x10 × n.0B (R376). -/
def hops : Row :=
  ⟨0x68000B, 4096, 16, 1, .u32, .ro, fun _ _ => 0, 0, 4294967295, fun _ => true⟩
/-- DMA_HOP_MAX, 0x6800 + 0x10 × n.0C (R376). -/
def dmaHopMax : Row :=
  ⟨0x68000C, 4096, 16, 1, .u16, .rws, fun _ _ => 1024, 1, 65535, fun _ => true⟩
/-- FAULT_ADDR, 0x6800 + 0x10 × n.0D (R376). -/
def faultAddr : Row :=
  ⟨0x68000D, 4096, 16, 1, .u48, .ro, fun _ _ => 0, 0, 281474976710655, fun _ => true⟩
/-- FEED_RB_c, 0x6900.01-.60 (R377). -/
def feedRb : Row :=
  ⟨0x690001, 1, 96, 1, .u8, .rws, fun _ _ => 255, 0, 255, fun v => v ≤ 31 || v == 255⟩
/-- FEED_OFS_c, 0x6901.01-.60 (R377). -/
def feedOfs : Row :=
  ⟨0x690101, 1, 96, 1, .u32, .rws, fun _ _ => 0, 0, 16777215, fun _ => true⟩
/-- FEED_NEXT_c, 0x6902.01-.60 (R377). -/
def feedNext : Row :=
  ⟨0x690201, 1, 96, 1, .u32, .ro, fun _ _ => 0, 0, 4294967295, fun _ => true⟩
/-- FEED_WAITS_c, 0x6903.01-.60 (R377). -/
def feedWaits : Row :=
  ⟨0x690301, 1, 96, 1, .u32, .ro, fun _ _ => 0, 0, 4294967295, fun _ => true⟩
/-- RB_BASE, 0x6910 + r.01 (R377). -/
def rbBase : Row :=
  ⟨0x691001, 256, 32, 1, .u48, .rws, fun _ _ => 0, 0, 281474976710655, fun v => v % 64 == 0⟩
/-- RB_LINES, 0x6910 + r.02 (R377). -/
def rbLines : Row :=
  ⟨0x691002, 256, 32, 1, .u32, .rws, fun _ _ => 1024, 1, 16777216, fun _ => true⟩
/-- RB_STRIDE, 0x6910 + r.03 (R377). -/
def rbStride : Row :=
  ⟨0x691003, 256, 32, 1, .u32, .rws, fun _ _ => 6144, 64, 16777216, fun v => v % 64 == 0⟩
/-- RB_MODE, 0x6910 + r.04 (R377). -/
def rbMode : Row :=
  ⟨0x691004, 256, 32, 1, .u8, .rws, fun _ _ => 0, 0, 1, fun _ => true⟩
/-- RB_WR, 0x6910 + r.05 (R377). -/
def rbWr : Row :=
  ⟨0x691005, 256, 32, 1, .u32, .rw, fun _ _ => 0, 0, 4294967295, fun _ => true⟩
/-- RB_TAIL, 0x6910 + r.06 (R377). -/
def rbTail : Row :=
  ⟨0x691006, 256, 32, 1, .u32, .ro, fun _ _ => 0, 0, 4294967295, fun _ => true⟩
/-- RB_FREE, 0x6910 + r.07 (R377). -/
def rbFree : Row :=
  ⟨0x691007, 256, 32, 1, .u32, .ro, fun _ _ => 1024, 0, 4294967295, fun _ => true⟩
/-- RB_READERS, 0x6910 + r.08 (R377). -/
def rbReaders : Row :=
  ⟨0x691008, 256, 32, 1, .u8, .ro, fun _ _ => 0, 0, 255, fun _ => true⟩
/-- DMA_RUNNING, 0x69F0.01 (R377). -/
def dmaRunning : Row :=
  ⟨0x69F001, 256, 1, 1, .u8, .ro, fun _ _ => 255, 0, 255, fun _ => true⟩
/-- DMA_PENDING, 0x69F0.02 (R377). -/
def dmaPending : Row :=
  ⟨0x69F002, 256, 1, 1, .u16, .ro, fun _ _ => 0, 0, 65535, fun _ => true⟩
/-- DMA_DONE, 0x69F0.03 (R377). -/
def dmaDone : Row :=
  ⟨0x69F003, 256, 1, 1, .u16, .rw, fun _ _ => 0, 0, 65535, fun _ => true⟩
/-- LINK_BUF, 0x69F0.04 (R377). -/
def linkBuf : Row :=
  ⟨0x69F004, 256, 1, 1, (.domain 65536), .rw, fun _ _ => 0, 0, 0, fun _ => true⟩

/-- PORT_EN, 0xA000 + p.01 (R396). -/
def portEn : Row :=
  ⟨0xA00001, 256, 2, 1, .bool, .rws, fun _ _ => 1, 0, 1, fun _ => true⟩
/-- MAC_ADDR, 0xA000 + p.02 (R396). -/
def macAddr : Row :=
  ⟨0xA00002, 256, 2, 1, .u48, .rws, fun _ _ => 0, 0, 281474976710655, fun _ => true⟩
/-- IPV4_ADDR, 0xA000 + p.03 (R396). -/
def ipv4Addr : Row :=
  ⟨0xA00003, 256, 2, 1, .u32, .rws, fun _ _ => 0, 0, 4294967295, fun _ => true⟩
/-- IPV6_ADDR, 0xA000 + p.04 (R396). -/
def ipv6Addr : Row :=
  ⟨0xA00004, 256, 2, 1, (.domain 16), .rws, fun _ _ => 0, 0, 0, fun _ => true⟩
/-- RS_MCAST, 0xA000 + p.05 (R396). -/
def rsMcast : Row :=
  ⟨0xA00005, 256, 2, 1, (.domain 16), .rws, fun _ _ => 0, 0, 0, fun _ => true⟩
/-- PORT_STATUS, 0xA000 + p.06 (R396). -/
def portStatus : Row :=
  ⟨0xA00006, 256, 2, 1, .u16, .ro, fun _ _ => 0, 0, 65535, fun _ => true⟩
/-- RX_SEGS, 0xA000 + p.07 (R396). -/
def rxSegs : Row :=
  ⟨0xA00007, 256, 2, 1, .u48, .ro, fun _ _ => 0, 0, 281474976710655, fun _ => true⟩
/-- RX_BYTES, 0xA000 + p.08 (R396). -/
def rxBytes : Row :=
  ⟨0xA00008, 256, 2, 1, .u48, .ro, fun _ _ => 0, 0, 281474976710655, fun _ => true⟩
/-- DROP_FRAME, 0xA000 + p.09 (R396). -/
def dropFrame : Row :=
  ⟨0xA00009, 256, 2, 1, .u32, .ro, fun _ _ => 0, 0, 4294967295, fun _ => true⟩
/-- DROP_CRC, 0xA000 + p.0A (R396). -/
def dropCrc : Row :=
  ⟨0xA0000A, 256, 2, 1, .u32, .ro, fun _ _ => 0, 0, 4294967295, fun _ => true⟩
/-- DROP_OTHER, 0xA000 + p.0B (R396). -/
def dropOther : Row :=
  ⟨0xA0000B, 256, 2, 1, .u32, .ro, fun _ _ => 0, 0, 4294967295, fun _ => true⟩
/-- FEC_CORR, 0xA000 + p.0C (R396). -/
def fecCorr : Row :=
  ⟨0xA0000C, 256, 2, 1, .u32, .ro, fun _ _ => 0, 0, 4294967295, fun _ => true⟩
/-- FEC_UNCORR_CNT, 0xA000 + p.0D (R396). -/
def fecUncorrCnt : Row :=
  ⟨0xA0000D, 256, 2, 1, .u32, .ro, fun _ _ => 0, 0, 4294967295, fun _ => true⟩
/-- RS_UDP_PORT, 0xA008.01 (R396). -/
def rsUdpPort : Row :=
  ⟨0xA00801, 256, 1, 1, .u16, .rws, fun _ _ => 50196, 1, 65535, fun _ => true⟩
/-- RS_GAP_TIMEOUT, 0xA008.02 (R396). -/
def rsGapTimeout : Row :=
  ⟨0xA00802, 256, 1, 1, .u32, .rw, fun _ _ => 100, 10, 100000, fun _ => true⟩
/-- RS_WINDOW, 0xA008.03 (R396). -/
def rsWindow : Row :=
  ⟨0xA00803, 256, 1, 1, .u16, .rws, fun _ _ => 64, 1, 256, fun _ => true⟩
/-- RS_ACK_PERIOD, 0xA008.04 (R396). -/
def rsAckPeriod : Row :=
  ⟨0xA00804, 256, 1, 1, .u32, .rw, fun _ _ => 100, 0, 100000, fun v => v == 0 || 10 ≤ v⟩
/-- RS_SRAM_EN, 0xA008.05 (R396). -/
def rsSramEn : Row :=
  ⟨0xA00805, 256, 1, 1, .bool, .rw, fun _ _ => 0, 0, 1, fun _ => true⟩
/-- RS_EN, 0xA010 + r.01 (R396). -/
def rsEn : Row :=
  ⟨0xA01001, 256, 32, 1, .bool, .rws, fun _ _ => 0, 0, 1, fun _ => true⟩
/-- RS_LINE_BYTES, 0xA010 + r.02 (R396). -/
def rsLineBytes : Row :=
  ⟨0xA01002, 256, 32, 1, .u32, .rws, fun _ _ => 0, 0, 16777216, fun _ => true⟩
/-- RS_SEG_BYTES, 0xA010 + r.03 (R396). -/
def rsSegBytes : Row :=
  ⟨0xA01003, 256, 32, 1, .u16, .rws, fun _ _ => 8192, 64, 9088, fun v => v % 64 == 0⟩
/-- RS_FILL, 0xA010 + r.04 (R396). -/
def rsFill : Row :=
  ⟨0xA01004, 256, 32, 1, .u8, .rw, fun _ _ => 0, 0, 1, fun _ => true⟩
/-- MISSING_LINES, 0xA010 + r.05 (R396). -/
def missingLines : Row :=
  ⟨0xA01005, 256, 32, 1, .u32, .ro, fun _ _ => 0, 0, 4294967295, fun _ => true⟩
/-- LATE_SEGS, 0xA010 + r.06 (R396). -/
def lateSegs : Row :=
  ⟨0xA01006, 256, 32, 1, .u32, .ro, fun _ _ => 0, 0, 4294967295, fun _ => true⟩
/-- OVERRUN_SEGS, 0xA010 + r.07 (R396). -/
def overrunSegs : Row :=
  ⟨0xA01007, 256, 32, 1, .u32, .ro, fun _ _ => 0, 0, 4294967295, fun _ => true⟩
/-- DUP_SEGS, 0xA010 + r.08 (R396). -/
def dupSegs : Row :=
  ⟨0xA01008, 256, 32, 1, .u32, .ro, fun _ _ => 0, 0, 4294967295, fun _ => true⟩

/-- RING_EN, 0x1100.01 (R442). -/
def ringEn : Row :=
  ⟨0x110001, 256, 1, 1, .bool, .rw, fun _ _ => 1, 0, 1, fun _ => true⟩
/-- RING_ADDR, 0x1100.02 (R442). -/
def ringAddr : Row :=
  ⟨0x110002, 256, 1, 1, .u16, .cnt, fun _ _ => 65534, 0, 16383, fun v => v ≤ 16383⟩
/-- RING_ADDR_LEFT, 0x1100.03 (R442). -/
def ringAddrLeft : Row :=
  ⟨0x110003, 256, 1, 1, .u8, .ro, fun _ _ => 8, 0, 255, fun _ => true⟩
/-- RING_ROOT, 0x1100.04 (R442). -/
def ringRoot : Row :=
  ⟨0x110004, 256, 1, 1, .bool, .ro, fun _ _ => 0, 0, 1, fun _ => true⟩
/-- RING_NONCE, 0x1100.05 (R442). -/
def ringNonce : Row :=
  ⟨0x110005, 256, 1, 1, .u32, .ro, fun _ _ => 0, 0, 4294967295, fun _ => true⟩
/-- RING_ADDR_NOW, 0x1100.06 (R442). -/
def ringAddrNow : Row :=
  ⟨0x110006, 256, 1, 1, .u16, .ro, fun _ _ => 65534, 0, 65535, fun _ => true⟩
/-- CAN_EN, 0x1110.01 (R442). -/
def canEn : Row :=
  ⟨0x111001, 256, 1, 1, .bool, .rw, fun _ _ => 1, 0, 1, fun _ => true⟩
/-- CAN_NODE_ID, 0x1110.02 (R442). -/
def canNodeId : Row :=
  ⟨0x111002, 256, 1, 1, .u8, .rw, fun _ _ => 127, 1, 127, fun _ => true⟩
/-- CAN_NOM_RATE, 0x1110.03 (R442). -/
def canNomRate : Row :=
  ⟨0x111003, 256, 1, 1, .u8, .rw, fun _ _ => 2, 0, 3, fun _ => true⟩
/-- CAN_DATA_RATE, 0x1110.04 (R442). -/
def canDataRate : Row :=
  ⟨0x111004, 256, 1, 1, .u8, .rw, fun _ _ => 1, 0, 3, fun _ => true⟩
/-- CAN_NOM_SP, 0x1110.05 (R442). -/
def canNomSp : Row :=
  ⟨0x111005, 256, 1, 1, .u8, .rw, fun _ _ => 80, 60, 90, fun _ => true⟩
/-- CAN_DATA_SP, 0x1110.06 (R442). -/
def canDataSp : Row :=
  ⟨0x111006, 256, 1, 1, .u8, .rw, fun _ _ => 75, 60, 90, fun _ => true⟩
/-- CAN_HB_TIME, 0x1110.07 (R442). -/
def canHbTime : Row :=
  ⟨0x111007, 256, 1, 1, .u16, .rw, fun _ _ => 1000, 0, 65535, fun _ => true⟩
/-- CAN_NMT, 0x1110.08 (R442). -/
def canNmt : Row :=
  ⟨0x111008, 256, 1, 1, .u8, .ro, fun _ _ => 127, 0, 255, fun _ => true⟩
/-- CAN_STATUS, 0x1110.09 (R442). -/
def canStatus : Row :=
  ⟨0x111009, 256, 1, 1, .u8, .ro, fun _ _ => 0, 0, 255, fun _ => true⟩
/-- CAN_TEC, 0x1110.0A (R442). -/
def canTec : Row :=
  ⟨0x11100A, 256, 1, 1, .u8, .ro, fun _ _ => 0, 0, 255, fun _ => true⟩
/-- CAN_REC, 0x1110.0B (R442). -/
def canRec : Row :=
  ⟨0x11100B, 256, 1, 1, .u8, .ro, fun _ _ => 0, 0, 255, fun _ => true⟩
/-- RX_FRAMES, 0xA100 + i.01 (R443). -/
def rxFrames : Row :=
  ⟨0xA10001, 256, 2, 1, .u48, .ro, fun _ _ => 0, 0, 281474976710655, fun _ => true⟩
/-- TX_FRAMES, 0xA100 + i.02 (R443). -/
def txFrames : Row :=
  ⟨0xA10002, 256, 2, 1, .u48, .ro, fun _ _ => 0, 0, 281474976710655, fun _ => true⟩
/-- CRC_ERRORS, 0xA100 + i.03 (R443). -/
def crcErrors : Row :=
  ⟨0xA10003, 256, 2, 1, .u32, .ro, fun _ _ => 0, 0, 4294967295, fun _ => true⟩
/-- LINK_DELAY, 0xA100 + i.04 (R443). -/
def linkDelay : Row :=
  ⟨0xA10004, 256, 2, 1, .u32, .ro, fun _ _ => 0, 0, 4294967295, fun _ => true⟩
/-- LANE_DOWNS, 0xA100 + i.05 (R443). -/
def laneDowns : Row :=
  ⟨0xA10005, 256, 2, 1, .u32, .ro, fun _ _ => 0, 0, 4294967295, fun _ => true⟩
/-- HOPS_TO_ROOT, 0xA100 + i.06 (R443). -/
def hopsToRoot : Row :=
  ⟨0xA10006, 256, 2, 1, .u16, .ro, fun _ _ => 65535, 0, 65535, fun _ => true⟩
/-- SYNC_PERIOD, 0xA110.01 (R443). -/
def syncPeriod : Row :=
  ⟨0xA11001, 256, 1, 1, .u32, .rw, fun _ _ => 100, 10, 10000, fun _ => true⟩
/-- SYNC_TIMEOUT, 0xA110.02 (R443). -/
def syncTimeout : Row :=
  ⟨0xA11002, 256, 1, 1, .u32, .rw, fun _ _ => 300, 30, 100000, fun _ => true⟩
/-- RT_STEP_LIMIT, 0xA110.03 (R443). -/
def rtStepLimit : Row :=
  ⟨0xA11003, 256, 1, 1, .u32, .rw, fun _ _ => 1000, 100, 1000000, fun _ => true⟩
/-- RT_STATE, 0xA110.04 (R443). -/
def rtState : Row :=
  ⟨0xA11004, 256, 1, 1, .u8, .ro, fun _ _ => 0, 0, 255, fun _ => true⟩
/-- RT_OFFSET, 0xA110.05 (R443). -/
def rtOffset : Row :=
  ⟨0xA11005, 256, 1, 1, .i48, .ro, fun _ _ => 0, -140737488355328, 140737488355327, fun _ => true⟩
/-- RT_RATE, 0xA110.06 (R443). -/
def rtRate : Row :=
  ⟨0xA11006, 256, 1, 1, .i32, .ro, fun _ _ => 0, -2147483648, 2147483647, fun _ => true⟩
/-- RTIME_NOW, 0xA110.07 (R443). -/
def rtimeNow : Row :=
  ⟨0xA11007, 256, 1, 1, .u48, .ro, fun _ _ => 0, 0, 281474976710655, fun _ => true⟩
/-- SYNC_SRC, 0xA110.08 (R443). -/
def syncSrc : Row :=
  ⟨0xA11008, 256, 1, 1, .u8, .ro, fun _ _ => 2, 0, 255, fun _ => true⟩
/-- TIME_STEPS, 0xA110.09 (R443). -/
def timeSteps : Row :=
  ⟨0xA11009, 256, 1, 1, .u32, .ro, fun _ _ => 0, 0, 4294967295, fun _ => true⟩
/-- RING_STATUS, 0xA120.01 (R443). -/
def ringStatus : Row :=
  ⟨0xA12001, 256, 1, 1, .u16, .ro, fun _ _ => 0, 0, 65535, fun _ => true⟩
/-- RING_INJ_WAIT, 0xA120.02 (R443). -/
def ringInjWait : Row :=
  ⟨0xA12002, 256, 1, 1, .u16, .rw, fun _ _ => 10, 1, 1000, fun _ => true⟩
/-- RING_HEAL, 0xA120.03 (R443). -/
def ringHeal : Row :=
  ⟨0xA12003, 256, 1, 1, .u32, .rw, fun _ _ => 100, 10, 10000, fun _ => true⟩
/-- REQ_QUEUE, 0xA120.04 (R443). -/
def reqQueue : Row :=
  ⟨0xA12004, 256, 1, 1, .u8, .ro, fun _ _ => 0, 0, 255, fun _ => true⟩
/-- REQ_BUSY, 0xA120.05 (R443). -/
def reqBusy : Row :=
  ⟨0xA12005, 256, 1, 1, .u32, .ro, fun _ _ => 0, 0, 4294967295, fun _ => true⟩
/-- DUP_WRITES, 0xA120.06 (R443). -/
def dupWrites : Row :=
  ⟨0xA12006, 256, 1, 1, .u32, .ro, fun _ _ => 0, 0, 4294967295, fun _ => true⟩
/-- ANN_TIMEOUT, 0xA120.07 (R443). -/
def annTimeout : Row :=
  ⟨0xA12007, 256, 1, 1, .u16, .rw, fun _ _ => 20, 1, 90, fun _ => true⟩

/-- DEVICE_NAME, 0x1008.00 (R488). -/
def deviceName : Row :=
  ⟨0x100800, 256, 1, 1, .str, .ro, fun _ _ => 0, 0, 0, fun _ => true⟩
/-- SILICON_REV, 0x1009.00 (R488). -/
def siliconRev : Row :=
  ⟨0x100900, 256, 1, 1, .str, .ro, fun _ _ => 0, 0, 0, fun _ => true⟩
/-- ROM_VER, 0x100A.01 (R488). -/
def romVer : Row :=
  ⟨0x100A01, 256, 1, 1, .u16, .ro, fun _ _ => 258, 0, 65535, fun _ => true⟩
/-- PATCH_VER, 0x100A.02 (R488). -/
def patchVer : Row :=
  ⟨0x100A02, 256, 1, 1, .u16, .ro, fun _ _ => 0, 0, 65535, fun _ => true⟩
/-- VENDOR_ID, 0x1018.01 (R488). -/
def vendorId : Row :=
  ⟨0x101801, 256, 1, 1, .u32, .ro, fun _ _ => 3674, 0, 4294967295, fun _ => true⟩
/-- PRODUCT_CODE, 0x1018.02 (R488). -/
def productCode : Row :=
  ⟨0x101802, 256, 1, 1, .u32, .ro, fun _ _ => 5454134, 0, 4294967295, fun _ => true⟩
/-- REVISION, 0x1018.03 (R488). -/
def revision : Row :=
  ⟨0x101803, 256, 1, 1, .u32, .ro, fun _ _ => 2, 0, 4294967295, fun _ => true⟩
/-- SERIAL, 0x1018.04 (R488). -/
def serial : Row :=
  ⟨0x101804, 256, 1, 1, .u32, .ro, fun _ _ => 0, 0, 4294967295, fun _ => true⟩
/-- ORDER_CODE, 0x1020.01 (R488). -/
def orderCode : Row :=
  ⟨0x102001, 256, 1, 1, .str, .ro, fun _ _ => 0, 0, 0, fun _ => true⟩
/-- GRADE, 0x1020.02 (R488). -/
def grade : Row :=
  ⟨0x102002, 256, 1, 1, .u8, .ro, fun _ _ => 0, 0, 255, fun _ => true⟩
/-- DIE_ID, 0x1020.03 (R488). -/
def dieId : Row :=
  ⟨0x102003, 256, 1, 1, .u48, .ro, fun _ _ => 0, 0, 281474976710655, fun _ => true⟩
/-- CH_PRESENT, 0x1020.04 (R488). -/
def chPresent : Row :=
  ⟨0x102004, 256, 1, 1, (.domain 12), .ro, fun _ _ => 0, 0, 0, fun _ => true⟩
/-- PERSONA, 0x1020.05 (R488). -/
def persona : Row :=
  ⟨0x102005, 256, 1, 1, .u8, .ro, fun _ _ => 0, 0, 255, fun _ => true⟩
/-- STRAPS, 0x1020.06 (R488). -/
def straps : Row :=
  ⟨0x102006, 256, 1, 1, .u8, .ro, fun _ _ => 0, 0, 255, fun _ => true⟩
/-- COMMAND, 0x1F00.01 (R488). -/
def command : Row :=
  ⟨0x1F0001, 256, 1, 1, .u48, .wo, fun _ _ => 0, 0, 281474976710655, fun _ => true⟩
/-- CMD_LAST, 0x1F00.02 (R488). -/
def cmdLast : Row :=
  ⟨0x1F0002, 256, 1, 1, .u48, .ro, fun _ _ => 0, 0, 281474976710655, fun _ => true⟩
/-- CMD_RESULT, 0x1F00.03 (R488). -/
def cmdResult : Row :=
  ⟨0x1F0003, 256, 1, 1, .u32, .ro, fun _ _ => 0, 0, 4294967295, fun _ => true⟩
/-- CAN_DOM_OFS, 0x1F00.04 (R488). -/
def canDomOfs : Row :=
  ⟨0x1F0004, 256, 1, 1, .u32, .rw, fun _ _ => 0, 0, 4294967295, fun _ => true⟩
/-- SUMMARY, 0x1F80.00 (R488). -/
def summary : Row :=
  ⟨0x1F8000, 256, 1, 1, (.domain 1024), .ro, fun _ _ => 0, 0, 0, fun _ => true⟩
/-- DEV_STATE, 0x2000.01 (R488). -/
def devState : Row :=
  ⟨0x200001, 256, 1, 1, .u8, .ro, fun _ _ => 0, 0, 255, fun _ => true⟩
/-- DEV_FLAGS, 0x2000.02 (R488). -/
def devFlags : Row :=
  ⟨0x200002, 256, 1, 1, .u16, .ro, fun _ _ => 0, 0, 65535, fun _ => true⟩
/-- RESET_CAUSE, 0x2000.03 (R488). -/
def resetCause : Row :=
  ⟨0x200003, 256, 1, 1, .u8, .ro, fun _ _ => 0, 0, 255, fun _ => true⟩
/-- EVENT_SEQ, 0x2000.04 (R488). -/
def eventSeq : Row :=
  ⟨0x200004, 256, 1, 1, .u48, .ro, fun _ _ => 0, 0, 281474976710655, fun _ => true⟩
/-- CONFIG_CRC, 0x2000.05 (R488). -/
def configCrc : Row :=
  ⟨0x200005, 256, 1, 1, .u32, .ro, fun _ _ => 0, 0, 4294967295, fun _ => true⟩
/-- ARM_CHECK, 0x2000.06 (R488). -/
def armCheck : Row :=
  ⟨0x200006, 256, 1, 1, .u8, .ro, fun _ _ => 0, 0, 255, fun _ => true⟩
/-- EVENT_MASK, 0x2000.07 (R488). -/
def eventMask : Row :=
  ⟨0x200007, 256, 1, 1, .u16, .rw, fun _ _ => 255, 0, 65535, fun _ => true⟩
/-- STORE_STATUS, 0x2000.08 (R488). -/
def storeStatus : Row :=
  ⟨0x200008, 256, 1, 1, .u8, .ro, fun _ _ => 0, 0, 255, fun _ => true⟩
/-- STORE_PROGRESS, 0x2000.09 (R488). -/
def storeProgress : Row :=
  ⟨0x200009, 256, 1, 1, .u8, .ro, fun _ _ => 0, 0, 255, fun _ => true⟩
/-- IMAGE_SEQ, 0x2000.0A (R488). -/
def imageSeq : Row :=
  ⟨0x20000A, 256, 1, 1, .u32, .ro, fun _ _ => 0, 0, 4294967295, fun _ => true⟩
/-- FAULT_LAST, 0x2000.0B (R488). -/
def faultLast : Row :=
  ⟨0x20000B, 256, 1, 1, .u16, .ro, fun _ _ => 0, 0, 65535, fun _ => true⟩
/-- RESTORE_SKIPS, 0x2000.0C (R488). -/
def restoreSkips : Row :=
  ⟨0x20000C, 256, 1, 1, .u32, .ro, fun _ _ => 0, 0, 4294967295, fun _ => true⟩
/-- JOB_ID, 0x2010.01 (R488). -/
def jobId : Row :=
  ⟨0x201001, 256, 1, 1, .u32, .rws, fun _ _ => 0, 0, 4294967295, fun _ => true⟩
/-- JOB_TRIG, 0x2010.02 (R488). -/
def jobTrig : Row :=
  ⟨0x201002, 256, 1, 1, .u8, .rws, fun _ _ => 255, 0, 255, fun v => v ≤ 7 || v == 255⟩
/-- START_DIST, 0x2010.03 (R488). -/
def startDist : Row :=
  ⟨0x201003, 256, 1, 1, .i48, .rws, fun _ _ => 0, -140737488355328, 140737488355327, fun _ => true⟩
/-- PAGE_LINES, 0x2010.04 (R488). -/
def pageLines : Row :=
  ⟨0x201004, 256, 1, 1, .u32, .rws, fun _ _ => 0, 0, 4294967295, fun _ => true⟩
/-- PAGE_PITCH, 0x2010.05 (R488). -/
def pagePitch : Row :=
  ⟨0x201005, 256, 1, 1, .u48, .rws, fun _ _ => 0, 0, 281474976710655, fun _ => true⟩
/-- JOB_PAGES, 0x2010.06 (R488). -/
def jobPages : Row :=
  ⟨0x201006, 256, 1, 1, .u32, .rws, fun _ _ => 0, 0, 4294967295, fun _ => true⟩
/-- JOB_PAGE, 0x2010.07 (R488). -/
def jobPage : Row :=
  ⟨0x201007, 256, 1, 1, .u32, .ro, fun _ _ => 0, 0, 4294967295, fun _ => true⟩
/-- PAGES_DONE, 0x2010.08 (R488). -/
def pagesDone : Row :=
  ⟨0x201008, 256, 1, 1, .u32, .ro, fun _ _ => 0, 0, 4294967295, fun _ => true⟩
/-- PAGE_START, 0x2010.09 (R488). -/
def pageStart : Row :=
  ⟨0x201009, 256, 1, 1, .u48, .ro, fun _ _ => 0, 0, 281474976710655, fun _ => true⟩
/-- EVENT_LOG, 0x2040.01 (R488). -/
def eventLog : Row :=
  ⟨0x204001, 256, 1, 1, (.domain 1536), .ro, fun _ _ => 0, 0, 0, fun _ => true⟩

/-- CLASS_k, 0x7000 + s.01-.0F (R527). -/
def faultClass : Row :=
  ⟨0x700001, 256, 256, 15, .u8, .rw, fun s j => defaultClass s (j + 1), 0, 4, fun _ => true⟩
/-- LAST_ADDR, 0x7000 + s.10 (R527). -/
def lastAddr : Row :=
  ⟨0x700010, 256, 256, 1, .u48, .ro, fun _ _ => 0, 0, 281474976710655, fun _ => true⟩
/-- LAST_KIND, 0x7000 + s.11 (R527). -/
def lastKind : Row :=
  ⟨0x700011, 256, 256, 1, .u8, .ro, fun _ _ => 0, 0, 255, fun _ => true⟩
/-- STICKY, 0x7000 + s.12 (R527). -/
def sticky : Row :=
  ⟨0x700012, 256, 256, 1, .bool, .rw, fun _ _ => 0, 0, 0, fun _ => true⟩
/-- STICKY_CLASS, 0x7000 + s.13 (R527). -/
def stickyClass : Row :=
  ⟨0x700013, 256, 256, 1, .u8, .ro, fun _ _ => 0, 0, 255, fun _ => true⟩
/-- MSG_COUNT, 0x7000 + s.14 (R527). -/
def msgCount : Row :=
  ⟨0x700014, 256, 256, 1, .u32, .ro, fun _ _ => 0, 0, 4294967295, fun _ => true⟩
/-- STICKY_MAP, 0x7100.01 (R527). -/
def stickyMap : Row :=
  ⟨0x710001, 256, 1, 1, (.domain 32), .ro, fun _ _ => 0, 0, 0, fun _ => true⟩
/-- CLEAR_ALL, 0x7100.02 (R527). -/
def clearAll : Row :=
  ⟨0x710002, 256, 1, 1, .u8, .wo, fun _ _ => 0, 1, 1, fun _ => true⟩
/-- LOST_IN_REACTION, 0x7100.03 (R527). -/
def lostInReaction : Row :=
  ⟨0x710003, 256, 1, 1, .bool, .rw, fun _ _ => 0, 0, 0, fun _ => true⟩
/-- LOST_COUNT, 0x7100.04 (R527). -/
def lostCount : Row :=
  ⟨0x710004, 256, 1, 1, .u32, .ro, fun _ _ => 0, 0, 4294967295, fun _ => true⟩
/-- ALIVE_HALF, 0x7100.05 (R527). -/
def aliveHalf : Row :=
  ⟨0x710005, 256, 1, 1, .u16, .rw, fun _ _ => 10, 1, 1000, fun _ => true⟩
/-- ALIVE_STATE, 0x7100.06 (R527). -/
def aliveState : Row :=
  ⟨0x710006, 256, 1, 1, .u8, .ro, fun _ _ => 0, 0, 255, fun _ => true⟩
/-- FENCES, 0x7100.07 (R527). -/
def fences : Row :=
  ⟨0x710007, 256, 1, 1, .u32, .ro, fun _ _ => 0, 0, 4294967295, fun _ => true⟩
/-- DIE_TEMP, 0x7200.01 (R528). -/
def dieTemp : Row :=
  ⟨0x720001, 256, 1, 1, .i16, .ro, fun _ _ => 0, -32768, 32767, fun _ => true⟩
/-- DIE_TEMP_MAX, 0x7200.02 (R528). -/
def dieTempMax : Row :=
  ⟨0x720002, 256, 1, 1, .i16, .ro, fun _ _ => 0, -32768, 32767, fun _ => true⟩
/-- DIODE_STATE, 0x7200.03 (R528). -/
def diodeState : Row :=
  ⟨0x720003, 256, 1, 1, .u8, .ro, fun _ _ => 0, 0, 255, fun _ => true⟩
/-- TRIP_RUN, 0x7200.04 (R528). -/
def tripRun : Row :=
  ⟨0x720004, 256, 1, 1, .u8, .ro, fun _ _ => 0, 0, 255, fun _ => true⟩
/-- TRIP_LEVEL, 0x7200.05 (R528). -/
def tripLevel : Row :=
  ⟨0x720005, 256, 1, 1, .i16, .ro, fun _ _ => 2240, -32768, 32767, fun _ => true⟩
/-- SHUTDOWN_MODE, 0x7200.06 (R528). -/
def shutdownMode : Row :=
  ⟨0x720006, 256, 1, 1, .u8, .rw, fun _ _ => 0, 0, 1, fun _ => true⟩
/-- SHUTDOWN_BUDGET, 0x7200.07 (R528). -/
def shutdownBudget : Row :=
  ⟨0x720007, 256, 1, 1, .u8, .rw, fun _ _ => 10, 0, 50, fun _ => true⟩
/-- SUP_V, 0x7210 + m.01 (R528). -/
def supV : Row :=
  ⟨0x721001, 256, 12, 1, .u16, .ro, fun _ _ => 0, 0, 65535, fun _ => true⟩
/-- SUP_MIN, 0x7210 + m.02 (R528). -/
def supMin : Row :=
  ⟨0x721002, 256, 12, 1, .u16, .ro, fun _ _ => 65535, 0, 65535, fun _ => true⟩
/-- SUP_STATE, 0x7210 + m.03 (R528). -/
def supState : Row :=
  ⟨0x721003, 256, 12, 1, .u8, .ro, fun _ _ => 0, 0, 255, fun _ => true⟩
/-- WARN_COUNT, 0x7210 + m.04 (R528). -/
def warnCount : Row :=
  ⟨0x721004, 256, 12, 1, .u32, .ro, fun _ _ => 0, 0, 4294967295, fun _ => true⟩
/-- SUPPLY_LAST, 0x7220.01 (R528). -/
def supplyLast : Row :=
  ⟨0x722001, 256, 1, 1, .u8, .ro, fun _ _ => 255, 0, 255, fun _ => true⟩
/-- BROWNOUTS, 0x7220.02 (R528). -/
def brownouts : Row :=
  ⟨0x722002, 256, 1, 1, .u32, .ro, fun _ _ => 0, 0, 4294967295, fun _ => true⟩
/-- DOM_REQ_d, 0x7300.01-.0C (R529). -/
def domReq : Row :=
  ⟨0x730001, 1, 12, 1, .bool, .rw, fun d _ => if d = 5 then 0 else 1, 0, 1, fun _ => true⟩
/-- DOM_STATE_d, 0x7301.01-.0C (R529). -/
def domState : Row :=
  ⟨0x730101, 1, 12, 1, .u8, .ro, fun _ _ => 0, 0, 255, fun _ => true⟩
/-- DOM_WAITING, 0x7302.01 (R529). -/
def domWaiting : Row :=
  ⟨0x730201, 256, 1, 1, .u16, .ro, fun _ _ => 0, 0, 65535, fun _ => true⟩

/-- OTP_STATUS, 0x8000.01 (R565). -/
def otpStatus : Row :=
  ⟨0x800001, 256, 1, 1, .u16, .ro, fun _ _ => 0, 0, 65535, fun _ => true⟩
/-- OTP_WORD, 0x8000.02 (R565). -/
def otpWord : Row :=
  ⟨0x800002, 256, 1, 1, .u16, .rw, fun _ _ => 0, 0, 511, fun _ => true⟩
/-- OTP_DATA, 0x8000.03 (R565). -/
def otpData : Row :=
  ⟨0x800003, 256, 1, 1, .u48, .rw, fun _ _ => 0, 0, 281474976710655, fun _ => true⟩
/-- OTP_OP, 0x8000.04 (R565). -/
def otpOp : Row :=
  ⟨0x800004, 256, 1, 1, .u8, .wo, fun _ _ => 0, 1, 4, fun _ => true⟩
/-- OTP_RESULT, 0x8000.05 (R565). -/
def otpResult : Row :=
  ⟨0x800005, 256, 1, 1, .u8, .ro, fun _ _ => 0, 0, 255, fun _ => true⟩
/-- VPP_SRC, 0x8000.06 (R565). -/
def vppSrc : Row :=
  ⟨0x800006, 256, 1, 1, .u8, .ro, fun _ _ => 0, 0, 255, fun _ => true⟩
/-- REINF_QUEUE, 0x8000.07 (R565). -/
def reinfQueue : Row :=
  ⟨0x800007, 256, 1, 1, .u8, .ro, fun _ _ => 0, 0, 255, fun _ => true⟩
/-- WEAK_COUNT, 0x8000.08 (R565). -/
def weakCount : Row :=
  ⟨0x800008, 256, 1, 1, .u16, .ro, fun _ _ => 0, 0, 65535, fun _ => true⟩
/-- WIRES, 0x8000.09 (R565). -/
def wires : Row :=
  ⟨0x800009, 256, 1, 1, .u16, .ro, fun _ _ => 0, 0, 65535, fun _ => true⟩
/-- WIRES_SHADOW, 0x8000.0A (R565). -/
def wiresShadow : Row :=
  ⟨0x80000A, 256, 1, 1, .u16, .ro, fun _ _ => 0, 0, 65535, fun _ => true⟩
/-- PATCH_STATUS, 0x8000.0B (R565). -/
def patchStatus : Row :=
  ⟨0x80000B, 256, 1, 1, .u8, .ro, fun _ _ => 0, 0, 255, fun _ => true⟩
/-- BOOT_CONFIG_US, 0x8000.0C (R565). -/
def bootConfigUs : Row :=
  ⟨0x80000C, 256, 1, 1, .u32, .ro, fun _ _ => 0, 0, 4294967295, fun _ => true⟩
/-- BOOT_READY_US, 0x8000.0D (R565). -/
def bootReadyUs : Row :=
  ⟨0x80000D, 256, 1, 1, .u32, .ro, fun _ _ => 0, 0, 4294967295, fun _ => true⟩
/-- TALLY_TRIPS, 0x8010.01 (R565). -/
def tallyTrips : Row :=
  ⟨0x801001, 256, 1, 1, .u8, .ro, fun _ _ => 0, 0, 255, fun _ => true⟩
/-- TALLY_RANKS, 0x8010.02 (R565). -/
def tallyRanks : Row :=
  ⟨0x801002, 256, 1, 1, .u8, .ro, fun _ _ => 0, 0, 255, fun _ => true⟩
/-- TALLY_RECORDS, 0x8010.03 (R565). -/
def tallyRecords : Row :=
  ⟨0x801003, 256, 1, 1, (.domain 14), .ro, fun _ _ => 0, 0, 0, fun _ => true⟩
/-- CAL_CMD, 0x9000.01 (R567). -/
def calCmd : Row :=
  ⟨0x900001, 256, 1, 1, .u8, .wo, fun _ _ => 0, 0, 15, fun _ => true⟩
/-- CAL_DELTA, 0x9000.02 (R567). -/
def calDelta : Row :=
  ⟨0x900002, 256, 1, 1, .u8, .rw, fun _ _ => 6, 2, 20, fun _ => true⟩
/-- CAL_TEMP_TRIG, 0x9000.03 (R567). -/
def calTempTrig : Row :=
  ⟨0x900003, 256, 1, 1, .bool, .rw, fun _ _ => 1, 0, 1, fun _ => true⟩
/-- CAL_STATE_k, 0x9001.01-.04 (R567). -/
def calState : Row :=
  ⟨0x900101, 1, 4, 1, .u8, .ro, fun _ _ => 0, 0, 255, fun _ => true⟩
/-- CAL_TEMP_k, 0x9002.01-.04 (R567). -/
def calTemp : Row :=
  ⟨0x900201, 1, 4, 1, .i16, .ro, fun _ _ => 0, -32768, 32767, fun _ => true⟩
/-- TAP_PS, 0x9003.01 (R567). -/
def tapPs : Row :=
  ⟨0x900301, 256, 1, 1, .u16, .ro, fun _ _ => 980, 0, 65535, fun _ => true⟩
/-- HL_TAP, 0x9010.01 (R567). -/
def hlTap : Row :=
  ⟨0x901001, 256, 1, 1, (.domain 384), .ro, fun _ _ => 0, 0, 0, fun _ => true⟩
/-- HL_RESID, 0x9010.02 (R567). -/
def hlResid : Row :=
  ⟨0x901002, 256, 1, 1, (.domain 384), .ro, fun _ _ => 0, 0, 0, fun _ => true⟩
/-- HL_RESID_MAX, 0x9010.03 (R567). -/
def hlResidMax : Row :=
  ⟨0x901003, 256, 1, 1, .u8, .rw, fun _ _ => 2, 1, 63, fun _ => true⟩
/-- DL_EYE, 0x9011.01 (R567). -/
def dlEye : Row :=
  ⟨0x901101, 256, 1, 1, (.domain 96), .ro, fun _ _ => 0, 0, 0, fun _ => true⟩
/-- DL_EYE_MIN, 0x9011.02 (R567). -/
def dlEyeMin : Row :=
  ⟨0x901102, 256, 1, 1, .u8, .rw, fun _ _ => 24, 1, 64, fun _ => true⟩
/-- DL_STEP, 0x9011.03 (R567). -/
def dlStep : Row :=
  ⟨0x901103, 256, 1, 1, .u16, .rw, fun _ _ => 1000, 1, 32767, fun _ => true⟩
/-- DRAM_EYE, 0x9012.01 (R567). -/
def dramEye : Row :=
  ⟨0x901201, 256, 1, 1, (.domain 640), .ro, fun _ _ => 0, 0, 0, fun _ => true⟩
/-- DRAM_TAP_PS, 0x9012.02 (R567). -/
def dramTapPs : Row :=
  ⟨0x901202, 256, 1, 1, .u16, .ro, fun _ _ => 0, 0, 65535, fun _ => true⟩
/-- DRAM_EYE_MIN, 0x9012.03 (R567). -/
def dramEyeMin : Row :=
  ⟨0x901203, 256, 1, 1, .u8, .rw, fun _ _ => 12, 1, 63, fun _ => true⟩
/-- VERN_RESID, 0x9013.01 (R567). -/
def vernResid : Row :=
  ⟨0x901301, 256, 1, 1, .u16, .ro, fun _ _ => 0, 0, 65535, fun _ => true⟩
/-- VERN_LIMIT, 0x9013.02 (R567). -/
def vernLimit : Row :=
  ⟨0x901302, 256, 1, 1, .u16, .rw, fun _ _ => 200, 10, 1000, fun _ => true⟩

/-- FRAMES_OK, 0xC080 + 0x100 × p.01 (R594). -/
def framesOk : Row :=
  ⟨0xC08001, 65536, 3, 1, .u48, .ro, fun _ _ => 0, 0, 281474976710655, fun _ => true⟩
/-- PERSONA_DEFAULT, 0xC0F0.01 (R594). -/
def personaDefault : Row :=
  ⟨0xC0F001, 256, 1, 1, .u8, .cnt, fun _ _ => 7, 0, 63, fun v => v % 8 != 0⟩
/-- PERSONA_LEFT, 0xC0F0.02 (R594). -/
def personaLeft : Row :=
  ⟨0xC0F002, 256, 1, 1, .u8, .ro, fun _ _ => 4, 0, 255, fun _ => true⟩

/-- PIN_IN, 0xF000.01 (R610). -/
def pinIn : Row :=
  ⟨0xF00001, 256, 1, 1, .u32, .ro, fun _ _ => 0, 0, 4294967295, fun _ => true⟩
/-- HL_SWING, 0xF001.01 (R610). -/
def hlSwing : Row :=
  ⟨0xF00101, 256, 1, 1, .u8, .rw, fun _ _ => 1, 0, 2, fun _ => true⟩
/-- HL_DEEMPH, 0xF001.02 (R610). -/
def hlDeemph : Row :=
  ⟨0xF00102, 256, 1, 1, .u8, .rw, fun _ _ => 0, 0, 6, fun _ => true⟩
/-- DL_SWING, 0xF001.03 (R610). -/
def dlSwing : Row :=
  ⟨0xF00103, 256, 1, 1, .u8, .rw, fun _ _ => 1, 0, 2, fun _ => true⟩
/-- IO_DRIVE, 0xF001.04 (R610). -/
def ioDrive : Row :=
  ⟨0xF00104, 256, 1, 1, .u8, .rw, fun _ _ => 1, 0, 2, fun _ => true⟩
/-- PRBS_SEL, 0xF002.01 (R610). -/
def prbsSel : Row :=
  ⟨0xF00201, 256, 1, 1, .u8, .rws, fun _ _ => 0, 0, 2, fun _ => true⟩
/-- PRBS_LINK, 0xF002.02 (R610). -/
def prbsLink : Row :=
  ⟨0xF00202, 256, 1, 1, .u16, .rws, fun _ _ => 0, 0, 65535, fun v =>
    let x := v.toNat / 16 % 256
    let k := v.toNat / 4096
    if k = 0 then decide (x < 96 ∧ v.toNat % 16 < 4) else if k = 1 then decide (x < 96) else k == 2 && decide (x < 2)⟩
/-- PRBS_LOCK, 0xF002.03 (R610). -/
def prbsLock : Row :=
  ⟨0xF00203, 256, 1, 1, .bool, .ro, fun _ _ => 0, 0, 1, fun _ => true⟩
/-- PRBS_ERRORS, 0xF002.04 (R610). -/
def prbsErrors : Row :=
  ⟨0xF00204, 256, 1, 1, .u32, .ro, fun _ _ => 0, 0, 4294967295, fun _ => true⟩

end E

open E

/-- Rows of chapter 02. -/
def rows02a : List Row :=
  [srcPrimary, srcSecondary, srcActive, changeover, autoChange, landMode, encMode, encDir, encFilter,
   encTimeout, encCount, encErrors, encLastTs, encVmin, trigEdge, trigHoldoff, trigOffset, trigLastTs,
   trigLastPos, trigReject, trigQueued, flight, offset, lastLine, skipped, linePitch, lockLead, maxFireRate,
   backlashWin, hwm, reverseCount, coastMax, handoverTol, handoverSlew, coastElapsed, posEst, velEst, accEst,
   sampleTime, timeNow]

/-- Rows of chapter 02. -/
def rows02b : List Row :=
  [skippedTotal, ringPosNode, ringPosTimeout, ringPosPublish, ringPosRate, speedReq, speedLimFull,
   speedLimFreq, speedLimEn, speedBcast, posStatus]

/-- Rows of chapter 03. -/
def rows03a : List Row :=
  [engState, channel, engEnable, chDisable, chDisableLeft, nozzles, lineCols, dropBits, winStart, nbStride,
   nbSpan, feedAhead, damagedFill, lbReady, lateRunMax, tileW, tileH, tileYoff, tableCommit, tableStatus,
   stitchCrc, commitLine, hlRate, hlMode, hlStatus, hlSerTime, linesFired, lateLines, damagedLines,
   takeoverLost, servedBy, takeover, shapeShadow, shapeActive, stitchShadow, stitchActive, tileShadow,
   tileActive]

/-- Rows of chapter 04. -/
def rows04a : List Row :=
  [girthQuota, girthPower, girthTau, girthOverMs, eAvg, girthEnergy, speedMax, speedFloor, decelLim, accelLim,
   bufReserve, rQuota, rBuf, speedTarget, limiter, linesAhead, headTemp, headRaw, tempSrc, paused, otLines,
   nbA, nbB, heaterSet, heaterDuty, heaterI, stretch, gain, ampScale, vSup, driveSkew, driveStatus, eLine,
   driveRxDelay, headVCeil, headVCeilLeft, cNoz, vOutLsb, ampVLsb, ampILsb]

/-- Rows of chapter 04. -/
def rows04b : List Row :=
  [gainMin, gainMax, otThresh, preheatDuty, preheatBand, waveShadow, waveActive, waveCheck, tRef, waveKt, vRef,
   waveKv, swing]

/-- Rows of chapter 05. -/
def rows05a : List Row :=
  [healthMap, healthEn, template0, template1, templateValid, learnRate, probeLearn, learnStatus, probeTaps,
   probeDiv, scoreGood, scoreFail, aTol, probeRateTol, scanNext, scanCount, lastScanTime, failedCount,
   uncoveredCount, weakNow, probesInvalid, lastFailed, healthStatus]

/-- Rows of chapter 06. -/
def rows06a : List Row :=
  [latheLoad, latheLoadMax, overruns, kx, kv, ka, logEn, logBase, logSize, logDiv, logWr, logDropped, loopEn,
   trigKind, trigDiv, trigCh, srcA, xmodeA, firstA, lenA, srcB, xmodeB, firstB, lenB, sink, outMin, outMax,
   slewUp, slewDown, stateLim, awBack, refTarget, refRateUp, refRateDown, refNow, loopHandoverTol,
   loopHandoverSlew, loopCmd, output, hofs]

/-- Rows of chapter 06. -/
def rows06b : List Row :=
  [y1, y2, srcConst, loopStatus, satCount, heldCount, log, b0, b1, b2, a1, a2, bShift, x1, x2, sectionBlock]

/-- Rows of chapter 07. -/
def rows07a : List Row :=
  [memStatus, dramRate, ranksPerCh, framesPerRank, initPages, mappedPages, retiredPages, migShare, migRank,
   migPagesDone, migPoisonCount, pdTimer, srTimer, scrubPeriod, ceLimit, rankState0, rankState1, power0,
   power1, ceCount0, ceCount1, ueCount0, ueCount1, refreshRate, bwRead, bwWrite, sramStatus, sramCeCount,
   sramUeCount, pageMap, mapPage, mapTarget, mapOp, mapResult]

/-- Rows of chapter 08. -/
def rows08a : List Row :=
  [src, dst, count, ctrl, link, rsStride, start, pause, abort, stat, hops, dmaHopMax, faultAddr, feedRb,
   feedOfs, feedNext, feedWaits, rbBase, rbLines, rbStride, rbMode, rbWr, rbTail, rbFree, rbReaders,
   dmaRunning, dmaPending, dmaDone, linkBuf]

/-- Rows of chapter 09. -/
def rows09a : List Row :=
  [portEn, macAddr, ipv4Addr, ipv6Addr, rsMcast, portStatus, rxSegs, rxBytes, dropFrame, dropCrc, dropOther,
   fecCorr, fecUncorrCnt, rsUdpPort, rsGapTimeout, rsWindow, rsAckPeriod, rsSramEn, rsEn, rsLineBytes,
   rsSegBytes, rsFill, missingLines, lateSegs, overrunSegs, dupSegs]

/-- Rows of chapter 10. -/
def rows10a : List Row :=
  [ringEn, ringAddr, ringAddrLeft, ringRoot, ringNonce, ringAddrNow, canEn, canNodeId, canNomRate, canDataRate,
   canNomSp, canDataSp, canHbTime, canNmt, canStatus, canTec, canRec, rxFrames, txFrames, crcErrors, linkDelay,
   laneDowns, hopsToRoot, syncPeriod, syncTimeout, rtStepLimit, rtState, rtOffset, rtRate, rtimeNow, syncSrc,
   timeSteps, ringStatus, ringInjWait, ringHeal, reqQueue, reqBusy, dupWrites, annTimeout]

/-- Rows of chapter 11. -/
def rows11a : List Row :=
  [deviceName, siliconRev, romVer, patchVer, vendorId, productCode, revision, serial, orderCode, grade, dieId,
   chPresent, persona, straps, command, cmdLast, cmdResult, canDomOfs, summary, devState, devFlags, resetCause,
   eventSeq, configCrc, armCheck, eventMask, storeStatus, storeProgress, imageSeq, faultLast, restoreSkips,
   jobId, jobTrig, startDist, pageLines, pagePitch, jobPages, jobPage, pagesDone, pageStart]

/-- Rows of chapter 11. -/
def rows11b : List Row :=
  [eventLog]

/-- Rows of chapter 12. -/
def rows12a : List Row :=
  [faultClass, lastAddr, lastKind, sticky, stickyClass, msgCount, stickyMap, clearAll, lostInReaction,
   lostCount, aliveHalf, aliveState, fences, dieTemp, dieTempMax, diodeState, tripRun, tripLevel, shutdownMode,
   shutdownBudget, supV, supMin, supState, warnCount, supplyLast, brownouts, domReq, domState, domWaiting]

/-- Rows of chapter 13. -/
def rows13a : List Row :=
  [otpStatus, otpWord, otpData, otpOp, otpResult, vppSrc, reinfQueue, weakCount, wires, wiresShadow,
   patchStatus, bootConfigUs, bootReadyUs, tallyTrips, tallyRanks, tallyRecords, calCmd, calDelta, calTempTrig,
   calState, calTemp, tapPs, hlTap, hlResid, hlResidMax, dlEye, dlEyeMin, dlStep, dramEye, dramTapPs,
   dramEyeMin, vernResid, vernLimit]

/-- Rows of chapter 14. -/
def rows14a : List Row :=
  [framesOk, personaDefault, personaLeft]

/-- Rows of chapter 15. -/
def rows15a : List Row :=
  [pinIn, hlSwing, hlDeemph, dlSwing, ioDrive, prbsSel, prbsLink, prbsLock, prbsErrors]

/-- Every row of the dictionary tables, in the order of the chapters. -/
def rowTable : List Row :=
  rows02a ++ rows02b ++ rows03a ++ rows04a ++ rows04b ++ rows05a ++ rows06a ++ rows06b ++ rows07a ++
  rows08a ++ rows09a ++ rows10a ++ rows11a ++ rows11b ++ rows12a ++ rows13a ++ rows14a ++ rows15a

end Sys2Proof.Machine
end

