-- ==== Sys2Proof/Machine/State.lean ====
section
/-!
DEFINITION. The state of the S96 as plain data, the reasons a step can stop, and the state right after a power-on
reset.

Every scalar dictionary entry lives in `State.dict` under its own index and subindex (R445), sparse: an entry that
is not listed holds its default. Every byte memory lives in `State.mem`. What the spec gives a unit beyond its
dictionary entries stands in that unit's structure below. Fields that are the model's own say so.
-/
namespace Sys2Proof.Machine

/-- Why the block stops. -/
inductive Fault where
  /-- Raised by a memory access of a command that names an address outside the memory it addresses (R299, R334):
  the spec says that no such address exists. Safe. -/
  | noSuchMemory (addr : Nat)
  deriving DecidableEq, Repr

/-- Why a command has no meaning. -/
inductive Refusal where
  /-- Raised by `exec` for a command that has no meaning yet. Safe. -/
  | notModelled (mnemonic : String)
  deriving DecidableEq, Repr

/-- The seven device states of R19. -/
inductive DevState where
  | boot | config | ready | armed | printing | halt | safe
  deriving DecidableEq, Repr

/-- The state of a table shadow (R134). -/
inductive ShState where
  | clean | dirty | syncing | folding
  deriving DecidableEq, Repr

/-- Which kind of event acted on a unit in the present TICK (R39, R40). -/
inductive Act where
  | reset | trip | fence | done | abort | pause
  deriving DecidableEq, Repr

/-- A unit that an event of a TICK targets (R39, R40). -/
inductive Target where
  | device | job
  | engine (e : Nat) | channel (c : Nat) | dma (n : Nat) | loop (l : Nat)
  | intake (p : Nat) | lane (i : Nat)
  | source (s : Nat)
  deriving DecidableEq, Repr

/-- What leaves the S96 at its pins, links and ports. The model's own record (log entry 19). -/
inductive Out where
  /-- The answer to an access on a port: the code of R452 and the data of a read. -/
  | answer (port : Port) (code : Nat) (data : List Byte)
  /-- A Darine frame on a ring's OUT lane, at a TIME; `cut` when it ends in an error block (R406). -/
  | ringFrame (ring : Nat) (bytes : List Byte) (cut : Bool)
  /-- A CAN FD frame: identifier and data (R437). -/
  | canFrame (id : Nat) (data : List Byte)
  /-- A UDP datagram from an intake port: to a MAC, IP address and UDP port, from the port's own, with its UDP checksum (R381,
  R392). -/
  | datagram (port mac : Nat) (ip : List Byte) (udp : Nat) (ownMac : Nat) (ownIp : List Byte) (ownUdp checksum : Nat)
      (payload : List Byte)
  /-- An ARP reply: port, MAC and IPv4 address of the asker, own MAC and own IPv4 address (R380). -/
  | arpReply (port mac ip ownMac ownIp : Nat)
  /-- A neighbour advertisement (R380). -/
  | neighbourAdvert (port mac : Nat) (ip : List Byte) (ownMac : Nat) (ownIp : List Byte)
  /-- What was sent of a line frame on the Head link: the starts of its block periods in vernier steps, and the 34-bit blocks
  of the four lanes in those periods (R157 to R163). -/
  | lineFrame (c : Nat) (periods : List Nat) (lanes : List (List Nat))
  /-- An idle frame header, in the same form (R164). -/
  | idleFrame (c : Nat) (periods : List Nat) (lanes : List (List Nat))
  /-- A slot strobe on all four lanes in the block period that starts at a vernier step: slot code and block (R160). -/
  | strobe (c slot start block : Nat)
  /-- What was shifted of a legacy line: the bits of DATA_0 and DATA_1 in order, and the time LAT falls in ns; none where the
  line was stopped before (R171 to R173). -/
  | legacyLine (c : Nat) (data0 data1 : List Bool) (latFall : Option Nat)
  /-- A fire cycle's output samples, and the TIME-step of the first (R186). -/
  | waveform (c firstSample : Nat) (samples : List Int)
  /-- An outbound Drive link frame: its 20 blocks of 34 bits (R193, R194). -/
  | driveFrame (c : Nat) (blocks : List Nat)
  /-- The level ALIVE is driven to (R503). -/
  | alive (level : Bool)
  /-- A PWM period of SPEED_LIM: its length and its high part in CLK_FIRE periods; 0 high is static low (R105). -/
  | speedLim (period high : Nat)
  /-- The staging SRAM answers a master's read with data, marked when they are uncorrectable (R335, R339). -/
  | sramData (master : Nat) (data : List Byte) (bad : Bool)
  /-- The staging SRAM answers a master's request with an error, for it is not ready (R338). -/
  | sramRefused (master : Nat)
  /-- A test pattern replaces the frames of a lane (R612). -/
  | prbs (pattern link : Nat)
  deriving DecidableEq, Repr

/-- An event of R415 as numbered and logged (R469, R471). -/
structure EventRec where
  seq   : Nat
  index : Nat
  sub   : Nat
  kind  : Nat
  value : Nat
  etime : Nat
  /-- ETIME is local TIME (R415). -/
  localTime : Bool
  deriving DecidableEq, Repr

/-- An encoder input beyond its entries (R63 to R68, R89, R90). -/
structure EncSt where
  a      : Bool := false
  b      : Bool := false
  valid  : Bool := false
  /-- Consecutive accepted edges without an illegal transition, up to 16 (R90). -/
  run    : Nat := 0
  /-- TIMEs of the latest illegal transitions, newest first, at most 3 (R89). -/
  illegal : List Nat := []
  deriving DecidableEq, Repr

/-- A trigger input beyond its entries (R79 to R82). -/
structure TrigSt where
  level : Bool := false
  /-- An edge has been accepted since DOM_10 was released (R80). -/
  seen  : Bool := false
  /-- Waiting page starts, oldest first, at most 4 (R81). -/
  queue : List Nat := []
  deriving DecidableEq, Repr

/-- The latest position sample of the ring source (R69, R70, R436). -/
structure RingPosSt where
  valid : Bool := false
  /-- A sample has been consumed, with its SEQ (R436). -/
  seq   : Option Nat := none
  pos   : Nat := 0
  vel   : Int := 0
  /-- Local TIME of the sample (R436). -/
  time  : Nat := 0
  deriving DecidableEq, Repr

/-- The position observer beyond its entries (R273, R284, R87 to R98). -/
structure ObsSt where
  /-- Internal position x of R273: the observer output less HOFS, in POS units. -/
  x        : Int := 0
  /-- An edge or ring sample has arrived since the previous observer sample (R273). -/
  fresh    : Bool := false
  /-- SRC_ACTIVE's value: 0-3 encoder, 4 ring, 6 coast, 7 none (R109). -/
  active   : Nat := 0
  /-- The source that was active before coast or NO_SOURCE (R95). -/
  before   : Nat := 0
  /-- The source that the active chain last served (R282). -/
  chainSrc : Nat := 0
  /-- The source chosen by CHANGEOVER, taken at the next sample (R92, R97). -/
  change   : Option Nat := none
  /-- The new primary that the observer waits for (R617). -/
  primary  : Option Nat := none
  /-- The active source has been lost and the observer has not yet acted on it (R89, R91). -/
  lost     : Bool := false
  /-- COAST_LIMIT has been sent for the present coast (R96). -/
  limited  : Bool := false
  /-- Firing is suspended by backward motion (R87). -/
  reverse  : Bool := false
  /-- The source lies behind HWM inside the window (R108). -/
  held     : Bool := false
  deriving DecidableEq, Repr

/-- A locked line and its frozen fire instant in vernier steps (R84). -/
structure Lock where
  line : Nat
  inst : Nat
  /-- The instant was already past at the line's first solve (R85). -/
  past : Bool
  deriving DecidableEq, Repr

/-- A slot of the line buffer (R116 to R120). -/
structure LbSlot where
  /-- Job line number (R461). -/
  job     : Nat
  /-- Vernier step at which the line was ready (R115). -/
  readyAt : Nat
  /-- The line is damaged and was filled (R143, R144). -/
  damaged : Bool
  rep     : Bool
  /-- Fetched bytes (R367). -/
  data    : List Byte
  deriving DecidableEq, Repr

/-- Why a nozzle is probed: the scan of R234, a confirmation of R242, a learn scan of R243, or one that has been discarded
since, whose response nobody takes (R243, R244). -/
inductive ProbeKind where
  | scan | confirm | learn | discarded
  deriving DecidableEq, Repr

/-- A line that has been built and is in serialisation or waiting to fire (R114, R115). -/
structure Built where
  line    : Nat
  page    : Nat
  engine  : Nat
  fill    : Bool
  rep     : Bool
  /-- The probe nozzle of the line (R232). -/
  probe   : Option Nat
  kind    : ProbeKind
  /-- The 8-bit masks in nozzle order; codes in legacy shift mode (R131, R171). -/
  masks   : List Nat
  /-- Vernier step at which its serialisation or shift begins (R115). -/
  start   : Nat
  /-- Vernier step at which its serialisation ends (R170, R173). -/
  serEnd  : Nat
  /-- Its frame: the start of each block period, and the blocks of the four lanes, masks unscrambled (R160, R161). -/
  frame   : List (Nat × List Nat)
  deriving DecidableEq, Repr

/-- One inbound Drive link sample pair (R195, R197). -/
structure Sample where
  /-- Reference time in vernier steps: the arrival less DRIVE_RX_DELAY_c as it stood then (R197). -/
  at_  : Nat
  v    : Int
  i    : Int
  clip : Bool
  oc   : Bool
  deriving DecidableEq, Repr

/-- The fire cycle that a channel's waveform engine plays (R186, R187). -/
structure Cycle where
  line    : Nat
  /-- t_fire in vernier steps. -/
  fire    : Nat
  /-- S times 4,096 (R199). -/
  stretch : Nat
  /-- GAIN times 2^16. -/
  gain    : Nat
  /-- Vernier step of the first output sample, and the output samples of the cycle. -/
  first   : Nat
  out     : List Int
  /-- The rest level, AMP_REF and EDGE[8] of the table that the cycle plays (R184, R188, R201, R235). -/
  rest    : Int
  ampRef  : Nat
  edge8   : Nat
  deriving DecidableEq, Repr

/-- A probe whose score is not yet ready (R234 to R242). -/
structure Probe where
  nozzle : Nat
  line   : Nat
  /-- The probed nozzle's mask is non-zero in that line: template T1 (R236). -/
  masked : Bool
  cycle  : Cycle
  kind   : ProbeKind
  /-- The line did not fire (R238). -/
  unfired : Bool
  deriving DecidableEq, Repr

/-- A line that a Feed engine is fetching (R143, R309, R372, R373). -/
structure Fetch where
  job   : Nat
  /-- Logical address of its first byte (R367). -/
  addr  : Nat
  /-- A page that is not mapped, a lapped slot or data stored as uncorrectable was met. -/
  bad   : Bool
  /-- Requests that are not accepted yet: address and bytes. -/
  todo  : List (Nat × Nat)
  /-- Requests accepted and in flight. -/
  count : Nat
  /-- Ranks whose exit from self-refresh a request waits for (R332). -/
  waits : List Nat
  /-- Data of the accepted requests, as they stood at the acceptance (R327). -/
  data  : List Byte
  deriving DecidableEq, Repr

/-- A channel beyond its entries (R110). -/
structure Chan where
  -- Job and lines
  page     : Nat := 0
  inPage   : Bool := false
  /-- Lowest line of the page that the channel has not passed (R463). -/
  next     : Nat := 0
  /-- Pages the channel has passed. -/
  pagesPassed : Nat := 0
  /-- The last line fired on the page; none before the first (R464). -/
  fired    : Option Nat := none
  locked   : List Lock := []
  /-- Lines of the page whose instants passed while firing was suspended, below lines still locked: they are solved again
  (R87). -/
  withheld : List Nat := []
  /-- Fire instant of the previous fire, vernier steps (R100). -/
  lastFire : Option Nat := none
  inOver   : Bool := false
  lateRun  : Nat := 0
  /-- Lines that the takeover under way may still lose (R150). -/
  taking   : Nat := 0
  /-- Left unserved by a fence (R52). -/
  unserved : Bool := false
  -- Feed and line buffer
  /-- The lowest job line that the Feed engine has not been asked for (R118). -/
  askNext  : Nat := 0
  asked    : List Nat := []
  /-- The lines whose requests are being made, oldest first (R372). -/
  issued   : List Fetch := []
  slots    : List LbSlot := []
  -- Head link
  built    : Option Built := none
  /-- Vernier step from which the next build may start: the previous line's instant, or the moment the channel came
  into service (R115). -/
  freeAt   : Nat := 0
  seq      : Nat := 0
  /-- Scrambler states of the four lanes (R158). -/
  scr      : List Nat := []
  /-- The block periods of the strobes of the latest fired line (R160). -/
  strobeAt : List Nat := []
  /-- Line headers sent since the lane taps last moved (R558). -/
  headers  : Nat := 0
  bridgeUp : Bool := false
  bridgeEver : Bool := false
  lanes    : Nat := 0
  /-- Every lane has reported lock since the domain powered up (R175). -/
  lockEver : Bool := false
  discards : Nat := 0
  /-- OFS_BITS and OFS_TAPS of the four lanes (R205). -/
  offsets  : List (Int × Nat) := []
  -- Head temperature
  temp     : Int := 0
  thermOk  : Bool := false
  /-- A good frame has arrived in the present round (R206). -/
  bcRound  : Bool := false
  /-- HEAD_TEMP of the good frame used in the preceding round (R206). -/
  prevTemp : Option Int := none
  sensorOk : Bool := false
  sensorRun : Nat := 0
  sensorEver : Bool := false
  /-- Latest valid own reading (R269); 0 when none. -/
  ownTemp  : Int := 0
  -- Drive link
  rxUp     : Bool := false
  rxEver   : Bool := false
  rxGood   : Nat := 0
  /-- Arrival TIMEs of failing frames within 1 ms, newest first (R198). -/
  rxBad    : List Nat := []
  supplyOk : Bool := false
  ampOt    : Bool := false
  ampFault : Bool := false
  ceilHit  : Bool := false
  strLimit : Bool := false
  /-- TIME since which SUPPLY_OK has been 0 (R227). -/
  supplyLow : Option Nat := none
  /-- AMP_FAULT has been sent for the present lack of supply. -/
  supplySent : Bool := false
  ocRun    : Nat := 0
  supplySum : Nat := 0
  supplyNum : Nat := 0
  /-- V_SUP: the mean SUPPLY of the latest round with frames, in units of 10 mV, as it is before it is shown (R199). -/
  supply   : Rat := 0
  /-- Scrambler state of the outbound Drive lane and descrambler state of the inbound one; none before the first frame
  (R193). -/
  driveTx  : Option Nat := none
  driveRx  : Option Nat := none
  /-- The latest inbound samples, newest first. -/
  samples  : List Sample := []
  /-- Calibration k = 1 has completed since the group domain powered up (R614). -/
  calDone  : Bool := false
  -- Waveform and energy
  cycle    : Option Cycle := none
  /-- The cycle before it, whose end may still be on its way to the pins (R190). -/
  prevCycle : Option Cycle := none
  /-- E_i of R217 for slots 0 to 8, in nJ. -/
  energy   : List Rat := []
  /-- Lines fired in the present planning interval (R222, R233). -/
  firedInt : Nat := 0
  /-- Lines fired in the last planning interval. -/
  rateInt  : Nat := 0
  deriving DecidableEq, Repr

/-- A learn scan under way (R243, R244). -/
structure Learn where
  /-- The next nozzle to probe. -/
  next    : Nat
  /-- Sums of the responses divided by GAIN, by tap, and their number, for T0 and T1. -/
  sum0    : List Rat
  num0    : Nat
  sum1    : List Rat
  num1    : Nat
  /-- Line rate at the start and sum of the rates since, with their number. -/
  rate0   : Nat
  rateSum : Nat
  rateNum : Nat
  deriving DecidableEq, Repr

/-- A shadow write held until the copy into the shadow ends (R138, R345). -/
structure HeldWrite where
  addr : Nat
  data : List Byte
  /-- The port whose answer waits for it. -/
  port : Option Port
  deriving DecidableEq, Repr

/-- An engine beyond its entries (R110). -/
structure EngSt where
  stitch : ShState := .clean
  shape  : ShState := .clean
  tile   : ShState := .clean
  wave   : ShState := .clean
  pendStitch : Bool := false
  pendShape  : Bool := false
  pendTile   : Bool := false
  pendWave   : Bool := false
  foldPending : Bool := false
  /-- TICK in which each table's pending bit was set, by its bit of TABLE_COMMIT; a swap follows it (R136). -/
  pendAt   : List (Nat × Nat) := []
  /-- The shadow differs from the active copy once its fold is over (R134). -/
  foldDirty : Bool := false
  /-- The engines of the fold's commit set (R250, R251). -/
  foldSet  : List Nat := []
  /-- The fold's pairing line K and page (R141). -/
  pairAt   : Option (Nat × Nat) := none
  /-- Engine and nozzle that the swap marks resolved; true also marks them uncovered (R250). -/
  marks    : List (Nat × Nat × Bool) := []
  held     : List HeldWrite := []
  /-- Isolated by a fence (R148). -/
  fenced   : Bool := false
  /-- The channel that a spare copies tables for, and the engine it copies from (R149). -/
  copying  : Option (Nat × Nat) := none
  /-- The spare has not yet sent TAKEOVER (R149). -/
  announce : Bool := false
  /-- The spare is unavailable (R153). -/
  unavailable : Bool := false
  /-- The engine is held in reset or failed its self-test (R551). -/
  failedBist : Bool := false
  /-- A Tally record has the engine replaced (R550). -/
  replaced : Bool := false
  /-- SWING_i of slots 0 to 8 in uV, as the latest waveform commit set them (R217). -/
  swing    : List Nat := []
  -- Health
  corrStop : Bool := false
  probes   : List Probe := []
  /-- Lines built since the last probe line (R232). -/
  divCount : Nat := 0
  /-- Nozzles of scan probes to repeat (R238). -/
  again    : List Nat := []
  /-- TICK at which the present scan began (R234). -/
  scanFrom : Nat := 0
  learn    : Option Learn := none
  deriving DecidableEq, Repr

/-- A Lathe section's coefficients and history (R261). -/
structure Section where
  b0 : Int
  b1 : Int
  b2 : Int
  a1 : Int
  a2 : Int
  shift : Nat
  x1 : Int
  x2 : Int
  deriving DecidableEq, Repr

/-- A loop beyond its entries (R265 to R268, R282, R294). -/
structure LoopSt where
  /-- Chain B is active (R294). -/
  chainB   : Bool := false
  cmdHold  : Bool := false
  /-- The slot whose uncorrectable error holds the loop (R263). -/
  eccHold  : Option Nat := none
  /-- That slot has been rewritten whole since, and the sticky bit of 0xB0 has been cleared since (R263). -/
  rewritten : Bool := false
  eccCleared : Bool := false
  /-- Handovers requested and not yet made, modulo 2 (R286), and whether one waits. -/
  pendOdd  : Bool := false
  pend     : Bool := false
  /-- The TICK of the latest request, and whether those of that TICK are odd in number: they wait for a later TICK (R282). -/
  pendAt   : Option (Nat × Bool) := none
  heldLast : Bool := false
  /-- The force condition of its sink held when it was last looked at (R268, R275). -/
  forced   : Bool := false
  clamped  : Bool := false
  slewed   : Bool := false
  saturated : Bool := false
  /-- TICK of the latest SAT message (R260). -/
  satAt    : Option Nat := none
  /-- Samples since the last log record (R290). -/
  logCount : Nat := 0
  /-- TICK of the latest sample of a TICK-triggered loop, and vernier step of a fire-cycle one (R266). -/
  sampledAt : Option Nat := none
  deriving DecidableEq, Repr

/-- A triggered sample of a loop that has not started (R278, R279). -/
structure Waiting where
  /-- 1 a fire-cycle loop, 2 a TICK-triggered one (R278). -/
  cls  : Nat
  /-- TICK of the trigger. -/
  at_  : Nat
  loop : Nat
  ecc  : EccResult
  slot : Nat
  deriving DecidableEq, Repr

/-- The section engine of the Lathe (R277, R278). -/
structure LatheSt where
  /-- Sections of work that lie ahead of it from the start of the present TICK on. -/
  busy    : Nat := 0
  /-- Triggered samples in the order in which they are served. -/
  waiting : List Waiting := []
  deriving DecidableEq, Repr

/-- The condition of a DMA channel (R348). -/
inductive DmaState where
  | idle | pending | running | pausing | paused | stopped | aborting
  deriving DecidableEq, Repr

/-- A DMA channel beyond its entries (R348, R353, R363). -/
structure DmaSt where
  st     : DmaState := .idle
  result : Nat := 0
  side   : Nat := 0
  commitReq : Bool := false
  /-- The block's bytes are all written and its completion is due (R364). -/
  blockEnd : Bool := false
  /-- A descriptor read is in flight (R363). -/
  loading : Bool := false
  /-- Address of the latest byte that the present block has written (R366). -/
  lastAt   : Option Nat := none
  /-- A commit request of a completed block is due in the next TICK, for the table at this address (R366). -/
  commitAt : Option Nat := none
  deriving DecidableEq, Repr

/-- A line of a streamed ring buffer that is not complete (R386 to R390). -/
structure OpenLine where
  line    : Nat
  /-- Segments received or filled, and those whose writes have completed (R387). -/
  got     : List Nat
  written : List Nat
  closed  : Bool
  /-- TICK of the line's first accepted segment (R389). -/
  since   : Option Nat
  deriving DecidableEq, Repr

/-- The intake side of a ring buffer (R384 to R392). -/
structure StreamSt where
  lines : List OpenLine := []
  /-- Port, MAC, IP and UDP port of the latest accepted segment (R392). -/
  sender : Option (Nat × Nat × List Byte × Nat) := none
  /-- Lines still to be closed by TYPE 0x1 datagrams, oldest first: first, end (R391). -/
  absent : List (Nat × Nat) := []
  deriving DecidableEq, Repr

/-- An intake port beyond its entries (R378, R395, R397). -/
structure PortSt where
  linkUp : Bool := false
  /-- The link has been up and has lost PCS alignment or FEC lock (R395). -/
  lost   : Bool := false
  anDone : Bool := false
  /-- TICKs of the latest messages, by kind (R385: one message of each kind per 1 ms). -/
  sentAt : List (Nat × Nat) := []
  deriving DecidableEq, Repr

/-- A ring lane pair and its measurements (R400, R421, R426). -/
structure LaneSt where
  inUp   : Bool := false
  /-- The IN lane has been up and is down (R400, R441). -/
  lost   : Bool := false
  /-- The neighbour reports receiving this ring's OUT lane. -/
  outOk  : Bool := false
  /-- A LINK_STATE report has arrived since the lane came up (R421). -/
  heard  : Bool := false
  /-- Frames held in the transit buffer (R407), oldest first; true for one that ends in an error block. -/
  transit : List (List Byte × Bool) := []
  /-- Own frames waiting for a gap (R407), oldest first. -/
  own    : List (List Byte) := []
  /-- Twice the last values of R426, newest first, at most 16, in 1/256 period. -/
  delays : List Int := []
  /-- SEQ and send time t1 of the outstanding DELAY_REQ. -/
  delayReq : Option (Nat × Nat) := none
  /-- TICK of the latest FRAME_CRC message (R406). -/
  crcAt  : Option Nat := none
  /-- TICK of the latest SYNC that this ring delivered (R429). -/
  syncAt : Option Nat := none
  /-- A frame has left on this ring's OUT lane in the present TICK, so no gap for an own frame (R407). -/
  busy   : Bool := false
  /-- An own frame was injected; arriving frames go to the transit buffer until it is empty (R407). -/
  inj    : Bool := false
  deriving DecidableEq, Repr

/-- The ring node beyond its entries (R413, R416 to R433). -/
structure RingSt where
  /-- 0 off, 1 joining, 2 joined, 3 absent (R444). -/
  join    : Nat := 0
  wrapUp  : Bool := false
  wrapDown : Bool := false
  root    : Bool := false
  addrConflict : Bool := false
  /-- TICK of the latest SYNC of another root, while this node was root (R433). -/
  otherRoot : Option Nat := none
  /-- TICK at which the outstanding ANNOUNCE was sent (R420). -/
  annAt   : Option Nat := none
  /-- SEQ counters by CLASS (R403). -/
  seqs    : List (Nat × Nat) := []
  /-- Source, SEQ and abort code of the latest write of each of the 64 most recent sources (R413). -/
  dups    : List (Nat × Nat × Nat) := []
  /-- Requests whose answer is still to come, oldest first, at most 64 (R412). -/
  queue   : List RingReq := []
  /-- SEQ of the last SYNC consumed (R429). -/
  syncSeq : Option Nat := none
  /-- T_i and RT_i of the latest SYNC applied, in 1/256 period (R430). -/
  ti      : Nat := 0
  rti     : Nat := 0
  /-- (T_i, RT_i) of the latest SYNCs, newest first, at most 9 (R430). -/
  syncs   : List (Nat × Nat) := []
  /-- Consecutive good predictions in locking (R431). -/
  good    : Nat := 0
  /-- Consecutive SYNCs beyond RT_STEP_LIMIT (R431). -/
  steps   : Nat := 0
  /-- TICK of the latest consumed SYNC (R431). -/
  syncAt  : Nat := 0
  deriving DecidableEq, Repr

/-- The CAN FD port beyond its entries (R437 to R439). -/
structure CanSt where
  /-- CAN_NODE_ID in force since the last reset of the controller (R439). -/
  node   : Nat := 127
  /-- 0 off, 1 error active, 2 error passive, 3 bus-off. -/
  status : Nat := 0
  /-- The entry (index x 256 + subindex) of a DOMAIN transfer whose answer is still to come. -/
  waiting : Option Nat := none
  deriving DecidableEq, Repr

/-- The LHP window registers (R455). -/
structure LhpSt where
  index : Nat := 0
  sub   : Nat := 0
  data0 : Nat := 0
  data1 : Nat := 0
  data2 : Nat := 0
  ofs0  : Nat := 0
  ofs1  : Nat := 0
  cmd   : Nat := 0
  busy  : Bool := false
  /-- The entry (index x 256 + subindex) of the access that BUSY stands for. -/
  waiting : Option Nat := none
  /-- Bytes of a DOMAIN or STR that the access moves (R456). -/
  moved : Nat := 0
  overrun : Bool := false
  /-- Code of the last access. -/
  code  : Nat := 0
  deriving DecidableEq, Repr

/-- A fence's reaction window (R497): source and first TICK. -/
structure Window where
  src  : Nat
  from_ : Nat
  deriving DecidableEq, Repr

/-- A shutdown under way (R511). -/
structure Shutdown where
  /-- The step that runs, 1 to 7. -/
  step  : Nat
  /-- It includes a thermal trip (R511 step 5). -/
  trip  : Bool
  /-- Tick 0 (R512). -/
  since : Nat
  deriving DecidableEq, Repr

/-- A fuse word: 48 data bits, the syndrome of its check bits against its data, and the seal bit (R530, R531). -/
structure OtpWord where
  data   : Nat := 0
  /-- 0 when the check bits agree with the data bits. -/
  syn    : Nat := 0
  sealed : Bool := false
  deriving DecidableEq, Repr

/-- The shadow of a fuse word and its status bits (R535 to R537, R566). -/
structure OtpShadow where
  raw    : Nat := 0
  /-- The ECC-corrected data of a sealed word; raw otherwise (R536). -/
  data   : Nat := 0
  sealed : Bool := false
  weak   : Bool := false
  corrected : Bool := false
  uncorr : Bool := false
  deriving DecidableEq, Repr

/-- The fuse controller beyond its entries (R538 to R542, R474). -/
structure OtpSt where
  words    : List (Nat × OtpWord) := []
  shadows  : List (Nat × OtpShadow) := []
  sensed   : Bool := false
  mismatch : Bool := false
  integrity : Bool := false
  unsealedRead : Bool := false
  /-- Critical wires as delivered, bit j for Wj (R534). -/
  wires    : Nat := 0
  /-- The operation under way: OTP_OP code, word, and the data bits that it programs (R539 to R541). -/
  op       : Option (Nat × Nat × Nat) := none
  /-- The port whose OTP_OP write waits for its answer (R539). -/
  opPort   : Option Port := none
  /-- Words and physical bits queued for reinforcement, bit 55 the seal (R530, R542). -/
  queue    : List (Nat × Nat) := []
  /-- Counted changes being programmed: entry key, new value, port (R474). -/
  counted  : List (Nat × Nat × Option Port) := []
  /-- Tally burns that wait for the end of a brown-out: word and logical bits (R519, R520). -/
  waiting  : List (Nat × Nat) := []
  /-- Words with a bit that a reset has left partly programmed: they are found weak at the next start-up (R603). -/
  partly   : List Nat := []
  /-- Channels that are absent since the latest start-up because CH_DISABLE had been written (R472). -/
  absent   : List Nat := []
  deriving DecidableEq, Repr

/-- A stored parameter record: entry key (index x 256 + sub) and value bytes (R479). -/
structure ParamRec where
  key  : Nat
  data : List Byte
  deriving DecidableEq, Repr

/-- A parameter image slot of the flash (R477, R479). -/
structure Image where
  seq   : Nat
  dieId : Nat
  grade : Nat
  recs  : List ParamRec
  /-- The payload agrees with PAY_CRC; a slot whose payload does not is not valid (R480). -/
  payOk : Bool := true
  deriving DecidableEq, Repr

/-- Parameter storage (R476 to R484). -/
structure StoreSt where
  slotA : Option Image := none
  slotB : Option Image := none
  flashOk : Bool := true
  /-- The image that a running STORE writes, and whether to slot B. -/
  storing : Option (Image × Bool) := none
  /-- A RESTORE runs: the image that it applies, none for the defaults, and the outcome code to end with. -/
  restoring : Option (Option Image × Nat) := none
  crcStale : Bool := false
  deriving DecidableEq, Repr

/-- A migration waiting or under way (R315 to R320). -/
structure Migration where
  /-- Failing rank and its spare, as 2 ch + r and 8 or 9. -/
  rank  : Nat
  spare : Nat
  /-- The page of the first error (R317). -/
  first : Option Nat
  /-- Logical pages still to copy, in order, once the copy has begun (R317). -/
  pages : List Nat
  /-- The spare has been brought up and pages are being copied (R316). -/
  begun : Bool
  deriving DecidableEq, Repr

/-- A DRAM rank (R298, R314, R330). -/
structure RankSt where
  /-- Codes of RANK_STATE (R341). -/
  st    : Nat := 0
  /-- Codes of POWER (R341). -/
  power : Nat := 0
  /-- MR4 reports a refresh rate above nominal, and a temperature above the device's range (R303). -/
  hot   : Bool := false
  overTemp : Bool := false
  mr4   : Option Nat := none
  /-- Uncorrectable reads within the last 1 ms: TICKs, newest first (R321). -/
  ues   : List Nat := []
  /-- Correctable errors within the last 1 s: TICKs, newest first (R314). -/
  ces   : List Nat := []
  deriving DecidableEq, Repr

/-- A write that memory has not accepted yet (R301, R329). -/
structure WaitingWrite where
  addr : Nat
  data : List Byte
  /-- Port, ring buffer, line and segment of an intake write (R386). -/
  seg  : Option (Nat × Nat × Nat × Nat)
  deriving DecidableEq, Repr

/-- The memory system beyond its entries (R300 to R323). -/
structure MemSt where
  /-- The page map has been built at this start-up (R300). -/
  built    : Bool := false
  initDone : Bool := false
  /-- Mapped pages below this one have been written with zeros (R301). -/
  initNext : Nat := 0
  /-- Page map entries as their 48 bits, sparse, default 0 (R307). -/
  map      : List (Nat × Nat) := []
  ranks    : List (Nat × RankSt) := []
  /-- Blocks stored as uncorrectable, by physical block number (R305). -/
  badBlocks : List Nat := []
  /-- Page map entries whose SEC-DED fails: they read as retired (R310). -/
  badEntries : List Nat := []
  queue    : List Migration := []
  /-- Ranks that have become failing in this TICK, and the page of each one's first error: their spares are assigned at its end
  (R315). -/
  failing  : List (Nat × Option Nat) := []
  /-- Writes that wait for their acceptance, oldest first (R301, R329). -/
  waiting  : List WaitingWrite := []
  /-- Channel 4 has been initialised and trained (R316). -/
  ch4Ready : Bool := false
  /-- Staging SRAM words stored as uncorrectable, by 64-bit word number (R339). -/
  badSram  : List Nat := []
  /-- Held SRAM requests, in the order in which they will be granted (R336). -/
  sramHeld : List SramReq := []
  /-- Bytes read and written since the last 1 ms round, by DRAM channel (0x6010 + ch.0A, .0B). -/
  traffic  : List (Nat × (Nat × Nat)) := []
  deriving DecidableEq, Repr

/-- A Burnisher calibration k (R560 to R562). -/
structure CalSt where
  /-- A run waits; while one runs, the next (R560). -/
  pending : Bool := false
  running : Bool := false
  /-- DIE_TEMP at the run's start (R562). -/
  temp0   : Int := 0
  /-- The lane taps before the run of k = 0, which a discarded run puts back (R562). -/
  old     : List Byte := []
  /-- The trims in force of k = 1, the sample phase of a channel, and of k = 2, the delay of a DRAM bit (R558). -/
  trims   : List (Nat × Nat) := []
  deriving DecidableEq, Repr

/-- The fire vernier (R29, R559). -/
structure VernSt where
  /-- The trims in force of the 8 phases; none where the trim of manufacture is in force. -/
  trim : List (Nat × Nat) := []
  /-- New trims that wait for a CLK_FIRE edge at which no fire edge is being placed. -/
  next : Option (List (Nat × Nat)) := none
  deriving DecidableEq, Repr

/-- A Finup persona (R573 to R592). -/
structure PersonaSt where
  /-- The persona is instantiated since the last start-up (R568). -/
  on      : Bool := false
  /-- Plain words of R574 that have been written, sparse. -/
  words   : List (Nat × Nat) := []
  run     : Bool := false
  drop2   : Bool := false
  /-- Latched STATUS bits [8:0] (R576). -/
  latched : Nat := 0
  inPage  : Bool := false
  printBuf : Nat := 1
  loadReady : Bool := false
  pageCnt : Nat := 0
  frameErr : Nat := 0
  skips   : Nat := 0
  landOn  : Bool := false
  /-- P_page of the job pages started since RUN, from page 0 (R580, R585). -/
  starts  : List Nat := []
  /-- Encoder count at the start of the latest page (R582). -/
  startCount : Int := 0
  /-- Timestamps of the edges at which line k's count was first reached, from line 0 (R582). -/
  edges   : List Nat := []
  /-- Working delays of the 32 channels, latched at a page start (R583). -/
  delays  : List (Nat × Nat) := []
  /-- An end-of-page frame waits for earlier frames (R592). -/
  endWait : Bool := false
  deriving DecidableEq, Repr

/-- The die diode beyond its entries (R505 to R507). -/
structure DieSt where
  /-- Latest raw codes equal to the newest one, counted (R506). -/
  rawLast : Option Nat := none
  rawRun  : Nat := 0
  broken  : Bool := false
  /-- Three rounds in a row have read at or above the trip level: the next TICK trips (R507). -/
  due     : Bool := false
  deriving DecidableEq, Repr

/-- A position snapshot of SUMMARY held by a port (R485). -/
structure Snapshots where
  can : Option (List Byte) := none
  lhp : Option (List Byte) := none
  deriving DecidableEq, Repr

/-- The speed governor's own values beyond its entries (R222, R276). -/
structure GovSt where
  /-- GIRTH_QUOTA, SPEED_MAX, SPEED_FLOOR, DECEL_LIM and ACCEL_LIM as the latest planning interval took them (R224). -/
  quota  : Nat := 0
  speedMax : Nat := 1920000
  floor  : Nat := 0
  decel  : Nat := 100000
  accel  : Nat := 100000
  /-- E_AVG has been set since reset (R222). -/
  seeded : Bool := false
  /-- Energy of the lines fired in the present interval, in nJ. -/
  acc    : Rat := 0
  girthOver : Bool := false
  /-- The PWM period of SPEED_LIM that runs: start TIME, length and high part (R105). -/
  pwm    : Option (Nat × Nat × Nat) := none
  /-- Fraction of GIRTH_ENERGY below 1 uJ, in nJ. -/
  rest   : Rat := 0
  deriving DecidableEq, Repr

/-- The job beyond its entries (R457 to R466). -/
structure JobSt where
  /-- A stop has been sampled; no further line is locked (R458). -/
  stopping : Bool := false
  /-- P_page of the pages whose start has been taken, from page 0 (R462). -/
  starts  : List Nat := []
  deriving DecidableEq, Repr

/-- Supplies (R517 to R521). -/
structure SupSt where
  /-- Monitors whose rails are below warning, by domain number (R519). -/
  low : List Nat := []
  deriving DecidableEq, Repr

/-- Power domains beyond their entries (R523, R524). -/
structure DomSt where
  /-- 0 off; 1 powering up; 2 on; 3 clearing; 4 powering down; 6 failed (R529). -/
  st      : Nat := 0
  waiting : Bool := false
  deriving DecidableEq, Repr

/-- The state of the S96. -/
structure State where
  /-- Commands waiting, first in first out. -/
  pending : List Instr
  /-- TICKs since the latest reset. The model's own count (log entry 1). -/
  tick    : Nat
  /-- TIME, in CLK_FIRE periods modulo 2^48 (R73). -/
  time    : Nat
  /-- What acted on which unit in the present TICK (R39, R40). The model's own. -/
  acted   : List (Target × Act)
  /-- Entries written in the present TICK whose new value is not yet in force, with the value that is (R109, R224, R496). The
  model's own. -/
  was     : List (Nat × Int)
  /-- Output trace, newest first. The model's own (log entry 19). -/
  sent    : List Out
  /-- Counter of free values drawn. The model's own (log entry 20). -/
  fresh   : Nat
  dev     : DevState
  /-- Bits [15:10] of DEV_FLAGS as the latest FLAGS check saw them (R470). -/
  flagsSeen : Nat
  /-- DEGRADED has been set by a channel that a fence left unserved: it stays until the next reset (R22). -/
  leftOut : Bool
  /-- CLK_HK runs from the root PLL (R35). -/
  clkRoot : Bool
  straps  : Straps
  /-- Values of scalar dictionary entries other than their defaults, by index x 256 + subindex. -/
  dict    : List (Nat × Int)
  /-- Bytes of every byte memory other than what an unlisted address reads as. -/
  mem     : List Host.Cell
  encs    : List (Nat × EncSt)
  trigs   : List (Nat × TrigSt)
  ringPos : RingPosSt
  obs     : ObsSt
  chans   : List (Nat × Chan)
  engs    : List (Nat × EngSt)
  secs    : List (Nat × Section)
  loops   : List (Nat × LoopSt)
  lathe   : LatheSt
  dmas    : List (Nat × DmaSt)
  streams : List (Nat × StreamSt)
  ports   : List (Nat × PortSt)
  lanes   : List (Nat × LaneSt)
  ring    : RingSt
  can     : CanSt
  lhp     : LhpSt
  snaps   : Snapshots
  memory  : MemSt
  /-- Records waiting in the Lathe log queue, oldest first, at most 64 (R290). -/
  logQ    : List (List Byte)
  logSeq  : Nat
  logAt   : Option Nat
  gov     : GovSt
  job     : JobSt
  /-- Fault messages sent and not yet sampled, oldest first (R490, R492). -/
  faultQ  : List FaultMsg
  /-- Reaction windows that are open (R497). -/
  windows : List Window
  /-- The latest 64 logged events, newest first (R471). -/
  events  : List EventRec
  /-- ALIVE: the level driven (R503). -/
  alive   : Bool
  die     : DieSt
  shut    : Option Shutdown
  sup     : SupSt
  doms    : List (Nat × DomSt)
  otp     : OtpSt
  store   : StoreSt
  cals    : List (Nat × CalSt)
  vern    : VernSt
  personas : List (Nat × PersonaSt)
  deriving DecidableEq, Repr

/-- The fuses of the part that the model starts as: a shipped ES96-M1-FB3025 (log entry 2). Word 0 VARIANT, word 1
DIE_ID, word 2 MAC_BASE, words 3 to 5 ORDER_CODE, words 6 to 22 trims, KEY_HASH and PATCH_MIN, all sealed; word 120
with V_DONE and LOCK_V blown (R532 to R534). -/
def factoryOtp : List (Nat × OtpWord) :=
  let w (n d : Nat) : Nat × OtpWord := (n, { data := d, syn := 0, sealed := true })
  [w 0 0x01015F000000, w 1 1, w 2 0x02E5A0000000, w 3 0x455339362D4D, w 4 0x312D46423330, w 5 0x323500000000]
    ++ (List.range 16).map (fun k => w (6 + k) 0) ++ [w 22 0]
    ++ [(120, { data := 0x38038000, syn := 0, sealed := false })]

/-- The machine right after the release of a power-on reset (R20, R553): BOOT, DOM_0 on, everything else off, every
entry at its default. The critical wires are delivered (R534). -/
def State.reset : State where
  pending := []
  tick := 0
  time := 0
  acted := []
  was := []
  sent := []
  fresh := 0
  dev := .boot
  flagsSeen := 0
  leftOut := false
  clkRoot := false
  straps := { compatEn := false, ringRoot := false, bootSrc := 2 }
  dict := []
  mem := []
  encs := []
  trigs := []
  ringPos := {}
  obs := {}
  chans := []
  engs := []
  secs := []
  loops := []
  lathe := {}
  dmas := []
  streams := []
  ports := []
  lanes := []
  ring := {}
  can := {}
  lhp := {}
  snaps := {}
  memory := {}
  logQ := []
  logSeq := 0
  logAt := none
  gov := {}
  job := {}
  faultQ := []
  windows := []
  events := []
  alive := false
  die := {}
  shut := none
  sup := {}
  doms := []
  otp := { words := factoryOtp, wires := 0x8080 }
  store := {}
  cals := []
  vern := {}
  personas := []

end Sys2Proof.Machine
end

