-- ==== Sys2Proof/Machine/Ops.lean ====
section
/-!
DEFINITION. The named operations that every meaning is written with: sparse lists, byte memory, dictionary values,
units, outputs, fault messages, events, precedence in a TICK.
-/
namespace Sys2Proof.Machine

/-! ### Sparse lists -/

/-- The value that a sorted list gives a key; `d` where it lists none. -/
def aget {α : Type} (d : α) (k : Nat) : List (Nat × α) → α
  | [] => d
  | (j, v) :: r => if j = k then v else aget d k r

/-- A sorted list with a key's value set. -/
def ains {α : Type} (k : Nat) (v : α) : List (Nat × α) → List (Nat × α)
  | [] => [(k, v)]
  | (j, w) :: r => if k < j then (k, v) :: (j, w) :: r else if k = j then (k, v) :: r else (j, w) :: ains k v r

/-- A sorted list without a key. -/
def aerase {α : Type} (k : Nat) (m : List (Nat × α)) : List (Nat × α) := m.filter (fun x => x.1 != k)

/-- A sorted list with a key's value set, a default left unlisted. -/
def aput {α : Type} [DecidableEq α] (d : α) (k : Nat) (v : α) (m : List (Nat × α)) : List (Nat × α) :=
  if v = d then aerase k m else ains k v m

/-! ### Byte memory -/

/-- First byte of the staging SRAM (R334, R343). -/
def sramBase : Nat := 0x800000000000
/-- Bytes of the staging SRAM (R334). -/
def sramSize : Nat := 0x800000
/-- First byte of engine 0's table shadows (R343, R344). -/
def shadowBase : Nat := 0x900000000000
/-- First byte of the link buffer (R343, R346). -/
def linkBase : Nat := 0xA00000000000
/-- Active copies, health maps and the other blocks of bytes have no internal address: the model gives them these
(DESIGN CHOICE, log entry 5, safe). Active copies: offsets as the shadows. -/
def activeBase : Nat := 0xB00000000000
/-- Health maps; templates T0 and T1 at offsets 0x14000 and 0x14080 (log entry 5). -/
def healthBase : Nat := 0xC00000000000
/-- Other dictionary entries that are blocks of bytes (log entry 5). -/
def blockBase : Nat := 0xD00000000000
/-- Distance of the tables of consecutive engines (R344). -/
def tableStep : Nat := 0x20000

/-- Offset of a table in its engine's block (R344). -/
def tableOfs : Table → Nat
  | .stitch => 0
  | .wave => 0x14000
  | .tile => 0x18000
  | .shape => 0x18800

/-- Bytes of a table (R344). -/
def tableLen : Table → Nat
  | .stitch => 73728
  | .wave => 8224
  | .tile => 2048
  | .shape => 64

/-- Address of byte 0 of engine e's shadow of a table. -/
def shadowAt (e : Nat) (t : Table) : Nat := shadowBase + e * tableStep + tableOfs t

/-- Address of byte 0 of engine e's active copy of a table. -/
def activeAt (e : Nat) (t : Table) : Nat := activeBase + e * tableStep + tableOfs t

/-- Byte i of a Stitch map at its default: entry n is normal and reads column n (R121). -/
def stitchDefault (i : Nat) : Nat := bits (2 ^ 46 + i / 6) (8 * (5 - i % 6) + 7) (8 * (5 - i % 6))

/-- Byte i of a shape table at its default: entry 4 x code + class holds 2^min(code, 8) - 1 (R132). -/
def shapeDefault (i : Nat) : Nat := 2 ^ min (i / 4) 8 - 1

/-- What an unlisted address reads as: the reset contents of the tables (R121, R132, R246), 0 elsewhere (R183,
R338, R346; DRAM that nothing has written: DESIGN CHOICE, log entry 6, unsafe). -/
def memDefault (a : Nat) : Byte :=
  let region := a / 2 ^ 44
  let o := a % tableStep
  if region = 0x9 ∨ region = 0xB then
    if o < 73728 then BitVec.ofNat 8 (stitchDefault o)
    else if 0x18800 ≤ o ∧ o < 0x18840 then BitVec.ofNat 8 (shapeDefault (o - 0x18800))
    else 0
  else if region = 0xC ∧ o < 73728 ∧ o % 6 = 2 then 0xFF
  else 0

/-- The canonical form of a memory: addresses strictly rising, no cell equal to what its address reads as unlisted. -/
def Memory.wf (m : List Host.Cell) : Bool :=
  (m.map Prod.fst).Pairwise (· < ·) && m.all (fun c => c.2 != memDefault c.1)

/-- One byte of a memory. -/
def Memory.get (m : List Host.Cell) (a : Nat) : Byte := aget (memDefault a) a m

/-- A memory with one byte written. -/
def Memory.set (m : List Host.Cell) (a : Nat) (b : Byte) : List Host.Cell := aput (memDefault a) a b m

/-- A memory with bytes written from an address upward. -/
def Memory.write : List Host.Cell → Nat → List Byte → List Host.Cell
  | m, _, [] => m
  | m, a, b :: r => Memory.write (Memory.set m a b) (a + 1) r

/-- n bytes from an address upward. -/
def Memory.read (m : List Host.Cell) (a n : Nat) : List Byte := (List.range n).map (fun i => Memory.get m (a + i))

/-- A memory with every cell of a range back at what an unlisted address reads as. -/
def Memory.clear (m : List Host.Cell) (a n : Nat) : List Host.Cell :=
  m.filter (fun c => decide (¬ (a ≤ c.1 ∧ c.1 < a + n)))

/-- A memory with the n bytes at `src` copied to `dst`, two ranges whose unlisted bytes read alike. -/
def Memory.copy (m : List Host.Cell) (src dst n : Nat) : List Host.Cell :=
  (m.filter (fun c => decide (src ≤ c.1 ∧ c.1 < src + n))).foldl
    (fun k c => Memory.set k (dst + (c.1 - src)) c.2) (Memory.clear m dst n)

/-- One byte of the block's memories. -/
def State.byte (s : State) (a : Nat) : Byte := Memory.get s.mem a

/-- n bytes of the block's memories. -/
def State.bytes (s : State) (a n : Nat) : List Byte := Memory.read s.mem a n

/-- The number that n bytes of the block's memories spell. -/
def State.word (s : State) (a n : Nat) : Nat := ofBytes (s.bytes a n)

/-- The state with bytes written. -/
def State.setBytes (s : State) (a : Nat) (l : List Byte) : State := { s with mem := Memory.write s.mem a l }

/-- The state with a range copied (`Memory.copy`). -/
def State.copyBytes (s : State) (src dst n : Nat) : State := { s with mem := Memory.copy s.mem src dst n }

/-- The state with a range at its reset contents. -/
def State.clearBytes (s : State) (a n : Nat) : State := { s with mem := Memory.clear s.mem a n }

/-! ### Dictionary values -/

/-- The stored value of an entry of a row. -/
def State.rd (s : State) (r : Row) (i : Nat := 0) (j : Nat := 0) : Int := aget (r.dflt i j) (rowKey r i j) s.dict

/-- The stored value of an unsigned entry. -/
def State.rdN (s : State) (r : Row) (i : Nat := 0) (j : Nat := 0) : Nat := (s.rd r i j).toNat

/-- The state with an entry's value set. -/
def State.wr (s : State) (r : Row) (v : Int) (i : Nat := 0) (j : Nat := 0) : State :=
  { s with dict := aput (r.dflt i j) (rowKey r i j) v s.dict }

/-- The value of an entry that is in force in the present TICK: one that takes a written value from the next TICK on keeps
its old one (R109, R224, R496). -/
def State.rdHeld (s : State) (r : Row) (i : Nat := 0) (j : Nat := 0) : Int := aget (s.rd r i j) (rowKey r i j) s.was

/-- The state with an entry's value set, the value that was in force kept for the rest of the TICK. -/
def State.wrHeld (s : State) (r : Row) (v : Int) (i : Nat := 0) (j : Nat := 0) : State :=
  ({ s with was := ains (rowKey r i j) (s.rdHeld r i j) s.was }).wr r v i j

/-- The state with n added to a saturating 32-bit count. REVERSE_COUNT and TRIG_REJECT, of which R109 does not say that they
saturate, are such counts too (DESIGN CHOICE, log entry 58, unsafe). -/
def State.count (s : State) (r : Row) (i : Nat := 0) (n : Nat := 1) : State := s.wr r (sat32 (s.rd r i + n)) i

/-- The state with n added to a count of 48 bits. -/
def State.count48 (s : State) (r : Row) (i : Nat := 0) (n : Nat := 1) : State := s.wr r (wrap48 (s.rd r i + n)) i

/-- The state with n added to a saturating 16-bit count. -/
def State.count16 (s : State) (r : Row) (i : Nat := 0) (n : Nat := 1) : State :=
  s.wr r (min (s.rd r i + n) 65535) i

/-! ### Units -/

def State.chan (s : State) (c : Nat) : Chan := aget {} c s.chans
def State.setChan (s : State) (c : Nat) (x : Chan) : State := { s with chans := ains c x s.chans }
def State.eng (s : State) (e : Nat) : EngSt := aget {} e s.engs
def State.setEng (s : State) (e : Nat) (x : EngSt) : State := { s with engs := ains e x s.engs }
def State.enc (s : State) (n : Nat) : EncSt := aget {} n s.encs
def State.setEnc (s : State) (n : Nat) (x : EncSt) : State := { s with encs := ains n x s.encs }
def State.trig (s : State) (n : Nat) : TrigSt := aget {} n s.trigs
def State.setTrig (s : State) (n : Nat) (x : TrigSt) : State := { s with trigs := ains n x s.trigs }
def State.loop (s : State) (l : Nat) : LoopSt := aget {} l s.loops
def State.setLoop (s : State) (l : Nat) (x : LoopSt) : State := { s with loops := ains l x s.loops }
def State.sec (s : State) (n : Nat) : Section := aget ⟨0, 0, 0, 0, 0, 0, 0, 0⟩ n s.secs
def State.setSec (s : State) (n : Nat) (x : Section) : State := { s with secs := ains n x s.secs }
def State.dma (s : State) (n : Nat) : DmaSt := aget {} n s.dmas
def State.setDma (s : State) (n : Nat) (x : DmaSt) : State := { s with dmas := ains n x s.dmas }
def State.stream (s : State) (r : Nat) : StreamSt := aget {} r s.streams
def State.setStream (s : State) (r : Nat) (x : StreamSt) : State := { s with streams := ains r x s.streams }
def State.port (s : State) (p : Nat) : PortSt := aget {} p s.ports
def State.setPort (s : State) (p : Nat) (x : PortSt) : State := { s with ports := ains p x s.ports }
def State.lane (s : State) (i : Nat) : LaneSt := aget {} i s.lanes
def State.setLane (s : State) (i : Nat) (x : LaneSt) : State := { s with lanes := ains i x s.lanes }
def State.rank (s : State) (r : Nat) : RankSt := aget {} r s.memory.ranks
def State.setRank (s : State) (r : Nat) (x : RankSt) : State :=
  { s with memory := { s.memory with ranks := ains r x s.memory.ranks } }
def State.cal (s : State) (k : Nat) : CalSt := aget {} k s.cals
def State.setCal (s : State) (k : Nat) (x : CalSt) : State := { s with cals := ains k x s.cals }
def State.persona (s : State) (p : Nat) : PersonaSt := aget {} p s.personas
def State.setPersona (s : State) (p : Nat) (x : PersonaSt) : State := { s with personas := ains p x s.personas }

/-- Code of DOM_STATE (R529); DOM_0 is on (R46). -/
def State.domState (s : State) (d : Nat) : Nat := if d = 0 then 2 else (aget ({} : DomSt) d s.doms).st

/-- A domain is operational: on, or DOM_11 still clearing the SRAM (R47). -/
def State.domOn (s : State) (d : Nat) : Bool := s.domState d == 2 || s.domState d == 3

/-- The group of a channel (R23). -/
def groupOf (c : Nat) : Nat := c / 24

/-- The group of an engine; spare 96 + g belongs to group g (R23). -/
def engGroup (e : Nat) : Nat := if e < 96 then e / 24 else e - 96

/-- The domain of an engine or channel (R45). -/
def engDom (e : Nat) : Nat := 6 + engGroup e

/-- An engine's shadow state of a table (R134). -/
def EngSt.shadow (x : EngSt) : Table → ShState
  | .stitch => x.stitch
  | .shape => x.shape
  | .tile => x.tile
  | .wave => x.wave

/-- An engine with the shadow state of a table set. -/
def EngSt.setShadow (x : EngSt) (t : Table) (v : ShState) : EngSt :=
  match t with
  | .stitch => { x with stitch := v }
  | .shape => { x with shape := v }
  | .tile => { x with tile := v }
  | .wave => { x with wave := v }

/-- An engine's pending bit of a table (R135). -/
def EngSt.pend (x : EngSt) : Table → Bool
  | .stitch => x.pendStitch
  | .shape => x.pendShape
  | .tile => x.pendTile
  | .wave => x.pendWave

/-- An engine with the pending bit of a table set. -/
def EngSt.setPend (x : EngSt) (t : Table) (v : Bool) : EngSt :=
  match t with
  | .stitch => { x with pendStitch := v }
  | .shape => { x with pendShape := v }
  | .tile => { x with pendTile := v }
  | .wave => { x with pendWave := v }

/-- Bit of a table in TABLE_COMMIT (R176). -/
def tableBit : Table → Nat
  | .stitch => 0
  | .shape => 1
  | .tile => 2
  | .wave => 3

/-- An engine with a table's commit requested in a TICK (R135). -/
def EngSt.request (x : EngSt) (t : Table) (tick : Nat) : EngSt :=
  { x.setPend t true with pendAt := ains (tableBit t) tick x.pendAt }

/-- The TICK in which a table's commit was requested. -/
def EngSt.requestedAt (x : EngSt) (t : Table) : Nat := aget 0 (tableBit t) x.pendAt

/-- The tables in the bit order of TABLE_COMMIT (R176). -/
def allTables : List Table := [.stitch, .shape, .tile, .wave]

/-! ### Grade and presence -/

/-- Data of a fuse word's shadow (R536). -/
def State.fuse (s : State) (w : Nat) : Nat := (aget ({} : OtpShadow) w s.otp.shadows).data

/-- GRADE: bits of VARIANT, word 0 (R532). -/
def State.grade (s : State) : Nat := bits (s.fuse 0) 39 32

/-- An engine is present on this grade (R2, R3). -/
def State.engPresent (s : State) (e : Nat) : Bool :=
  decide (e < 100) && !(s.grade == 3 && ((64 ≤ e && e ≤ 95) || e == 99))

/-- A channel is present: on this grade (R2, R3), and not disabled before the latest start-up (R472). -/
def State.chPresent (s : State) (c : Nat) : Bool := decide (c < 96) && s.engPresent c && !s.otp.absent.contains c

/-! ### Outputs -/

/-- The state with an output recorded. -/
def State.emit (s : State) (o : Out) : State := { s with sent := o :: s.sent }

/-- Abort codes (R452). -/
def okCode : Nat := 0
def codeReadWo : Nat := 0x06010001
def codeWriteRo : Nat := 0x06010002
def codeNoObject : Nat := 0x06020000
def codeLength : Nat := 0x06070010
def codeRange : Nat := 0x06090030
def codeState : Nat := 0x08000022
def codePowered : Nat := 0x0E5A0001
def codeNotPrintable : Nat := 0x0E5A0002
def codeSource : Nat := 0x0E5A0003
def codeBusy : Nat := 0x0E5A0004
def codeNoChanges : Nat := 0x0E5A0005
def codeSuperseded : Nat := 0x0E5A0010
def codeNothing : Nat := 0x0E5A0011

/-- The answer to an access (R452). -/
def State.answer (s : State) (p : Port) (code : Nat) (data : List Byte := []) : State := s.emit (.answer p code data)

/-- A unit sends a fault message; the collector has not yet sampled it (R490, R492). -/
def State.report (s : State) (src kind addr : Nat) : State :=
  { s with faultQ := s.faultQ ++ [⟨src, kind, addr⟩] }

/-- The next free value (log entry 20). -/
def State.draw (s : State) : Nat × State := ((Config.freeValue s.fresh).toNat, { s with fresh := s.fresh + 1 })

/-! ### Coincidence in a TICK -/

/-- The unit has been acted on in this TICK by an event of one of the kinds (R39, R40). -/
def State.actedOn (s : State) (t : Target) (k : List Act) : Bool := s.acted.any (fun x => x.1 == t && k.contains x.2)

/-- Record what acts on a unit in this TICK. -/
def State.act (s : State) (t : Target) (a : Act) : State := { s with acted := (t, a) :: s.acted }

/-- An event of precedence 3 to 9 on a unit is discarded: a reset, trip or fence in this TICK has acted on it (R39). -/
def State.superseded (s : State) (t : Target) : Bool :=
  s.actedOn .device [.reset, .trip] || s.actedOn t [.fence]

/-- A start of a unit is discarded (R39, R40). -/
def State.startSuperseded (s : State) (t : Target) : Bool := s.superseded t || s.actedOn t [.abort, .pause]

/-- A pause of a unit is discarded (R39, R40). -/
def State.pauseSuperseded (s : State) (t : Target) : Bool := s.superseded t || s.actedOn t [.abort]

/-! ### The configuration CRC -/

/-- A stored entry has changed: CONFIG_CRC is stale (R484). -/
def State.stale (s : State) : State := { s with store := { s.store with crcStale := true } }

/-! ### Units in reset -/

/-- TICKs of a reaction window (R497). -/
def windowTicks : Nat := 64

/-- The window is open: it began less than 64 TICKs ago (R497). -/
def windowOpen (s : State) (w : Window) : Bool := decide (s.tick < w.from_ + windowTicks)

/-- A fenced unit is in its reset: it returns to service at the end of its reaction window (R501). -/
def unitInReset (s : State) (src : Nat) : Bool := s.windows.any (fun w => w.src == src && windowOpen s w)

/-! ### Stops and shutdowns -/

/-- The step of R511 that a shutdown is in; 0 when none runs. -/
def State.shutStep (s : State) : Nat := (s.shut.map Shutdown.step).getD 0

/-- No further line is locked: a stop has been sampled, or a shutdown runs (R458, R511 step 1). -/
def State.noLocks (s : State) : Bool := s.job.stopping || s.shut.isSome

/-- Every channel's outputs are safe: steps 1 and 2 of a shutdown are over (R511, R512), or it is complete. -/
def State.outputsOff (s : State) : Bool := decide (3 ≤ s.shutStep) || s.dev == .safe

end Sys2Proof.Machine
end

