-- ==== Sys2Proof/Machine/Events.lean ====
section
/-!
DEFINITION. Frames of the Darine ring as a node sends them, the ring time base, events and the device state (R402 to
R407, R415, R422, R428, R430, R457, R469 to R471).
-/
namespace Sys2Proof.Machine

/-! ### Ring TIME -/

/-- Times of the ring are kept in 1/256 of a CLK_FIRE period, modulo 2^56 (R401). -/
def wrap56 (x : Int) : Nat := (x % (2 ^ 56 : Int)).toNat

/-- Signed difference of two such times (R75). -/
def sdiff56 (a b : Int) : Int :=
  let d := (a - b) % (2 ^ 56 : Int)
  if d < 2 ^ 55 then d else d - 2 ^ 56

/-- The (1 + RATE) - 1 of each interval between consecutive syncs (R430). -/
def syncRates : List (Nat × Nat) → List Rat
  | a :: b :: r =>
    (if sdiff56 a.1 b.1 = 0 then 0 else (sdiff56 a.2 b.2 : Rat) / (sdiff56 a.1 b.1 : Rat) - 1) :: syncRates (b :: r)
  | _ => []

/-- RATE: the mean over the last 8 SYNC intervals (R430). -/
def rateOf (l : List (Nat × Nat)) : Rat :=
  let r := (syncRates l).take 8
  if r.isEmpty then 0 else r.sum / (r.length : Rat)

/-- Ring TIME at a local time, both in 1/256 period; the root's own TIME is ring TIME (R425, R430). The part below
1/256 is dropped (DESIGN CHOICE, log entry 21, unsafe). -/
def ringTime56 (s : State) (t : Nat) : Nat :=
  if s.rdN E.rtState = 4 then t
  else wrap56 (s.ring.rti + ((sdiff56 t s.ring.ti : Rat) * (1 + rateOf s.ring.syncs)).floor)

/-- Ring TIME is valid: locked, holdover or root (0xA110.07). -/
def ringTimeValid (s : State) : Bool := s.rdN E.rtState == 2 || s.rdN E.rtState == 3 || s.rdN E.rtState == 4

/-- Ring TIME now, in CLK_FIRE periods. -/
def ringTimeNow (s : State) : Nat := ringTime56 s (s.time * 256) / 256

/-- Local time at a ring TIME, both in 1/256 period (R430). -/
def localTime56 (s : State) (r : Nat) : Nat :=
  if s.rdN E.rtState = 4 then r
  else wrap56 (s.ring.ti + ((sdiff56 r s.ring.rti : Rat) / (1 + rateOf s.ring.syncs)).floor)

/-! ### Frames -/

/-- The address in force: unassigned after an address conflict (R416, R420). -/
def nodeAddr (s : State) : Nat := if s.ring.addrConflict then 0xFFFE else s.rdN E.ringAddrNow

/-- The node's address is assigned (R417). -/
def assigned (s : State) : Bool := nodeAddr s != 0xFFFE

/-- A Darine frame: header, payload and CRC (R402, R403). -/
def ringFrameBytes (cls ring dst src hops seq : Nat) (payload : List Byte) : List Byte :=
  let h := toBytes 1 (0x10 + cls) ++ toBytes 1 (ring * 128) ++ toBytes 2 dst ++ toBytes 2 src ++ toBytes 2 hops ++
    toBytes 2 seq ++ toBytes 2 payload.length ++ payload
  h ++ toBytes 4 (crc32c h)

/-- The OUT lane on which a node sends what it would send on a ring: wrapped sides use the other lane, an isolated
node sends nothing (R422). -/
def outLane (s : State) (ring : Nat) : Option Nat :=
  if s.ring.wrapUp && s.ring.wrapDown then none
  else if ring = 1 ∧ s.ring.wrapUp then some 0
  else if ring = 0 ∧ s.ring.wrapDown then some 1
  else some ring

/-- A test pattern replaces the frames of a ring's lane (R612). -/
def prbsOnRing (s : State) (i : Nat) : Bool :=
  s.rdN E.prbsSel != 0 && bits (s.rdN E.prbsLink) 15 12 == 2 && bits (s.rdN E.prbsLink) 11 4 == i

/-- A frame leaves on an OUT lane and is counted (0xA100 + i.02). -/
def laneEmit (s : State) (out : Nat) (bytes : List Byte) (cut : Bool) : State :=
  if prbsOnRing s out then s else (s.emit (.ringFrame out bytes cut)).count48 E.txFrames out

/-- An own frame for an OUT lane: at once in a gap, otherwise it waits (R407). -/
def laneQueue (s : State) (out : Nat) (bytes : List Byte) : State :=
  let l := s.lane out
  if l.busy || l.inj || !l.own.isEmpty then s.setLane out { l with own := l.own ++ [bytes] }
  else laneEmit s out bytes false

/-- A node sends an own frame for a ring (R407, R422). -/
def laneSend (s : State) (ring : Nat) (bytes : List Byte) : State :=
  if s.domOn 1 && s.ring.join != 0 then
    match outLane s ring with
    | none => s
    | some out => laneQueue s out bytes
  else s

/-- The next SEQ of a CLASS (R403). -/
def nextSeq (s : State) (cls : Nat) : Nat × State :=
  let n := aget 0 cls s.ring.seqs
  (n, { s with ring := { s.ring with seqs := ains cls ((n + 1) % 65536) s.ring.seqs } })

/-- A frame of this node on one ring. -/
def sendFrame (s : State) (ring cls dst seq : Nat) (payload : List Byte) : State :=
  laneSend s ring (ringFrameBytes cls ring dst (nodeAddr s) 0 seq payload)

/-- A frame of this node on both rings, one SEQ (log entry 22). -/
def sendBoth (s : State) (cls dst seq : Nat) (payload : List Byte) : State :=
  sendFrame (sendFrame s 0 cls dst seq payload) 1 cls dst seq payload

/-! ### Events -/

/-- The 16-byte payload of an EVENT frame (R415). -/
def eventPayload (r : EventRec) : List Byte :=
  toBytes 2 r.index ++ toBytes 1 r.sub ++ toBytes 1 (flag r.localTime 7 + r.kind) ++ toBytes 6 r.value ++
    toBytes 6 r.etime

/-- An event is generated: it takes the next number, is logged when its kind is not 0x05, and is sent on both rings
while the node is assigned (R415, R417, R469, R471). -/
def raiseEvent (s : State) (kind index sub value : Nat) : State :=
  let seq := (s.rdN E.eventSeq + 1) % 2 ^ 48
  let valid := ringTimeValid s
  let r : EventRec := ⟨seq, index, sub, kind, value % 2 ^ 48, if valid then ringTimeNow s else s.time, !valid⟩
  let s := s.wr E.eventSeq seq
  let s := if kind = 5 then s else { s with events := (r :: s.events).take 64 }
  if assigned s then sendBoth s 5 0xFFFF (seq % 65536) (eventPayload r) else s

/-- An event of a kind that EVENT_MASK may disable (R470). -/
def maskedEvent (s : State) (kind index sub value : Nat) : State :=
  if bit (s.rdN E.eventMask) (kind - 1) then raiseEvent s kind index sub value else s

/-- Codes of DEV_STATE (R486). -/
def devCode : DevState → Nat
  | .boot => 0
  | .config => 1
  | .ready => 2
  | .armed => 3
  | .printing => 4
  | .halt => 5
  | .safe => 6

/-- The device state changes, with its STATE event (R457, R470). -/
def setDev (s : State) (d : DevState) : State :=
  if s.dev = d then s else maskedEvent { s with dev := d } 1 0x2000 1 (devCode d)

/-- ARMED or PRINTING: a job is under way (R448). -/
def State.busyJob (s : State) : Bool := s.dev == .armed || s.dev == .printing

end Sys2Proof.Machine
end

