-- ==== Sys2Proof/Machine/Operands.lean ====
section
/-!
DEFINITION. How an access on a port is checked (R43, R447 to R451), and how the writes that have a behaviour of
their own are answered.
-/
namespace Sys2Proof.Machine

/-- The entries of the Finup persona that the S96 sets itself and whose writes it refuses (R570): row starts. -/
def personaRows : List Nat :=
  [E.hlMode.k0, E.nozzles.k0, E.lineCols.k0, E.dropBits.k0, E.winStart.k0, E.feedAhead.k0, E.nbSpan.k0, E.landMode.k0,
    E.maxFireRate.k0, E.linePitch.k0, E.waveKt.k0, E.waveKv.k0, E.healthEn.k0, E.feedRb.k0, E.feedOfs.k0,
    E.jobTrig.k0, E.pageLines.k0, E.jobPages.k0, E.pagePitch.k0]

/-- The S96 runs in the Finup persona (R568). -/
def State.finup (s : State) : Bool := s.rdN E.persona == 1

/-- A write that the persona refuses with "state conflict" (R570). -/
def personaRefuses (s : State) (r : Row) (i : Nat) : Bool :=
  s.finup &&
    (personaRows.contains r.k0 ||
      ([E.encMode.k0, E.encDir.k0, E.encFilter.k0, E.trigEdge.k0, E.trigHoldoff.k0].contains r.k0 && decide (i < 3)) ||
      (r.k0 == E.loopEn.k0 && decide (2 ≤ i ∧ i ≤ 97)) ||
      ([E.rbBase.k0, E.rbLines.k0, E.rbStride.k0, E.rbMode.k0].contains r.k0 && decide (i ≤ 5)))

/-- The power domain of the unit that an entry belongs to (R24, R45). The global entries of the Girth, the governor
and head care name no unit: DOM_0 (DESIGN CHOICE, log entry 23, unsafe); ring-buffer entries go with the page map. -/
def domainOfKey (k : Nat) : Nat :=
  let x := k / 256
  let c := k % 256 - 1
  if 0x1100 ≤ x ∧ x ≤ 0x11FF then 1
  else if 0x2100 ≤ x ∧ x ≤ 0x22FF then 10
  else if 0x2320 ≤ x ∧ x ≤ 0x2331 then engDom c
  else if 0x3000 ≤ x ∧ x < 0x3C80 then engDom ((x - 0x3000) / 0x20)
  else if 0x4000 ≤ x ∧ x < 0x4400 then engDom (x % 0x100)
  else if 0x5000 ≤ x ∧ x < 0x5800 then 10
  else if x = 0x6030 then 11
  else if x = 0x6012 ∨ x = 0x6013 then 4
  else if x = 0x6014 then 5
  else if 0x6000 ≤ x ∧ x ≤ 0x61FF then 3
  else if 0x6800 ≤ x ∧ x ≤ 0x68FF then 11
  else if 0x6900 ≤ x ∧ x ≤ 0x6903 then engDom c
  else if 0x6910 ≤ x ∧ x ≤ 0x692F then 3
  else if x = 0x69F0 then 11
  else if 0xA000 ≤ x ∧ x ≤ 0xA0FF then 2
  else if 0xA100 ≤ x ∧ x ≤ 0xA1FF then 1
  else 0

/-- Rows whose entries exist for channels only (R176). -/
def channelsOnly (r : Row) : Bool :=
  [E.chDisable.k0, E.chDisableLeft.k0, E.takeoverLost.k0, E.servedBy.k0, E.takeover.k0].contains r.k0

/-- The unit that an entry of a row belongs to is present on the grade, and the entry exists for it (R7, R176, R527,
R594). -/
def unitExists (s : State) (r : Row) (i j : Nat) : Bool :=
  let x := r.k0 / 256
  if 0x3000 ≤ x ∧ x < 0x4400 then if channelsOnly r then s.chPresent i else s.engPresent i
  else if r.units = 96 ∧ r.step = 1 then s.chPresent i
  else if r.k0 = E.faultClass.k0 then sourceExists i && kindExists i (j + 1)
  else if x = 0x7000 then sourceExists i
  else if r.k0 = E.framesOk.k0 then s.finup && (s.persona i).on
  else true

/-- The owning unit of an RWS entry is stopped, so the entry may be written (R270, R292, R352, R448). Loops 0, 1 and
98 to 193 are never disabled; only FIRST and LEN of their chains go on to a check of their own (R270). -/
def unitStopped (s : State) (r : Row) (i : Nat) : Bool :=
  let x := r.k0 / 256
  if x = 0x2210 then
    s.rd E.loopEn i == 0 || ((decide (i < 2) || decide (98 ≤ i ∧ i < 194)) &&
      [E.firstA.k0, E.lenA.k0, E.firstB.k0, E.lenB.k0].contains r.k0)
  else if r.k0 = E.logBase.k0 ∨ r.k0 = E.logSize.k0 then s.rd E.logEn == 0
  else if x = 0x6800 then
    (s.dma i).st == .idle || (s.dma i).st == .paused || (s.dma i).st == .stopped
  else !s.busyJob

/-- The access is served in BOOT: identity entries and SUMMARY (R451). -/
def servedInBoot (k : Nat) : Bool := (0x100000 ≤ k && k ≤ 0x10FFFF) || k == 0x1F8000

/-- The device-state check of a write (R449): BOOT, the unit of an RWS entry, a counted setting in ARMED or PRINTING
(R473), what the persona holds (R570). COMMAND makes its own, by the command (R451, R467). -/
def stateRefuses (s : State) (r : Row) (i j : Nat) : Bool :=
  (s.dev == .boot && !servedInBoot (rowKey r i j) && r.k0 != E.command.k0) ||
    (r.acc == .rws && !unitStopped s r i) || (r.acc == .cnt && s.busyJob) || personaRefuses s r i

/-- The range of an entry (R445). MAX_FIRE_RATE is at most 32,000 Hz in the persona (0x2140.03); a class is within
R496. -/
def inRange (s : State) (r : Row) (i j : Nat) (v : Int) : Bool :=
  decide (r.lo ≤ v ∧ v ≤ r.hi) && r.ok v && !(r.k0 == E.faultClass.k0 && !classAllowed i (j + 1) v.toNat) &&
    !(r.k0 == E.maxFireRate.k0 && s.finup && decide (32000 < v)) &&
    !((r.k0 == E.lenA.k0 || r.k0 == E.lenB.k0) && i == 0 && decide (8 < v))

/-- Fields of a standard loop that the S96 sets or fixes, which read only, whatever the table of R293 says (R271 to
R276): the trigger, sources, modes and sink of loops 0 to 193, LOOP_EN of the loops that are always enabled, and the
limits and targets that R273 to R276 give. -/
def loopFixed (r : Row) (l : Nat) : Bool :=
  let amp := decide (2 ≤ l ∧ l < 98)
  let heater := decide (98 ≤ l ∧ l < 194)
  (decide (l < 194) &&
      [E.trigKind.k0, E.trigDiv.k0, E.trigCh.k0, E.srcA.k0, E.xmodeA.k0, E.srcB.k0, E.xmodeB.k0, E.sink.k0].contains r.k0) ||
    ((l == 0 || l == 1 || heater) && r.k0 == E.loopEn.k0) ||
    (l == 0 && [E.outMin.k0, E.outMax.k0, E.slewUp.k0, E.slewDown.k0, E.refTarget.k0, E.refRateUp.k0,
        E.refRateDown.k0].contains r.k0) ||
    (l == 1 && [E.outMin.k0, E.outMax.k0, E.slewUp.k0, E.slewDown.k0].contains r.k0) ||
    ((amp || heater) && [E.outMin.k0, E.outMax.k0, E.refTarget.k0].contains r.k0)

/-- The access code in force for an entry (R293, R448). -/
def accOf (r : Row) (i : Nat) : Acc := if loopFixed r i then .ro else r.acc

/-- A stored entry (R478): an RW or RWS entry outside the lists of what is not stored; DOM_REQ of DOM_0 and DOM_5 read only
(R529; log entry 44). -/
def storedEntry (r : Row) (i : Nat) : Bool :=
  let x := r.k0 / 256
  (accOf r i == .rw || accOf r i == .rws) &&
    !(decide (96 ≤ i) && decide (0x3000 ≤ x ∧ x < 0x4400)) && !decide (0x6800 ≤ x ∧ x < 0x6900) &&
    !([E.rbWr.k0, E.dmaDone.k0].contains r.k0) && x != 0x6101 && !decide (0xC000 ≤ x ∧ x < 0xC300) &&
    !(r.k0 == E.domReq.k0 && (i == 0 || i == 5))

/-- The checks of R449 that do not look at the value: existence, power, access code, device state. -/
def checkEntry (s : State) (r : Row) (i j : Nat) : Option Nat :=
  if !unitExists s r i j then some codeNoObject
  else if !s.domOn (domainOfKey (rowKey r i j)) then some codePowered
  else if accOf r i = .ro then some codeWriteRo
  else if stateRefuses s r i j then some codeState
  else none

/-- The checks of R449 on the write of a value, in their order: those of the entry, range, and then whether a STORE that
runs holds it back (R481). None when all pass. -/
def checkWrite (s : State) (r : Row) (i j : Nat) (v : Int) : Option Nat :=
  match checkEntry s r i j with
  | some code => some code
  | none =>
    if !inRange s r i j v then some codeRange
    else if s.store.storing.isSome && storedEntry r i then some codeBusy
    else none

/-- A port carries accesses: its domain is on, the device is not SAFE (R515), CAN FD is enabled and serves USDO, and
the LHP window exists only in native mode (R572). -/
def portUp (s : State) (p : Port) : Bool :=
  s.dev != .safe &&
    match p with
    | .ringA | .ringB => s.domOn 1 && s.ring.join != 0
    | .canFd => s.domOn 1 && decide (s.can.status = 1 ∨ s.can.status = 2) && s.rdN E.canNmt != 4
    | .lhp => s.domOn 1 && !s.finup
    | .fw => true

/-- A stored entry has changed: CONFIG_CRC is stale (R484). -/
def markStale (s s' : State) (r : Row) (i : Nat) : State :=
  if storedEntry r i && (s.dict != s'.dict || s.mem != s'.mem) then s'.stale else s'

/-- The code of an access whose answer comes later: none is sent yet. -/
def laterCode : Nat := 2 ^ 32

/-- The answer to an access, unless it comes later. -/
def State.reply (s : State) (p : Port) (code : Nat) (data : List Byte := []) : State :=
  if code = laterCode then s else s.answer p code data

/-- The code that a write discarded under R39 or R40 is answered with (R41); no answer follows a reset (R613). -/
def discardCode (s : State) : Nat := if s.actedOn .device [.reset] then laterCode else codeSuperseded

/-- The outcome of a write with a behaviour of its own. One that R39 or R40 discards does nothing. Otherwise it passes
the checks of R449, then `act` makes it take effect or refuses it (R450); `act` gives the code and the state. -/
def writeCode (s : State) (discarded : Bool) (r : Row) (i j : Nat) (v : Int) (act : State → Nat × State) :
    Nat × State :=
  if discarded then (discardCode s, s)
  else match checkWrite s r i j v with
    | some code => (code, s)
    | none => let x := act s; (x.1, markStale s x.2 r i)

/-- A write on a port and its answer. Nothing arrives on a port that is down. -/
def writeIf (s : State) (p : Port) (discarded : Bool) (r : Row) (i j : Nat) (v : Int) (act : State → Nat × State) :
    State :=
  if !portUp s p then s
  else let x := writeCode s discarded r i j v act; x.2.reply p x.1

/-- A configuration write: discarded when a reset, trip or fence in this TICK has acted on its unit (R39). -/
def writeAs (s : State) (p : Port) (t : Target) (r : Row) (i j : Nat) (v : Int) (act : State → Nat × State) : State :=
  writeIf s p (s.superseded t) r i j v act

/-- A write of bytes into a DOMAIN entry from an offset, with a behaviour of its own: a transfer that passes the end of
the DOMAIN is refused whole (R453). -/
def blockAct (r : Row) (i ofs : Nat) (data : List Byte) (act : State → Nat × State) (s : State) : Nat × State :=
  if tyBytes r.ty < ofs + data.length then (codeRange, s)
  else
    let x := act s
    (x.1, if storedEntry r i ∧ x.1 = okCode then x.2.stale else x.2)

/-- A write of bytes into a DOMAIN entry on a port. -/
def writeBlock (s : State) (p : Port) (t : Target) (r : Row) (i ofs : Nat) (data : List Byte)
    (act : State → Nat × State) : State :=
  writeAs s p t r i 0 r.lo (blockAct r i ofs data act)

/-! ### Answers that come later -/

/-- The CLASS of a DICT_RESP frame, and the bytes of data that one carries at most (R403, R410). -/
def respClass : Nat := 4
def respMost : Nat := 240

/-- The payload of a DICT_RESP frame (R410). -/
def respPayload (op : Nat) (last : Bool) (q : RingReq) (ofs code : Nat) (data : List Byte) : List Byte :=
  toBytes 1 op ++ toBytes 1 (flag last 7) ++ toBytes 2 q.index ++ toBytes 1 q.sub ++ [0] ++ toBytes 4 ofs ++
    toBytes 2 data.length ++ toBytes 4 code ++ data

/-- The number of a ring (R403). -/
def ringNo (p : Port) : Nat := if p = .ringB then 1 else 0

/-- A response goes to the requester on the ring of its request, with the request's SEQ (R403, R411). -/
def sendResp (s : State) (ring : Nat) (q : RingReq) (payload : List Byte) : State :=
  sendFrame s ring respClass q.src q.seq payload

/-- The SEQ and the abort code of a source's latest write are kept, for the 64 most recent sources (R413). -/
def keepWrite (s : State) (q : RingReq) (code : Nat) : State :=
  { s with ring := { s.ring with dups := ((q.src, q.seq, code) :: s.ring.dups.filter (fun d => d.1 != q.src)).take 64 } }

/-- A ring write is answered (R411, R413). -/
def answerWrite (s : State) (ring : Nat) (q : RingReq) (code : Nat) : State :=
  sendResp (keepWrite s q code) ring q (respPayload 2 false q (q.ofs % 2 ^ 32) code [])

/-- The entry that a ring request names. -/
def reqKey (q : RingReq) : Nat := q.index * 256 + q.sub

/-- A DOMAIN transfer on CAN FD has ended (R454). -/
def canEnded (s : State) : State := if s.rd E.canDomOfs = 0 then s else (s.wr E.canDomOfs 0).stale

/-- An access of the LHP has ended: LHP_OFS advances past the bytes that it transferred (R455, R456). -/
def lhpEnded (s : State) (code : Nat) : State :=
  let x := s.lhp
  let o := x.ofs1 * 65536 + x.ofs0 + (if code = okCode then x.moved else 0)
  { s with lhp := { x with
    waiting := none, busy := false, code := code, moved := 0, ofs0 := o % 65536, ofs1 := o / 65536 % 65536 } }

/-- A write whose answer was still to come is answered on its port: on the ring to the request that waits for this
entry, on CAN FD and the LHP to the access that waits for it. -/
def answerLater (s : State) (p : Port) (key code : Nat) : State :=
  let s := s.answer p code
  match p with
  | .ringA | .ringB =>
    match s.ring.queue.find? (fun q => q.ring.val == ringNo p && reqKey q == key) with
    | none => s
    | some q => answerWrite { s with ring := { s.ring with queue := s.ring.queue.erase q } } (ringNo p) q code
  | .canFd => if s.can.waiting = some key then canEnded { s with can := { s.can with waiting := none } } else s
  | .lhp => if s.lhp.waiting = some key then lhpEnded s code else s
  | .fw => s

/-- The target that stands for a plain entry: none of the units that a fence acts on. -/
def noTarget : Target := .source 256

end Sys2Proof.Machine
end

