-- ==== Sys2Proof/Machine/Diag.lean ====
section
/-!
DEFINITION. The test patterns of the serial lanes (R610, R612).
-/
namespace Sys2Proof.Machine

/-- A value of PRBS_LINK names a lane of an absent channel (R8). -/
def linkAbsent (s : State) (link : Nat) : Bool := decide (bits link 15 12 < 2) && !s.chPresent (bits link 11 4)

/-- The unit of the lane that PRBS_LINK names is powered; a lane without power holds its idle level (R6, R45). -/
def linkOn (s : State) (link : Nat) : Bool :=
  if bits link 15 12 = 2 then s.domOn 1 && s.ring.join != 0 else s.domOn (engDom (bits link 11 4))

/-- The selected OUT lane sends the pattern (R612). -/
def sendPattern (s : State) : State :=
  if s.rd E.prbsSel ≠ 0 ∧ linkOn s (s.rdN E.prbsLink) = true then s.emit (.prbs (s.rdN E.prbsSel) (s.rdN E.prbsLink)) else s

/-- A write of PRBS_SEL: the checker starts over, and the selected OUT lane sends the pattern (R612); a pattern for an absent
channel is refused (R8). -/
def prbsSelAct (v : Nat) (s : State) : Nat × State :=
  if v ≠ 0 ∧ linkAbsent s (s.rdN E.prbsLink) = true then (codeNoObject, s)
  else (okCode, sendPattern ((s.wr E.prbsSel v).wr E.prbsLock 0))

/-- A write of PRBS_LINK selects another lane: the checker starts over (R612); a lane of an absent channel is refused (R8). -/
def prbsLinkAct (v : Nat) (s : State) : Nat × State :=
  if linkAbsent s v then (codeNoObject, s) else (okCode, sendPattern ((s.wr E.prbsLink v).wr E.prbsLock 0))

/-- PRBS_SEL_WRITE (R612). -/
def execPrbsSelWrite (port : Port) (v : Nat) (s : State) : Host.Outcome State Fault Refusal :=
  .next (writeAs s port noTarget E.prbsSel 0 0 v (prbsSelAct v))

/-- PRBS_LOCK: the checker of a Drive link or ring lane is locked and counts bit errors from then on (R610, R612). A Head
link lane has no IN lane to check. -/
def prbsLockAct (errors : Nat) (s : State) : State :=
  let kind := bits (s.rdN E.prbsLink) 15 12
  if s.rd E.prbsSel = 0 ∨ ¬(kind = 1 ∨ kind = 2) then s
  else if s.rd E.prbsLock = 1 then s.count E.prbsErrors 0 errors
  else (s.wr E.prbsLock 1).wr E.prbsErrors (sat32 errors)

/-- PRBS_LOCK (R610). -/
def execPrbsLock (errors : Nat) (s : State) : Host.Outcome State Fault Refusal := .next (prbsLockAct errors s)

end Sys2Proof.Machine
end

