-- ==== Sys2Proof/Machine/Calib.lean ====
section
/-!
DEFINITION. How a Burnisher calibration becomes pending (R560).
-/
namespace Sys2Proof.Machine

/-- A trigger of calibration k leaves one run pending, and no more (R560). CAL_STATE_k goes on showing a run. -/
def calTrigger (s : State) (k : Nat) : State :=
  let x := s.cal k
  let s := s.setCal k { x with pending := true }
  if x.running || x.pending then s else s.wr E.calState 1 k

/-- The temperature trigger of each calibration (R560): the diode is valid, and DIE_TEMP differs from CAL_TEMP_k by more
than CAL_DELTA. -/
def calTemperature (s : State) : State :=
  if s.rd E.calTempTrig = 0 ∨ s.die.broken = true then s
  else (List.range 4).foldl (fun s k =>
    if 16 * s.rdN E.calDelta < (s.rd E.dieTemp - s.rd E.calTemp k).natAbs then calTrigger s k else s) s

end Sys2Proof.Machine
end

