-- ==== Sys2Proof/Machine/Persona.lean ====
section
/-!
DEFINITION. The words of the Finup personas and what the rest of the block asks of them (R573 to R576, R582, R585).
-/
namespace Sys2Proof.Machine

/-- The reset value of a stored word of persona p (R574). The MAC words take MAC_BASE + 2 + p of fuse word 2; EXT_CTRL is
set when the persona is entered. -/
def wordReset (s : State) (p w : Nat) : Nat :=
  let mac := s.fuse 2 + 2 + p
  match w with
  | 0x05 => 2048
  | 0x06 => 10
  | 0x07 => 0x21
  | 0x08 => 1000
  | 0x0B => 1
  | 0x10 => bits mac 47 32
  | 0x11 => bits mac 31 16
  | 0x12 => bits mac 15 0
  | _ => 0

/-- A stored word of persona p. -/
def pWord (s : State) (p w : Nat) : Nat := aget (wordReset s p w) w (s.persona p).words

/-- The persona of a channel (R573). -/
def personaOf (c : Nat) : Nat := c / 32

/-- A persona is instantiated (R568). -/
def personaOn (s : State) (p : Nat) : Bool := s.finup && (s.persona p).on

/-- The channel fires on an encoder edge plus a fixed delay (R582). -/
def fixedDelay (s : State) (c : Nat) : Bool := s.finup && !(s.persona (personaOf c)).landOn

/-- The working delay of a channel in vernier steps (R582, R583). -/
def delaySteps (s : State) (c : Nat) : Nat := aget 0 (c % 32) (s.persona (personaOf c)).delays * 128

/-- The lines of a channel's page; 0 for an endless page (R461, R579). -/
def pageLinesOf (s : State) (c : Nat) : Nat :=
  if s.finup then pWord s (personaOf c) 8 else s.rdN E.pageLines

/-- The page starts known to a channel (R462, R580). -/
def startsOf (s : State) (c : Nat) : List Nat := if s.finup then (s.persona (personaOf c)).starts else s.job.starts

/-- The net count since the page start reaches further lines of the page at an edge (R582). -/
def lineEdge (s : State) (p t : Nat) : State :=
  let x := s.persona p
  let net := s.rd E.encCount p - x.startCount
  if s.finup && x.inPage && decide (x.edges.length < pWord s p 8) &&
      decide (((x.edges.length : Int) + 1) * pWord s p 6 ≤ net) then
    s.setPersona p { x with edges := x.edges ++ [t] }
  else s

end Sys2Proof.Machine
end

