-- ==== Sys2Proof/Machine/Solve.lean ====
section
/-!
DEFINITION. What the position unit computes without changing state: the validity of sources, extrapolation from the
observer triple, the landing solver and the choice of a channel's next line (R78, R79, R83 to R85, R99, R100).
-/
namespace Sys2Proof.Machine

/-! ### Channels in service -/

/-- The engine that serves a channel (0x07.01); none serves an absent one (R111). -/
def serving (s : State) (c : Nat) : Option Nat :=
  let e := s.rdN E.servedBy c
  if e = 0xFF ∨ s.chPresent c = false then none else some e

/-- The Finup persona that a channel belongs to is instantiated and runs (R571, R579); always true in native mode. -/
def personaServes (s : State) (c : Nat) : Bool :=
  !s.finup || (personaOn s (personaOf c) && (s.persona (personaOf c)).run)

/-- An enabled channel (R466). -/
def enabledCh (s : State) (c : Nat) : Bool :=
  s.chPresent c && s.rd E.engEnable c == 1 && s.rd E.chDisable c == 0 && s.domOn (engDom c) &&
    (serving s c).isSome && personaServes s c

/-- Some channel is in overspeed (R22, R101). -/
def overspeed (s : State) : Bool := s.chans.any (fun x => x.2.inOver)

/-- The enabled channels, ascending. -/
def enabledChs (s : State) : List Nat := (List.range 96).filter (enabledCh s)

/-! ### The observer triple -/

/-- Velocity v0 in POS units per us (R77). -/
def vel0 (s : State) : Rat := (s.rd E.velEst : Rat) / 2 ^ 24
/-- Acceleration a0 in POS units per us^2 (R77). -/
def acc0 (s : State) : Rat := (s.rd E.accEst : Rat) / 2 ^ 40
/-- ENC_VMIN in POS units per us. -/
def vmin (s : State) : Rat := (s.rd E.encVmin : Rat) / 2 ^ 24

/-- The medium is treated as stopped (R78). -/
def stopped (s : State) : Bool := decide (vel0 s < vmin s)

/-- The us from TIME b to TIME a (R73, R75). -/
def usBetween (a b : Int) : Rat := (sdiff48 a b : Rat) / 800

/-- The observer position extrapolated to a TIME, less x0 (R79). -/
def ahead (s : State) (t : Nat) : Rat :=
  let d := usBetween t (s.rd E.sampleTime)
  vel0 s * d + acc0 s * d * d / 2

/-- A number delivered as a whole word: itself, or one of its two neighbours, which the spec leaves open (log entry
7). -/
def roundWord (s : State) (x : Rat) : Int × State :=
  if x = (x.floor : Rat) then (x.floor, s)
  else (x.floor + (if Config.roundUp s.fresh then 1 else 0), { s with fresh := s.fresh + 1 })

/-! ### Sources -/

/-- An encoder is configured and valid (R90, R108). -/
def encValid (s : State) (n : Nat) : Bool := s.rd E.encMode n != 0 && (s.enc n).valid

/-- The ring source is valid (R71, R436). -/
def ringPosValid (s : State) : Bool := s.ringPos.valid && ringTimeValid s

/-- A source code of SRC_PRIMARY names a valid source; 5 names none. -/
def srcValid (s : State) (k : Nat) : Bool := if k < 4 then encValid s k else k == 4 && ringPosValid s

/-- Some source is valid. -/
def anyValid (s : State) : Bool := (List.range 5).any (srcValid s)

/-- The other configured source of R91, for the source that is or was active. -/
def otherSource (s : State) (k : Nat) : Nat :=
  if k = s.rdN E.srcPrimary then s.rdN E.srcSecondary else s.rdN E.srcPrimary

/-- Coast is possible (R96, R98). -/
def coastPossible (s : State) : Bool := !stopped s && s.rd E.coastMax != 0

/-- The position of a source at its latest edge or sample, in POS units. -/
def srcPos (s : State) (k : Nat) : Int := if k < 4 then s.rd E.encCount k * 256 else s.ringPos.pos

/-- The TIME of that edge or sample. -/
def srcTime (s : State) (k : Nat) : Nat := if k < 4 then s.rdN E.encLastTs k else s.ringPos.time

/-- The position of the ring source extrapolated linearly to a TIME (R70). -/
def ringPosAt (s : State) (t : Nat) : Rat :=
  (s.ringPos.pos : Rat) + ((s.ringPos.vel : Rat) / 2 ^ 24) * usBetween t s.ringPos.time

/-- The position of a source now: the count of an encoder's latest edge, or the ring's extrapolated sample (R70, R76). -/
def srcNow (s : State) (k : Nat) : Rat := if k < 4 then (srcPos s k : Rat) else ringPosAt s s.time

/-- Clauses of R87 on a corrected position: how far it lies behind HWM. -/
def behindHwm (s : State) (corrected : Int) : Int := sdiff48 (s.rd E.hwm) corrected

/-- The backlash window in POS units (R74, R87). -/
def backlash (s : State) : Int := s.rdHeld E.backlashWin * 256

/-! ### The landing solver -/

/-- tau of R83: two Newton steps with the slope guard. -/
def newtonStep (v a d tau : Rat) : Rat :=
  let f := v * tau + a * tau * tau / 2 - d
  let fd := v + a * tau
  let fd := if fd < v / 2 then v / 2 else fd
  tau - f / fd

/-- tau of R83 for a remaining distance d. -/
def solveTau (v a d : Rat) : Rat := newtonStep v a d (newtonStep v a d (d / v))

/-- Instants are kept in vernier steps of 156.25 ps, modulo 2^51 (R29, R73). -/
def wrap51 (x : Int) : Nat := (x % (2 ^ 51 : Int)).toNat

/-- Signed difference of two instants (R75). -/
def sdiff51 (a b : Int) : Int :=
  let d := (a - b) % (2 ^ 51 : Int)
  if d < 2 ^ 50 then d else d - 2 ^ 51

/-- TIME now in vernier steps. -/
def nowStep (s : State) : Nat := s.time * 8

/-- FLIGHT_c rounded to vernier steps (0x2130); in a persona with LAND_ON, the latched delay (R585). -/
def flightSteps (s : State) (c : Nat) : Int :=
  if s.finup then delaySteps s c else divNearest (s.rd E.flight c * 4) 625

/-- P_page of the page that a channel prints (R462, R585). -/
def pageStart (s : State) (c p : Nat) : Nat := ((startsOf s c)[p]?).getD 0

/-- P_k less x0 for line k of a page on a channel: the remaining distance d of R83, a signed 48-bit difference (R75). -/
def distance (s : State) (c p k : Nat) : Rat :=
  wrapDiff ((pageStart s c p : Rat) + (k : Rat) * ((s.rd E.linePitch : Rat) / 2 ^ 16) + (s.rd E.offset c : Rat) -
    (s.rd E.posEst : Rat))

/-- t_fire of line k of the page of a channel, rounded to the vernier step, a tie later (R83). -/
def solveLine (s : State) (c k : Nat) : Nat :=
  let tau := solveTau (vel0 s) (acc0 s) (distance s c (s.chan c).page k)
  wrap51 (s.rd E.sampleTime * 8 + ratNearest (tau * 6400) - flightSteps s c)

/-- A byte range of an engine's active waveform table as a number (R180). -/
def waveWord (s : State) (base i : Nat) : Nat := s.word (base + 2 * i) 2

/-- WAVE_LEN of the waveform table at an address (R180). -/
def waveLenAt (s : State) (base : Nat) : Nat := waveWord s base 4096
/-- EDGE[j] of the waveform table at an address (R180). -/
def waveEdgeAt (s : State) (base j : Nat) : Nat := waveWord s base (4097 + j)
/-- AMP_REF of the waveform table at an address (R180). -/
def waveAmpRefAt (s : State) (base : Nat) : Nat := waveWord s base 4107
/-- W[i] of the waveform table at an address (R180). -/
def waveSampleAt (s : State) (base i : Nat) : Int := signed 16 (waveWord s base i)

/-- The rest level of the waveform table at an address under a GAIN (R188, R618). -/
def restLevel (s : State) (base gain : Nat) : Int :=
  clampInt (-32768) 32767 (divNearest (waveSampleAt s base (waveLenAt s base - 1) * gain) (2 ^ 16))

/-- CYCLE_TIME of a channel in vernier steps (R189), with the stretch of R199. -/
def cycleTime (s : State) (c : Nat) : Nat :=
  match serving s c with
  | none => 0
  | some e => divCeil (40 * waveLenAt s (activeAt e .wave) * s.rdN E.stretch c) 4096

/-- The minimum fire interval of a channel in vernier steps (R99). -/
def minInterval (s : State) (c : Nat) : Nat := max (cycleTime s c) (divCeil 6400000000 (s.rdN E.maxFireRate))

/-- The instant of the channel's latest fire or lock, which the next fire follows (R100). -/
def prevFire (x : Chan) : Option Nat :=
  match x.locked.getLast? with
  | some l => some l.inst
  | none => x.lastFire

/-- The line whose landing position is nearest to the medium at an instant plus the flight; a tie goes to the lower
line; never below the channel's next line (R100). -/
def nearestLine (s : State) (c inst : Nat) : Nat :=
  let x := s.chan c
  let dt : Rat := (sdiff51 (inst + flightSteps s c) (s.rd E.sampleTime * 8) : Rat) / 6400
  let pos := vel0 s * dt + acc0 s * dt * dt / 2
  let q := (x.next : Rat) + (pos - distance s c x.page x.next) / ((s.rd E.linePitch : Rat) / 2 ^ 16)
  let k := max x.next (-((1 / 2 - q).floor)).toNat
  if pageLinesOf s c = 0 then k else min k (pageLinesOf s c - 1)

/-- What the solver finds for a channel that stands in a page. -/
structure Solved where
  line : Nat
  inst : Nat
  /-- The channel is in overspeed. -/
  fast : Bool

/-- The next line of a channel, its instant, and whether the channel is in overspeed (R83, R100). Nothing while the
medium is stopped (R78) or all lines of the page are passed. -/
def solveNext (s : State) (c : Nat) : Option Solved :=
  let x := s.chan c
  if !x.inPage || stopped s || (pageLinesOf s c != 0 && decide (pageLinesOf s c ≤ x.next)) then none
  else
    let t := solveLine s c x.next
    match prevFire x with
    | none => some ⟨x.next, t, false⟩
    | some p =>
      if sdiff51 t p < minInterval s c then
        let i := wrap51 (p + minInterval s c)
        some ⟨nearestLine s c i, i, true⟩
      else some ⟨x.next, t, false⟩

end Sys2Proof.Machine
end

