-- ==== Sys2Proof/Machine/HeadLink.lean ====
section
/-!
DEFINITION. What a channel sends on its Head link: blocks, scrambling, line headers, line frames, slot strobes, idle blocks,
the legacy shift, and the taps that deskew its lanes (R157 to R164, R169 to R173, R191, R558, R612).
-/
namespace Sys2Proof.Machine

/-! ### Blocks -/

/-- A 34-bit block: 2 sync header bits, then 32 payload bits (R157). -/
def blockBits (sync payload : Nat) : Nat := sync * 2 ^ 32 + payload

/-- One bit through the self-synchronous scrambler x^58 + x^39 + 1: its state and the bit sent (R158). -/
def scrambleBit (st : Nat) (b : Bool) : Nat × Bool :=
  let o := b != (bit st 38 != bit st 57)
  ((st * 2 + (if o then 1 else 0)) % 2 ^ 58, o)

/-- Bits through the scrambler, first bit first. -/
def scrambleBits : Nat → List Bool → Nat → Nat × Nat
  | st, [], acc => (st, acc)
  | st, b :: r, acc =>
    let x := scrambleBit st b
    scrambleBits x.1 r (acc * 2 + (if x.2 then 1 else 0))

/-- The blocks of a lane with the payloads of its mask blocks scrambled; control and header blocks are skipped (R158). -/
def scrambleBlocks : Nat → List Nat → Nat × List Nat
  | st, [] => (st, [])
  | st, b :: r =>
    if b / 2 ^ 32 = 1 then
      let x := scrambleBits st (bitsDown 32 (b % 2 ^ 32)) 0
      let y := scrambleBlocks x.1 r
      (y.1, blockBits 1 x.2 :: y.2)
    else
      let y := scrambleBlocks st r
      (y.1, b :: y.2)

/-- The scrambler state of a lane (R158; its state after reset: log entry 11). -/
def scrState (x : Chan) (lane : Nat) : Nat := (x.scr[lane]?).getD (Config.scramblerSeed lane).toNat

/-- The idle block, which fills every period in which no other block is due (R159, R161, R164). -/
def idleBlock : Nat := blockBits 2 0x1E1E1E1E

/-- The slot strobe block: SLOT, FINE_8, FINE and CHK (R159). -/
def strobeBlock (slot fine : Nat) : Nat :=
  let b1 := slot * 16 + fine / 256
  let b2 := fine % 256
  blockBits 2 (0x2D * 2 ^ 24 + b1 * 2 ^ 16 + b2 * 2 ^ 8 + ((b1 ^^^ b2) ^^^ 0xA5))

/-- Header blocks of bytes, 4 to a block. -/
def headerBlocks : List Byte → List Nat
  | a :: b :: c :: d :: r => blockBits 3 (ofBytes [a, b, c, d]) :: headerBlocks r
  | _ => []

/-! ### Headers -/

/-- The training pattern (R162). -/
def trainingPattern : List Byte := toBytes 8 0x0F3C5AA5C396E178

/-- The fields of a header that a line or an idle frame fills in (R163). -/
structure Header where
  idle    : Bool
  spare   : Bool
  seq     : Nat
  line    : Nat
  channel : Nat
  engine  : Nat
  fill    : Bool
  rep     : Bool
  nozzles : Nat
  probe   : Option Nat
  fire    : Nat

/-- The 24 bytes of the field groups, HCRC last (R163). -/
def headerFields (h : Header) : List Byte :=
  let b := toBytes 1 0x78 ++ toBytes 1 (flag h.idle 6 + flag h.probe.isSome 5 + flag h.spare 4 + 1) ++ toBytes 2 h.seq ++
    toBytes 4 h.line ++ toBytes 1 0x79 ++ toBytes 1 h.channel ++ toBytes 1 h.engine ++
    toBytes 1 (flag h.fill 7 + flag h.rep 6) ++ toBytes 2 h.nozzles ++ toBytes 2 (h.probe.getD 0) ++
    toBytes 1 0x7A ++ toBytes 1 0 ++ toBytes 4 h.fire
  b ++ toBytes 2 (crc16 b)

/-- The two header blocks of each lane: the training pattern on lane LINE_SEQ mod 4, the groups on the others in
ascending lane order (R162). -/
def headerLanes (h : Header) : List (List Nat) :=
  let f := headerFields h
  let t := h.seq % 4
  (List.range 4).map (fun l =>
    if l = t then headerBlocks trainingPattern
    else headerBlocks ((f.drop (8 * (if l < t then l else l - 1))).take 8))

/-! ### Line frames -/

/-- The 32-bit payloads of a lane's mask blocks: block j holds nozzles 4 j to 4 j + 3 and goes on lane j mod 4 (R161). -/
def lanePayloads (masks : List Nat) (lane : Nat) : List Nat :=
  (List.range (masks.length / 16)).map (fun i =>
    let n := 4 * (4 * i + lane)
    (List.range 4).foldl (fun a k => a * 256 + (masks[n + k]?).getD 0) 0)

/-- The trailer of a lane: MCRC over the lane's unscrambled payloads (R159). -/
def trailer (lane : Nat) (payloads : List Nat) : Nat :=
  blockBits 2 (0x87 * 2 ^ 24 + lane * 2 ^ 16 + crc16 (payloads.flatMap (toBytes 4)))

/-- A test pattern replaces what a lane of a channel sends (R612). -/
def prbsOnLane (s : State) (c lane : Nat) : Bool :=
  s.rdN E.prbsSel != 0 && bits (s.rdN E.prbsLink) 15 12 == 0 && bits (s.rdN E.prbsLink) 11 4 == c &&
    bits (s.rdN E.prbsLink) 3 0 == lane

/-- The lanes as they leave: nothing of the frame on a lane under test. -/
def laneOut (s : State) (c : Nat) (lanes : List (List Nat)) : List (List Nat) :=
  lanes.zipIdx.map (fun x => if prbsOnLane s c x.2 then [] else x.1)

/-! ### Times -/

/-- Vernier steps of one block at an HL_RATE (R160). -/
def blockSteps (rate : Nat) : Nat := 68 * 2 ^ rate

/-- HL_SER_TIME in vernier steps (R170). -/
def serSteps (nozzles rate : Nat) : Nat := (nozzles / 16 + 13) * blockSteps rate

/-- Time in ns from the build start of a legacy line to the fall of LAT, for b bits on each lane (R173). -/
def latFallNs (b : Nat) : Nat := 5 + 10 * (b - 1) + 20 + 40

/-- Bits on each DATA lane (R171). -/
def legacyBits (nozzles dropBits : Nat) : Nat := nozzles / 2 * dropBits

/-- Vernier steps until a legacy line may fire (R173). -/
def legacySteps (nozzles dropBits : Nat) : Nat := (latFallNs (legacyBits nozzles dropBits) + 100) * 32 / 5

/-- The bits of one DATA lane: even or odd nozzles, highest first, most significant code bit first (R171). -/
def legacyData (codes : List Nat) (dropBits odd : Nat) : List Bool :=
  (List.range (codes.length / 2)).reverse.flatMap (fun i => bitsDown dropBits ((codes[2 * i + odd]?).getD 0))

/-- Time of slot edge j at the Head link pins, in vernier steps (R190, R191). -/
def edgeAtPins (s : State) (c fire edge stretch : Nat) : Nat :=
  wrap51 (fire + divNearest (edge * 40 * stretch) 4096 + 4096 + s.rd E.driveSkew c)

/-- Vernier steps by which the block periods of a channel's link lag behind TIME. The phase is not stated (log entry 28). -/
def linkPhase (s : State) (c e : Nat) : Nat := (Config.linkPhase c).toNat % blockSteps (s.rdN E.hlRate e)

/-- FINE of a slot edge: steps from the end of the last block period that ends at or before it (R160). -/
def fineOf (s : State) (c e edge : Nat) : Nat :=
  let b := blockSteps (s.rdN E.hlRate e)
  (edge + b - linkPhase s c e) % b

/-- The start of the block period that the strobe of a slot edge takes (R160). -/
def strobePeriod (s : State) (c e edge : Nat) : Nat :=
  wrap51 ((edge : Int) - fineOf s c e edge - blockSteps (s.rdN E.hlRate e))

/-- The strobe of a slot edge (R160). -/
def strobeFor (s : State) (c e slot edge : Nat) : Out :=
  .strobe c slot (strobePeriod s c e edge) (strobeBlock slot (fineOf s c e edge))

/-! ### Block periods -/

/-- The first block period of a link that starts at or after an instant (R160). -/
def periodFrom (s : State) (c e t : Nat) : Nat :=
  let b : Int := blockSteps (s.rdN E.hlRate e)
  wrap51 (t + ((linkPhase s c e : Int) - t) % b)

/-- The first period from t on that no strobe takes; at most `fuel` strobes follow one another. -/
def skipBusy (b : Nat) (busy : List Nat) : Nat → Nat → Nat
  | 0, t => t
  | fuel + 1, t => if busy.contains t then skipBusy b busy fuel (wrap51 (t + b)) else t

/-- n periods from t on that no strobe takes: a strobe takes the place of the block that would have been sent (R160). -/
def freePeriods (b : Nat) (busy : List Nat) : Nat → Nat → List Nat
  | 0, _ => []
  | n + 1, t =>
    let u := skipBusy b busy busy.length t
    u :: freePeriods b busy n (wrap51 (u + b))

/-- Blocks of four lanes, period by period. -/
def fourWide : List Nat → List Nat → List Nat → List Nat → List (List Nat)
  | a :: p, b :: q, c :: r, d :: u => [a, b, c, d] :: fourWide p q r u
  | _, _, _, _ => []

/-- The lanes' blocks laid out in a link's periods from an instant on, around the strobes of the line that fires (R160). -/
def layOut (s : State) (c e from_ : Nat) (lanes : List (List Nat)) : List (Nat × List Nat) :=
  let l (i : Nat) : List Nat := (lanes[i]?).getD []
  let rows := fourWide (l 0) (l 1) (l 2) (l 3)
  (freePeriods (blockSteps (s.rdN E.hlRate e)) (s.chan c).strobeAt rows.length (periodFrom s c e from_)).zip rows

/-- The lanes of a layout. -/
def lanesOf (rows : List (Nat × List Nat)) : List (List Nat) :=
  (List.range 4).map (fun i => rows.map (fun r => (r.2[i]?).getD idleBlock))

/-- The frame of a print line: on each lane two header blocks, its mask blocks and the trailer (R161). -/
def lineLanes (h : Header) (masks : List Nat) : List (List Nat) :=
  let hl := headerLanes h
  (List.range 4).map (fun l =>
    let p := lanePayloads masks l
    (hl[l]?).getD [] ++ p.map (blockBits 1) ++ [trailer l p])

/-- The blocks of a built line whose periods start before an instant, or all of them, are sent (R145, R158, R161). -/
def sendBlocks (s : State) (c : Nat) (b : Built) (upTo : Option Nat) : State :=
  let rows := match upTo with
    | none => b.frame
    | some t => b.frame.filter (fun r => decide (sdiff51 r.1 t < 0))
  if rows.isEmpty then s
  else
    let x := s.chan c
    let lanes := (lanesOf rows).zipIdx.map (fun r => scrambleBlocks (scrState x r.2) r.1)
    (s.setChan c { x with scr := lanes.map Prod.fst }).emit
      (.lineFrame c (rows.map Prod.fst) (laneOut s c (lanes.map Prod.snd)))

/-- Bits of a legacy line whose clock edge lies before an instant: bit i at 5 ns + 10 ns x (i - 1) (R173). -/
def shiftedBy (b : Built) (t n : Nat) : Nat := (min (n : Int) ((sdiff51 t b.start - 32 + 63) / 64)).toNat

/-- The codes of a built line are shifted out, all or up to an instant (R145, R171 to R173). -/
def sendShift (s : State) (c : Nat) (b : Built) (upTo : Option Nat) : State :=
  let d := s.rdN E.dropBits b.engine
  let n := legacyBits (s.rdN E.nozzles b.engine) d
  let fall := latFallNs n
  let cut (l : List Bool) : List Bool := match upTo with
    | none => l
    | some t => l.take (shiftedBy b t n)
  let latched := upTo.all (fun t => decide ((fall * 32 / 5 : Nat) < sdiff51 t b.start))
  s.emit (.legacyLine c (cut (legacyData b.masks d 0)) (cut (legacyData b.masks d 1))
    (if latched then some (b.start * 5 / 32 + fall) else none))

/-- What a channel's built line sends, all or up to an instant at which its engine stops sending it (R145, R149). -/
def sendBuilt (s : State) (c : Nat) (upTo : Option Nat) : State :=
  match (s.chan c).built with
  | none => s
  | some b => if s.rd E.hlMode b.engine = 1 then sendShift s c b upTo else sendBlocks s c b upTo

/-- An idle frame header is sent (R163, R164). -/
def sendIdle (s : State) (c e : Nat) : State :=
  let x := s.chan c
  let h : Header := ⟨true, decide (96 ≤ e), x.seq, 0, c, e, false, false, 0, none, 0⟩
  let rows := layOut s c e (nowStep s) (headerLanes h)
  (s.setChan c { x with seq := (x.seq + 1) % 65536 }).emit (.idleFrame c (rows.map Prod.fst) (laneOut s c (lanesOf rows)))

/-- The block of a lane of channel c in a block period, read from the trace: that of a frame or strobe sent in it, and an idle
block where no other was due (R161, R164). -/
def laneBlock (s : State) (c lane period : Nat) : Nat :=
  let blocks := s.sent.filterMap (fun o => match o with
    | .lineFrame d ps ls => if d = c then ((ps.zip ((ls[lane]?).getD [])).find? (fun r => r.1 == period)).map Prod.snd else none
    | .idleFrame d ps ls => if d = c then ((ps.zip ((ls[lane]?).getD [])).find? (fun r => r.1 == period)).map Prod.snd else none
    | .strobe d _ p b => if d = c ∧ p = period then some b else none
    | _ => none)
  blocks.headD idleBlock

/-! ### Lane deskew -/

/-- HL_TAP of lane L of channel c: byte 4c + L (log entry 5). -/
def hlTapAt (i : Nat) : Nat := blockBase + 0x1000 + i
/-- HL_RESID, in the same layout (log entry 5). -/
def hlResidAt (i : Nat) : Nat := blockBase + 0x1200 + i

/-- A channel is ready for the lane deskew: its back-channel delivers frames and reports block lock on all four lanes
(R561). -/
def deskewReady (s : State) (c : Nat) : Bool := (s.chan c).bridgeUp && (s.chan c).lanes == 15

/-- The bit period of a channel's lanes in 0.01 ps (R170). -/
def bitPeriod (s : State) (c : Nat) : Nat := 31250 * 2 ^ s.rdN E.hlRate ((serving s c).getD c)

/-- A lane's reported offset in 0.01 ps: OFS_BITS bit periods and OFS_TAPS taps (R168, R205). -/
def laneSkew (s : State) (c lane : Nat) : Int :=
  let o := ((s.chan c).offsets[lane]?).getD (0, 0)
  o.1 * bitPeriod s c + o.2 * s.rdN E.tapPs

/-- A lane's tap moves by one against its reported offset: a late lane is delayed less. Past an end of the line a whole bit
period is taken in, which no entry shows (R558; DESIGN CHOICE, log entry 46, unsafe). -/
def stepTap (s : State) (c lane : Nat) : State :=
  let a := hlTapAt (4 * c + lane)
  let t := (s.byte a).toNat
  let k := laneSkew s c lane
  let perBit := bitPeriod s c / max 1 (s.rdN E.tapPs)
  if k.natAbs < s.rdN E.tapPs then s
  else s.setBytes a (toBytes 1 (if 0 < k then (if t = 0 then perBit - 1 else t - 1)
    else if 63 ≤ t then 64 - perBit else t + 1))

/-- HL_DESKEW_STEP: before every sixteenth line header, each lane of a channel on which calibration 0 runs moves one tap
(R169, R558). -/
def deskewStep (s : State) (c : Nat) : State :=
  let x := s.chan c
  if x.headers + 1 < 16 then s.setChan c { x with headers := x.headers + 1 }
  else
    let s := s.setChan c { x with headers := 0 }
    if (s.cal 0).running && deskewReady s c then (List.range 4).foldl (fun s l => stepTap s c l) s else s

end Sys2Proof.Machine
end

