-- ==== Sys2Proof/Machine/PageMap.lean ====
section
/-!
DEFINITION. The page map and the DRAM behind it as every master sees them (R298, R299, R302, R305, R307 to R310, R329).
-/
namespace Sys2Proof.Machine

/-- Bytes of a page and of a frame (R299). -/
def pageSize : Nat := 2 ^ 21

/-- Number of DRAM bytes of the logical space (R299). -/
def logicalSize : Nat := 2 ^ 35

/-- The stored entry of a logical page (R307). -/
def pageEntry (s : State) (p : Nat) : Nat := aget 0 p s.memory.map

/-- The state with a page map entry written; a map command's rewrite makes an uncorrectable entry good (R310). -/
def setPageEntry (s : State) (p v : Nat) : State :=
  { s with memory := { s.memory with map := aput 0 p v s.memory.map } }

/-- STATE of an entry. -/
def pState (v : Nat) : Nat := bits v 47 45

/-- STATE of a page as it reads: an entry whose code is uncorrectable reads as retired (R310). -/
def pageState (s : State) (p : Nat) : Nat := if s.memory.badEntries.contains p then 3 else pState (pageEntry s p)

/-- Rank number 2 ch + r of the frame of an entry, and of its destination (R307). -/
def pRank (v : Nat) : Nat := bits v 19 16
def pDstRank (v : Nat) : Nat := bits v 39 36
/-- Frame number of an entry. -/
def pFrame (v : Nat) : Nat := bits v 15 5

/-- First physical byte of a frame of a rank (R299). -/
def frameAt (rank frame : Nat) : Nat := (rank * 1820 + frame) * pageSize

/-- The domain of a DRAM channel (R45). -/
def dramDom (ch : Nat) : Nat := if ch < 2 then 3 else if ch < 4 then 4 else 5

/-- The start-up initialisation has written a page's frame (R301). -/
def pageWritten (s : State) (p : Nat) : Bool := s.memory.initDone || decide (p < s.memory.initNext)

/-- What becomes of a request to a logical address: it reaches physical bytes, it is not accepted and the requester is
told at once (R308), or it is not accepted yet: its domain is off (R329) or its frame is not written (R301), and the
requester's own time-out applies. -/
inductive Reach where
  | at_ (phys : Nat)
  | refused
  | silent
  deriving DecidableEq, Repr

/-- Translation of a logical address for a read (R301, R308, R329). -/
def reach (s : State) (a : Nat) : Reach :=
  let p := a / pageSize
  let v := pageEntry s p
  if logicalSize ≤ a then .refused
  else if !s.domOn 3 then .silent
  else if pageState s p = 1 ∨ pageState s p = 2 then
    if s.domOn (dramDom (pRank v / 2)) && pageWritten s p then .at_ (frameAt (pRank v) (pFrame v) + a % pageSize) else .silent
  else .refused

/-- The second frame that a write to a migrating page also goes to (R308). -/
def reachDst (s : State) (a : Nat) : Option Nat :=
  let p := a / pageSize
  let v := pageEntry s p
  if pageState s p = 2 then some (frameAt (pDstRank v) (pFrame v) + a % pageSize) else none

/-- Cut a range into requests of at most `most` bytes that do not cross a page, in ascending order (R326, R372). -/
def cutRange (most : Nat) : Nat → Nat → Nat → List (Nat × Nat)
  | 0, _, _ => []
  | fuel + 1, a, n =>
    if n = 0 then []
    else
      let k := min (min n most) (pageSize - a % pageSize)
      (a, k) :: cutRange most fuel (a + k) (n - k)

/-- The requests of a range. -/
def requests (a n : Nat) : List (Nat × Nat) := cutRange 2048 (n / 2048 + 3) a n

/-- What the whole of a range meets: the first request that is refused or silent decides. -/
def reachAll (s : State) (a n : Nat) : Reach :=
  ((requests a n).map (fun r => reach s r.1)).foldl
    (fun acc r => match acc with
      | .at_ p => match r with
        | .at_ _ => .at_ p
        | x => x
      | x => x)
    (reach s a)

/-- The bytes of a logical range; bytes of a page that is not readable read 0. -/
def logicalRead (s : State) (a n : Nat) : List Byte :=
  (requests a n).flatMap (fun r => match reach s r.1 with
    | .at_ p => s.bytes p r.2
    | _ => List.replicate r.2 0)

/-- A request of n bytes is accepted by a rank: it leaves power-down or its self-refresh entry at once, and waits for
the exit from self-refresh (R330 to R332); its bytes count as traffic of the channel. -/
def touchRank (s : State) (rank n : Nat) (write : Bool) : State :=
  let x := s.rank rank
  let p := if x.power = 1 ∨ x.power = 2 then 0 else if x.power = 3 then 4 else x.power
  let t := aget (0, 0) (rank / 2) s.memory.traffic
  let s := s.setRank rank { x with power := p }
  { s with memory := { s.memory with
    traffic := ains (rank / 2) (if write then (t.1, t.2 + n) else (t.1 + n, t.2)) s.memory.traffic } }

/-- A request to a rank in self-refresh is accepted: the rank begins its exit (R332). -/
def wakeRank (s : State) (rank : Nat) : State :=
  if (s.rank rank).power = 3 then s.setRank rank { s.rank rank with power := 4 } else s

/-- The requests of a read of a logical range are accepted where they reach a frame (R308). -/
def touchRead (s : State) (a n : Nat) : State :=
  (requests a n).foldl (fun s r => match reach s r.1 with
    | .at_ _ => touchRank s (pRank (pageEntry s (r.1 / pageSize))) r.2 false
    | _ => s) s

/-- The physical 256-byte block of a byte (R302). -/
def blockOf (phys : Nat) : Nat := phys / 256

/-- Some block of a logical range is stored as uncorrectable (R305). -/
def rangeBad (s : State) (a n : Nat) : Bool :=
  (requests a n).any (fun r => match reach s r.1 with
    | .at_ p => s.memory.badBlocks.any (fun b => decide (blockOf p ≤ b ∧ b ≤ blockOf (p + r.2 - 1)))
    | _ => false)

/-- Bytes written into DRAM: a block that is covered whole becomes good again (R305). -/
def dramWrite (s : State) (phys : Nat) (data : List Byte) : State :=
  let s := s.setBytes phys data
  let covered (b : Nat) : Bool := decide (phys ≤ b * 256 ∧ b * 256 + 256 ≤ phys + data.length)
  { s with memory := { s.memory with badBlocks := s.memory.badBlocks.filter (fun b => !covered b) } }

/-- One write request to a logical address; both frames of a migrating page (R308). -/
def logicalPut (s : State) (a : Nat) (data : List Byte) : State :=
  match reach s a with
  | .at_ p =>
    let v := pageEntry s (a / pageSize)
    let s' := dramWrite (touchRank s (pRank v) data.length true) p data
    match reachDst s a with
    | some q => dramWrite (touchRank s' (pDstRank v) data.length true) q data
    | none => s'
  | _ => s

/-- A write of a logical range; requests to pages that are not writable change nothing. -/
def logicalWrite (s : State) (a : Nat) (data : List Byte) : State :=
  (requests a data.length).foldl (fun s r => logicalPut s r.1 ((data.drop (r.1 - a)).take r.2)) s

/-- A write that memory does not accept yet is held before acceptance (R301, R329). -/
def holdWrite (s : State) (w : WaitingWrite) : State :=
  { s with memory := { s.memory with waiting := s.memory.waiting ++ [w] } }

end Sys2Proof.Machine
end

