-- ==== Sys2Proof/Machine/Feed.lean ====
section
/-!
DEFINITION. The Feed engines and the line buffer (R116 to R120, R143, R144, R366 to R374, R580).
-/
namespace Sys2Proof.Machine

/-- The ring buffer of a channel, when FEED_RB_c names one (R371). -/
def ringBufOf (s : State) (c : Nat) : Option Nat := let r := s.rdN E.feedRb c; if r < 32 then some r else none

/-- Bytes of a fetched line of the engine serving a channel (R116, R367). -/
def lineBytes (s : State) (e : Nat) : Nat := divCeil (s.rdN E.lineCols e * s.rdN E.dropBits e) 8

/-- Address of the first byte that channel c fetches of job line n of ring buffer r (R367). -/
def lineAddr (s : State) (c r n : Nat) : Nat :=
  s.rdN E.rbBase r + (n % s.rdN E.rbLines r) * s.rdN E.rbStride r + s.rdN E.feedOfs c

/-- The Feed engine is asked for a job line; it waits for RB_WR unless the buffer is a stored job (R370, R372). -/
def askLine (s : State) (c n : Nat) : State :=
  let waits := match ringBufOf s c with
    | none => true
    | some r => (s.rd E.rbMode r == 0 || s.finup) && decide (s.rdN E.rbWr r ≤ n)
  let x := s.chan c
  let s := s.setChan c { x with asked := x.asked ++ [n], askNext := n + 1 }
  if waits then s.count E.feedWaits c else s

/-- The Feed engine is asked for every job line up to n that it has not been asked for, ascending (R118). -/
def askUpTo (s : State) (c n : Nat) : State :=
  let from_ := (s.chan c).askNext
  (List.range (n + 1 - from_)).foldl (fun s i => askLine s c (from_ + i)) s

/-- Slots of job lines up to n are released (R118). -/
def releaseTo (s : State) (c n : Nat) : State :=
  let x := s.chan c
  s.setChan c { x with slots := x.slots.filter (fun l => decide (n < l.job)) }

/-- The page line of a job line (R461). -/
def pageLine (s : State) (c n : Nat) : Nat := if pageLinesOf s c = 0 then n else n % pageLinesOf s c

/-- The slot of a job line. -/
def slotOf (x : Chan) (n : Nat) : Option LbSlot := x.slots.find? (fun l => l.job == n)

/-- A line lands in the line buffer (R372). -/
def landLine (s : State) (c n : Nat) (damaged rep : Bool) (data : List Byte) : State :=
  let x := s.chan c
  s.setChan c { x with
    issued := x.issued.filter (fun f => f.job != n),
    slots := x.slots ++ [⟨n, nowStep s, damaged, rep, data⟩] }

/-- A damaged line is filled, counted and reported; the persona latches LATE (R143, R144, R576). A repeat whose line
k - 1 the line buffer no longer holds is blank (DESIGN CHOICE, log entry 18, unsafe). -/
def landDamaged (s : State) (c e n : Nat) : State :=
  let x := s.chan c
  let k := pageLine s c n
  let blank := List.replicate (lineBytes s e) (0 : Byte)
  let prev := if k = 0 then none else slotOf x (n - 1)
  let s := match s.rd E.damagedFill e, prev with
    | 1, some p => landLine s c n true true p.data
    | _, _ => landLine s c n true false blank
  let s := s.count E.damagedLines e
  let s := if s.finup then
      let p := personaOf c
      s.setPersona p { s.persona p with latched := (s.persona p).latched ||| 4 } else s
  s.report e 4 k

/-- An engine that works on a channel's lines: it serves the channel, is not fenced, and is not copying (R148, R149). -/
def workingEngine (s : State) (c : Nat) : Option Nat :=
  match serving s c with
  | none => none
  | some e => if (s.eng e).fenced || (s.eng e).copying.isSome || !s.domOn (engDom c) then none else some e

/-- The requests of a line are accepted one after another, ascending, as far as the limit on requests in flight lets them. Each
is translated once, when it is accepted, and takes the data that stand then (R309, R327). A page that is not mapped damages
the line (R143); one that cannot be reached yet holds the request before acceptance (R301, R329). -/
def acceptRequests : Nat → State → Fetch → State × Fetch
  | 0, s, f => (s, f)
  | k + 1, s, f =>
    match f.todo with
    | [] => (s, f)
    | (a, n) :: rest =>
      match reach s a with
      | .silent => (s, f)
      | .refused => (s, { f with bad := true, todo := [] })
      | .at_ p =>
        let rank := pRank (pageEntry s (a / pageSize))
        let asleep := decide (3 ≤ (s.rank rank).power)
        let bad := rangeBad s a n
        acceptRequests k (touchRank s rank n false) { f with
          bad := f.bad || bad, todo := rest, count := f.count + 1, waits := if asleep then rank :: f.waits else f.waits,
          data := f.data ++ s.bytes p n }

/-- Requests of the lines in flight are accepted, oldest line first, at most 4 in flight (R372). -/
def acceptLines : List Fetch → Nat → State → State × List Fetch
  | [], _, s => (s, [])
  | f :: r, free, s =>
    let (s, f') := acceptRequests free s f
    if f'.todo.isEmpty then
      let (s, r) := acceptLines r (free - (f'.count - f.count)) s
      (s, f' :: r)
    else (s, f' :: r)

/-- Requests in flight on a channel. -/
def inRequest (x : Chan) : Nat := (x.issued.map Fetch.count).sum

/-- The Feed engine of a channel issues what it may (R372). -/
def pumpFeed (s : State) (c : Nat) : State :=
  let x := s.chan c
  let (s, l) := acceptLines x.issued (4 - inRequest x) s
  s.setChan c { s.chan c with issued := l }

/-- FEED_FETCH: the first line asked for is below RB_WR, so its requests are issued once those of earlier lines are and fewer
than 4 are in flight; in stored mode a line at or beyond RB_WR is delivered blank (R370, R372, R373). -/
def feedFetchAct (c : Nat) (s : State) : State :=
  match workingEngine s c with
  | none => s
  | some e =>
    let s := pumpFeed s c
    let x := s.chan c
    match x.asked, ringBufOf s c with
    | n :: rest, some r =>
      let wr := s.rdN E.rbWr r
      let stored := s.rd E.rbMode r == 1 && !s.finup
      if stored && decide (wr ≤ n) then
        let s := (s.setChan c { x with asked := rest }).wr E.feedNext (n + 1) c
        landLine s c n false false (List.replicate (lineBytes s e) 0)
      else if n < wr ∧ inRequest x < 4 ∧ x.issued.all (fun f => f.todo.isEmpty) then
        let lapped := decide (n + s.rdN E.rbLines r < wr)
        let a := lineAddr s c r n
        let f : Fetch := ⟨n, a, lapped, if lapped then [] else requests a (lineBytes s e), 0, [], []⟩
        let s := pumpFeed ((s.setChan c { x with asked := rest, issued := x.issued ++ [f] }).wr E.feedNext (n + 1) c) c
        if lapped then s.report 0x90 1 a else s
      else s
    | _, _ => s

/-- FEED_FETCH (R370, R372, R373). -/
def execFeedFetch (c : Ch) (s : State) : Host.Outcome State Fault Refusal := .next (feedFetchAct c s)

/-- Every request of a line is accepted, and no rank that one of them waits for is still in self-refresh (R332, R372). -/
def fetchDone (s : State) (f : Fetch) : Bool := f.todo.isEmpty && f.waits.all (fun k => decide ((s.rank k).power < 3))

/-- FEED_LINE_READY: every request of the first line in flight has completed, with what the reads found; a line whose
pages were unmapped, whose slot was lapped or whose data is uncorrectable is damaged (R143, R372). -/
def feedReadyAct (c : Nat) (ecc : EccResult) (s : State) : State :=
  match workingEngine s c with
  | none => s
  | some e =>
    let s := pumpFeed s c
    match (s.chan c).issued with
    | [] => s
    | f :: _ =>
      if !fetchDone s f then s
      else pumpFeed (if f.bad || ecc == .uncorrectable then landDamaged s c e f.job else landLine s c f.job false false f.data) c

/-- FEED_LINE_READY (R143, R144, R372). -/
def execFeedLineReady (c : Ch) (ecc : EccResult) (s : State) : Host.Outcome State Fault Refusal :=
  .next (feedReadyAct c ecc s)

/-- FEED_TIMEOUT: a request of the first line in flight had no response for 4 us: the line is damaged (R373). -/
def feedTimeoutAct (c : Nat) (s : State) : State :=
  match workingEngine s c, (s.chan c).issued with
  | some e, f :: _ => pumpFeed ((landDamaged s c e f.job).report 0x90 2 f.addr) c
  | _, _ => s

/-- FEED_TIMEOUT (R373). -/
def execFeedTimeout (c : Ch) (s : State) : Host.Outcome State Fault Refusal := .next (feedTimeoutAct c s)

end Sys2Proof.Machine
end

