-- ==== Sys2Proof/Machine/HealthMap.lean ====
section
/-!
DEFINITION. The health map of an engine (R246 to R248), and the fold that turns its unresolved failures into Stitch
map entries (R249, R250).
-/
namespace Sys2Proof.Machine

/-! ### Entries -/

/-- Address of the health entry of a nozzle (R246). -/
def healthAt (e n : Nat) : Nat := healthBase + e * tableStep + 6 * n

/-- The 48-bit health entry of a nozzle. -/
def State.health (s : State) (e n : Nat) : Nat := s.word (healthAt e n) 6

/-- The state with a health entry written. -/
def State.setHealth (s : State) (e n v : Nat) : State := s.setBytes (healthAt e n) (toBytes 6 v)

/-- STATE of an entry. -/
def hState (x : Nat) : Nat := bits x 47 45
/-- STRIKES of an entry. -/
def hStrikes (x : Nat) : Nat := bits x 44 43
/-- SUB_CH of an entry. -/
def hSubCh (x : Nat) : Nat := bits x 31 24
/-- SUB_NOZZLE of an entry. -/
def hSubNozzle (x : Nat) : Nat := bits x 23 10
/-- The nozzle is failed or forced failed. -/
def hFailed (x : Nat) : Bool := hState x == 4 || hState x == 5
/-- The failure is resolved. -/
def hResolved (x : Nat) : Bool := bit x 41

/-- The nozzles of an engine whose entry's first byte, which holds STATE, STRIKES, UNCOVERED and RESOLVED, meets a
condition; entries at reset do not (R246). -/
def nozzlesWith (s : State) (e : Nat) (p : Nat → Bool) : List Nat :=
  (s.mem.filter (fun c =>
      decide (healthAt e 0 ≤ c.1 ∧ c.1 < healthAt e 12288) && (c.1 - healthAt e 0) % 6 == 0 && p c.2.toNat)).map
    (fun c => (c.1 - healthAt e 0) / 6)

/-- The failed nozzles of an engine whose failure is unresolved, ascending. -/
def unresolved (s : State) (e : Nat) : List Nat :=
  nozzlesWith s e (fun b => (bits b 7 5 == 4 || bits b 7 5 == 5) && !bit b 1)

/-- All failed nozzles of an engine, ascending. -/
def failedNozzles (s : State) (e : Nat) : List Nat := nozzlesWith s e (fun b => bits b 7 5 == 4 || bits b 7 5 == 5)

/-- The nozzles of an engine that await confirmation, ascending: STRIKES 1 or 2, which the failing state alone has (R241,
R242). -/
def awaiting (s : State) (e : Nat) : List Nat := nozzlesWith s e (fun b => bits b 7 5 == 3)

/-- The channel that an engine serves (E + 0x00.02). -/
def channelOf (s : State) (e : Nat) : Option Nat :=
  let c := s.rdN E.channel e
  if c < 96 then some c else none

/-- The engine serving the designated substitute's channel, when the channel lies in the failed nozzle's group (R113,
R249). -/
def partner (s : State) (c h : Nat) : Option Nat :=
  if hSubCh h < 96 ∧ groupOf (hSubCh h) = groupOf c then serving s (hSubCh h) else none

/-! ### Stitch map shadows -/

/-- The 48-bit shadow entry of a nozzle (R121). -/
def stitchShadow (s : State) (e n : Nat) : Nat := s.word (shadowAt e .stitch + 6 * n) 6

/-- The state with a shadow entry written. -/
def setStitchShadow (s : State) (e n v : Nat) : State := s.setBytes (shadowAt e .stitch + 6 * n) (toBytes 6 v)

/-- MODE of a Stitch map entry: 0 off, 1 normal, 2 merged, 3 solid (R121). -/
def stMode (m : Nat) : Nat := bits m 47 46
/-- SRC_COL of an entry. -/
def stSrc (m : Nat) : Nat := bits m 13 0

/-! ### The fold -/

/-- A fold while it runs over the failures of a group. -/
structure Fold where
  st : State
  /-- Engines with a failure left unresolved: FOLD_PENDING. -/
  left : List Nat
  /-- Engine whose swap makes the mark, engine and nozzle marked, and whether uncovered. -/
  marks : List (Nat × Nat × Nat × Bool)
  /-- Engines whose shadow changed. -/
  changed : List Nat

/-- Mark an entry resolved, or uncovered, at the swap of engine x. -/
def Fold.mark (a : Fold) (x e f : Nat) (uncovered : Bool) : Fold := { a with marks := a.marks ++ [(x, e, f, uncovered)] }

/-- Write a shadow entry. -/
def Fold.put (a : Fold) (e n v : Nat) : Fold :=
  { a with st := setStitchShadow a.st e n v, changed := if a.changed.contains e then a.changed else e :: a.changed }

/-- The fold, or an earlier one, has covered a failed nozzle: it is resolved, or marked so, and not uncovered. -/
def Fold.covered (a : Fold) (z g : Nat) : Bool :=
  let m := a.marks.filter (fun m => m.2.1 == z && m.2.2.1 == g)
  let h := a.st.health z g
  (hResolved h || !m.isEmpty) && !bit h 42 && !m.any (fun m => m.2.2.2)

/-- The nozzle of the group that nozzle f of engine x covers through column `alt`: the failed and covered nozzle designating f
whose own column lies at that column of x; of several, the first (DEDUCED, log entry 62, unsafe). -/
def coveredThrough (a : Fold) (x f alt : Nat) : Option (Nat × Nat) :=
  let s := a.st
  match channelOf s x with
  | none => none
  | some c =>
    (((List.range 24).map (fun i => groupOf c * 24 + i)).flatMap (fun d =>
      match serving s d with
      | none => []
      | some z =>
        ((failedNozzles s z).filter (fun g =>
          let h := s.health z g
          hSubCh h == c && hSubNozzle h == f && a.covered z g &&
            decide (s.rd E.winStart z + stSrc (stitchShadow s z g) - s.rd E.winStart x = alt))).map (fun g => (z, g)))).head?

/-- The designated substitute takes column `col` of the failed entry m into its own entry t; nothing when it cannot
(R250). -/
def substitute (m t col : Nat) : Option Nat :=
  let base := putBits t 13 0 col
  if stMode t = 0 then
    some (putBits (putBits base 45 44 (bits m 45 44)) 47 46 (if stMode m = 3 then 3 else 1))
  else if stMode t = 1 ∧ stMode m ≠ 3 then
    some (putBits (putBits (putBits (putBits t 47 46 2) 29 16 col) 43 42 (bits m 45 44)) 38 36 (bits t 41 39))
  else if stMode t = 1 ∧ col = stSrc t then some (putBits t 47 46 3)
  else if stMode t = 3 ∧ col = stSrc t then some t
  else none

/-- The checks of R249, the substitute's state included: the translated column when they pass. -/
def coverColumn (s : State) (x y f h m : Nat) : Option Nat :=
  let n := hSubNozzle h
  let col : Int := s.rd E.winStart x + stSrc m - s.rd E.winStart y
  if (x = y ∧ n = f) ∨ s.rdN E.nozzles y ≤ n ∨ col < 0 ∨ s.rd E.lineCols y ≤ col ∨ hFailed (s.health y n) then none
  else some col.toNat

/-- One entry of the fold of R250: nozzle f of channel c, served by engine x. -/
def foldEntry (set : List Nat) (c x : Nat) (a : Fold) (f : Nat) : Fold :=
  let h := a.st.health x f
  let y := partner a.st c h
  if !set.contains x || y.any (fun e => !set.contains e) then { a with left := x :: y.toList ++ a.left }
  else
    let m := stitchShadow a.st x f
    if stMode m = 0 then a.mark x x f false
    else
      let a := a.put x f (putBits m 47 46 0)
      let a := if stMode m = 2 then
          (coveredThrough a x f (bits m 29 16)).elim a (fun g => a.mark x g.1 g.2 true) else a
      match y with
      | none => a.mark x x f true
      | some y =>
        match coverColumn a.st x y f h m with
        | none => a.mark x x f true
        | some col =>
          let t := stitchShadow a.st y (hSubNozzle h)
          match substitute m t col with
          | none => a.mark x x f true
          | some t' => (if t' = t then a else a.put y (hSubNozzle h) t').mark x x f false

/-- The fold of R250 over a commit set, for the group that it belongs to. -/
def runFold (s : State) (g : Nat) (set : List Nat) : Fold :=
  (List.range 24).foldl (fun a i =>
      match serving s (24 * g + i) with
      | none => a
      | some x => (unresolved s x).foldl (foldEntry set (24 * g + i) x) a)
    ⟨s, [], [], []⟩

end Sys2Proof.Machine
end

