-- ==== Sys2Proof/Machine/Tables.lean ====
section
/-!
DEFINITION. The double-buffered tables of an engine: shadow writes, commits, folds, swaps and the values that a
waveform commit sets (R133 to R142, R182 to R185, R202, R217, R250, R251, R272, R274).
-/
namespace Sys2Proof.Machine

/-! ### The drive amplitude -/

/-- Loop number of a channel's drive-amplitude loop (R271). -/
def ampLoop (c : Nat) : Nat := 2 + c

/-- The largest magnitude of the played samples of a waveform table (R202). -/
def waveMax (s : State) (base : Nat) : Nat :=
  ((List.range (waveLenAt s base)).map (fun i => (waveSampleAt s base i).natAbs)).foldl max 0

/-- G_CEIL of R274; none where the table is flat at 0 and no gain reaches the ceiling. -/
def gCeil (s : State) (e : Nat) : Option Nat :=
  let m := waveMax s (activeAt e .wave)
  if m = 0 then none
  else some (s.rdN E.headVCeil * 100000 * 2 ^ 16 / (m * s.rdN E.vOutLsb))

/-- REF_TARGET of a channel's drive-amplitude loop, at a waveform commit and at a write of AMP_SCALE_c (R274). -/
def ampTarget (s : State) (c : Nat) : State :=
  match serving s c with
  | none => s
  | some e =>
    let base := activeAt e .wave
    let ref := waveSampleAt s base (waveAmpRefAt s base)
    s.wr E.refTarget ((ref * s.rd E.vOutLsb * s.rd E.ampScale c + 2 ^ 15).fdiv (2 ^ 16)) (ampLoop c)

/-- OUT_MIN and OUT_MAX of a channel's drive-amplitude loop, and GAIN: that of R272 while the loop is disabled, otherwise not
above a G_CEIL that has come to lie below it (R202, R272, R274). -/
def ampLimits (s : State) (c : Nat) : State :=
  match serving s c with
  | none => s
  | some e =>
    let l := ampLoop c
    let s := s.wr E.outMin (s.rd E.gainMin) l
    let g := gCeil s e
    let top := match g with
      | none => s.rd E.gainMax
      | some g => min (s.rd E.gainMax) g
    let s := s.wr E.outMax top l
    if s.rd E.loopEn l = 1 then
      match g with
      | none => s
      | some g =>
        if s.rd E.gain c ≤ g then s
        else ((s.setChan c { s.chan c with ceilHit := decide ((g : Int) < s.rd E.gainMax) }).wr E.gain g c).wr E.output g l
    else
      let want : Nat := 65536
      let have_ : Nat := match g with
        | none => want
        | some g => min want g
      (s.setChan c { s.chan c with ceilHit := decide (have_ < want) }).wr E.gain have_ c

/-- Every value of a channel's drive-amplitude loop that follows its waveform table (R274). -/
def ampSettings (s : State) (c : Nat) : State := ampLimits (ampTarget s c) c

/-- R274's values for every channel. -/
def allAmpSettings (s : State) : State := (List.range 96).foldl ampSettings s

/-- The limits of every channel after a write of a setting that they share. -/
def allAmpLimits (s : State) : State := (List.range 96).foldl ampLimits s

/-! ### Shadow writes -/

/-- The engine and table that an address of the table-shadow space names (R344). -/
def shadowOf (a : Nat) : Option (Nat × Table) :=
  let o := (a - shadowBase) % tableStep
  let e := (a - shadowBase) / tableStep
  if a < shadowBase ∨ 100 ≤ e then none
  else (allTables.find? (fun t => decide (tableOfs t ≤ o ∧ o < tableOfs t + tableLen t))).map (fun t => (e, t))

/-- The entry through which an address of the table-shadow space is written (R176, R179, R231). -/
def shadowKey (a : Nat) : Nat :=
  match shadowOf a with
  | none => 0
  | some (e, t) => match t with
    | .stitch => rowKey E.stitchShadow e 0
    | .wave => rowKey E.waveShadow e 0
    | .tile => rowKey E.tileShadow e 0
    | .shape => rowKey E.shapeShadow e (a - shadowAt e t)

/-- A write into an engine's shadow: held while the shadow is SYNCING, otherwise made, and the shadow is no longer
CLEAN (R134, R138, R345). -/
def shadowWrite (s : State) (e : Nat) (t : Table) (ofs : Nat) (data : List Byte) (port : Option Port) : Nat × State :=
  let x := s.eng e
  let a := shadowAt e t + ofs
  if x.shadow t = .syncing then (laterCode, s.setEng e { x with held := x.held ++ [⟨a, data, port⟩] })
  else (okCode, (s.setBytes a data).setEng e
    (if x.shadow t = .folding then { x with foldDirty := true } else x.setShadow t .dirty))

/-! ### Commits -/

/-- Two neighbouring values of a list break a condition. -/
def anyPair (p : Nat → Nat → Bool) : List Nat → Bool
  | a :: b :: r => p a b || anyPair p (b :: r)
  | _ => false

/-- Least distance of consecutive edges for an HL_RATE (R182). -/
def edgeSpacing (rate : Nat) : Nat := if rate = 0 then 5 else if rate = 1 then 10 else 19

/-- Two consecutive edges of the waveform table at an address are too near for an HL_RATE (R182, R183). -/
def edgesTooNear (s : State) (base rate : Nat) : Bool :=
  anyPair (fun a b => decide (b - a < edgeSpacing rate)) ((List.range 10).map (waveEdgeAt s base))

/-- The checks of R182 on the waveform table at an address: 0 when it passes, otherwise the first that fails. -/
def waveCheckAt (s : State) (base rate : Nat) : Nat :=
  let len := waveLenAt s base
  let edges := (List.range 10).map (waveEdgeAt s base)
  if len < 16 ∨ 4096 < len then 1
  else if anyPair (fun a b => decide (b < a)) edges then 2
  else if len - 1 < waveEdgeAt s base 9 then 3
  else if edgesTooNear s base rate then 4
  else if len ≤ waveAmpRefAt s base then 5
  else 0

/-- The engines of a paired commit of engine e that have not swapped yet (R141). -/
def pairLeft (s : State) (e : Nat) : List Nat :=
  let l := (s.eng e).foldSet
  if l.length < 2 then [] else l.filter (fun y => (s.eng y).pendStitch && (s.eng y).foldSet.contains e)

/-- Begin the fold of a commit of engine e (R140, R250, R251): the commit set is e, the engines whose paired commit with it
still waits, and those that share an unresolved failure with it and have a CLEAN shadow. The shadows are FOLDING until
FOLD_DONE. An engine whose partner has swapped keeps its line K (R141). -/
def beginFold (s : State) (e : Nat) : State :=
  let g := engGroup e
  let others := (List.range 24).flatMap (fun i =>
    match serving s (24 * g + i) with
    | none => []
    | some x => (unresolved s x).flatMap (fun f =>
        match partner s (24 * g + i) (s.health x f) with
        | none => []
        | some y => if x = e then [y] else if y = e then [x] else []))
  let left := pairLeft s e
  let set := e :: ((left ++ others.filter (fun y => (s.eng y).stitch == .clean)).filter (· != e)).dedup
  let r := runFold s g set
  let pair := set.filter (fun y => r.changed.contains y || left.contains y)
  let s := set.foldl (fun s y =>
      let x := s.eng y
      let x := if x.pendStitch then x else x.request .stitch s.tick
      s.setEng y { x with
        stitch := .folding, foldDirty := x.stitch == .dirty || r.changed.contains y,
        foldSet := if 2 ≤ pair.length ∧ pair.contains y = true then pair else if 2 ≤ x.foldSet.length then x.foldSet else [y],
        foldPending := false,
        marks := x.marks ++ (r.marks.filter (fun m => m.1 == y)).map Prod.snd }) r.st
  r.left.foldl (fun s y => s.setEng y { s.eng y with foldPending := true }) s

/-- A commit of a Stitch map is requested: the pending bit is set, and the fold begins unless the shadow is SYNCING or
already FOLDING (R135, R140). -/
def requestStitch (s : State) (e : Nat) : State :=
  let x := s.eng e
  let s := s.setEng e (x.request .stitch s.tick)
  if x.stitch = .syncing ∨ x.stitch = .folding then s else beginFold s e

/-- A commit of a shape table or mask tile is requested (R135). -/
def requestPlain (s : State) (e : Nat) (t : Table) : State :=
  s.setEng e ((s.eng e).request t s.tick)

/-- The check of R182 that a commit of engine e's shadow must pass: without the checks on edges in legacy shift mode
(R587). -/
def waveCheckFor (s : State) (e : Nat) : Nat :=
  let a := shadowAt e .wave
  if s.rd E.hlMode e = 1 then
    if waveLenAt s a < 16 ∨ 4096 < waveLenAt s a then 1 else if waveLenAt s a ≤ waveAmpRefAt s a then 5 else 0
  else waveCheckAt s a (s.rdN E.hlRate e)

/-- A commit of a waveform table is requested: refused when the shadow fails its check, which WAVE_CHECK shows (R182). -/
def requestWave (s : State) (e : Nat) : Nat × State :=
  let k := waveCheckFor s e
  let s := s.wr E.waveCheck k e
  if k = 0 then (okCode, requestPlain s e .wave) else (codeRange, s)

/-- A commit request for one table (R135). -/
def requestCommit (t : Table) (e : Nat) (s : State) : Nat × State :=
  match t with
  | .stitch => (okCode, requestStitch s e)
  | .shape => (okCode, requestPlain s e .shape)
  | .tile => (okCode, requestPlain s e .tile)
  | .wave => requestWave s e

/-- A write of TABLE_COMMIT: every bit's table; a refused waveform check refuses the write whole (R135, R182, R449). -/
def tableCommitAct (e v : Nat) (s : State) : Nat × State :=
  let w := if bit v 3 then requestWave s e else (okCode, s)
  if w.1 ≠ okCode then w
  else
    let s := if bit v 0 then requestStitch w.2 e else w.2
    let s := if bit v 1 then requestPlain s e .shape else s
    (okCode, if bit v 2 then requestPlain s e .tile else s)

/-- A new failure of nozzle n of engine e on channel c: the S96 commits at once when the shadows concerned are CLEAN,
otherwise FOLD_PENDING is set (R140). -/
def noteFailure (s : State) (c e n : Nat) : State :=
  let y := partner s c (s.health e n)
  let clean (z : Nat) : Bool := (s.eng z).stitch == .clean
  if clean e && y.all clean then requestStitch s e
  else (e :: y.toList).foldl (fun s z => s.setEng z { s.eng z with foldPending := true }) s

/-- The failures of a group that can be resolved now: the S96 requests their commit itself once both shadows are CLEAN
(R251). -/
def autoCommit (s : State) (e : Nat) : State :=
  let g := engGroup e
  (List.range 24).foldl (fun s i =>
      match serving s (24 * g + i) with
      | none => s
      | some x =>
        match (unresolved s x).find? (fun f =>
            let y := partner s (24 * g + i) (s.health x f)
            (x == e || y == some e) && (s.eng x).stitch == .clean && y.all (fun z => (s.eng z).stitch == .clean)) with
        | none => s
        | some _ => requestStitch s x) s

/-! ### Line boundaries and swaps -/

/-- The page and the lowest line whose build has not started on a channel: one that REVERSE withheld or that is locked comes
first (R84, R87). -/
def nextBuild (s : State) (c : Nat) : Nat × Nat :=
  let x := s.chan c
  match x.built with
  | some b => (b.page, b.line + 1)
  | none => (x.page, (x.withheld ++ x.locked.map Lock.line).headD x.next)

/-- Lines are ordered by page, then number. -/
def lineLe (a b : Nat × Nat) : Bool := decide (a.1 < b.1) || (a.1 == b.1 && decide (a.2 ≤ b.2))

/-- The fold of engine e ends; when every engine of a paired commit is ready, K is the lowest line whose build has not
started on any of them (R140, R141). -/
def foldDoneAct (e : Nat) (s : State) : State :=
  if (s.eng e).stitch != .folding then s
  else
    let s := s.setEng e { s.eng e with stitch := if (s.eng e).foldDirty then .dirty else .clean }
    let set := e :: (pairLeft s e).filter (· != e)
    if set.length < 2 || set.any (fun y => (s.eng y).stitch == .folding) then s
    else
      let k := set.foldl (fun m y =>
        let m := match (s.eng y).pairAt with
          | none => m
          | some b => if lineLe m b then b else m
        match channelOf s y with
        | none => m
        | some c => let b := nextBuild s c; if lineLe m b then b else m) (0, 0)
      set.foldl (fun s y => s.setEng y { s.eng y with pairAt := some k }) s

/-- SWING_i of R217 in uV, of the waveform table at an address. -/
def swingOf (s : State) (base i : Nat) : Nat :=
  let a := waveEdgeAt s base i
  ((List.range (waveEdgeAt s base (i + 1) - a)).map (fun j =>
    (waveSampleAt s base (a + 1 + j) - waveSampleAt s base (a + j)).natAbs)).sum * s.rdN E.vOutLsb

/-- The swings of engine e's slots at a waveform commit, shown in mV (R217). -/
def swings (s : State) (e : Nat) : State :=
  let w := (List.range 9).map (swingOf s (activeAt e .wave))
  let s := s.setEng e { s.eng e with swing := w }
  w.zipIdx.foldl (fun s x =>
      let (v, s) := roundWord s ((x.1 : Rat) / 1000)
      s.wr E.swing v e x.2) s

/-- The marks of a fold take effect at the swap of a Stitch map (R250). -/
def applyMarks (s : State) (e : Nat) : State :=
  let ms := (s.eng e).marks
  let s := s.setEng e { s.eng e with marks := [] }
  ms.foldl (fun s m =>
      let h := s.health m.1 m.2.1
      if !hFailed h then s
      else
        let h := putBits h 41 41 1
        if m.2.2 then
          let s := (s.setHealth m.1 m.2.1 (putBits h 42 42 1)).count16 E.uncoveredCount m.1
          s.report m.1 0xE ((channelOf s m.1).getD 0xFF * 2 ^ 40 + m.2.1)
        else s.setHealth m.1 m.2.1 h) s

/-- The swap of a table: the shadow becomes the active copy, and its copy back begins (R136, R138). What the shadow reads as
while it is filled is the new active copy (DESIGN CHOICE, log entry 59, unsafe). -/
def swapTable (s : State) (e : Nat) (t : Table) (k : Nat) : State :=
  let s := s.copyBytes (shadowAt e t) (activeAt e t) (tableLen t)
  let x := (s.eng e).setPend t false
  let s := (s.setEng e (x.setShadow t .syncing)).wr E.commitLine k e
  let s := s.stale
  match t with
  | .stitch =>
    let s := s.setEng e { s.eng e with pairAt := none, foldSet := [] }
    applyMarks (s.wr E.stitchCrc (crc32c (s.bytes (activeAt e .stitch) (tableLen .stitch))) e) e
  | .wave =>
    let s := swings s e
    match channelOf s e with
    | none => s
    | some c => ampSettings s c
  | _ => s

/-- A pending table swaps at this line boundary (R136, R141). -/
def swapDue (s : State) (e : Nat) (t : Table) (at_ : Nat × Nat) : Bool :=
  let x := s.eng e
  x.pend t && decide (x.requestedAt t < s.tick) && x.shadow t != .syncing && x.shadow t != .folding &&
    (t != .stitch || decide (x.foldSet.length < 2) ||
      (x.pairAt.any (fun k => lineLe k at_) && !(pairLeft s e).any (fun y => (s.eng y).stitch == .folding)))

/-- The line boundary of engine e at a line of a page. -/
def lineBoundary (s : State) (e : Nat) (at_ : Nat × Nat) : State :=
  allTables.foldl (fun s t => if swapDue s e t at_ then swapTable s e t at_.2 else s) s

/-- An engine that builds no lines: no job is under way, or it serves no enabled channel. -/
def buildsNothing (s : State) (e : Nat) : Bool :=
  !s.busyJob || match channelOf s e with
    | none => true
    | some c => !enabledCh s c

/-- An engine that builds no lines swaps at the end of a TICK (DEDUCED, log entry 24, unsafe): R183 asks for a committed
waveform table before any job, and R136 gives an idle engine no other boundary. -/
def idleSwap (s : State) (e : Nat) : State :=
  if buildsNothing s e then
    let x := s.eng e
    let s := if x.pairAt.isSome then s.setEng e { x with pairAt := some (0, 0) } else s
    lineBoundary s e (match channelOf s e with
      | none => (0, 0)
      | some c => nextBuild s c)
  else s

/-- Idle swaps of every engine with something pending. -/
def idleSwaps (s : State) : State :=
  (s.engs.filter (fun x => x.2.pendStitch || x.2.pendShape || x.2.pendTile || x.2.pendWave)).foldl
    (fun s x => idleSwap s x.1) s

/-! ### The commands -/

/-- STITCH_COMMIT (R135, R140, R250). -/
def execStitchCommit (port : Port) (e : Eng) (s : State) : Host.Outcome State Fault Refusal :=
  .next (writeAs s port (.engine e) E.tableCommit e 0 1 (requestCommit .stitch e))

/-- SHAPE_COMMIT (R135). -/
def execShapeCommit (port : Port) (e : Eng) (s : State) : Host.Outcome State Fault Refusal :=
  .next (writeAs s port (.engine e) E.tableCommit e 0 2 (requestCommit .shape e))

/-- TILE_COMMIT (R135). -/
def execTileCommit (port : Port) (e : Eng) (s : State) : Host.Outcome State Fault Refusal :=
  .next (writeAs s port (.engine e) E.tableCommit e 0 4 (requestCommit .tile e))

/-- WAVE_COMMIT (R135, R182). -/
def execWaveCommit (port : Port) (e : Eng) (s : State) : Host.Outcome State Fault Refusal :=
  .next (writeAs s port (.engine e) E.tableCommit e 0 8 (requestCommit .wave e))

/-- FOLD_DONE (R140, R141). -/
def execFoldDone (e : Eng) (s : State) : Host.Outcome State Fault Refusal := .next (foldDoneAct e s)

/-- The writes held for a shadow are made, and answered (R138). -/
def releaseHeld (s : State) (e : Nat) (t : Table) : State :=
  let lies (h : HeldWrite) : Bool := decide (shadowAt e t ≤ h.addr ∧ h.addr < shadowAt e t + tableLen t)
  let mine := (s.eng e).held.filter lies
  let s := s.setEng e { s.eng e with held := (s.eng e).held.filter (fun h => !lies h) }
  mine.foldl (fun s h =>
      let s := (shadowWrite s e t (h.addr - shadowAt e t) h.data none).2
      match h.port with
      | none => s
      | some p => answerLater s p (shadowKey h.addr) okCode) s

/-- The copy of a swap ends: the shadow is CLEAN, held writes are made, and a commit that waited begins its fold
(R138, R140). -/
def syncDoneAct (e : Nat) (t : Table) (s : State) : State :=
  if (s.eng e).shadow t != .syncing then s
  else
    let s := s.setEng e ((s.eng e).setShadow t .clean)
    let s := releaseHeld s e t
    if t != .stitch then s
    else if (s.eng e).pendStitch then beginFold s e
    else autoCommit s e

/-- SHADOW_SYNC_DONE (R138, R251). -/
def execShadowSyncDone (e : Eng) (tbl : Table) (s : State) : Host.Outcome State Fault Refusal :=
  .next (syncDoneAct e tbl s)

end Sys2Proof.Machine
end

