-- ==== Sys2Proof/Machine/Takeover.lean ====
section
/-!
DEFINITION. Fences of fire engines and their spares (R4, R52, R112, R148 to R156, R185, R253).
-/
namespace Sys2Proof.Machine

/-- The spare engine of a channel's group (R23). -/
def spareOf (c : Nat) : Nat := 96 + groupOf c

/-- A spare can take channel c over: it is present, powered, not in use, not unavailable, sound, and c is within what
R4 lets it serve. -/
def spareFree (s : State) (c : Nat) : Bool :=
  let p := spareOf c
  let x := s.eng p
  s.engPresent p && s.domOn (engDom p) && !x.unavailable && !x.fenced && !x.failedBist && !x.replaced &&
    x.copying.isNone && (channelOf s p).isNone && !(s.grade == 3 && p == 98 && (decide (c < 48) || decide (63 < c)))

/-- The spare begins to copy the tables of engine e for channel c: the crossbar connects it (R149 tick 1). The line being
built is abandoned; it and the line whose build cannot finish after the copy are lost (R150). Bursts of a fenced engine are
discarded, and their lines are fetched again (R120). -/
def startTakeover (s : State) (c e : Nat) (fenced : Bool) : State :=
  let p := spareOf c
  let s := sendBuilt s c (some (nowStep s))
  let s := s.setEng p { s.eng p with copying := some (c, e), announce := true }
  let s := ((s.wr E.channel c p).wr E.servedBy p c).wr E.channel 0xFF e
  let x := s.chan c
  let lost := if s.dev != .printing then 0 else if x.built.isSome then 2 else 1
  let x := { x with taking := lost, built := none }
  s.setChan c (if fenced then { x with asked := x.issued.map Fetch.job ++ x.asked, issued := [] } else x)

/-- A channel is left with no engine (R52). -/
def leaveUnserved (s : State) (c : Nat) : State :=
  let s := sendBuilt (s.wr E.servedBy 0xFF c) c (some (nowStep s))
  let x := s.chan c
  s.setChan c { x with unserved := true, taking := 0, built := none, locked := [], asked := [], issued := [] }

/-- Kinds of an engine source that lie at the pins (R148, R228, R255). -/
def atPins (kind : Nat) : Bool := kind == 7 || decide (9 ≤ kind ∧ kind ≤ 0xE)

/-- A shadow of a fenced engine once nothing fills or folds it any more: one that was being filled equals its active copy
(R134). -/
def settled (dirty : Bool) : ShState → ShState
  | .clean => .clean
  | .dirty => .dirty
  | .syncing => .clean
  | .folding => if dirty then .dirty else .clean

/-- Pending commits of a fenced engine are cancelled; its tables stay (R149, R151). -/
def isolate (x : EngSt) : EngSt :=
  { x with
    fenced := true, pendStitch := false, pendShape := false, pendTile := false, pendWave := false,
    stitch := settled x.foldDirty x.stitch, shape := settled false x.shape, tile := settled false x.tile,
    wave := settled false x.wave, foldSet := [], pairAt := none, marks := [], held := [], copying := none, probes := [],
    learn := none }

/-- The engines of a paired commit go on without a fenced one, whose commit is cancelled (R151; DESIGN CHOICE, log entry 59,
unsafe). -/
def leavePair (s : State) (e : Nat) : State :=
  (s.eng e).foldSet.foldl (fun s y => s.setEng y { s.eng y with foldSet := (s.eng y).foldSet.filter (· != e) }) s

/-- Of two engines of one group that are fenced in one TICK, the one with the lower source ID has the spare: a takeover that
the fence of a higher one began in this TICK ends, and its channel stays fenced (R154). -/
def yieldSpare (s : State) (c e : Nat) : State :=
  let p := spareOf c
  match (s.eng p).copying with
  | none => s
  | some (d, f) =>
    if e < f && s.actedOn (.engine f) [.fence] then
      leaveUnserved ((s.setEng p { s.eng p with copying := none, announce := false }).wr E.channel 0xFF p) d
    else s

/-- The fence of an engine (R148, R149, R152 to R154): isolated, its channel to the group's spare where R148 allows it.
Held shadow writes are answered "superseded" (R41). -/
def fenceEngine (s : State) (e kind : Nat) : State :=
  if (s.eng e).fenced then s
  else
    let x := s.eng e
    let c := match x.copying with
      | some (c, _) => some c
      | none => channelOf s e
    let wants := match c with
      | some c => decide (e < 96) && !atPins kind && enabledCh s c
      | none => false
    let s := match c with
      | some c => if wants then yieldSpare s c e else s
      | none => s
    let takes := wants && c.all (spareFree s)
    let s := x.held.foldl (fun s h => match h.port with
      | none => s
      | some p => answerLater s p (shadowKey h.addr) codeSuperseded) s
    let s := (leavePair s e).setEng e { isolate x with unavailable := decide (96 ≤ e) }
    match c with
    | none => s
    | some c => if takes then startTakeover s c e true else leaveUnserved (s.wr E.channel 0xFF e) c

/-- The engine entries that a spare takes with the tables (R149, R185, R253). -/
def takeoverRows : List Row :=
  [E.nozzles, E.lineCols, E.dropBits, E.winStart, E.nbStride, E.nbSpan, E.feedAhead, E.damagedFill, E.lateRunMax,
    E.tileW, E.tileH, E.tileYoff, E.hlRate, E.hlMode, E.stitchCrc, E.commitLine, E.waveCheck, E.tRef, E.waveKt,
    E.vRef, E.waveKv, E.healthEn, E.templateValid, E.learnRate, E.learnStatus, E.probeTaps, E.probeDiv, E.scoreGood,
    E.scoreFail, E.aTol, E.probeRateTol, E.scanNext, E.scanCount, E.lastScanTime, E.failedCount, E.uncoveredCount,
    E.probesInvalid, E.lastFailed]

/-- Engine p takes the tables, health map, templates and entries of engine e; its shadows are CLEAN, and FOLD_PENDING
is carried over; confirmations go on by the map (R149, R151, R253). -/
def copyEngine (s : State) (e p : Nat) : State :=
  let s := allTables.foldl (fun s t =>
    (s.copyBytes (activeAt e t) (activeAt p t) (tableLen t)).copyBytes (activeAt e t) (shadowAt p t) (tableLen t)) s
  let s := s.copyBytes (healthBase + e * tableStep) (healthBase + p * tableStep) tableStep
  let s := takeoverRows.foldl (fun s r => s.wr r (s.rd r e) p) s
  let s := (List.range 9).foldl (fun s i => s.wr E.swing (s.rd E.swing e i) p i) s
  let x := s.eng e
  s.setEng p { s.eng p with
    stitch := .clean, shape := .clean, tile := .clean, wave := .clean, pendStitch := false, pendShape := false,
    pendTile := false, pendWave := false, foldPending := x.foldPending, swing := x.swing, divCount := x.divCount,
    again := x.again, scanFrom := x.scanFrom, copying := none }

/-- The copy of group g's spare ends, and the channel's next build starts no earlier (R149), or it met an uncorrectable error
(R152). -/
def copyDoneAct (g : Nat) (ok : Bool) (s : State) : State :=
  let p := 96 + g
  match (s.eng p).copying with
  | none => s
  | some (c, e) =>
    if ok then
      let s := copyEngine s e p
      ampLimits (s.setChan c { s.chan c with freeAt := nowStep s }) c
    else
      let s := s.setEng p { s.eng p with copying := none, announce := false }
      let s := leaveUnserved (s.wr E.channel 0xFF p) c
      s.report p 8 (c * 2 ^ 40 + 2 ^ 39)

/-- TAKEOVER_COPY_DONE (R149, R152). -/
def execTakeoverCopyDone (g : Fin 4) (ok : Bool) (s : State) : Host.Outcome State Fault Refusal :=
  .next (copyDoneAct g ok s)

/-- A write of 1 to TAKEOVER moves the channel to its spare without a fence, outside ARMED and PRINTING (R155). With no
free spare it is refused with "state conflict" (DEDUCED, log entry 25, safe). -/
def takeoverAct (c : Nat) (s : State) : Nat × State :=
  match serving s c with
  | none => (codeState, s)
  | some e =>
    if s.busyJob || 96 ≤ e || !spareFree s c then (codeState, s)
    else (okCode, startTakeover s c e false)

/-- TAKEOVER_COMMAND (R155, R156). -/
def execTakeoverCommand (port : Port) (e : Ch) (s : State) : Host.Outcome State Fault Refusal :=
  .next (writeAs s port (.engine e) E.takeover e 0 1 (takeoverAct e))

end Sys2Proof.Machine
end

