-- ==== Sys2Proof/Machine/Lines.lean ====
section
/-!
DEFINITION. How lines and pages of a job pass on a channel, and how a job ends (R86, R226, R374, R457, R459, R461 to
R465, R580, R581).
-/
namespace Sys2Proof.Machine

/-! ### The end of a job -/

/-- A probe of a learn scan that is over is discarded. -/
def ProbeKind.spent : ProbeKind → ProbeKind
  | .learn => .discarded
  | k => k

/-- Responses of an engine's earlier learn scan that are still to come belong to no scan (R243, R244). -/
def dropLearn (s : State) (e : Nat) : State :=
  let x := s.eng e
  let s := s.setEng e { x with learn := none, probes := x.probes.map (fun p => { p with kind := p.kind.spent }) }
  match channelOf s e with
  | none => s
  | some c => s.setChan c { s.chan c with built := (s.chan c).built.map (fun b => { b with kind := b.kind.spent }) }

/-- A learn scan is discarded with code 6 (R244). -/
def discardLearn (s : State) (e : Nat) : State :=
  if (s.eng e).learn.isNone then s else (dropLearn s e).wr E.learnStatus 6 e

/-- Every learn scan is discarded. -/
def discardLearns (s : State) : State := (s.engs.map Prod.fst).foldl discardLearn s

/-- A channel abandons its lines and drops what has not been issued: a line of which some requests have not can no longer
land (R374, R459). -/
def abandonLines (x : Chan) : Chan :=
  { x with
    inPage := false, locked := [], withheld := [], built := none, asked := [], inOver := false, taking := 0,
    issued := x.issued.filter (fun f => f.todo.isEmpty) }

/-- Channels that meet a condition stop sending and abandon their lines (R164, R374, R459). -/
def abandonAll (s : State) (p : Nat → Bool) : State :=
  ((s.chans.map Prod.fst).filter p).foldl (fun s c =>
    let s := sendBuilt s c (some (nowStep s))
    s.setChan c (abandonLines (s.chan c))) s

/-- The speed request outside ARMED and PRINTING (R223, R226). -/
def restSpeed (s : State) : State :=
  (((((s.wr E.speedReq 0).wr E.output 0 1).wr E.limiter 5).wr E.linesAhead 0).wr E.rBuf 0)

/-- The job ends and the device goes on to another state: JOB_END is generated (R457, R470). -/
def endJob (s : State) (d : DevState) : State :=
  let s := abandonAll s (fun _ => true)
  let s := { s with job := { s.job with stopping := false } }
  let s := restSpeed (discardLearns s)
  let s := setDev s d
  maskedEvent s 7 0x2010 1 (s.rdN E.jobId)

/-! ### Pages -/

/-- JOB_PAGE, PAGES_DONE and PAGE_START follow the pages that the enabled channels have passed (0x2010.07 to .09). -/
def updateJob (s : State) : State :=
  match (enabledChs s).map (fun c => ((s.chan c).page, c)) with
  | [] => s
  | a :: r =>
    let m := r.foldl (fun m x => if x.1 < m.1 then x else m) a
    let starts := startsOf s m.2
    let p := min m.1 (starts.length - 1)
    ((s.wr E.jobPage p).wr E.pagesDone m.1).wr E.pageStart ((starts[p]?).getD 0)

/-- A page start is taken: its position is known, PAGE is generated, and the first one starts the printing (R457,
R462, R470). -/
def takeStart (s : State) (pos : Nat) : State :=
  let p := s.job.starts.length
  let s := { s with job := { s.job with starts := s.job.starts ++ [pos] } }
  let s := maskedEvent s 6 0x2010 7 p
  updateJob (if s.dev = .armed then setDev s .printing else s)

/-- The start of page p under the START command: that of page 0 plus p times PAGE_PITCH, or PAGE_LINES lines when
PAGE_PITCH is 0 (R462). -/
def pitchedStart (s : State) (p : Nat) : State × Nat :=
  let base := (s.job.starts[(0 : Nat)]?).getD 0
  if s.rd E.pagePitch = 0 then
    let (d, s) := roundWord s (((p * s.rdN E.pageLines : Nat) : Rat) * ((s.rd E.linePitch : Rat) / 2 ^ 16))
    (s, wrap48 (base + d))
  else (s, wrap48 (base + p * s.rd E.pagePitch))

/-- The job has a page p. -/
def hasPage (s : State) (p : Nat) : Bool := s.finup || s.rdN E.jobPages = 0 || decide (p < s.rdN E.jobPages)

/-- A channel begins the page that it waits for once its start is known (R463, R464). -/
def beginPage (s : State) (c : Nat) : State :=
  let x := s.chan c
  if enabledCh s c && !x.inPage && decide (x.page < (startsOf s c).length) && hasPage s x.page then
    (s.setChan c { x with inPage := true, next := 0, fired := none }).wr E.lastLine 0 c
  else s

/-- Every enabled channel that can begins its page. -/
def beginPages (s : State) : State := (enabledChs s).foldl beginPage s

/-- The job is complete: every enabled channel that an engine serves has passed the last line of the last page (R465). -/
def jobComplete (s : State) : Bool :=
  s.dev == .printing && !s.finup && !s.job.stopping && s.rdN E.jobPages != 0 && s.rdN E.pageLines != 0 &&
    (enabledChs s).all (fun c => decide (s.rdN E.jobPages ≤ (s.chan c).pagesPassed))

/-- The persona's page ends when every running channel has passed its last line: PAGE_DONE and PAGE_CNT (R581). -/
def personaPageEnd (s : State) (p : Nat) : State :=
  let x := s.persona p
  if x.inPage && (enabledChs s).all (fun c => personaOf c != p || decide (x.starts.length ≤ (s.chan c).pagesPassed)) then
    s.setPersona p { x with inPage := false, pageCnt := (x.pageCnt + 1) % 65536, latched := x.latched ||| 1 }
  else s

/-- A channel has passed the last line of its page (R463, R465). One in overspeed stays in it until the first solve on its
next page (DESIGN CHOICE, log entry 58, unsafe). -/
def endPage (s : State) (c : Nat) : State :=
  let x := s.chan c
  let s := s.setChan c { x with
    page := x.page + 1, pagesPassed := x.pagesPassed + 1, inPage := false, next := 0, fired := none, withheld := [] }
  if s.finup then updateJob (personaPageEnd s (personaOf c))
  else if jobComplete s then endJob (updateJob s) .ready
  else
    let s :=
      if s.rdN E.jobTrig = 0xFF ∧ s.job.starts.length = x.page + 1 ∧ hasPage s (x.page + 1) then
        let (s, pos) := pitchedStart s (x.page + 1)
        takeStart s pos
      else updateJob s
    beginPage s c

/-- A channel has passed line k of its page, whatever became of it (R463). -/
def passLine (s : State) (c k : Nat) : State :=
  if pageLinesOf s c != 0 && decide (pageLinesOf s c ≤ k + 1) then endPage s c else s

/-- Lines passed over are not fired, and are counted (R100, R584). -/
def skipLines (s : State) (c n : Nat) : State :=
  if n = 0 then s
  else
    let s := (s.setChan c { s.chan c with lateRun := 0 }).count E.skipped c n
    let s := s.count48 E.skippedTotal 0 n
    if s.finup then
      let p := personaOf c
      let x := s.persona p
      s.setPersona p { x with skips := min 65535 (x.skips + n), latched := x.latched ||| 8 }
    else s

/-- No line is locked any more and a stop has been sampled: the device enters HALT (R458). -/
def drained (s : State) : Bool := s.chans.all (fun x => x.2.locked.isEmpty)

end Sys2Proof.Machine
end

