-- ==== Sys2Proof/Machine/Pipeline.lean ====
section
/-!
DEFINITION. The line pipeline of an engine: Stitch, pass mask, shape, the choice of the probe nozzle, and the start of
a build (R114 to R118, R121 to R132, R136, R149, R171, R232 to R234, R243, R584).
-/
namespace Sys2Proof.Machine

/-! ### Codes and masks -/

/-- The drop code of column j of fetched line data; columns at or beyond LINE_COLS read 0 (R122, R367). -/
def colCode (s : State) (e : Nat) (data : List Byte) (j : Nat) : Nat :=
  let b := s.rdN E.dropBits e
  if s.rdN E.lineCols e ≤ j then 0
  else
    let p := j * b
    let x := ((data[p / 8]?).getD 0).toNat
    bits x (7 - p % 8) (8 - p % 8 - b)

/-- The code that column j has in the line `delay` lines before line k of the page of a channel; line numbers below 0
read 0 (R122), and so does a line that the line buffer does not hold (DESIGN CHOICE, log entry 27, unsafe). -/
def lineCode (s : State) (c e k delay j : Nat) : Nat :=
  let x := s.chan c
  if k < delay then 0
  else
    match slotOf x (x.page * pageLinesOf s c + (k - delay)) with
    | none => 0
    | some l => colCode s e l.data j

/-- The tile value of column j at line l (R127, R129). -/
def tileAt (s : State) (e : Nat) (j : Nat) (l : Int) : Nat :=
  let y := ((l + s.rd E.tileYoff e) % s.rd E.tileH e).toNat
  let x := (s.rdN E.winStart e + j) % s.rdN E.tileW e
  let b := (s.byte (activeAt e .tile + 32 * y + x / 4)).toNat
  bits b (7 - 2 * (x % 4)) (6 - 2 * (x % 4))

/-- The active Stitch map entry of a nozzle (R121). -/
def stitchActive (s : State) (e n : Nat) : Nat := s.word (activeAt e .stitch + 6 * n) 6

/-- The code of nozzle n in line k (R124). -/
def nozzleCode (s : State) (c e k n : Nat) : Nat :=
  let m := stitchActive s e n
  let d := bits m 41 39
  let own := lineCode s c e k d (stSrc m)
  if stMode m = 0 then 0
  else if stMode m = 3 then own
  else
    let code := if tileAt s e (stSrc m) ((k : Int) - d) = bits m 45 44 then own else 0
    let ad := bits m 38 36
    let ac := bits m 29 16
    if stMode m = 2 ∧ tileAt s e ac ((k : Int) - ad) = bits m 43 42 then code ||| lineCode s c e k ad ac else code

/-- Firing neighbours of a nozzle (R130). -/
def neighbours (codes : List Nat) (stride span n : Nat) : Nat :=
  ((List.range span).map (fun i =>
    let d := (i + 1) * stride
    (if (codes[n + d]?).getD 0 = 0 then 0 else 1) + (if n < d ∨ (codes[n - d]?).getD 0 = 0 then 0 else 1))).sum

/-- The masks of a line in nozzle order; in legacy shift mode, its codes (R131, R171). -/
def lineMasks (s : State) (c e k : Nat) : List Nat :=
  let codes := (List.range (s.rdN E.nozzles e)).map (nozzleCode s c e k)
  if s.rd E.hlMode e = 1 then codes
  else codes.zipIdx.map (fun x =>
    let cls := min (neighbours codes (s.rdN E.nbStride e) (s.rdN E.nbSpan e) x.2) 3
    (s.byte (activeAt e .shape + 4 * x.1 + cls)).toNat)

/-! ### The probe nozzle -/

/-- LEARN_RATE's band holds the present line rate (R239). -/
def rateInBand (s : State) (c e : Nat) : Bool :=
  let l := s.rdN E.learnRate e
  let t := s.rdN E.probeRateTol e
  let r := (s.chan c).rateInt * 100
  decide (l * (100 - t) ≤ r ∧ r ≤ l * (100 + t))

/-- PROBE_TAPS does not fit the probe slot (R233). -/
def probeShort (s : State) (e : Nat) : Bool :=
  decide ((waveEdgeAt s (activeAt e .wave) 9 - waveEdgeAt s (activeAt e .wave) 8) / 2 < s.rdN E.probeTaps e)

/-- Probing is suppressed on an engine's channel (R233, R254). -/
def probeSuppressed (s : State) (c e : Nat) : Bool :=
  let x := s.chan c
  s.rd E.paused c == 1 || s.rd E.hlMode e == 1 || !x.rxUp || !x.calDone || probeShort s e || (s.eng e).corrStop ||
    ((s.eng e).learn.isNone && !rateInBand s c e)

/-- Nozzles of probes of a kind that are in flight on a channel's engine. -/
def inFlight (s : State) (c e : Nat) (k : ProbeKind) : List Nat :=
  (((s.chan c).built.filter (fun b => b.kind == k)).bind Built.probe).toList ++
    ((s.eng e).probes.filter (fun p => p.kind == k)).map Probe.nozzle

/-- The lowest nozzle at or above a start that a scan may probe: not exempt, and no scan probe of it in flight (R234). -/
def scanCandidate (s : State) (c e from_ : Nat) : Option Nat :=
  let fly := inFlight s c e .scan
  (List.range (s.rdN E.nozzles e - from_)).map (· + from_) |>.find? (fun n =>
    hState (s.health e n) != 6 && !fly.contains n)

/-- The nozzle of a scan probe: one to repeat, otherwise the next from the scan pointer on, around the end once (R234,
R238; log entry 12). -/
def scanNozzle (s : State) (c e : Nat) : Option Nat :=
  let fly := inFlight s c e .scan
  match (s.eng e).again.find? (fun n => !fly.contains n && decide (n < s.rdN E.nozzles e)) with
  | some n => some n
  | none =>
    match scanCandidate s c e (s.rdN E.scanNext e) with
    | some n => some n
    | none => scanCandidate s c e 0

/-- The nozzle of a learn scan: each below NOZZLES once, except failed, forced failed and exempt ones (R243). -/
def learnNozzle (s : State) (e : Nat) (l : Learn) : Option Nat :=
  ((List.range (s.rdN E.nozzles e - l.next)).map (· + l.next)).find? (fun n =>
    let h := s.health e n
    !hFailed h && hState h != 6)

/-- The nozzle of a confirmation probe: the lowest that awaits one and has none in flight (R234, R242). -/
def confirmNozzle (s : State) (c e : Nat) : Option Nat :=
  let fly := inFlight s c e .confirm
  (awaiting s e).find? (fun n => !fly.contains n && decide (n < s.rdN E.nozzles e))

/-- The probe nozzle of the line that an engine begins to build, and why: one line in PROBE_DIV has one, unless probing is
suppressed (R232 to R234, R243). -/
def chooseProbe (s : State) (c e : Nat) : Option (Nat × ProbeKind) × State :=
  let x := s.eng e
  if s.rd E.healthEn e = 0 && x.learn.isNone then (none, s)
  else if x.divCount + 1 < s.rdN E.probeDiv e then (none, s.setEng e { x with divCount := x.divCount + 1 })
  else
    let s := s.setEng e { x with divCount := 0 }
    if probeSuppressed s c e then (none, s)
    else match x.learn, confirmNozzle s c e with
      | some l, _ =>
        match learnNozzle s e l with
        | none => (none, s)
        | some n => (some (n, .learn), s.setEng e { s.eng e with learn := some { l with next := n + 1 } })
      | none, some n => (some (n, .confirm), s)
      | none, none => ((scanNozzle s c e).map (fun n => (n, ProbeKind.scan)), s)

/-! ### The build -/

/-- The line whose build is due on a channel (R100, R115, R584): a locked line first; on a fixed delay the
highest-numbered line whose edge has arrived, or the next; otherwise the line that the solver finds, or the next. -/
def targetLine (s : State) (c : Nat) : Nat :=
  let x := s.chan c
  match x.locked with
  | l :: _ => l.line
  | [] =>
    if fixedDelay s c then
      if x.inPage then max x.next ((s.persona (personaOf c)).edges.length - 1) else x.next
    else match solveNext s c with
      | some r => r.line
      | none => x.next

/-- The spare builds its first line on the channel and says so (R149). -/
def announceTakeover (s : State) (c e : Nat) : State :=
  let x := s.eng e
  if x.announce then (s.setEng e { x with announce := false }).report e 8 (c * 2 ^ 40) else s

/-- On a fixed delay, lines passed over at a build start are skipped, and the channel is in overspeed while it skips
(R101, R584). -/
def fixedSkips (s : State) (c k : Nat) : State :=
  if !fixedDelay s c then s
  else
    let x := s.chan c
    let n := k - x.next
    let s := s.setChan c { x with next := k, inOver := decide (0 < n) }
    let s := if 0 < n ∧ !x.inOver then s.report 0xB8 4 (s.rdN E.posEst) else s
    skipLines s c n

/-- The instant from which the build runs: the previous line's, or the arrival of this one (R115). -/
def buildFrom (s : State) (c : Nat) (l : LbSlot) : Nat :=
  let f := (s.chan c).freeAt
  if sdiff51 l.readyAt f < 0 then f else l.readyAt

/-- The serialisation or shift of a built line begins: a frame takes the next LINE_SEQ and its block periods (R160 to R163).
A legacy line has no frame (R174). -/
def serialise (s : State) (c e : Nat) (b : Built) (fire : Nat) : State :=
  if s.rd E.hlMode e = 1 then s.setChan c { s.chan c with built := some b }
  else
    let s := deskewStep s c
    let x := s.chan c
    let h : Header :=
      ⟨false, decide (96 ≤ e), x.seq, b.line, c, e, b.fill, b.rep, s.rdN E.nozzles e, b.probe, fire⟩
    let b := { b with frame := layOut s c e b.start (lineLanes h b.masks) }
    s.setChan c { x with seq := (x.seq + 1) % 65536, built := some b }

/-- FIRE_TIME's value: the locked instant, or the solved one as it stands, in CLK_FIRE periods; open where the solver
has none yet (R163; log entry 29). -/
def fireTimeOf (s : State) (c k : Nat) : Nat × State :=
  let x := s.chan c
  match x.locked.find? (fun l => l.line == k) with
  | some l => (l.inst / 8 % 2 ^ 32, s)
  | none =>
    match solveNext s c with
    | some r => (r.inst / 8 % 2 ^ 32, s)
    | none => let (v, s) := s.draw; (v % 2 ^ 32, s)

/-- Build line k of the channel's page from its slot: masks, probe, header, serialisation (R114, R131, R163, R170). -/
def buildLine (s : State) (c e k : Nat) (l : LbSlot) : State :=
  let x := s.chan c
  let masks := lineMasks s c e k
  let (probe, s) := chooseProbe s c e
  let (fire, s) := fireTimeOf s c k
  let from_ := buildFrom s c l
  let d := if s.rd E.hlMode e = 1 then legacySteps (s.rdN E.nozzles e) (s.rdN E.dropBits e)
    else serSteps (s.rdN E.nozzles e) (s.rdN E.hlRate e)
  let b : Built :=
    { line := k, page := x.page, engine := e, fill := l.damaged, rep := l.rep, probe := probe.map Prod.fst,
      kind := (probe.map Prod.snd).getD .scan, masks := masks, start := from_, serEnd := wrap51 (from_ + d), frame := [] }
  serialise s c e b fire

/-- BUILD_START: the line boundary of the engine that serves channel c (R115). Pending tables swap (R136), slots are
released and lines asked for (R118), and the line is built. -/
def buildStartAct (c : Nat) (s : State) : State :=
  match workingEngine s c with
  | none => s
  | some e =>
    let x := s.chan c
    if !s.busyJob || !enabledCh s c || s.rd E.paused c == 1 || x.built.isSome || s.noLocks && x.locked.isEmpty then s
    else
      let k := targetLine s c
      let n := x.page * pageLinesOf s c + k
      match slotOf x n with
      | none => s
      | some l =>
        let s := announceTakeover s c e
        let s := fixedSkips s c k
        let s := lineBoundary s e (x.page, k)
        let s := buildLine s c e k l
        askUpTo (if 8 ≤ n then releaseTo s c (n - 8) else s) c (n + s.rdN E.feedAhead e)

/-- BUILD_START (R115, R118, R136, R149, R173, R584). -/
def execBuildStart (c : Ch) (s : State) : Host.Outcome State Fault Refusal := .next (buildStartAct c s)

end Sys2Proof.Machine
end

