-- ==== Sys2Proof/Machine/Fire.lean ====
section
/-!
DEFINITION. The lock and the fire of a line, the fire cycle it plays, and late lines (R84 to R88, R100, R145, R146,
R150, R160, R186, R187, R211, R217, R218, R238, R582, R588, R618).
-/
namespace Sys2Proof.Machine

/-! ### Locks -/

/-- The least whole number of vernier steps that is not less than LOCK_LEAD (R84). -/
def lockLeadSteps (s : State) : Nat := divCeil (s.rdN E.lockLead * 32) 5

/-- The instant of the built line of a channel on a fixed delay: its edge plus the delay, not before the previous fire
plus the minimum interval (R582, R584). -/
def fixedInstant (s : State) (c : Nat) : Option (Nat × Nat) :=
  let x := s.chan c
  match x.built with
  | none => none
  | some b =>
    match (s.persona (personaOf c)).edges[b.line]? with
    | none => none
    | some ts =>
      let t := wrap51 (ts * 8 + delaySteps s c)
      let t := match prevFire x with
        | none => t
        | some p => let m := wrap51 (p + minInterval s c); if sdiff51 t m < 0 then m else t
      if x.inPage && b.page == x.page && x.next ≤ b.line then some (b.line, t) else none

/-- A line withheld by REVERSE is solved again (R87); one that is not above the last line fired never fires (R86). -/
def resolvable (s : State) (c : Nat) : Option (Nat × Nat) :=
  let x := s.chan c
  let above (k : Nat) : Bool := match x.fired with
    | none => true
    | some f => decide (f < k)
  if stopped s then none else (x.withheld.find? above).map (fun k => (k, solveLine s c k))

/-- The line of a channel that may be locked now: number, instant, past at its solve. -/
def lockable (s : State) (c : Nat) : Option Lock :=
  let past (t : Nat) : Bool := decide (sdiff51 t (nowStep s) < 0)
  if fixedDelay s c then (fixedInstant s c).map (fun r => ⟨r.1, r.2, false⟩)
  else match resolvable s c with
    | some r => some ⟨r.1, r.2, past r.2⟩
    | none => (solveNext s c).map (fun r => ⟨r.line, r.inst, past r.inst⟩)

/-- LINE_LOCK: the channel's next line lies less than LOCK_LEAD ahead, and its instant is frozen (R84). Not after a
stop (R458), nor while firing is suspended (R87). -/
def lineLockAct (c : Nat) (s : State) : State :=
  if s.dev != .printing || s.noLocks || s.obs.reverse || !enabledCh s c then s
  else
    match lockable s c with
    | none => s
    | some l =>
      if lockLeadSteps s ≤ sdiff51 l.inst (nowStep s) then s
      else
        let x := s.chan c
        if l.line < x.next then
          let below := x.locked.filter (fun k => decide (k.line < l.line))
          let above := x.locked.filter (fun k => decide (l.line < k.line))
          s.setChan c { x with locked := below ++ l :: above, withheld := x.withheld.filter (fun k => decide (l.line < k)) }
        else skipLines (s.setChan c { x with locked := x.locked ++ [l], next := l.line + 1 }) c (l.line - x.next)

/-- LINE_LOCK (R84, R85, R100, R582). -/
def execLineLock (c : Ch) (s : State) : Host.Outcome State Fault Refusal := .next (lineLockAct c s)

/-! ### The fire cycle -/

/-- The output samples of a cycle from a table position on, to the end of the cycle (R186, R618). -/
def playFrom (s : State) (base len gain step : Nat) : Nat → Nat → List Int
  | 0, _ => []
  | fuel + 1, pos =>
    let out (v : Int) (d : Int) : Int := clampInt (-32768) 32767 (divNearest (v * gain) (2 ^ 16 * d))
    if (len - 1) * 2 ^ 24 < pos then [out (waveSampleAt s base (len - 1)) 1]
    else
      let i : Nat := pos / 2 ^ 24
      let f : Nat := pos % 2 ^ 24
      let v := waveSampleAt s base i * 2 ^ 24 + f * (waveSampleAt s base (i + 1) - waveSampleAt s base i)
      out v (2 ^ 24) :: playFrom s base len gain step fuel (pos + step)

/-- Steps from a fire instant to the first sample edge (R186). -/
def toSampleEdge (fire : Nat) : Nat := (40 - fire % 40) % 40

/-- Table positions advance by 1/S, in 2^-24 (R618). -/
def playStep (stretch : Nat) : Nat := (divNearest (2 ^ 36) stretch).toNat

/-- The whole output of a fire cycle (R186). The position of the first output is rounded to the nearest 2^-24 (DESIGN CHOICE,
log entry 60, unsafe). -/
def cycleSamples (s : State) (e fire stretch gain : Nat) : List Int :=
  let base := activeAt e .wave
  let step := playStep stretch
  playFrom s base (waveLenAt s base) gain step 8192 (divNearest (toSampleEdge fire * step) 40).toNat

/-- The fire cycle of channel c that begins at an instant: S and GAIN as they stand then (R186, R187). -/
def newCycle (s : State) (c e line fire : Nat) : Cycle :=
  let st := s.rdN E.stretch c
  let g := s.rdN E.gain c
  let base := activeAt e .wave
  ⟨line, fire, st, g, wrap51 (fire + toSampleEdge fire), cycleSamples s e fire st g, restLevel s base g,
    waveAmpRefAt s base, waveEdgeAt s base 8⟩

/-- What stands for the cycle of a line that does not fire. -/
def noCycle (l : Lock) : Cycle := ⟨l.line, l.inst, 4096, 0, l.inst, [], 0, 0, 0⟩

/-- Nozzles whose mask enables a slot (R218). -/
def slotCount (masks : List Nat) (i : Nat) : Nat := masks.countP (fun m => bit m i)

/-- E_line in nJ (R218); in legacy shift mode the nozzles with a code (R588). -/
def lineEnergy (s : State) (c e : Nat) (b : Built) : Rat :=
  let en (i : Nat) : Rat := ((s.chan c).energy[i]?).getD 0
  if s.rd E.hlMode e = 1 then b.masks.countP (· != 0) * en 0
  else ((List.range 8).map (fun i => (slotCount b.masks i : Rat) * en i)).sum + (if b.probe.isSome then en 8 else 0)

/-- The Girth counts a fired line (R218, 0x2330, 0x2300.06). -/
def countEnergy (s : State) (c : Nat) (en : Rat) : State :=
  let (nj, s) := roundWord s en
  let s := s.wr E.eLine (sat32 nj) c
  let total := s.gov.rest + en
  let uj := (total / 1000).floor.toNat
  let s := s.count48 E.girthEnergy 0 uj
  { s with gov := { s.gov with acc := s.gov.acc + en, rest := total - 1000 * uj } }

/-- The probe of a line goes on to the correlator (R232, R238). -/
def handProbe (s : State) (b : Built) (y : Cycle) (unfired : Bool) : State :=
  match b.probe with
  | none => s
  | some n =>
    let x := s.eng b.engine
    s.setEng b.engine { x with probes := x.probes ++
      [⟨n, b.line, (b.masks[n]?).getD 0 != 0, y, b.kind, unfired⟩] }

/-- Slot edge j of a firing line at the pins (R190, R191). -/
def slotEdge (s : State) (c e : Nat) (y : Cycle) (j : Nat) : Nat :=
  edgeAtPins s c y.fire (waveEdgeAt s (activeAt e .wave) j) y.stretch

/-- The ten strobes of a firing line, and the block periods that they take (R160). -/
def sendStrobes (s : State) (c e : Nat) (y : Cycle) : State :=
  let at_ := (List.range 10).map (fun j => strobePeriod s c e (slotEdge s c e y j))
  let s := (List.range 10).foldl (fun s j =>
    s.emit (strobeFor s c e (if j = 9 then 15 else j) (slotEdge s c e y j))) s
  s.setChan c { s.chan c with strobeAt := at_ }

/-- A line fires at its instant (R26, R86, R160, R186, R187, R218). -/
def fireLine (s : State) (c : Nat) (l : Lock) (b : Built) : State :=
  let e := b.engine
  let y := newCycle s c e l.line l.inst
  let s := sendBuilt s c none
  let s := if s.rd E.hlMode e = 1 then s else sendStrobes s c e y
  let s := s.emit (.waveform c y.first y.out)
  let s := countEnergy s c (lineEnergy s c e b)
  let s := (s.count48 E.linesFired e).wr E.lastLine l.line c
  let s := handProbe s b y false
  let x := s.chan c
  s.setChan c { x with
    built := none, fired := some l.line, lastFire := some l.inst, freeAt := l.inst, lateRun := 0, taking := 0,
    cycle := some y, prevCycle := x.cycle, firedInt := x.firedInt + 1 }

/-! ### Lines that do not fire -/

/-- A line does not fire: the engine stops sending it, what was built of it is dropped, and its probe is invalid (R145, R211,
R238). -/
def dropBuilt (s : State) (c : Nat) (l : Lock) : State :=
  let s := sendBuilt s c (some l.inst)
  let x := s.chan c
  let s := match x.built with
    | none => s
    | some b => handProbe s b (noCycle l) true
  s.setChan c { s.chan c with built := none, freeAt := l.inst }

/-- A line that cannot fire is one that the takeover under way loses: the line abandoned at its start, or one whose build could
not start or finish after the copy (R150). -/
def lostInTakeover (s : State) (c e : Nat) : Bool :=
  let x := s.chan c
  x.taking != 0 && (x.taking == 2 || (s.eng e).copying.isSome || x.built.isSome)

/-- A late line is counted and reported; LATE_RUN_MAX of them in a row are too (R145, R146). In a takeover it is lost
instead (R150). -/
def lateLine (s : State) (c e : Nat) (l : Lock) : State :=
  let lost := lostInTakeover s c e
  let s := dropBuilt s c l
  let x := s.chan c
  if lost then (s.setChan c { x with lateRun := 0, taking := x.taking - 1 }).count E.takeoverLost c
  else
    let s := (s.setChan c { x with lateRun := x.lateRun + 1, taking := 0 }).count E.lateLines e
    let s := s.report e 5 l.line
    let s := if s.finup then
        let p := personaOf c
        s.setPersona p { s.persona p with latched := (s.persona p).latched ||| 4 } else s
    if x.lateRun + 1 = s.rdN E.lateRunMax e then s.report e 6 0 else s

/-- The built line can fire at a locked instant: it is that line of this page, and its masks are wholly with the head
(R26, R85, R145). -/
def readyBuilt (s : State) (c : Nat) (l : Lock) : Option Built :=
  let x := s.chan c
  match x.built with
  | none => none
  | some b => if !l.past && b.line == l.line && b.page == x.page && decide (0 ≤ sdiff51 l.inst b.serEnd) then some b
    else none

/-- Firing is suspended: a locked line whose instant passes is neither fired nor counted, and is solved again; lines locked
after it keep their instants (R84, R87). -/
def suspendLine (s : State) (c : Nat) (l : Lock) (rest : List Lock) : State :=
  let x := s.chan c
  let held := x.withheld ++ [l.line]
  s.setChan c (if rest.isEmpty then { x with locked := [], withheld := [], next := held.headD l.line }
    else { x with locked := rest, withheld := held })

/-- LINE_FIRE: the instant of the channel's first locked line. The line fires, is late, is passed while paused, is lost
in a takeover, or is withheld by REVERSE. -/
def lineFireAct (c : Nat) (s : State) : State :=
  let x := s.chan c
  match x.locked with
  | [] => s
  | l :: rest =>
    if s.obs.reverse then suspendLine s c l rest
    else
      let s := s.setChan c { x with locked := rest }
      match serving s c with
      | none => passLine s c l.line
      | some e =>
        if s.rd E.paused c = 1 then
          let n := x.page * pageLinesOf s c + l.line
          let s := dropBuilt s c l
          let s := (s.setChan c { s.chan c with lateRun := 0 }).count E.otLines c
          let s := if 8 ≤ n then releaseTo s c (n - 8) else s
          passLine (askUpTo s c (n + s.rdN E.feedAhead e)) c l.line
        else match readyBuilt s c l with
          | some b => passLine (fireLine s c l b) c l.line
          | none => passLine (lateLine s c e l) c l.line

/-- LINE_FIRE (R26, R84 to R88, R145, R146, R150, R160, R186, R211, R465). -/
def execLineFire (c : Ch) (s : State) : Host.Outcome State Fault Refusal := .next (lineFireAct c s)

/-! ### Page starts -/

/-- The next page start comes from the queue of trigger JOB_TRIG, when the channel waits for it (R462). -/
def takeTrigger (s : State) : State :=
  let n := s.rdN E.jobTrig
  let x := s.trig n
  match x.queue with
  | [] => s
  | p :: r =>
    let s := (s.setTrig n { x with queue := r }).wr E.trigQueued r.length n
    takeStart s p

/-- PAGE_START: a page start is taken for the page that channel c waits for, and the channels that wait for it begin it
(R462 to R464, R82). -/
def pageStartAct (c : Nat) (s : State) : State :=
  let x := s.chan c
  if !s.busyJob || s.finup || s.startSuperseded .job || s.noLocks || x.inPage || !enabledCh s c then s
  else
    let wanted := s.job.starts.length == x.page && hasPage s x.page
    let s := if wanted && decide (s.rdN E.jobTrig < 8) then takeTrigger s else s
    beginPages s

/-- PAGE_START (R462 to R464). -/
def execPageStart (c : Ch) (s : State) : Host.Outcome State Fault Refusal := .next (pageStartAct c s)

end Sys2Proof.Machine
end

