-- ==== Sys2Proof/Machine/Sections.lean ====
section
/-!
DEFINITION. The parts of the Lathe that every loop shares: sections and chains, saturation messages, handover offset,
log records (R258 to R262, R285, R289, R290).
-/
namespace Sys2Proof.Machine

/-- Largest and smallest data word (R258). -/
def wordMax : Int := 2 ^ 47 - 1
def wordMin : Int := -2 ^ 47

/-- The Lathe sends a message that concerns a loop and a slot (R291). -/
def latheReport (s : State) (kind l slot : Nat) : State := s.report 0xB0 kind (l * 2 ^ 40 + slot)

/-- The exact sum of R260. -/
def sectionAcc (c : Section) (x y1 y2 : Int) : Int :=
  2 ^ c.shift * (c.b0 * x + c.b1 * c.x1 + c.b2 * c.x2) - c.a1 * y1 - c.a2 * y2

/-- The output of a section before saturation: one rounding (R260). -/
def sectionOut (c : Section) (x y1 y2 : Int) : Int := (sectionAcc c x y1 y2 + 2 ^ 21).fdiv (2 ^ 22)

/-- The section engine has n more sections ahead of it (R277). -/
def latheWork (s : State) (n : Nat) : State := { s with lathe := { s.lathe with busy := s.lathe.busy + n } }

/-- A run of n sections from slot k, with the loop's Y1 and Y2 behind the last one (R262, R265). Answers the state, the
chain output and the slots that saturated. -/
def runChain (lim y1 y2 : Int) : Nat → Nat → Int → State → State × Int × List Nat
  | 0, _, x, s => (s, x, [])
  | n + 1, k, x, s =>
    let c := s.sec k
    let h1 := if n = 0 then y1 else (s.sec (k + 1)).x1
    let h2 := if n = 0 then y2 else (s.sec (k + 1)).x2
    let raw := sectionOut c x h1 h2
    let y := clampInt wordMin wordMax raw
    let s := s.setSec k { c with x2 := c.x1, x1 := clampInt (-lim) lim x }
    let r := runChain lim y1 y2 n (k + 1) y s
    (r.1, r.2.1, if y = raw then r.2.2 else k :: r.2.2)

/-- SAT_COUNT and SAT for the slots that saturated in a sample; one message per 1 ms (R260). -/
def noteSaturation (s : State) (l : Nat) (slots : List Nat) : State :=
  let x := s.loop l
  let s := s.setLoop l { x with saturated := !slots.isEmpty }
  match slots with
  | [] => s
  | k :: _ =>
    let s := s.count E.satCount l slots.length
    let due := match x.satAt with
      | none => true
      | some t => decide (t + 25000 ≤ s.tick)
    if due then latheReport (s.setLoop l { s.loop l with satAt := some s.tick }) 1 l k else s

/-- The active chain's first slot and length. -/
def chainFirst (s : State) (l : Nat) (b : Bool) : Nat := if b then s.rdN E.firstB l else s.rdN E.firstA l
def chainLen (s : State) (l : Nat) (b : Bool) : Nat := if b then s.rdN E.lenB l else s.rdN E.lenA l

/-- A chain's history words from slot k on set to a value. -/
def setHistory (v : Int) : Nat → Nat → State → State
  | 0, _, s => s
  | n + 1, k, s => setHistory v n (k + 1) (s.setSec k { s.sec k with x1 := v, x2 := v })

/-- A heater loop is switched off (R275): its output is 0, chain A becomes active, chain B's history, Y1, Y2 and HOFS are 0, and
REF_NOW starts at the own reading. -/
def heaterStart (s : State) (c : Nat) : State :=
  let l := 98 + c
  let s := s.setLoop l { s.loop l with forced := true, chainB := false, pend := false, pendOdd := false, pendAt := none }
  let s := setHistory 0 (chainLen s l true) (chainFirst s l true) (s.wr E.output 0 l)
  (((s.wr E.y1 0 l).wr E.y2 0 l).wr E.hofs 0 l).wr E.refNow (s.chan c).ownTemp l

/-! ### Handovers that wait (R282, R286) -/

/-- A handover is requested in a TICK. -/
def LoopSt.ask (x : LoopSt) (tick : Nat) : LoopSt :=
  let odd := match x.pendAt with
    | some (t, b) => if t = tick then !b else true
    | none => true
  { x with pend := true, pendOdd := !x.pendOdd, pendAt := some (tick, odd) }

/-- The requests of the present TICK, which wait, are odd in number. -/
def LoopSt.late (x : LoopSt) (tick : Nat) : Bool := x.pendAt.any (fun r => r.1 == tick && r.2)

/-- A handover is due at a sample of the loop: those requested in earlier TICKs are odd in number. -/
def handoverDue (s : State) (l : Nat) : Bool := (s.loop l).pendOdd != (s.loop l).late s.tick

/-- The handovers that are due have been made. -/
def takeHandover (s : State) (l : Nat) : State :=
  let x := s.loop l
  s.setLoop l { x with pend := x.pendAt.any (fun r => r.1 == s.tick), pendOdd := x.late s.tick }

/-- A log record (R289). -/
def logRecord (s : State) (l : Nat) (held : Bool) (out : Int) : List Byte :=
  let x := s.loop l
  toBytes 6 s.time ++ toBytes 1 l ++
    toBytes 1 (flag x.chainB 7 + flag held 6 + flag (x.clamped || x.slewed) 5 + flag x.saturated 4) ++
    toBytes 6 (unsigned 48 out) ++ toBytes 2 (s.logSeq % 65536)

/-- Every LOG_DIV-th sample of a loop whose LOG is 1 is queued while LOG_EN is 1; a full queue drops it (R290). -/
def logSample (s : State) (l : Nat) (held : Bool) (out : Int) : State :=
  if s.rd E.logEn != 1 || s.rd E.log l != 1 then s
  else
    let x := s.loop l
    let n := x.logCount + 1
    if n < s.rdN E.logDiv then s.setLoop l { x with logCount := n }
    else
      let s := s.setLoop l { x with logCount := 0 }
      if s.logQ.length < 64 then { s with logQ := s.logQ ++ [logRecord s l held out], logSeq := s.logSeq + 1 }
      else
        let s := s.count E.logDropped
        let due := match s.logAt with
          | none => true
          | some t => decide (t + 25000 ≤ s.tick)
        if due then latheReport { s with logAt := some s.tick } 6 l 0 else s

/-- No clamp, slew limit or saturation acts in a sample that evaluates no chain; LOOP_STATUS says whether it was held
(R267, R268, R294: its bits follow their conditions without latching; DEDUCED, log entry 54). -/
def noteStill (s : State) (l : Nat) (held : Bool) : State :=
  s.setLoop l { s.loop l with heldLast := held, clamped := false, slewed := false, saturated := false }

/-- A held sample: HELD_COUNT increases and nothing else is updated (R267). -/
def holdSample (s : State) (l : Nat) : State :=
  let s := noteStill s l true
  logSample (s.count E.heldCount l) l true (if l = 0 then s.rd E.posEst else s.rd E.output l)

/-- A loop is held by LOOP_CMD or by an uncorrectable section error (R263, R267). -/
def loopHeld (s : State) (l : Nat) : Bool := (s.loop l).cmdHold || (s.loop l).eccHold.isSome

end Sys2Proof.Machine
end

