-- ==== Sys2Proof/Machine/Loops.lean ====
section
/-!
DEFINITION. A sample of a Lathe loop other than loop 0: sources, sinks, hold and force conditions, ramps, the output
stage, and the bumpless handover (R197, R202, R204, R214, R215, R265 to R269, R274 to R276, R282, R283, R285 to R288).
-/
namespace Sys2Proof.Machine

/-- A data word: a result outside the format is open (R258; log entry 30). -/
def fitWord (s : State) (x : Int) : Int × State :=
  if wordMin ≤ x ∧ x ≤ wordMax then (x, s) else let (v, s) := s.draw; (signed 48 v, s)

/-- A number limited to `lo` below and `hi` above, where a limit of 0 is none (R265, R287). -/
def limitStep (d down up : Int) : Int :=
  let d := if up ≠ 0 ∧ up < d then up else d
  if down ≠ 0 ∧ d < -down then -down else d

/-! ### Inbound samples -/

/-- How far an inbound sample lies behind a point of a cycle, given in 1/4,096 vernier step after its fire instant (R197). -/
def refDist (y : Cycle) (ofs : Nat) (x : Sample) : Int := sdiff51 x.at_ y.fire * 4096 - ofs

/-- The inbound sample nearest to a point of a cycle; a tie takes the earlier one (R197). The list is newest first. -/
def nearestSample (s : State) (c : Nat) (y : Cycle) (ofs : Nat) : Option Sample :=
  (s.chan c).samples.foldl (fun best x => match best with
    | none => some x
    | some b => if (refDist y ofs x).natAbs ≤ (refDist y ofs b).natAbs then some x else some b) none

/-- The inbound sample at AMP_REF of the channel's fire cycle, by the table that the cycle plays (R201, R274). -/
def ampSample (s : State) (c : Nat) : Option Sample :=
  match (s.chan c).cycle with
  | some y => nearestSample s c y (y.ampRef * 40 * y.stretch)
  | none => none

/-! ### Sources -/

/-- The present value of a source code for a loop (R269). -/
def sourceValue (s : State) (l code : Nat) : Int :=
  if code = 0 then s.rd E.srcConst l
  else if 0x200 ≤ code ∧ code < 0x260 then
    match ampSample s (code - 0x200) with
    | some x => x.v * s.rd E.ampVLsb
    | none => 0
  else if 0x300 ≤ code ∧ code < 0x360 then (s.chan (code - 0x300)).ownTemp
  else if code = 0x400 then s.rd E.preheatDuty * 2 ^ 16
  else if code = 0x500 then s.rd E.speedTarget * 2 ^ 16
  else if 0x600 ≤ code ∧ code < 0x6F0 then
    s.rd E.output (code - 0x600)
  else if code = 0x700 then s.rd E.velEst
  else 0

/-- SRC and XMODE of a chain. -/
def chainSource (s : State) (l : Nat) (b : Bool) : Nat := if b then s.rdN E.srcB l else s.rdN E.srcA l
def chainXmode (s : State) (l : Nat) (b : Bool) : Bool := if b then s.rd E.xmodeB l == 1 else s.rd E.xmodeA l == 1

/-! ### Heaters -/

/-- The channel of a heater loop. -/
def heaterCh (l : Nat) : Option Nat := if 98 ≤ l ∧ l < 194 then some (l - 98) else none

/-- Some condition of R215 holds: the heater is off. -/
def heaterOff (s : State) (c : Nat) : Bool :=
  s.rd E.heaterSet c == 0 || !(s.chan c).sensorOk || s.rd E.paused c == 1 || !s.domOn (engDom c) || s.dev == .boot ||
    s.outputsOff

/-- The force of a heater loop begins or ends with its condition: at its beginning the heater is switched off (R275). -/
def heaterForce (s : State) (c : Nat) : State :=
  let l := 98 + c
  let x := s.loop l
  if !heaterOff s c then s.setLoop l { x with forced := false }
  else
    let s := (s.wr E.output 0 l).wr E.heaterDuty 0 c
    if x.forced then s else heaterStart s c

/-- The heater loop hands over from preheat to closed loop in this sample (R214, R275). -/
def heaterSwitch (s : State) (l : Nat) : Bool :=
  match heaterCh l with
  | none => false
  | some c => !(s.loop l).chainB && decide (s.rd E.heaterSet c - s.rd E.preheatBand ≤ (s.chan c).ownTemp)

/-! ### Force and hold -/

/-- The force value of a loop's sink while its force condition holds (R268, R275, R276). -/
def forceValue (s : State) (l : Nat) : Option Int :=
  if l = 1 then
    if !s.busyJob then some 0
    else if overspeed s then some (s.rd E.outMin 1) else none
  else match heaterCh l with
    | some c => if heaterOff s c then some 0 else none
    | none => none

/-- The drive-amplitude sink's hold conditions but for the ceiling (R204, R274). -/
def ampHold (s : State) (l : Nat) : Bool :=
  let k := s.rdN E.sink l
  if 0x200 ≤ k ∧ k < 0x260 then
    let c := k - 0x200
    !(s.chan c).rxUp || !(s.chan c).calDone || match ampSample s c with
      | none => true
      | some x => x.clip
  else false

/-! ### The sample -/

/-- What a chain's output becomes at the output stage. -/
structure Stage where
  st  : State
  /-- The chain output. -/
  y   : Int
  /-- The delivered output. -/
  u   : Int
  clamped : Bool
  slewed  : Bool

/-- The output stage of R265 on a chain output, with an upper limit. -/
def outputStage (s : State) (l : Nat) (y top : Int) : Stage :=
  let old := s.rd E.output l
  let z := y + s.rd E.hofs l
  let u := clampInt (s.rdHeld E.outMin l) top z
  let v := old + limitStep (u - old) (s.rdHeld E.slewDown l) (s.rdHeld E.slewUp l)
  ⟨s, y, v, decide (u ≠ z), decide (v ≠ u)⟩

/-- The input of the active chain at a sample: the ramped reference less the source, or the source (R265, R287). -/
def chainInput (s : State) (l : Nat) (b : Bool) : Int × State :=
  let src := sourceValue s l (chainSource s l b)
  if chainXmode s l b then
    let now := s.rd E.refNow l
    let now := now + limitStep (s.rdHeld E.refTarget l - now) (s.rdHeld E.refRateDown l) (s.rdHeld E.refRateUp l)
    fitWord (s.wr E.refNow now l) (now - src)
  else (src, s)

/-- Evaluate a chain from its input (R260, R262, R265); its sections take the section engine's time (R277). -/
def evalChain (s : State) (l : Nat) (b : Bool) (x : Int) : Int × State :=
  let s := latheWork s (chainLen s l b)
  let r := runChain (s.rd E.stateLim l) (s.rd E.y1 l) (s.rd E.y2 l) (chainLen s l b) (chainFirst s l b) x s
  (r.2.1, noteSaturation r.1 l r.2.2)

/-- The sink takes OUTPUT (R269). -/
def deliver (s : State) (l : Nat) (u : Int) : State :=
  let s := s.wr E.output u l
  let k := s.rdN E.sink l
  if 0x200 ≤ k ∧ k < 0x260 then s.wr E.gain u (k - 0x200)
  else if 0x300 ≤ k ∧ k < 0x360 then s.wr E.heaterDuty (clampInt 0 255 ((u + 2 ^ 15).fdiv (2 ^ 16))) (k - 0x300)
  else if k = 0x400 then s.wr E.speedReq (u.fdiv (2 ^ 16))
  else s

/-- The rest of R265 after the output stage: Y1 and Y2, delivery, and the move of HOFS. -/
def finishSample (g : Stage) (l : Nat) (switching : Bool) : State :=
  let s := g.st
  let h := s.rd E.hofs l
  let w := if s.rd E.awBack l = 1 ∧ g.u ≠ g.y + h then g.u - h else g.y
  let lim := s.rd E.stateLim l
  let s := (s.wr E.y2 (s.rd E.y1 l) l).wr E.y1 (clampInt (-lim) lim w) l
  let s := deliver s l g.u
  let s := s.setLoop l { s.loop l with clamped := g.clamped, slewed := g.slewed, heldLast := false }
  if switching then s else s.wr E.hofs (stepToward h 0 (s.rd E.loopHandoverSlew l)) l

/-- The incoming chain is prepared in the switching sample (R283): it becomes active, its first section's history is
its input and every other history word OUTPUT less HOFS. -/
def switchChain (s : State) (l : Nat) : State :=
  let x := s.loop l
  let b := !x.chainB
  let s := s.setLoop l { x with chainB := b }
  let (v, s) := fitWord s (s.rd E.output l - s.rd E.hofs l)
  let n := chainLen s l b
  let k := chainFirst s l b
  let s := setHistory v n k s
  (s.wr E.y1 v l).wr E.y2 v l

/-- The sample of a loop that is neither held nor forced (R265, R283, R285). -/
def activeSample (s : State) (l : Nat) (top : Int) : Stage :=
  let sw := handoverDue s l || heaterSwitch s l
  let s := takeHandover s l
  let yOld := s.rd E.output l
  let s := if sw then switchChain s l else s
  let b := (s.loop l).chainB
  let (x, s) := chainInput s l b
  let s := if sw ∧ chainLen s l b ≠ 0 then setHistory x 1 (chainFirst s l b) s else s
  let (y, s) := evalChain s l b x
  if sw then
    let (h, s) := fitWord s (yOld - y)
    let s := s.wr E.hofs h l
    let s := if s.rd E.loopHandoverTol l < |h| then latheReport s 3 l 0 else s
    outputStage s l y top
  else outputStage s l y top

/-- The loop is due to switch chains in this sample. -/
def switchesNow (s : State) (l : Nat) : Bool := handoverDue s l || heaterSwitch s l

/-- G_CEIL limits a drive-amplitude loop: its output without the limit would lie above G_CEIL, and G_CEIL lies below
GAIN_MAX (R202, R274). -/
def ceilingActs (s : State) (l : Nat) : Option Nat :=
  let k := s.rdN E.sink l
  if 0x200 ≤ k ∧ k < 0x260 then
    match serving s (k - 0x200) with
    | none => none
    | some e =>
      match gCeil s e with
      | none => none
      | some g =>
        if s.rdN E.gainMax ≤ g then none
        else if (g : Int) < (activeSample s l (s.rd E.gainMax)).u then some g else none
  else none

/-- CEIL_HIT follows the latest sample of a drive-amplitude loop (R202). -/
def setCeil (s : State) (l : Nat) (hit : Bool) : State :=
  let k := s.rdN E.sink l
  if 0x200 ≤ k ∧ k < 0x260 then
    let c := k - 0x200
    s.setChan c { s.chan c with ceilHit := hit }
  else s

/-- One triggered sample of a loop other than loop 0: forced, held, or active (R265, R267, R268). -/
def sampleLoop (l : Nat) (s : State) : State :=
  let s := match heaterCh l with
    | some c => heaterForce s c
    | none => s
  let s := s.setLoop l { s.loop l with sampledAt := some s.tick }
  match forceValue s l with
  | some v => logSample (noteStill (deliver s l v) l false) l true v
  | none =>
    if loopHeld s l || ampHold s l then holdSample s l
    else match ceilingActs s l with
      | some g => setCeil (holdSample (deliver s l g) l) l true
      | none =>
        let g := activeSample s l (s.rdHeld E.outMax l)
        let s := setCeil (finishSample g l (switchesNow s l)) l false
        logSample s l false (s.rd E.output l)

end Sys2Proof.Machine
end

