-- ==== Sys2Proof/Machine/Links.lean ====
section
/-!
DEFINITION. The Head link's idle frames, the back-channel and the Drive link (R164, R168, R175, R188, R193 to R198,
R205, R227, R589, R615).
-/
namespace Sys2Proof.Machine

/-- The engine that a channel's messages come from: the one that serves it, else its own. -/
def reporter (s : State) (c : Nat) : Nat := (serving s c).getD c

/-- A channel in legacy shift mode (R171). -/
def legacy (s : State) (c : Nat) : Bool := s.rd E.hlMode (reporter s c) == 1

/-! ### Idle frames -/

/-- A line of the channel is in serialisation (R164). -/
def serialising (s : State) (c : Nat) : Bool := (s.chan c).built.any (fun b => decide (0 < sdiff51 b.serEnd (nowStep s)))

/-- IDLE_FRAME_HEADER: every 10 us while no line is in serialisation; a legacy link has no headers (R164, R174). -/
def idleHeaderAct (c : Nat) (s : State) : State :=
  if !s.domOn (engDom c) || !s.chPresent c || s.dev == .boot || s.dev == .safe || legacy s c || serialising s c then s
  else sendIdle s c (reporter s c)

/-- IDLE_FRAME_HEADER (R163, R164). -/
def execIdleFrameHeader (c : Ch) (s : State) : Host.Outcome State Fault Refusal := .next (idleHeaderAct c s)

/-! ### The back-channel -/

/-- HL_LINK_DOWN of a channel: the lanes whose lock is not reported, and silence (R175, R615). -/
def linkDownMsg (s : State) (c : Nat) (silent : Bool) : State :=
  s.report (reporter s c) 7 (c * 2 ^ 40 + flag silent 4 + (15 - (s.chan c).lanes % 16))

/-- A byte of a frame as a number. -/
def byteAt (l : List Byte) (i : Nat) : Nat := ((l[i]?).getD 0).toNat

/-- Bytes of a frame as a number, most significant first. -/
def fieldAt (l : List Byte) (i n : Nat) : Nat := ofBytes ((l.drop i).take n)

/-- The offset field of a lane: OFS_BITS and OFS_TAPS (R205). -/
def offsetField (l : List Byte) (lane : Nat) : Int × Nat :=
  let w := fieldAt l (7 + 2 * lane) 2
  (signed 6 (bits w 15 10), bits w 5 0)

/-- BACKCHANNEL_FRAME: a frame of 40 bytes with a good BCRC (R205); lost block lock is reported (R175), and a bridge
that comes up makes the lane deskew pending (R560). A legacy channel
has no back-channel (R589). -/
def backchannelAct (c : Nat) (l : List Byte) (s : State) : State :=
  if !s.domOn (engDom c) || !s.chPresent c || legacy s c || l.length != 40 ||
      crc16 ((l.drop 1).take 37) != fieldAt l 38 2 then s
  else
    let x := s.chan c
    let lanes := byteAt l 2 / 16
    let lost := x.lanes &&& (15 - lanes)
    let s := s.setChan c { x with
      bridgeUp := true, bridgeEver := true, lanes := lanes, lockEver := x.lockEver || lanes == 15,
      discards := byteAt l 15, offsets := (List.range 4).map (offsetField l), bcRound := true,
      temp := signed 16 (fieldAt l 3 2), thermOk := bit (byteAt l 2) 3 }
    let s := s.wr E.heaterI (fieldAt l 5 2) c
    let s := if x.bridgeUp then s else calTrigger s 0
    if lost = 0 then s else linkDownMsg s c false

/-- BACKCHANNEL_FRAME (R175, R205). -/
def execBackchannelFrame (c : Ch) (bytes : List Byte) (s : State) : Host.Outcome State Fault Refusal :=
  .next (backchannelAct c bytes s)

/-- BACKCHANNEL_SILENT: the back-channel has been silent for 100 us (R175). Nothing reports block lock any more. -/
def silentAct (c : Nat) (s : State) : State :=
  let x := s.chan c
  if !s.domOn (engDom c) || !x.bridgeUp then s
  else linkDownMsg (s.setChan c { x with bridgeUp := false, lanes := 0 }) c true

/-- BACKCHANNEL_SILENT (R175). -/
def execBackchannelSilent (c : Ch) (s : State) : Host.Outcome State Fault Refusal := .next (silentAct c s)

/-! ### The outbound Drive link -/

/-- The drive-link calibration of channel c plays its step: it runs on the channels whose inbound lane is up (R188, R558,
R561). -/
def playsStep (s : State) (c : Nat) : Bool := (s.cal 1).running && s.chPresent c && s.domOn (engDom c) && !s.busyJob &&
  !s.outputsOff && (s.chan c).rxUp

/-- The waveform engine of a channel outputs 0 (R188): its outputs are forced safe, it is paused, no job is under way,
or it has no waveform. A channel with ENG_ENABLE 0 rests as the others do (DESIGN CHOICE, log entry 60, unsafe). -/
def forcedZero (s : State) (c : Nat) : Bool :=
  match serving s c with
  | none => true
  | some e =>
    !s.busyJob || s.outputsOff || s.rd E.paused c == 1 || waveLenAt s (activeAt e .wave) == 0 || (s.eng e).copying.isSome ||
      (s.eng e).fenced || !personaServes s c

/-- What a fire cycle gives at a sample edge, in CLK_FIRE periods: nothing before its first sample, and its rest level after its
last (R186 to R188). -/
def cycleOutput (y : Cycle) (t : Nat) : Option Int :=
  let d := sdiff51 (wrap51 (t * 8)) y.first
  if d < 0 then none else some ((y.out[d.toNat / 40]?).getD y.rest)

/-- The output sample of a channel at a sample edge, in CLK_FIRE periods (R186, R188). -/
def outputAt (s : State) (c t : Nat) : Int :=
  if playsStep s c then s.rd E.dlStep
  else if forcedZero s c then 0
  else
    let x := s.chan c
    match x.cycle.bind (cycleOutput · t), x.prevCycle.bind (cycleOutput · t), serving s c with
    | some v, _, _ => v
    | none, some v, _ => v
    | none, none, some e => restLevel s (activeAt e .wave) (s.rdN E.gain c)
    | none, none, none => 0

/-- The 80 bytes of an outbound frame that begins at a TIME (R194). Which sample edges a frame carries is not stated:
the 34 from DRIVE_TX_LAT before its start (DESIGN CHOICE, log entry 32, unsafe). -/
def driveFrame (s : State) (c start : Nat) : List Byte :=
  let en := playsStep s c || !forcedZero s c
  let heat := !heaterOff s c
  let head := toBytes 1 0xD5 ++ toBytes 1 (flag en 7) ++ toBytes 2 (start / 170 % 65536)
  let first := wrap48 ((start : Int) - 510)
  let body := (List.range 34).flatMap (fun j => toBytes 2 (unsigned 16 (outputAt s c (wrap48 (first + 5 * j)))))
  let b1 := if heat then s.rdN E.heaterDuty c else 0
  let b2 := flag heat 7
  head ++ body ++ toBytes 1 0x4B ++ toBytes 1 b1 ++ toBytes 1 b2 ++ toBytes 1 ((b1 ^^^ b2) ^^^ 0x5A) ++
    toBytes 1 0x87 ++ toBytes 1 0 ++ toBytes 2 (crc16 (head ++ body))

/-- The sync header of block i of a Drive link frame (R193 to R195). -/
def driveSync (i : Nat) : Nat := if i = 0 then 3 else if i ≤ 17 then 1 else 2

/-- The 20 blocks of a frame of 80 bytes, its data blocks scrambled from a state on (R193). -/
def driveBlocks (st : Nat) (bytes : List Byte) : Nat × List Nat :=
  scrambleBlocks st ((List.range 20).map (fun i => blockBits (driveSync i) (fieldAt bytes (4 * i) 4)))

/-- The scrambler state of a channel's outbound Drive lane (R193; its state after reset: log entry 11). -/
def driveTxState (x : Chan) : Nat := x.driveTx.getD (Config.scramblerSeed 4).toNat

/-- A test pattern replaces a channel's Drive link frames (R612). -/
def prbsOnDrive (s : State) (c : Nat) : Bool :=
  s.rdN E.prbsSel != 0 && bits (s.rdN E.prbsLink) 15 12 == 1 && bits (s.rdN E.prbsLink) 11 4 == c

/-- DRIVE_FRAME_OUT: the frame that begins at the latest TIME that is a multiple of 170 (R193, R194). -/
def driveOutAct (c : Nat) (s : State) : State :=
  if !s.domOn (engDom c) || !s.chPresent c || !s.domOn 10 || prbsOnDrive s c then s
  else
    let x := s.chan c
    let r := driveBlocks (driveTxState x) (driveFrame s c (s.time - s.time % 170))
    (s.setChan c { x with driveTx := some r.1 }).emit (.driveFrame c r.2)

/-- DRIVE_FRAME_OUT (R188, R193, R194). -/
def execDriveFrameOut (c : Ch) (s : State) : Host.Outcome State Fault Refusal := .next (driveOutAct c s)

/-! ### The inbound Drive link -/

/-- The inbound lane goes down: GAIN and V_SUP are held, a learn scan is discarded, and a lane that has been up is
reported (R198, R244). -/
def rxDown (s : State) (c : Nat) : State :=
  let x := s.chan c
  let s := s.setChan c { x with rxUp := false, rxGood := 0, rxBad := [] }
  if !x.rxUp then s
  else
    let s := match serving s c with
      | none => s
      | some e => discardLearn s e
    s.report (reporter s c) 9 (c * 2 ^ 40)

/-- AMP_FAULT of a channel (R227). -/
def ampFaultMsg (s : State) (c : Nat) : State := s.report (reporter s c) 0xA (c * 2 ^ 40)

/-- SUPPLY_OK has been 0 for 1 ms (R227). -/
def supplyCheck (s : State) (c : Nat) : State :=
  let x := s.chan c
  match x.supplyLow with
  | none => s
  | some t =>
    if !x.supplySent ∧ 800000 ≤ sdiff48 s.time t then ampFaultMsg (s.setChan c { x with supplySent := true }) c else s

/-- The sample pair of an inbound block that arrived at a vernier step (R195). -/
def samplePair (w at_ : Nat) : Sample :=
  ⟨at_, signed 14 (bits w 27 14), signed 14 (bits w 13 0), bit w 31, bit w 30⟩

/-- The 17 pairs of a frame whose first sample has a reference time, 80 vernier steps apart (R197). -/
def framePairs (l : List Byte) (ref : Nat) : List Sample :=
  (List.range 17).map (fun j => samplePair (fieldAt l (4 + 4 * j) 4) (wrap51 (ref + 80 * j)))

/-- The run of OVERCURRENT samples, and whether it has just reached 16 (R227). -/
def ocStep (a : Nat × Bool) (p : Sample) : Nat × Bool :=
  if p.oc then (a.1 + 1, a.2 || a.1 + 1 == 16) else (0, a.2)

/-- A good inbound frame (R195, R197, R198, R227); a lane that comes up makes its calibration pending (R560). -/
def goodFrame (s : State) (c : Nat) (l : List Byte) (t : Nat) : State :=
  let x := s.chan c
  let st := byteAt l 1
  let ok := bit st 7
  let pairs := framePairs l (wrap51 ((t : Int) * 8 - s.rd E.driveRxDelay c))
  let oc := pairs.foldl ocStep (x.ocRun, false)
  let up := x.rxUp || decide (64 ≤ x.rxGood + 1)
  let s := s.setChan c { x with
    rxGood := min 64 (x.rxGood + 1), rxUp := up, rxEver := x.rxEver || up, supplyOk := ok, ampOt := bit st 6,
    ampFault := bit st 5, ocRun := oc.1,
    supplyLow := if ok then none else some (x.supplyLow.getD t), supplySent := x.supplySent && !ok,
    supplySum := if up then x.supplySum + fieldAt l 73 2 else x.supplySum,
    supplyNum := if up then x.supplyNum + 1 else x.supplyNum,
    samples := if up then (pairs.reverse ++ x.samples).take 4096 else x.samples }
  let s := if up && !x.rxUp then calTrigger s 1 else s
  let s := if bit st 5 && !x.ampFault then ampFaultMsg s c else s
  supplyCheck (if oc.2 then ampFaultMsg s c else s) c

/-- A frame whose FCRC fails: it ends the run of samples, and the fourth within 1 ms takes the lane down (R198). -/
def badFrame (s : State) (c t : Nat) : State :=
  let x := s.chan c
  let four := match x.rxBad[(2 : Nat)]? with
    | some first => decide (sdiff48 t first < 800000)
    | none => false
  let s := s.setChan c { x with rxGood := 0, ocRun := 0, rxBad := (t :: x.rxBad).take 3 }
  if four then rxDown s c else s

/-- Bits through the descrambler: its state, the latest 58 bits received, and the word (R158, R193). -/
def descrambleBits : Nat → List Bool → Nat → Nat × Nat
  | st, [], acc => (st, acc)
  | st, b :: r, acc =>
    let o := b != (bit st 38 != bit st 57)
    descrambleBits ((st * 2 + (if b then 1 else 0)) % 2 ^ 58) r (acc * 2 + (if o then 1 else 0))

/-- The payloads of received blocks, those of data blocks descrambled (R193). -/
def descrambleBlocks : Nat → List Nat → Nat × List Nat
  | st, [] => (st, [])
  | st, b :: r =>
    let x := if b / 2 ^ 32 = 1 then descrambleBits st (bitsDown 32 (b % 2 ^ 32)) 0 else (st, b % 2 ^ 32)
    let y := descrambleBlocks x.1 r
    (y.1, x.2 :: y.2)

/-- The 20 blocks that the 680 bits of a frame carry, first bit first (R193). -/
def laneBlocks (l : List Byte) : List Nat :=
  let w := ofBytes l
  (List.range 20).map (fun i => w / 2 ^ (34 * (19 - i)) % 2 ^ 34)

/-- The 80 bytes of an inbound frame of 680 bits; none where a sync header is not that of its block (R193, R195). -/
def driveUnframe (st : Nat) (l : List Byte) : Nat × Option (List Byte) :=
  if l.length ≠ 85 then (st, none)
  else
    let bs := laneBlocks l
    let r := descrambleBlocks st bs
    (r.1, if bs.map (· / 2 ^ 32) = (List.range 20).map driveSync then some (r.2.flatMap (toBytes 4)) else none)

/-- The descrambler state of a channel's inbound Drive lane (R193; its state after reset: log entry 11). -/
def driveRxState (x : Chan) : Nat := x.driveRx.getD (Config.scramblerSeed 5).toNat

/-- DRIVE_FRAME_IN: 20 blocks, the FCRC over block 0 and blocks 1 to 17 (R193, R195). MARK, TYPE and CHK are not checked, and a
wrong sync header counts as a failing FCRC (DESIGN CHOICE, log entry 60, unsafe). -/
def driveInAct (c : Nat) (l : List Byte) (t : Nat) (s : State) : State :=
  if !s.domOn (engDom c) || !s.chPresent c then s
  else
    let x := s.chan c
    let r := driveUnframe (driveRxState x) l
    let s := s.setChan c { x with driveRx := some r.1 }
    match r.2 with
    | none => badFrame s c t
    | some f => if crc16 (f.take 72) = fieldAt f 78 2 then goodFrame s c f t else badFrame s c t

/-- DRIVE_FRAME_IN (R195, R197, R198, R227). -/
def execDriveFrameIn (c : Ch) (bytes : List Byte) (t : Nat) (s : State) : Host.Outcome State Fault Refusal :=
  .next (driveInAct c bytes t s)

/-- DRIVE_BLOCK_LOCK_LOST (R198). -/
def execDriveBlockLockLost (c : Ch) (s : State) : Host.Outcome State Fault Refusal :=
  .next (if s.domOn (engDom c) then rxDown s c else s)

end Sys2Proof.Machine
end

