-- ==== Sys2Proof/Machine/OtpArray.lean ====
section
/-!
DEFINITION. The fuse array: word formats, sensing, locks, programming bit by bit, Tally records (R530 to R537, R543,
R548 to R550).
-/
namespace Sys2Proof.Machine

/-- A monitor ignores its rails while its domain is off or powering up (R518). -/
def monitorOn (s : State) (m : Nat) : Bool := s.domOn m || s.domState m == 4

/-- Some watched rail is below its warning level (R22, R519). -/
def brownout (s : State) : Bool := s.sup.low.any (monitorOn s)

/-- A fuse word. -/
def fuseWord (s : State) (w : Nat) : OtpWord := aget {} w s.otp.words

/-- The shadow of a fuse word. -/
def fuseShadow (s : State) (w : Nat) : OtpShadow := aget {} w s.otp.shadows

/-- The state with a fuse word set. -/
def setFuseWord (s : State) (w : Nat) (x : OtpWord) : State :=
  { s with otp := { s.otp with words := ains w x s.otp.words } }

/-- A bit-granular word (R531, R532). -/
def bitwise (w : Nat) : Bool :=
  w == 120 || w == 121 || (410 ≤ w && w ≤ 418) || (448 ≤ w && w ≤ 511)

/-- The 16 logical bits of a bit-granular word: the majority of each three (R531). -/
def majority (raw : Nat) : Nat :=
  ((List.range 16).map (fun j =>
    let b := bits raw (3 * j + 2) (3 * j)
    if b = 3 ∨ 5 ≤ b then 2 ^ j else 0)).sum

/-- The physical bits of logical bits (R531). -/
def tripled (l : Nat) : Nat := ((List.range 16).map (fun j => if bit l j then 7 * 2 ^ (3 * j) else 0)).sum

/-- What sensing a word at the normal reference gives (R535, R536). -/
def senseOf (w : Nat) (x : OtpWord) (weak : Bool) : OtpShadow :=
  if bitwise w then { raw := x.data, data := majority x.data, sealed := false, weak := weak }
  else if !x.sealed ∨ x.syn = 0 then { raw := x.data, data := x.data, sealed := x.sealed, weak := weak }
  else match Config.otpLocate x.syn with
    | some b => { raw := x.data, data := if b.val < 48 then x.data ^^^ 2 ^ b.val else x.data, sealed := true,
                  weak := weak, corrected := true }
    | none => { raw := x.data, data := x.data, sealed := true, weak := weak, uncorr := true }

/-- A word is sensed: its shadow changes, and an error found is reported (R535 to R537). -/
def senseWord (s : State) (w : Nat) (weak : Bool) : State :=
  let x := senseOf w (fuseWord s w) weak
  let s := { s with otp := { s.otp with shadows := aput {} w x s.otp.shadows } }
  if x.corrected then s.report 0xC8 1 w else if x.uncorr then s.report 0xC8 2 w else s

/-- UNSEALED of a word's status (R536). -/
def unsealed (w : Nat) (x : OtpShadow) : Bool := !bitwise w && !x.sealed && x.raw != 0

/-- BLANK of a word's status (R566). -/
def blank (x : OtpShadow) : Bool := x.raw == 0 && !x.sealed

/-- A word's value is valid for its user: sealed and not uncorrectable (R544, R552). -/
def wordValid (x : OtpShadow) : Bool := x.sealed && !x.uncorr

/-- The wires as the logical bits of words 120 and 121 give them (R534). -/
def wiresFrom (v c : Nat) : Nat :=
  flag (bit c 0) 0 + flag (bit v 0) 1 + flag (bit v 1) 2 + flag (bit v 2) 3 + flag (bit v 3) 4 + flag (bit v 4) 5 +
    flag (bit c 1) 6 + flag (bit v 5) 7 + flag (bit c 2) 8 + flag (bit c 3) 9 + flag (bit c 4) 10 +
    flag (bit v 6) 11 + flag (bit v 7) 12 + flag (bit c 5) 13 + flag (bit v 8) 14 + flag (bit v 9) 15

/-- The critical wires as the shadows give them (0x8000.0A). -/
def shadowWires (s : State) : Nat := wiresFrom (fuseShadow s 120).data (fuseShadow s 121).data

/-- A critical wire as delivered (R534). -/
def wire (s : State) (j : Nat) : Bool := bit s.otp.wires j

/-- A lock wire in force: delivered, or programmed since (R534, R543). -/
def lockWire (s : State) (j : Nat) : Bool := wire s j || bit (shadowWires s) j

/-- The word lies in a locked region (R534, R543). -/
def lockedWord (s : State) (w : Nat) : Bool :=
  (lockWire s 7 && (w ≤ 120 || (122 ≤ w && w ≤ 127))) || (lockWire s 8 && 128 ≤ w && w ≤ 255) ||
    (lockWire s 9 && 256 ≤ w && w ≤ 383)

/-- A word that only the S96 programs (R539). -/
def deviceWord (w : Nat) : Bool := (384 ≤ w && w ≤ 418) || (448 ≤ w && w ≤ 511)

/-- The bits of a mask, ascending. -/
def bitList (n mask : Nat) : List Nat := (List.range n).filter (bit mask)

/-- Data bits are programmed: a programmed bit reads 1 and stays 1 (R530). -/
def blow (s : State) (w mask : Nat) : State := setFuseWord s w { fuseWord s w with data := (fuseWord s w).data ||| mask }

/-- A physical bit is programmed; bits 48 to 54 are check bits, bit 55 the seal (R530). -/
def blowBit (s : State) (w b : Nat) : State :=
  if b < 48 then blow s w (2 ^ b) else if b = 55 then setFuseWord s w { fuseWord s w with sealed := true } else s

/-- Status WEAK of a word as it stands. -/
def weakOf (s : State) (w : Nat) : Bool := (fuseShadow s w).weak

/-- Logical bits of a Tally word as its shadow reads. -/
def tallyWord (s : State) (w : Nat) : Nat := (fuseShadow s w).data

/-- A Tally burn of logical bits of a word; during a brown-out it waits (R519, R520, R548; log entry 36). -/
def tallyBurn (s : State) (w l : Nat) : State :=
  if brownout s then { s with otp := { s.otp with waiting := s.otp.waiting ++ [(w, l)] } }
  else senseWord (blow s w (tripled l)) w (weakOf s w)

/-- A new record goes into the lowest free word of a kind: VALID reads 0 and no programmed field bit conflicts (R549). -/
def tallyRecord (s : State) (words : List Nat) (valid fields : Nat) : State :=
  match words.find? (fun w =>
      !bit (tallyWord s w) valid && (tallyWord s w ||| fields) == fields && !s.otp.waiting.any (fun x => x.1 == w)) with
  | none => s
  | some w => tallyBurn s w (fields ||| 2 ^ valid)

/-- CH[2], CH[1], CH[0], RANK of a rank 2 ch + r as the fields of a record, from logical bit 0 (R548). -/
def rankFields (rank : Nat) : Nat :=
  flag (bit rank 3) 0 + flag (bit rank 2) 1 + flag (bit rank 1) 2 + flag (bit rank 0) 3

/-- The rank that a record names. -/
def recordRank (l : Nat) : Nat := flag (bit l 0) 3 + flag (bit l 1) 2 + flag (bit l 2) 1 + flag (bit l 3) 0

/-- The words of the rank retirements, present records first to last (R548). -/
def retirements (s : State) : List Nat :=
  ((List.range 8).map (fun i => tallyWord s (456 + i))).filter (fun l => bit l 6)

/-- A rank retirement is recorded, with its spare 8 or 9 where it has one, and the spare's use (R319, R548). -/
def recordRetirement (s : State) (rank : Nat) (spare : Option Nat) : State :=
  let f := rankFields rank + flag spare.isSome 4 + flag (spare == some 9) 5
  let s := tallyRecord s ((List.range 8).map (· + 456)) 6 f
  match spare with
  | none => s
  | some k => tallyRecord s [464 + (k - 8)] 4 (rankFields rank)

/-- CHANNEL[6] to CHANNEL[0] of a spare-engine record, from logical bit 0 (R548). -/
def channelFields (c : Nat) : Nat := ((List.range 7).map (fun i => flag (bit c (6 - i)) i)).sum

/-- The channel of the spare-engine record of a group, when present (R548, R550). -/
def spareRecord (s : State) (g : Nat) : Option Nat :=
  let l := tallyWord s (466 + g)
  if bit l 7 then some (((List.range 7).map (fun i => flag (bit l i) (6 - i))).sum) else none

/-- Thermal trips recorded (R550). -/
def tripCount (s : State) : Nat :=
  ((List.range 8).map (fun i => ((List.range 16).filter (bit (tallyWord s (448 + i)))).length)).sum

/-- The next thermal-trip record: the lowest trip bit that reads 0; a burn that a brown-out holds back is made on
recovery (R513, R549). -/
def burnTrip (s : State) : State :=
  match (List.range 128).find? (fun i => !bit (tallyWord s (448 + i / 16)) (i % 16)) with
  | none => s
  | some i => tallyBurn s (448 + i / 16) (2 ^ (i % 16))

/-- Weak words at the latest sensing (0x8000.08). -/
def weakCount (s : State) : Nat := s.otp.shadows.countP (fun x => x.2.weak)

end Sys2Proof.Machine
end

