-- ==== Sys2Proof/Machine/Domains.lean ====
section
/-!
DEFINITION. Power domains: what a domain that is off forgets, and the order in which domains power up (R45, R47, R518 to
R525).
-/
namespace Sys2Proof.Machine

/-- Bytes of the engines of a group and its spare in one of the table spaces at their reset contents. -/
def clearGroupSpace (base g : Nat) (s : State) : State :=
  (s.clearBytes (base + 24 * g * tableStep) (24 * tableStep)).clearBytes (base + (96 + g) * tableStep) tableStep

/-- The units of a group domain at reset: engines, channels, tables, health maps (R45). Fences and spares that have become
unavailable are forgotten with the units' other state (DESIGN CHOICE, log entry 57, unsafe). -/
def clearGroup (g : Nat) (s : State) : State :=
  let s := clearGroupSpace healthBase g (clearGroupSpace activeBase g (clearGroupSpace shadowBase g s))
  { s with
    chans := s.chans.filter (fun x => groupOf x.1 != g)
    engs := s.engs.filter (fun x => engGroup x.1 != g) }

/-- Ranks from number a on, n of them, lose their contents and what their controllers hold (R45, R301). With `keep`, RANK_STATE
stays: the page map of DOM_3 and the migrations go by it (DEDUCED, log entry 57, unsafe). -/
def clearRanks (a n : Nat) (keep : Bool) (s : State) : State :=
  let s := s.clearBytes (frameAt a 0) (frameAt (a + n) 0 - frameAt a 0)
  let mine (r : Nat) : Bool := decide (a ≤ r ∧ r < a + n)
  { s with memory := { s.memory with
    ranks := if keep then s.memory.ranks.map (fun x => if mine x.1 then (x.1, { st := x.2.st }) else x)
      else s.memory.ranks.filter (fun x => !mine x.1)
    badBlocks := s.memory.badBlocks.filter (fun b => !mine (b * 256 / (1820 * pageSize))) } }

/-- The units of a domain keep no state while it is off (R45). -/
def clearUnits (d : Nat) (s : State) : State :=
  if d = 1 then { s with lanes := [], ring := {}, can := {}, lhp := {}, snaps := {} }
  else if d = 2 then { s with ports := [], streams := [] }
  else if d = 3 then
    let s := clearRanks 0 10 false s
    { s with memory := { s.memory with built := false, initDone := false, initNext := 0, map := [], badEntries := [],
                                        queue := [], failing := [], traffic := [], waiting := [] } }
  else if d = 4 then clearRanks 4 4 true s
  else if d = 5 then
    let s := clearRanks 8 2 true s
    { s with memory := { s.memory with ch4Ready := false } }
  else if 6 ≤ d ∧ d ≤ 9 then clearGroup (d - 6) s
  else if d = 10 then
    { s with time := 0, encs := [], trigs := [], ringPos := {}, obs := {}, secs := [], loops := [], lathe := {}, vern := {}, logQ := [],
             logSeq := 0, logAt := none, gov := { s.gov with pwm := none, girthOver := false } }
  else if d = 11 then
    let s := (s.clearBytes sramBase sramSize).clearBytes linkBase 0x10000
    { s with dmas := [], memory := { s.memory with badSram := [], sramHeld := [] } }
  else s

/-- The entries of fused settings, which show the fuses and what was in force at start-up whenever their domain is on
(R416, R475). -/
def fusedKey (k : Nat) : Bool :=
  [E.ringAddr, E.ringAddrLeft, E.ringAddrNow, E.chDisable, E.chDisableLeft].any (fun r => (rowFind r k).isSome)

/-- The heaters of a group that is off are switched off, and their set points are HEATER_SET_c, which the domain has lost (R215,
R275). -/
def groupHeaters (g : Nat) (s : State) : State :=
  if !s.domOn 10 then s
  else (List.range 24).foldl (fun s i =>
    let c := 24 * g + i
    heaterStart (s.wr E.refTarget (s.rd E.heaterSet c) (98 + c)) c) s

/-- A domain loses its state: units, memories and entries (R45). -/
def clearDomain (d : Nat) (s : State) : State :=
  let s := clearUnits d s
  let s := { s with dict := s.dict.filter (fun x => domainOfKey x.1 != d || fusedKey x.1) }.stale
  if 6 ≤ d ∧ d ≤ 9 then groupHeaters (d - 6) s else s

/-- The state with a domain's code of R529. -/
def setDom (s : State) (d st : Nat) : State := { s with doms := ains d { aget ({} : DomSt) d s.doms with st := st } s.doms }

/-- The state with a domain's power-up waiting or not. -/
def setWaiting (s : State) (d : Nat) (w : Bool) : State :=
  { s with doms := ains d { aget ({} : DomSt) d s.doms with waiting := w } s.doms }

/-- A power-up of the domain waits (0x7302.01). -/
def domWaiting (s : State) (d : Nat) : Bool := (aget ({} : DomSt) d s.doms).waiting

/-- The domains that a domain requires on (R523). -/
def prerequisites (d : Nat) : List Nat :=
  if d = 2 ∨ d = 4 ∨ d = 5 then [3] else if 6 ≤ d ∧ d ≤ 9 then [3, 10] else []

/-- A domain is held off by a fuse: a group, DRAM channel 4 (R5, R534); on GRADE 3 group 3 is cut by W5. -/
def fusedOff (s : State) (d : Nat) : Bool :=
  if 6 ≤ d ∧ d ≤ 9 then wire s (d - 4) else d == 5 && wire s 12

/-- A domain powers up: one at a time, the lowest-numbered waiting request whose prerequisites are on; none during a
brown-out (R519, R524), nor once a shutdown powers the domains down (R511). -/
def nextPowerUp (s : State) : State :=
  if brownout s ∨ 6 ≤ s.shutStep ∨ s.dev = .safe ∨ (List.range 12).any (fun d => s.domState d == 1) then s
  else match (List.range 12).find? (fun d => domWaiting s d && s.domState d != 4 && (prerequisites d).all s.domOn) with
    | none => s
    | some d => setDom (setWaiting s d false) d 1

/-- A power-up is requested (R524). -/
def requestUp (s : State) (d : Nat) : State :=
  if s.domState d = 1 ∨ s.domOn d then s else nextPowerUp (setWaiting s d true)

/-- A power-up under way is dropped. -/
def dropPowerUp (s : State) (d : Nat) : State :=
  if s.domState d = 1 then clearDomain d (setDom s d 0) else s

/-- A power-down begins: the outputs go to their idle level, and what was accepted completes before the domain switches
off (R524). A power-up under way or waiting is dropped. -/
def beginDown (s : State) (d : Nat) : State :=
  if s.domOn d then setDom s d 4 else setWaiting (dropPowerUp s d) d false

end Sys2Proof.Machine
end

