-- ==== Sys2Proof/Machine/Position.lean ====
section
/-!
DEFINITION. The position unit: encoder inputs, triggers, ring position samples, backward motion, loss of a source and
the writes that choose sources (R63 to R72, R79 to R82, R87 to R90, R96, R97, R434 to R436, R617).
-/
namespace Sys2Proof.Machine

/-- The position unit sends a message; its address is the observer position (R107). -/
def posReport (s : State) (kind : Nat) : State := s.report 0xB8 kind (s.rdN E.posEst)

/-! ### Backward motion -/

/-- R87 on the source's corrected position: the high-water mark, HELD, REVERSE and its message, the end of REVERSE. -/
def trackHwm (s : State) (corrected : Int) : State :=
  let b := behindHwm s corrected
  if b < 0 then
    let s := s.wr E.hwm (wrap48 corrected)
    { s with obs := { s.obs with held := false, reverse := false } }
  else if b = 0 then { s with obs := { s.obs with held := false } }
  else if b ≤ backlash s then { s with obs := { s.obs with held := true } }
  else
    let s := { s with obs := { s.obs with held := false } }
    if s.obs.reverse then s
    else posReport ({ s with obs := { s.obs with reverse := true } }.count E.reverseCount) 3

/-- R87 on the corrected position of source k as it stands now: its position plus HOFS (R94). -/
def trackSource (s : State) (k : Nat) : State :=
  let (p, s) := roundWord s (srcNow s k)
  trackHwm s (p + s.rd E.hofs 0)

/-- R87 after an edge or sample of source k: it counts only while k is the active source. -/
def sourceMoved (s : State) (k : Nat) : State :=
  if s.obs.active = k then trackSource { s with obs := { s.obs with fresh := true } } k else s

/-! ### Encoders -/

/-- An encoder source is lost: it is not valid until R90, and ENC_LOSS is sent (R89). -/
def loseEncoder (s : State) (n : Nat) : State :=
  let s := s.setEnc n { s.enc n with valid := false, run := 0, illegal := [] }
  let s := if s.obs.active = n then { s with obs := { s.obs with lost := true } } else s
  posReport s 2

/-- The counts of an accepted transition of the filtered lines on which A goes from a to a' and B stands at b', before
ENC_DIR (R63). Which direction of rotation, and which level of B, counts up is not stated (log entry 8). -/
def edgeCounts (mode : Nat) (a a' b' : Bool) : Int :=
  let lead := if a != a' then a' != b' else a' == b'
  let quad : Int := if lead == Config.quadPolarity then 1 else -1
  match mode with
  | 1 => quad
  | 2 => if !a && a' then quad else 0
  | 3 => if !a && a' then (if b' == Config.stepPolarity then 1 else -1) else 0
  | _ => 0

/-- An illegal transition of a quadrature encoder: counted and reported, and a loss when it is the fourth within 1 ms
(R66, R89) and the medium moves (R78; log entry 55). -/
def illegalEdge (s : State) (n : Nat) (t : Nat) : State :=
  let x := s.enc n
  let four := match x.illegal[(2 : Nat)]? with
    | some first => decide (sdiff48 t first < 800000)
    | none => false
  let s := s.setEnc n { x with run := 0, illegal := (t :: x.illegal).take 3 }
  let s := posReport (s.count E.encErrors n) 1
  if four && encValid s n && !stopped s then loseEncoder s n else s

/-- An accepted edge: counted, timestamped, and a step toward validity (R63, R67, R68, R90). -/
def acceptedEdge (s : State) (n : Nat) (a b : Bool) (t : Nat) : State :=
  let x := s.enc n
  let d := edgeCounts (s.rdN E.encMode n) x.a a b
  let d := if s.rd E.encDir n = 1 then -d else d
  let run := min 16 (x.run + 1)
  let s := s.setEnc n { x with a := a, b := b, run := run, valid := x.valid || run == 16 }
  let s := s.wr E.encCount (signed 48 (wrap48 (s.rd E.encCount n + d))) n
  let s := s.wr E.encLastTs t n
  sourceMoved (if n < 3 then lineEdge s n t else s) n

/-- ENCODER_EDGE: the lines of encoder n are at new levels from TIME t at the ball. A pulse shorter than ENC_FILTER
never reaches the decoder (R65); the timestamp is that of the ball, the filter delay taken off (R65, R68). -/
def encoderEdgeAct (n : Nat) (a b : Bool) (held t : Nat) (s : State) : State :=
  let x := s.enc n
  let mode := s.rdN E.encMode n
  if !s.domOn 10 || (a == x.a && b == x.b) then s
  else if held < s.rdN E.encFilter n then s
  else if mode = 0 then s.setEnc n { x with a := a, b := b }
  else if a != x.a && b != x.b && mode != 3 then
    let s := illegalEdge s n t
    s.setEnc n { s.enc n with a := a, b := b }
  else acceptedEdge s n a b t

/-- ENCODER_EDGE (R63 to R68, R87, R89, R90). -/
def execEncoderEdge (n : Fin 4) (a b : Bool) (held t : Nat) (s : State) : Host.Outcome State Fault Refusal :=
  .next (encoderEdgeAct n a b held t s)

/-- ENC_TIMEOUT: a valid encoder shows no edge for ENC_TIMEOUT while the medium moves (R89); not while it is stopped
(R78). -/
def execEncTimeout (n : Fin 4) (s : State) : Host.Outcome State Fault Refusal :=
  .next (if s.domOn 10 && encValid s n && !stopped s then loseEncoder s n else s)

/-! ### Triggers -/

/-- A trigger edge of the selected polarity is recorded, or held off (R79, R80): the position of an accepted edge, and the
state. -/
def acceptTrigger (n : Nat) (rising : Bool) (t : Nat) (s : State) : Option Nat × State :=
  let s := s.setTrig n { s.trig n with level := rising }
  let sel := s.rd E.trigEdge n
  if !s.domOn 10 || sel == 0 || (sel == 1) != rising then (none, s)
  else
    let (p, s) := roundWord s ((s.rd E.posEst : Rat) + ahead s t)
    let pos := wrap48 p
    let x := s.trig n
    if x.seen && decide (sdiff48 pos (s.rd E.trigLastPos n) < s.rd E.trigHoldoff n) then (none, s.count E.trigReject n)
    else (some pos, ((s.wr E.trigLastTs t n).wr E.trigLastPos pos n).setTrig n { x with seen := true })

/-- An accepted edge defines a page start, which is queued four deep (R81). -/
def queueTrigger (n pos : Nat) (s : State) : State :=
  let x := s.trig n
  if 4 ≤ x.queue.length then posReport s 7
  else
    let q := x.queue ++ [wrap48 (pos + s.rd E.trigOffset n)]
    (s.setTrig n { x with queue := q }).wr E.trigQueued q.length n

/-! ### The ring source -/

/-- RING_POS_SAMPLE: a POSITION frame from RING_POS_NODE with a newer SEQ is consumed, its STIME converted to local
TIME (R69, R436). -/
def ringPosAct (node seq pos : Nat) (vel : Int) (stime : Nat) (s : State) : State :=
  let newer := match s.ringPos.seq with
    | none => true
    | some q => decide (0 < signed 16 (unsigned 16 ((seq : Int) - q)))
  if !s.domOn 10 || node != s.rdN E.ringPosNode || !newer || !ringTimeValid s then s
  else
    let r : RingPosSt :=
      { valid := true, seq := some seq, pos := pos, vel := vel, time := localTime56 s (stime * 256) / 256 }
    sourceMoved { s with ringPos := r } 4

/-- RING_POS_SAMPLE (R69, R87, R436). -/
def execRingPosSample (node seq pos : Nat) (vel : Int) (stime : Nat) (s : State) :
    Host.Outcome State Fault Refusal :=
  .next (ringPosAct node seq pos vel stime s)

/-- The observer has no source and coast is impossible: NO_SOURCE is sent once, and SRC_ACTIVE reads 7 (R98; log
entry 9). -/
def enterNoSource (s : State) : State :=
  if s.obs.active = 7 then s
  else
    let before := if s.obs.active < 5 then s.obs.active else s.obs.before
    posReport ({ s with obs := { s.obs with active := 7, before := before, lost := false } }.wr E.coastElapsed 0) 9

/-- No source is valid and v0 is below ENC_VMIN (R98, second case). -/
def nothingToFollow (s : State) : Bool := !anyValid s && stopped s

/-- RING_POS_STALE: the ring source is lost (R71, R98). -/
def ringStaleAct (s : State) : State :=
  if !s.domOn 10 || !s.ringPos.valid then s
  else
    let s := { s with ringPos := { s.ringPos with valid := false } }
    let s := posReport s 8
    let s := if s.obs.active = 4 then { s with obs := { s.obs with lost := true } } else s
    if nothingToFollow s then enterNoSource s else s

/-- RING_POS_STALE (R71). -/
def execRingPosStale (s : State) : Host.Outcome State Fault Refusal := .next (ringStaleAct s)

/-- The 24-byte payload of a POSITION frame (R434). -/
def positionPayload (s : State) : List Byte :=
  toBytes 6 (s.rdN E.posEst) ++ toBytes 6 (unsigned 48 (s.rd E.velEst)) ++
    toBytes 6 (ringTime56 s (s.rdN E.sampleTime * 256) / 256) ++
    toBytes 1 (flag (s.obs.active == 6) 7 + flag (s.rd E.hofs 0 != 0) 6 + flag s.obs.reverse 5) ++ toBytes 5 0

/-- RING_POS_PUBLISH: the observer output is broadcast on both rings, while the address is assigned and RT_STATE is
locked, holdover or root (R72, R435). -/
def publishAct (s : State) : State :=
  if s.domOn 10 && s.rd E.ringPosPublish == 1 && assigned s && ringTimeValid s then
    let (q, s) := nextSeq s 6
    sendBoth s 6 0xFFFF q (positionPayload s)
  else s

/-- RING_POS_PUBLISH (R72, R434, R435). -/
def execRingPosPublish (s : State) : Host.Outcome State Fault Refusal := .next (publishAct s)

/-- COAST_LIMIT: coast has lasted COAST_MAX (R96), said once in a coast. -/
def execCoastLimit (s : State) : Host.Outcome State Fault Refusal :=
  .next (if s.domOn 10 && s.obs.active == 6 && !s.obs.limited && s.rd E.coastMax != 0 then
    posReport { s with obs := { s.obs with limited := true } } 6 else s)

/-! ### Writes that choose sources -/

/-- CHANGEOVER: hand over to the other configured source at the next sample, or refuse when it is not valid (R92,
R97). -/
def changeoverAct (s : State) : Nat × State :=
  let k := otherSource s (if s.obs.active < 5 then s.obs.active else s.obs.before)
  if srcValid s k then (okCode, { s with obs := { s.obs with change := some k } }) else (codeSource, s)

/-- CHANGEOVER (R97). -/
def execChangeover (port : Port) (v : Nat) (s : State) : Host.Outcome State Fault Refusal :=
  .next (writeAs s port noTarget E.changeover 0 0 v changeoverAct)

/-- A write of SRC_PRIMARY: when it names another source than the active one, the observer hands over once that source
is valid (R617). -/
def srcPrimaryAct (v : Nat) (s : State) : Nat × State :=
  let s := s.wr E.srcPrimary v
  (okCode, { s with obs := { s.obs with primary := if v = s.obs.active then none else some v } })

/-- SRC_PRIMARY_WRITE (R617). -/
def execSrcPrimaryWrite (port : Port) (v : Nat) (s : State) : Host.Outcome State Fault Refusal :=
  .next (writeAs s port noTarget E.srcPrimary 0 0 v (srcPrimaryAct v))

/-- A write of SRC_SECONDARY changes only the source that R91 and R95 may take (R617). -/
def srcSecondaryAct (v : Nat) (s : State) : Nat × State := (okCode, s.wr E.srcSecondary v)

/-- SRC_SECONDARY_WRITE (R617). -/
def execSrcSecondaryWrite (port : Port) (v : Nat) (s : State) : Host.Outcome State Fault Refusal :=
  .next (writeAs s port noTarget E.srcSecondary 0 0 v (srcSecondaryAct v))

/-- The entry of an encoder setting. -/
def encRow : EncField → Row
  | .mode => E.encMode
  | .dir => E.encDir
  | .filter => E.encFilter

/-- A change of an encoder setting makes the encoder not valid, with no ENC_LOSS; when it is active, the source is
lost (R617). -/
def encConfigAct (n : Nat) (f : EncField) (v : Nat) (s : State) : Nat × State :=
  if s.rd (encRow f) n = v then (okCode, s)
  else
    let s := s.wr (encRow f) v n
    let s := s.setEnc n { s.enc n with valid := false, run := 0, illegal := [] }
    (okCode, if s.obs.active = n then { s with obs := { s.obs with lost := true } } else s)

/-- ENC_CONFIG_WRITE (R617). -/
def execEncConfigWrite (port : Port) (n : Fin 4) (f : EncField) (v : Nat) (s : State) :
    Host.Outcome State Fault Refusal :=
  .next (writeAs s port noTarget (encRow f) n 0 v (encConfigAct n f v))

/-- A change of RING_POS_NODE makes the ring source not valid until a sample of the new node (R617). -/
def ringPosNodeAct (v : Nat) (s : State) : Nat × State :=
  if s.rd E.ringPosNode = v then (okCode, s)
  else
    let s := { s.wr E.ringPosNode v with ringPos := {} }
    (okCode, if s.obs.active = 4 then { s with obs := { s.obs with lost := true } } else s)

/-- RING_POS_NODE_WRITE (R617). -/
def execRingPosNodeWrite (port : Port) (v : Nat) (s : State) : Host.Outcome State Fault Refusal :=
  .next (writeAs s port noTarget E.ringPosNode 0 0 v (ringPosNodeAct v))

end Sys2Proof.Machine
end

