-- ==== Sys2Proof/Machine/Observer.lean ====
section
/-!
DEFINITION. The position observer, loop 0 of the Lathe: the choice of its source, bumpless handover, coast, the sample
itself, and overspeed as each new triple shows it (R76, R77, R91 to R95, R98, R101, R273, R282, R284).
-/
namespace Sys2Proof.Machine

/-- What the observer does with its source at a sample: stay, or go to source 0 to 4, coast (6) or none (7). -/
def nextSource (s : State) : Option Nat :=
  let o := s.obs
  let auto := s.rd E.autoChange == 1
  let fallback : Option Nat :=
    if o.active < 5 then
      let k := otherSource s o.active
      if !o.lost && srcValid s o.active then none
      else if auto && srcValid s k && k != o.active then some k
      else if coastPossible s then some 6
      else some 7
    else
      let k := otherSource s o.before
      if srcValid s o.before then some o.before
      else if auto && srcValid s k then some k
      else if o.active = 6 ∧ coastPossible s = false then some 7
      else none
  let ready (k : Option Nat) : Option Nat := k.filter (fun k => srcValid s k && k != o.active)
  match ready o.primary, ready o.change with
  | some k, _ => some k
  | none, some k => some k
  | none, none => fallback

/-- The position given to the observer by source k, less the internal position x: the ring source is extrapolated to
t0, and a position held at HWM inside the backlash window is given as HWM (R70, R76, R87, R94). -/
def sourceOffset (s : State) (k : Nat) : Rat :=
  let base : Rat :=
    if k < 4 then (sdiff48 (srcPos s k) s.obs.x : Rat)
    else wrapDiff (ringPosAt s s.time - (s.obs.x : Rat))
  let b := wrapDiff ((s.rd E.hwm : Rat) - (s.rd E.hofs 0 : Rat) - srcNow s k)
  if s.obs.active = k ∧ 0 < b ∧ b ≤ (backlash s : Rat) then base + b else base

/-- The age dt of the source's latest edge at t0, in us; 0 for a ring sample (R273). -/
def sourceLag (s : State) (k : Nat) : Rat := if k < 4 then usBetween (srcTime s k) s.time else 0

/-- HANDOVER_SLEW of loop 0 (0x2160.03). -/
def handoverSlew0 (s : State) : Int := s.rd E.handoverSlew

/-- Deliver a sample: HOFS moves toward 0 except in a switching sample, the output never moves back while HOFS is not
0, and the triple is written with t0 (R273, R94, R77). -/
def deliverTriple (s : State) (x v a hofs : Int) (switching : Bool) : State :=
  let prev := s.rd E.posEst
  let h := if switching then hofs else stepToward hofs 0 (handoverSlew0 s)
  let back := h != 0 && decide (sdiff48 (x + h) prev < 0)
  let x0 := if back then prev else (wrap48 (x + h) : Int)
  let h := if back then sdiff48 prev x else h
  let s := { s with obs := { s.obs with x := signed 48 (unsigned 48 x), fresh := false } }
  let s := ((s.wr E.posEst x0).wr E.output (signed 48 x0.toNat) 0).wr E.velEst (clampInt wordMin wordMax v)
  ((s.wr E.accEst (clampInt wordMin wordMax a)).wr E.sampleTime s.time).wr E.hofs h 0

/-- The words nearest to x, v and a given as offset from the internal position, POS units per us and per us^2. -/
def tripleWords (s : State) (dx v a : Rat) : Int × Int × Int × State :=
  let (x, s) := roundWord s dx
  let (v, s) := roundWord s (v * 2 ^ 24)
  let (a, s) := roundWord s (a * 2 ^ 40)
  (s.obs.x + x, v, a, s)

/-- The chain of loop 0 on an innovation (R273). -/
def innovate (s : State) (raw : Rat) : Int × State :=
  let (e0, s) := roundWord s raw
  let b := (s.loop 0).chainB
  let n := chainLen s 0 b
  let s := latheWork s n
  let y1 := s.rd E.y1 0
  let y2 := s.rd E.y2 0
  let (s, e, sat) := runChain (s.rd E.stateLim 0) y1 y2 n (chainFirst s 0 b) e0 s
  let s := noteSaturation s 0 sat
  (e, (s.wr E.y2 y1 0).wr E.y1 (clampInt (-(s.rd E.stateLim 0)) (s.rd E.stateLim 0) e) 0)

/-- A sample that follows the present source, coasts, or has none (R273); `switching` on the entry to coast, where HOFS does
not change (R284). -/
def plainSample (s : State) (switching : Bool := false) : State :=
  let v := vel0 s
  let a := acc0 s
  let dxp := v + a / 2
  let vp := v + a
  let coast := s.obs.active == 6
  let k := s.obs.active
  let (e, s) :=
    if 5 ≤ k ∨ !s.obs.fresh then ((0 : Int), s)
    else
      let dt := sourceLag s k
      innovate s (sourceOffset s k - (dxp + vp * dt + a * dt * dt / 2))
  let kx := (s.rd E.kx : Rat) / 2 ^ 40
  let kv := (s.rd E.kv : Rat) / 2 ^ 40
  let ka := (s.rd E.ka : Rat) / 2 ^ 40
  let a := a + ka * (e : Rat)
  let a := if coast then a * 999 / 1000 else a
  let (x, v, a, s) := tripleWords s (dxp + kx * (e : Rat)) (vp + kv * (e : Rat)) a
  deliverTriple s x v a (s.rd E.hofs 0) switching

/-- After a switching sample, a difference above HANDOVER_TOL is reported; the switch stands (R93, R285). -/
def reportGap (s : State) : State := if s.rd E.handoverTol < |s.rd E.hofs 0| then posReport s 5 else s

/-- The switching sample to source k: x takes the incoming position extrapolated to t0, HOFS takes up the difference,
the chain is swapped when k is not the source it last served, and its history is cleared (R92, R93, R282, R284). -/
def switchSample (s : State) (k : Nat) : State :=
  let v := vel0 s
  let a := acc0 s
  let (xp, s) := roundWord s (v + a / 2)
  let (p, s) := roundWord s (sourceOffset s k - (v + a) * sourceLag s k)
  let (_, vw, aw, s) := tripleWords s 0 (v + a) a
  let hofs := signed 48 (unsigned 48 (s.rd E.hofs 0 + xp - p))
  let l := s.loop 0
  let b := if k = s.obs.chainSrc then l.chainB else !l.chainB
  let s := s.setLoop 0 { l with chainB := b }
  let s := setHistory 0 (chainLen s 0 b) (chainFirst s 0 b) s
  let s := (s.wr E.y1 0 0).wr E.y2 0 0
  let o := s.obs
  let primary := if o.primary = some k then none else o.primary
  let s := { s with obs := { o with active := k, chainSrc := k, lost := false, change := none, primary := primary } }
  reportGap (deliverTriple (s.wr E.coastElapsed 0) (s.obs.x + p) vw aw hofs true)

/-- The observer enters coast with its own state; the chains are not swapped and HOFS stays (R91 to R93, R282, R284). -/
def enterCoast (s : State) : State :=
  let o := s.obs
  let before := if o.active < 5 then o.active else o.before
  let s := { s with obs := { o with active := 6, before := before, lost := false, limited := false } }
  reportGap (plainSample (s.wr E.coastElapsed 0) true)

/-- A handover that LOOP_CMD asked of loop 0: its chains are swapped and the chain that is then active starts afresh
(R281, R282, R284). -/
def swapObserver (s : State) : State :=
  let l := s.loop 0
  let b := !l.chainB
  let s := s.setLoop 0 { l with chainB := b }
  let s := setHistory 0 (chainLen s 0 b) (chainFirst s 0 b) s
  (s.wr E.y1 0 0).wr E.y2 0 0

/-- The sample of loop 0 that its source choice asks for. -/
def sampleWith (s : State) : State :=
  let asked := handoverDue s 0
  let s := takeHandover s 0
  let s := if asked then swapObserver s else s
  match nextSource s with
  | some 6 => enterCoast s
  | some 7 => plainSample (enterNoSource s)
  | some k => switchSample s k
  | none =>
    let s := { s with obs := { s.obs with change := none } }
    if asked && decide (s.obs.active < 5) then switchSample s s.obs.active
    else plainSample (if s.obs.active = 6 then s.count E.coastElapsed else s)

/-- A channel's overspeed as the new triple shows it; OVERSPEED is sent when the channel enters it (R100 to R102). A channel on
a fixed delay has no solved instants (R582). -/
def checkOverspeed (s : State) (c : Nat) : State :=
  let x := s.chan c
  let now := match solveNext s c with
    | some r => r.fast && enabledCh s c
    | none => false
  if fixedDelay s c ∨ now = x.inOver then s
  else
    let s := s.setChan c { x with inOver := now }
    if now then posReport s 4 else s

/-- While a channel is in overspeed the speed request is the governor's floor, without a ramp (R101, R225). -/
def overspeedFloor (s : State) : State :=
  if overspeed s && s.busyJob then
    ((s.wr E.speedReq s.gov.floor).wr E.output (s.gov.floor * 2 ^ 16 : Nat) 1).wr E.limiter 4
  else s

/-- The channels that stand in a page. -/
def channelsInPage (s : State) : List Nat := (s.chans.filter (fun x => x.2.inPage)).map Prod.fst

/-- The corrected position after a sample: R87 applies to it while the active source is a source. In coast and with no source
there is no source position, and HELD and REVERSE stay as they are (DESIGN CHOICE, log entry 58, unsafe). -/
def trackAfterSample (s : State) : State :=
  if s.obs.active < 5 ∧ srcValid s s.obs.active then trackSource s s.obs.active else s

/-- OBSERVER_SAMPLE: loop 0's sample, or its hold (R267, R273), then what the new triple means for R87 and R101. -/
def observerAct (s : State) : State :=
  if !s.domOn 10 then s
  else if loopHeld s 0 then holdSample s 0
  else
    let l := s.loop 0
    let s := s.setLoop 0 { l with heldLast := false, saturated := false }
    let s := trackAfterSample (sampleWith s)
    let s := logSample s 0 false (s.rd E.posEst)
    overspeedFloor ((channelsInPage s).foldl checkOverspeed s)

/-- OBSERVER_SAMPLE (R76, R91 to R95, R98, R101, R273, R284). -/
def execObserverSample (s : State) : Host.Outcome State Fault Refusal := .next (observerAct s)

end Sys2Proof.Machine
end

