-- ==== Sys2Proof/Machine/Sram.lean ====
section
/-!
DEFINITION. The staging SRAM as every master sees it (R334, R335, R339).
-/
namespace Sys2Proof.Machine

/-- An internal address of the staging SRAM (R334). -/
def inSram (a n : Nat) : Bool := decide (sramBase ≤ a ∧ a + n ≤ sramBase + sramSize)

/-- The 64-bit words that n bytes from an address lie in. -/
def sramWords (a n : Nat) : List Nat :=
  let first := (a - sramBase) / 8
  if n = 0 then [] else (List.range ((a + n - 1 - sramBase) / 8 + 1 - first)).map (· + first)

/-- A word is covered whole by n bytes from an address. -/
def sramWhole (a n w : Nat) : Bool := decide (a ≤ sramBase + 8 * w ∧ sramBase + 8 * w + 8 ≤ a + n)

/-- A read of words and what it found (R339): the first one is the one that an error names. The address of the messages is not
stated: they carry 0 (R490). -/
def sramRead (s : State) (words : List Nat) (ecc : EccResult) : State :=
  match words with
  | [] => s
  | first :: _ =>
    if ecc = .uncorrectable ∨ words.any s.memory.badSram.contains then
      let s := if words.any s.memory.badSram.contains then s
        else { s with memory := { s.memory with badSram := first :: s.memory.badSram } }
      (s.count E.sramUeCount).report 0xC0 2 0
    else if ecc = .corrected then (s.count E.sramCeCount).report 0xC0 1 0
    else s

/-- A read of n bytes of the staging SRAM and what it found (R339). -/
def sramEcc (s : State) (a n : Nat) (ecc : EccResult) : State := sramRead s (sramWords a n) ecc

/-- Bytes written into the staging SRAM. A word that is covered in part is read first: one that is uncorrectable is left as
stored. A word that is covered whole becomes good again (R335, R339). -/
def sramPut (s : State) (a : Nat) (data : List Byte) (ecc : EccResult := .good) : State :=
  let n := data.length
  let words := sramWords a n
  let part := words.filter (fun w => !sramWhole a n w)
  let s := sramRead s part ecc
  let bad (w : Option Nat) : Bool := w.any (fun w => part.contains w && s.memory.badSram.contains w)
  let lo := if bad words.head? then min n (sramBase + 8 * (words.headD 0 + 1) - a) else 0
  let hi := if bad words.getLast? then a + n - (sramBase + 8 * words.getLastD 0) else 0
  let s := s.setBytes (a + lo) ((data.drop lo).take (n - lo - hi))
  { s with memory := { s.memory with badSram := s.memory.badSram.filter (fun w => !sramWhole a n w) } }

end Sys2Proof.Machine
end

