-- ==== Sys2Proof/Machine/Lathe.lean ====
section
/-!
DEFINITION. The Lathe's commands: samples, the log, handovers and holds, enables, chain and section writes (R261, R263,
R266 to R272, R277, R279 to R282, R286, R290).
-/
namespace Sys2Proof.Machine

/-! ### Samples -/

/-- The chain that a triggered sample reads, chain B if true: a held or forced sample evaluates none (R265, R267, R268), a
switching sample the incoming one (R283). -/
def chainRead (s : State) (l : Nat) : Option Bool :=
  if loopHeld s l then none
  else if l = 0 then some (s.loop l).chainB
  else if (forceValue s l).isSome || ampHold s l then none
  else some ((s.loop l).chainB != switchesNow s l)

/-- A slot lies in the chain that the sample reads. -/
def slotRead (s : State) (l slot : Nat) : Bool :=
  match chainRead s l with
  | none => false
  | some b => decide (chainFirst s l b ≤ slot ∧ slot < chainFirst s l b + chainLen s l b)

/-- A read of a section finds an error (R263): only slots of the chain that the sample reads are read. -/
def sectionEcc (s : State) (l slot : Nat) (ecc : EccResult) : State :=
  if !slotRead s l slot then s
  else match ecc with
    | .good => s
    | .corrected => latheReport s 4 l slot
    | .uncorrectable =>
      latheReport (s.setLoop l { s.loop l with eccHold := some slot, rewritten := false, eccCleared := false }) 5 l slot

/-- The fire of the cycle that a fire-cycle loop belongs to (R266). -/
def cycleOf (s : State) (l : Nat) : Option Nat := (s.chan (s.rdN E.trigCh l)).cycle.map Cycle.fire

/-- A sample's place in the order of R278: class, trigger, loop number. -/
def Waiting.before (a b : Waiting) : Bool :=
  decide (a.cls < b.cls) || (a.cls == b.cls && (decide (a.at_ < b.at_) || (a.at_ == b.at_ && decide (a.loop < b.loop))))

/-- A sample put into its place. -/
def putWaiting (w : Waiting) : List Waiting → List Waiting
  | [] => [w]
  | x :: r => if w.before x then w :: x :: r else x :: putWaiting w r

/-- The section engine is free to start a sample in this TICK: four sections take a TICK (R277). -/
def latheFree (s : State) : Bool := decide (s.lathe.busy < 4)

/-- A sample starts; the moment of its trigger stays. -/
def startWaiting (s : State) (w : Waiting) : State :=
  let at_ := (s.loop w.loop).sampledAt
  let s := sampleLoop w.loop (sectionEcc s w.loop w.slot w.ecc)
  s.setLoop w.loop { s.loop w.loop with sampledAt := at_ }

/-- A trigger of a loop: dropped while the loop's previous sample has not started (R279); otherwise the sample starts when the
engine is free and none that is served before it waits, or it waits for its turn (R278). -/
def trigger (s : State) (w : Waiting) (at_ : Nat) : State :=
  if s.lathe.waiting.any (fun x => x.loop == w.loop) then latheReport (s.count E.overruns) 2 w.loop 0
  else
    let s := s.setLoop w.loop { s.loop w.loop with sampledAt := some at_ }
    if latheFree s && !s.lathe.waiting.any (fun x => x.before w) then startWaiting s w
    else { s with lathe := { s.lathe with waiting := putWaiting w s.lathe.waiting } }

/-- LOOP_SAMPLE: loop l is triggered. A fire-cycle loop is triggered once in a cycle; a second trigger in one TICK is dropped,
except where the first was that of the round it belongs to (R266, R279). Loop 0 is served at once (R278). -/
def loopSampleAct (l : Nat) (ecc : EccResult) (slot : Nat) (s : State) : State :=
  if !s.domOn 10 then s
  else if l = 0 then observerAct (sectionEcc s 0 slot ecc)
  else if s.rd E.loopEn l != 1 then s
  else if s.rd E.trigKind l = 2 then
    match cycleOf s l with
    | none => s
    | some f => if (s.loop l).sampledAt = some f then s else trigger s ⟨1, s.tick, l, ecc, slot⟩ f
  else if s.rd E.trigKind l = 0 then s
  else if (s.loop l).sampledAt = some s.tick then
    if l = 1 ∨ (98 ≤ l ∧ l < 194) then s else latheReport (s.count E.overruns) 2 l 0
  else trigger s ⟨2, s.tick, l, ecc, slot⟩ s.tick

/-- Samples that wait start while the engine is free, at most n of them (R278). -/
def serveLathe : Nat → State → State
  | 0, s => s
  | n + 1, s =>
    match s.lathe.waiting with
    | [] => s
    | w :: r =>
      if latheFree s then serveLathe n (startWaiting { s with lathe := { s.lathe with waiting := r } } w) else s

/-- A TICK of the section engine: it has evaluated four sections (R277). -/
def latheTick (s : State) : State :=
  let s := { s with lathe := { s.lathe with busy := s.lathe.busy - 4 } }
  serveLathe s.lathe.waiting.length s

/-- LOOP_SAMPLE (R260, R263, R265 to R268, R279, R283). -/
def execLoopSample (l : LoopId) (ecc : EccResult) (slot : Slot) (s : State) : Host.Outcome State Fault Refusal :=
  .next (loopSampleAct l ecc slot s)

/-! ### The log -/

/-- LOG_WRITE: the oldest queued record is written at LOG_BASE + LOG_WR. A page that is not mapped, or a staging SRAM
that is not ready, drops it, clears LOG_EN and is reported (R290, R338). A request that memory does not accept yet leaves the
record in the queue (R301, R329; DEDUCED, log entry 31). -/
def logWriteAct (s : State) : State :=
  match s.logQ with
  | [] => s
  | r :: rest =>
    let a := s.rdN E.logBase + s.rdN E.logWr
    let met := if inSram a 16 then (if s.domState 11 = 2 then .at_ a else .refused) else reachAll s a 16
    if met = .silent then s
    else if met ≠ .refused then
      let s := { s with logQ := rest }
      let s := if inSram a 16 then sramPut s a r else logicalWrite s a r
      s.wr E.logWr ((s.rd E.logWr + 16) % s.rd E.logSize)
    else
      let s := { s with logQ := rest }
      latheReport (s.wr E.logEn 0).stale 7 0 0

/-- LOG_WRITE (R289, R290). -/
def execLogWrite (s : State) : Host.Outcome State Fault Refusal := .next (logWriteAct s)

/-- A write of LOG_EN: 1 needs an aligned buffer that lies wholly in the DRAM logical space or the staging SRAM
(R290). -/
def logEnAct (v : Nat) (s : State) : Nat × State :=
  let a := s.rdN E.logBase
  let n := s.rdN E.logSize
  if v = 1 ∧ (a % 16 ≠ 0 ∨ ¬(a + n ≤ logicalSize ∨ inSram a n = true)) then (codeRange, s)
  else (okCode, s.wr E.logEn v)

/-- LOG_EN_WRITE (R290). -/
def execLogEnWrite (port : Port) (v : Nat) (s : State) : Host.Outcome State Fault Refusal :=
  .next (writeAs s port noTarget E.logEn 0 0 v (logEnAct v))

/-! ### LOOP_CMD -/

/-- LOOP_CMD 1: a handover at the loop's next sample; two in one TICK cancel; heater loops refuse it (R275, R282,
R286). -/
def handoverAct (l : Nat) (s : State) : Nat × State :=
  if 98 ≤ l ∧ l < 194 then (codeRange, s)
  else (okCode, s.setLoop l ((s.loop l).ask s.tick))

/-- LOOP_HANDOVER (R282, R286). -/
def execLoopHandover (port : Port) (l : LoopId) (s : State) : Host.Outcome State Fault Refusal :=
  .next (writeAs s port (.loop l) E.loopCmd l 0 1 (handoverAct l))

/-- LOOP_CMD 2 and 3 (R267). -/
def holdAct (l : Nat) (h : Bool) (s : State) : Nat × State := (okCode, s.setLoop l { s.loop l with cmdHold := h })

/-- LOOP_HOLD (R267). -/
def execLoopHold (port : Port) (l : LoopId) (s : State) : Host.Outcome State Fault Refusal :=
  .next (writeAs s port (.loop l) E.loopCmd l 0 2 (holdAct l true))

/-- LOOP_RELEASE (R267). -/
def execLoopRelease (port : Port) (l : LoopId) (s : State) : Host.Outcome State Fault Refusal :=
  .next (writeAs s port (.loop l) E.loopCmd l 0 3 (holdAct l false))

/-- A write of LOOP_CMD (R293). -/
def loopCmdAct (l v : Nat) (s : State) : Nat × State := if v = 1 then handoverAct l s else holdAct l (v == 2) s

/-! ### Chains and enables -/

/-- The slots of a chain: first, one past the last. -/
def chainSlots (s : State) (l : Nat) (b : Bool) : Nat × Nat :=
  (chainFirst s l b, chainFirst s l b + chainLen s l b)

/-- Two runs of slots overlap. -/
def overlaps (a b : Nat × Nat) : Bool := decide (a.1 < a.2 ∧ b.1 < b.2 ∧ a.1 < b.2 ∧ b.1 < a.2)

/-- The load of an enabled loop in sections per second (R277). -/
def loopLoad (s : State) (l : Nat) : Rat :=
  let n : Rat := max (chainLen s l false) (chainLen s l true)
  let k := s.rd E.trigKind l
  if k = 1 then n * 25000000 / s.rdN E.trigDiv l else if k = 2 then n * s.rdN E.maxFireRate else 0

/-- The loops that are enabled. -/
def enabledLoops (s : State) : List Nat := (List.range 240).filter (fun l => s.rd E.loopEn l == 1)

/-- LATHE_LOAD in sections per second (R277). -/
def latheLoad (s : State) : Rat := ((enabledLoops s).map (loopLoad s)).sum

/-- The checks of R270 that chains of a loop must pass for it to be enabled, as the entries stand. -/
def chainsValid (s : State) (l : Nat) : Bool :=
  let a := chainSlots s l false
  let b := chainSlots s l true
  !overlaps a b && decide (a.1 = a.2 ∨ a.2 ≤ 2048) && decide (b.1 = b.2 ∨ b.2 ≤ 2048) &&
    (enabledLoops s).all (fun m => m == l ||
      [chainSlots s m false, chainSlots s m true].all (fun c => !overlaps a c && !overlaps b c)) &&
    decide (latheLoad (s.wr E.loopEn 1 l) ≤ s.rdN E.latheLoadMax * 1000)

/-- A write of LOOP_EN (R270, R272, R288). -/
def loopEnAct (l v : Nat) (s : State) : Nat × State :=
  if 2 ≤ l ∧ l < 98 ∧ s.busyJob then (codeState, s)
  else if v = 0 then
    let s := s.wr E.loopEn 0 l
    (okCode, if 2 ≤ l ∧ l < 98 then ampSettings s (l - 2) else s)
  else if s.rd E.loopEn l = 1 then (okCode, s)
  else if !chainsValid s l then (codeRange, s)
  else
    let s := s.wr E.loopEn 1 l
    (okCode, s.wr E.refNow (sourceValue s l (chainSource s l (s.loop l).chainB)) l)

/-- LOOP_EN_WRITE (R270, R272, R288). -/
def execLoopEnWrite (port : Port) (l : LoopId) (v : Nat) (s : State) : Host.Outcome State Fault Refusal :=
  .next (writeAs s port (.loop l) E.loopEn l 0 v (loopEnAct l v))

/-- A write of FIRST or LEN (R270): free while the loop is disabled; of a loop that is always enabled, only the idle
chain, and only to a run that an enable would take. -/
def chainWriteAct (r : Row) (l v : Nat) (s : State) : Nat × State :=
  let t := s.wr r v l
  if s.rd E.loopEn l = 0 then (okCode, t)
  else
    let ofB := r.k0 == E.firstB.k0 || r.k0 == E.lenB.k0
    if ofB == (s.loop l).chainB then (codeState, s)
    else if chainsValid t l then (okCode, t) else (codeRange, s)

/-- A source code that a free loop may take (R269). -/
def sourceAllowed (l k : Nat) : Bool :=
  k == 0 || decide (0x200 ≤ k ∧ k < 0x260) || decide (0x300 ≤ k ∧ k < 0x360) ||
    (decide (0x600 ≤ k ∧ k < 0x6F0) && k != 0x600 + l) || k == 0x700

/-- A write of SRC or SINK of a free loop (R269). -/
def sourceWriteAct (r : Row) (l v : Nat) (s : State) : Nat × State :=
  if (r.k0 == E.sink.k0 && v == 0) || (r.k0 != E.sink.k0 && sourceAllowed l v) then (okCode, s.wr r v l)
  else (codeRange, s)

/-- A write of OUT_MIN or OUT_MAX (R293). -/
def limitWriteAct (r : Row) (l : Nat) (v : Int) (s : State) : Nat × State :=
  let ok := if r.k0 = E.outMin.k0 then v ≤ s.rd E.outMax l else s.rd E.outMin l ≤ v
  if ok then (okCode, s.wrHeld r v l) else (codeRange, s)

/-! ### Sections -/

/-- The 32 bytes of a section (R261). -/
def sectionBytes (c : Section) : List Byte :=
  toBytes 3 (unsigned 24 c.b0) ++ toBytes 3 (unsigned 24 c.b1) ++ toBytes 3 (unsigned 24 c.b2) ++
    toBytes 3 (unsigned 24 c.a1) ++ toBytes 3 (unsigned 24 c.a2) ++ toBytes 1 (c.shift * 16) ++ toBytes 4 0 ++
    toBytes 6 (unsigned 48 c.x1) ++ toBytes 6 (unsigned 48 c.x2)

/-- A field of a section out of its 32 bytes. -/
def sectionField (l : List Byte) (ofs n : Nat) : Int := signed (8 * n) (ofBytes ((l.drop ofs).take n))

/-- The section that 32 bytes spell (R261). -/
def sectionOf (l : List Byte) : Section :=
  ⟨sectionField l 0 3, sectionField l 3 3, sectionField l 6 3, sectionField l 9 3, sectionField l 12 3,
    ofBytes ((l.drop 15).take 1) / 16, sectionField l 20 6, sectionField l 26 6⟩

/-- A list with bytes laid over it from an offset. -/
def overlay (l : List Byte) (ofs : Nat) (data : List Byte) : List Byte :=
  l.take ofs ++ data ++ l.drop (ofs + data.length)

/-- A field of a section set by its subindex (R295). -/
def setField (c : Section) (sub : Nat) (v : Int) : Section :=
  match sub with
  | 1 => { c with b0 := v }
  | 2 => { c with b1 := v }
  | 3 => { c with b2 := v }
  | 4 => { c with a1 := v }
  | 5 => { c with a2 := v }
  | 6 => { c with shift := v.toNat }
  | 7 => { c with x1 := v }
  | 8 => { c with x2 := v }
  | _ => c

/-- A field of a section by its subindex. -/
def getField (c : Section) (sub : Nat) : Int :=
  match sub with
  | 1 => c.b0
  | 2 => c.b1
  | 3 => c.b2
  | 4 => c.a1
  | 5 => c.a2
  | 6 => c.shift
  | 7 => c.x1
  | 8 => c.x2
  | _ => 0

/-- The sticky bit of a fault source (0x7000 + s.12). -/
def stickySet (s : State) (src : Nat) : Bool := s.rd E.sticky src == 1

/-- A loop held for an uncorrectable section goes on once the slot has been rewritten whole and the sticky bit of 0xB0 has been
cleared (R263). -/
def releaseEcc (s : State) : State :=
  { s with loops := s.loops.map (fun x =>
    if x.2.rewritten && x.2.eccCleared then (x.1, { x.2 with eccHold := none, rewritten := false, eccCleared := false })
    else x) }

/-- A whole section write is noted for the loops that its slot holds (R263). -/
def noteRewrite (s : State) (k : Nat) : State :=
  releaseEcc { s with loops := s.loops.map (fun x =>
    if x.2.eccHold = some k then (x.1, { x.2 with rewritten := true }) else x) }

/-- The clear of the sticky bit of 0xB0 is noted for the loops that are held and whose message has been sampled (R263). -/
def noteCleared (s : State) : State :=
  releaseEcc { s with loops := s.loops.map (fun x =>
    if x.2.eccHold.isSome && !s.faultQ.any (fun m => m.src == 0xB0 && m.kind == 5 && m.addr / 2 ^ 40 == x.1) then
      (x.1, { x.2 with eccCleared := true }) else x) }

/-- A write of a section entry as bytes (R280, R295, R447, R453). No evaluation falls between two fields of one SECTION write
(DESIGN CHOICE, log entry 61, unsafe). -/
def sectionWriteAct (k sub ofs : Nat) (data : List Byte) (s : State) : Nat × State :=
  let c := s.sec k
  if sub = 9 then
    if 32 < ofs + data.length then (codeRange, s)
    else
      let s := s.setSec k (sectionOf (overlay (sectionBytes c) ofs data))
      (okCode, if ofs = 0 ∧ data.length = 32 then noteRewrite s k else s)
  else
    let n := if sub ≤ 5 then 4 else if sub = 6 then 1 else 6
    let v : Int := if sub = 6 then ofBytes data else signed (8 * n) (ofBytes data)
    if data.length ≠ n then (codeLength, s)
    else if (sub ≤ 5 ∧ ¬(-8388608 ≤ v ∧ v ≤ 8388607)) ∨ (sub = 6 ∧ 15 < v) then (codeRange, s)
    else (okCode, s.setSec k (setField c sub v))

/-- A write of a section entry: the checks of R449 that a section entry has, then the write. -/
def sectionCode (s : State) (k sub ofs : Nat) (data : List Byte) : Nat × State :=
  if s.superseded noTarget then (discardCode s, s)
  else if sub < 1 ∨ 9 < sub then (codeNoObject, s)
  else if !s.domOn 10 then (codePowered, s)
  else if s.dev == .boot then (codeState, s)
  else
    let x := sectionWriteAct k sub ofs data s
    if x.1 ≠ okCode then (x.1, s)
    else if s.store.storing.isSome then (codeBusy, s)
    else (okCode, x.2.stale)

/-- A section entry is written on a port. -/
def sectionWrite (s : State) (p : Port) (k sub ofs : Nat) (data : List Byte) : State :=
  if !portUp s p then s
  else let x := sectionCode s k sub ofs data; x.2.reply p x.1

/-- SECTION_WRITE (R261, R263, R280, R295). -/
def execSectionWrite (port : Port) (s : Slot) (sub ofs : Nat) (data : List Byte) (st : State) :
    Host.Outcome State Fault Refusal :=
  .next (sectionWrite st port s sub ofs data)

end Sys2Proof.Machine
end

