-- ==== Sys2Proof/Machine/Memory.lean ====
section
/-!
DEFINITION. The memory system: errors, ranks, migration, the map commands, power states, the staging SRAM port (R296 to
R342).
-/
namespace Sys2Proof.Machine

/-! ### Ranks -/

/-- The fault source of the DRAM channel of a rank (R340). -/
def rankSource (rank : Nat) : Nat := 0x70 + rank / 2

/-- The rank is in use: refreshed, scrubbed, read for MR4 (R303, R306, 0x6010.09). -/
def rankInUse (s : State) (rank : Nat) : Bool :=
  let st := (s.rank rank).st
  (1 ≤ st && st ≤ 4) || st == 8

/-- FRAMES_PER_RANK (R299). -/
def frames (s : State) : Nat := s.rdN E.framesPerRank

/-- The lowest-numbered free spare rank (R315). -/
def freeSpare (s : State) : Option Nat := [8, 9].find? (fun r => (s.rank r).st == 6)

/-- The pages whose frame lies in a rank, as (frame, page), ascending by frame. -/
def pagesOn (s : State) (rank : Nat) : List (Nat × Nat) :=
  ((s.memory.map.filter (fun x => (pState x.2 == 1 || pState x.2 == 2) && pRank x.2 == rank)).map
    (fun x => (pFrame x.2, x.1))).mergeSort (fun a b => decide (a.1 ≤ b.1))

/-- The page that a frame of a rank carries. -/
def pageOfFrame (s : State) (rank frame : Nat) : Option Nat :=
  ((pagesOn s rank).find? (fun x => x.1 == frame)).map Prod.snd

/-- A rank's code of R341. -/
def setRankState (s : State) (rank st : Nat) : State := s.setRank rank { s.rank rank with st := st }

/-! ### Migration -/

/-- The page at the head of a migration becomes migrating, toward the same frame of the spare (R317 step 1). -/
def startPage (s : State) : State :=
  match s.memory.queue with
  | m :: _ =>
    match m.begun, m.pages with
    | true, p :: _ =>
      let v := pageEntry s p
      setPageEntry s p (putBits (putBits (putBits v 47 45 2) 39 36 m.spare) 35 25 (pFrame v))
    | _, _ => s
  | [] => s

/-- The queue of migrations replaced. -/
def setQueue (s : State) (q : List Migration) : State := { s with memory := { s.memory with queue := q } }

/-- The migration at the head of the queue goes on: channel 4 is brought up first, otherwise it begins, with the frame of the
first error and then the others in ascending order (R315 to R317). -/
def nextMigration (s : State) : State :=
  match s.memory.queue with
  | [] => s
  | m :: r =>
    if m.begun then s
    else if !s.memory.ch4Ready then requestUp (setRankState s m.spare 7) 5
    else
      let s := setRankState (setRankState s m.spare 8) m.rank 4
      let s := (s.wr E.migRank m.rank).wr E.migPagesDone 0
      let ps := (pagesOn s m.rank).map Prod.snd
      let ps := ps.filter (fun p => some p == m.first) ++ ps.filter (fun p => some p != m.first)
      startPage (setQueue s ({ m with begun := true, pages := ps } :: r))

/-- A rank has become failing (R314); its spare is assigned with those of the other ranks of the TICK (R315). -/
def makeFailing (s : State) (rank : Nat) (first : Option Nat) : State :=
  let st := (s.rank rank).st
  if st ≠ 1 ∧ st ≠ 8 then s
  else
    let s := setRankState s rank 2
    { s with memory := { s.memory with failing := s.memory.failing ++ [(rank, first)] } }

/-- A failing rank is assigned the lowest-numbered free spare, and its migration is queued; with no free spare it stays failing
(R315, R320, R322). -/
def assignSpare (s : State) (x : Nat × Option Nat) : State :=
  if (s.rank x.1).st ≠ 2 then s
  else match freeSpare s with
    | none => s.report (rankSource x.1) 4 0
    | some k => nextMigration (setQueue (setRankState (setRankState s x.1 3) k 7) (s.memory.queue ++ [⟨x.1, k, x.2, [], false⟩]))

/-- The spares of the ranks that became failing in this TICK, in ascending source ID, rank 0 before rank 1 (R315). -/
def assignSpares (s : State) : State :=
  (s.memory.failing.mergeSort (fun a b => decide (a.1 ≤ b.1))).foldl assignSpare
    { s with memory := { s.memory with failing := [] } }

/-- A frame in which a further uncorrectable error is found during the migration moves to the head of the order, behind the
page that is being copied (R317). -/
def moveForward (s : State) (p : Nat) : State :=
  setQueue s (s.memory.queue.map (fun m =>
    match m.pages with
    | h :: r => if h = p || !r.contains p then m else { m with pages := h :: p :: r.filter (fun x => x != p) }
    | [] => m))

/-- The rank is retired: held in power-down, never addressed again, recorded in the Tally (R319, R323). -/
def retireRank (s : State) (rank : Nat) (spare : Option Nat) : State :=
  let s := s.setRank rank { s.rank rank with st := 5, power := 1, hot := false, overTemp := false }
  (recordRetirement s rank spare).report (rankSource rank) 5 0

/-- A queued migration whose spare is lost: the next free spare takes its place, or the rank stays failing (R316,
R322). -/
def reassign (s : State) (m : Migration) : State × Option Migration :=
  match freeSpare s with
  | some k => (setRankState s k 7, some { m with spare := k, pages := [], begun := false })
  | none => ((setRankState s m.rank 2).report (rankSource m.rank) 4 0, none)

/-- Every page mapped to a lost rank becomes retired, with its frame fields kept; a page on its way to it stays where it
is (R321). -/
def retirePages (s : State) (rank : Nat) : State :=
  { s with memory := { s.memory with map := s.memory.map.map (fun x =>
    if (pState x.2 = 1 ∨ pState x.2 = 2) ∧ pRank x.2 = rank then (x.1, putBits x.2 47 45 3)
    else if pState x.2 = 2 ∧ pDstRank x.2 = rank then (x.1, putBits x.2 47 45 1)
    else x) } }

/-- The migration onto a lost spare: its remaining pages go to the next free spare, at the head of the queue. -/
def reassignOnto (s : State) (m : Migration) : State :=
  let s := if m.begun then s.wr E.migRank 0xFF else s
  match reassign s m with
  | (s, some m) => setQueue (setRankState s m.rank 3) (m :: s.memory.queue)
  | (s, none) => s

/-- A rank is lost: its pages are retired and leave any migration, and it is retired and recorded (R321). -/
def loseRank (s : State) (rank : Nat) : State :=
  let s := s.report (rankSource rank) 3 (rank % 2)
  let q := s.memory.queue
  let from_ := q.find? (fun m => m.rank == rank)
  let s := setQueue (retirePages s rank)
    ((q.filter (fun m => m.spare != rank && (m.rank != rank || m.begun))).map (fun m =>
      if m.rank = rank then { m with pages := [] } else m))
  let s := match from_ with
    | some m => if m.begun then s else setRankState s m.spare 6
    | none => s
  let s := retireRank s rank (from_.bind (fun m => if m.begun then some m.spare else none))
  nextMigration (match q.find? (fun m => m.spare == rank) with
    | none => s
    | some m => reassignOnto s m)

/-! ### Read errors -/

/-- A correctable error of a rank: counted, reported, the block written back; too many within 1 s make the rank failing
(R304, R314). -/
def correctableRead (s : State) (rank : Nat) (addr : Nat) (page : Option Nat) : State :=
  let row := if rank % 2 = 0 then E.ceCount0 else E.ceCount1
  let s := (s.count row (rank / 2)).report (rankSource rank) 1 addr
  let x := s.rank rank
  let lim := s.rdN E.ceLimit
  let ces := s.tick :: x.ces.filter (fun t => decide (s.tick < t + 25000000))
  let s := s.setRank rank { x with ces := ces }
  if lim ≠ 0 ∧ lim < ces.length then makeFailing s rank page else s

/-- An uncorrectable error of a rank: counted, reported, the block left as it is; the rank becomes failing, or is lost
after more than 64 within 1 ms (R305, R314, R317, R321). -/
def uncorrectableRead (s : State) (rank : Nat) (block addr : Nat) (page : Option Nat) : State :=
  let row := if rank % 2 = 0 then E.ueCount0 else E.ueCount1
  let s := (s.count row (rank / 2)).report (rankSource rank) 2 addr
  let x := s.rank rank
  let ues := (s.tick :: x.ues.filter (fun t => decide (s.tick < t + 25000))).take 65
  let s := s.setRank rank { x with ues := ues }
  let s := { s with memory := { s.memory with badBlocks := block :: s.memory.badBlocks.filter (fun b => b != block) } }
  if 64 < ues.length ∧ (s.rank rank).st ≠ 5 then loseRank (s.setRank rank { s.rank rank with ues := [] }) rank
  else match page with
    | some p => if (s.rank rank).st = 3 ∨ (s.rank rank).st = 4 then moveForward s p else makeFailing s rank page
    | none => makeFailing s rank page

/-- What a read of a block found; a block stored as uncorrectable stays so (R305). -/
def blockRead (s : State) (rank phys addr : Nat) (page : Option Nat) (ecc : EccResult) : State :=
  let b := blockOf phys
  if ecc = .uncorrectable ∨ s.memory.badBlocks.contains b then uncorrectableRead s rank b addr page
  else if ecc = .corrected then correctableRead s rank addr page
  else s

/-- MEMORY_READ_DONE: a read of the block of a logical address completes (R304, R305), with what the read of its page
map entry found (R310). -/
def memoryReadAct (addr : Nat) (ecc mapEcc : EccResult) (s : State) : State :=
  let p := addr / pageSize
  if logicalSize ≤ addr ∨ s.domOn 3 = false then s
  else if mapEcc = .uncorrectable then
    let s := s.report 0x78 2 p
    { s with memory := { s.memory with badEntries := p :: s.memory.badEntries.filter (fun q => q != p) } }
  else
    let s := if mapEcc = .corrected then s.report 0x78 1 0 else s
    match reach s addr with
    | .at_ phys => blockRead s (pRank (pageEntry s p)) phys (addr - addr % 256) (some p) ecc
    | _ => s

/-- MEMORY_READ_DONE (R304, R305, R310). -/
def execMemoryReadDone (addr : Nat) (ecc mapEcc : EccResult) (s : State) : Host.Outcome State Fault Refusal :=
  .next (memoryReadAct addr ecc mapEcc s)

/-- PATROL_SCRUB: the scrubber reads a block of a frame of a rank in use (R306). A frame that no page names has no
logical address: the message then carries an open one (log entry 37). A rank in self-refresh is woken first (R332). -/
def patrolAct (rank frame block : Nat) (ecc : EccResult) (s : State) : State :=
  if s.rd E.scrubPeriod = 0 ∨ rankInUse s rank = false ∨ s.domOn (dramDom (rank / 2)) = false ∨ frames s ≤ frame then s
  else if 3 ≤ (s.rank rank).power then wakeRank s rank
  else
    let s := touchRank s rank 256 false
    match pageOfFrame s rank frame with
    | some p => blockRead s rank (frameAt rank frame + block * 256) (p * pageSize + block * 256) (some p) ecc
    | none =>
      let (v, s) := s.draw
      blockRead s rank (frameAt rank frame + block * 256) v none ecc

/-- PATROL_SCRUB (R306). -/
def execPatrolScrub (r : Rank) (frame : Fin 1820) (block : Fin 8192) (ecc : EccResult) (s : State) :
    Host.Outcome State Fault Refusal := .next (patrolAct (2 * r.1 + r.2) frame block ecc s)

/-- MR4_POLL: the refresh-rate field of a rank in use, and DRAM_OVERTEMP (R303). -/
def mr4Act (rank rate : Nat) (above hot : Bool) (s : State) : State :=
  if rankInUse s rank = false ∨ s.domOn (dramDom (rank / 2)) = false then s
  else
    let s := s.setRank rank { s.rank rank with mr4 := some rate, hot := above, overTemp := hot }
    if hot then s.report (rankSource rank) 6 0 else s

/-- MR4_POLL (R303). -/
def execMr4Poll (r : Rank) (rate : Nat) (aboveNominal overTemp : Bool) (s : State) :
    Host.Outcome State Fault Refusal := .next (mr4Act (2 * r.1 + r.2) rate aboveNominal overTemp s)

/-! ### Migration commands -/

/-- A spare rank that fails its training is lost; the migration that it was assigned to takes the next free spare
(R316, R321). -/
def trainSpare (s : State) (rank : Nat) (ok : Bool) : State :=
  if ok ∨ (s.rank rank).st = 0 ∨ (s.rank rank).st = 5 then s
  else
    let s := retireRank (s.report (rankSource rank) 3 (rank % 2)) rank none
    match s.memory.queue.find? (fun m => m.spare == rank) with
    | none => s
    | some m =>
      let rest := s.memory.queue.filter (fun x => x.spare != rank)
      match reassign s m with
      | (s, some n) => setQueue s (n :: rest)
      | (s, none) => setQueue s rest

/-- SPARE_BRINGUP_DONE: channel 4 is initialised and both its spare ranks trained (R316); TRAIN_FAIL when the whole channel has
failed (R340). -/
def bringupAct (ok0 ok1 : Bool) (s : State) : State :=
  if s.memory.ch4Ready ∨ s.memory.queue = [] ∨ s.domOn 5 = false then s
  else
    let there := [(8, ok0), (9, ok1)].filter (fun x => (s.rank x.1).st != 0 && (s.rank x.1).st != 5)
    let whole := !there.isEmpty && there.all (fun x => !x.2)
    let s := { s with memory := { s.memory with ch4Ready := true } }
    let s := nextMigration (trainSpare (trainSpare s 8 ok0) 9 ok1)
    if whole then s.report 0x74 7 0 else s

/-- SPARE_BRINGUP_DONE (R316). -/
def execSpareBringupDone (ok0 ok1 : Bool) (s : State) : Host.Outcome State Fault Refusal := .next (bringupAct ok0 ok1 s)

/-- The block of a page goes across as uncorrectable (R317 step 3). -/
def poisonBlock (s : State) (p dst : Nat) (b : Nat) : State :=
  let s := setPageEntry s p (putBits (pageEntry s p) 44 44 1)
  let s := { s with memory := { s.memory with badBlocks := (blockOf dst + b) :: s.memory.badBlocks } }
  (s.count E.migPoisonCount).report 0x78 3 (p * pageSize + b * 256)

/-- MIG_PAGE_SWITCH: every block of the page at the head of the migration has been copied; the blocks that read
uncorrectable go across as such, and the entry switches to the spare frame (R317). -/
def pageSwitchAct (bad : List Nat) (s : State) : State :=
  match s.memory.queue with
  | m :: r =>
    match m.begun, m.pages with
    | true, p :: ps =>
      let v := pageEntry s p
      let src := frameAt m.rank (pFrame v)
      let dst := frameAt m.spare (pFrame v)
      let stored := (s.memory.badBlocks.filter (fun b => decide (blockOf src ≤ b ∧ b < blockOf src + 8192))).map
        (fun b => b - blockOf src)
      let all := (stored ++ bad).dedup.mergeSort (fun a b => decide (a ≤ b))
      let s := touchRank (touchRank s m.rank pageSize false) m.spare pageSize true
      let s := s.copyBytes src dst pageSize
      let s := { s with memory := { s.memory with
        badBlocks := s.memory.badBlocks.filter (fun b => decide (¬(blockOf dst ≤ b ∧ b < blockOf dst + 8192))) } }
      let s := all.foldl (fun s b => poisonBlock s p dst b) s
      let v := pageEntry s p
      let s := setPageEntry s p (putBits (putBits (putBits v 47 45 1) 19 16 m.spare) 39 25 0)
      let s := s.wr E.migPagesDone (s.rd E.migPagesDone + 1)
      startPage (setQueue s ({ m with pages := ps } :: r))
    | _, _ => s
  | [] => s

/-- MIG_PAGE_SWITCH (R317). -/
def execMigPageSwitch (badBlocks : List (Fin 8192)) (s : State) : Host.Outcome State Fault Refusal :=
  .next (pageSwitchAct (badBlocks.map Fin.val) s)

/-- The frames of a rank that carry no page are written with zeros (R316). -/
def zeroFree (s : State) (rank : Nat) : State :=
  let used := s.memory.map.filterMap (fun x => if pState x.2 ≠ 0 ∧ pRank x.2 = rank then some (pFrame x.2) else none)
  let free := (List.range (frames s)).filter (fun f => !used.contains f)
  let base := blockOf (frameAt rank 0)
  let s := free.foldl (fun s f => (touchRank s rank pageSize true).clearBytes (frameAt rank f) pageSize) s
  { s with memory := { s.memory with
    badBlocks := s.memory.badBlocks.filter (fun b => !(decide (base ≤ b) && free.contains ((b - base) / 8192))) } }

/-- MIGRATION_END: the last page has switched and the unreceived frames are written; the failing rank is retired, the
spare is in use, and the next migration begins (R316, R319, R320). -/
def migrationEndAct (s : State) : State :=
  match s.memory.queue with
  | m :: r =>
    if m.begun = false ∨ m.pages ≠ [] then s
    else
      let s := zeroFree s m.spare
      let s := if (s.rank m.rank).st = 5 then s else retireRank s m.rank (some m.spare)
      let s := if (s.rank m.spare).st = 8 then setRankState s m.spare 1 else s
      let s := s.wr E.migRank 0xFF
      nextMigration (setQueue s r)
  | [] => s

/-- MIGRATION_END (R319, R320). -/
def execMigrationEnd (s : State) : Host.Outcome State Fault Refusal := .next (migrationEndAct s)

/-! ### Map commands -/

/-- A page map entry as it reads: one whose code is uncorrectable reads as retired, with its frame fields kept (R310). -/
def entryRead (s : State) (p : Nat) : Nat :=
  if s.memory.badEntries.contains p then putBits (pageEntry s p) 47 45 3 else pageEntry s p

/-- Another entry that is mapped, migrating or retired names a frame (R312). -/
def frameNamed (s : State) (p rank frame : Nat) : Bool :=
  (s.memory.map.map Prod.fst ++ s.memory.badEntries).any (fun q =>
    q != p && pageState s q != 0 && pRank (pageEntry s q) == rank && pFrame (pageEntry s q) == frame)

/-- MAP_RESULT of a map command (R311 to R313); 0 when it may be carried out. -/
def mapCheck (s : State) (op : Nat) : Nat :=
  let p := s.rdN E.mapPage
  let t := s.rdN E.mapTarget
  let st := pageState s p
  if op ≠ 4 ∧ (s.busyJob = true ∨ s.memory.queue ≠ []) then 5
  else if (op = 1 ∧ st ≠ 0 ∧ st ≠ 3) ∨ (op = 2 ∧ st ≠ 1 ∧ st ≠ 3) ∨ (op = 3 ∧ st ≠ 1) then 1
  else if op ≠ 1 then 0
  else if frames s ≤ bits t 15 5 then 2
  else if frameNamed s p (bits t 19 16) (bits t 15 5) then 3
  else if (s.rank (bits t 19 16)).st ≠ 1 then 4
  else 0

/-- The entry of a page after a map command (R311). -/
def mapEffect (v t op : Nat) : Nat :=
  if op = 1 then putBits (putBits (putBits v 47 45 1) 19 16 (bits t 19 16)) 15 5 (bits t 15 5)
  else if op = 2 then putBits v 47 45 0
  else if op = 3 then putBits v 47 45 3
  else putBits v 44 44 0

/-- A write of MAP_OP (R311, R313): MAP_RESULT shows its outcome, refused or not. -/
def mapAct (op : Nat) (s : State) : Nat × State :=
  let k := mapCheck s op
  let s := s.wr E.mapResult k
  let p := s.rdN E.mapPage
  if k = 5 then (codeState, s)
  else if k ≠ 0 then (codeRange, s)
  else
    let s := setPageEntry s p (mapEffect (entryRead s p) (s.rdN E.mapTarget) op)
    let s := { s with memory := { s.memory with badEntries := s.memory.badEntries.filter (fun q => q != p) } }
    (okCode, s)

/-- MAP (R311, R312). -/
def execMap (port : Port) (s : State) : Host.Outcome State Fault Refusal :=
  .next (writeAs s port noTarget E.mapOp 0 0 1 (mapAct 1))

/-- UNMAP (R311). -/
def execUnmap (port : Port) (s : State) : Host.Outcome State Fault Refusal :=
  .next (writeAs s port noTarget E.mapOp 0 0 2 (mapAct 2))

/-- RETIRE (R311). -/
def execRetire (port : Port) (s : State) : Host.Outcome State Fault Refusal :=
  .next (writeAs s port noTarget E.mapOp 0 0 3 (mapAct 3))

/-- CLEAR_POISON (R311, R313). -/
def execClearPoison (port : Port) (s : State) : Host.Outcome State Fault Refusal :=
  .next (writeAs s port noTarget E.mapOp 0 0 4 (mapAct 4))

/-! ### Power states and initialisation -/

/-- A rank that can power down or refresh itself: it is present, not retired, and its domain is on. -/
def rankPowered (s : State) (rank : Nat) : Bool :=
  (rankInUse s rank || (s.rank rank).st == 6) && s.domOn (dramDom (rank / 2))

/-- PD_TIMER: a rank without a request for PD_TIMER enters power-down (R330). -/
def pdAct (rank : Nat) (s : State) : State :=
  if s.rd E.pdTimer = 0 ∨ rankPowered s rank = false ∨ (s.rank rank).power ≠ 0 then s
  else s.setRank rank { s.rank rank with power := 1 }

/-- PD_TIMER (R330). -/
def execPdTimer (r : Rank) (s : State) : Host.Outcome State Fault Refusal := .next (pdAct (2 * r.1 + r.2) s)

/-- The rank holds a page of an enabled channel's ring buffer (R333). -/
def feedsJob (s : State) (rank : Nat) : Bool :=
  (enabledChs s).any (fun c =>
    let r := s.rdN E.feedRb c
    let a := s.rdN E.rbBase r
    let n := s.rdN E.rbLines r * s.rdN E.rbStride r
    decide (r < 32) && s.memory.map.any (fun x =>
      (pState x.2 == 1 || pState x.2 == 2) && pRank x.2 == rank &&
        decide (a / pageSize ≤ x.1 ∧ x.1 * pageSize < a + n)))

/-- The rank may begin or complete its entry into self-refresh (R333). -/
def maySleep (s : State) (rank : Nat) : Bool :=
  let st := (s.rank rank).st
  !(decide (2 ≤ st ∧ st ≤ 4) || (s.busyJob && feedsJob s rank))

/-- SR_TIMER: a rank without a request for SR_TIMER begins self-refresh entry (R330, R331, R333). -/
def srAct (rank : Nat) (s : State) : State :=
  if s.rd E.srTimer = 0 ∨ rankPowered s rank = false ∨ 1 < (s.rank rank).power ∨ maySleep s rank = false then s
  else s.setRank rank { s.rank rank with power := 2 }

/-- SR_TIMER (R330, R331, R333). -/
def execSrTimer (r : Rank) (s : State) : Host.Outcome State Fault Refusal := .next (srAct (2 * r.1 + r.2) s)

/-- SELF_REFRESH_EXIT: the exit for which a request waits is complete (R332). -/
def srExitAct (rank : Nat) (s : State) : State :=
  if (s.rank rank).power = 4 then s.setRank rank { s.rank rank with power := 0 } else s

/-- SELF_REFRESH_EXIT (R332). -/
def execSelfRefreshExit (r : Rank) (s : State) : Host.Outcome State Fault Refusal :=
  .next (srExitAct (2 * r.1 + r.2) s)

/-- The self-refresh entry command is issued by the end of the TICK in which the entry began (R331; log entry 38), unless the
rank has come to be one that must stay awake (R333). -/
def enterSelfRefresh (s : State) : State :=
  { s with memory := { s.memory with ranks := s.memory.ranks.map (fun x =>
    if x.2.power = 2 then (x.1, { x.2 with power := if maySleep s x.1 then 3 else 0 }) else x) } }

/-- Pages whose STATE is one of two codes (0x6000.06, .07). -/
def pagesIn (s : State) (p : Nat → Bool) : Nat :=
  s.memory.map.countP (fun x => p (if s.memory.badEntries.contains x.1 then 3 else pState x.2))

/-- A TICK of the start-up initialisation: it goes on by an open number of pages, in ascending order, up to the last mapped
one (R301; log entry 63). -/
def initStep (s : State) : State :=
  if !s.memory.built || s.memory.initDone || !s.domOn 3 then s
  else
    let (v, s) := s.draw
    let pages := (s.memory.map.filter (fun x => pState x.2 == 1 || pState x.2 == 2)).map Prod.fst
    let n := min (pages.foldl max 0) (s.memory.initNext + v)
    { s.wr E.initPages (pages.countP (fun p => decide (p < n))) with memory := { s.memory with initNext := n } }

/-- INIT_DONE: the last mapped frame is written with zeros (R301). -/
def initDoneAct (s : State) : State :=
  if s.memory.built = false ∨ s.memory.initDone then s
  else { (s.wr E.initPages (pagesIn s (fun k => k == 1 || k == 2))) with memory := { s.memory with initDone := true } }

/-- INIT_DONE (R301). -/
def execInitDone (s : State) : Host.Outcome State Fault Refusal := .next (initDoneAct s)

/-! ### The staging SRAM -/

/-- SRAM_CLEAR_DONE: DOM_11 has cleared the staging SRAM and the link buffer and grants access (R47, R338). -/
def sramClearAct (s : State) : State :=
  if s.domState 11 = 3 then
    let s := (s.clearBytes sramBase sramSize).clearBytes linkBase 0x10000
    nextPowerUp (setDom { s with memory := { s.memory with badSram := [], sramHeld := [] } } 11 2)
  else s

/-- SRAM_CLEAR_DONE (R338). -/
def execSramClearDone (s : State) : Host.Outcome State Fault Refusal := .next (sramClearAct s)

/-- The request that the port grants, and those it holds: the requests held since earlier cycles go ahead of this cycle's, and
those of one cycle go the highest master first, so that none waits behind more than four of each (R336). -/
def sramChoose (held new : List SramReq) : Option (SramReq × List SramReq) :=
  match held ++ new.mergeSort (fun a b => decide (a.master ≤ b.master)) with
  | [] => none
  | r :: rest => some (r, rest)

/-- The granted access: a read is answered with its data, a write is made (R335, R339). -/
def sramAccess (s : State) (r : SramReq) : State :=
  match r.data with
  | none =>
    let s := sramEcc s r.addr r.len r.ecc
    s.emit (.sramData r.master (s.bytes r.addr r.len) ((sramWords r.addr r.len).any s.memory.badSram.contains))
  | some d => sramPut s r.addr d r.ecc

/-- Bytes that a request covers. -/
def sramLen (r : SramReq) : Nat := match r.data with
  | none => r.len
  | some d => d.length

/-- The requests that the port holds. -/
def holdSram (s : State) (l : List SramReq) : State := { s with memory := { s.memory with sramHeld := l } }

/-- SRAM_ACCESS_GRANT: the port grants one access (R336). An access outside the staging SRAM names no memory (R334). Until
DOM_11 is ready every request is answered at once with an error: none is held (R338). -/
def execSramAccessGrant (reqs : List SramReq) (s : State) : Host.Outcome State Fault Refusal :=
  if s.domState 11 ≠ 2 then
    .next ((s.memory.sramHeld ++ reqs).foldl (fun s r => s.emit (.sramRefused r.master)) (holdSram s []))
  else match sramChoose s.memory.sramHeld reqs with
  | none => .next s
  | some (r, held) =>
    if inSram r.addr (sramLen r) then .next (sramAccess (holdSram s held) r) else .fault (.noSuchMemory r.addr)

end Sys2Proof.Machine
end

