-- ==== Sys2Proof/Machine/Burnisher.lean ====
section
/-!
DEFINITION. The Burnisher: calibration runs, their preconditions and results (R558 to R563, R614).
-/
namespace Sys2Proof.Machine

/-! ### Where the results stand -/

/-- DL_EYE of channel c (log entry 5). -/
def dlEyeAt (c : Nat) : Nat := blockBase + 0x1400 + c
/-- DRAM_EYE byte i (log entry 5). -/
def dramEyeAt (i : Nat) : Nat := blockBase + 0x1500 + i

/-! ### Preconditions -/

/-- Channels whose units are powered. -/
def poweredChs (s : State) : List Nat := (List.range 96).filter (fun c => s.chPresent c && s.domOn (engDom c))

/-- A rank is ready for its calibration: in use and not in self-refresh (R561). -/
def rankReady (s : State) (r : Nat) : Bool :=
  rankInUse s r && s.domOn (dramDom (r / 2)) && decide ((s.rank r).power < 2)

/-- The refusal code that CAL_STATE_k shows (R561, 0x9001); 0 when the preconditions hold. A calibration whose
preconditions are stated for a channel or a rank holds them when one channel or rank does (DEDUCED, log entry 46,
safe). -/
def calRefusal (s : State) (k : Nat) : Nat :=
  if k = 0 then
    if (poweredChs s).isEmpty then 7 else if (poweredChs s).any (deskewReady s) then 0 else 6
  else if k = 1 then
    if s.busyJob then 5
    else if (poweredChs s).isEmpty then 7
    else if !(poweredChs s).any (fun c => (s.chan c).rxUp) then 6
    else if s.rdN E.headVCeil * 100000 < s.rdN E.dlStep * s.rdN E.vOutLsb then 8 else 0
  else if k = 2 then
    if !s.domOn 3 then 7 else if (List.range 10).any (rankReady s) then 0 else 6
  else 0

/-! ### Runs -/

/-- CAL_START: a pending calibration starts once its preconditions hold; until then the refusal shows (R561). -/
def calStartAct (k : Nat) (s : State) : State :=
  let x := s.cal k
  if !x.pending || x.running || s.dev == .safe then s
  else
    let code := calRefusal s k
    if code ≠ 0 then s.wr E.calState code k
    else
      let old := if k = 0 then s.bytes (hlTapAt 0) 384 else []
      (s.setCal k { x with pending := false, running := true, temp0 := s.rd E.dieTemp, old := old }).wr E.calState 2 k

/-- CAL_START (R558, R561). -/
def execCalStart (k : Fin 4) (s : State) : Host.Outcome State Fault Refusal := .next (calStartAct k s)

/-- Detail of a Burnisher message: k, channel, and lane, rank or bit; 0xFF where a field does not apply (R564). -/
def calAddr (k ch low : Nat) : Nat := k * 2 ^ 40 + ch * 2 ^ 32 + low

/-- A run whose precondition is lost is discarded: the old trims stay in force, and k is pending again (R562). -/
def calDiscard (s : State) (k : Nat) : State :=
  let s := if k = 0 then s.setBytes (hlTapAt 0) (s.cal 0).old else s
  let s := s.setCal k { s.cal k with pending := true, running := false, old := [] }
  (s.wr E.calState 4 k).report 0xF0 1 (calAddr k 0xFF 0xFF)

/-- A trim of k = 1 or k = 2 takes its new value (R558, R562). -/
def setTrim (s : State) (k i v : Nat) : State := s.setCal k { s.cal k with trims := ains i v (s.cal k).trims }

/-- A new trim of a phase of the fire vernier waits for a CLK_FIRE edge at which no fire edge is being placed (R559). -/
def nextTrim (s : State) (phase v : Nat) : State :=
  if 8 ≤ phase then s else { s with vern := { s.vern with next := some (ains phase v (s.vern.next.getD s.vern.trim)) } }

/-- A byte of a Burnisher table. -/
def setByteAt (s : State) (a v : Nat) : State := s.setBytes a (toBytes 1 v)

/-- The result of one lane, channel, bit or line (R558, R562, R563). -/
def calRow (sweep : Bool) (k : Nat) (s : State) (r : Nat × Nat × Nat × Nat) : State :=
  let (a, b, c, d) := r
  if k = 0 then
    if !decide (a < 96 ∧ b < 4) || !deskewReady s a then s
    else
      let n := min 255 (divNearest (laneSkew s a b).natAbs (max 1 (s.rdN E.tapPs))).toNat
      let s := setByteAt s (hlResidAt (4 * a + b)) n
      if s.rdN E.hlResidMax < n then s.report 0xF0 2 (calAddr 0 a b) else s
  else if k = 1 then
    if !decide (a < 96) || !(s.chan a).rxUp then s
    else
      let s := setTrim (setByteAt (s.wr E.driveRxDelay b a) (dlEyeAt a) c) 1 a d
      let s := s.setChan a { s.chan a with calDone := true }
      if c < s.rdN E.dlEyeMin then s.report 0xF0 2 (calAddr 1 a 0xFF) else s
  else if k = 2 then
    if 640 ≤ a then s
    else
      let s := setTrim (setByteAt s (dramEyeAt a) b) 2 a c
      if s.rdN E.dramEyeMin ≤ b then s
      else
        let s := s.report 0xF0 2 (calAddr 2 (a / 128) (a % 64 / 2))
        let rank := a / 64
        if sweep || (s.rank rank).st == 5 || !rankInUse s rank then s else loseRank s rank
  else
    nextTrim s a c

/-- VERN_RESID after a run of the vernier: the largest residual of its phases; above VERN_LIMIT it is reported (R563). -/
def vernResult (rows : List (Nat × Nat × Nat × Nat)) (s : State) : State :=
  match rows with
  | [] => s
  | _ =>
    let v := rows.foldl (fun m r => max m r.2.1) 0
    let s := s.wr E.vernResid (v % 65536)
    if s.rdN E.vernLimit < v then s.report 0xF0 3 0 else s

/-- A fire edge of some channel is placed in a CLK_FIRE period (R29, R559). -/
def fireInPeriod (s : State) (p : Nat) : Bool := (List.range 96).any (fun c => (s.chan c).lastFire.any (fun t => t / 8 == p))

/-- New vernier trims take effect at a CLK_FIRE edge of this TICK at which no channel's fire edge is being placed; with none
they wait (R559). -/
def vernStep (s : State) : State :=
  match s.vern.next with
  | none => s
  | some l =>
    if (List.range 32).all (fun k => fireInPeriod s (wrap48 ((s.time + k : Nat) : Int))) then s
    else { s with vern := { trim := l, next := none } }

/-- CAL_COMPLETE: the run's results apply, unless a precondition was lost during the run (R558, R562, R563). -/
def calCompleteAct (k : Nat) (res : CalResult) (s : State) : State :=
  let x := s.cal k
  if !x.running then s
  else if calRefusal s k ≠ 0 then calDiscard s k
  else
    let s := res.rows.foldl (calRow res.sweep k) s
    let s := if k = 3 then vernResult res.rows s else s
    let s := s.setCal k { s.cal k with running := false, old := [] }
    (s.wr E.calTemp x.temp0 k).wr E.calState (if x.pending then 1 else 3) k

/-- CAL_COMPLETE (R558, R559, R562, R563). -/
def execCalComplete (k : Fin 4) (res : CalResult) (s : State) : Host.Outcome State Fault Refusal :=
  .next (calCompleteAct k res s)

/-- A write of CAL_CMD: bit k makes calibration k pending (R560). -/
def calCmdAct (v : Nat) (s : State) : Nat × State :=
  (okCode, (List.range 4).foldl (fun s k => if bit v k then calTrigger s k else s) s)

/-- CAL_CMD (R560). -/
def execCalCmd (port : Port) (v : Nat) (s : State) : Host.Outcome State Fault Refusal :=
  .next (writeAs s port noTarget E.calCmd 0 0 v (calCmdAct v))

end Sys2Proof.Machine
end

