-- ==== Sys2Proof/Machine/HeadCare.lean ====
section
/-!
DEFINITION. The head-care round: head temperatures, pauses, the time stretch, energies and heaters (R199, R200, R206 to
R217, R227, R588, R589).
-/
namespace Sys2Proof.Machine

/-- The own reading of a round is valid (R206). -/
def readingValid (x : Chan) : Bool :=
  x.bcRound && x.thermOk && decide (-320 ≤ x.temp ∧ x.temp ≤ 1920) &&
    x.prevTemp.all (fun p => decide ((x.temp - p).natAbs ≤ 80))

/-- The own sensor of a channel in a round: broken at once by an invalid reading, sound again after 16 valid rounds
(R206, R207). -/
def sensorStep (s : State) (c : Nat) : State :=
  let x := s.chan c
  let ok := readingValid x
  let run := if ok then min 16 (x.sensorRun + 1) else 0
  let y := { x with
    bcRound := false, prevTemp := if x.bcRound then some x.temp else none, sensorRun := run,
    sensorOk := if ok then x.sensorOk || run == 16 else false,
    sensorEver := x.sensorEver || (ok && run == 16), ownTemp := if ok then x.temp else x.ownTemp }
  let s := s.setChan c y
  if x.bcRound then s.wr E.headRaw x.temp c else s

/-- The valid own readings of a channel's neighbours (R208). -/
def neighbourTemps (s : State) (c : Nat) : List Int :=
  [s.rdN E.nbA c, s.rdN E.nbB c].filterMap (fun n =>
    if n < 96 && (s.chan n).sensorOk then some (s.chan n).ownTemp else none)

/-- T_eff of a channel and its source: own reading, substitute, or none, which is too hot (R208, R209). -/
def effectiveTemp (s : State) (c : Nat) : Int × Nat :=
  let x := s.chan c
  if x.sensorOk then (x.ownTemp, 0)
  else match neighbourTemps s c with
    | [] => (0x7FFF, 2)
    | a :: r => (r.foldl max a + 32, 1)

/-- What a paused channel was building is dropped: its Head link sends idle frames, and a probe of the line is invalid (R211,
R238). -/
def dropPaused (s : State) (c : Nat) : State :=
  match (s.chan c).built with
  | none => s
  | some b => dropBuilt s c ⟨b.line, nowStep s, false⟩

/-- A channel pauses or is released on its T_eff (R207, R210 to R212, R244). Its next build starts no earlier than its
release. -/
def pauseStep (s : State) (c : Nat) (t : Int) : State :=
  if s.rd E.otThresh ≤ t then
    if s.rd E.paused c = 1 then s
    else
      let s := s.act (.channel c) .pause
      let s := match serving s c with
        | none => s
        | some e => discardLearn s e
      let s := dropPaused (s.wr E.paused 1 c) c
      if (s.chan c).sensorEver || s.rd E.tempSrc c != 2 then
        s.report (reporter s c) 0xB (c * 2 ^ 40 + unsigned 16 t) else s
  else if t < s.rd E.otThresh - 32 ∧ s.rd E.paused c = 1 then
    (s.setChan c { s.chan c with freeAt := nowStep s }).wr E.paused 0 c
  else s

/-- V_SUP of the round: the mean SUPPLY of its inbound frames, held where none arrived or the lane is down (R198,
R199). -/
def supplyStep (s : State) (c : Nat) : State :=
  let x := s.chan c
  let s := s.setChan c { x with supplySum := 0, supplyNum := 0 }
  if x.supplyNum = 0 || !x.rxUp then s
  else
    let v : Rat := (x.supplySum : Rat) / x.supplyNum
    let (w, s) := roundWord (s.setChan c { s.chan c with supply := v }) v
    s.wr E.vSup w c

/-- S times 4,096 before the clamp (R199). -/
def stretchLaw (s : State) (c e : Nat) (t : Int) : Int :=
  let kt : Rat := s.rd E.waveKt e * (t - s.rd E.tRef e) / (16 * 2 ^ 16)
  let kv : Rat := s.rd E.waveKv e * ((s.rd E.vRef e : Rat) - (s.chan c).supply) / (2 ^ 16 * s.rd E.vRef e)
  ratNearest ((1 + kt + kv) * 4096)

/-- The stretch of a channel and STR_LIMIT (R199, R200). A channel that is treated as too hot has T_eff 0x7FFF (DESIGN CHOICE,
log entry 60, unsafe). -/
def stretchStep (s : State) (c e : Nat) (t : Int) : State :=
  let raw := stretchLaw s c e t
  let v := clampInt 3072 5120 raw
  (s.setChan c { s.chan c with strLimit := v != raw }).wr E.stretch v c

/-- The sum of the steps between the samples of a waveform of 4,096 samples. -/
def swingSum (s : State) (base : Nat) : Nat :=
  ((List.range 4095).map (fun j => (waveSampleAt s base (j + 1) - waveSampleAt s base j).natAbs)).sum

/-- The energies per nozzle of the round in nJ: pF times 10 mV times uV times 2^-16 is 10^-11 nJ (R217); in legacy shift mode the
swing of the whole waveform (R588). -/
def energyStep (s : State) (c e : Nat) : State :=
  let k : Rat := (s.rdN E.cNoz * s.rdN E.gain c : Nat) * (s.chan c).supply / (2 ^ 16 * 10 ^ 11 : Nat)
  let w := if legacy s c then [swingSum s (activeAt e .wave) * s.rdN E.vOutLsb] else (s.eng e).swing
  s.setChan c { s.chan c with energy := w.map (fun v : Nat => k * v) }

/-- What a round does on a channel once every sensor has been read; `broke` where its own sensor has just broken (R207). A legacy channel has no temperature, is not paused
for one, and plays at stretch 1 (R587, R589). -/
def careStep (broke : List Nat) (s : State) (c : Nat) : State :=
  let s := supplyStep s c
  if legacy s c then
    let s := match serving s c with
      | none => s
      | some e => energyStep (s.wr E.stretch 4096 c) c e
    supplyCheck s c
  else
    let (t, src) := effectiveTemp s c
    let s := (s.wr E.headTemp t c).wr E.tempSrc src c
    let s := if broke.contains c then s.report (reporter s c) 0xC (c * 2 ^ 40 + unsigned 16 t) else s
    let s := pauseStep s c t
    let s := match serving s c with
      | none => s
      | some e => energyStep (stretchStep s c e t) c e
    supplyCheck (if s.domOn 10 then sampleLoop (98 + c) s else s) c

/-- The channels that a round serves: present, in a powered domain. -/
def careChannels (s : State) : List Nat := (List.range 96).filter (fun c => s.chPresent c && s.domOn (engDom c))

/-- HEAD_CARE_ROUND: every sensor first, then every channel. -/
def headCareAct (s : State) : State :=
  let cs := careChannels s
  let own := cs.filter (fun c => !legacy s c)
  let broke := own.filter (fun c => (s.chan c).sensorOk && !readingValid (s.chan c))
  cs.foldl (careStep broke) (own.foldl sensorStep s)

/-- HEAD_CARE_ROUND (R199, R200, R206 to R217, R227, R275). -/
def execHeadCareRound (s : State) : Host.Outcome State Fault Refusal := .next (headCareAct s)

end Sys2Proof.Machine
end

