-- ==== Sys2Proof/Machine/Dma.lean ====
section
/-!
DEFINITION. The general DMA channels and the ring-buffer registers (R343 to R368, R373, R375 to R377, R616).
-/
namespace Sys2Proof.Machine

/-! ### Addresses -/

/-- A region of R343. -/
inductive Region where
  | dram | sram | shadow (e : Nat) (t : Table) | link
  deriving DecidableEq, Repr

/-- The region that n bytes from an address lie wholly within: the tables of one engine in the shadow window (R343,
R344, R349). -/
def regionOf (a n : Nat) : Option Region :=
  if a + n ≤ logicalSize then some .dram
  else if inSram a n then some .sram
  else if linkBase ≤ a ∧ a + n ≤ linkBase + 0x10000 then some .link
  else match shadowOf a with
    | some (e, t) => if a + n ≤ shadowAt e t + tableLen t then some (.shadow e t) else none
    | none => none

/-- Bytes of an element by its width code (R347). -/
def widthBytes (k : Nat) : Nat :=
  if k = 0 then 1 else if k = 1 then 2 else if k = 2 then 4 else if k = 3 then 6 else if k = 4 then 8
  else if k = 5 then 32 else 0

/-! ### Blocks -/

/-- The registers of a block, as a channel holds them or a descriptor gives them (R362). -/
structure Block where
  src    : Nat
  dst    : Nat
  count  : Nat
  ctrl   : Nat
  link   : Nat
  stride : Nat
  deriving DecidableEq, Repr

/-- RESHUFFLE (R347). -/
def Block.mode (b : Block) : Nat := bits b.ctrl 24 22
/-- Drop-code bits D (R347). -/
def Block.d (b : Block) : Nat := 2 ^ bits b.ctrl 21 20
/-- Colours C (R347). -/
def Block.c (b : Block) : Nat := bits b.ctrl 18 16 + 1
/-- LINK_EN (R347). -/
def Block.linkEn (b : Block) : Bool := bit b.ctrl 15

/-- Bytes of an element or unit at SRC and at DST, and of COUNT that it uses (R353 to R355). -/
def Block.step (b : Block) : Nat × Nat × Nat :=
  if b.mode = 0 then (widthBytes (bits b.ctrl 31 29), widthBytes (bits b.ctrl 28 26), widthBytes (bits b.ctrl 31 29))
  else if b.mode = 1 then (1, b.d, b.d)
  else if b.mode = 2 then (b.d, 1, b.d)
  else if b.mode = 3 then (b.c * b.d, b.d, b.c * b.d)
  else (b.d, b.c * b.d, b.c * b.d)

/-- Planes or colours that lie RS_STRIDE apart at SRC, and at DST (R354). -/
def Block.planes (b : Block) : Nat × Nat :=
  if b.mode = 1 then (b.d, 1) else if b.mode = 2 then (1, b.d) else if b.mode = 3 then (1, b.c)
  else if b.mode = 4 then (b.c, 1) else (1, 1)

/-- Elements or units of the block. -/
def Block.units (b : Block) : Nat := b.count / b.step.2.2

/-- The byte ranges of k elements or units at an address: one per plane or colour. -/
def ranges (a stride planes n : Nat) : List (Nat × Nat) := (List.range planes).map (fun p => (a + p * stride, n))

/-- Source ranges of k elements or units. -/
def Block.srcRanges (b : Block) (k : Nat) : List (Nat × Nat) := ranges b.src b.stride b.planes.1 (k * b.step.1)
/-- Destination ranges of k elements or units. -/
def Block.dstRanges (b : Block) (k : Nat) : List (Nat × Nat) := ranges b.dst b.stride b.planes.2 (k * b.step.2.1)

/-- All ranges lie wholly within one region (R349). -/
def oneRegion (l : List (Nat × Nat)) : Option Region :=
  match l with
  | [] => none
  | (a, n) :: r =>
    match regionOf a n with
    | none => none
    | some g => if r.all (fun x => regionOf x.1 x.2 == some g) then some g else none

/-- A block that names an absent engine (R8, R350). -/
def absentEngine (s : State) (b : Block) : Bool :=
  (b.srcRanges b.units ++ b.dstRanges b.units).any (fun x => match shadowOf x.1 with
    | some (e, _) => !s.engPresent e
    | none => false)

/-- A region in a table shadow. -/
def Region.isShadow : Region → Bool
  | .shadow _ _ => true
  | _ => false

/-- A valid block (R349). -/
def blockValid (s : State) (b : Block) : Bool :=
  let sw := bits b.ctrl 31 29
  let dw := bits b.ctrl 28 26
  let shape :=
    if b.mode = 0 then sw ≤ 5 && dw ≤ 5 && (sw == dw || (sw != 5 && dw != 5)) && b.count % widthBytes sw == 0
    else b.mode ≤ 4 && bits b.ctrl 21 20 != 3 && b.count % b.step.2.2 == 0 && (b.mode ≤ 2 || 2 ≤ b.c)
  let from_ := oneRegion (b.srcRanges b.units)
  let to_ := oneRegion (b.dstRanges b.units)
  shape && (b.count == 0 || (from_.isSome && to_.isSome)) && !absentEngine s b && (!bit b.ctrl 13 || to_.any Region.isShadow) &&
    (!b.linkEn || (b.link % 32 == 0 && (regionOf b.link 32).any (fun g => !g.isShadow)))

/-- A channel's registers. -/
def blockOfChannel (s : State) (n : Nat) : Block :=
  ⟨s.rdN E.src n, s.rdN E.dst n, s.rdN E.count n, s.rdN E.ctrl n, s.rdN E.link n, s.rdN E.rsStride n⟩

/-- The six registers are loaded together (R363). -/
def loadBlock (s : State) (n : Nat) (b : Block) : State :=
  (((((s.wr E.src b.src n).wr E.dst b.dst n).wr E.count b.count n).wr E.ctrl b.ctrl n).wr E.link b.link n).wr
    E.rsStride b.stride n

/-! ### Data -/

/-- An element converted to another width (R353). -/
def convert (sw dw : Nat) (sign : Bool) (l : List Byte) : List Byte :=
  if sw = dw then l
  else
    let x := ofBytes l
    toBytes dw (if sign then unsigned (8 * dw) (signed (8 * sw) x) else x)

/-- The bits of bytes, most significant first. -/
def bitsOf (l : List Byte) : List Bool := l.flatMap (fun b => bitsDown 8 b.toNat)

/-- The number that bits spell, most significant first. -/
def ofBits (l : List Bool) : Nat := l.foldl (fun a b => a * 2 + (if b then 1 else 0)) 0

/-- Bytes from bits, most significant first, eight at a time. -/
def bytesOf (n : Nat) (l : List Bool) : List Byte :=
  (List.range n).map (fun i => BitVec.ofNat 8 (ofBits ((l.drop (8 * i)).take 8)))

/-- The destination bytes of one element or unit, one list per destination plane or colour, from those of the source
(R353, R354). -/
def unitOut (b : Block) (src : List (List Byte)) : List (List Byte) :=
  let at_ (p i : Nat) : Bool := ((bitsOf ((src[p]?).getD []))[i]?).getD false
  let cols := List.range 8
  let d := b.d
  let c := b.c
  if b.mode = 0 then
    [convert (widthBytes (bits b.ctrl 31 29)) (widthBytes (bits b.ctrl 28 26)) (bit b.ctrl 25) ((src[(0 : Nat)]?).getD [])]
  else if b.mode = 1 then
    [bytesOf d (cols.flatMap (fun j => (List.range d).map (fun i => at_ (d - 1 - i) j)))]
  else if b.mode = 2 then
    (List.range d).map (fun p => bytesOf 1 (cols.map (fun j => at_ 0 (j * d + (d - 1 - p)))))
  else if b.mode = 3 then
    (List.range c).map (fun k => bytesOf d (cols.flatMap (fun j => (List.range d).map (fun i => at_ 0 (j * c * d + k * d + i)))))
  else
    [bytesOf (c * d) (cols.flatMap (fun j => (List.range c).flatMap (fun k => (List.range d).map (fun i => at_ k (j * d + i)))))]

/-- What a DMA request to n bytes from an address meets (R308, R329, R338, R345, R616). -/
def dmaReach (s : State) (a n : Nat) : Reach :=
  match regionOf a n with
  | some .dram => reachAll s a n
  | some (.shadow e _) => if s.domOn (engDom e) then .at_ a else .silent
  | some _ => .at_ a
  | none => .refused

/-- Bytes that a DMA read returns (R345). -/
def dmaRead (s : State) (a n : Nat) : List Byte :=
  match regionOf a n with
  | some .dram => logicalRead s a n
  | _ => s.bytes a n

/-- A range that a DMA read finds stored as uncorrectable (R305, R339). -/
def dmaBad (s : State) (a n : Nat) : Bool :=
  match regionOf a n with
  | some .dram => rangeBad s a n
  | some .sram => s.memory.badSram.any (fun w => decide ((a - sramBase) / 8 ≤ w ∧ w ≤ (a - sramBase + n - 1) / 8))
  | _ => false

/-- A DMA write (R305, R308, R339, R345). -/
def dmaWrite (s : State) (a : Nat) (data : List Byte) : State :=
  match regionOf a data.length with
  | some .dram => logicalWrite s a data
  | some .sram => sramPut s a data
  | some (.shadow e t) => (shadowWrite s e t (a - shadowAt e t) data none).2
  | _ => s.setBytes a data

/-! ### Stops, completion -/

/-- A channel stops: its registers are exact, FAULT_ADDR holds the failing address, and the message is sent (R360,
R375). -/
def dmaStop (s : State) (n result side addr : Nat) (say : Bool) : State :=
  let s := s.setDma n { s.dma n with st := .stopped, result := result, side := side, loading := false, blockEnd := false }
  let s := s.wr E.faultAddr addr n
  if say then s.report (0x80 + n) (result - 2) addr else s

/-- A channel ends idle after an abort (R357). -/
def dmaAborted (s : State) (n : Nat) : State :=
  s.setDma n { s.dma n with st := .idle, result := 2, loading := false, blockEnd := false }

/-- The fence of a channel: an abort, then its in-flight state is reset; the registers stay exact, and STAT ends idle with
RESULT aborted, from whatever state (R375). -/
def fenceDma (s : State) (n : Nat) : State := dmaAborted s n

/-- A descriptor read is issued, unless it would pass the hop limit (R360, R363). -/
def beginLoad (s : State) (n : Nat) : State :=
  if s.rdN E.dmaHopMax n < s.rdN E.hops n + 1 then dmaStop s n 3 2 (s.rdN E.link n) true
  else s.setDma n { s.dma n with loading := true }

/-- A block has completed: notification, commit request, chain end or next descriptor (R363 to R366). -/
def completeBlock (s : State) (n : Nat) : State :=
  let b := blockOfChannel s n
  let s := s.setDma n { s.dma n with blockEnd := false }
  let s := if bit b.ctrl 14 then maskedEvent s 4 (0x6800 + 16 * n) 2 b.dst else s
  let table := if (s.dma n).lastAt = some (b.dst - 1) then b.dst - 1 else b.dst
  let s := s.setDma n { s.dma n with
    commitReq := bit b.ctrl 13, commitAt := if bit b.ctrl 13 then some table else (s.dma n).commitAt }
  if b.linkEn then
    if (s.dma n).st = .pausing then s.setDma n { s.dma n with st := .paused } else beginLoad s n
  else
    (s.setDma n { s.dma n with st := .idle, result := 1 }).wr E.dmaDone (s.rdN E.dmaDone ||| 2 ^ n : Nat)

/-! ### Control -/

/-- The channel holds the engine (R351, R356, R357). -/
def holdsEngine (x : DmaSt) : Bool := x.st == .running || x.st == .pausing || x.st == .aborting

/-- A write of 1 to START (R350, R361). -/
def dmaStartAct (n : Nat) (s : State) : Nat × State :=
  let b := blockOfChannel s n
  let x := s.dma n
  if x.st = .pending ∨ holdsEngine x then (codeState, s)
  else if absentEngine s b then (codeNoObject, s)
  else if !blockValid s b then (codeRange, s)
  else
    let s := (s.wr E.hops 0 n).setDma n { x with
      st := if s.rd E.pause n = 1 then .paused else .pending, result := 0, side := 0, blockEnd := false, loading := false,
      lastAt := none }
    (okCode, if b.count = 0 ∧ !b.linkEn then completeBlock s n else s)

/-- A write of 1 to PAUSE (R356). -/
def dmaPauseAct (n : Nat) (s : State) : Nat × State :=
  let x := s.dma n
  let st := if x.st = .running then .pausing else if x.st = .pending then .paused else x.st
  (okCode, ((s.setDma n { x with st := st }).wr E.pause 1 n).act (.dma n) .pause)

/-- A write of 0 to PAUSE (R356). -/
def dmaUnpauseAct (n : Nat) (s : State) : Nat × State :=
  let x := s.dma n
  let st := if x.st = .paused then .pending else if x.st = .pausing then .running else x.st
  (okCode, (s.setDma n { x with st := st }).wr E.pause 0 n)

/-- An abort of a channel (R357). -/
def dmaAbortAct (n : Nat) (s : State) : Nat × State :=
  let x := s.dma n
  let s := s.act (.dma n) .abort
  match x.st with
  | .idle => (codeNothing, s)
  | .aborting => (okCode, s)
  | .running | .pausing => (okCode, s.setDma n { x with st := .aborting })
  | _ => (okCode, dmaAborted s n)

/-- DMA_START (R350, R361). -/
def execDmaStart (port : Port) (n : DmaCh) (s : State) : Host.Outcome State Fault Refusal :=
  .next (writeIf s port (s.startSuperseded (.dma n)) E.start n 0 1 (dmaStartAct n))

/-- DMA_PAUSE (R356). -/
def execDmaPause (port : Port) (n : DmaCh) (s : State) : Host.Outcome State Fault Refusal :=
  .next (writeIf s port (s.pauseSuperseded (.dma n)) E.pause n 0 1 (dmaPauseAct n))

/-- DMA_UNPAUSE (R356). -/
def execDmaUnpause (port : Port) (n : DmaCh) (s : State) : Host.Outcome State Fault Refusal :=
  .next (writeAs s port (.dma n) E.pause n 0 0 (dmaUnpauseAct n))

/-- DMA_ABORT (R357). -/
def execDmaAbort (port : Port) (n : DmaCh) (s : State) : Host.Outcome State Fault Refusal :=
  .next (writeAs s port (.dma n) E.abort n 0 1 (dmaAbortAct n))

/-! ### Running -/

/-- DMA_CHANNEL_RUN: with no channel running, the lowest pending one runs that is in service (R501); with COUNT 0 it loads its descriptor or
completes (R351, R361). -/
def dmaRunAct (s : State) : State :=
  if !s.domOn 11 || (List.range 16).any (fun n => holdsEngine (s.dma n)) then s
  else match (List.range 16).find? (fun n => (s.dma n).st == .pending && !unitInReset s (0x80 + n)) with
    | none => s
    | some n =>
      let s := s.setDma n { s.dma n with st := .running }
      let b := blockOfChannel s n
      if b.count ≠ 0 then s else if b.linkEn then beginLoad s n else completeBlock s n

/-- DMA_CHANNEL_RUN (R351). -/
def execDmaChannelRun (s : State) : Host.Outcome State Fault Refusal := .next (dmaRunAct s)

/-- Elements or units that one burst of at most 64 bytes completes: up to the 64-byte boundary behind the first one
(R353). -/
def burstUnits (b : Block) : Nat :=
  let n := b.step.1
  let stop := ((b.src + n - 1) / 64 + 1) * 64
  min b.units ((stop - b.src) / n)

/-- The largest number up to k for which every range reaches memory. -/
def reachable (s : State) (l : Nat → List (Nat × Nat)) : Nat → Nat
  | 0 => 0
  | k + 1 =>
    if (l (k + 1)).all (fun x => match dmaReach s x.1 x.2 with
      | .at_ _ => true
      | _ => false) then k + 1 else reachable s l k

/-- A range that meets a refusal, or whose domain is off, at its first byte outside. -/
def firstRefused (s : State) (l : List (Nat × Nat)) : Option Nat :=
  l.findSome? (fun x => if dmaReach s x.1 x.2 = .refused then
      some (if dmaReach s x.1 1 = .refused then x.1 else (x.1 / pageSize + 1) * pageSize)
    else none)

/-- The table shadow that a block writes is SYNCING: the write is held (R345). -/
def heldByShadow (s : State) (b : Block) : Bool :=
  match shadowOf b.dst with
  | some (e, t) => (s.eng e).shadow t == .syncing
  | none => false

/-- Move k elements or units and make the registers exact (R353, R354, R359). -/
def moveUnits (s : State) (n k : Nat) : State :=
  let b := blockOfChannel s n
  let s := (b.srcRanges k).foldl (fun s r => if r.1 < logicalSize then touchRead s r.1 r.2 else s) s
  let outs := (List.range k).map (fun i =>
    unitOut b ((b.srcRanges k).map (fun r => dmaRead s (r.1 + i * b.step.1) b.step.1)))
  let s := ((List.range b.planes.2).map (fun p =>
      (b.dst + p * b.stride, outs.flatMap (fun o => (o[p]?).getD [])))).foldl (fun s w => dmaWrite s w.1 w.2) s
  let s := s.setDma n { s.dma n with lastAt := some (b.dst + k * b.step.2.1 - 1) }
  ((s.wr E.src (b.src + k * b.step.1 : Nat) n).wr E.dst (b.dst + k * b.step.2.1 : Nat) n).wr
    E.count (b.count - k * b.step.2.2 : Nat) n

/-- Sources in the staging SRAM are read with what their words hold; what this read finds is of the first (R339). -/
def burstEcc (s : State) (b : Block) (k : Nat) (ecc : EccResult) : State :=
  (b.srcRanges k).zipIdx.foldl (fun s r =>
    if inSram r.1.1 r.1.2 then sramEcc s r.1.1 r.1.2 (if r.2 = 0 then ecc else .good) else s) s

/-- Ranks in self-refresh, or leaving it, that the reads of ranges meet (R332). -/
def sleepers (s : State) (l : List (Nat × Nat)) : List Nat :=
  (l.flatMap (fun r => if r.1 < logicalSize then (requests r.1 r.2).filterMap (fun x => match reach s x.1 with
      | .at_ _ => some (pRank (pageEntry s (x.1 / pageSize)))
      | _ => none) else [])).filter (fun k => decide (3 ≤ (s.rank k).power))

/-- The address at which a read of ranges fails: that of the first range stored as uncorrectable, otherwise of the first. -/
def failingAt (s : State) (l : List (Nat × Nat)) : Nat :=
  match l.find? (fun r => dmaBad s r.1 r.2) with
  | some r => r.1
  | none => (l.head?.map Prod.fst).getD 0

/-- The first of some ranges that memory does not answer, otherwise the first. -/
def silentAt (s : State) (l : List (Nat × Nat)) : Nat :=
  match l.find? (fun r => dmaReach s r.1 r.2 == .silent) with
  | some r => r.1
  | none => (l.head?.map Prod.fst).getD 0

/-- DMA_BURST_DONE: the next burst of a running or pausing channel completes, its elements are converted and written;
an unmapped page, or uncorrectable data, stops the channel (R353, R356, R359, R360). An aborting channel discards it
(R357), and one that waits for a rank to leave self-refresh is not complete (R332). -/
def burstAct (n : Nat) (ecc : EccResult) (s : State) : State :=
  let x := s.dma n
  let b := blockOfChannel s n
  if x.st = .aborting then dmaAborted s n
  else if ¬(x.st = .running ∨ x.st = .pausing) ∨ x.loading ∨ x.blockEnd ∨ b.count = 0 ∨ heldByShadow s b ∨
      s.domState 11 ≠ 2 then s
  else
    let k := burstUnits b
    let rk := reachable s b.srcRanges k
    let wk := reachable s b.dstRanges rk
    let asleep := sleepers s (b.srcRanges rk)
    if rk = 0 then match firstRefused s (b.srcRanges 1) with
      | some a => dmaStop s n 5 0 a true
      | none => s
    else if asleep ≠ [] then asleep.foldl wakeRank s
    else if ecc = .uncorrectable ∨ (b.srcRanges rk).any (fun r => dmaBad s r.1 r.2) then
      dmaStop (burstEcc s b rk ecc) n 7 0 (failingAt s (b.srcRanges rk)) true
    else if wk = 0 then match firstRefused s (b.dstRanges 1) with
      | some a => dmaStop s n 5 1 a true
      | none => s
    else
      let s := moveUnits (burstEcc s b rk ecc) n wk
      let done := s.rd E.count n == 0
      let x := s.dma n
      s.setDma n { x with blockEnd := done, st := if x.st = .pausing ∧ !done then .paused else x.st }

/-- DMA_BURST_DONE (R353, R357, R360). -/
def execDmaBurstDone (n : DmaCh) (ecc : EccResult) (s : State) : Host.Outcome State Fault Refusal :=
  .next (burstAct n ecc s)

/-- BUS_TIMEOUT: a request of a channel had no response for 4 us; the time that a write is held under R345 does not count
(R360). -/
def busTimeoutAct (n side : Nat) (s : State) : State :=
  let x := s.dma n
  let b := blockOfChannel s n
  if x.st = .aborting then dmaAborted s n
  else if ¬(x.st = .running ∨ x.st = .pausing) ∨ x.loading ≠ decide (side = 2) ∨ (side = 1 ∧ heldByShadow s b) then s
  else dmaStop s n 4 side
    (if side = 0 then silentAt s (b.srcRanges 1) else if side = 1 then silentAt s (b.dstRanges 1) else b.link) true

/-- BUS_TIMEOUT (R360). -/
def execBusTimeout (n : DmaCh) (side : Fin 3) (s : State) : Host.Outcome State Fault Refusal :=
  .next (busTimeoutAct n side s)

/-- DMA_BLOCK_COMPLETE: the block's last write is accepted (R364 to R366). -/
def blockCompleteAct (n : Nat) (s : State) : State :=
  let x := s.dma n
  if x.st = .aborting then dmaAborted s n
  else if x.blockEnd then completeBlock s n
  else s

/-- DMA_BLOCK_COMPLETE (R363 to R366). -/
def execDmaBlockComplete (n : DmaCh) (s : State) : Host.Outcome State Fault Refusal := .next (blockCompleteAct n s)

/-- A link descriptor (R362). -/
def descriptor (l : List Byte) : Block :=
  let f (i n : Nat) : Nat := ofBytes ((l.drop i).take n)
  ⟨f 0 6, f 6 6, f 12 4, f 16 4, f 20 6, f 26 4⟩

/-- DMA_DESCRIPTOR_LOAD: the descriptor read completes; a valid block is loaded whole and runs (R360, R363). One that waits for
the clear of R338 or for a rank to leave self-refresh is not complete (R332, R346). -/
def descriptorAct (n : Nat) (ecc : EccResult) (s : State) : State :=
  let x := s.dma n
  let a := s.rdN E.link n
  if x.st = .aborting then dmaAborted s n
  else if !x.loading then s
  else if logicalSize ≤ a ∧ s.domState 11 ≠ 2 then s
  else if sleepers s [(a, 32)] ≠ [] then (sleepers s [(a, 32)]).foldl wakeRank s
  else match dmaReach s a 32 with
    | .silent => s
    | .refused => dmaStop s n 5 2 a true
    | .at_ _ =>
      let s := if a < logicalSize then touchRead s a 32 else if inSram a 32 then sramEcc s a 32 ecc else s
      let b := descriptor (dmaRead s a 32)
      if ecc = .uncorrectable ∨ dmaBad s a 32 then dmaStop s n 7 2 a true
      else if !blockValid s b then dmaStop s n 6 2 a (!absentEngine s b)
      else
        let s := (loadBlock s n b).wr E.hops (s.rd E.hops n + 1) n
        let x := s.dma n
        let done := b.count == 0
        s.setDma n { x with loading := false, blockEnd := done, lastAt := none,
                            st := if x.st = .pausing ∧ !done then .paused else x.st }

/-- DMA_DESCRIPTOR_LOAD (R360, R363). -/
def execDmaDescriptorLoad (n : DmaCh) (ecc : EccResult) (s : State) : Host.Outcome State Fault Refusal :=
  .next (descriptorAct n ecc s)

/-- DMA_COMMIT_REQUEST: the commit that a completed block asked for (R366); in the TICK of the engine's fence it is discarded
(R142). -/
def commitRequestAct (n : Nat) (s : State) : State :=
  let x := s.dma n
  match x.commitAt with
  | none => s
  | some a =>
    let s := s.setDma n { x with commitAt := none }
    match shadowOf a with
    | some (e, t) => if s.domOn (engDom e) && !s.superseded (.engine e) then (requestCommit t e s).2 else s
    | none => s

/-- DMA_COMMIT_REQUEST (R366). -/
def execDmaCommitRequest (n : DmaCh) (s : State) : Host.Outcome State Fault Refusal := .next (commitRequestAct n s)

/-- A write of DMA_DONE clears the bits written as 1 (0x69F0.03). -/
def doneClearAct (v : Nat) (s : State) : Nat × State :=
  (okCode, s.wr E.dmaDone (s.rdN E.dmaDone - (s.rdN E.dmaDone &&& v) : Nat))

/-- DMA_DONE_CLEAR (R377). -/
def execDmaDoneClear (port : Port) (v : Nat) (s : State) : Host.Outcome State Fault Refusal :=
  .next (writeAs s port noTarget E.dmaDone 0 0 v (doneClearAct v))

/-! ### Ring buffers -/

/-- A write of RB_WR: not while the buffer is streamed into, and not lowered while a job is under way (R368, R387). -/
def rbWrAct (r v : Nat) (s : State) : Nat × State :=
  if s.rd E.rsEn r = 1 then (codeState, s)
  else if s.busyJob ∧ v < s.rdN E.rbWr r then (codeRange, s) else (okCode, s.wr E.rbWr v r)

/-- RB_WR_WRITE (R368, R387). -/
def execRbWrWrite (port : Port) (r : RingBuf) (v : Nat) (s : State) : Host.Outcome State Fault Refusal :=
  .next (writeAs s port noTarget E.rbWr r 0 v (rbWrAct r v))

/-- The entry of a geometry field. -/
def geoRow : GeoField → Row
  | .base => E.rbBase
  | .lines => E.rbLines
  | .stride => E.rbStride

/-- A write of a ring buffer's geometry also sets RB_WR to 0 (R377). -/
def geometryAct (r : Nat) (f : GeoField) (v : Nat) (s : State) : Nat × State :=
  (okCode, (s.wr (geoRow f) v r).wr E.rbWr 0 r)

/-- RB_GEOMETRY_WRITE (R377). -/
def execRbGeometryWrite (port : Port) (r : RingBuf) (f : GeoField) (v : Nat) (s : State) :
    Host.Outcome State Fault Refusal :=
  .next (writeAs s port noTarget (geoRow f) r 0 v (geometryAct r f v))

end Sys2Proof.Machine
end

