-- ==== Sys2Proof/Machine/Intake.lean ====
section
/-!
DEFINITION. Raster intake: datagrams, segments, fill, status, address resolution, port links (R369, R378 to R397).
-/
namespace Sys2Proof.Machine

/-! ### Ring-buffer levels -/

/-- The enabled channels that read a ring buffer (0x6910 + r.08). -/
def readersOf (s : State) (r : Nat) : List Nat := (enabledChs s).filter (fun c => s.rdN E.feedRb c == r)

/-- The lowest line that a channel does not yet hold wholly in its line buffer (R369). -/
def channelTail (x : Chan) : Nat :=
  match x.issued.map Fetch.job ++ x.asked with
  | [] => x.askNext
  | a :: r => r.foldl min a

/-- RB_TAIL; open for a buffer that holds lines and has no reader (R369; log entry 39). -/
def rbTail (s : State) (r : Nat) : Nat :=
  match (readersOf s r).map (fun c => channelTail (s.chan c)) with
  | a :: l => l.foldl min a
  | [] => if s.rdN E.rbWr r = 0 then 0 else (Config.idleTail r (s.rdN E.rbWr r)).toNat

/-- RB_FREE (R369). -/
def rbFree (s : State) (r : Nat) : Nat := (clampInt 0 (2 ^ 32 - 1) (s.rd E.rbLines r - (s.rd E.rbWr r - rbTail s r))).toNat

/-! ### Messages and headers -/

/-- At most one message of each kind per port per 1 ms (R385). -/
def portReport (s : State) (p kind addr : Nat) : State :=
  let x := s.port p
  let due := match x.sentAt.find? (fun y => y.1 == kind) with
    | none => true
    | some y => decide (y.2 + 25000 ≤ s.tick)
  if due then (s.setPort p { x with sentAt := ains kind s.tick x.sentAt }).report (0xA0 + p) kind addr else s

/-- A field of bytes, most significant byte first (R14). -/
def field (l : List Byte) (i n : Nat) : Nat := ofBytes ((l.drop i).take n)

/-- The Raster Stream header (R382). -/
structure RsHeader where
  magic : Nat
  ver   : Nat
  type  : Nat
  rb    : Nat
  line  : Nat
  ofs   : Nat
  len   : Nat
  count : Nat
  mask  : Nat
  crc   : Nat
  deriving DecidableEq, Repr

/-- A header from its 32 bytes (R382). -/
def rsHeader (l : List Byte) : RsHeader :=
  ⟨field l 0 1, bits (field l 1 1) 7 4, bits (field l 1 1) 3 0, bits (field l 2 1) 4 0, field l 4 4, field l 8 4,
    field l 12 2, field l 14 2, field l 16 12, field l 28 4⟩

/-- Segments of a line of a ring buffer (R384). -/
def segments (s : State) (r : Nat) : Nat := divCeil (s.rdN E.rsLineBytes r) (s.rdN E.rsSegBytes r)

/-- Bytes of segment k of a line (R384). -/
def segBytes (s : State) (r k : Nat) : Nat :=
  min (s.rdN E.rsSegBytes r) (s.rdN E.rsLineBytes r - k * s.rdN E.rsSegBytes r)

/-- Address of byte o of line k of a ring buffer (R367, R386). -/
def lineByte (s : State) (r k o : Nat) : Nat := s.rdN E.rbBase r + k % s.rdN E.rbLines r * s.rdN E.rbStride r + o

/-! ### Open lines -/

/-- A line of a stream; untouched when nothing of it has arrived. -/
def openLine (x : StreamSt) (k : Nat) : OpenLine := (x.lines.find? (fun l => l.line == k)).getD ⟨k, [], [], false, none⟩

/-- A stream with a line set. -/
def putLine (x : StreamSt) (l : OpenLine) : StreamSt :=
  { x with lines := x.lines.filter (fun m => decide (m.line < l.line)) ++ [l] ++
      x.lines.filter (fun m => decide (l.line < m.line)) }

/-- A line is complete (R387). -/
def lineComplete (s : State) (r : Nat) (l : OpenLine) : Bool := (List.range (segments s r)).all l.written.contains

/-- RB_WR advances past the complete lines (R387). -/
def advance (r : Nat) : Nat → State → State
  | 0, s => s
  | n + 1, s =>
    let x := s.stream r
    let k := s.rdN E.rbWr r
    let l := openLine x k
    if 0 < segments s r ∧ lineComplete s r l then
      advance r n ((s.setStream r { x with lines := x.lines.filter (fun m => m.line != k) }).wr E.rbWr ((k + 1) % 2 ^ 32) r)
    else s

/-- RB_WR advances as far as the lines that stand open allow. -/
def advanceAll (s : State) (r : Nat) : State := advance r ((s.stream r).lines.length + 1) s

/-- Bytes that the spec leaves open (log entry 20). -/
def drawBytes : Nat → State → List Byte × State
  | 0, s => ([], s)
  | n + 1, s =>
    let (v, s) := s.draw
    let (l, s) := drawBytes n s
    (BitVec.ofNat 8 v :: l, s)

/-- The bytes that fill segment g of line k: zeros, or those of line k - 1; zeros when that read is uncorrectable
(R390). Line 0 has no line before it: what a repeat of it holds is open (log entry 20). -/
def fillBytes (s : State) (r k g : Nat) (ecc : EccResult) : List Byte × State :=
  let n := segBytes s r g
  if s.rd E.rsFill r = 0 then (List.replicate n 0, s)
  else if k = 0 then drawBytes n s
  else
    let a := lineByte s r (k - 1) (g * s.rdN E.rsSegBytes r)
    let bad := ecc == .uncorrectable || rangeBad s a n
    (if bad then List.replicate n 0 else logicalRead s a n, touchRead s a n)

/-- Fill one unreceived segment; what its page does not take counts as written (R386, R390; log entry 31). -/
def fillSegment (r k : Nat) (ecc : EccResult) (s : State) (g : Nat) : State :=
  let l := openLine (s.stream r) k
  if l.got.contains g then s
  else
    let (d, s) := fillBytes s r k g ecc
    let a := lineByte s r k (g * s.rdN E.rsSegBytes r)
    let met := reachAll s a d.length
    let s := if met = .silent then holdWrite s ⟨a, d, some (0, r, k, g)⟩ else logicalWrite s a d
    s.setStream r (putLine (s.stream r)
      { l with got := l.got ++ [g], written := if met = .refused then l.written ++ [g] else l.written })

/-- A line is closed: every unreceived segment is filled (R390). LINE_MISSING comes from the port of the latest accepted
segment, port 0 before any (DESIGN CHOICE, log entry 40, unsafe); the limit of R385 is one on datagrams that are discarded. -/
def closeLine (s : State) (r k : Nat) (say : Bool) (ecc : EccResult) : State :=
  let l := openLine (s.stream r) k
  let s := s.setStream r (putLine (s.stream r) { l with closed := true })
  let s := ((List.range (segments s r)).foldl (fillSegment r k ecc) s).count E.missingLines r
  let s := if say then s.report (0xA0 + (s.stream r).sender.elim 0 Prod.fst) 4 k else s
  advanceAll s r

/-- One past the last line that check 8 accepts (R385). -/
def lineLimit (s : State) (r : Nat) : Nat := min (s.rdN E.rbWr r + s.rdN E.rsWindow) (rbTail s r + s.rdN E.rbLines r)

/-- Close lines that a TYPE 0x1 datagram names, from k up, at most n of them, as far as check 8 reaches; the first line
left (R391). -/
def closeAbsent (r stop : Nat) : Nat → Nat → State → Nat × State
  | 0, k, s => (k, s)
  | n + 1, k, s =>
    if stop ≤ k ∨ lineLimit s r ≤ k then (k, s)
    else
      let l := openLine (s.stream r) k
      let s := if k < s.rdN E.rbWr r ∨ l.closed ∨ lineComplete s r l then s else closeLine s r k false .good
      closeAbsent r stop n (k + 1) s

/-- The ranges of absent lines go on as far as they can (R391). -/
def absentStep (s : State) (r : Nat) : State :=
  let todo := (s.stream r).absent
  todo.foldl (fun s x =>
    let (k, s) := closeAbsent r x.2 (lineLimit s r - x.1 + 1) (max x.1 (s.rdN E.rbWr r)) s
    let y := s.stream r
    s.setStream r { y with absent := y.absent.filterMap (fun z =>
      if z = x then (if k < x.2 then some (k, x.2) else none) else some z) }) s

/-- Every stream's absent lines. -/
def absentSteps (s : State) : State :=
  (s.streams.filter (fun x => !x.2.absent.isEmpty)).foldl (fun s x => absentStep s x.1) s

/-! ### Datagrams -/

/-- A frame reaches the port: its domain and its link are up, it is not in the persona's mode, and a shutdown has not
closed it (R394, R511). -/
def intakeOpen (s : State) (p : Nat) : Bool :=
  s.domOn 2 && s.rd E.portEn p == 1 && (s.port p).linkUp && !s.shut.any (fun x => decide (4 ≤ x.step))

/-- Address of port p's IPV6_ADDR and RS_MCAST (log entry 5). -/
def ipv6At (p : Nat) : Nat := blockBase + 16 * p
def mcastAt (p : Nat) : Nat := blockBase + 0x100 + 16 * p

/-- The first twelve bytes of an IPv4-mapped address (RFC 4291; PRESUMED, log entry 64). -/
def mappedPrefix : List Byte := List.replicate 10 0 ++ [0xFF, 0xFF]

/-- The multicast MAC address of an IP group: an IPv4-mapped one or one of IPv6 (RFC 1112, RFC 2464; PRESUMED, log entry
64). -/
def groupMac (g : List Byte) : Nat :=
  if g.take 12 = mappedPrefix then 0x01005E000000 + ofBytes (g.drop 12) % 2 ^ 23 else 0x333300000000 + ofBytes (g.drop 12)

/-- The MAC address of the solicited-node multicast of an IPv6 address (RFC 4291, RFC 2464; PRESUMED, log entry 64). -/
def solicitedMac (a : List Byte) : Nat := 0x3333FF000000 + ofBytes (a.drop 13)

/-- Sixteen zero bytes: no address. -/
def noAddress : List Byte := List.replicate 16 0

/-- The frame has one of the sizes that a port takes (R378). -/
def sizeOk (f : Frame) : Bool := decide (64 ≤ f.size ∧ f.size ≤ 9216)

/-- Destination MACs that a port accepts for a datagram: its own, the solicited-node multicast of its IPv6 address, and the
multicast MAC of RS_MCAST (R378). -/
def macAccepted (s : State) (p : Nat) (f : Frame) : Bool :=
  let own := s.bytes (ipv6At p) 16
  let group := s.bytes (mcastAt p) 16
  f.dstMac == s.rdN E.macAddr p || (own != noAddress && f.dstMac == solicitedMac own) ||
    (group != noAddress && f.dstMac == groupMac group)

/-- A frame that the port discards without looking at it: MAC control, tagged, or for another station (R378). -/
def frameFor (s : State) (p : Nat) (f : Frame) (broadcast : Bool) : Bool :=
  !f.tagged && !f.control && (macAccepted s p f || (broadcast && f.dstMac == 0xFFFFFFFFFFFF))

/-- The IP destination of a datagram is the port's own address or RS_MCAST, in a protocol that the port's own address has not
disabled (R380, R381). -/
def ipAccepted (s : State) (p : Nat) (d : Datagram) : Bool :=
  let own := s.bytes (ipv6At p) 16
  let group := s.bytes (mcastAt p) 16
  if d.dstIp.length = 4 then
    s.rd E.ipv4Addr p != 0 && (ofBytes d.dstIp == s.rdN E.ipv4Addr p || group == mappedPrefix ++ d.dstIp)
  else own != noAddress && (d.dstIp == own || (group != noAddress && d.dstIp == group))

/-- A datagram meets R381 but for its UDP port. -/
def ipOk (s : State) (p : Nat) (d : Datagram) : Bool := ipAccepted s p d && !d.fragment && !d.extended

/-- The checks of R385 up to the seventh: the header, or the state with the datagram counted and discarded. A frame that is
not for the port is discarded after its FCS has been found right and counts nowhere (R378). -/
def checkDatagram (s : State) (p : Nat) (d : Datagram) : RsHeader ⊕ State :=
  let other : RsHeader ⊕ State := .inr (s.count E.dropOther p)
  let h := rsHeader d.payload
  let present := (List.range 96).any (fun c => bit h.mask c && s.chPresent c && s.rdN E.feedRb c == h.rb)
  let seg := s.rdN E.rsSegBytes h.rb
  if !d.frame.good || !sizeOk d.frame then .inr (s.count E.dropFrame p)
  else if !frameFor s p d.frame false then .inr s
  else if !ipOk s p d ∨ d.dstPort ≠ s.rdN E.rsUdpPort ∨ d.payload.length < 32 + h.len then other
  else if h.magic ≠ 0xE5 ∨ h.ver ≠ 1 ∨ 2 < h.type then other
  else if crc32c (d.payload.take 28 ++ (d.payload.drop 32).take h.len) ≠ h.crc then
    .inr (portReport (s.count E.dropCrc p) p 3 0)
  else if (if h.type = 2 then s.rd E.rsSramEn else s.rd E.rsEn h.rb) ≠ 1 then other
  else if h.type ≠ 2 ∧ !present then other
  else if h.type = 0 ∧ (h.ofs % seg ≠ 0 ∨ segments s h.rb ≤ h.ofs / seg ∨ h.len ≠ segBytes s h.rb (h.ofs / seg)) then other
  else if h.type = 2 ∧ (h.len < 1 ∨ 9088 < h.len ∨ 8388608 < h.ofs + h.len) then other
  else .inl h

/-- A line segment that has passed the first seven checks (R385, R386, R388, R389). A write that memory does not accept yet is
held (R301, R329). -/
def takeSegment (s : State) (p : Nat) (d : Datagram) (h : RsHeader) : State :=
  let r := h.rb
  let x := s.stream r
  let l := openLine x h.line
  let g := h.ofs / s.rdN E.rsSegBytes r
  let wr := s.rdN E.rbWr r
  if h.line < wr ∨ l.closed then s.count E.lateSegs r
  else if lineLimit s r ≤ h.line then
    let s := portReport (s.count E.overrunSegs r) p 5 0
    if wr + s.rdN E.rsWindow ≤ h.line ∧ h.line < rbTail s r + s.rdN E.rbLines r ∧ !(openLine (s.stream r) wr).closed ∧
        !lineComplete s r (openLine (s.stream r) wr) then
      closeLine s r wr true .good
    else s
  else if l.got.contains g then s.count E.dupSegs r
  else
    let a := lineByte s r h.line h.ofs
    let met := reachAll s a h.len
    let x := (d.payload.drop 32).take h.len
    if met = .refused then portReport s p 6 0
    else
      let s := if met = .silent then holdWrite s ⟨a, x, some (p, r, h.line, g)⟩ else logicalWrite s a x
      let s := (s.count48 E.rxSegs p).count48 E.rxBytes p h.len
      let y := s.stream r
      s.setStream r { putLine y { l with got := l.got ++ [g], since := some (l.since.getD s.tick) } with
        sender := some (p, d.frame.srcMac, d.srcIp, d.srcPort) }

/-- A staging SRAM write that has passed its checks (R393). -/
def takeSramWrite (s : State) (p : Nat) (d : Datagram) (h : RsHeader) : State :=
  if s.domState 11 ≠ 2 then portReport (s.count E.dropOther p) p 7 0
  else (sramPut s (sramBase + h.ofs) ((d.payload.drop 32).take h.len)).count48 E.rxBytes p h.len

/-- A received datagram (R385 to R393). -/
def datagramAct (p : Nat) (d : Datagram) (s : State) : State :=
  if !intakeOpen s p ∨ s.finup then s
  else match checkDatagram s p d with
    | .inr s => s
    | .inl h =>
      if h.type = 0 then takeSegment s p d h
      else if h.type = 1 then
        let x := s.stream h.rb
        absentStep (s.setStream h.rb { x with absent := x.absent ++ [(h.line, h.line + h.count)] }) h.rb
      else takeSramWrite s p d h

/-- LINE_SEGMENT (R384 to R389). -/
def execLineSegment (p : Fin 2) (d : Datagram) (s : State) : Host.Outcome State Fault Refusal := .next (datagramAct p d s)

/-- ABSENT_LINES (R385, R391). -/
def execAbsentLines (p : Fin 2) (d : Datagram) (s : State) : Host.Outcome State Fault Refusal := .next (datagramAct p d s)

/-- STAGING_SRAM_WRITE (R385, R393). -/
def execStagingSramWrite (p : Fin 2) (d : Datagram) (s : State) : Host.Outcome State Fault Refusal :=
  .next (datagramAct p d s)

/-- A write that waits for its acceptance is tried again: it stays, is made, or meets a page that does not take it, which leaves
the segment unreceived; of a line that has been closed it then counts as filled (R301, R329, R386, R390; log entry 31). -/
def retryWrite (s : State) (w : WaitingWrite) : State :=
  let met := reachAll s w.addr w.data.length
  if met = .silent then holdWrite s w
  else if met ≠ .refused then logicalWrite s w.addr w.data
  else match w.seg with
    | none => s
    | some (p, r, k, g) =>
      let l := openLine (s.stream r) k
      let s := portReport s p 6 0
      if l.closed then advanceAll (s.setStream r (putLine (s.stream r) { l with written := l.written ++ [g] })) r
      else s.setStream r (putLine (s.stream r) { l with got := l.got.filter (· != g) })

/-- Every write that waits, in order. -/
def retryWrites (s : State) : State :=
  s.memory.waiting.foldl retryWrite { s with memory := { s.memory with waiting := [] } }

/-- SEGMENT_WRITE_DONE: the write of a received or filled segment completes, and RB_WR advances (R387). -/
def segmentDoneAct (r line seg : Nat) (s : State) : State :=
  let x := s.stream r
  let l := openLine x line
  let held := s.memory.waiting.any (fun w => w.seg.any (fun y => y.2 == (r, line, seg)))
  if l.got.contains seg ∧ !l.written.contains seg ∧ !held then
    absentStep (advanceAll (s.setStream r (putLine x { l with written := l.written ++ [seg] })) r) r
  else s

/-- SEGMENT_WRITE_DONE (R387). -/
def execSegmentWriteDone (r : RingBuf) (line seg : Nat) (s : State) : Host.Outcome State Fault Refusal :=
  .next (segmentDoneAct r line seg s)

/-- The lowest line that is not complete and stands below a line with an accepted segment (R389). -/
def gapLine (s : State) (r : Nat) : Option Nat :=
  let x := s.stream r
  let top := (x.lines.filter (fun l => l.since.isSome)).map OpenLine.line |>.foldl max 0
  let wr := s.rdN E.rbWr r
  ((List.range (top - wr)).map (· + wr)).find? (fun k =>
    let l := openLine x k
    !l.closed && !lineComplete s r l)

/-- RS_GAP_TIMEOUT: that line is closed with fill (R389, R390). -/
def gapTimeoutAct (r : Nat) (ecc : EccResult) (s : State) : State :=
  if s.rd E.rsEn r ≠ 1 then s
  else match gapLine s r with
    | none => s
    | some k => absentStep (closeLine s r k true ecc) r

/-- RS_GAP_TIMEOUT (R389, R390). -/
def execRsGapTimeout (r : RingBuf) (ecc : EccResult) (s : State) : Host.Outcome State Fault Refusal :=
  .next (gapTimeoutAct r ecc s)

/-- The 32 bytes of a status datagram (R382, R392). -/
def statusBytes (s : State) (r : Nat) : List Byte :=
  let h := toBytes 1 0xE5 ++ toBytes 1 0x18 ++ toBytes 1 r ++ toBytes 1 0 ++ toBytes 4 (s.rdN E.rbWr r) ++
    toBytes 4 (rbFree s r) ++ toBytes 4 0 ++ toBytes 12 0
  h ++ toBytes 4 (crc32c h)

/-- The port's own IP address in the protocol of a peer's. -/
def ownIp (s : State) (p : Nat) (peer : List Byte) : List Byte :=
  if peer.length = 4 then toBytes 4 (s.rdN E.ipv4Addr p) else s.bytes (ipv6At p) 16

/-- The sum of the 16-bit words of bytes. -/
def wordSum : List Byte → Nat
  | a :: b :: r => a.toNat * 256 + b.toNat + wordSum r
  | [a] => a.toNat * 256
  | [] => 0

/-- The UDP checksum (R381): the complement of the one's complement sum over the pseudo header, the header and the data (RFC 768,
RFC 8200; PRESUMED, log entry 64). -/
def udpChecksum (src dst : List Byte) (srcPort dstPort : Nat) (data : List Byte) : Nat :=
  let sum := wordSum src + wordSum dst + 17 + 2 * (data.length + 8) + srcPort + dstPort + wordSum data
  let rest := sum % 65535
  if rest = 0 then 65535 else 65535 - rest

/-- STATUS_DATAGRAM: to the sender of the latest accepted segment, on its port (R392). -/
def statusAct (r : Nat) (s : State) : State :=
  match (s.stream r).sender with
  | some (p, mac, ip, udp) =>
    if s.rd E.rsAckPeriod = 0 ∨ s.rd E.rsEn r ≠ 1 ∨ !intakeOpen s p ∨ s.finup then s
    else
      let own := ownIp s p ip
      let port := s.rdN E.rsUdpPort
      let data := statusBytes s r
      s.emit (.datagram p mac ip udp (s.rdN E.macAddr p) own port (udpChecksum own ip port udp data) data)
  | none => s

/-- STATUS_DATAGRAM (R392). -/
def execStatusDatagram (r : RingBuf) (s : State) : Host.Outcome State Fault Refusal := .next (statusAct r s)

/-! ### Address resolution and links -/

/-- ARP_REQUEST for the port's IPv4 address (R378, R380). -/
def arpAct (p : Nat) (f : Frame) (ip target : Nat) (s : State) : State :=
  if !intakeOpen s p then s
  else if !f.good || !sizeOk f then s.count E.dropFrame p
  else if frameFor s p f true && s.rd E.ipv4Addr p != 0 && target == s.rdN E.ipv4Addr p then
    s.emit (.arpReply p f.srcMac ip (s.rdN E.macAddr p) target)
  else s

/-- ARP_REQUEST (R378, R380). -/
def execArpRequest (p : Fin 2) (frame : Frame) (srcIp targetIp : Nat) (s : State) : Host.Outcome State Fault Refusal :=
  .next (arpAct p frame srcIp targetIp s)

/-- NEIGHBOUR_SOLICITATION for the port's IPv6 address (R378, R380). -/
def solicitAct (p : Nat) (f : Frame) (ip target : List Byte) (s : State) : State :=
  let own := s.bytes (ipv6At p) 16
  if !intakeOpen s p then s
  else if !f.good || !sizeOk f then s.count E.dropFrame p
  else if frameFor s p f false && own != noAddress && target == own then
    s.emit (.neighbourAdvert p f.srcMac ip (s.rdN E.macAddr p) own)
  else s

/-- NEIGHBOUR_SOLICITATION (R378, R380). -/
def execNeighbourSolicitation (p : Fin 2) (frame : Frame) (srcIp targetIp : List Byte) (s : State) :
    Host.Outcome State Fault Refusal := .next (solicitAct p frame srcIp targetIp s)

/-- LINK_DOWN: a port that was up loses its link (R395). -/
def linkDownAct (p : Nat) (s : State) : State :=
  let x := s.port p
  if s.domOn 2 ∧ x.linkUp then (s.setPort p { x with linkUp := false, anDone := false, lost := true }).report (0xA0 + p) 1 0 else s

/-- LINK_DOWN (R395, R397). -/
def execLinkDown (p : Fin 2) (s : State) : Host.Outcome State Fault Refusal := .next (linkDownAct p s)

/-- LINK_UP: a port that is powered has its link; auto-negotiation is of the persona's mode (R394, R397). -/
def linkUpAct (p : Nat) (anDone : Bool) (s : State) : State :=
  if s.domOn 2 ∧ s.rd E.portEn p = 1 ∧ !unitInReset s (0xA0 + p) then
    s.setPort p { s.port p with linkUp := true, lost := false, anDone := anDone && s.finup }
  else s

/-- LINK_UP (R397). -/
def execLinkUp (p : Fin 2) (anDone : Bool) (s : State) : Host.Outcome State Fault Refusal := .next (linkUpAct p anDone s)

/-- FEC_UNCORR: uncorrectable codewords of 1 ms; more than 16 are reported (R395). -/
def fecAct (p n : Nat) (s : State) : State :=
  if !s.domOn 2 ∨ s.rd E.portEn p ≠ 1 ∨ s.finup then s
  else
    let s := s.count E.fecUncorrCnt p n
    if 16 < n then s.report (0xA0 + p) 2 0 else s

/-- FEC_UNCORR (R395). -/
def execFecUncorr (p : Fin 2) (codewords : Nat) (s : State) : Host.Outcome State Fault Refusal :=
  .next (fecAct p codewords s)

/-- The fence of an intake port resets it: its link drops (R395). -/
def fencePort (s : State) (p : Nat) : State := s.setPort p { lost := (s.port p).linkUp || (s.port p).lost }

/-- A write of PORT_EN: 0 powers the SerDes down (0xA000 + p.01). -/
def portEnAct (p v : Nat) (s : State) : Nat × State :=
  let s := s.wr E.portEn v p
  (okCode, if v = 0 then s.setPort p { s.port p with linkUp := false, lost := false, anDone := false } else s)

/-- A write of RS_EN (R384). -/
def rsEnAct (r v : Nat) (s : State) : Nat × State :=
  let seg := s.rdN E.rsSegBytes r
  let n := s.rdN E.rsLineBytes r
  if v = 1 ∧ (seg % 64 ≠ 0 ∨ seg < 64 ∨ 9088 < seg ∨ n = 0 ∨ s.rdN E.rbStride r < n ∨ 256 * seg < n ∨
      s.rdN E.rbLines r < s.rdN E.rsWindow) then (codeRange, s)
  else
    let s := if s.rd E.rsEn r = v then s else s.setStream r {}
    (okCode, s.wr E.rsEn v r)

/-- RS_EN_WRITE (R384). -/
def execRsEnWrite (port : Port) (r : RingBuf) (v : Nat) (s : State) : Host.Outcome State Fault Refusal :=
  .next (writeAs s port noTarget E.rsEn r 0 v (rsEnAct r v))

end Sys2Proof.Machine
end

