-- ==== Sys2Proof/Machine/Lanes.lean ====
section
/-!
DEFINITION. The lanes of the Darine rings, wrapping, and when a node has joined (R398 to R400, R418 to R423, R441).
-/
namespace Sys2Proof.Machine

/-- The up side is broken: RING_A_IN is down, or the up neighbour reports that it does not receive RING_B_OUT (R421). -/
def upBroken (s : State) : Bool := !(s.lane 0).inUp || ((s.lane 1).heard && !(s.lane 1).outOk)

/-- The down side is broken: the same for RING_B_IN and RING_A_OUT (R421). -/
def downBroken (s : State) : Bool := !(s.lane 1).inUp || ((s.lane 0).heard && !(s.lane 0).outOk)

/-- Each IN lane is up or wrapped, and one at least is up (R418, R419; log entry 41). -/
def lanesReady (s : State) : Bool :=
  let a := (s.lane 0).inUp
  let b := (s.lane 1).inUp
  (a || b) && (a || s.ring.wrapUp) && (b || s.ring.wrapDown)

/-- The node has joined the ring (R418, R419). -/
def joinNow (s : State) : State :=
  if s.ring.join = 1 ∨ s.ring.join = 3 then { s with ring := { s.ring with join := 2 } } else s

/-- An unassigned node joins once its lanes are ready (R418). -/
def joinUnassigned (s : State) : State := if !assigned s && lanesReady s then joinNow s else s

/-- Each broken side wraps; WRAP is sent from the ring whose lane caused it (R422). An unassigned node may then have
joined (R418). -/
def evalSides (s : State) (cause : Nat) : State :=
  let s := if upBroken s && !s.ring.wrapUp then
    ({ s with ring := { s.ring with wrapUp := true } }).report (0xA8 + cause) 2 0 else s
  let s := if downBroken s && !s.ring.wrapDown then
    ({ s with ring := { s.ring with wrapDown := true } }).report (0xA8 + cause) 2 0 else s
  joinUnassigned s

/-- The IN lane of a ring is down: reports of the neighbour that came on it no longer count, and frames held behind it
are lost (R400, R421, R424). -/
def dropIn (s : State) (i : Nat) : State :=
  let s := s.setLane i { s.lane i with inUp := false, lost := (s.lane i).lost || (s.lane i).inUp }
  s.setLane (1 - i) { s.lane (1 - i) with heard := false, outOk := false }

/-- A fence of a ring resets its lanes, and the node wraps (R441). -/
def fenceLane (s : State) (i : Nat) : State :=
  let s := dropIn s i
  let s := s.setLane i { s.lane i with transit := [], own := [], busy := false, inj := false, delayReq := none }
  evalSides s i

/-- The ring lanes are powered: DOM_1 is on and RING_EN was 1 at start-up (R418, 0x1100.01). -/
def ringOn (s : State) : Bool := s.domOn 1 && s.ring.join != 0

end Sys2Proof.Machine
end

