-- ==== Sys2Proof/Machine/Governor.lean ====
section
/-!
DEFINITION. The Girth, the speed governor and the SPEED_LIM pin (R103 to R106, R218 to R226, R233, R243, R244, R276).
-/
namespace Sys2Proof.Machine

/-! ### Rates -/

/-- The engine's learn scan in a planning interval: its rate is summed, and a rate that has left the band around the
rate at its start discards it (R243, R244). -/
def learnRateStep (s : State) (e rate : Nat) : State :=
  let x := s.eng e
  match x.learn with
  | none => s
  | some l =>
    let tol := s.rdN E.probeRateTol e
    if rate * 100 < l.rate0 * (100 - tol) ∨ l.rate0 * (100 + tol) < rate * 100 then discardLearn s e
    else s.setEng e { x with learn := some { l with rateSum := l.rateSum + rate, rateNum := l.rateNum + 1 } }

/-- A channel's mean fire rate over the planning interval that ends (R233). -/
def rateStep (s : State) (c : Nat) : State :=
  let x := s.chan c
  let rate := x.firedInt * 1000
  let s := s.setChan c { x with rateInt := rate, firedInt := 0 }
  match serving s c with
  | none => s
  | some e => learnRateStep s e rate

/-! ### The Girth -/

/-- Lines fired in the interval, and the channels that fired. -/
def firedLines (s : State) : Nat × Nat :=
  s.chans.foldl (fun a x => (a.1 + x.2.firedInt, if x.2.firedInt = 0 then a.2 else a.2 + 1)) (0, 0)

/-- One watt over a planning interval, in nJ. -/
def wattUnit : Nat := 10 ^ 6

/-- The limits that a planning interval takes: writes of its own TICK wait for the next one (R224). -/
def takeLimits (s : State) : State :=
  { s with gov := { s.gov with
    quota := (s.rdHeld E.girthQuota).toNat, speedMax := (s.rdHeld E.speedMax).toNat, floor := (s.rdHeld E.speedFloor).toNat,
    decel := (s.rdHeld E.decelLim).toNat, accel := (s.rdHeld E.accelLim).toNat } }

/-- GIRTH_POWER, GIRTH_OVER and E_AVG of the interval that ends (R218, R219, R222). -/
def girthStep (s : State) : State :=
  let acc := s.gov.acc
  let (p, s) := roundWord s (acc / wattUnit)
  let quota := s.gov.quota
  let over_ := quota != 0 && decide (((quota * wattUnit : Nat) : Rat) < acc)
  let s := (s.wr E.girthPower p)
  let s := if over_ then s.count E.girthOverMs else s
  let (n, m) := firedLines s
  let s :=
    if n = 0 then s
    else
      let raw : Rat := acc * m / n / 1000
      let e : Rat := if s.gov.seeded then s.rd E.eAvg + (raw - s.rd E.eAvg) / s.rd E.girthTau else raw
      s.wr E.eAvg (sat32 (ratNearest e))
  { s with gov := { s.gov with acc := 0, girthOver := over_, seeded := s.gov.seeded || n != 0 } }

/-! ### The target -/

/-- No limit (0x2310.06). -/
def noLimit : Nat := 2 ^ 32 - 1

/-- r_quota in 1/16 line per second, rounded down to whole lines per second as in Example 3 of chapter 4 (R222). -/
def rateOfQuota (s : State) : Nat :=
  if s.gov.quota = 0 ∨ s.rd E.eAvg = 0 then noLimit
  else min noLimit (s.gov.quota * 10 ^ 6 / s.rdN E.eAvg * 16)

/-- Lines held in DRAM ahead of a channel's fire point (R369). -/
def linesAheadOf (s : State) (c : Nat) : Int :=
  match ringBufOf s c with
  | none => 0
  | some r =>
    let x := s.chan c
    s.rd E.rbWr r - x.page * pageLinesOf s c - (match x.fired with
      | some k => (k : Int) + 1
      | none => 0)

/-- L: the least over the enabled channels (R223). -/
def linesAhead (s : State) : Nat :=
  match (enabledChs s).map (linesAheadOf s) with
  | [] => 0
  | a :: r => (r.foldl min a).toNat

/-- r_buf in 1/16 line per second, rounded down (R223). -/
def rateOfBuffer (s : State) (l : Nat) : Nat := Nat.sqrt (512 * s.gov.decel * (l - s.rdN E.bufReserve))

/-- The limits of loop 1 from the governor's entries (R276). -/
def governorLoop (s : State) : State :=
  let slew (v : Int) : Int := (v * 16 * 2 ^ 16 * 2 + 1000).fdiv 2000
  (((s.wr E.outMin (s.gov.floor * 2 ^ 16 : Nat) 1).wr E.outMax (s.gov.speedMax * 2 ^ 16 : Nat) 1).wr E.slewDown
    (slew s.gov.decel) 1).wr E.slewUp (slew s.gov.accel) 1

/-- The target rate and the terms it is made of (R221 to R223). LIMITER names the term that set it. -/
def targetStep (s : State) : State :=
  let l := if s.busyJob then linesAhead s else 0
  let rq := rateOfQuota s
  let rb := if s.busyJob then rateOfBuffer s l else 0
  let mx := s.gov.speedMax
  let low := min mx (min rq rb)
  let fl := s.gov.floor
  let term := if !s.busyJob then 5 else if overspeed s then 4 else if low < fl then 3
    else if low = mx then 0 else if low = rq then 1 else 2
  ((((s.wr E.linesAhead l).wr E.rQuota rq).wr E.rBuf (min noLimit rb)).wr E.speedTarget (max fl low)).wr E.limiter term

/-- PLANNING_INTERVAL: rates, the Girth, the target, loop 1's sample, which makes SPEED_REQ, and its broadcast (R104,
R218 to R226, R276). -/
def planningAct (s : State) : State :=
  if !s.domOn 10 then s
  else
    let s := girthStep (takeLimits s)
    let s := (s.chans.map Prod.fst).foldl rateStep s
    let s := sampleLoop 1 (governorLoop (targetStep s))
    if s.rd E.speedBcast = 1 then raiseEvent s 5 0x2190 1 (s.rdN E.speedReq) else s

/-- PLANNING_INTERVAL (R104, R218 to R226, R276). -/
def execPlanningInterval (s : State) : Host.Outcome State Fault Refusal := .next (planningAct s)

/-! ### SPEED_LIM -/

/-- SPEED_LIM is driven statically low (R106). -/
def speedLimLow (s : State) : Bool :=
  s.rd E.speedReq == 0 || s.rd E.speedLimEn == 0 || s.dev == .boot || s.dev == .config || s.outputsOff ||
    !s.domOn 10

/-- d of R105. -/
def speedDuty (s : State) : Nat :=
  max 1 (min 1023 (1024 * s.rdN E.speedReq / (16 * s.rdN E.speedLimFull)))

/-- The pin goes low when one of the cases of R106 holds; the periods are over. -/
def restPin (s : State) : State :=
  if speedLimLow s && s.gov.pwm.isSome then ({ s with gov := { s.gov with pwm := none } }).emit (.speedLim 0 0) else s

/-- A PWM period begins: its length and its high part (R105), or the pin rests low (R106). -/
def pwmStart (s : State) : State :=
  if speedLimLow s then restPin s
  else
    let len := (divNearest 800000000 (s.rd E.speedLimFreq)).toNat
    let high := (divNearest (len * speedDuty s) 1024).toNat
    ({ s with gov := { s.gov with pwm := some (s.time, len, high) } }).emit (.speedLim len high)

/-- SPEED_LIM_PERIOD (R105, R106). -/
def execSpeedLimPeriod (s : State) : Host.Outcome State Fault Refusal := .next (pwmStart s)

/-- A write of SPEED_LIM_FREQ restarts the periods (R105). -/
def speedLimFreqAct (v : Nat) (s : State) : Nat × State := (okCode, pwmStart (s.wr E.speedLimFreq v))

/-- SPEED_LIM_FREQ_WRITE (R105). -/
def execSpeedLimFreqWrite (port : Port) (v : Nat) (s : State) : Host.Outcome State Fault Refusal :=
  .next (writeAs s port noTarget E.speedLimFreq 0 0 v (speedLimFreqAct v))

end Sys2Proof.Machine
end

