-- ==== Sys2Proof/Machine/Shutdown.lean ====
section
/-!
DEFINITION. Stops and shutdowns (R458, R494, R510 to R516).
-/
namespace Sys2Proof.Machine

/-- A stop is sampled in ARMED or PRINTING: no further line is locked; in ARMED the device enters HALT at once (R458).
Elsewhere it leaves the device state as it is (R494). -/
def stopJob (s : State) : State :=
  let s := s.act .job .abort
  if s.dev = .armed then endJob s .halt
  else if s.dev = .printing then { s with job := { s.job with stopping := true } }
  else s

/-- The step that a shutdown is in. -/
def setStep (s : State) (n : Nat) : State := { s with shut := s.shut.map (fun x => { x with step := n }) }

/-- Every channel's outputs are forced safe: waveforms, AMP_EN and heater duties go to 0, the Head links idle and
SPEED_LIM goes low (R511 steps 2 and 3, R512). Locked lines are abandoned. -/
def outputsSafe (s : State) : State :=
  let s := abandonAll s (fun _ => true)
  pwmStart ((List.range 96).foldl heaterForce s)

/-- Step 4 begins: DMA channels abort, and a running STORE is abandoned (R511). -/
def drainUnits (s : State) : State :=
  let s := (List.range 16).foldl (fun s n => (dmaAbortAct n s).2) s
  { s with store := { s.store with storing := none } }

/-- Step 5 begins: a thermal trip is recorded in the Tally (R511 to R513). -/
def stepFive (s : State) : State :=
  let s := if s.shutStep ≤ 3 then setStep (outputsSafe (setStep s 5)) 5 else setStep s 5
  if s.shut.any Shutdown.trip then burnTrip s else s

/-- The order in which a shutdown powers the domains down (R511 step 6). -/
def downOrder : List Nat := [6, 7, 8, 9, 2, 11, 1, 10, 5, 4, 3]

/-- In step 6 the next domain of the order powers down, once none is powering down; power-ups under way are dropped. -/
def downNext (s : State) : State :=
  let s := downOrder.foldl dropPowerUp s
  match downOrder.find? (fun d => s.domOn d || s.domState d == 4) with
  | none => s
  | some d => if downOrder.any (fun x => s.domState x == 4) then s else beginDown s d

/-- Every domain but DOM_0 is off, and the device is SAFE (R511 steps 6 and 7, R515). -/
def enterSafe (s : State) : State :=
  let s := downOrder.foldl (fun s d =>
    let s := setWaiting s d false
    if s.domState d = 0 ∨ s.domState d = 6 then s else clearDomain d (setDom s d 0)) s
  setDev { s with shut := none } .safe

/-- A cause of a shutdown, its mode decided (R510, R512, R514): begun in step 1, or in step 5 in immediate mode; while
one runs, only a cause in immediate mode has an effect, and it goes straight to step 5. -/
def shutdownCause (s : State) (trip immediate : Bool) : State :=
  if s.dev = .safe then s
  else match s.shut with
    | none =>
      let s := { s with shut := some ⟨1, trip, s.tick⟩ }
      if immediate || s.rd E.shutdownBudget == 0 then stepFive s else s
    | some x =>
      if immediate && decide (x.step < 5) then stepFive { s with shut := some { x with trip := x.trip || trip } } else s

/-- SHUTDOWN_MODE reads immediate (R510). -/
def modeImmediate (s : State) : Bool := s.rd E.shutdownMode == 1

/-- A reset that a shutdown under way ignores sends it straight to step 5 (R514, R516). -/
def ignoredReset (s : State) : State := if 0 < s.shutStep ∧ s.shutStep < 5 then stepFive s else s

/-- No line is locked any more: step 1 may end. -/
def stepEndAct (s : State) : State :=
  match s.shutStep with
  | 1 => if drained s then setStep s 2 else s
  | 2 => outputsSafe (setStep s 3)
  | 3 => drainUnits (setStep s 4)
  | 4 => stepFive ((List.range 16).foldl (fun s n => if (s.dma n).st = .aborting then dmaAborted s n else s) s)
  | 5 => downNext (setStep s 6)
  | 6 => enterSafe s
  | _ => s

/-- SHUTDOWN_STEP_END: the step that runs ends and the next begins (R511). Step 1 does not end while a line is locked. -/
def execShutdownStepEnd (s : State) : Host.Outcome State Fault Refusal := .next (stepEndAct s)

/-- SHUTDOWN_BUDGET: the budget runs out before step 4 has ended (R512). -/
def execShutdownBudget (s : State) : Host.Outcome State Fault Refusal := .next (ignoredReset s)

end Sys2Proof.Machine
end

