-- ==== Sys2Proof/Machine/Faults.lean ====
section
/-!
DEFINITION. The fault collector: classes, reactions, reaction windows, clearing, ALIVE (R490 to R504, R507).
-/
namespace Sys2Proof.Machine

/-! ### Reaction windows -/

/-- Kinds that a window discards from any source: those of a link (R497). -/
def linkKind (src kind : Nat) : Bool :=
  (src ≤ 0x63 && (kind == 7 || kind == 9)) || ((src == 0xA0 || src == 0xA1) && kind == 1) ||
    ((src == 0xA8 || src == 0xA9) && (kind == 1 || kind == 2))

/-- A message is discarded unseen: it comes from a source whose fence has opened a window, or is of a link kind while any
window is open (R497, R498). -/
def inWindow (s : State) (src kind : Nat) : Bool :=
  s.windows.any (fun w => windowOpen s w && (w.src == src || linkKind src kind))

/-- A fence opens its window and is counted (R497, 0x7100.07). -/
def openWindow (s : State) (src : Nat) : State :=
  let w : List Window := s.windows.filter (fun w => w.src != src) ++ [⟨src, s.tick⟩]
  ({ s with windows := w }).count E.fences

/-! ### Reactions -/

/-- A fence reaction (R491, R495). A fence of an engine that is already fenced has no further effect (R494). -/
def fence (s : State) (src kind : Nat) : State :=
  if src ≤ 0x63 then
    if (s.eng src).fenced then s
    else
      let c := channelOf s src
      let s := fenceEngine (openWindow s src) src kind
      let s := s.act (.engine src) .fence
      match c with
      | none => s
      | some c => s.act (.channel c) .fence
  else if 0x80 ≤ src ∧ src ≤ 0x8F then (fenceDma (openWindow s src) (src - 0x80)).act (.dma (src - 0x80)) .fence
  else if src = 0xA0 ∨ src = 0xA1 then (fencePort (openWindow s src) (src - 0xA0)).act (.intake (src - 0xA0)) .fence
  else if src = 0xA8 ∨ src = 0xA9 then (fenceLane (openWindow s src) (src - 0xA8)).act (.lane (src - 0xA8)) .fence
  else stopJob (openWindow s src)

/-- The reaction of a class (R494, R495): note and degrade only record. -/
def react (s : State) (src kind cls : Nat) : State :=
  if cls = 2 then fence s src kind
  else if cls = 3 then stopJob s
  else if cls = 4 then shutdownCause s false (modeImmediate s)
  else s

/-! ### The collector -/

/-- The class configured for a kind (R495): a CLASS_k write of the same TICK is not yet in force (R496). -/
def classOf (s : State) (src kind : Nat) : Nat := (s.rdHeld E.faultClass src (kind - 1)).toNat

/-- FAULT latches in every persona when a sticky bit of stop or shutdown class is set (R576). -/
def personaFault (s : State) : State :=
  { s with personas := s.personas.map (fun x => if x.2.on then (x.1, { x.2 with latched := x.2.latched ||| 128 }) else x) }

/-- The detail that a message carries (R490): kinds 1 and 2 of an engine give the channel, memory, shadow bit and entry of
R615, and a kind of an engine whose detail no chapter states carries 0. -/
def sentAddr (s : State) (m : FaultMsg) : Nat :=
  if m.src ≤ 0x63 then
    if m.kind = 1 ∨ m.kind = 2 then
      let mem := bits m.addr 39 36 % 8
      (channelOf s m.src).getD 0xFF * 2 ^ 40 + mem * 2 ^ 36 + (if mem < 4 then bits m.addr 35 35 * 2 ^ 35 else 0) +
        m.addr % 2 ^ 16
    else if m.kind = 3 ∨ m.kind = 6 then 0
    else m.addr
  else m.addr

/-- What the collector records of a message (R492). -/
def recordFault (s : State) (m : FaultMsg) : State :=
  let was := stickySet s m.src
  let cls := classOf s m.src m.kind
  let old := s.rdN E.stickyClass m.src
  let s := ((s.wr E.sticky 1 m.src).wr E.lastKind m.kind m.src).wr E.lastAddr (sentAddr s m % 2 ^ 48) m.src
  let s := (s.count E.msgCount m.src).wr E.stickyClass (max (s.rdN E.stickyClass m.src) cls) m.src
  let s := s.act (.source m.src) .done
  let s := if 3 ≤ cls ∧ ¬(was = true ∧ 3 ≤ old) then personaFault s else s
  if was then s
  else
    let v := m.src * 256 + m.kind
    maskedEvent (s.wr E.faultLast v).stale 3 0x2000 0x0B v

/-- A discarded message (R497). -/
def loseFault (s : State) : State := (s.wr E.lostInReaction 1).stale.count E.lostCount

/-- The collector samples a message (R492 to R498). -/
def collect (s : State) (m : FaultMsg) : State :=
  if inWindow s m.src m.kind then loseFault s
  else react (recordFault s m) m.src m.kind (classOf s m.src m.kind)

/-- FAULT_MESSAGE: the message leaves the unit that sent it and is sampled. A source or kind that R491 and the chapters
do not define is never sent. A message sampled after a reset, a trip or a supply reset of its TICK is discarded (R39). -/
def faultAct (m : FaultMsg) (s : State) : State :=
  if !sourceExists m.src || !kindExists m.src m.kind then s
  else if s.actedOn .device [.reset, .trip] then { s with faultQ := s.faultQ.erase m }
  else collect { s with faultQ := s.faultQ.erase m } m

/-- FAULT_MESSAGE (R490 to R498). -/
def execFaultMessage (m : FaultMsg) (s : State) : Host.Outcome State Fault Refusal := .next (faultAct m s)

/-- REACTION_WINDOW_END: a window whose 64 TICKs are over closes; a fenced unit other than an engine returns to service
(R497, R501). -/
def execReactionWindowEnd (src : Nat) (s : State) : Host.Outcome State Fault Refusal :=
  .next { s with windows := s.windows.filter (fun w => w.src != src || windowOpen s w) }

/-! ### Clearing -/

/-- A lane that serves an enabled channel of a job has not been up since its domain powered up: ARM has reported it
(R198). -/
def neverUp (s : State) (c : Nat) (ever : Bool) : Bool := s.busyJob && enabledCh s c && !ever

/-- The lasting conditions of an engine's channel that are present (R500): kind and address. -/
def lastingChannel (s : State) (c : Nat) : List (Nat × Nat) :=
  let x := s.chan c
  let at_ := c * 2 ^ 40
  let lanes := 15 - x.lanes % 16
  let linkLost := !legacy s c && ((x.bridgeEver && (!x.bridgeUp || lanes != 0)) || neverUp s c x.lockEver)
  let heads := if s.rd E.paused c = 1 ∧ (x.sensorEver || s.rd E.tempSrc c != 2) then
    [(0xB, at_ + unsigned 16 (s.rd E.headTemp c))] else []
  (if linkLost then [(7, at_ + flag (!x.bridgeUp) 4 + lanes)] else []) ++
    (if (x.rxEver && !x.rxUp) || neverUp s c x.rxEver then [(9, at_)] else []) ++
    (if x.ampFault || 16 ≤ x.ocRun || x.supplySent then [(0xA, at_)] else []) ++ heads ++
    (if x.sensorEver && !x.sensorOk then [(0xC, at_ + unsigned 16 (s.rd E.headTemp c))] else [])

/-- A rank is failing and no spare rank is free for it (R322); those of this TICK are still to be assigned (R315). -/
def rankExhausted (s : State) (rank : Nat) : Bool := (s.rank rank).st == 2 && !s.memory.failing.any (fun x => x.1 == rank)

/-- The lasting conditions of a source that are present (R500). -/
def lasting (s : State) (src : Nat) : List (Nat × Nat) :=
  if src ≤ 0x63 then match channelOf s src with
    | none => []
    | some c => lastingChannel s c
  else if 0x70 ≤ src ∧ src ≤ 0x74 then
    let ranks := [2 * (src - 0x70), 2 * (src - 0x70) + 1]
    (if ranks.any (rankExhausted s) then [(4, 0)] else []) ++ (if ranks.any (fun r => (s.rank r).overTemp) then [(6, 0)] else [])
  else if src = 0xB8 then
    (if s.obs.active = 6 ∧ s.obs.limited then [(6, s.rdN E.posEst)] else []) ++
      (if s.obs.active = 7 ∧ s.domOn 10 then [(9, s.rdN E.posEst)] else [])
  else if src = 0xA0 ∨ src = 0xA1 then if (s.port (src - 0xA0)).lost then [(1, 0)] else []
  else if src = 0xA8 ∨ src = 0xA9 then
    (if (s.lane (src - 0xA8)).lost then [(1, 0)] else []) ++
      (if src = 0xA8 ∧ s.rdN E.rtState = 3 then [(6, 0)] else [])
  else if src = 0xD0 then
    if s.die.broken then [(2, s.rdN E.diodeState * 2 ^ 16 + s.die.rawLast.getD 0 % 2 ^ 16)] else []
  else if 0xD1 ≤ src ∧ src ≤ 0xDC then
    if s.sup.low.contains (src - 0xD1) then [(1, s.rdN E.supV (src - 0xD1))] else []
  else []

/-- A sticky bit is cleared, unless a message of its source was sampled in this TICK; what waits for the clear goes on
(R254, R263, R499). -/
def clearSticky (s : State) (src : Nat) : State :=
  if s.actedOn (.source src) [.done] then s
  else
    let was := stickySet s src
    let s := (s.wr E.sticky 0 src).wr E.stickyClass 0 src
    let s := if src ≤ 0x63 then s.setEng src { s.eng src with corrStop := false } else s
    if src = 0xB0 ∧ was = true then noteCleared s else s

/-- A clear of a source: a lasting condition that is present is reported again, whether or not the bit was set (R499,
R500). -/
def clearSource (s : State) (src : Nat) : State :=
  (lasting s src).foldl (fun s x => s.report src x.1 x.2) (clearSticky s src)

/-- Every source, ascending (R491). -/
def allSources : List Nat := (List.range 256).filter sourceExists

/-- The write of 0 to STICKY (R499). -/
def stickyClearAct (src : Nat) (s : State) : Nat × State := (okCode, clearSource s src)

/-- The write of 1 to CLEAR_ALL (R499). -/
def clearAllAct (s : State) : Nat × State := (okCode, allSources.foldl clearSource s)

/-- The write of 0 to LOST_IN_REACTION (R22). -/
def lostClearAct (s : State) : Nat × State := (okCode, s.wr E.lostInReaction 0)

/-- STICKY_CLEAR (R499, R500). -/
def execStickyClear (port : Port) (src v : Nat) (s : State) : Host.Outcome State Fault Refusal :=
  .next (writeAs s port noTarget E.sticky src 0 v (stickyClearAct src))

/-- CLEAR_ALL (R499, R500). -/
def execClearAll (port : Port) (v : Nat) (s : State) : Host.Outcome State Fault Refusal :=
  .next (writeAs s port noTarget E.clearAll 0 0 v clearAllAct)

/-- LOST_IN_REACTION_CLEAR (R22). -/
def execLostInReactionClear (port : Port) (v : Nat) (s : State) : Host.Outcome State Fault Refusal :=
  .next (writeAs s port noTarget E.lostInReaction 0 0 v lostClearAct)

/-! ### ALIVE -/

/-- A sticky bit has a STICKY_CLASS of a class. -/
def anySticky (s : State) (p : Nat → Bool) : Bool :=
  allSources.any (fun k => stickySet s k && p (s.rdN E.stickyClass k))

/-- FROZEN: a stop- or shutdown-class sticky bit is set (R489, R503). -/
def frozen (s : State) : Bool := anySticky s (fun c => decide (3 ≤ c))

/-- ALIVE_STATE: 0 held low, 1 toggling, 2 frozen (R503, 0x7100.06). -/
def aliveState (s : State) : Nat :=
  if s.dev = .boot then 0 else if s.dev = .safe ∨ frozen s then 2 else 1

/-- ALIVE_TOGGLE: the pin changes level while it toggles (R503, R504). -/
def aliveAct (s : State) : State :=
  if aliveState s = 1 then ({ s with alive := !s.alive }).emit (.alive (!s.alive)) else s

/-- ALIVE_TOGGLE (R503, R504). -/
def execAliveToggle (s : State) : Host.Outcome State Fault Refusal := .next (aliveAct s)

/-! ### The thermal trip -/

/-- DIE_TRIP: in the TICK after the third round at or above the level, the collector records DIE_TRIP and the trip's own
shutdown begins (R507, R510). -/
def tripAct (s : State) : State :=
  if !s.die.due then s
  else
    let s := recordFault { s with die := { s.die with due := false } } ⟨0xD0, 1, unsigned 16 (s.rd E.dieTemp)⟩
    (shutdownCause s true (modeImmediate s)).act .device .trip

/-- DIE_TRIP (R37, R507, R508). -/
def execDieTrip (s : State) : Host.Outcome State Fault Refusal := .next (tripAct s)

end Sys2Proof.Machine
end

