-- ==== Sys2Proof/Machine/Control.lean ====
section
/-!
DEFINITION. The COMMAND entry: jobs, stops and shutdowns (R147, R183, R371, R457 to R468, R510 to R512, R612).
-/
namespace Sys2Proof.Machine

/-! ### The COMMAND entry -/

/-- The value of COMMAND that gives a command with an argument (R467). Bits [39:32] are 0. -/
def commandWord (code arg : Nat) : Nat := code * 2 ^ 40 + arg

/-- What a command shows when it is accepted: the command and the code of its answer (R468). "Nothing to abort" answers
an accepted command. -/
def noteCommand (v code : Nat) (s : State) : State :=
  if code = okCode ∨ code = codeNothing then (s.wr E.cmdLast v).wr E.cmdResult code else s

/-- A command with its argument, the state check of R467, the values that its argument may take and its effect. -/
def commandAct (code arg : Nat) (here : State → Bool) (args : List Nat) (effect : State → Nat × State) (s : State) :
    Nat × State :=
  if !here s then (codeState, s)
  else if !args.contains arg then (codeRange, s)
  else
    let x := effect s
    (x.1, noteCommand (commandWord code arg) x.1 x.2)

/-! ### Arming -/

/-- Steps that the serialisation or the shift of a full line takes on an engine (R147, R170, R173). -/
def lineSteps (s : State) (e : Nat) : Nat :=
  if s.rd E.hlMode e = 1 then legacySteps (s.rdN E.nozzles e) (s.rdN E.dropBits e)
  else serSteps (s.rdN E.nozzles e) (s.rdN E.hlRate e)

/-- The active waveform table of a channel can print (R183): it has a length and, but in legacy shift mode, edges far
enough apart (R587). -/
def waveReady (s : State) (e : Nat) : Bool :=
  waveLenAt s (activeAt e .wave) != 0 &&
    (s.rd E.hlMode e == 1 || !edgesTooNear s (activeAt e .wave) (s.rdN E.hlRate e))

/-- The ring-buffer settings of a channel (R371). -/
def feedReady (s : State) (c e : Nat) : Bool :=
  match ringBufOf s c with
  | none => false
  | some r =>
    s.rdN E.rbBase r % 64 == 0 && s.rdN E.rbStride r % 64 == 0 &&
      decide (s.rdN E.feedOfs c + lineBytes s e ≤ s.rdN E.rbStride r ∧
        s.rdN E.rbBase r + s.rdN E.rbLines r * s.rdN E.rbStride r ≤ logicalSize ∧ lineBytes s e ≤ 6144)

/-- JOB_TRIG and JOB_PAGES can start a job (R466). In the persona JOB_TRIG of a job is p and JOB_PAGES 0 (R579). -/
def jobReady (s : State) (trig : Nat) : Bool :=
  (trig == 0xFF || (decide (trig < 8) && s.rd E.trigEdge trig != 0)) &&
    (s.finup || s.rd E.pageLines != 0 || decide (s.rd E.jobPages ≤ 1))

/-- The first check of R466 that fails for a job on some channels with a trigger; 0 when every check passes. -/
def armCheckOf (s : State) (chs : List Nat) (trig : Nat) : Nat :=
  let engines : List (Nat × Nat) := chs.filterMap (fun c => (serving s c).map (fun e => (c, e)))
  if !s.memory.initDone then 1
  else if chs.isEmpty then 2
  else if s.rd E.headVCeil == 0 || !engines.all (fun x => waveReady s x.2) then 3
  else if !engines.all (fun x => decide (lineSteps s x.2 ≤ minInterval s x.1)) then 4
  else if !engines.all (fun x => feedReady s x.1 x.2) then 5
  else if !jobReady s trig then 6
  else if s.obs.active = 7 then 7
  else 0

/-- A channel at the beginning of a job: nothing of an earlier one is left, and its Feed engine is asked for the first lines
(R466). -/
def prepareChannel (s : State) (c : Nat) : State :=
  let s := s.setChan c { s.chan c with
    page := 0, inPage := false, next := 0, pagesPassed := 0, fired := none, locked := [], lastFire := none, inOver := false,
    lateRun := 0, taking := 0, askNext := 0, asked := [], issued := [], slots := [], built := none,
    freeAt := nowStep s, cycle := none, prevCycle := none }
  match serving s c with
  | none => s
  | some e => if s.rdN E.feedAhead e = 0 then s else askUpTo s c (s.rdN E.feedAhead e - 1)

/-- Lanes of an enabled channel that have not been up since its domain powered up are reported once (R175, R198). -/
def reportLanes (s : State) (c : Nat) : State :=
  let x := s.chan c
  let s := if x.lockEver || legacy s c then s else linkDownMsg s c (!x.bridgeUp)
  if x.rxEver then s else s.report (reporter s c) 9 (c * 2 ^ 40)

/-- A job begins on some channels: test patterns end, a drive-link calibration loses its precondition, the Feed engines
are asked for the first lines (R466, R562, R612). -/
def beginJob (s : State) (chs : List Nat) : State :=
  let s := ((if s.rd E.prbsSel = 0 then s else s.stale).wr E.prbsSel 0).wr E.armCheck 0
  let s := if (s.cal 1).running then calDiscard s 1 else s
  chs.foldl (fun s c => reportLanes (prepareChannel s c) c) s

/-- The queue of a trigger is emptied (R82, R462). -/
def emptyTrigger (s : State) (n : Nat) : State :=
  if n < 8 then (s.setTrig n { s.trig n with queue := [] }).wr E.trigQueued 0 n else s

/-- ARM is accepted (R466): the page counts begin again, and the device is ARMED. -/
def enterArmed (s : State) (chs : List Nat) : State :=
  let s := { emptyTrigger s (s.rdN E.jobTrig) with job := {} }
  let s := ((s.wr E.jobPage 0).wr E.pagesDone 0).wr E.pageStart 0
  setDev (beginJob s chs) .armed

/-- ARM (R466). ARM_CHECK shows a refusal. Commits that are due on idle engines swap first (log entry 24). -/
def armAct (s : State) : Nat × State :=
  let t := idleSwaps s
  let chs := enabledChs t
  let k := armCheckOf t chs (t.rdN E.jobTrig)
  if k ≠ 0 then (codeNotPrintable, s.wr E.armCheck k) else (okCode, enterArmed t chs)

/-- A write of ARM on a port. -/
def armCommand (arg : Nat) : State → Nat × State :=
  commandAct 1 arg (fun s => s.dev == .ready) [0] armAct

/-- ARM (R466 to R468). -/
def execArm (port : Port) (arg : Nat) (s : State) : Host.Outcome State Fault Refusal :=
  .next (writeIf s port (s.startSuperseded .job) E.command 0 0 (commandWord 1 arg) (armCommand arg))

/-! ### Start, stop, abort, release -/

/-- START: page 0 begins at the observer position at this TICK plus START_DIST (R462). -/
def startAct (s : State) : Nat × State :=
  let (p, s) := roundWord s ((s.rd E.posEst : Rat) + ahead s s.time)
  (okCode, beginPages (takeStart s (wrap48 (p + s.rd E.startDist))))

/-- A write of START. -/
def startCommand (arg : Nat) : State → Nat × State :=
  commandAct 2 arg (fun s => s.dev == .armed && s.rd E.jobTrig == 0xFF && !s.finup) [0] startAct

/-- START (R462, R467). -/
def execStart (port : Port) (arg : Nat) (s : State) : Host.Outcome State Fault Refusal :=
  .next (writeIf s port (s.startSuperseded .job) E.command 0 0 (commandWord 2 arg) (startCommand arg))

/-- A write of STOP. -/
def stopCommand (arg : Nat) : State → Nat × State :=
  commandAct 3 arg State.busyJob [0] (fun s => (okCode, stopJob s))

/-- STOP (R458, R467). -/
def execStop (port : Port) (arg : Nat) (s : State) : Host.Outcome State Fault Refusal :=
  .next (writeIf s port (s.superseded .job) E.command 0 0 (commandWord 3 arg) (stopCommand arg))

/-- HALT_ENTRY: the last locked line has fired or passed after a stop (R458). -/
def haltAct (s : State) : State :=
  if s.busyJob && s.job.stopping && drained s then endJob s .halt else s

/-- HALT_ENTRY (R457, R458). -/
def execHaltEntry (s : State) : Host.Outcome State Fault Refusal := .next (haltAct s)

/-- ABORT (R459): every locked line is abandoned, and the device is READY in the same TICK. -/
def abortAct (s : State) : Nat × State :=
  if s.busyJob then (okCode, endJob (s.act .job .abort) .ready) else (codeNothing, s)

/-- A write of ABORT. -/
def abortCommand (arg : Nat) : State → Nat × State :=
  commandAct 4 arg (fun s => s.dev != .boot && s.dev != .safe) [0] abortAct

/-- ABORT (R459, R467). -/
def execAbort (port : Port) (arg : Nat) (s : State) : Host.Outcome State Fault Refusal :=
  .next (writeIf s port (s.superseded .job) E.command 0 0 (commandWord 4 arg) (abortCommand arg))

/-- RELEASE (R460). -/
def releaseAct (s : State) : Nat × State := if frozen s then (codeState, s) else (okCode, setDev s .ready)

/-- A write of RELEASE. -/
def releaseCommand (arg : Nat) : State → Nat × State :=
  commandAct 5 arg (fun s => s.dev == .halt) [0] releaseAct

/-- RELEASE (R460, R467). -/
def execRelease (port : Port) (arg : Nat) (s : State) : Host.Outcome State Fault Refusal :=
  .next (writeIf s port (s.superseded .job) E.command 0 0 (commandWord 5 arg) (releaseCommand arg))

/-! ### Shutdown -/

/-- A write of SHUTDOWN: argument 0 takes the configured mode, 1 the immediate one (R467, R510). -/
def shutdownCommand (arg : Nat) : State → Nat × State :=
  commandAct 0x20 arg (fun s => s.dev != .boot && s.dev != .safe) [0, 1]
    (fun s => (okCode, shutdownCause (s.act .job .abort) false (arg == 1 || modeImmediate s)))

/-- A SHUTDOWN write on a port. -/
def shutdownWrite (s : State) (port : Port) (arg : Nat) : State :=
  writeIf s port (s.superseded .job) E.command 0 0 (commandWord 0x20 arg) (shutdownCommand arg)

/-- SHUTDOWN (R510, R511). -/
def execShutdown (port : Port) (s : State) : Host.Outcome State Fault Refusal := .next (shutdownWrite s port 0)

/-- SHUTDOWN_IMMEDIATE (R510, R512). -/
def execShutdownImmediate (port : Port) (s : State) : Host.Outcome State Fault Refusal := .next (shutdownWrite s port 1)

end Sys2Proof.Machine
end

