-- ==== Sys2Proof/Machine/PersonaSet.lean ====
section
/-!
DEFINITION. The native entries that the Finup persona sets itself (R570, R580).
-/
namespace Sys2Proof.Machine

/-- The channels of a persona (R573). -/
def personaChs (p : Nat) : List Nat := (List.range 32).map (· + 32 * p)

/-- The engines of a persona: those of its channels' numbers, and a spare that serves one of them. -/
def personaEngines (s : State) (p : Nat) : List Nat :=
  (personaChs p).flatMap (fun c => match serving s c with
    | some e => if e = c then [c] else [c, e]
    | none => [c])

/-- LINE_PITCH: ENC_DIV x 256 POS units of the persona whose encoder is SRC_ACTIVE, otherwise 2,560 (R570). -/
def personaPitch (s : State) : State :=
  if !s.finup then s
  else
    let k := s.obs.active
    let div := if personaOn s k then pWord s k 6 else 10
    let v : Int := (div * 256 * 2 ^ 16 : Nat)
    if s.rd E.linePitch = v then s else (s.wr E.linePitch v).stale

/-- NOZZLES, LINE_COLS and DROP_BITS of a persona's engines (R570). -/
def personaNozzles (s : State) (p : Nat) : State :=
  let n := pWord s p 5
  let bitsEach : Nat := if (s.persona p).drop2 then 2 else 1
  (personaEngines s p).foldl (fun s e => ((s.wr E.nozzles n e).wr E.lineCols n e).wr E.dropBits bitsEach e) s

/-- ENC_MODE, ENC_DIR and ENC_FILTER of encoder p (R570, R574, R617). -/
def personaEncoder (s : State) (p : Nat) : State :=
  let v := pWord s p 7
  let s := (encConfigAct p .mode (bits v 1 0) s).2
  let s := (encConfigAct p .dir (bits v 2 2) s).2
  (encConfigAct p .filter (bits v 6 3) s).2

/-- TRIG_EDGE and TRIG_HOLDOFF of trigger p (R570, R574). -/
def personaTrigger (s : State) (p : Nat) : State :=
  (s.wr E.trigEdge (bits (pWord s p 0x0B) 1 0) p).wr E.trigHoldoff (pWord s p 0x0C * 256 : Nat) p

/-- The image buffers of a persona and the channels that read the printing one (R580). -/
def personaBuffers (s : State) (p : Nat) : State :=
  let s := [0, 1].foldl (fun s b =>
    let r := 2 * p + b
    (((s.wr E.rbMode 1 r).wr E.rbLines (pWord s p 8) r).wr E.rbStride 16384 r).wr E.rbBase (r * 0x40000000 : Nat) r) s
  (personaChs p).foldl (fun s c =>
    (s.wr E.feedRb (2 * p + (s.persona p).printBuf : Nat) c).wr E.feedOfs (512 * (c % 32) : Nat) c) s

/-- What the persona sets of an engine: legacy shift mode, no stretch, no health (R570). -/
def personaEngine (s : State) (e : Nat) : State :=
  let s := ((((s.wr E.hlMode 1 e).wr E.winStart 0 e).wr E.feedAhead 2 e).wr E.nbSpan 1 e).wr E.healthEn 0 e
  (s.wr E.waveKt 0 e).wr E.waveKv 0 e

/-- Every native entry that the persona sets (R570). -/
def personaSet (s : State) : State :=
  let s := ((List.range 100).filter s.engPresent).foldl personaEngine s
  let s := (s.wr E.landMode 1).wr E.maxFireRate 32000
  let s := (List.range 96).foldl (fun s c => s.wr E.loopEn 0 (2 + c)) s
  let s := (List.range 3).foldl (fun s p =>
    personaBuffers (personaTrigger (personaEncoder (personaNozzles s p) p) p) p) s
  personaPitch s

end Sys2Proof.Machine
end

