-- ==== Sys2Proof/Machine/Finup.lean ====
section
/-!
DEFINITION. The Finup personas: entry, register maps, runs, page starts, waveform replay, image frames (R568 to R594), and
the trigger edges that start pages in either mode (R79 to R82).
-/
namespace Sys2Proof.Machine

/-! ### Entry -/

/-- A persona that PERSONA_DEFAULT enables is instantiated, with EXT_LAND as it gives it (R568, R569). -/
def instantiate (v : Nat) (s : State) (p : Nat) : State :=
  let x : PersonaSt := { on := true, words := if bit v (3 + p) then [(0x17, 1)] else [] }
  if bit v p then s.setPersona p x else s

/-- The persona is entered (R568, R570). -/
def enterPersona (s : State) : State :=
  personaSet ((List.range 3).foldl (instantiate (s.rdN E.personaDefault)) (s.wr E.persona 1))

/-! ### Latched bits -/

/-- Bits of STATUS latch (R576). -/
def latch (s : State) (p m : Nat) : State :=
  s.setPersona p { s.persona p with latched := (s.persona p).latched ||| m }

/-- WR_IGN (R578). -/
def wrIgnored (s : State) (p : Nat) : State := latch s p 64

/-! ### Page starts (R580 to R585) -/

/-- EXT_LAND is in force for the page that starts (R585). -/
def landingOn (s : State) (p : Nat) : Bool := bit (pWord s p 0x17) 0 && s.obs.active == p

/-- The buffers at a page start: swap to the loaded one, or print the same again; RB_WR of the one that prints rises by the
page's lines (R580). -/
def swapBuffers (s : State) (p : Nat) : State :=
  let x := s.persona p
  let s := if x.loadReady then s.setPersona p { x with printBuf := 1 - x.printBuf, loadReady := false } else latch s p 32
  let s := personaBuffers s p
  s.wr E.rbWr ((x.starts.length + 1) * pWord s p 8 : Nat) (2 * p + (s.persona p).printBuf)

/-- A page start of a persona at a position (R580 to R583, R585). One inside a page is discarded. -/
def personaStart (s : State) (p pos : Nat) : State :=
  let x := s.persona p
  if !personaOn s p || !x.run || !s.busyJob || s.noLocks || s.startSuperseded .job then s
  else if x.inPage then latch s p 2
  else
    let n := x.starts.length
    let on := landingOn s p
    let s := (swapBuffers s p).stale
    let start := wrap48 (pos + s.rd E.trigOffset p + pWord s p 6 * 256)
    let s := s.setPersona p { s.persona p with
      inPage := true, landOn := on, starts := x.starts ++ [start], startCount := s.rd E.encCount p, edges := [],
      delays := (List.range 32).map (fun i => (i, pWord s p (0x20 + i))) }
    let s := maskedEvent s 6 0x2010 7 n
    let s := if s.dev = .armed then setDev s .printing else s
    updateJob (beginPages s)

/-- TRIGGER_EDGE: in the persona an accepted edge of its trigger starts a page and queues nothing (R581); otherwise it is
queued (R81). -/
def triggerAct (n : Nat) (rising : Bool) (t : Nat) (s : State) : State :=
  match acceptTrigger n rising t s with
  | (none, s) => s
  | (some pos, s) => if s.finup && decide (n < 3) then personaStart s n pos else queueTrigger n pos s

/-- TRIGGER_EDGE (R79 to R82, R581). -/
def execTriggerEdge (n : Fin 8) (rising : Bool) (t : Nat) (s : State) : Host.Outcome State Fault Refusal :=
  .next (triggerAct n rising t s)

/-- SOFT_TRIG starts a page at the count of encoder p (R581). -/
def softTrig (s : State) (p : Nat) : State := personaStart s p (wrap48 (s.rd E.encCount p * 256))

/-! ### Runs (R579) -/

/-- Another persona runs. -/
def otherRuns (s : State) (p : Nat) : Bool :=
  (List.range 3).any (fun q => q != p && personaOn s q && (s.persona q).run)

/-- The persona at the beginning of a run: no page has started, and no line of its buffers is released (R579, R580; log
entry 47). -/
def runReset (s : State) (p : Nat) : State :=
  let x := s.persona p
  let s := s.setPersona p { x with run := true, inPage := false, starts := [], edges := [] }
  (s.wr E.rbWr 0 (2 * p)).wr E.rbWr 0 (2 * p + 1)

/-- A RUN is refused: RUN is left at 0, and ARM_FAIL latches (R579). -/
def refuseRun (s : State) (p : Nat) : State :=
  latch (s.setPersona p { s.persona p with run := false }) p 256

/-- CTRL.RUN = 1: in READY it is the ARM command, with another persona running the channels join, otherwise it is refused
(R579). -/
def runAct (s : State) (p : Nat) : State :=
  if s.startSuperseded .job then s
  else
    let t := idleSwaps (runReset s p)
    let chs := (enabledChs t).filter (fun c => personaOf c == p)
    let joins := s.busyJob && otherRuns s p
    if s.dev ≠ .ready ∧ ¬joins = true then refuseRun s p
    else
      let k := armCheckOf t chs p
      if k ≠ 0 then refuseRun (s.wr E.armCheck k) p
      else if joins then beginJob t chs
      else noteCommand (commandWord 1 0) okCode (enterArmed t chs)

/-- CTRL.RUN = 0: the persona's lines are abandoned; with no other persona running it is the ABORT command (R579). -/
def stopRun (s : State) (p : Nat) : State :=
  let s :=
    if s.superseded .job then s
    else if otherRuns s p then abandonAll s (fun c => personaOf c == p)
    else
      let x := abortAct s
      noteCommand (commandWord 4 0) x.1 x.2
  s.setPersona p { s.persona p with run := false, inPage := false }

/-! ### Registers -/

/-- RESET_BUF (R575). -/
def resetBufAct (s : State) (p : Nat) : State := s.setPersona p { s.persona p with loadReady := false, endWait := false }

/-- DROP2 changes only while RUN is 0 (R578). -/
def dropAct (s : State) (p : Nat) (d : Bool) : State :=
  let x := s.persona p
  if d = x.drop2 then s
  else if x.run then wrIgnored s p
  else personaNozzles (s.setPersona p { x with drop2 := d }) p

/-- A write of CTRL (R575, R578, R579). A RUN of 1 while the persona's job is under way changes nothing. -/
def ctrlAct (s : State) (p v : Nat) : State :=
  if 16 ≤ v then wrIgnored s p
  else
    let s := dropAct s p (bit v 1)
    let s := if bit v 3 then resetBufAct s p else s
    let r := (s.persona p).run
    let s := if bit v 0 then (if r && s.busyJob then s else runAct s p) else if r then stopRun s p else s
    if bit v 2 then softTrig s p else s

/-- A word that is read only or reserved (R574). -/
def wordFixed (w : Nat) : Bool :=
  [0, 1, 3, 9, 0x0A, 0x0D, 0x0E, 0x0F, 0x16].contains w || decide (0x18 ≤ w ∧ w < 0x20)

/-- The range of a word (R574). -/
def wordRange (w v : Nat) : Bool :=
  match w with
  | 0x05 => decide (16 ≤ v ∧ v ≤ 2048) && v % 16 == 0
  | 0x06 => decide (1 ≤ v ∧ v ≤ 4095)
  | 0x07 => decide (v < 128)
  | 0x08 => decide (1 ≤ v)
  | 0x0B => decide (v ≤ 2)
  | 0x13 => decide (v ≤ 32)
  | 0x14 => decide (v ≤ 255)
  | 0x15 => decide (v < 1024)
  | 0x17 => decide (v < 4)
  | _ => true

/-- Words that hold while RUN is 1 (R578). -/
def wordHeld (w : Nat) : Bool := [5, 6, 7, 8, 0x0B, 0x0C, 0x10, 0x11, 0x12].contains w

/-- A stored word is set. -/
def setWord (s : State) (p w v : Nat) : State := s.setPersona p { s.persona p with words := ains w v (s.persona p).words }

/-- What a stored word changes in the native dictionary (R570). -/
def wordEffect (s : State) (p w : Nat) : State :=
  if w = 5 then personaNozzles s p
  else if w = 6 then personaPitch s
  else if w = 7 then personaEncoder s p
  else if w = 8 then personaBuffers s p
  else if w = 0x0B ∨ w = 0x0C then personaTrigger s p
  else s

/-! ### Waveform replay (R586, R587) -/

/-- Byte 0 of the stored waveform of channel i of a persona (log entry 5). -/
def personaWave (p i : Nat) : Nat := blockBase + 0x10000 + (p * 32 + i) * 512

/-- The native table of a stored waveform (R587). -/
def replayTable (s : State) (p i : Nat) : List Byte :=
  (List.range 256).flatMap (fun n =>
    let w := toBytes 2 (32 * (s.word (personaWave p i + 2 * n) 2 % 1024))
    (List.replicate 16 w).flatten) ++ toBytes 2 4096 ++ List.replicate 30 0

/-- The stored waveform of a channel is built into the shadow of the engine that serves it, and its commit requested
(R586). -/
def buildReplay (p : Nat) (s : State) (i : Nat) : State :=
  match serving s (32 * p + i) with
  | none => s
  | some e =>
    let s := (shadowWrite s e .wave 0 (replayTable s p i) none).2
    requestPlain (s.wr E.waveCheck 0 e) e .wave

/-- A write of WAVE_DATA: the sample is stored, the address advances, and the write at 255 builds the tables (R586). -/
def waveDataAct (s : State) (p v : Nat) : State :=
  let ch := pWord s p 0x13
  let a := pWord s p 0x14
  let chs := if ch = 0x20 then List.range 32 else [ch]
  let s := chs.foldl (fun s i => s.setBytes (personaWave p i + 2 * a) (toBytes 2 v)) s
  let s := setWord s p 0x14 ((a + 1) % 256)
  if a = 255 then chs.foldl (buildReplay p) s else s

/-- A write of a word of a persona's map (R574, R578, R583). -/
def wordWrite (s : State) (p w v : Nat) : State :=
  let v := v % 65536
  if w = 2 then (ctrlAct s p v).stale
  else if wordFixed w then s
  else if !wordRange w v || (wordHeld w && (s.persona p).run) then wrIgnored s p
  else if w = 0x15 then waveDataAct s p v
  else if w = 0x17 then setWord s p w (v % 2)
  else (wordEffect (setWord s p w v) p w).stale

/-- LINE_NOW (R574). -/
def lineNow (s : State) (p : Nat) : Nat :=
  match (enabledChs s).filter (fun c => personaOf c == p) with
  | [] => 0
  | c :: r => r.foldl (fun m c => min m (s.rdN E.lastLine c)) (s.rdN E.lastLine c) % 65536

/-- STATUS (R576). -/
def statusWord (s : State) (p : Nat) : Nat :=
  let x := s.persona p
  flag (x.run && (enabledChs s).any (fun c => personaOf c == p)) 15 + flag (x.printBuf == 1) 14 + flag x.inPage 13 +
    x.latched % 512

/-- The value of a word of a persona's map (R574 to R576, R585, R586). -/
def wordRead (s : State) (p w : Nat) : Nat :=
  let x := s.persona p
  match w with
  | 0x00 => 0xF320
  | 0x01 => 0x0107
  | 0x02 => flag x.drop2 1 + flag x.run 0
  | 0x03 => statusWord s p
  | 0x09 => x.pageCnt
  | 0x0A => lineNow s p
  | 0x0D => flag x.loadReady 0 + flag (x.printBuf == 1) 1 + flag (x.printBuf == 0) 2
  | 0x0E => x.frameErr
  | 0x0F => x.skips
  | 0x15 => s.word (personaWave p (pWord s p 0x13 % 32) + 2 * pWord s p 0x14) 2 % 1024
  | 0x16 => p
  | 0x17 => pWord s p 0x17 % 2 + flag x.landOn 1
  | _ => if wordFixed w then 0 else pWord s p w

/-! ### The local host port in the persona -/

/-- The chip-select of a persona is answered (R571, R573, R515). -/
def personaPort (s : State) (p : Nat) : Bool := s.domOn 1 && personaOn s p && s.dev != .safe

/-- A write on a persona's map. -/
def mapWrite (s : State) (p w v : Nat) : State :=
  if !personaPort s p || s.superseded noTarget then s else wordWrite s p w v

/-- CTRL with the bits it holds. -/
def ctrlHeld (s : State) (p : Nat) : Nat := wordRead s p 2

/-- FINUP_RUN (R579). -/
def execFinupRun (p : Persona) (s : State) : Host.Outcome State Fault Refusal :=
  .next (mapWrite s p 2 (ctrlHeld s p ||| 1))

/-- FINUP_STOP (R579). -/
def execFinupStop (p : Persona) (s : State) : Host.Outcome State Fault Refusal :=
  .next (mapWrite s p 2 (ctrlHeld s p &&& 2))

/-- SOFT_TRIG (R575, R581). -/
def execSoftTrig (p : Persona) (s : State) : Host.Outcome State Fault Refusal :=
  .next (mapWrite s p 2 (ctrlHeld s p ||| 4))

/-- RESET_BUF (R575). -/
def execResetBuf (p : Persona) (s : State) : Host.Outcome State Fault Refusal :=
  .next (mapWrite s p 2 (ctrlHeld s p ||| 8))

/-- FINUP_REGISTER_WRITE (R574, R578). -/
def execFinupRegisterWrite (p : Persona) (w : Fin 64) (v : Nat) (s : State) : Host.Outcome State Fault Refusal :=
  .next (mapWrite s p w v)

/-- WAVE_DATA_WRITE (R586, R587). -/
def execWaveDataWrite (p : Persona) (v : Nat) (s : State) : Host.Outcome State Fault Refusal :=
  .next (mapWrite s p 0x15 v)

/-- DELAY_WRITE (R583). -/
def execDelayWrite (p : Persona) (i : Fin 32) (v : Nat) (s : State) : Host.Outcome State Fault Refusal :=
  .next (mapWrite s p (0x20 + i) v)

/-- A read of a word on the local host port, and what the read clears (R577). -/
def mapRead (s : State) (p w : Nat) : State :=
  if !personaPort s p then s
  else
    let s' := s.answer .lhp okCode (toBytes 2 (wordRead s p w))
    let x := s'.persona p
    if w = 3 then s'.setPersona p { x with latched := 0 }
    else if w = 0x0E then s'.setPersona p { x with frameErr := 0 }
    else if w = 0x0F then s'.setPersona p { x with skips := 0 }
    else s'

/-- STATUS_READ (R577). -/
def execStatusRead (p : Persona) (s : State) : Host.Outcome State Fault Refusal := .next (mapRead s p 3)

/-- FRAME_ERR_CNT_READ (R577). -/
def execFrameErrCntRead (p : Persona) (s : State) : Host.Outcome State Fault Refusal := .next (mapRead s p 0x0E)

/-- SKIP_CNT_READ (R577). -/
def execSkipCntRead (p : Persona) (s : State) : Host.Outcome State Fault Refusal := .next (mapRead s p 0x0F)

/-! ### Image frames (R590 to R592) -/

/-- A frame addressed to a persona reaches it: some intake port is up (R394, R571, R591). -/
def framesArrive (s : State) (p : Nat) : Bool := personaOn s p && (intakeOpen s 0 || intakeOpen s 1)

/-- A frame is discarded (R591). -/
def dropImage (s : State) (p : Nat) : State :=
  let x := s.persona p
  s.setPersona p { x with frameErr := min 65535 (x.frameErr + 1), latched := x.latched ||| 16 }

/-- Where a line-data frame is written: the load buffer's address of its first byte (R591). -/
def imageAddr (s : State) (p line ch ofs : Nat) : Nat :=
  s.rdN E.rbBase (2 * p + (1 - (s.persona p).printBuf)) + line * 16384 + 512 * ch + ofs

/-- An end-of-page frame waits for the earlier frames (R592). -/
def endPageFrame (s : State) (p : Nat) : State :=
  if (s.persona p).loadReady then dropImage s p else s.setPersona p { s.persona p with endWait := true }

/-- The MAC address of a persona (R574). -/
def personaMac (s : State) (p : Nat) : Nat := pWord s p 0x10 * 2 ^ 32 + pWord s p 0x11 * 2 ^ 16 + pWord s p 0x12

/-- A frame with an image is for the persona: untagged, no MAC control frame, to the persona's address (R378, R590). -/
def imageFor (s : State) (p : Nat) (f : Frame) : Bool := !f.tagged && !f.control && f.dstMac == personaMac s p

/-- A Finup image frame is received whole and has at most 1,518 bytes (R378, R590). -/
def imageOk (f : Frame) : Bool := f.good && decide (64 ≤ f.size ∧ f.size ≤ 1518)

/-- A Finup image frame (R590 to R592). -/
def imageFrame (s : State) (p : Nat) (frameOk : Bool) (d : List Byte) : State :=
  let type := field d 0 1
  let ch := field d 1 1 % 32
  let line := field d 2 4
  let ofs := field d 6 2
  let len := field d 8 2
  let a := imageAddr s p line ch ofs
  if !frameOk || d.length < 12 then dropImage s p
  else if type = 0x11 then endPageFrame s p
  else if type ≠ 0x10 ∨ pWord s p 8 ≤ line ∨ 512 < ofs + len ∨ d.length < 12 + len then dropImage s p
  else if (s.persona p).loadReady then dropImage s p
  else match reachAll s a len with
    | .refused => dropImage s p
    | .silent => (holdWrite s ⟨a, (d.drop 12).take len, none⟩).count48 E.framesOk p
    | .at_ _ => (logicalWrite s a ((d.drop 12).take len)).count48 E.framesOk p

/-- FINUP_IMAGE_FRAME (R590, R591). -/
def execFinupImageFrame (p : Persona) (frame : Frame) (payload : List Byte) (s : State) :
    Host.Outcome State Fault Refusal :=
  .next (if framesArrive s p && imageFor s p frame then imageFrame s p (imageOk frame) payload else s)

/-- END_OF_PAGE (R592). -/
def execEndOfPage (p : Persona) (s : State) : Host.Outcome State Fault Refusal :=
  .next (if framesArrive s p then endPageFrame s p else s)

/-- An accepted image frame of the persona waits for memory (R301, R592). -/
def frameWaits (s : State) (p : Nat) : Bool :=
  let a := imageAddr s p 0 0 0
  s.memory.waiting.any (fun w => decide (a ≤ w.addr ∧ w.addr < a + pWord s p 8 * 16384))

/-- LOAD_READY: every earlier accepted frame has completed (R592). -/
def loadReadyAct (s : State) (p : Nat) : State :=
  let x := s.persona p
  if personaOn s p && x.endWait && !frameWaits s p then s.setPersona p { x with loadReady := true, endWait := false } else s

/-- LOAD_READY (R592). -/
def execLoadReady (p : Persona) (s : State) : Host.Outcome State Fault Refusal := .next (loadReadyAct s p)

end Sys2Proof.Machine
end

