-- ==== Sys2Proof/Machine/Otp.lean ====
section
/-!
DEFINITION. Fuse operations, counted settings, and what a brown-out does to them (R472 to R475, R519, R520, R530 to R547).
-/
namespace Sys2Proof.Machine

/-! ### Operations -/

/-- The physical bits that programming a word with OTP_DATA selects (R539). -/
def programMask (w d : Nat) (x : OtpShadow) : Nat :=
  if bitwise w then
    let m := tripled (d ^^^ (d &&& x.data))
    m ^^^ (m &&& x.raw)
  else d ^^^ (d &&& x.data)

/-- The codes of OTP_RESULT with which a program or seal is refused before anything is tried, first those of R539 in
their order there (log entry 35): 4 would clear a bit, 3 sealed or not sealable, 2 locked. None when it may go on. -/
def otpRefusal (s : State) (op w d : Nat) : Option Nat :=
  let x := fuseShadow s w
  if op = 1 ∧ x.data &&& d ≠ x.data then some 4
  else if x.sealed ∨ (op = 2 ∧ bitwise w = true) then some 3
  else if lockedWord s w || deviceWord w then some 2
  else none

/-- A brown-out, a full queue or an operation under way keeps an operation from starting (R539, R541). -/
def otpBusy (s : State) (op : Nat) : Bool :=
  s.otp.op.isSome || (op != 4 && brownout s) || (op ≤ 2 && 16 ≤ s.otp.queue.length)

/-- The operation starts: the supply is the VPP pin or the pump; with neither it ends at once with 8 (R538). -/
def otpStart (s : State) (op w mask : Nat) (pin : Bool) (port : Option Port) : Nat × State :=
  if op ≠ 4 ∧ pin = false ∧ wire s 11 = true then (okCode, (s.wr E.vppSrc 0).wr E.otpResult 8)
  else
    let s := if op = 4 then s else s.wr E.vppSrc (if pin then 1 else 2)
    let s := { s with otp := { s.otp with op := some (op, w, mask), opPort := port } }
    (laterCode, s.wr E.otpResult 1)

/-- A write of OTP_OP (R538 to R541). A refusal that OTP_RESULT shows is answered success (log entry 34). -/
def otpAct (op : Nat) (pin : Bool) (port : Option Port) (s : State) : Nat × State :=
  let w := s.rdN E.otpWord
  let d := s.rdN E.otpData
  if op = 1 ∧ bitwise w = true ∧ 2 ^ 16 ≤ d then (codeRange, s)
  else if op ≤ 2 then
    if s.busyJob then (codeState, s)
    else match otpRefusal s op w d with
      | some r => (okCode, s.wr E.otpResult r)
      | none =>
        if otpBusy s op then (codeBusy, s)
        else otpStart s op w (if op = 1 then programMask w d (fuseShadow s w) else 0) pin port
  else if otpBusy s op then (codeBusy, s)
  else otpStart s op w 0 pin port

/-- An OTP_OP write on a port. -/
def otpWrite (s : State) (p : Port) (op : Nat) (pin : Bool) : State :=
  writeAs s p noTarget E.otpOp 0 0 op (otpAct op pin (some p))

/-- OTP_PROGRAM (R538, R539). -/
def execOtpProgram (port : Port) (vppPin : Bool) (s : State) : Host.Outcome State Fault Refusal :=
  .next (otpWrite s port 1 vppPin)

/-- OTP_SEAL (R538, R540). -/
def execOtpSeal (port : Port) (vppPin : Bool) (s : State) : Host.Outcome State Fault Refusal :=
  .next (otpWrite s port 2 vppPin)

/-- OTP_REINFORCE (R541). -/
def execOtpReinforce (port : Port) (vppPin : Bool) (s : State) : Host.Outcome State Fault Refusal :=
  .next (otpWrite s port 3 vppPin)

/-- OTP_SENSE (R541). -/
def execOtpSense (port : Port) (s : State) : Host.Outcome State Fault Refusal := .next (otpWrite s port 4 false)

/-- The operation ends with a result: the word is sensed again and the write is answered (R537, R539). -/
def otpEnd (s : State) (w result : Nat) (weak : Bool) : State :=
  let port := s.otp.opPort
  let s := { s with otp := { s.otp with op := none, opPort := none } }
  let s := senseWord (s.wr E.otpResult result) w weak
  match port with
  | none => s
  | some p => answerLater s p (rowKey E.otpOp 0 0) okCode

/-- One further pulse on every bit of a word that should be 1 (R541). Where a sealed word's single error lies in its
check bits, the pulse mends it or cannot, and which is free (log entry 33). -/
def reinforce (s : State) (w : Nat) : State :=
  let x := fuseShadow s w
  let y := fuseWord s w
  if bitwise w then blow s w (tripled x.data)
  else if x.corrected then
    let data := y.data ||| x.data
    if y.data ≠ x.data then setFuseWord s w { y with data := data, syn := if data = x.data then 0 else y.syn }
    else
      let (d, s) := s.draw
      setFuseWord s w { y with syn := if d % 2 = 0 then 0 else y.syn }
  else s

/-- OTP_PROG_FAIL: the word, and the bit that failed its verify (R538, R564). -/
def progFail (s : State) (w b : Nat) : State := s.report 0xC8 5 (w + b * 2 ^ 16)

/-- OTP_OP_COMPLETE: the operation under way ends. A bit that still fails after three pulses ends it with 5, and the bits
above it are not programmed (R538 to R541). -/
def otpCompleteAct (failBit : Option Nat) (weak : Bool) (s : State) : State :=
  match s.otp.op with
  | none => s
  | some (op, w, mask) =>
    match op, failBit with
    | 1, some f =>
      if bit mask f then progFail (otpEnd (blow s w (mask % 2 ^ f)) w 5 weak) w f else otpEnd (blow s w mask) w 0 weak
    | 1, none => otpEnd (blow s w mask) w 0 weak
    | 2, some f =>
      if 48 ≤ f then progFail (otpEnd s w 5 weak) w f
      else otpEnd (setFuseWord s w { fuseWord s w with sealed := true, syn := 0 }) w 0 weak
    | 2, none => otpEnd (setFuseWord s w { fuseWord s w with sealed := true, syn := 0 }) w 0 weak
    | 3, _ => otpEnd (reinforce s w) w 0 weak
    | _, _ => otpEnd s w 0 weak

/-- OTP_OP_COMPLETE (R535 to R541). -/
def execOtpOpComplete (failBit : Option (Fin 56)) (weak : Bool) (s : State) : Host.Outcome State Fault Refusal :=
  .next (otpCompleteAct (failBit.map Fin.val) weak s)

/-- The physical bits that an operation programs, ascending (R539 to R541). -/
def opBits (s : State) (op w mask : Nat) : List Nat :=
  if op = 1 then bitList 48 mask
  else if op = 2 then (List.range 8).map (· + 48)
  else if op = 3 then
    let x := fuseShadow s w
    let y := fuseWord s w
    bitList 48 (if bitwise w then y.data ||| tripled x.data else if y.sealed then x.data else y.data) ++
      (if y.sealed && !bitwise w then (List.range 8).map (· + 48) else [])
  else []

/-- The bits that an operation has programmed when it is cut off; a sealed word whose error they have mended is sound again. -/
def blowDone (s : State) (op w : Nat) (done : List Nat) : State :=
  let x := fuseShadow s w
  let mends := op = 3 ∧ x.corrected = true ∧ (fuseWord s w).data ≠ x.data
  let s := if op = 2 then s else (done.filter (· < 48)).foldl (fun s b => blowBit s w b) s
  if mends ∧ (fuseWord s w).data = x.data then setFuseWord s w { fuseWord s w with syn := 0 } else s

/-- BROWNOUT aborts the operation under way: the pulse in progress is cut and its bit queued, no further bit is
programmed, and the operation ends with 6 (R519, R542). Which pulse runs, and what the bit that it leaves reads as until
it is reinforced, is free (log entry 33). -/
def otpBrownout (s : State) : State :=
  match s.otp.op with
  | none => s
  | some (op, w, mask) =>
    if op = 4 then s
    else
      let l := opBits s op w mask
      let (k, s) := s.draw
      let (v, s) := s.draw
      let done := l.take (k % (l.length + 1))
      let s := blowDone s op w done
      let s := match l[k % (l.length + 1)]? with
        | none => s
        | some b =>
          let s := { s with otp := { s.otp with queue := s.otp.queue ++ [(w, b)] } }
          if v % 2 = 1 then blowDone s op w [b] else s
      otpEnd s w 6 (weakOf s w)

/-- Recovery: the queued bits are reinforced, and the Tally burns that waited are made (R513, R520; log entry 36). -/
def otpRecover (s : State) : State :=
  let q := s.otp.queue
  let t := s.otp.waiting
  let s := { s with otp := { s.otp with queue := [], waiting := [] } }
  let s := q.foldl (fun s x => senseWord (blowBit s x.1 x.2) x.1 (weakOf s x.1)) s
  t.foldl (fun s x => tallyBurn s x.1 x.2) s

/-! ### Counted settings -/

/-- A counted setting (R472, R532, R545): its entry and what shows its changes left, its first record word, the number of
record words, its slot word, and the changes allowed. -/
structure Counted where
  row   : Row
  left  : Row
  first : Nat
  num   : Nat
  slot  : Nat
  max_  : Nat

/-- The three counted settings that have records (R532, R545). -/
def countedRecords : List Counted :=
  [⟨E.ringAddr, E.ringAddrLeft, 384, 10, 410, 8⟩, ⟨E.headVCeil, E.headVCeilLeft, 394, 10, 411, 8⟩,
    ⟨E.personaDefault, E.personaLeft, 404, 6, 412, 4⟩]

/-- The fuse word and logical bit of CH_DISABLE of a channel (R532). -/
def disableBit (c : Nat) : Nat × Nat := (413 + c / 16, c % 16)

/-- Record j is complete: its slot bit reads 1 and it is sealed and sound (R545, R552). -/
def recordComplete (s : State) (k : Counted) (j : Nat) : Bool :=
  bit (fuseShadow s k.slot).data j && wordValid (fuseShadow s (k.first + j))

/-- The complete records, ascending. -/
def completeRecords (s : State) (k : Counted) : List Nat := (List.range k.num).filter (recordComplete s k)

/-- The blank record words, ascending (R545). -/
def blankRecords (s : State) (k : Counted) : List Nat := (List.range k.num).filter (fun j => blank (fuseShadow s (k.first + j)))

/-- Changes remaining: the lesser of the changes less the complete records, and the blank record words (R546). -/
def changesLeft (s : State) (k : Counted) : Nat := min (k.max_ - (completeRecords s k).length) (blankRecords s k).length

/-- The value of the highest-numbered complete record, or the default (R475, R546). -/
def recordValue (s : State) (k : Counted) : Int :=
  match (completeRecords s k).getLast? with
  | none => k.row.dflt 0 0
  | some j => (fuseShadow s (k.first + j)).data

/-- The entries of a counted setting show its records (R475, R546). -/
def showRecord (s : State) (k : Counted) : State := (s.wr k.row (recordValue s k)).wr k.left (changesLeft s k)

/-- CH_DISABLE of a channel and its changes left, as the fuses give them (R547). -/
def showDisable (s : State) (c : Nat) : State :=
  let b := bit (fuseShadow s (disableBit c).1).data (disableBit c).2
  (s.wr E.chDisable (if b then 1 else 0) c).wr E.chDisableLeft (if b then 0 else 1) c

/-- A channel disabled by CH_DISABLE is served by no engine (R111); a spare keeps it as its channel (R112). One with
ENG_ENABLE 0 keeps its engine (DESIGN CHOICE, log entry 59, unsafe). -/
def dropDisabled (s : State) (c : Nat) : State :=
  let e := s.rdN E.servedBy c
  if s.rd E.chDisable c = 0 ∨ e = 0xFF then s
  else
    let s := s.wr E.servedBy 0xFF c
    if e < 96 then s.wr E.channel 0xFF e else s

/-- Every counted setting takes the value of its records, at start-up; a channel disabled before is absent from then on
(R472, R475, R546, R547). -/
def showCounted (s : State) : State :=
  let s := (List.range 96).foldl showDisable (countedRecords.foldl showRecord s)
  { s with otp := { s.otp with absent := (List.range 96).filter (fun c => s.rd E.chDisable c == 1) } }

/-- Changes left of a counted entry. -/
def leftOf (s : State) (r : Row) (i : Nat) : Nat :=
  if r.k0 = E.chDisable.k0 then s.rdN E.chDisableLeft i
  else match countedRecords.find? (fun k => k.row.k0 == r.k0) with
    | none => 0
    | some k => s.rdN k.left

/-- A write of a counted setting that has passed the checks of R449 (R472 to R474): refused while a change of the entry is
being programmed; a write of the present value succeeds; else a change is programmed, and the answer comes with it. -/
def countedAct (r : Row) (i v : Nat) (port : Option Port) (s : State) : Nat × State :=
  let key := rowKey r i 0
  if s.otp.counted.any (fun x => x.1 == key) then (codeBusy, s)
  else if s.rd r i = v then (okCode, s)
  else if brownout s then (codeBusy, s)
  else if leftOf s r i = 0 then (codeNoChanges, s)
  else (laterCode, { s with otp := { s.otp with counted := s.otp.counted ++ [(key, v, port)] } })

/-- The counted entries, by key: row and unit (R472). -/
def countedRow (key : Nat) : Option (Row × Nat) :=
  [E.ringAddr, E.headVCeil, E.personaDefault, E.chDisable].findSome? (fun r => (rowFind r key).map (fun x => (r, x.1)))

/-- COUNTED_SETTING_WRITE (R449, R472 to R474). -/
def execCountedSettingWrite (port : Port) (index sub v : Nat) (s : State) : Host.Outcome State Fault Refusal :=
  .next (match countedRow (index * 256 + sub) with
    | none => s
    | some (r, i) => writeAs s port noTarget r i 0 v (countedAct r i v (some port)))

/-- The record of a change is programmed and sealed, and the slot bit last (R474, R545). -/
def programRecord (s : State) (k : Counted) (v : Nat) : State :=
  match blankRecords s k with
  | [] => s
  | j :: _ =>
    let w := k.first + j
    let s := senseWord (setFuseWord s w { data := (fuseWord s w).data ||| v, syn := 0, sealed := true }) w (weakOf s w)
    senseWord (blow s k.slot (tripled (2 ^ j))) k.slot (weakOf s k.slot)

/-- A change takes effect in the TICK in which it is answered (R474): the entries change; HEAD_V_CEIL and CH_DISABLE act
at once (R472). -/
def countedEffect (s : State) (r : Row) (i v : Nat) : State :=
  if r.k0 = E.chDisable.k0 then
    let w := (disableBit i).1
    let s := senseWord (blow s w (tripled (2 ^ (disableBit i).2))) w (weakOf s w)
    dropDisabled (showDisable s i) i
  else match countedRecords.find? (fun k => k.row.k0 == r.k0) with
    | none => s
    | some k =>
      let s := showRecord (programRecord s k v) k
      if r.k0 = E.headVCeil.k0 then allAmpLimits s else s

/-- COUNTED_CHANGE_DONE: the slot bit has passed its verify (R474); not during a brown-out. -/
def countedDoneAct (key : Nat) (s : State) : State :=
  if brownout s then s
  else match s.otp.counted.find? (fun x => x.1 == key), countedRow key with
    | some (_, v, port), some (r, i) =>
      let s := { s with otp := { s.otp with counted := s.otp.counted.filter (fun x => x.1 != key) } }
      let s := countedEffect s r i v
      match port with
      | none => s
      | some p => answerLater s p key okCode
    | _, _ => s

/-- COUNTED_CHANGE_DONE (R472 to R475, R545 to R547). -/
def execCountedChangeDone (index sub : Nat) (s : State) : Host.Outcome State Fault Refusal :=
  .next (countedDoneAct (index * 256 + sub) s)

end Sys2Proof.Machine
end

