-- ==== Sys2Proof/Machine/Power.lean ====
section
/-!
DEFINITION. The die diode, the supply monitors and the switching of power domains (R45 to R48, R271, R505 to R508, R517 to
R525, R551).
-/
namespace Sys2Proof.Machine

/-! ### The die diode -/

/-- The range of a working diode, -55 to +170 degrees, and the trip level of 140 degrees, in 1/16 degree (R506, R507). -/
def dieLow : Int := -880
def dieHigh : Int := 2720
def dieTrip : Int := 2240

/-- The run of identical raw codes, and the diode's state with this reading (R506). -/
def diodeStep (s : State) (temp : Int) (raw : Nat) : State :=
  let x := s.die
  let run := if x.rawLast = some raw then min 64 (x.rawRun + 1) else 1
  let outside := decide (temp < dieLow ∨ dieHigh < temp)
  let s := { s with die := { x with rawLast := some raw, rawRun := run } }
  if !x.broken && (outside || run == 64) then
    let st : Nat := if outside then 1 else 2
    let s := { s with die := { s.die with broken := true } }
    (s.wr E.diodeState (st : Nat)).report 0xD0 2 (st * 2 ^ 16 + raw % 2 ^ 16)
  else s

/-- DIE_TEMP and DIE_TEMP_MAX of the round (0x7200.01, .02, R506). -/
def dieReading (s : State) (temp : Int) (first : Bool) : State :=
  if s.die.broken then s.wr E.dieTemp 0x7FFF
  else (s.wr E.dieTemp temp).wr E.dieTempMax (if first then temp else max (s.rd E.dieTempMax) temp)

/-- The rounds in a row at or above the trip level; the third makes a trip due (R506, R507). -/
def tripStep (s : State) : State :=
  if s.die.broken ∨ dieTrip ≤ s.rd E.dieTemp then
    let n := min 3 (s.rdN E.tripRun + 1)
    let s := if s.rdN E.tripRun = 2 then { s with die := { s.die with due := true } } else s
    s.wr E.tripRun n
  else s.wr E.tripRun 0

/-- The DRAM bandwidths of the last 1 ms round, in MB/s (0x6010 + ch.0A, .0B). -/
def latchTraffic (s : State) : State :=
  let s := (List.range 5).foldl (fun s ch =>
    let x := aget (0, 0) ch s.memory.traffic
    (s.wr E.bwRead (x.1 / 1000 : Nat) ch).wr E.bwWrite (x.2 / 1000 : Nat) ch) s
  { s with memory := { s.memory with traffic := [] } }

/-- DIE_TEMP_ROUND: the 1 ms round of the housekeeping processor (R505 to R507, R560). -/
def dieRoundAct (temp : Int) (raw : Nat) (s : State) : State :=
  let first := s.die.rawLast.isNone
  calTemperature (tripStep (dieReading (diodeStep (latchTraffic s) temp raw) temp first))

/-- DIE_TEMP_ROUND (R505 to R507, R560). -/
def execDieTempRound (temp : Int) (raw : Nat) (s : State) : Host.Outcome State Fault Refusal :=
  .next (dieRoundAct temp raw s)

/-! ### Supplies -/

/-- SUPPLY_WARN: a rail of a domain is below its warning level. The start of a dip is reported, counted and acted on
(R519, R542). -/
def supplyWarnAct (m mV : Nat) (s : State) : State :=
  if !monitorOn s m then s
  else
    let s := (s.wr E.supV (mV % 65536) m).wr E.supMin (min (s.rd E.supMin m) (mV % 65536 : Nat)) m
    if s.sup.low.contains m then s
    else
      let s := { s with sup := { s.sup with low := s.sup.low ++ [m] } }
      let s := ((s.count E.warnCount m).count E.brownouts).report (0xD1 + m) 1 (mV % 65536)
      otpBrownout s

/-- SUPPLY_WARN (R518, R519, R542). -/
def execSupplyWarn (m : Dom) (mV : Nat) (s : State) : Host.Outcome State Fault Refusal := .next (supplyWarnAct m mV s)

/-- SUPPLY_RECOVER: every rail has recovered; queued bits are reinforced, and postponed power-ups resume (R520). -/
def supplyRecoverAct (s : State) : State :=
  if s.sup.low.isEmpty then s else nextPowerUp (otpRecover { s with sup := { s.sup with low := [] } })

/-- SUPPLY_RECOVER (R520). -/
def execSupplyRecover (s : State) : Host.Outcome State Fault Refusal := .next (supplyRecoverAct s)

/-! ### What a domain holds when it reaches operation -/

/-- A section of a chain. -/
def unitySection : Section := ⟨2 ^ 22, 0, 0, 0, 0, 0, 0, 0⟩
/-- The PI section of the default heater chain (R271). -/
def heaterSection : Section := ⟨2181038, -2097152, 0, -4194304, 0, 15, 0, 0⟩

/-- Entries of a standard loop (R271): trigger, sources, modes and sink, and the chains' slots. -/
def loopEntries (s : State) (l kind div ch srcA xA srcB xB sink fa la fb lb : Nat) : State :=
  let s := ((s.wr E.trigKind kind l).wr E.trigDiv div l).wr E.trigCh ch l
  let s := (((s.wr E.srcA srcA l).wr E.xmodeA xA l).wr E.srcB srcB l).wr E.xmodeB xB l
  ((((s.wr E.sink sink l).wr E.firstA fa l).wr E.lenA la l).wr E.firstB fb l).wr E.lenB lb l

/-- The loops of a channel: drive amplitude and heater (R271, R275). -/
def channelLoops (s : State) (c : Nat) : State :=
  let s := loopEntries s (2 + c) 2 25000 c (0x200 + c) 1 (0x200 + c) 1 (0x200 + c) (18 + 4 * c) 2 (20 + 4 * c) 2
  let s := loopEntries s (98 + c) 1 25000 0 0x400 0 (0x300 + c) 1 (0x300 + c) 594 0 (402 + 2 * c) 2
  let s := (s.wr E.outMin 0 (98 + c)).wr E.outMax (255 * 2 ^ 16) (98 + c)
  (s.setSec (402 + 2 * c) heaterSection).setSec (403 + 2 * c) unitySection

/-- The boot firmware's configuration of the standard loops (R271 to R275). -/
def standardLoops (s : State) : State :=
  let s := loopEntries s 0 1 25 0 0x100 0 0x100 0 0x100 0 0 8 0
  let s := (s.wr E.outMin 0 0).wr E.outMax 0 0
  let s := loopEntries s 1 1 25000 0 0x500 0 0x500 0 0x400 16 1 17 1
  let s := (s.setSec 16 unitySection).setSec 17 unitySection
  allAmpSettings ((List.range 96).foldl channelLoops s)

/-- The CAN controller's reset: the node ID in force, pre-operational, the boot-up message (R437, R439). W13 and CAN_EN
hold the port off (R534, 0x1110.01). The boot-up message's data byte 0 is PRESUMED (log entry 15). -/
def canStart (s : State) : State :=
  if s.rd E.canEn = 0 ∨ wire s 13 = true then { s with can := { s.can with status := 0 } }
  else
    let node := s.rdN E.canNodeId
    let s := { s with can := { node := node, status := 1, waiting := none } }
    (((s.wr E.canNmt 0x7F).wr E.canTec 0).wr E.canRec 0).emit (.canFrame (0x700 + node) [0])

/-- The ring node at start-up: joining while RING_EN is 1; the root is the strapped node whose address is assigned (R416,
R418, R425). -/
def ringStart (s : State) : State :=
  let on := s.rd E.ringEn == 1
  let root := on && s.straps.ringRoot && s.rdN E.ringAddrNow != 0xFFFE
  let s := { s with ring := { join := if on then 1 else 0, root := root }, lanes := [] }
  if root then s.wr E.rtState 4 else s.wr E.rtState 0

/-- An engine that has no channel of its own: its channel is left unserved by the boot firmware (R52, R551). -/
def bootUnserved (s : State) (c e : Nat) : State := leaveUnserved (s.wr E.channel 0xFF e) c

/-- Spare p serves channel c in place of engine e from the start (R550, R551). -/
def bootSpare (s : State) (c e p : Nat) : State := ((s.wr E.channel c p).wr E.servedBy p c).wr E.channel 0xFF e

/-- An engine of a group is taken into service by its self-test: one that fails gives its channel to the group's free,
sound spare, which is recorded in the Tally, or leaves it unserved (R551). -/
def engineTest (g : Nat) (bad : List Nat) (s : State) (e : Nat) : State :=
  if !s.engPresent e || !bad.contains e || (s.eng e).replaced then s
  else
    let s := s.setEng e { s.eng e with failedBist := true }
    if spareFree s e && !bad.contains (96 + g) then
      tallyRecord (bootSpare s e e (96 + g)) [466 + g] 7 (channelFields e)
    else bootUnserved s e e

/-- A group's engines and spare as they come into service (R550, R551, R53): the Tally's replacement first, then the
self-test of the others. -/
def startGroup (g : Nat) (bad : List Nat) (s : State) : State :=
  let p := 96 + g
  let s := if bad.contains p then s.setEng p { s.eng p with failedBist := true } else s
  let s := match spareRecord s g with
    | none => s
    | some c =>
      if groupOf c ≠ g ∨ 96 ≤ c then s
      else
        let s := s.setEng c { s.eng c with replaced := true, fenced := true }
        if bad.contains p || !s.engPresent p then bootUnserved s c c else bootSpare s c c p
  let chs := (List.range 24).map (· + 24 * g)
  chs.foldl dropDisabled (chs.foldl (engineTest g bad) s)

/-- The units of a domain as they begin when it reaches operation. TIME and its epoch begin at 0 with DOM_10 (R73, R74). -/
def startDomain (d : Nat) (bad : List Nat) (s : State) : State :=
  if d = 1 then canStart (ringStart s)
  else if d = 2 then (s.wr E.macAddr (s.fuse 2) 0).wr E.macAddr (s.fuse 2 + 1 : Nat) 1
  else if 6 ≤ d ∧ d ≤ 9 then allAmpSettings (startGroup (d - 6) bad s)
  else if d = 10 then standardLoops s
  else s

/-! ### Switching -/

/-- A domain has reached operation; DOM_11 then clears the staging SRAM (R47). What the persona sets stands again in the
units of the domain (R570). -/
def domainUp (d : Nat) (bad : List Nat) (s : State) : State :=
  let s := startDomain d bad (setDom s d (if d = 11 then 3 else 2))
  if s.finup then personaSet s else s

/-- DOM_POWER_UP_DONE: the domain is operational, and the next waiting one powers up (R524). -/
def powerUpAct (d : Nat) (bad : List Nat) (s : State) : State :=
  if s.domState d = 1 then nextPowerUp (domainUp d bad s) else s

/-- DOM_POWER_UP_DONE (R47, R73, R524, R551). -/
def execDomPowerUpDone (d : Dom) (bistFail : List Eng) (s : State) : Host.Outcome State Fault Refusal :=
  .next (powerUpAct d (bistFail.map Fin.val) s)

/-- DOM_FAIL: a domain that does not reach operation in time is switched off again (R522). The boot firmware does not power up a
domain of which this event came before it completes. -/
def domFailAct (d : Nat) (s : State) : State :=
  if d ≠ 0 ∧ (s.domState d = 1 ∨ (s.dev = .boot ∧ s.domState d = 0 ∧ fusedOff s d = false)) then nextPowerUp ((clearDomain d (setDom s d 6)).report (0xD1 + d) 2 0) else s

/-- DOM_FAIL (R522). -/
def execDomFail (d : Dom) (s : State) : Host.Outcome State Fault Refusal := .next (domFailAct d s)

/-- DOM_POWER_DOWN_DONE: the domain switches off, and its units keep no state (R45, R524). -/
def powerDownAct (d : Nat) (s : State) : State :=
  if s.domState d ≠ 4 then s
  else
    let s := clearDomain d (setDom s d 0)
    if 6 ≤ s.shutStep then downNext s else nextPowerUp s

/-- DOM_POWER_DOWN_DONE (R45, R524). -/
def execDomPowerDownDone (d : Dom) (s : State) : Host.Outcome State Fault Refusal := .next (powerDownAct d s)

/-- Position or the time base comes from the ring (R45). -/
def ringInUse (s : State) : Bool :=
  s.obs.active == 4 || s.rdN E.srcPrimary == 4 || s.rdN E.srcSecondary == 4 || decide (1 ≤ s.rdN E.rtState ∧ s.rdN E.rtState ≤ 3)

/-- Lines are streamed from the network (R45). -/
def streamed (s : State) : Bool :=
  (enabledChs s).any (fun c => s.rdN E.feedRb c < 32 && s.rd E.rsEn (s.rdN E.feedRb c) == 1)

/-- The domain is needed to print (R45, R48; log entry 44). -/
def neededToPrint (s : State) (d : Nat) : Bool :=
  d == 3 || d == 4 || d == 10 || (d == 1 && ringInUse s) || (d == 2 && streamed s) ||
    (decide (6 ≤ d ∧ d ≤ 9) && (enabledChs s).any (fun c => engDom c == d))

/-- A domain is on, or its power-up waits or is under way (R523). -/
def comingUp (s : State) (d : Nat) : Bool := s.domOn d || s.domState d == 1 || domWaiting s d

/-- What refuses a write of DOM_REQ_d (R523). -/
def domReqRefused (s : State) (d v : Nat) : Bool :=
  d == 0 || d == 5 || fusedOff s d ||
    if v = 0 then
      (s.busyJob && neededToPrint s d) || (List.range 12).any (fun x => (prerequisites x).contains d && s.domOn x)
    else !(prerequisites d).all (comingUp s)

/-- A write of DOM_REQ_d (R523, R524). -/
def domReqAct (d v : Nat) (s : State) : Nat × State :=
  if domReqRefused s d v then (codeState, s)
  else
    let s := s.wr E.domReq v d
    (okCode, if v = 0 then nextPowerUp (beginDown s d) else requestUp s d)

/-- DOM_REQ_WRITE (R48, R523, R524). -/
def execDomReqWrite (port : Port) (d : Dom) (v : Nat) (s : State) : Host.Outcome State Fault Refusal :=
  .next (writeAs s port noTarget E.domReq d 0 v (domReqAct d v))

end Sys2Proof.Machine
end

