-- ==== Sys2Proof/Machine/Reset.lean ====
section
/-!
DEFINITION. Resets: what each cause resets and what it leaves (R20, R33, R39, R445, R467, R502, R504, R514, R516, R521, R603,
R613).
-/
namespace Sys2Proof.Machine

/-! ### Fuse operations cut off -/

/-- A word has a bit that is left partly programmed (R603). -/
def partlyDone (s : State) (w : Nat) : State := { s with otp := { s.otp with partly := w :: s.otp.partly } }

/-- An operation under way is cut off by a reset of DOM_0 at some pulse: the bits before it are programmed, and what the
bit of that pulse reads as is free (R530, R542, R603; log entry 33). -/
def cutOperation (s : State) : State :=
  match s.otp.op with
  | none => s
  | some (op, w, mask) =>
    if op = 4 then s
    else
      let l := opBits s op w mask
      let (k, s) := s.draw
      let (v, s) := s.draw
      let done := l.take (k % (l.length + 1))
      let s := blowDone s op w done
      match l[k % (l.length + 1)]? with
      | none => s
      | some b => partlyDone (if v % 2 = 1 then blowDone s op w [b] else s) w

/-- A change of a counted setting is cut off: its record is not begun, partly programmed, or programmed whole and the bits
of its slot partly programmed; how far is free (R474, R546; log entry 33). -/
def cutChange (s : State) (x : Nat × Nat × Option Port) : State :=
  match countedRow x.1 with
  | none => s
  | some (r, i) =>
    let (stage, s) := s.draw
    let (m, s) := s.draw
    if r.k0 = E.chDisable.k0 then
      partlyDone (blow s (disableBit i).1 (tripled (2 ^ (disableBit i).2) &&& m)) (disableBit i).1
    else match countedRecords.find? (fun k => k.row.k0 == r.k0) with
      | none => s
      | some k => match blankRecords s k with
        | [] => s
        | j :: _ =>
          if stage % 3 = 0 then s
          else if stage % 3 = 1 then partlyDone (blow s (k.first + j) (x.2.1 &&& m)) (k.first + j)
          else
            let w := k.first + j
            let s := setFuseWord s w { data := (fuseWord s w).data ||| x.2.1, syn := 0, sealed := true }
            partlyDone (blow s k.slot (tripled (2 ^ j) &&& m)) k.slot

/-- The fuse controller after a reset of DOM_0: the array keeps its bits, the wires are delivered again, everything else is
as before sensing (R534, R535). -/
def freshOtp (s : State) : OtpSt :=
  let w (n : Nat) : Nat := majority (fuseWord s n).data
  { words := s.otp.words, partly := s.otp.partly, wires := wiresFrom (w 120) (w 121) }

/-- The fuse controller after a reset that leaves DOM_0 running: an operation and a counted change go on, with no answer to
give (R613). -/
def keptOtp (s : State) : OtpSt :=
  { s.otp with opPort := none, counted := s.otp.counted.map (fun x => (x.1, x.2.1, none)) }

/-! ### The reset -/

/-- What every reset leaves (R20, R445, R502, R613): the device in BOOT, every entry at its default but RESET_CAUSE and
SUPPLY_LAST, the flash and the fuses as they are. ALIVE is held low. -/
def resetUnits (s : State) (otp : OtpSt) (cause : Nat) : State :=
  let low := s.rd E.supplyLast
  let t : State := { State.reset with
    pending := s.pending, sent := s.sent, fresh := s.fresh, straps := s.straps, otp := otp,
    acted := [(.device, .reset)],
    store := { slotA := s.store.slotA, slotB := s.store.slotB, flashOk := s.store.flashOk } }
  let t := (t.wr E.resetCause cause).wr E.supplyLast low
  if s.alive then t.emit (.alive false) else t

/-- A reset of the whole S96, DOM_0 included. -/
def resetAll (s : State) (cause : Nat) : State :=
  let s := s.otp.counted.foldl cutChange (cutOperation s)
  resetUnits s (freshOtp s) cause

/-- A reset of every domain but DOM_0, whose clock, monitors and fuse controller go on (R33, R467). -/
def resetDomains (s : State) (cause : Nat) : State :=
  let t := resetUnits s (keptOtp s) cause
  { t with clkRoot := s.clkRoot, sup := { low := s.sup.low.filter (· == 0) } }

/-- A shutdown has begun or is complete: no reset but a power-on reset is made (R516). -/
def resetsIgnored (s : State) : Bool := s.shut.isSome || s.dev == .safe

/-- POWER_ON_RESET: VCORE_AON and VIO18 have risen; the straps are sampled (R20, R21, R521, R553, R554). -/
def powerOnAct (straps : Straps) (s : State) : State :=
  let t := resetAll s 0
  { t.wr E.supplyLast 255 with straps := straps }

/-- POWER_ON_RESET (R20, R534, R553). -/
def execPowerOnReset (straps : Straps) (s : State) : Host.Outcome State Fault Refusal := .next (powerOnAct straps s)

/-- CLOCK_FAULT: CLK_HK returns to HK_OSC; every domain but DOM_0 is reset, or a shutdown goes to step 5 (R32, R33, R35,
R514, R516). -/
def clockFaultAct (s : State) : State :=
  if resetsIgnored s then ignoredReset { s with clkRoot := false } else { resetDomains s 1 with clkRoot := false }

/-- CLOCK_FAULT (R32, R33, R516). -/
def execClockFault (s : State) : Host.Outcome State Fault Refusal := .next (clockFaultAct s)

/-- SUPPLY_RESET: a watched rail of a domain is below its reset level; at the power-on level of VCORE_AON the reset is a
power-on reset (R518, R521). -/
def supplyResetAct (m : Nat) (powerOnLevel : Bool) (s : State) : State :=
  if powerOnLevel then powerOnAct s.straps s
  else if !monitorOn s m then s
  else if resetsIgnored s then ignoredReset s
  else (resetAll s 2).wr E.supplyLast m

/-- SUPPLY_RESET (R516, R521). -/
def execSupplyReset (m : Dom) (powerOnLevel : Bool) (s : State) : Host.Outcome State Fault Refusal :=
  .next (supplyResetAct m powerOnLevel s)

/-- WATCHDOG_EXPIRY (R504, R516). That DOM_0 is reset too is the model's reading (log entry 48). -/
def execWatchdogExpiry (s : State) : Host.Outcome State Fault Refusal :=
  .next (if resetsIgnored s then s else resetAll s 4)

/-- RESET_N: a pulse of 1 us or more resets, one below 100 ns does not, and between the two it is open (R603; log entry
26). -/
def resetPinAct (width : Nat) (s : State) : State :=
  if resetsIgnored s ∨ width < 100 then s
  else if 1000 ≤ width then resetAll s 5
  else
    let (d, s) := s.draw
    if d % 2 = 0 then s else resetAll s 5

/-- RESET_N (R516, R603). -/
def execResetN (widthNs : Nat) (s : State) : Host.Outcome State Fault Refusal := .next (resetPinAct widthNs s)

/-- A write of RESET: refused once a shutdown has begun, otherwise every domain but DOM_0 is reset and no answer is sent
(R467, R514, R613). -/
def resetCommand (arg : Nat) (s : State) : Nat × State :=
  if resetsIgnored s then (codeState, s)
  else if arg ≠ 0x5A5A then (codeRange, s)
  else (laterCode, resetDomains s 3)

/-- RESET (R467, R514, R613). -/
def execReset (port : Port) (arg : Nat) (s : State) : Host.Outcome State Fault Refusal :=
  .next (writeIf s port (s.actedOn .device [.reset]) E.command 0 0 (commandWord 0xF0 arg) (resetCommand arg))

end Sys2Proof.Machine
end

