-- ==== Sys2Proof/Machine/Health.lean ====
section
/-!
DEFINITION. Nozzle health: scores, the scan, learning, the health map (R232 to R257).
-/
namespace Sys2Proof.Machine

/-! ### The correlation -/

/-- Time of tap j of a cycle after t_fire, in 1/4,096 vernier step (R235). -/
def tapOfs (y : Cycle) (j : Nat) : Nat := (y.edge8 * 40 + j * 80) * y.stretch

/-- The sample of a tap: the nearest, which lies at most half a sample distance before it, or less behind it; otherwise the
nearest one is missing (R197, R235, R238). -/
def tapSample (s : State) (c : Nat) (y : Cycle) (ofs : Nat) : Option Sample :=
  (nearestSample s c y ofs).filter (fun x => decide (-(40 * 4096) ≤ refDist y ofs x ∧ refDist y ofs x < 40 * 4096))

/-- The window of a probe: none when a sample is missing, clipped or over-current (R238). -/
def probeWindow (s : State) (c e : Nat) (y : Cycle) : Option (List Int) :=
  ((List.range (s.rdN E.probeTaps e)).map (fun j => tapSample s c y (tapOfs y j))).foldr
    (fun x l => match x, l with
      | some x, some l => if x.clip || x.oc then none else some (x.i :: l)
      | _, _ => none) (some [])

/-- Address of template k of an engine (R236, log entry 5). -/
def templateAt (e k : Nat) : Nat := healthBase + e * tableStep + 0x14000 + 0x80 * k

/-- Value j of template k of an engine. -/
def templateWord (s : State) (e k j : Nat) : Int := signed 16 (s.word (templateAt e k + 2 * j) 2)

/-- The score of R237 for samples x, a template T, GAIN as 2^16 times itself, and A_TOL. -/
def scoreOf (x t : List Int) (gain aTol : Nat) : Nat :=
  let e := t.map (fun v : Int => v * (gain : Int))
  let p := (List.zipWith (· * ·) x e).sum
  let se := (e.map (fun v => v * v)).sum
  let sx := (x.map (fun v => v * v)).sum
  if p ≤ 0 ∨ se = 0 ∨ sx = 0 then 0
  else
    let a : Rat := (p * 2 ^ 18 : Int) / (se : Rat)
    let dev : Rat := if a < 1 then 1 - a else a - 1
    let q : Rat := 1 - dev * 256 / aTol
    if q ≤ 0 then 0
    else
      let top := 255 * p.toNat * q.num.toNat
      Nat.sqrt (top * top / (q.den * q.den * (sx * se).toNat))

/-! ### The scan -/

/-- A nozzle put into an ascending list. -/
def insertAsc (n : Nat) : List Nat → List Nat
  | [] => [n]
  | m :: r => if n < m then n :: m :: r else if n = m then m :: r else m :: insertAsc n r

/-- The lowest nozzle of a scan at or above n that is not exempt (R234). -/
def scanFrom (s : State) (e n : Nat) : Option Nat :=
  ((List.range (s.rdN E.nozzles e - n)).map (· + n)).find? (fun m => hState (s.health e m) != 6)

/-- The scan pointer after a valid score of nozzle n from a scan probe (R234): a repeat of a nozzle that the pointer does not
stand at leaves it (log entry 12). -/
def advanceScan (s : State) (e n : Nat) : State :=
  let x := { s.eng e with again := (s.eng e).again.filter (fun m => m != n) }
  let repeat_ := (s.eng e).again.contains n && scanFrom s e (s.rdN E.scanNext e) != some n
  let s := s.setEng e x
  if repeat_ || decide (n < s.rdN E.scanNext e) then s
  else match scanFrom s e (n + 1) with
    | some m => s.wr E.scanNext m e
    | none =>
      let s := (s.wr E.scanNext ((scanFrom s e 0).getD 0) e).count E.scanCount e
      let s := s.wr E.lastScanTime (sat32 ((s.tick - x.scanFrom : Nat) / 25)) e
      s.setEng e { x with scanFrom := s.tick }

/-- An invalid probe: counted, and its nozzle is probed again (R238) unless it has become exempt (R247). One that awaits
confirmation still does; a learn scan goes on, for it probes each nozzle once (R243). -/
def invalidProbe (s : State) (e : Nat) (p : Probe) : State :=
  let s := s.count E.probesInvalid e
  let x := s.eng e
  if p.kind = .scan ∧ hState (s.health e p.nozzle) ≠ 6 then s.setEng e { x with again := insertAsc p.nozzle x.again } else s

/-- A nozzle has failed: counted, reported, and its commit requested (R140, R241, R247). -/
def nozzleFails (s : State) (c e n : Nat) : State :=
  let s := ((s.count16 E.failedCount e).wr E.lastFailed n e).report e 0xD (c * 2 ^ 40 + n)
  noteFailure s c e n

/-- A valid score of a nozzle: LAST_SCORE and TPL, then strikes and state (R241, R242, R248). -/
def applyScore (s : State) (c e n score : Nat) (t1 : Bool) : State :=
  let h := putBits (putBits (s.health e n) 39 32 score) 40 40 (if t1 then 1 else 0)
  if hFailed h || hState h == 6 then s.setHealth e n h
  else if s.rdN E.scoreGood e ≤ score then s.setHealth e n (putBits (putBits h 44 43 0) 47 45 1)
  else if s.rdN E.scoreFail e ≤ score then
    let h := if hState h = 2 then h else putBits h 9 0 (min 1023 (bits h 9 0 + 1))
    s.setHealth e n (putBits (putBits h 44 43 0) 47 45 2)
  else
    let k := min 3 (hStrikes h + 1)
    if k = 3 then nozzleFails (s.setHealth e n (putBits (putBits h 44 43 3) 47 45 4)) c e n
    else s.setHealth e n (putBits (putBits h 44 43 k) 47 45 3)

/-- A response of a learn scan is added to its template's sums, divided by GAIN (R243). -/
def learnResponse (s : State) (e : Nat) (p : Probe) (w : List Int) : State :=
  let x := s.eng e
  match x.learn with
  | none => s
  | some l =>
    let r : List Rat := w.map (fun v => (v * 65536 : Int) / (p.cycle.gain : Rat))
    let add (a : List Rat) : List Rat := if a.isEmpty then r else List.zipWith (· + ·) a r
    s.setEng e { x with learn := some (if p.masked then { l with sum1 := add l.sum1, num1 := l.num1 + 1 }
      else { l with sum0 := add l.sum0, num0 := l.num0 + 1 }) }

/-- PROBE_SCORE: the score of the oldest probe of an engine is ready (R234 to R242). While a learn scan runs no score is made,
and the response of a probe of an earlier one is dropped (R243). A parity error stops the probing of the engine (R254). -/
def probeScoreAct (e : Nat) (parityError : Bool) (s : State) : State :=
  let x := s.eng e
  match x.probes, channelOf s e with
  | p :: r, some c =>
    let s := s.setEng e { x with probes := r }
    if parityError then
      let s := s.setEng e { s.eng e with corrStop := true, probes := [] }
      s.report e 0xF (c * 2 ^ 40)
    else
      let k := if p.masked then 1 else 0
      let valid := bit (s.rdN E.templateValid e) k
      if p.kind = .discarded ∨ (p.kind ≠ .learn ∧ x.learn.isSome) then s
      else match (if p.unfired then none else probeWindow s c e p.cycle) with
      | none => invalidProbe s e p
      | some w =>
        if p.kind = .learn then (if p.cycle.gain = 0 then invalidProbe s e p else learnResponse s e p w)
        else if !valid then invalidProbe s e p
        else
          let t := (List.range (s.rdN E.probeTaps e)).map (templateWord s e k)
          let s := applyScore s c e p.nozzle (scoreOf w t p.cycle.gain (s.rdN E.aTol e)) p.masked
          if p.kind = .scan then advanceScan s e p.nozzle else s
  | _, _ => s

/-- PROBE_SCORE (R234 to R242, R254). -/
def execProbeScore (e : Eng) (parityError : Bool) (s : State) : Host.Outcome State Fault Refusal :=
  .next (probeScoreAct e parityError s)

/-! ### Learning -/

/-- LEARN_STATUS of a learn scan that is refused; 0 when it may start (R244). A spare or an engine that serves no
channel has no inbound lane. -/
def learnRefusal (s : State) (e : Nat) : Nat :=
  match channelOf s e with
  | none => if s.dev = .printing then 4 else 3
  | some c =>
    if s.dev ≠ .printing then 3
    else if !(s.chan c).rxUp then 4
    else if s.rd E.hlMode e = 1 then 5
    else if !(s.chan c).calDone then 8
    else 0

/-- A write of 1 to PROBE_LEARN (R243, R244): a refused scan shows its code in LEARN_STATUS (log entry 34). -/
def learnStartAct (e : Nat) (s : State) : Nat × State :=
  let k := learnRefusal s e
  if k ≠ 0 then (okCode, s.wr E.learnStatus k e)
  else
    let rate := match channelOf s e with
      | none => 0
      | some c => (s.chan c).rateInt
    let s := dropLearn s e
    (okCode, (s.setEng e { s.eng e with learn := some ⟨0, [], 0, [], 0, rate, 0, 0⟩ }).wr E.learnStatus 1 e)

/-- A write of 2 to PROBE_LEARN: a running scan is discarded (R244). -/
def learnCancelAct (e : Nat) (s : State) : Nat × State := (okCode, discardLearn s e)

/-- LEARN_START (R243, R244). -/
def execLearnStart (port : Port) (e : Eng) (s : State) : Host.Outcome State Fault Refusal :=
  .next (writeAs s port (.engine e) E.probeLearn e 0 1 (learnStartAct e))

/-- LEARN_CANCEL (R244). -/
def execLearnCancel (port : Port) (e : Eng) (s : State) : Host.Outcome State Fault Refusal :=
  .next (writeAs s port (.engine e) E.probeLearn e 0 2 (learnCancelAct e))

/-- A template value from a sum of responses: four times the mean as a whole number (R236, R243; log entry 7); open
when it does not fit its 16 bits (log entry 30). -/
def templateValue (s : State) (sum : Rat) (num : Nat) : Nat × State :=
  let (v, s) := roundWord s (sum * 4 / num)
  if -32768 ≤ v ∧ v ≤ 32767 then (unsigned 16 v, s) else s.draw

/-- A template is learned from its sums (R243). -/
def learnTemplate (s : State) (e k : Nat) (sums : List Rat) (num : Nat) : State :=
  if num < 256 then s
  else
    let s := (List.range sums.length).foldl (fun s j =>
      let (v, s) := templateValue s ((sums[j]?).getD 0) num
      s.setBytes (templateAt e k + 2 * j) (toBytes 2 v)) s
    s.wr E.templateValid (s.rdN E.templateValid e ||| 2 ^ k : Nat) e

/-- LEARN_SCAN_END: every nozzle has been probed and every response is in (R243). -/
def learnEndAct (e : Nat) (s : State) : State :=
  let x := s.eng e
  match x.learn, channelOf s e with
  | some l, some c =>
    if (learnNozzle s e l).isSome || !(inFlight s c e .learn).isEmpty then s
    else
      let s := s.setEng e { x with learn := none }
      let s := learnTemplate (learnTemplate s e 0 l.sum0 l.num0) e 1 l.sum1 l.num1
      let (r, s) := roundWord s (if l.rateNum = 0 then (s.chan c).rateInt else (l.rateSum : Rat) / l.rateNum)
      let s := s.wr E.learnRate (clampInt 0 120000 r) e
      (s.wr E.learnStatus (if l.num0 < 256 ∨ l.num1 < 256 then 7 else 2) e).stale
  | _, _ => s

/-- LEARN_SCAN_END (R243). -/
def execLearnScanEnd (e : Eng) (s : State) : Host.Outcome State Fault Refusal := .next (learnEndAct e s)

/-! ### Writes -/

/-- A write of HEALTH_EN: 1 needs both templates (R245). -/
def healthEnAct (e v : Nat) (s : State) : Nat × State :=
  if v = 1 ∧ s.rd E.templateValid e ≠ 3 then (codeRange, s)
  else
    let s := if v = 1 ∧ s.rd E.healthEn e = 0 then s.setEng e { s.eng e with scanFrom := s.tick } else s
    (okCode, s.wr E.healthEn v e)

/-- HEALTH_EN_WRITE (R245). -/
def execHealthEnWrite (port : Port) (e : Eng) (v : Nat) (s : State) : Host.Outcome State Fault Refusal :=
  .next (writeAs s port (.engine e) E.healthEn e 0 v (healthEnAct e v))

/-- The written bytes of a health map take effect on one entry: SUB_CH and SUB_NOZZLE, and STATE when its byte is
among them (R247). -/
def mapEntryWrite (s : State) (e n ofs : Nat) (data : List Byte) : State :=
  let a := 6 * n
  let old := s.health e n
  let put (h i hi lo : Nat) : Nat :=
    if ofs ≤ a + i ∧ a + i < ofs + data.length then
      putBits h hi lo (bits ((data[a + i - ofs]?).getD 0).toNat 7 (7 - (hi - lo)))
    else h
  let st := if ofs ≤ a ∧ a < ofs + data.length then bits ((data[a - ofs]?).getD 0).toNat 7 5 else 0
  let h := put (put (put old 2 31 24) 3 23 16) 4 15 10
  let drop (s : State) : State :=
    let x := s.eng e
    s.setEng e { x with again := x.again.filter (fun m => m != n || st == 5) }
  if st = 5 ∧ hState old ≠ 5 then
    let s := drop (s.setHealth e n (putBits h 47 45 5))
    if hState old = 4 then s
    else match channelOf s e with
      | some c => nozzleFails s c e n
      | none => ((s.count16 E.failedCount e).wr E.lastFailed n e).report e 0xD (0xFF * 2 ^ 40 + n)
  else if st = 6 then drop (s.setHealth e n (putBits h 47 45 6))
  else if st = 7 then drop (s.setHealth e n (putBits h 47 41 0))
  else s.setHealth e n h

/-- The written bytes, from offset `ofs` of the map on, taken by the entries that they fall in, in ascending order. -/
def mapEntriesWrite (e : Nat) : List Nat → Nat → List Byte → State → State
  | [], _, _, s => s
  | n :: r, ofs, data, s =>
    let k := 6 * (n + 1) - ofs
    mapEntriesWrite e r (ofs + k) (data.drop k) (mapEntryWrite s e n ofs (data.take k))

/-- A health map write, entry by entry in ascending order (R247, R248). -/
def healthMapAct (e ofs : Nat) (data : List Byte) (s : State) : Nat × State :=
  let first := ofs / 6
  let last := (ofs + data.length - 1) / 6
  (okCode, mapEntriesWrite e ((List.range (last + 1 - first)).map (· + first)) ofs data s)

/-- HEALTH_MAP_WRITE (R247, R453). -/
def execHealthMapWrite (port : Port) (e : Eng) (ofs : Nat) (data : List Byte) (s : State) :
    Host.Outcome State Fault Refusal :=
  .next (writeBlock s port (.engine e) E.healthMap e ofs data (healthMapAct e ofs data))

/-- A write of a template's bytes makes it valid (0x4200 + e.05). -/
def templateAct (e k ofs : Nat) (data : List Byte) (s : State) : Nat × State :=
  (okCode, (s.setBytes (templateAt e k + ofs) data).wr E.templateValid (s.rdN E.templateValid e ||| 2 ^ k : Nat) e)

end Sys2Proof.Machine
end

