-- ==== Sys2Proof/Machine/Values.lean ====
section
/-!
DEFINITION. The stored value of every dictionary entry: which row a key names, where blocks of bytes stand, and the bytes of
a value (R445, R446, R478).
-/
namespace Sys2Proof.Machine

/-- The row, unit and subindex that a key names (R445). -/
def rowOf (key : Nat) : Option (Row × Nat × Nat) :=
  rowTable.findSome? (fun r => (rowFind r key).map (fun x => (r, x.1, x.2)))

/-- The bytes of a value of a row's type, most significant byte first (R446, R447). -/
def valueBytes (r : Row) (v : Int) : List Byte := toBytes (tyBytes r.ty) (unsigned (8 * tyBytes r.ty) v)

/-- The value that bytes of a row's type spell. -/
def bytesValue (r : Row) (l : List Byte) : Int := if tySigned r.ty then signed (8 * l.length) (ofBytes l) else ofBytes l

/-- A row whose entries are blocks of bytes (R446, R453). -/
def isDomain (r : Row) : Bool :=
  match r.ty with
  | .domain _ => true
  | _ => false

/-- A row of strings. -/
def isStr (r : Row) : Bool :=
  match r.ty with
  | .str => true
  | _ => false

/-- The table of a row and whether the row is the active copy (R176, R179, R231). -/
def tableRow (r : Row) : Option (Table × Bool) :=
  if r.k0 = E.stitchShadow.k0 then some (.stitch, false)
  else if r.k0 = E.stitchActive.k0 then some (.stitch, true)
  else if r.k0 = E.waveShadow.k0 then some (.wave, false)
  else if r.k0 = E.waveActive.k0 then some (.wave, true)
  else if r.k0 = E.tileShadow.k0 then some (.tile, false)
  else if r.k0 = E.tileActive.k0 then some (.tile, true)
  else if r.k0 = E.shapeShadow.k0 then some (.shape, false)
  else if r.k0 = E.shapeActive.k0 then some (.shape, true)
  else none

/-- The address of byte 0 of a block of bytes that stands in memory (log entry 5). -/
def blockAt (r : Row) (i : Nat) : Option Nat :=
  match tableRow r with
  | some (t, false) => some (shadowAt i t)
  | some (t, true) => some (activeAt i t)
  | none =>
    if r.k0 = E.healthMap.k0 then some (healthAt i 0)
    else if r.k0 = E.template0.k0 then some (templateAt i 0)
    else if r.k0 = E.template1.k0 then some (templateAt i 1)
    else if r.k0 = E.linkBuf.k0 then some linkBase
    else if r.k0 = E.ipv6Addr.k0 then some (ipv6At i)
    else if r.k0 = E.rsMcast.k0 then some (mcastAt i)
    else if r.k0 = E.hlTap.k0 then some (hlTapAt 0)
    else if r.k0 = E.hlResid.k0 then some (hlResidAt 0)
    else if r.k0 = E.dlEye.k0 then some (dlEyeAt 0)
    else if r.k0 = E.dramEye.k0 then some (dramEyeAt 0)
    else none

/-- The subindex by which a row of section entries is known (R295); 0 for another row. -/
def sectionSub (r : Row) : Nat := if E.b0.k0 ≤ r.k0 ∧ r.k0 ≤ E.sectionBlock.k0 then r.k0 - E.b0.k0 + 1 else 0

/-- The row that holds a value which two entries show: HANDOVER_TOL and HANDOVER_SLEW of loop 0 are those of the position
unit (0x2160.02, .03). -/
def homeRow (r : Row) (i : Nat) : Row :=
  if i = 0 ∧ r.k0 = E.loopHandoverTol.k0 then E.handoverTol
  else if i = 0 ∧ r.k0 = E.loopHandoverSlew.k0 then E.handoverSlew
  else r

/-- The value of a scalar entry as the state stores it: section fields and shape tables have homes of their own. -/
def storedValue (s : State) (r : Row) (i j : Nat) : Int :=
  if sectionSub r ≠ 0 then getField (s.sec i) (sectionSub r)
  else match tableRow r with
    | some (t, false) => (s.byte (shadowAt i t + j)).toNat
    | some (t, true) => (s.byte (activeAt i t + j)).toNat
    | none => s.rd (homeRow r i) i j

/-- n bytes of a block of bytes from an offset, as the state stores them. -/
def blockBytes (s : State) (r : Row) (i ofs n : Nat) : List Byte :=
  if r.k0 = E.sectionBlock.k0 then ((sectionBytes (s.sec i)).drop ofs).take n
  else match blockAt r i with
    | none => List.replicate n 0
    | some a => s.bytes (a + ofs) n

end Sys2Proof.Machine
end

