-- ==== Sys2Proof/Machine/Store.lean ====
section
/-!
DEFINITION. Parameter storage: the image, STORE, the beginning of RESTORE, CONFIG_CRC (R252, R476 to R484).
-/
namespace Sys2Proof.Machine

/-! ### The image -/

/-- Engines whose entries and tables are stored (R478). -/
def storedUnit (r : Row) (i : Nat) : Bool :=
  storedEntry r i || (decide (i < 96) && (tableRow r).any Prod.snd)

/-- Every stored entry that exists: key, row, unit, subindex, in the order of the rows (R478). -/
def storedList (s : State) : List (Nat × Row × Nat × Nat) :=
  rowTable.flatMap (fun r =>
    (List.range r.units).flatMap (fun i => if !storedUnit r i then [] else
      (List.range r.subs).filterMap (fun j => if unitExists s r i j then some (rowKey r i j, r, i, j) else none)))

/-- The stored entries in ascending order of index and then subindex (R478). -/
def storedKeys (s : State) : List (Nat × Row × Nat × Nat) := (storedList s).mergeSort (fun a b => a.1 ≤ b.1)

/-- A health entry as it is stored: STATE only when exempt, and the designation (R252; log entry 50). -/
def storedHealth (v : Nat) : Nat :=
  (if hState v = 6 then 6 * 2 ^ 45 else 0) + hSubCh v * 2 ^ 24 + hSubNozzle v * 2 ^ 10

/-- The bytes of a stored entry (R252, R478). -/
def storedBytes (s : State) (r : Row) (i j : Nat) : List Byte :=
  if r.k0 = E.healthMap.k0 then (List.range 12288).flatMap (fun n => toBytes 6 (storedHealth (s.health i n)))
  else if isDomain r then blockBytes s r i 0 (tyBytes r.ty)
  else valueBytes r (storedValue s r i j)

/-- The records of the image as the entries stand (R478). -/
def imageRecs (s : State) : List ParamRec :=
  (storedKeys s).map (fun x => ⟨x.1, storedBytes s x.2.1 x.2.2.1 x.2.2.2⟩)

/-- The bytes of a record, padded to a multiple of 4 (R479). -/
def recBytes (x : ParamRec) : List Byte :=
  toBytes 3 x.key ++ [0] ++ toBytes 4 x.data.length ++ x.data ++ List.replicate ((4 - x.data.length % 4) % 4) 0

/-- The payload of an image (R479). -/
def payload (l : List ParamRec) : List Byte := l.flatMap recBytes

/-- A slot's image when the slot is valid (R480). -/
def validSlot (x : Option Image) : Option Image := x.filter Image.payOk

/-- The newest valid slot's image, and whether it is slot B (R480). -/
def newestImage (s : State) : Option (Image × Bool) :=
  match validSlot s.store.slotA, validSlot s.store.slotB with
  | none, none => none
  | some a, none => some (a, false)
  | none, some b => some (b, true)
  | some a, some b => if a.seq < b.seq then some (b, true) else some (a, false)

/-! ### STORE -/

/-- The image that STORE writes, and whether to slot B: the slot that is not the newest valid one (R479, R481). With none
valid it is slot A (DEDUCED, log entry 49, safe). -/
def newImage (s : State) : Image × Bool :=
  let x := newestImage s
  let seq := match x with
    | none => 1
    | some (m, _) => (m.seq + 1) % 2 ^ 32
  ({ seq := seq, dieId := s.fuse 1, grade := s.grade, recs := imageRecs s }, match x with
    | none => false
    | some (_, b) => !b)

/-- A slot of the flash set. -/
def setSlot (s : State) (b : Bool) (x : Option Image) : State :=
  { s with store := if b then { s.store with slotB := x } else { s.store with slotA := x } }

/-- A STORE or RESTORE runs. -/
def storeBusy (s : State) : Bool := s.store.storing.isSome || s.store.restoring.isSome

/-- STORE begins: the slot is erased (R481). Flash that fails R476 leaves STORE_STATUS at 4 (log entry 49). -/
def storeAct (s : State) : Nat × State :=
  if storeBusy s then (codeBusy, s)
  else if !s.store.flashOk then (okCode, s.wr E.storeStatus 4)
  else
    let x := newImage s
    let s := setSlot s x.2 none
    (okCode, ({ s with store := { s.store with storing := some x } }.wr E.storeStatus 1).wr E.storeProgress 0)

/-- A write of STORE. -/
def storeCommand (arg : Nat) : State → Nat × State :=
  commandAct 0x10 arg (fun s => s.dev == .config || s.dev == .ready || s.dev == .halt) [0] storeAct

/-- STORE (R478 to R481). -/
def execStore (port : Port) (arg : Nat) (s : State) : Host.Outcome State Fault Refusal :=
  .next (writeIf s port (s.superseded noTarget) E.command 0 0 (commandWord 0x10 arg) (storeCommand arg))

/-- The STORE event, with the status that a STORE or RESTORE ends with (R470). -/
def storeEvent (s : State) (status : Nat) : State := maskedEvent (s.wr E.storeStatus status) 8 0x2000 8 status

/-- STORE_END: the header is programmed last, after the payload has passed its verify (R481); not in a brown-out. -/
def storeEndAct (verified : Bool) (s : State) : State :=
  match s.store.storing with
  | none => s
  | some (x, b) =>
    if brownout s then s
    else
      let s := { s with store := { s.store with storing := none } }
      if verified then storeEvent (((setSlot s b (some x)).wr E.imageSeq x.seq).wr E.storeProgress 100) 3
      else storeEvent s 5

/-- STORE_END (R481). -/
def execStoreEnd (verified : Bool) (s : State) : Host.Outcome State Fault Refusal := .next (storeEndAct verified s)

/-- CONFIG_CRC_UPDATE: CONFIG_CRC is the PAY_CRC of a STORE made now (R484). -/
def crcAct (s : State) : State :=
  { s.wr E.configCrc (crc32c (payload (imageRecs s))) with store := { s.store with crcStale := false } }

/-- CONFIG_CRC_UPDATE (R484). -/
def execConfigCrcUpdate (s : State) : Host.Outcome State Fault Refusal := .next (crcAct s)

/-! ### The beginning of RESTORE -/

/-- The value that DOM_REQ_d takes from an image, or its default, which is 0 for a domain that a fuse holds off (R482, R483,
R529); none when the image has no record of it, and for DOM_0 and DOM_5, which are not stored. -/
def domRecord (s : State) (m : Option Image) (d : Nat) : Option Nat :=
  if d = 0 ∨ d = 5 then none
  else match m with
  | none => some (if fusedOff s d then 0 else 1)
  | some m => (m.recs.find? (fun x => x.key == rowKey E.domReq d 0)).map (fun x => ofBytes x.data)

/-- A refused record is skipped and counted (R482). -/
def skipRecord (s : State) : State := s.count E.restoreSkips

/-- One DOM_REQ_d record is applied (R483 pass 1). -/
def applyDom (m : Option Image) (want : Nat) (s : State) (d : Nat) : State :=
  match domRecord s m d with
  | none => s
  | some v =>
    if v ≠ want then s
    else match writeCode s false E.domReq d 0 v (domReqAct d v) with
      | (code, t) => if code = okCode then t else skipRecord t

/-- Pass 1: the domains that the image leaves off power down, those that need others first; then the rest power up, those
that others need first, so that no record is refused for its order (R483). -/
def restoreDomains (m : Option Image) (s : State) : State :=
  downOrder.reverse.foldl (applyDom m 1) (downOrder.foldl (applyDom m 0) s)

/-- The image that a RESTORE applies, none for the defaults, and the outcome that it ends with (R482). With no valid slot
the defaults are applied, with outcome 8; a newer slot that is not valid makes the outcome 6; flash that fails R476 leaves
STORE_STATUS at 4 (log entry 49). -/
def restorePlan (s : State) (defaults : Bool) : Option Image × Nat :=
  let newer (m : Image) : Bool :=
    [s.store.slotA, s.store.slotB].any (fun x => x.any (fun y => !y.payOk && decide (m.seq < y.seq)))
  if defaults then (none, 3)
  else if !s.store.flashOk then (none, 4)
  else match newestImage s with
    | none => (none, 8)
    | some (m, _) => (some m, if newer m then 6 else 3)

/-- RESTORE begins: the device is in CONFIG, and the domains are switched (R457, R482, R483). -/
def restoreBegin (defaults : Bool) (s : State) : State :=
  let plan := restorePlan s defaults
  let s := { s with store := { s.store with restoring := some plan } }
  let s := (s.wr E.storeStatus 2).wr E.restoreSkips 0
  restoreDomains plan.1 s

/-- A write of RESTORE: argument 0 takes the flash, 1 the defaults (R467, R482). -/
def restoreCommand (arg : Nat) : State → Nat × State :=
  commandAct 0x11 arg (fun s => s.dev == .config || s.dev == .ready) [0, 1] (fun s =>
    if storeBusy s then (codeBusy, s) else (okCode, restoreBegin (arg == 1) (setDev s .config)))

/-- A RESTORE write on a port. -/
def restoreWrite (s : State) (port : Port) (arg : Nat) : State :=
  writeIf s port (s.superseded noTarget) E.command 0 0 (commandWord 0x11 arg) (restoreCommand arg)

/-- RESTORE (R482, R483). -/
def execRestore (port : Port) (s : State) : Host.Outcome State Fault Refusal := .next (restoreWrite s port 0)

/-- RESTORE_DEFAULTS (R482, R483). -/
def execRestoreDefaults (port : Port) (s : State) : Host.Outcome State Fault Refusal := .next (restoreWrite s port 1)

end Sys2Proof.Machine
end

