-- ==== Sys2Proof/Machine/Entries.lean ====
section
/-!
DEFINITION. A write of any entry as bytes: which behaviour an entry has of its own, the checks of R449 with the length, and
the write itself (R445 to R453).
-/
namespace Sys2Proof.Machine

/-! ### COMMAND -/

/-- A write of COMMAND (R467): the command by its code. A code that R467 does not list is out of range; in BOOT it is one of
the accesses that R451 excludes. -/
def commandWrite (v : Nat) (s : State) : Nat × State :=
  let arg := v % 2 ^ 40
  match v / 2 ^ 40 with
  | 0x01 => armCommand arg s
  | 0x02 => startCommand arg s
  | 0x03 => stopCommand arg s
  | 0x04 => abortCommand arg s
  | 0x05 => releaseCommand arg s
  | 0x10 => storeCommand arg s
  | 0x11 => restoreCommand arg s
  | 0x20 => shutdownCommand arg s
  | 0xF0 => resetCommand arg s
  | _ => (if s.dev = .boot then codeState else codeRange, s)

/-- A write of COMMAND is discarded under R39 or R40, by the precedence of its command (R467). -/
def commandDiscarded (s : State) (v : Nat) : Bool :=
  match v / 2 ^ 40 with
  | 0x01 | 0x02 => s.startSuperseded .job
  | 0x03 | 0x04 | 0x05 | 0x20 => s.superseded .job
  | 0xF0 => s.actedOn .device [.reset]
  | _ => s.superseded noTarget

/-! ### Entries with a behaviour of their own -/

/-- A HEATER_SET that R216 refuses beside an OT_THRESH: 2 K is 32 units of 1/16 degree. -/
def heaterTooHot (set thresh : Int) : Bool := set != 0 && decide (thresh - 32 ≤ set)

/-- A write of HEATER_SET_c: the cross-check of R216, then the target of the heater loop and its force condition (R215,
R275). -/
def heaterSetAct (lax : Bool) (c : Nat) (v : Int) (s : State) : Nat × State :=
  if !lax && heaterTooHot v (s.rd E.otThresh) then (codeRange, s)
  else (okCode, heaterForce ((s.wr E.heaterSet v c).wrHeld E.refTarget v (98 + c)) c)

/-- A write of OT_THRESH (R216). -/
def otThreshAct (lax : Bool) (v : Int) (s : State) : Nat × State :=
  if !lax && (List.range 96).any (fun c => heaterTooHot (s.rd E.heaterSet c) v) then (codeRange, s)
  else (okCode, s.wr E.otThresh v)

/-- A write of SCORE_FAIL or SCORE_GOOD (R240). -/
def scoreAct (lax : Bool) (r : Row) (e : Nat) (v : Int) (s : State) : Nat × State :=
  let t := s.wr r v e
  if !lax && decide (t.rd E.scoreGood e < t.rd E.scoreFail e) then (codeRange, s) else (okCode, t)

/-- A write of OUT_MIN or OUT_MAX (R293), without its cross-check when `lax` (R483). -/
def outLimitAct (lax : Bool) (r : Row) (l : Nat) (v : Int) (s : State) : Nat × State :=
  if lax then (okCode, s.wrHeld r v l) else limitWriteAct r l v s

/-- A write of GAIN_MIN, GAIN_MAX or V_OUT_LSB, which the limits of the drive-amplitude loops follow; swings and targets wait
for the next waveform commit (R202, R217, R274). -/
def ampEntryAct (r : Row) (v : Int) (s : State) : Nat × State := (okCode, allAmpLimits (s.wr r v))

/-- A write of OTP_OP: whether the VPP pin is supplied is open to a dictionary access (log entry 45). -/
def otpOpAct (op : Nat) (port : Option Port) (s : State) : Nat × State :=
  let (x, s) := s.draw
  otpAct op (x % 2 == 1) port s

/-- A write of a HANDOVER entry of loop 0 is one of the position unit's (0x2160.02, .03). -/
def handoverEntryAct (r : Row) (l : Nat) (v : Int) (s : State) : Nat × State :=
  let h := homeRow r l
  if v < h.lo ∨ h.hi < v then (codeRange, s) else (okCode, s.wr h v l)

/-- The scalar entries whose write has a behaviour of its own, by the first key of their row. -/
def entryActs (r : Row) (i : Nat) (v : Int) (port : Option Port) (lax : Bool) : List (Nat × (State → Nat × State)) :=
  let n := v.toNat
  let free : State → Nat × State := fun s => (okCode, s)
  [(E.command.k0, commandWrite n),
    (E.changeover.k0, changeoverAct), (E.srcPrimary.k0, srcPrimaryAct n), (E.srcSecondary.k0, srcSecondaryAct n),
    (E.encMode.k0, encConfigAct i .mode n), (E.encDir.k0, encConfigAct i .dir n),
    (E.encFilter.k0, encConfigAct i .filter n), (E.ringPosNode.k0, ringPosNodeAct n),
    (E.speedLimFreq.k0, speedLimFreqAct n), (E.tableCommit.k0, tableCommitAct i n), (E.takeover.k0, takeoverAct i),
    (E.ampScale.k0, fun s => (okCode, ampSettings (s.wr E.ampScale v i) i)), (E.gainMin.k0, ampEntryAct r v),
    (E.gainMax.k0, ampEntryAct r v), (E.vOutLsb.k0, ampEntryAct r v), (E.heaterSet.k0, heaterSetAct lax i v),
    (E.otThresh.k0, otThreshAct lax v), (E.scoreFail.k0, scoreAct lax r i v), (E.scoreGood.k0, scoreAct lax r i v),
    (E.healthEn.k0, healthEnAct i n), (E.probeLearn.k0, if n = 1 then learnStartAct i else learnCancelAct i),
    (E.logEn.k0, logEnAct n), (E.loopEn.k0, loopEnAct i n), (E.loopCmd.k0, loopCmdAct i n),
    (E.firstA.k0, chainWriteAct r i n), (E.lenA.k0, chainWriteAct r i n), (E.firstB.k0, chainWriteAct r i n),
    (E.lenB.k0, chainWriteAct r i n), (E.srcA.k0, sourceWriteAct r i n), (E.srcB.k0, sourceWriteAct r i n),
    (E.sink.k0, sourceWriteAct r i n), (E.outMin.k0, outLimitAct lax r i v), (E.outMax.k0, outLimitAct lax r i v),
    (E.loopHandoverTol.k0, handoverEntryAct r i v), (E.loopHandoverSlew.k0, handoverEntryAct r i v),
    (E.mapOp.k0, mapAct n),
    (E.start.k0, if n = 1 then dmaStartAct i else free), (E.abort.k0, if n = 1 then dmaAbortAct i else free),
    (E.pause.k0, if n = 1 then dmaPauseAct i else dmaUnpauseAct i), (E.dmaDone.k0, doneClearAct n),
    (E.rbWr.k0, rbWrAct i n), (E.rbBase.k0, geometryAct i .base n), (E.rbLines.k0, geometryAct i .lines n),
    (E.rbStride.k0, geometryAct i .stride n), (E.portEn.k0, portEnAct i n), (E.rsEn.k0, rsEnAct i n),
    (E.sticky.k0, stickyClearAct i), (E.clearAll.k0, clearAllAct), (E.lostInReaction.k0, lostClearAct),
    (E.domReq.k0, domReqAct i n), (E.otpOp.k0, otpOpAct n port), (E.calCmd.k0, calCmdAct n),
    (E.prbsSel.k0, prbsSelAct n), (E.prbsLink.k0, prbsLinkAct n),
    (E.ringAddr.k0, countedAct r i n port), (E.headVCeil.k0, countedAct r i n port),
    (E.personaDefault.k0, countedAct r i n port), (E.chDisable.k0, countedAct r i n port)]

/-- Entries whose new value is in force from the next TICK on: BACKLASH_WIN (R109), the governor's limits (R224), the targets,
rates, clamps and slews of a loop (R288), the classes of fault kinds (R496). -/
def heldRows : List Nat :=
  [E.backlashWin.k0, E.girthQuota.k0, E.speedMax.k0, E.speedFloor.k0, E.decelLim.k0, E.accelLim.k0, E.refTarget.k0,
    E.refRateUp.k0, E.refRateDown.k0, E.outMin.k0, E.outMax.k0, E.slewUp.k0, E.slewDown.k0, E.faultClass.k0]

/-- The write of a scalar entry that has passed the checks of R449; `lax` leaves out the cross-checks of R483. -/
def scalarAct (r : Row) (i j : Nat) (v : Int) (port : Option Port) (lax : Bool) (s : State) : Nat × State :=
  match (entryActs r i v port lax).find? (fun x => x.1 == r.k0) with
  | some x => x.2 s
  | none =>
    match tableRow r with
    | some (t, _) => shadowWrite s i t j [BitVec.ofNat 8 v.toNat] port
    | none => (okCode, if heldRows.contains r.k0 then s.wrHeld r v i j else s.wr r v i j)

/-! ### Blocks of bytes -/

/-- The write of bytes into a block of bytes, within its end. -/
def bytesAct (r : Row) (i ofs : Nat) (data : List Byte) (port : Option Port) (s : State) : Nat × State :=
  match tableRow r with
  | some (t, _) => shadowWrite s i t ofs data port
  | none =>
    if r.k0 = E.healthMap.k0 then healthMapAct i ofs data s
    else if r.k0 = E.template0.k0 then templateAct i 0 ofs data s
    else if r.k0 = E.template1.k0 then templateAct i 1 ofs data s
    else if r.k0 = E.linkBuf.k0 ∧ s.domState 11 = 3 then (codePowered, s)
    else match blockAt r i with
      | some a => (okCode, s.setBytes (a + ofs) data)
      | none => (codeWriteRo, s)

/-! ### The write of an entry -/

/-- The unit that R39 looks at for an entry: an engine, a loop, a DMA channel, an intake port, a ring's lane, or none of those
that a fence acts on. -/
def targetOf (r : Row) (i : Nat) : Target :=
  let x := r.k0 / 256
  if 0x3000 ≤ x ∧ x < 0x4400 then .engine i
  else if x = 0x2210 then .loop i
  else if x = 0x6800 then .dma i
  else if x = 0xA000 then .intake i
  else if x = 0xA100 then .lane i
  else noTarget

/-- A write is discarded under R39 or R40. -/
def writeDiscarded (s : State) (r : Row) (i : Nat) (v : Int) : Bool :=
  if r.k0 = E.command.k0 then commandDiscarded s v.toNat
  else if r.k0 = E.start.k0 ∧ v = 1 then s.startSuperseded (.dma i)
  else if r.k0 = E.pause.k0 ∧ v = 1 then s.pauseSuperseded (.dma i)
  else s.superseded (targetOf r i)

/-- The bytes of a write to a type other than STR or DOMAIN are not those of its type (R447). -/
def lengthBad (r : Row) (data : List Byte) : Bool := !isDomain r && data.length != tyBytes r.ty

/-- The code of a write of the wrong length that nothing before the length check refuses (R447, R449). In BOOT a write of
COMMAND that is no RESET is excluded by R451 first. -/
def lengthCode (s : State) (r : Row) (i j : Nat) : Nat :=
  match checkEntry s r i j with
  | some code => code
  | none => if s.dev == .boot && r.k0 == E.command.k0 then codeState else codeLength

/-- A write of bytes, most significant byte first, into an entry (R447, R449, R453). -/
def entryWrite (r : Row) (i j ofs : Nat) (data : List Byte) (port : Option Port) (lax : Bool) (s : State) :
    Nat × State :=
  let v := if isDomain r then r.lo else bytesValue r data
  if sectionSub r ≠ 0 then sectionCode s i (sectionSub r) ofs data
  else if writeDiscarded s r i v then (discardCode s, s)
  else if lengthBad r data then (lengthCode s r i j, s)
  else writeCode s false r i j v
    (if isDomain r then blockAct r i ofs data (bytesAct r i ofs data port) else scalarAct r i j v port lax)

/-- A word or stored waveform of a persona that a key of its view names (R594): persona, and word or, from 64 on, channel. -/
def personaKey (key : Nat) : Option (Nat × Nat) :=
  let x := key / 256 - 0xC000
  if 0xC00000 ≤ key ∧ key < 0xC30000 ∧ key % 256 = 0 ∧ x % 256 < 0x60 then some (x / 256, x % 256) else none

/-- A view exists: the S96 runs in the persona, and the persona is instantiated (R594). -/
def viewExists (s : State) (p : Nat) : Bool := s.finup && (s.persona p).on

/-- A write of a persona's view (R594): a word as an LHP write, or bytes of a stored waveform. -/
def viewWrite (p w ofs : Nat) (data : List Byte) (s : State) : Nat × State :=
  if !viewExists s p then (codeNoObject, s)
  else if s.superseded noTarget then (discardCode s, s)
  else if w < 0x40 then
    if wordFixed w && decide (w < 0x18) then (codeWriteRo, s)
    else if s.dev == .boot then (codeState, s)
    else if data.length ≠ 2 then (codeLength, s)
    else (okCode, wordWrite s p w (ofBytes data))
  else if s.dev == .boot then (codeState, s)
  else if 512 < ofs + data.length then (codeRange, s)
  else
    let a := personaWave p (w - 0x40)
    let s := s.setBytes (a + ofs) data
    -- Only bits [9:0] of a sample exist.
    let s := (List.range 256).foldl (fun s n => s.setBytes (a + 2 * n) [s.byte (a + 2 * n) &&& 3]) s
    (okCode, if ofs + data.length = 512 ∧ data ≠ [] then buildReplay p s (w - 0x40) else s)

/-- A write of bytes into the entry that a key names; an entry that no table lists does not exist (R442, R449). -/
def dictWrite (key ofs : Nat) (data : List Byte) (port : Option Port) (s : State) : Nat × State :=
  match personaKey key with
  | some (p, w) => viewWrite p w ofs data s
  | none =>
    match rowOf key with
    | some (r, i, j) => entryWrite r i j ofs data port false s
    | none => (codeNoObject, s)

end Sys2Proof.Machine
end

