-- ==== Sys2Proof/Machine/Flags.lean ====
section
/-!
DEFINITION. What is computed when it is read: the flags of R22 and R489, the status words of each chapter, the counts that
follow other state, and SUMMARY (R485, R486).
-/
namespace Sys2Proof.Machine

/-! ### Small helpers -/

/-- The sum of conditions as bits of a word: the condition and the bit that it sets. -/
def flags (l : List (Bool × Nat)) : Nat := (l.map (fun x => flag x.1 x.2)).sum

/-- A value between two whole numbers is shown as one of them, which the spec leaves open (log entry 7). -/
def shown (s : State) (x : Rat) : Nat :=
  (if x = (x.floor : Rat) then x.floor else x.floor + if Config.roundUp s.fresh then 1 else 0).toNat

/-- A time in ns: its whole part where less than half a ns is left, as the default of HL_SER_TIME shows (R176); otherwise
open (log entry 7). -/
def nsShown (s : State) (x : Rat) : Nat := if x - x.floor < 1 / 2 then x.floor.toNat else shown s x

/-- A bitmap in bytes, bit 0 in the last one (R486). -/
def bitmap (n : Nat) (p : Nat → Bool) : List Byte :=
  toBytes n (flags ((List.range (8 * n)).map (fun k => (p k, k))))

/-! ### DEV_FLAGS -/

/-- A channel is served by no engine because its engine is fenced (R22, R52, R551). -/
def unservedCh (s : State) (c : Nat) : Bool :=
  (s.chan c).unserved && (serving s c).isNone && s.chPresent c && s.rd E.engEnable c == 1 && s.rd E.chDisable c == 0

/-- A channel that a fence has left unserved keeps DEGRADED set until the next reset (R22). -/
def keepLeftOut (s : State) : State := { s with leftOut := s.leftOut || (List.range 96).any (unservedCh s) }

/-- DEGRADED (R22). -/
def degraded (s : State) : Bool := anySticky s (· == 1) || s.leftOut || (List.range 96).any (unservedCh s)

/-- Bits [15:10] of DEV_FLAGS: the flags of R22 (R489). -/
def flagsHigh (s : State) : Nat :=
  flags [(degraded s, 15), (s.gov.girthOver, 14), (brownout s, 13), (overspeed s, 12), (s.obs.reverse, 11),
    (s.rd E.lostInReaction == 1, 10)]

/-- DEV_FLAGS (R489). -/
def devFlags (s : State) : Nat :=
  flagsHigh s + flags [(frozen s, 9), (s.store.crcStale, 8), (storeBusy s, 7), (s.ring.join == 2, 6)]

/-! ### Position -/

/-- POS_STATUS (R108). -/
def posStatus (s : State) : Nat :=
  let k := s.obs.active
  flags ((List.range 4).map (fun n => (encValid s n, 12 + n))) +
    flags [(ringPosValid s, 11), (k == 6, 10), (s.rd E.hofs 0 != 0, 9), (s.obs.reverse, 8), (overspeed s, 7),
      (stopped s, 6), (s.obs.held, 5)] +
    8 * (if k < 4 then 0 else if k = 4 then 1 else if k = 6 then 2 else 3)

/-! ### Engines and channels -/

/-- ENG_STATE of an engine that serves a channel (R176). -/
def servingState (s : State) (c : Nat) : Nat :=
  if !enabledCh s c then 2 else if s.dev = .armed then 3 else if s.dev = .printing then 4 else 2

/-- ENG_STATE (R176). -/
def engState (s : State) (e : Nat) : Nat :=
  let x := s.eng e
  if !s.engPresent e || (decide (e < 96) && !s.chPresent e) then 0
  else if 96 ≤ e ∧ (x.unavailable || x.failedBist) = true then 8
  else if x.fenced || x.failedBist then 5
  else if 96 ≤ e then
    if x.copying.isSome then 7
    else match channelOf s e with
      | none => 6
      | some c => servingState s c
  else if s.rd E.engEnable e = 0 ∨ s.rd E.chDisable e = 1 then 1
  else match channelOf s e with
    | none => 2
    | some c => servingState s c

/-- Codes of a shadow state (R177). -/
def shCode : ShState → Nat
  | .clean => 0
  | .dirty => 1
  | .syncing => 2
  | .folding => 3

/-- TABLE_STATUS (R177). -/
def tableStatus (s : State) (e : Nat) : Nat :=
  let x := s.eng e
  flag x.foldPending 15 + flag x.pendWave 14 + shCode x.wave * 4096 + flag x.pendTile 11 + shCode x.tile * 512 +
    flag x.pendShape 8 + shCode x.shape * 64 + flag x.pendStitch 5 + shCode x.stitch * 8

/-- Every lane's reported offset is within one tap (R178). -/
def trainDone (s : State) (c : Nat) : Bool :=
  (s.chan c).bridgeUp && (s.chan c).offsets.length == 4 &&
    (List.range 4).all (fun l => decide ((laneSkew s c l).natAbs ≤ s.rdN E.tapPs))

/-- HL_STATUS of a channel (R178). -/
def hlStatus (s : State) (e : Nat) : Nat :=
  let c := (channelOf s e).getD 96
  let x := s.chan c
  (x.lanes % 16) * 4096 + flag x.bridgeUp 11 + flag (trainDone s c) 10 + flag (!serialising s c) 9 +
    flag (s.rd E.hlMode e == 1) 8 + x.discards % 256

/-- LB_READY: lines ahead of the build that are present in the line buffer. -/
def lbReady (s : State) (e : Nat) : Nat :=
  match channelOf s e with
  | none => 0
  | some c =>
    let at_ := nextBuild s c
    ((s.chan c).slots.filter (fun l => decide (at_.1 * pageLinesOf s c + at_.2 ≤ l.job))).length

/-- DRIVE_STATUS_c (R230): 0 while the channel's units are off, as at reset. -/
def driveStatus (s : State) (c : Nat) : Nat :=
  let x := s.chan c
  let gain := s.rd E.gain c
  if !s.domOn (engDom c) then 0 else flags [(x.rxUp, 15), (x.supplyOk, 14), (x.ampOt, 13), (x.ampFault, 12), (x.ceilHit, 11),
    (gain == s.rd E.gainMin || gain == s.rd E.gainMax, 10), (x.strLimit, 9), (!heaterOff s c, 8),
    (!(s.loop (98 + c)).chainB, 7), (s.rd E.tempSrc c != 0, 6), (s.rd E.paused c == 1, 5), (!x.calDone, 4)]

/-- HEALTH_STATUS (R257): 0 while the engine is off, as at reset. -/
def healthStatus (s : State) (e : Nat) : Nat :=
  let x := s.eng e
  let own : List (Bool × Nat) := [(x.learn.isSome, 14), (!(awaiting s e).isEmpty, 10), (!(unresolved s e).isEmpty, 9), (x.corrStop, 8)]
  if !s.domOn (engDom e) then 0
  else match channelOf s e with
  | none => flags own
  | some c =>
    let y := s.chan c
    let on := (s.rd E.healthEn e == 1 || x.learn.isSome) && s.dev == .printing
    flags (own ++ [(on && !probeSuppressed s c e, 15), (probeShort s e, 13), (!rateInBand s c e, 12), (!y.rxUp, 11),
      (!y.calDone, 7)])

/-- LOOP_STATUS (R294). -/
def loopStatus (s : State) (l : Nat) : Nat :=
  let x := s.loop l
  flags [(s.rd E.loopEn l == 1, 15), (x.chainB, 14), (x.heldLast, 13), ((forceValue s l).isSome, 12),
    (s.rd E.hofs l != 0, 11), (x.clamped, 10), (x.slewed, 9), (s.rd E.refNow l != s.rd E.refTarget l, 8),
    (x.saturated, 7), (x.pend || (l == 0 && (s.obs.change.isSome || s.obs.primary.isSome)), 6)]

/-! ### Memory, DMA and intake -/

/-- The ranks of the memory system in a state (R341). -/
def ranksIn (s : State) (p : Nat → Bool) : List Nat := (List.range 10).filter (fun r => p (s.rank r).st)

/-- Rank retirements that the Tally holds. -/
def tallyRanks (s : State) : Nat := (retirements s).length

/-- MEM_STATUS (R342). -/
def memStatus (s : State) : Nat :=
  flags [(s.memory.initDone, 15), (!s.memory.queue.isEmpty, 14),
      ((List.range 10).any (rankExhausted s) && (ranksIn s (· == 6)).isEmpty, 11),
      (!(ranksIn s (fun k => k == 2 || k == 3 || k == 4)).isEmpty, 10), (s.memory.map.any (fun x => bit x.2 44), 9),
      ((List.range 10).any (fun r => rankInUse s r && (s.rank r).hot), 8), (tallyRanks s == 8, 7), (s.domOn 5, 6)] +
    4096 * min 3 (ranksIn s (· == 6)).length

/-- REFRESH_RATE of a DRAM channel: the greatest field of its ranks in use (0x6010 + ch.09). -/
def refreshRate (s : State) (ch : Nat) : Nat :=
  ([2 * ch, 2 * ch + 1].filterMap (fun r => if rankInUse s r then (s.rank r).mr4 else none)).foldl max 0

/-- Codes of a DMA channel's STATE (R348). -/
def dmaCode : DmaState → Nat
  | .idle => 0
  | .pending => 1
  | .running => 2
  | .pausing => 3
  | .paused => 4
  | .stopped => 5
  | .aborting => 6

/-- STAT (R348). -/
def dmaStat (s : State) (n : Nat) : Nat :=
  let x := s.dma n
  dmaCode x.st * 8192 + (x.result % 16) * 512 + (x.side % 4) * 128 + flag x.commitReq 6

/-- DMA_RUNNING (0x69F0.01). -/
def dmaRunning (s : State) : Nat := ((List.range 16).find? (fun n => holdsEngine (s.dma n))).getD 0xFF

/-- PORT_STATUS (R397). -/
def portStatus (s : State) (p : Nat) : Nat :=
  let x := s.port p
  let mode := if s.rd E.portEn p = 0 then 2 else if s.finup then 1 else 0
  flag x.linkUp 15 + mode * 8192 + flag x.anDone 12 + flag (unitInReset s (0xA0 + p)) 11

/-! ### Ring -/

/-- Two roots are on the ring: this one, and one whose SYNC it received within the last SYNC_TIMEOUT (R433; DEDUCED, log
entry 65). -/
def twoRoots (s : State) : Bool :=
  s.ring.root && s.ring.otherRoot.any (fun t => decide (s.tick < t + s.rdN E.syncTimeout * 25))

/-- RING_STATUS (R444). -/
def ringStatus (s : State) : Nat :=
  let k := s.rdN E.rtState
  s.ring.join % 4 * 16384 +
    flags [((s.lane 0).inUp, 13), ((s.lane 0).outOk, 12), ((s.lane 1).inUp, 11), ((s.lane 1).outOk, 10),
      (s.ring.wrapUp, 9), (s.ring.wrapDown, 8), (s.ring.root, 7), (k == 2 || k == 4, 6), (k == 3, 5),
      (s.ring.addrConflict, 4), (twoRoots s, 3)]

/-! ### Fuses -/

/-- OTP_STATUS (R486). -/
def otpStatus (s : State) : Nat :=
  let o := s.otp
  flags [(o.sensed, 15), (o.mismatch, 14), (weakCount s != 0, 13), (o.integrity, 12), (o.unsealedRead, 11),
    (!o.queue.isEmpty, 10)]

/-- Bits of a mask that are 1. -/
def onesIn (n mask : Nat) : Nat := ((List.range n).filter (bit mask)).length

/-- WORD_STATUS (R566). -/
def wordStatus (s : State) (w : Nat) : Nat :=
  let x := fuseShadow s w
  flags [(x.sealed, 7), (unsealed w x, 6), (x.weak, 5), (x.corrected, 4), (x.uncorr, 3), (lockedWord s w, 2),
    (bitwise w, 1), (blank x, 0)]

/-- ORDER_CODE: the ASCII bytes of words 3 to 5 without the zeros behind (0x1020.01). -/
def orderCode (s : State) : List Byte :=
  (toBytes 6 (s.fuse 3) ++ toBytes 6 (s.fuse 4) ++ toBytes 6 (s.fuse 5)).filter (fun b => b != 0)

/-! ### Diagnostics -/

/-- The level of SPEED_LIM: high in the first part of a period (R105); low at once in the cases of R106. -/
def speedLimLevel (s : State) : Bool :=
  match s.gov.pwm with
  | none => false
  | some (from_, _, high) => !speedLimLow s && decide ((s.time + 2 ^ 48 - from_) % 2 ^ 48 < high)

/-- PIN_IN (R611). The straps are sampled once; what their balls carry later is open (log entry 20). -/
def pinIn (s : State) : Nat :=
  let free := (Config.freeValue s.fresh).toNat
  flags ((List.range 4).flatMap (fun n => [((s.enc n).a, 24 + 2 * n), ((s.enc n).b, 25 + 2 * n)])) +
    flags ((List.range 8).map (fun n => ((s.trig n).level, 16 + n))) +
    (free % 64) * 1024 + flag s.alive 9 + flag (speedLimLevel s) 8

/-! ### Values that are computed when they are read -/

/-- A condition as a value. -/
def boolVal (b : Bool) : Int := if b then 1 else 0

/-- The scalar entries that are computed when they are read, by the first key of their row. -/
def liveListA (s : State) (i : Nat) : List (Nat × Int) :=
  [(E.srcActive.k0, s.obs.active), (E.timeNow.k0, s.time), (E.posStatus.k0, posStatus s),
    (E.engState.k0, engState s i), (E.lbReady.k0, lbReady s i), (E.tableStatus.k0, tableStatus s i),
    (E.hlStatus.k0, hlStatus s i), (E.hlSerTime.k0, nsShown s (lineSteps s i * 5 / 32 : Rat)),
    (E.driveStatus.k0, driveStatus s i),
    (E.weakNow.k0, (nozzlesWith s i (fun b => b / 32 == 2)).length), (E.healthStatus.k0, healthStatus s i),
    (E.latheLoad.k0, shown s (latheLoad s / 1000)), (E.loopStatus.k0, loopStatus s i),
    (E.memStatus.k0, memStatus s), (E.mappedPages.k0, pagesIn s (fun k => k == 1 || k == 2)),
    (E.retiredPages.k0, pagesIn s (· == 3)), (E.rankState0.k0, (s.rank (2 * i)).st),
    (E.rankState1.k0, (s.rank (2 * i + 1)).st), (E.power0.k0, (s.rank (2 * i)).power),
    (E.power1.k0, (s.rank (2 * i + 1)).power), (E.refreshRate.k0, refreshRate s i)]

/-- The rest of them. -/
def liveListB (s : State) (i : Nat) : List (Nat × Int) :=
  [(E.sramStatus.k0, if s.domState 11 = 2 then 2 else if s.domState 11 = 3 then 1 else 0),
    (E.stat.k0, dmaStat s i), (E.rbTail.k0, rbTail s i), (E.rbFree.k0, rbFree s i),
    (E.rbReaders.k0, (readersOf s i).length), (E.dmaRunning.k0, dmaRunning s),
    (E.dmaPending.k0, flags ((List.range 16).map (fun n => ((s.dma n).st == .pending, n)))),
    (E.portStatus.k0, portStatus s i), (E.ringRoot.k0, boolVal s.straps.ringRoot),
    (E.ringNonce.k0, (s.fuse 1 % 2 ^ 32 : Nat)), (E.canStatus.k0, s.can.status), (E.ringStatus.k0, ringStatus s),
    (E.rtimeNow.k0, if ringTimeValid s then ringTimeNow s else (Config.freeValue s.fresh).toNat),
    (E.reqQueue.k0, s.ring.queue.length), (E.serial.k0, (s.fuse 1 % 2 ^ 32 : Nat)), (E.grade.k0, s.grade),
    (E.dieId.k0, s.fuse 1),
    (E.straps.k0, flags [(s.straps.compatEn, 0), (s.straps.ringRoot, 1)] + 16 * s.straps.bootSrc.val),
    (E.devState.k0, devCode s.dev), (E.devFlags.k0, devFlags s), (E.aliveState.k0, aliveState s),
    (E.supState.k0, if !monitorOn s i then 0 else if s.sup.low.contains i then 2 else 1),
    (E.domState.k0, if s.domState i = 0 ∧ fusedOff s i = true then 5 else s.domState i),
    (E.domWaiting.k0, flags ((List.range 12).map (fun d => (domWaiting s d, d)))), (E.otpStatus.k0, otpStatus s),
    (E.reinfQueue.k0, ((s.otp.queue.map (fun x => onesIn 56 x.2)).sum : Nat)), (E.weakCount.k0, weakCount s),
    (E.wires.k0, s.otp.wires), (E.wiresShadow.k0, shadowWires s), (E.tallyTrips.k0, tripCount s),
    (E.tallyRanks.k0, tallyRanks s), (E.pinIn.k0, pinIn s)]

/-- The value of a scalar entry as it reads. -/
def liveValue (s : State) (r : Row) (i j : Nat) : Int :=
  match (liveListA s i ++ liveListB s i).find? (fun x => x.1 == r.k0) with
  | some x => x.2
  | none => storedValue s r i j

/-! ### SUMMARY and the other blocks that are computed -/

/-- SUMMARY bytes 0 to 143 (R486). -/
def summaryHead (s : State) : List Byte :=
  toBytes 1 1 ++ toBytes 1 (devCode s.dev) ++ toBytes 2 (devFlags s) ++ toBytes 6 (s.rdN E.eventSeq) ++ toBytes 6 s.time ++
    toBytes 6 (if ringTimeValid s then ringTimeNow s else 0) ++ toBytes 1 (s.rdN E.rtState) ++
    toBytes 1 (s.rdN E.resetCause) ++ toBytes 4 (s.rdN E.configCrc) ++ toBytes 2 (s.rdN E.ringAddrNow) ++
    toBytes 1 (s.rdN E.persona) ++ toBytes 1 s.grade ++ toBytes 6 (s.fuse 1) ++ toBytes 1 0x42 ++
    toBytes 1 (s.rdN E.armCheck) ++ toBytes 4 (s.rdN E.jobId) ++ toBytes 4 (s.rdN E.jobPage) ++ List.replicate 16 0 ++
    bitmap 32 (stickySet s) ++ toBytes 6 (s.rdN E.posEst) ++ toBytes 6 (unsigned 48 (s.rd E.velEst)) ++
    toBytes 6 (s.rdN E.sampleTime) ++ toBytes 6 (s.rdN E.hwm) ++ toBytes 4 (s.rdN E.speedReq) ++
    toBytes 2 (posStatus s) ++ toBytes 1 s.obs.active ++ toBytes 1 (s.rdN E.limiter) ++
    toBytes 6 (s.rdN E.skippedTotal) ++ List.replicate 10 0

/-- SUMMARY bytes 144 to 1,019 (R486). -/
def summaryTail (s : State) : List Byte :=
  (List.range 100).flatMap (fun e => toBytes 1 (engState s e)) ++
    (List.range 4).flatMap (fun g => toBytes 1 (s.rdN E.channel (96 + g))) ++
    bitmap 12 (fun c => s.rd E.paused c == 1) ++ bitmap 12 (fun c => unservedCh s c && s.domOn (engDom c)) ++
    List.replicate 16 0 ++ (List.range 16).flatMap (fun n => toBytes 2 (dmaStat s n)) ++ toBytes 2 (s.rdN E.dmaDone) ++
    toBytes 1 (dmaRunning s) ++ [0] ++ toBytes 2 (memStatus s) ++
    (List.range 10).flatMap (fun r => toBytes 1 (s.rank r).st) ++
    toBytes 2 (pagesIn s (fun k => k == 1 || k == 2)) ++ toBytes 2 (pagesIn s (· == 3)) ++ toBytes 1 (s.rdN E.migRank) ++
    [0] ++ toBytes 2 (s.rdN E.migPagesDone) ++ toBytes 2 (otpStatus s) ++ toBytes 1 (tripCount s) ++
    toBytes 1 (tallyRanks s) ++ toBytes 1 ((List.range 2).filter (fun k => bit (tallyWord s (464 + k)) 4)).length ++
    toBytes 1 ((List.range 4).filter (fun g => (spareRecord s g).isSome)).length ++ toBytes 1 (s.rdN E.ringAddrLeft) ++
    toBytes 1 (s.rdN E.headVCeilLeft) ++ toBytes 1 (s.rdN E.personaLeft) ++ List.replicate 3 0 ++
    bitmap 12 (fun c => s.rd E.chDisable c == 1) ++ List.replicate 652 0

/-- SUMMARY (R486): its 1,024 bytes with their CRC. -/
def summaryBytes (s : State) : List Byte :=
  let l := summaryHead s ++ summaryTail s
  l ++ toBytes 4 (crc32c l)

/-- A record of EVENT_LOG (R471). -/
def eventRecord (r : EventRec) : List Byte := toBytes 6 r.seq ++ eventPayload r ++ [0, 0]

/-- TALLY_RECORDS (0x8010.03). -/
def tallyRecordBytes (s : State) : List Byte := (List.range 14).flatMap (fun k => toBytes 1 (tallyWord s (456 + k)))

/-- The blocks and strings that are computed when they are read. -/
def liveBlock (s : State) (r : Row) : Option (List Byte) :=
  if r.k0 = E.deviceName.k0 then some (ascii [83, 101, 114, 101, 110, 100, 32, 57, 54])
  else if r.k0 = E.siliconRev.k0 then some (ascii [66])
  else if r.k0 = E.orderCode.k0 then some (orderCode s)
  else if r.k0 = E.chPresent.k0 then some (bitmap 12 s.chPresent)
  else if r.k0 = E.eventLog.k0 then
    some (s.events.flatMap eventRecord ++ List.replicate (1536 - 24 * s.events.length) 0)
  else if r.k0 = E.stickyMap.k0 then some (bitmap 32 (stickySet s))
  else if r.k0 = E.tallyRecords.k0 then some (tallyRecordBytes s)
  else if r.k0 = E.summary.k0 then some (summaryBytes s)
  else none

end Sys2Proof.Machine
end

