-- ==== Sys2Proof/Machine/Access.lean ====
section
/-!
DEFINITION. Reads of the dictionary, and the accesses of the local host port, of SUMMARY and of a plain entry (R445 to R456,
R485). The ring and CAN FD stand in Ring.lean and Can.lean.
-/
namespace Sys2Proof.Machine

/-! ### Reads -/

/-- The index ranges of the index map: first and last index. -/
def indexRanges : List (Nat × Nat) :=
  [(0x1000, 0x11FF), (0x1F00, 0x1F00), (0x1F80, 0x1F80), (0x2000, 0x23FF), (0x3000, 0x3C7F), (0x4000, 0x4063),
    (0x4100, 0x4163), (0x4200, 0x4263), (0x4300, 0x4363), (0x5000, 0x57FF), (0x6000, 0x61FF), (0x6800, 0x69FF),
    (0x7000, 0x73FF), (0x8000, 0x80FF), (0x8200, 0x83FF), (0x9000, 0x90FF), (0xA000, 0xA1FF), (0xC000, 0xC2FF),
    (0xF000, 0xF0FF)]

/-- An index lies in the index map. -/
def indexExists (x : Nat) : Bool := indexRanges.any (fun r => decide (r.1 ≤ x ∧ x ≤ r.2))

/-- Bytes from an offset of a block: those up to its end, and none at or beyond the end (R453). -/
def partOf (l : List Byte) (ofs n : Nat) : Nat × List Byte :=
  if l.length ≤ ofs then (codeRange, []) else (okCode, (l.drop ofs).take n)

/-- The bytes of the page map as they read: an entry whose code is uncorrectable reads as retired (R307, R310). -/
def pageMapPart (s : State) (ofs n : Nat) : List Byte :=
  (List.range n).map (fun k =>
    (toBytes 6 (entryRead s ((ofs + k) / 6))).getD ((ofs + k) % 6) 0)

/-- The bytes of a DOMAIN or STR entry from an offset (R453). -/
def readBlock (s : State) (r : Row) (i ofs n : Nat) : Nat × List Byte :=
  match liveBlock s r with
  | some l => partOf l ofs n
  | none =>
    if tyBytes r.ty ≤ ofs then (codeRange, [])
    else
      let n := min n (tyBytes r.ty - ofs)
      (okCode, if r.k0 = E.pageMap.k0 then pageMapPart s ofs n else blockBytes s r i ofs n)

/-- The bytes of a shadow entry of a fuse word (R566); none for another key. -/
def shadowEntry (s : State) (key : Nat) : Option (List Byte) :=
  let w := key / 256 - 0x8200
  if key < 0x820000 ∨ 0x840000 ≤ key then none
  else match key % 256 with
    | 1 => some (toBytes 6 (fuseShadow s w).data)
    | 2 => some (toBytes 1 (wordStatus s w))
    | 3 => some (toBytes 6 (fuseShadow s w).raw)
    | _ => none

/-- The state check of a read (R449, R451). -/
def bootHides (s : State) (key : Nat) : Bool := s.dev == .boot && !servedInBoot key

/-- What an entry that no table lists, or of an absent unit, reads as: 0 in the bytes given (R7, R442; log entry 51). -/
def readZero (s : State) (key n : Nat) : Nat × List Byte :=
  if bootHides s key then (codeState, []) else (okCode, List.replicate n 0)

/-- A read of a listed entry: existence, power, access code, device state (R449). An entry of an absent unit reads 0 (R7). -/
def readRow (s : State) (key : Nat) (r : Row) (i j ofs n : Nat) : Nat × List Byte :=
  if !unitExists s r i j then readZero s key (if isDomain r then min n (tyBytes r.ty - ofs) else tyBytes r.ty)
  else if !s.domOn (domainOfKey key) then (codePowered, [])
  else if r.acc = .wo then (codeReadWo, [])
  else if bootHides s key then (codeState, [])
  else if r.k0 = E.linkBuf.k0 ∧ s.domState 11 = 3 then (codePowered, [])
  else if isDomain r || isStr r then readBlock s r i ofs n
  else (okCode, valueBytes r (liveValue s r i j))

/-- A read of a persona's view (R594): it never clears; a view that does not exist reads 0. -/
def viewRead (s : State) (p w ofs n : Nat) : Nat × List Byte :=
  if bootHides s 0xC00000 then (codeState, [])
  else if w < 0x40 then (okCode, toBytes 2 (if viewExists s p then wordRead s p w else 0))
  else if 512 ≤ ofs then (codeRange, [])
  else (okCode, if viewExists s p then s.bytes (personaWave p (w - 0x40) + ofs) (min n (512 - ofs))
    else List.replicate (min n (512 - ofs)) 0)

/-- A read of the entry that a key names: its code and its bytes, most significant byte first. `ofs` and `n` are for DOMAIN
and STR types. -/
def dictRead (s : State) (key ofs n : Nat) : Nat × List Byte :=
  match personaKey key with
  | some (p, w) => viewRead s p w ofs n
  | none =>
    match rowOf key with
    | some (r, i, j) => readRow s key r i j ofs n
    | none =>
      match shadowEntry s key with
      | some l => if bootHides s key then (codeState, []) else (okCode, l)
      | none =>
        if !indexExists (key / 256) then (codeNoObject, [])
        else if !s.domOn (domainOfKey key) then (codePowered, [])
        else readZero s key 1

/-- A read that shows an open value draws a new one next time (log entry 20). -/
def afterRead (s : State) (key : Nat) : State :=
  if [E.pinIn.k0, E.rtimeNow.k0].contains key then { s with fresh := s.fresh + 1 } else s

/-- The type of an entry is DOMAIN or STR. -/
def isBlockKey (key : Nat) : Bool :=
  match personaKey key with
  | some (_, w) => decide (0x40 ≤ w)
  | none =>
    match rowOf key with
    | some (r, _, _) => isDomain r || isStr r
    | none => false

/-- A write of an entry, shadows of fuse words included: those are read only (R566). -/
def anyWrite (key ofs : Nat) (data : List Byte) (port : Option Port) (s : State) : Nat × State :=
  if (shadowEntry s key).isSome then (codeWriteRo, s) else dictWrite key ofs data port s

/-- An access in the TICK of a reset gets no answer (R613). -/
def inReset (s : State) : Bool := s.actedOn .device [.reset]

/-! ### SUMMARY -/

/-- The snapshot that a read of SUMMARY on a port returns, and the state that holds it (R485): CAN FD and the LHP keep one
from their last read at offset 0; every other read takes its own. -/
def summarySnapshot (s : State) (p : Port) (ofs : Nat) : List Byte × State :=
  let now := summaryBytes s
  match p with
  | .canFd =>
    if ofs = 0 then (now, { s with snaps := { s.snaps with can := some now } }) else (s.snaps.can.getD now, s)
  | .lhp =>
    if ofs = 0 then (now, { s with snaps := { s.snaps with lhp := some now } }) else (s.snaps.lhp.getD now, s)
  | _ => (now, s)

/-- A read on a port: code, bytes and the state after it. -/
def portRead (s : State) (p : Port) (key ofs n : Nat) : Nat × List Byte × State :=
  if key = E.summary.k0 then
    let x := summarySnapshot s p ofs
    let y := partOf x.1 ofs n
    (y.1, y.2, x.2)
  else
    let y := dictRead s key ofs n
    (y.1, y.2, afterRead s key)

/-- A read on a port and its answer. -/
def readOn (s : State) (p : Port) (key ofs n : Nat) : State :=
  if !portUp s p || inReset s then s
  else
    let x := portRead s p key ofs n
    x.2.2.answer p x.1 x.2.1

/-- SUMMARY_READ (R485, R486). -/
def execSummaryRead (port : Port) (ofs len : Nat) (s : State) : Host.Outcome State Fault Refusal :=
  .next (readOn s port E.summary.k0 ofs len)

/-! ### CONFIG_WRITE -/

/-- A write of bytes into an entry on a port, and its answer. -/
def writeOn (s : State) (p : Port) (key ofs : Nat) (data : List Byte) : State :=
  if !portUp s p then s else let x := anyWrite key ofs data (some p) s; x.2.reply p x.1

/-- CONFIG_WRITE: a write of the bytes of an entry, most significant byte first (R447, R449, R450). -/
def execConfigWrite (port : Port) (index sub ofs : Nat) (data : List Byte) (s : State) :
    Host.Outcome State Fault Refusal :=
  .next (writeOn s port (index % 65536 * 256 + sub % 256) ofs data)

/-! ### The local host port -/

/-- The entry that the window names. -/
def lhpKey (x : LhpSt) : Nat := x.index * 256 + x.sub % 256

/-- Offset of the window. -/
def lhpOfs (x : LhpSt) : Nat := x.ofs1 * 65536 + x.ofs0

/-- The six bytes of the value registers, from LHP_DATA_2 [15:8] on (R455). -/
def lhpBytes (x : LhpSt) : List Byte := toBytes 2 x.data2 ++ toBytes 2 x.data1 ++ toBytes 2 x.data0

/-- The value registers with six bytes. -/
def setLhpBytes (x : LhpSt) (l : List Byte) : LhpSt :=
  { x with data2 := ofBytes (l.take 2), data1 := ofBytes ((l.drop 2).take 2), data0 := ofBytes ((l.drop 4).take 2) }

/-- The six bytes that a read leaves (R456): a block left-aligned, a scalar right-aligned and sign-extended. -/
def lhpValue (key : Nat) (l : List Byte) : List Byte :=
  if isBlockKey key then (l ++ List.replicate 6 0).take 6
  else
    let neg := match rowOf key with
      | some (r, _, _) => tySigned r.ty && decide (128 ≤ (l.headD 0).toNat)
      | none => false
    List.replicate (6 - l.length) (if neg then 0xFF else 0) ++ l.drop (l.length - 6)

/-- The bytes of a scalar's type that a write takes from the window: the value's low ones (R447). -/
def lhpTaken (key : Nat) (x : LhpSt) : List Byte :=
  let n := match rowOf key with
    | some (r, _, _) => tyBytes r.ty
    | none => if (personaKey key).isSome then 2 else 1
  (lhpBytes x).drop (6 - n)

/-- A write of a window register while an access runs is ignored and sets OVERRUN; the window exists in native mode only
(R456, R572). -/
def lhpGate (s : State) (act : State → State) : State :=
  if !portUp s .lhp || inReset s then s
  else if s.lhp.busy then { s with lhp := { s.lhp with overrun := true } }
  else act s

/-- LHP_CMD is written: OVERRUN clears. -/
def lhpStart (cmd : Nat) (s : State) : State := { s with lhp := { s.lhp with cmd := cmd % 65536, overrun := false } }

/-- The byte count of a block access is not one that LHP_CMD can give (R455). A scalar's is not looked at. -/
def lhpCountBad (key cmd : Nat) : Bool := isBlockKey key && !decide (1 ≤ bits cmd 11 8 ∧ bits cmd 11 8 ≤ 6)

/-- An access ends at once with a code. -/
def lhpFinish (s : State) (code moved : Nat) (data : List Byte) : State :=
  (lhpEnded { s with lhp := { s.lhp with moved := moved } } code).answer .lhp code data

/-- LHP_CMD 1: a read (R455, R456). A byte count that the register cannot give is answered "length mismatch" (log entry
51). -/
def lhpReadAct (cmd : Nat) (s : State) : State :=
  let s := lhpStart cmd s
  let key := lhpKey s.lhp
  if lhpCountBad key cmd then lhpFinish s codeLength 0 []
  else
    let x := portRead s .lhp key (lhpOfs s.lhp) (bits cmd 11 8)
    let t := x.2.2
    if x.1 = okCode then
      lhpFinish { t with lhp := setLhpBytes t.lhp (lhpValue key x.2.1) } okCode
        (if isBlockKey key then x.2.1.length else 0) x.2.1
    else lhpFinish t x.1 0 []

/-- LHP_CMD 2: a write (R447, R455, R456). A write whose answer comes later leaves BUSY at 1. -/
def lhpWriteAct (cmd : Nat) (s : State) : State :=
  let s := lhpStart cmd s
  let key := lhpKey s.lhp
  if lhpCountBad key cmd then lhpFinish s codeLength 0 []
  else
    let n := bits cmd 11 8
    let block := isBlockKey key
    let x := anyWrite key (lhpOfs s.lhp) (if block then (lhpBytes s.lhp).take n else lhpTaken key s.lhp) (some .lhp) s
    let t := x.2
    if x.1 = laterCode then
      if inReset t then t
      else { t with lhp := { t.lhp with busy := true, waiting := some key, moved := if block then n else 0 } }
    else lhpFinish t x.1 (if block then n else 0) []

/-- LHP_READ (R455, R456). -/
def execLhpRead (cmd : Nat) (s : State) : Host.Outcome State Fault Refusal := .next (lhpGate s (lhpReadAct cmd))

/-- LHP_WRITE (R447, R455, R456). -/
def execLhpWrite (cmd : Nat) (s : State) : Host.Outcome State Fault Refusal := .next (lhpGate s (lhpWriteAct cmd))

/-- A write of a window register (R455): LHP_CMD starts an access when its code is one; the registers that show the outcome,
and the reserved ones, take nothing. -/
def lhpRegisterAct (reg v : Nat) (s : State) : State :=
  let x := s.lhp
  match reg with
  | 0 => { s with lhp := { x with index := v } }
  | 1 => { s with lhp := { x with sub := v % 256 } }
  | 2 => { s with lhp := { x with data0 := v } }
  | 3 => { s with lhp := { x with data1 := v } }
  | 4 => { s with lhp := { x with data2 := v } }
  | 5 => { s with lhp := { x with ofs0 := v } }
  | 6 => { s with lhp := { x with ofs1 := v } }
  | 7 => if v % 16 = 1 then lhpReadAct v s else if v % 16 = 2 then lhpWriteAct v s else lhpStart v s
  | _ => s

/-- LHP_REGISTER_WRITE (R455, R456). -/
def execLhpRegisterWrite (reg : Fin 16) (v : Nat) (s : State) : Host.Outcome State Fault Refusal :=
  .next (lhpGate s (lhpRegisterAct reg (v % 65536)))

end Sys2Proof.Machine
end

