-- ==== Sys2Proof/Machine/Restore.lean ====
section
/-!
DEFINITION. RESTORE: the records of an image, its passes, and its end (R482, R483).
-/
namespace Sys2Proof.Machine

/-! ### The image of the defaults -/

/-- The state whose stored entries are at their defaults: those of the tables, with what the boot firmware configures before
any image is applied (R271, R532; 0xA000 + p.02). -/
def defaultState (s : State) : State :=
  startDomain 2 [] (standardLoops { s with dict := [], mem := [], secs := [], loops := [] })

/-- The records that RESTORE applies: those of the image, or one for every stored entry's default (R482). -/
def planRecords (s : State) (m : Option Image) : List ParamRec :=
  match m with
  | some m => m.recs
  | none => imageRecs (defaultState s)

/-! ### One record -/

/-- The enable entries of R483. -/
def enableEntry (r : Row) (i : Nat) : Bool :=
  r.k0 == E.healthEn.k0 || r.k0 == E.logEn.k0 || r.k0 == E.rsEn.k0 ||
    (r.k0 == E.loopEn.k0 && decide ((2 ≤ i ∧ i ≤ 97) ∨ (194 ≤ i ∧ i ≤ 239)))

/-- The offset of an entry within its table: an entry of a table of scalars stands at its subindex. -/
def recordOffset (r : Row) (j : Nat) : Nat := if isDomain r then 0 else j

/-- A table record goes into both copies of its table (R482), and what follows a table follows it (R179, R217, R274). -/
def tableRecord (s : State) (r : Row) (t : Table) (e j : Nat) (data : List Byte) : State :=
  if !unitExists s r e j || !s.domOn (engDom e) || data.length != tyBytes r.ty then skipRecord s
  else
    let o := recordOffset r j
    let s := (s.setBytes (activeAt e t + o) data).setBytes (shadowAt e t + o) data
    let s := s.setEng e ((s.eng e).setShadow t .clean)
    match t with
    | .stitch => s.wr E.stitchCrc (crc32c (s.bytes (activeAt e .stitch) (tableLen .stitch))) e
    | .wave => allAmpSettings (swings s e)
    | _ => s

/-- The data of a health map record as they are written: a nozzle that is exempt and is not so in the image is released
(R252; log entry 50). -/
def releasing (s : State) (e : Nat) (data : List Byte) : List Byte :=
  data.zipIdx.map (fun x => if x.2 % 6 = 0 ∧ bits x.1.toNat 7 5 = 0 ∧ hState (s.health e (x.2 / 6)) = 6 then x.1 ||| 0xE0 else x.1)

/-- A record applied as a write (R482), without the cross-checks of R483 when `lax`; the DOM_REQ records are applied before. -/
def applyRecord (lax : Bool) (s : State) (x : ParamRec) : State :=
  match rowOf x.key with
  | none => skipRecord s
  | some (r, i, j) =>
    if r.k0 = E.domReq.k0 then s
    else match tableRow r with
      | some (t, true) => tableRecord s r t i j x.data
      | _ =>
        if !storedEntry r i then skipRecord s
        else
          let data := if r.k0 = E.healthMap.k0 then releasing s i x.data else x.data
          match entryWrite r i j 0 data none lax s with
          | (code, t) => if code = okCode ∨ code = laterCode then t else skipRecord t

/-- A record of an enable entry (R483). -/
def enableRecord (x : ParamRec) : Bool := (rowOf x.key).any (fun y => enableEntry y.1 y.2.1)

/-! ### The passes -/

/-- An enable entry whose present value is 1 is written 0 (R483 pass 2). -/
def disableEntry (s : State) (x : Row × Nat) : State :=
  if s.rd x.1 x.2 = 1 then (entryWrite x.1 x.2 0 0 [0] none false s).2 else s

/-- Pass 2 (R483). -/
def passDisable (s : State) : State :=
  let rows : List Row := [E.healthEn, E.logEn, E.loopEn, E.rsEn]
  (rows.flatMap (fun r => ((List.range r.units).filter (enableEntry r)).map (fun i => (r, i)))).foldl disableEntry s

/-- Passes 3 and 4 (R483). -/
def passRecords (l : List ParamRec) (s : State) : State :=
  (l.filter enableRecord).foldl (applyRecord false) ((l.filter (fun x => !enableRecord x)).foldl (applyRecord true) s)

/-- An entry takes its default, and is counted (R483). -/
def toDefault (act : Int → State → Nat × State) (r : Row) (i : Nat) (s : State) : State :=
  skipRecord (act (r.dflt i 0) s).2

/-- A pair of SCORE entries of an engine that fails R240 takes its defaults. -/
def checkScores (s : State) (e : Nat) : State :=
  if s.rd E.scoreGood e < s.rd E.scoreFail e then
    toDefault (scoreAct true E.scoreGood e) E.scoreGood e (toDefault (scoreAct true E.scoreFail e) E.scoreFail e s)
  else s

/-- The channels whose HEATER_SET fails R216 beside OT_THRESH. -/
def hotChannels (s : State) : List Nat :=
  (List.range 96).filter (fun c => heaterTooHot (s.rd E.heaterSet c) (s.rd E.otThresh))

/-- Failing pairs of HEATER_SET_c and OT_THRESH take their defaults; a channel that fails beside the default of OT_THRESH
takes its own (R216, R483). -/
def checkHeaters (s : State) : State :=
  let off (s : State) (c : Nat) : State := toDefault (heaterSetAct true c) E.heaterSet c s
  match hotChannels s with
  | [] => s
  | l =>
    let s := toDefault (otThreshAct true) E.otThresh 0 (l.foldl off s)
    (hotChannels s).foldl off s

/-- The limits of a loop that fail R293 take their defaults. -/
def checkLimits (s : State) (l : Nat) : State :=
  if s.rd E.outMax l < s.rd E.outMin l then
    toDefault (outLimitAct true E.outMax l) E.outMax l (toDefault (outLimitAct true E.outMin l) E.outMin l s)
  else s

/-- Every cross-check that pass 3 left out (R483). -/
def passChecks (s : State) : State :=
  let s := checkHeaters ((List.range 100).foldl checkScores s)
  ((List.range 240).filter (fun l => !loopFixed E.outMin l)).foldl checkLimits s

/-- Passes 2 to 4 and the cross-checks (R483). -/
def restorePasses (m : Option Image) (s : State) : State :=
  passChecks (passRecords (planRecords s m) (passDisable s))

/-- The end of a RESTORE: IMAGE_SEQ, and the outcome with its event (R470, R482). -/
def restoreOutcome (plan : Option Image × Nat) (s : State) : State :=
  let s := { s with store := { s.store with restoring := none, crcStale := true } }
  storeEvent (s.wr E.imageSeq (plan.1.elim 0 Image.seq : Nat)) plan.2

/-- A domain that RESTORE switches is still on its way (R483, R524). -/
def switching (s : State) : Bool :=
  (List.range 12).any (fun d => s.domState d == 1 || s.domState d == 4 ||
    (domWaiting s d && (prerequisites d).all (comingUp s)))

/-- RESTORE_END: the domains have been switched, the records are applied, and RESTORE ends (R482, R483). -/
def restoreEndAct (s : State) : State :=
  match s.store.restoring with
  | none => s
  | some plan => if s.dev ≠ .config ∨ switching s = true then s else restoreOutcome plan (restorePasses plan.1 s)

/-- RESTORE_END (R482, R483). -/
def execRestoreEnd (s : State) : Host.Outcome State Fault Refusal := .next (restoreEndAct s)

end Sys2Proof.Machine
end

