-- ==== Sys2Proof/Machine/Boot.lean ====
section
/-!
DEFINITION. The start-up sequence: sensing and the integrity checks, patches, the start-up RESTORE with the domains and the
Tally, the page map (R34, R300, R419, R457, R533 to R537, R544, R546, R550 to R557, R568).
-/
namespace Sys2Proof.Machine

/-! ### Sensing and integrity -/

/-- Every fuse word. -/
def allWords : List Nat := List.range 512

/-- The vendor wires are complete and their parity is odd (R534, R552). -/
def wiresSound (s : State) : Bool :=
  wire s 15 && ([1, 2, 3, 4, 5, 7, 11, 12, 14].filter (wire s)).length % 2 == 1

/-- VARIANT is valid and agrees with the wires (R533, R552). -/
def variantSound (s : State) : Bool :=
  let v := s.fuse 0
  let top := bits v 31 24
  wordValid (fuseShadow s 0) && bits v 47 40 == 1 &&
    ((s.grade == 1 && !wire s 1 && top == 95) || (s.grade == 2 && wire s 1 && top == 95) ||
      (s.grade == 3 && wire s 1 && wire s 5 && top == 63))

/-- The boot firmware records OTP_INTEGRITY and enters SAFE (R552, R564). -/
def integritySafe (s : State) : State :=
  enterSafe (recordFault { s with otp := { s.otp with integrity := true } } ⟨0xC8, 7, 0⟩)

/-- A word as the boot firmware must not use it and sensing has not said so: unsealed, or blank where `asBlank` (R544,
R552). -/
def unusable (s : State) (asBlank : Bool) (w : Nat) : Bool :=
  let x := fuseShadow s w
  unsealed w x || (asBlank && blank x)

/-- A weak word is reinforced and sensed again; whether it is still weak is open (R552; log entry 33). -/
def reinforceWeak (s : State) (w : Nat) : State :=
  let s := reinforce s w
  let (d, s) := s.draw
  senseWord s w (d % 2 == 1)

/-- The critical wires that word 121 holds; word 120 holds the others (R534). -/
def customerWires : Nat := 10049

/-- The words 120 and 121 whose shadow differs from a delivered wire (R534, R552). -/
def mismatchedWords (s : State) : List Nat :=
  let x := shadowWires s ^^^ s.otp.wires
  (if x ^^^ (x &&& customerWires) = 0 then [] else [120]) ++ (if x &&& customerWires = 0 then [] else [121])

/-- The boot firmware's further checks, in the order of R552: wire mismatch, weak words, trims, KEY_HASH and PATCH_MIN. An
uncorrectable word was reported by its sensing (R536). -/
def fuseChecks (s : State) : State :=
  let l := mismatchedWords s
  let s := { s with otp := { s.otp with mismatch := !l.isEmpty } }
  let s := l.foldl (fun s w => s.report 0xC8 4 w) s
  let s := if brownout s then s else ((allWords.filter (weakOf s)).take 16).foldl reinforceWeak s
  let s := ((List.range 10).map (· + 6)).foldl (fun s w => if unusable s true w then s.report 0xC8 2 w else s) s
  ((List.range 7).map (· + 16)).foldl (fun s w => if unusable s false w then s.report 0xC8 2 w else s) s

/-- Every word of the array is sensed; `weak` names the words whose two reads differ, and one with a bit left partly programmed
is weak (R535, R536, R603). -/
def senseArray (weak : List Nat) (s : State) : State :=
  let l := weak ++ s.otp.partly
  allWords.foldl (fun s w => senseWord s w (l.contains w)) { s with acted := [], otp := { s.otp with sensed := true, partly := [] } }

/-- The lowest weak word is reported (R535). -/
def reportWeak (s : State) : State :=
  match allWords.find? (weakOf s) with
  | none => s
  | some w => s.report 0xC8 3 w

/-- The lowest word that reads as unsealed although it must be sealed is reported (R536). -/
def reportUnsealed (s : State) : State :=
  match allWords.find? (fun w => unsealed w (fuseShadow s w)) with
  | none => s
  | some w => { s with otp := { s.otp with unsealedRead := true } }.report 0xC8 8 w

/-- Both sensing passes complete: shadows and status, OTP_WEAK and UNSEALED_READ at most once, and the checks of R552
(R535 to R537, R544, R552). -/
def sensingAct (weak : List Nat) (s : State) : State :=
  if s.dev ≠ .boot ∨ s.otp.sensed then s
  else
    let s := reportUnsealed (reportWeak (senseArray weak s))
    if !wiresSound s || !variantSound s then integritySafe s else fuseChecks s

/-- OTP_SENSING_DONE (R535 to R537, R544, R552). -/
def execOtpSensingDone (weak : List (Fin 512)) (s : State) : Host.Outcome State Fault Refusal :=
  .next (sensingAct (weak.map Fin.val) s)

/-- ROOT_PLL_LOCK: CLK_HK runs from the root PLL (R34, R35). -/
def pllLockAct (s : State) : State := { s with clkRoot := true }

/-- ROOT_PLL_LOCK (R34, R35). -/
def execRootPllLock (s : State) : Host.Outcome State Fault Refusal := .next (pllLockAct s)

/-! ### Patches -/

/-- BOOT_SRC as it acts: 0 when W6 is blown, and for a reserved value (R554). -/
def bootSource (s : State) : Nat := if wire s 6 ∨ 2 < s.straps.bootSrc.val then 0 else s.straps.bootSrc

/-- KEY_HASH, most significant byte first (R532). -/
def keyHash (s : State) : List Byte :=
  ((List.range 5).flatMap (fun k => toBytes 6 (s.fuse (16 + k)))) ++ toBytes 2 (bits (s.fuse 21) 47 32)

/-- The magic number of a patch (R556). -/
def patchMagic : Nat := 0x45535050

/-- PATCH_STATUS for a patch that the flash holds (R557, 0x8000.0B). -/
def patchCheck (s : State) (p : Patch) : Nat :=
  if wire s 10 then 4
  else if p.magic ≠ patchMagic then 0
  else if p.romVer ≠ s.rdN E.romVer then 6
  else if !((List.range 7).all (fun k => wordValid (fuseShadow s (16 + k)))) then 7
  else if p.version < s.fuse 22 % 65536 then 5
  else if Config.sha256 p.pubKey ≠ keyHash s then 3
  else if !Config.ecdsaVerify p.pubKey p.sig (Config.sha256 p.signed) then 2
  else 1

/-- The patch is loaded, or refused with PATCH_REJECT (R557). -/
def patchStep (patch : Option Patch) (s : State) : State :=
  if bootSource s = 2 then s
  else match patch with
    | none => s
    | some p =>
      let k := patchCheck s p
      let s := s.wr E.patchStatus k
      if k = 1 then s.wr E.patchVer p.version else s.report 0xC8 6 0

/-! ### The start-up RESTORE -/

/-- The domains in the order in which they power up at start-up: each after those that it needs (R523, R524). -/
def bootOrder : List Nat := [3, 10, 1, 2, 4, 6, 7, 8, 9, 11]

/-- A domain whose DOM_REQ is 1 powers up, unless one that it needs is off or it has failed (R522 to R524). DOM_1 begins when
its entries have been restored. -/
def bootPower (bad : List Nat) (d : Nat) (s : State) : State :=
  if s.domState d ≠ 0 ∨ !(prerequisites d).all s.domOn then s
  else if d = 1 then setDom s d 2
  else domainUp d bad s

/-- The DOM_REQ record of a domain in the start-up RESTORE (R482, R483, R523): refused for a domain that a fuse holds off, and
one that needs a domain that stays off. -/
def bootDomain (m : Option Image) (bad : List Nat) (s : State) (d : Nat) : State :=
  match domRecord s m d with
  | none => bootPower bad d s
  | some v =>
    if v = 0 ∧ !fusedOff s d then s.wr E.domReq 0 d
    else if v = 1 ∧ !fusedOff s d ∧ (prerequisites d).all (fun x => s.rd E.domReq x == 1) then
      bootPower bad d (s.wr E.domReq 1 d)
    else skipRecord s

/-- A domain that a fuse holds off reads DOM_REQ 0 (0x7300.01-.0C). -/
def fusedRequests (s : State) : State :=
  ((List.range 12).filter (fusedOff s)).foldl (fun s d => s.wr E.domReq 0 d) s

/-- The start-up RESTORE (R482, R483, R550, R551, R553): the domains with the self-test and the Tally's spares, then the records.
The device state is CONFIG for the checks of the records and BOOT again until all is done. -/
def bootRestore (bad : List Nat) (s : State) : State :=
  let plan := restorePlan s (bootSource s != 0)
  let s := fusedRequests ((s.wr E.storeStatus 2).wr E.restoreSkips 0)
  let s := bootOrder.foldl (bootDomain plan.1 bad) s
  let s := restorePasses plan.1 { s with dev := .config }
  let s := if s.domOn 1 then startDomain 1 bad s else s
  restoreOutcome plan { s with dev := .boot }

/-- The persona is entered, or refused, as R9 says (R568, 0x1020.05). -/
def bootPersona (s : State) : State :=
  if !s.straps.compatEn then s
  else if s.grade = 1 ∧ !wire s 1 then enterPersona s
  else s.wr E.persona 2

/-- What has to be done before the boot firmware can complete: sensing, the root clock, no brown-out (R519, R553). -/
def bootReady (s : State) : Bool := s.dev == .boot && s.otp.sensed && s.clkRoot && !brownout s

/-- Microseconds since the release of the reset (R555): a TICK is 40 ns. -/
def bootMicros (s : State) : Nat := s.tick / 25

/-- BOOT_FIRMWARE_DONE: counted settings, patch, the start-up RESTORE, the persona, the calibrations that become pending, and
CONFIG (R457, R546, R550 to R557, R560, R568). -/
def bootDoneAct (patch : Option Patch) (flashOk : Bool) (bad : List Nat) (s : State) : State :=
  if !bootReady s then s
  else
    let s := { s with acted := [], store := { s.store with flashOk := flashOk } }
    let s := patchStep patch (showCounted s)
    let s := s.wr E.ringAddrNow (s.rd E.ringAddr)
    let s := bootPersona (bootRestore bad s)
    let s := calTrigger (calTrigger s 2) 3
    setDev (s.wr E.bootConfigUs (bootMicros s)) .config

/-- BOOT_FIRMWARE_DONE (R457, R550 to R557, R568). -/
def execBootFirmwareDone (patch : Option Patch) (flashOk : Bool) (bistFail : List Eng) (s : State) :
    Host.Outcome State Fault Refusal := .next (bootDoneAct patch flashOk (bistFail.map Fin.val) s)

/-! ### The page map and READY -/

/-- The retirement record of a rank (R548). -/
def retirementOf (s : State) (rank : Nat) : Option Nat := (retirements s).find? (fun l => recordRank l == rank)

/-- The rank that holds a rank's frames after the retirements of the Tally: itself, or its recorded spare when that is present
and not retired in turn (R300, R550). -/
def replacement (s : State) (there : Nat → Bool) : Nat → Nat → Option Nat
  | 0, _ => none
  | fuel + 1, rank =>
    match retirementOf s rank with
    | none => if rank < 8 ∨ there rank then some rank else none
    | some l => if bit l 4 then replacement s there fuel (if bit l 5 then 9 else 8) else none

/-- The page map entry of a page whose frame belongs to a rank (R300, R307). -/
def mapEntry (s : State) (there : Nat → Bool) (rank frame : Nat) : Nat :=
  match replacement s there 4 rank with
  | some k => 2 ^ 45 + k * 2 ^ 16 + frame * 2 ^ 5
  | none => 3 * 2 ^ 45 + rank * 2 ^ 16 + frame * 2 ^ 5

/-- The page map at start-up (R300). -/
def buildMap (s : State) (there : Nat → Bool) (two : Bool) (perRank : Nat) : List (Nat × Nat) :=
  if two then (List.range (8 * perRank)).map (fun p => (p, mapEntry s there (2 * (p % 4) + p / 4 % 2) (p / 8)))
  else (List.range (4 * perRank)).map (fun p => (p, mapEntry s there (2 * (p % 4)) (p / 4)))

/-- RANK_STATE of a rank at start-up (R298, R341, R550): retired and held in power-down, a spare in use or free, in use, or
absent. -/
def bootRank (s : State) (there : Nat → Bool) (two : Bool) (rank : Nat) : RankSt :=
  if (retirementOf s rank).isSome then { st := 5, power := 1 }
  else if 8 ≤ rank then
    if !there rank then {}
    else if (List.range 8).any (fun r => (retirementOf s r).isSome && replacement s there 4 r == some rank) then { st := 1 }
    else { st := 6 }
  else if two ∨ rank % 2 = 0 then { st := 1 }
  else {}

/-- DOM_5 is on while a spare rank is in use (R45, R525), and channel 4 is then trained. -/
def bootSpareChannel (s : State) : State :=
  if [8, 9].any (fun r => (s.rank r).st == 1) then
    { setDom s 5 2 with memory := { (setDom s 5 2).memory with ch4Ready := true } }
  else s

/-- The active channels are trained and the map is built (R298 to R300, R550). -/
def buildMemory (x : DramFound) (s : State) : State :=
  let there (r : Nat) : Bool := !wire s 12 && (if r = 8 then x.spare0 else r == 9 && x.spare1)
  let per : Nat := if x.dense then 1820 else 910
  let ranks := ((List.range 10).map (fun r => (r, bootRank s there x.twoRanks r))).filter (fun y => y.2 != {})
  let s := (s.wr E.ranksPerCh (if x.twoRanks then 2 else 1)).wr E.framesPerRank per
  bootSpareChannel { s with memory := { s.memory with
    built := true, initDone := false, initNext := 0, map := buildMap s there x.twoRanks per, ranks := ranks, badEntries := [] } }

/-- TRAIN_FAIL of each active channel that failed its training (R340). -/
def trainFails (s : State) (l : List Nat) : State := l.foldl (fun s ch => s.report (0x70 + ch) 7 0) s

/-- The ring does not hold the device in CONFIG: it is joined, absent, or off (R419, R457). -/
def ringSettled (s : State) : Bool := s.ring.join != 1

/-- READY is entered; the first time is BOOT_READY_US (R457, R555). -/
def enterReady (s : State) : State :=
  let s := if s.rd E.bootReadyUs = 0 then s.wr E.bootReadyUs (bootMicros s) else s
  setDev s .ready

/-- CONFIG_TO_READY: the active channels, which lie in DOM_3 and DOM_4, are trained, any RESTORE has ended, and the ring is
settled (R300, R419, R457). A channel that fails its training holds the device in CONFIG. -/
def readyAct (x : DramFound) (s : State) : State :=
  if s.dev ≠ .config ∨ s.store.restoring.isSome ∨ ringSettled s = false then s
  else if s.memory.built then enterReady s
  else if s.domOn 3 = false ∨ s.domOn 4 = false then s
  else if x.failed ≠ [] then trainFails s (x.failed.map Fin.val)
  else enterReady (buildMemory x s)

/-- CONFIG_TO_READY (R300, R457). -/
def execConfigToReady (dram : DramFound) (s : State) : Host.Outcome State Fault Refusal := .next (readyAct dram s)

end Sys2Proof.Machine
end

