-- ==== Sys2Proof/Machine/Can.lean ====
section
/-!
DEFINITION. The CAN FD port: USDO, NMT, heartbeat and the error states (R437 to R440, R447, R454).
-/
namespace Sys2Proof.Machine

/-- The controller takes part in the bus: powered, enabled and not bus-off (R437, 0x1110.09). -/
def canOn (s : State) : Bool := s.domOn 1 && s.dev != .safe && (s.can.status == 1 || s.can.status == 2)

/-! ### USDO -/

/-- A request reaches the server: addressed to the node ID in force, in an NMT state that serves USDO (R437, R438). -/
def usdoGate (s : State) (node : Nat) (act : State → State) : State :=
  if !portUp s .canFd || inReset s || node != s.can.node then s else act s

/-- A transfer ends: one of a DOMAIN or STR returns CAN_DOM_OFS to 0 (R454). -/
def usdoEnd (s : State) (key code : Nat) (data : List Byte) : State :=
  let s := if isBlockKey key then canEnded s else s
  s.answer .canFd code data

/-- A value on CAN FD goes least significant byte first, the bytes of a DOMAIN or STR in offset order (R447). -/
def canOrder (key : Nat) (l : List Byte) : List Byte := if isBlockKey key then l else l.reverse

/-- The bytes of a download: an expedited one that gives no size has 4 (R447). -/
def usdoBytes (sizeGiven : Bool) (data : List Byte) : List Byte :=
  if sizeGiven then data else (data ++ List.replicate 4 0).take 4

/-- USDO_DOWNLOAD: a write (R437, R447, R454). -/
def downloadAct (key : Nat) (sizeGiven : Bool) (data : List Byte) (s : State) : State :=
  let x := anyWrite key (s.rdN E.canDomOfs) (canOrder key (usdoBytes sizeGiven data)) (some .canFd) s
  let t := x.2
  if x.1 = laterCode then
    if inReset t || !isBlockKey key then t else { t with can := { t.can with waiting := some key } }
  else usdoEnd t key x.1 []

/-- USDO_DOWNLOAD (R437, R447, R454). -/
def execUsdoDownload (node index sub : Nat) (sizeGiven : Bool) (data : List Byte) (s : State) :
    Host.Outcome State Fault Refusal :=
  .next (usdoGate s node (downloadAct (index % 65536 * 256 + sub % 256) sizeGiven data))

/-- USDO_UPLOAD: a read of at most the bytes that the client takes (R437, R447, R454). -/
def uploadAct (key len : Nat) (s : State) : State :=
  let x := portRead s .canFd key (s.rdN E.canDomOfs) len
  usdoEnd x.2.2 key x.1 (canOrder key x.2.1)

/-- USDO_UPLOAD (R437, R447, R454). -/
def execUsdoUpload (node index sub len : Nat) (s : State) : Host.Outcome State Fault Refusal :=
  .next (usdoGate s node (uploadAct (index % 65536 * 256 + sub % 256) len))

/-! ### NMT -/

/-- An NMT command sets the state byte (R438). -/
def nmtSet (s : State) (k : Nat) : State := if canOn s then s.wr E.canNmt k else s

/-- Reset node and reset communication (R439). -/
def nmtReset (s : State) : State := if canOn s then canStart s else s

/-- NMT_START (R438). -/
def execNmtStart (s : State) : Host.Outcome State Fault Refusal := .next (nmtSet s 0x05)

/-- NMT_STOP (R438). -/
def execNmtStop (s : State) : Host.Outcome State Fault Refusal := .next (nmtSet s 0x04)

/-- NMT_ENTER_PRE_OPERATIONAL (R438). -/
def execNmtEnterPreOperational (s : State) : Host.Outcome State Fault Refusal := .next (nmtSet s 0x7F)

/-- NMT_RESET_NODE (R439). -/
def execNmtResetNode (s : State) : Host.Outcome State Fault Refusal := .next (nmtReset s)

/-- NMT_RESET_COMMUNICATION (R439). -/
def execNmtResetCommunication (s : State) : Host.Outcome State Fault Refusal := .next (nmtReset s)

/-- HEARTBEAT: the state byte on identifier 0x700 + CAN_NODE_ID, while CAN_HB_TIME is not 0 (R437, R438). -/
def heartbeatAct (s : State) : State :=
  if canOn s && s.rd E.canHbTime != 0 then
    s.emit (.canFrame (0x700 + s.can.node) (toBytes 1 (s.rdN E.canNmt)))
  else s

/-- HEARTBEAT (R437, R438). -/
def execHeartbeat (s : State) : Host.Outcome State Fault Refusal := .next (heartbeatAct s)

/-! ### Errors -/

/-- BUS_OFF_RECOVERY: 128 occurrences of 11 recessive bits (R437); the counters begin again at 0, as ISO 11898-1 has it
(PRESUMED, log entry 15). -/
def recoveryAct (s : State) : State :=
  if s.domOn 1 && s.can.status == 3 then
    (({ s with can := { s.can with status := 1 } }).wr E.canTec 0).wr E.canRec 0
  else s

/-- BUS_OFF_RECOVERY (R437). -/
def execBusOffRecovery (s : State) : Host.Outcome State Fault Refusal := .next (recoveryAct s)

/-- The error state that the counters give, by ISO 11898-1: bus-off above 255 transmit errors, error passive from 128 of
either kind (PRESUMED, log entry 15). -/
def canState (tec rec : Nat) : Nat := if 255 < tec then 3 else if 128 ≤ tec ∨ 128 ≤ rec then 2 else 1

/-- CAN_BUS_ERROR: the counters change, and the state with them (R437, R440). -/
def busErrorAct (tec rec : Nat) (s : State) : State :=
  if canOn s then
    (({ s with can := { s.can with status := canState tec rec } }).wr E.canTec (min tec 255 : Nat)).wr E.canRec
      (min rec 255 : Nat)
  else s

/-- CAN_BUS_ERROR (R437, R440). -/
def execCanBusError (tec rec : Nat) (s : State) : Host.Outcome State Fault Refusal := .next (busErrorAct tec rec s)

end Sys2Proof.Machine
end

