-- ==== Sys2Proof/Machine/Ring.lean ====
section
/-!
DEFINITION. The Darine ring: forwarding, dictionary requests, joining, redundancy, delay measurement and the time base (R398
to R433, R441).
-/
namespace Sys2Proof.Machine

/-! ### Frames -/

/-- A field of a frame: n bytes from byte i, as a number. -/
def frameField (l : List Byte) (i n : Nat) : Nat := ofBytes ((l.drop i).take n)

/-- The time at which a frame's start block leaves in the present TICK, in 1/256 period: open within the TICK (R401; log
entry 43). -/
def sendTime (s : State) : Nat × State :=
  let (x, s) := s.draw
  (wrap56 (s.time * 256 + x % 8192 : Nat), s)

/-- A time in the format of bytes 0 to 7 of a SYNC payload (R425): whole periods, 1/256 periods, a reserved byte. -/
def timeBytes (t : Nat) : List Byte := toBytes 6 (t / 256) ++ toBytes 1 t ++ [0]

/-- The bytes of a frame are those of a Darine frame with a good CRC (R402). -/
def frameGood (l : List Byte) : Bool :=
  decide (16 ≤ l.length) && crc32c (l.take (l.length - 4)) == frameField l (l.length - 4) 4

/-- A frame as it is forwarded (R405, R406, R428): HOPS counted, CORRECTION of a SYNC increased, the CRC computed again. -/
def forwarded (l : List Byte) (hops : Nat) (extra : Int) : List Byte :=
  let body := l.take (l.length - 4)
  let head := body.take 6 ++ toBytes 2 hops ++ body.drop 8
  let head :=
    if frameField l 0 1 % 16 = 0 ∧ 28 ≤ head.length then
      head.take 20 ++ toBytes 8 (unsigned 64 (signed 64 (frameField head 20 8) + extra)) ++ head.drop 28
    else head
  head ++ toBytes 4 (crc32c head)

/-- A received frame is not forwarded (R405): it is the node's own, addressed to it, or a broadcast at its last hop. -/
def keeps (s : State) (l : List Byte) (hops : Nat) : Bool :=
  let dst := frameField l 2 2
  (assigned s && (dst == nodeAddr s || (dst == 0xFFFF && frameField l 4 2 == nodeAddr s))) ||
    (decide (0x8001 ≤ dst ∧ dst ≤ 0xBFFF) && dst % 0x4000 == hops) || (dst == 0xFFFF && decide (16384 ≤ hops))

/-- A frame leaves on an OUT lane, or waits in the transit buffer behind an own frame (R407). -/
def passOn (s : State) (out : Nat) (bytes : List Byte) (cut : Bool) : State :=
  let x := s.lane out
  if x.inj then s.setLane out { x with transit := x.transit ++ [(bytes, cut)] }
  else laneEmit (s.setLane out { x with busy := true }) out bytes cut

/-- FRAME_CRC, at most once per 1 ms (R406). -/
def frameCrc (s : State) (i : Nat) : State :=
  let s := s.count E.crcErrors i
  let x := s.lane i
  if x.crcAt.all (fun t => decide (t + 25000 ≤ s.tick)) then
    (s.setLane i { x with crcAt := some s.tick }).report (0xA8 + i) 3 0
  else s

/-- The hop of a frame: open up to 400 ns in 1/256 period (R408; log entry 43). -/
def hopTime (s : State) : Nat × State :=
  let (x, s) := s.draw
  (x % 81921, s)

/-- RING_FRAME_FORWARD: a frame arrives on a ring's IN lane. It is counted or its CRC found bad, and leaves again unless it
ends here (R405 to R408, R428). What a node consumes acts through the commands of its class (log entry 42). -/
def forwardAct (i : Nat) (f : RingFrame) (s : State) : State :=
  if !ringOn s || !(s.lane i).inUp || prbsOnRing s i || f.bytes.length < 16 then s
  else
    let good := frameGood f.bytes && !f.errorBlock
    let s := if good then s.count48 E.rxFrames i else if f.errorBlock then s else frameCrc s i
    let hops := (frameField f.bytes 6 2 + 1) % 65536
    if keeps s f.bytes hops then s
    else match outLane s i with
      | none => s
      | some out =>
        let (hop, s) := hopTime s
        passOn s out (forwarded f.bytes hops (s.rd E.linkDelay i + hop)) (!good)

/-- RING_FRAME_FORWARD (R401, R405 to R408, R428). -/
def execRingFrameForward (i : RingId) (f : RingFrame) (s : State) : Host.Outcome State Fault Refusal :=
  .next (forwardAct i f s)

/-- RING_INJ_WAIT: an own frame has waited long enough on an OUT lane: it is sent at the frame boundary, and what arrives
goes to the transit buffer (R407). -/
def injectAct (i : Nat) (s : State) : State :=
  let x := s.lane i
  match x.own with
  | [] => s
  | b :: rest => if x.inj || !ringOn s then s else laneEmit (s.setLane i { x with own := rest, inj := true }) i b false

/-- RING_INJ_WAIT (R407). -/
def execRingInjWait (i : RingId) (s : State) : Host.Outcome State Fault Refusal := .next (injectAct i s)

/-- The gaps of a ring's OUT lane at the end of a TICK: the transit buffer empties, then every own frame leaves (R407). -/
def drainLane (s : State) (i : Nat) : State :=
  let x := s.lane i
  let s := x.transit.foldl (fun s f => laneEmit s i f.1 f.2) (s.setLane i { x with transit := [], own := [], busy := false, inj := false })
  x.own.foldl (fun s b => laneEmit s i b false) s

/-! ### Dictionary requests -/

/-- The port of a request. -/
def reqPort (q : RingReq) : Port := if q.ring = 0 then .ringA else .ringB

/-- The response frames of a read that succeeds (R411): at most 240 bytes each, the offset advanced, LAST in the final one. -/
def readFrames (s : State) (q : RingReq) (l : List Byte) (n : Nat) : State :=
  (List.range n).foldl (fun s k =>
    sendResp s q.ring.val q (respPayload 1 (k + 1 == n) q ((q.ofs + respMost * k) % 2 ^ 32) okCode
      ((l.drop (respMost * k)).take respMost))) s

/-- A request of the ring is held to what every request is held to: the port serves, SRC is a node (R411, R515, R613), and
the queue has room, else it is answered "busy" (R412). -/
def reqGate (s : State) (q : RingReq) (op : Nat) (act : State → State) : State :=
  if !portUp s (reqPort q) || inReset s || q.src == 0xFFFE then s
  else if 64 ≤ s.ring.queue.length then
    sendResp (s.count E.reqBusy) q.ring.val q (respPayload op (op == 1) q q.ofs codeBusy [])
  else act s

/-- A DICT_REQ read is answered (R411, R414). A DLEN that R410 does not allow is answered "length mismatch" (log entry
51). -/
def ringReadAct (q : RingReq) (s : State) : State :=
  let no (s : State) (code : Nat) : State := sendResp s q.ring.val q (respPayload 1 true q (q.ofs % 2 ^ 32) code [])
  if q.dlen < 1 ∨ 1024 < q.dlen then no s codeLength
  else
    let x := portRead s (reqPort q) (reqKey q) q.ofs q.dlen
    let s := x.2.2.answer (reqPort q) x.1 x.2.1
    if x.1 = okCode then readFrames s q x.2.1 ((q.dlen + respMost - 1) / respMost) else no s x.1

/-- RING_DICT_READ (R410 to R414). -/
def execRingDictRead (req : RingReq) (s : State) : Host.Outcome State Fault Refusal :=
  .next (reqGate s req 1 (ringReadAct req))

/-- A DICT_REQ write: repeated, it is answered from the record and not executed; otherwise it is executed, and answered once
it has taken effect (R411, R413, R450). One that repeats a write still waiting waits with it (log entry 51). -/
def ringWriteAct (q : RingReq) (s : State) : State :=
  match s.ring.dups.find? (fun d => d.1 == q.src && d.2.1 == q.seq) with
  | some d => sendResp (s.count E.dupWrites) q.ring.val q (respPayload 2 false q (q.ofs % 2 ^ 32) d.2.2 [])
  | none =>
    if s.ring.queue.any (fun w => w.src == q.src && w.seq == q.seq) then s.count E.dupWrites
    else
      let x := anyWrite (reqKey q) q.ofs q.data (some (reqPort q)) s
      let t := x.2
      if x.1 = laterCode then
        if inReset t then t else { t with ring := { t.ring with queue := t.ring.queue ++ [q] } }
      else answerWrite (t.answer (reqPort q) x.1) q.ring.val q x.1

/-- RING_DICT_WRITE (R410 to R414). -/
def execRingDictWrite (req : RingReq) (s : State) : Host.Outcome State Fault Refusal :=
  .next (reqGate s req 2 (ringWriteAct req))

/-! ### Joining -/

/-- ANNOUNCE_SEND: an assigned node sends its nonce on both rings (R418). -/
def announceSendAct (s : State) : State :=
  if !ringOn s || !assigned s then s
  else
    let (n, s) := nextSeq s 8
    sendBoth { s with ring := { s.ring with annAt := some s.tick } } 8 0xFFFF n (toBytes 4 (s.fuse 1))

/-- ANNOUNCE_SEND (R418). -/
def execAnnounceSend (s : State) : Host.Outcome State Fault Refusal := .next (announceSendAct s)

/-- An address conflict (R420): from now on the node is unassigned, so it is not root either (R417). -/
def addrConflict (s : State) : State :=
  let s := if s.rdN E.rtState = 4 then s.wr E.rtState 0 else s
  let s := { s with ring := { s.ring with addrConflict := true, annAt := none, root := false } }
  joinUnassigned (s.report 0xA8 4 0)

/-- ANNOUNCE_RECEIVE: an ANNOUNCE with the node's own address as SRC (R418, R420). -/
def announceReceiveAct (src nonce : Nat) (s : State) : State :=
  if !ringOn s || !assigned s || src != nodeAddr s then s
  else if nonce ≠ s.fuse 1 % 2 ^ 32 then addrConflict s
  else
    let s := { s with ring := { s.ring with annAt := none } }
    if lanesReady s then joinNow s else s

/-- ANNOUNCE_RECEIVE (R418, R420). -/
def execAnnounceReceive (src nonce : Nat) (s : State) : Host.Outcome State Fault Refusal :=
  .next (announceReceiveAct src nonce s)

/-- ANN_TIMEOUT: an own ANNOUNCE has not come back (R420). -/
def execAnnTimeout (s : State) : Host.Outcome State Fault Refusal :=
  .next (if ringOn s && assigned s && s.ring.annAt.isSome then addrConflict s else s)

/-- RING_ABSENT: no IN lane is up 50 ms after DOM_1 was released (R419). -/
def execRingAbsent (s : State) : Host.Outcome State Fault Refusal :=
  .next (if s.ring.join = 1 ∧ !(s.lane 0).inUp ∧ !(s.lane 1).inUp then { s with ring := { s.ring with join := 3 } } else s)

/-! ### Redundancy -/

/-- LANE_DOWN: an IN lane that was up goes down (R400, R421, R422, R441). -/
def laneDownAct (i : Nat) (s : State) : State :=
  if !ringOn s || !(s.lane i).inUp then s
  else evalSides (((dropIn s i).count E.laneDowns i).report (0xA8 + i) 1 0) i

/-- LANE_DOWN (R400, R422). -/
def execLaneDown (i : RingId) (s : State) : Host.Outcome State Fault Refusal := .next (laneDownAct i s)

/-- LANE_UP: an IN lane is up (R400), unless its ring is in reset (R501); a side that is still broken is wrapped (R422). -/
def laneUpAct (i : Nat) (s : State) : State :=
  if !ringOn s || (s.lane i).inUp || unitInReset s (0xA8 + i) then s
  else evalSides (s.setLane i { s.lane i with inUp := true, lost := false }) (1 - i)

/-- LANE_UP (R400, R418, R421). -/
def execLaneUp (i : RingId) (s : State) : Host.Outcome State Fault Refusal := .next (laneUpAct i s)

/-- RING_HEAL: a side that has been good for RING_HEAL unwraps (R423). -/
def ringHealAct (down : Bool) (s : State) : State :=
  if down then
    if downBroken s then s else joinUnassigned { s with ring := { s.ring with wrapDown := false } }
  else if upBroken s then s
  else joinUnassigned { s with ring := { s.ring with wrapUp := false } }

/-- RING_HEAL (R423). -/
def execRingHeal (down : Bool) (s : State) : Host.Outcome State Fault Refusal := .next (ringHealAct down s)

/-- A frame to the neighbour at the end of a ring's OUT lane (R404, R421, R426); an isolated node sends none (R422). -/
def neighbourSend (s : State) (out cls seq : Nat) (payload : List Byte) : State :=
  if !ringOn s || (s.ring.wrapUp && s.ring.wrapDown) then s
  else laneQueue s out (ringFrameBytes cls out 0x8001 (nodeAddr s) 0 seq payload)

/-- LINK_STATE_SEND: on each OUT lane, whether the IN lane of the other ring from the same neighbour is up (R421). -/
def linkStateSendAct (s : State) : State :=
  let (n, s) := nextSeq s 7
  let up (i : Nat) : List Byte := toBytes 1 (flag (s.lane i).inUp 0)
  neighbourSend (neighbourSend s 0 7 n (up 1)) 1 7 n (up 0)

/-- LINK_STATE_SEND (R421). -/
def execLinkStateSend (s : State) : Host.Outcome State Fault Refusal :=
  .next (if ringOn s then linkStateSendAct s else s)

/-- LINK_STATE_RECEIVE: the neighbour whose frame came on a ring's IN lane reports on the node's OUT lane of the other ring
(R421, R422). -/
def linkStateAct (i : Nat) (up : Bool) (s : State) : State :=
  if !ringOn s || !(s.lane i).inUp then s
  else evalSides (s.setLane (1 - i) { s.lane (1 - i) with heard := true, outOk := up }) (1 - i)

/-- LINK_STATE_RECEIVE (R421, R422). -/
def execLinkStateReceive (i : RingId) (up : Bool) (s : State) : Host.Outcome State Fault Refusal :=
  .next (linkStateAct i up s)

/-! ### Delay measurement -/

/-- A DELAY_REQ for the IN lane of a ring, on the other ring's OUT lane to the same neighbour (R426). -/
def delayReqLane (n : Nat) (s : State) (i : Nat) : State :=
  let (t1, s) := sendTime s
  neighbourSend (s.setLane i { s.lane i with delayReq := some (n, t1) }) (1 - i) 1 n []

/-- DELAY_REQ_SEND: once every 1 ms, for each IN lane (R426). -/
def delayReqSendAct (s : State) : State :=
  if !ringOn s then s
  else
    let (n, s) := nextSeq s 1
    delayReqLane n (delayReqLane n s 0) 1

/-- DELAY_REQ_SEND (R426). -/
def execDelayReqSend (s : State) : Host.Outcome State Fault Refusal := .next (delayReqSendAct s)

/-- DELAY_REQ_RECEIVE: the answer goes back on the other ring's OUT lane with the arrival t2 and its own send time t3 (R426).
It repeats the request's SEQ (R403) and, like the request, names the next node (log entry 52). -/
def delayReqAct (i seq t2 : Nat) (s : State) : State :=
  if !ringOn s || !(s.lane i).inUp then s
  else
    let (t3, s) := sendTime s
    neighbourSend s (1 - i) 2 seq (timeBytes (t2 % 2 ^ 56) ++ timeBytes t3)

/-- DELAY_REQ_RECEIVE (R426). -/
def execDelayReqReceive (i : RingId) (_src seq t2 : Nat) (s : State) : Host.Outcome State Fault Refusal :=
  .next (delayReqAct i seq t2 s)

/-- DELAY_RESP_RECEIVE: LINK_DELAY of the lane is the mean of the last 16 values; it keeps its value while the lane pair is
broken (R426). -/
def delayRespAct (i seq t2 t3 t4 : Nat) (s : State) : State :=
  let x := s.lane i
  match x.delayReq with
  | none => s
  | some (n, t1) =>
    if !ringOn s || !x.inUp || ((s.lane (1 - i)).heard && !(s.lane (1 - i)).outOk) || n != seq then s
    else
      let l := (sdiff56 (t4 - t1 : Int) (t3 - t2 : Int) :: x.delays).take 16
      let (v, s) := roundWord s ((l.sum : Rat) / (2 * l.length : Rat))
      (s.setLane i { x with delays := l, delayReq := none }).wr E.linkDelay (max 0 v) i

/-- DELAY_RESP_RECEIVE (R426). -/
def execDelayRespReceive (i : RingId) (seq t2 t3 t4 : Nat) (s : State) : Host.Outcome State Fault Refusal :=
  .next (delayRespAct i seq t2 t3 t4 s)

/-! ### The time base -/

/-- A SYNC of the root on one ring: ORIGIN is when its start block leaves (R425). -/
def syncOn (n : Nat) (s : State) (ring : Nat) : State :=
  let (t, s) := sendTime s
  sendFrame s ring 0 0xFFFF n (timeBytes t ++ toBytes 8 0)

/-- SYNC_SEND (R425): the root alone, and not without an address (R417). -/
def syncSendAct (s : State) : State :=
  if !ringOn s || !s.ring.root || !assigned s then s
  else
    let (n, s) := nextSeq s 0
    syncOn n (syncOn n s 0) 1

/-- SYNC_SEND (R425). -/
def execSyncSend (s : State) : Host.Outcome State Fault Refusal := .next (syncSendAct s)

/-- 20 ns and RT_STEP_LIMIT in 1/256 period (R431); the second times 5. -/
def goodStep : Nat := 4096
def stepLimit5 (s : State) : Nat := s.rdN E.rtStepLimit * 1024

/-- The conversions take a SYNC, the newest of those given (R430). -/
def applySync (s : State) (ti rti : Nat) (syncs : List (Nat × Nat)) : State :=
  let s := { s with ring := { s.ring with ti := ti, rti := rti, syncs := syncs.take 9 } }
  let (rate, s) := roundWord s (rateOf s.ring.syncs * 10 ^ 12)
  (s.wr E.rtOffset (divNearest (sdiff56 rti ti) 256)).wr E.rtRate (clampInt (-2147483648) 2147483647 rate)

/-- A SYNC that lies beyond RT_STEP_LIMIT is not applied; the third in a row restarts the synchronisation from it (R431). -/
def farSync (s : State) (ti rti : Nat) : State :=
  if s.ring.steps + 1 < 3 then { s with ring := { s.ring with steps := s.ring.steps + 1 } }
  else
    let s := applySync { s with ring := { s.ring with steps := 0, good := 0 } } ti rti [(ti, rti)]
    ((s.wr E.rtState 1).count E.timeSteps).report 0xA8 7 0

/-- A SYNC within RT_STEP_LIMIT, `d` from the prediction: 8 good ones in a row lock, and the next one ends holdover (R431). A
SYNC that is applied counts as good there (DEDUCED, log entry 53). -/
def nearSync (s : State) (ti rti d : Nat) : State :=
  let good := if d < goodStep then s.ring.good + 1 else 0
  let s := applySync { s with ring := { s.ring with steps := 0, good := good } } ti rti ((ti, rti) :: s.ring.syncs)
  let k := s.rdN E.rtState
  if k = 3 ∨ (k = 1 ∧ 8 ≤ good) then s.wr E.rtState 2 else s

/-- A SYNC is consumed (R428, R430, R431). -/
def consumeSync (s : State) (i seq origin : Nat) (correction : Int) (ti : Nat) : State :=
  let rti := wrap56 (origin + correction + s.rd E.linkDelay i)
  let s := { s with ring := { s.ring with syncSeq := some seq, syncAt := s.tick } }
  if s.rdN E.rtState = 0 then
    applySync ({ s with ring := { s.ring with good := 0, steps := 0 } }.wr E.rtState 1) ti rti [(ti, rti)]
  else
    let d := (sdiff56 rti (ringTime56 s ti)).natAbs
    if stepLimit5 s < 5 * d then farSync s ti rti else nearSync s ti rti d

/-- The other ring has the better claim to be the first ring used (R429): fewer HOPS, ring A on a tie. -/
def betterRing (s : State) (i hops : Nat) : Bool :=
  let other := s.rdN E.hopsToRoot (1 - i)
  decide (hops < other) || (hops == other && i == 0)

/-- A SYNC of another node arrives at a follower (R429). The first SYNC fixes the ring; the same SYNC on the other ring with
the better claim replaces it. Later the ring changes only when it has delivered none for half of SYNC_TIMEOUT,
25 TICKs to the microsecond. -/
def followSync (s : State) (i seq hops origin : Nat) (correction : Int) (ti : Nat) : State :=
  let src := s.rdN E.syncSrc
  let newer := s.ring.syncSeq.all (fun n => decide (0 < signed 16 (seq + 65536 - n)))
  let silent := (s.lane (1 - i)).syncAt.all (fun t => decide (s.rdN E.syncTimeout * 25 ≤ 2 * (s.tick - t)))
  if src = 2 then consumeSync (s.wr E.syncSrc i) i seq origin correction ti
  else if src ≠ i ∧ s.rdN E.rtState = 1 ∧ s.ring.syncs.length = 1 ∧ s.ring.syncSeq = some seq ∧ betterRing s i hops then
    consumeSync ((s.wr E.syncSrc i).wr E.rtState 0) i seq origin correction ti
  else if !newer then s
  else if src = i then consumeSync s i seq origin correction ti
  else if silent then consumeSync (s.wr E.syncSrc i) i seq origin correction ti
  else s

/-- SYNC_RECEIVE: `origin`, `correction` and `ti` are in 1/256 period (R425, R428). A root that sees another root's SYNC
says so, and follows when its address is the higher (R433). -/
def syncReceiveAct (i src seq hops origin : Nat) (correction : Int) (ti : Nat) (s : State) : State :=
  if !ringOn s || !(s.lane i).inUp || (assigned s && src == nodeAddr s) then s
  else
    let s := (s.setLane i { s.lane i with syncAt := some s.tick }).wr E.hopsToRoot (min hops 0xFFFF : Nat) i
    if !s.ring.root then followSync s i seq hops origin correction ti
    else
      let s := ({ s with ring := { s.ring with otherRoot := some s.tick } }).report 0xA8 5 0
      if nodeAddr s ≤ src then s
      else followSync ({ s with ring := { s.ring with root := false } }.wr E.rtState 0) i seq hops origin correction ti

/-- SYNC_RECEIVE (R428 to R433). -/
def execSyncReceive (i : RingId) (src seq hops origin : Nat) (correction : Int) (ti : Nat) (s : State) :
    Host.Outcome State Fault Refusal :=
  .next (syncReceiveAct i src seq hops origin correction ti s)

/-- SYNC_LOST: no SYNC has been consumed for SYNC_TIMEOUT; the last RATE continues (R431). -/
def syncLostAct (s : State) : State :=
  if s.rdN E.rtState = 1 ∨ s.rdN E.rtState = 2 then (s.wr E.rtState 3).report 0xA8 6 0 else s

/-- SYNC_LOST (R431). -/
def execSyncLost (s : State) : Host.Outcome State Fault Refusal := .next (syncLostAct s)

end Sys2Proof.Machine
end

