-- ==== Sys2Proof/Machine/Dispatch.lean ====
section
/-!
DEFINITION. One arm per command: its meaning, or a refusal by name where it has none yet.
-/
namespace Sys2Proof.Machine
open Sys2Proof

/-- The effect of a command on everything but the queue. -/
def exec (i : Instr) (s : State) : Host.Outcome State Fault Refusal :=
  match i with
  | .powerOnReset straps => Sys2Proof.Machine.execPowerOnReset straps s
  | .otpSensingDone weak => Sys2Proof.Machine.execOtpSensingDone weak s
  | .rootPllLock => Sys2Proof.Machine.execRootPllLock s
  | .bootFirmwareDone patch flashOk bistFail => Sys2Proof.Machine.execBootFirmwareDone patch flashOk bistFail s
  | .configToReady dram => Sys2Proof.Machine.execConfigToReady dram s
  | .clockFault => Sys2Proof.Machine.execClockFault s
  | .supplyReset m powerOnLevel => Sys2Proof.Machine.execSupplyReset m powerOnLevel s
  | .watchdogExpiry => Sys2Proof.Machine.execWatchdogExpiry s
  | .resetN widthNs => Sys2Proof.Machine.execResetN widthNs s
  | .reset port arg => Sys2Proof.Machine.execReset port arg s
  | .encoderEdge n a b held t => Sys2Proof.Machine.execEncoderEdge n a b held t s
  | .encTimeout n => Sys2Proof.Machine.execEncTimeout n s
  | .triggerEdge n rising t => Sys2Proof.Machine.execTriggerEdge n rising t s
  | .ringPosSample node seq pos vel stime => Sys2Proof.Machine.execRingPosSample node seq pos vel stime s
  | .ringPosStale => Sys2Proof.Machine.execRingPosStale s
  | .ringPosPublish => Sys2Proof.Machine.execRingPosPublish s
  | .observerSample => Sys2Proof.Machine.execObserverSample s
  | .coastLimit => Sys2Proof.Machine.execCoastLimit s
  | .changeover port v => Sys2Proof.Machine.execChangeover port v s
  | .srcPrimaryWrite port v => Sys2Proof.Machine.execSrcPrimaryWrite port v s
  | .srcSecondaryWrite port v => Sys2Proof.Machine.execSrcSecondaryWrite port v s
  | .encConfigWrite port n f v => Sys2Proof.Machine.execEncConfigWrite port n f v s
  | .ringPosNodeWrite port v => Sys2Proof.Machine.execRingPosNodeWrite port v s
  | .lineLock c => Sys2Proof.Machine.execLineLock c s
  | .lineFire c => Sys2Proof.Machine.execLineFire c s
  | .planningInterval => Sys2Proof.Machine.execPlanningInterval s
  | .speedLimPeriod => Sys2Proof.Machine.execSpeedLimPeriod s
  | .speedLimFreqWrite port v => Sys2Proof.Machine.execSpeedLimFreqWrite port v s
  | .buildStart c => Sys2Proof.Machine.execBuildStart c s
  | .feedFetch c => Sys2Proof.Machine.execFeedFetch c s
  | .feedLineReady c ecc => Sys2Proof.Machine.execFeedLineReady c ecc s
  | .feedTimeout c => Sys2Proof.Machine.execFeedTimeout c s
  | .stitchCommit port e => Sys2Proof.Machine.execStitchCommit port e s
  | .shapeCommit port e => Sys2Proof.Machine.execShapeCommit port e s
  | .tileCommit port e => Sys2Proof.Machine.execTileCommit port e s
  | .waveCommit port e => Sys2Proof.Machine.execWaveCommit port e s
  | .foldDone e => Sys2Proof.Machine.execFoldDone e s
  | .shadowSyncDone e tbl => Sys2Proof.Machine.execShadowSyncDone e tbl s
  | .takeoverCopyDone g ok => Sys2Proof.Machine.execTakeoverCopyDone g ok s
  | .takeoverCommand port e => Sys2Proof.Machine.execTakeoverCommand port e s
  | .idleFrameHeader c => Sys2Proof.Machine.execIdleFrameHeader c s
  | .backchannelFrame c bytes => Sys2Proof.Machine.execBackchannelFrame c bytes s
  | .backchannelSilent c => Sys2Proof.Machine.execBackchannelSilent c s
  | .driveFrameOut c => Sys2Proof.Machine.execDriveFrameOut c s
  | .driveFrameIn c bytes t => Sys2Proof.Machine.execDriveFrameIn c bytes t s
  | .headCareRound => Sys2Proof.Machine.execHeadCareRound s
  | .probeScore e parityError => Sys2Proof.Machine.execProbeScore e parityError s
  | .learnStart port e => Sys2Proof.Machine.execLearnStart port e s
  | .learnCancel port e => Sys2Proof.Machine.execLearnCancel port e s
  | .learnScanEnd e => Sys2Proof.Machine.execLearnScanEnd e s
  | .healthEnWrite port e v => Sys2Proof.Machine.execHealthEnWrite port e v s
  | .healthMapWrite port e ofs data => Sys2Proof.Machine.execHealthMapWrite port e ofs data s
  | .loopSample l ecc slot => Sys2Proof.Machine.execLoopSample l ecc slot s
  | .logWrite => Sys2Proof.Machine.execLogWrite s
  | .logEnWrite port v => Sys2Proof.Machine.execLogEnWrite port v s
  | .loopHandover port l => Sys2Proof.Machine.execLoopHandover port l s
  | .loopHold port l => Sys2Proof.Machine.execLoopHold port l s
  | .loopRelease port l => Sys2Proof.Machine.execLoopRelease port l s
  | .loopEnWrite port l v => Sys2Proof.Machine.execLoopEnWrite port l v s
  | .sectionWrite port slot sub ofs data => Sys2Proof.Machine.execSectionWrite port slot sub ofs data s
  | .mr4Poll r rate aboveNominal overTemp => Sys2Proof.Machine.execMr4Poll r rate aboveNominal overTemp s
  | .memoryReadDone addr ecc mapEcc => Sys2Proof.Machine.execMemoryReadDone addr ecc mapEcc s
  | .patrolScrub r frame block ecc => Sys2Proof.Machine.execPatrolScrub r frame block ecc s
  | .spareBringupDone ok0 ok1 => Sys2Proof.Machine.execSpareBringupDone ok0 ok1 s
  | .migPageSwitch badBlocks => Sys2Proof.Machine.execMigPageSwitch badBlocks s
  | .migrationEnd => Sys2Proof.Machine.execMigrationEnd s
  | .map port => Sys2Proof.Machine.execMap port s
  | .unmap port => Sys2Proof.Machine.execUnmap port s
  | .retire port => Sys2Proof.Machine.execRetire port s
  | .clearPoison port => Sys2Proof.Machine.execClearPoison port s
  | .pdTimer r => Sys2Proof.Machine.execPdTimer r s
  | .srTimer r => Sys2Proof.Machine.execSrTimer r s
  | .selfRefreshExit r => Sys2Proof.Machine.execSelfRefreshExit r s
  | .initDone => Sys2Proof.Machine.execInitDone s
  | .sramClearDone => Sys2Proof.Machine.execSramClearDone s
  | .sramAccessGrant reqs => Sys2Proof.Machine.execSramAccessGrant reqs s
  | .dmaStart port n => Sys2Proof.Machine.execDmaStart port n s
  | .dmaPause port n => Sys2Proof.Machine.execDmaPause port n s
  | .dmaUnpause port n => Sys2Proof.Machine.execDmaUnpause port n s
  | .dmaAbort port n => Sys2Proof.Machine.execDmaAbort port n s
  | .dmaChannelRun => Sys2Proof.Machine.execDmaChannelRun s
  | .dmaBurstDone n ecc => Sys2Proof.Machine.execDmaBurstDone n ecc s
  | .busTimeout n side => Sys2Proof.Machine.execBusTimeout n side s
  | .dmaBlockComplete n => Sys2Proof.Machine.execDmaBlockComplete n s
  | .dmaDescriptorLoad n ecc => Sys2Proof.Machine.execDmaDescriptorLoad n ecc s
  | .dmaCommitRequest n => Sys2Proof.Machine.execDmaCommitRequest n s
  | .dmaDoneClear port v => Sys2Proof.Machine.execDmaDoneClear port v s
  | .rbWrWrite port r v => Sys2Proof.Machine.execRbWrWrite port r v s
  | .rbGeometryWrite port r f v => Sys2Proof.Machine.execRbGeometryWrite port r f v s
  | .lineSegment p d => Sys2Proof.Machine.execLineSegment p d s
  | .absentLines p d => Sys2Proof.Machine.execAbsentLines p d s
  | .stagingSramWrite p d => Sys2Proof.Machine.execStagingSramWrite p d s
  | .segmentWriteDone r line seg => Sys2Proof.Machine.execSegmentWriteDone r line seg s
  | .rsGapTimeout r ecc => Sys2Proof.Machine.execRsGapTimeout r ecc s
  | .statusDatagram r => Sys2Proof.Machine.execStatusDatagram r s
  | .arpRequest p frame srcIp targetIp => Sys2Proof.Machine.execArpRequest p frame srcIp targetIp s
  | .neighbourSolicitation p frame srcIp targetIp => Sys2Proof.Machine.execNeighbourSolicitation p frame srcIp targetIp s
  | .linkDown p => Sys2Proof.Machine.execLinkDown p s
  | .fecUncorr p codewords => Sys2Proof.Machine.execFecUncorr p codewords s
  | .rsEnWrite port r v => Sys2Proof.Machine.execRsEnWrite port r v s
  | .ringFrameForward k f => Sys2Proof.Machine.execRingFrameForward k f s
  | .ringInjWait k => Sys2Proof.Machine.execRingInjWait k s
  | .ringDictRead req => Sys2Proof.Machine.execRingDictRead req s
  | .ringDictWrite req => Sys2Proof.Machine.execRingDictWrite req s
  | .announceSend => Sys2Proof.Machine.execAnnounceSend s
  | .announceReceive src nonce => Sys2Proof.Machine.execAnnounceReceive src nonce s
  | .annTimeout => Sys2Proof.Machine.execAnnTimeout s
  | .ringAbsent => Sys2Proof.Machine.execRingAbsent s
  | .laneDown k => Sys2Proof.Machine.execLaneDown k s
  | .ringHeal down => Sys2Proof.Machine.execRingHeal down s
  | .linkStateSend => Sys2Proof.Machine.execLinkStateSend s
  | .linkStateReceive k up => Sys2Proof.Machine.execLinkStateReceive k up s
  | .delayReqSend => Sys2Proof.Machine.execDelayReqSend s
  | .delayReqReceive k src seq t2 => Sys2Proof.Machine.execDelayReqReceive k src seq t2 s
  | .delayRespReceive k seq t2 t3 t4 => Sys2Proof.Machine.execDelayRespReceive k seq t2 t3 t4 s
  | .syncSend => Sys2Proof.Machine.execSyncSend s
  | .syncReceive k src seq hops origin correction ti => Sys2Proof.Machine.execSyncReceive k src seq hops origin correction ti s
  | .syncLost => Sys2Proof.Machine.execSyncLost s
  | .usdoDownload node index sub sizeGiven data => Sys2Proof.Machine.execUsdoDownload node index sub sizeGiven data s
  | .usdoUpload node index sub len => Sys2Proof.Machine.execUsdoUpload node index sub len s
  | .nmtStart => Sys2Proof.Machine.execNmtStart s
  | .nmtStop => Sys2Proof.Machine.execNmtStop s
  | .nmtEnterPreOperational => Sys2Proof.Machine.execNmtEnterPreOperational s
  | .nmtResetNode => Sys2Proof.Machine.execNmtResetNode s
  | .nmtResetCommunication => Sys2Proof.Machine.execNmtResetCommunication s
  | .heartbeat => Sys2Proof.Machine.execHeartbeat s
  | .busOffRecovery => Sys2Proof.Machine.execBusOffRecovery s
  | .lhpRead cmd => Sys2Proof.Machine.execLhpRead cmd s
  | .lhpWrite cmd => Sys2Proof.Machine.execLhpWrite cmd s
  | .configWrite port index sub ofs data => Sys2Proof.Machine.execConfigWrite port index sub ofs data s
  | .summaryRead port ofs len => Sys2Proof.Machine.execSummaryRead port ofs len s
  | .arm port arg => Sys2Proof.Machine.execArm port arg s
  | .start port arg => Sys2Proof.Machine.execStart port arg s
  | .pageStart c => Sys2Proof.Machine.execPageStart c s
  | .stop port arg => Sys2Proof.Machine.execStop port arg s
  | .haltEntry => Sys2Proof.Machine.execHaltEntry s
  | .abort port arg => Sys2Proof.Machine.execAbort port arg s
  | .release port arg => Sys2Proof.Machine.execRelease port arg s
  | .store port arg => Sys2Proof.Machine.execStore port arg s
  | .storeEnd verified => Sys2Proof.Machine.execStoreEnd verified s
  | .restore port => Sys2Proof.Machine.execRestore port s
  | .restoreDefaults port => Sys2Proof.Machine.execRestoreDefaults port s
  | .restoreEnd => Sys2Proof.Machine.execRestoreEnd s
  | .shutdown port => Sys2Proof.Machine.execShutdown port s
  | .shutdownImmediate port => Sys2Proof.Machine.execShutdownImmediate port s
  | .shutdownStepEnd => Sys2Proof.Machine.execShutdownStepEnd s
  | .shutdownBudget => Sys2Proof.Machine.execShutdownBudget s
  | .countedSettingWrite port index sub v => Sys2Proof.Machine.execCountedSettingWrite port index sub v s
  | .countedChangeDone index sub => Sys2Proof.Machine.execCountedChangeDone index sub s
  | .configCrcUpdate => Sys2Proof.Machine.execConfigCrcUpdate s
  | .faultMessage m => Sys2Proof.Machine.execFaultMessage m s
  | .reactionWindowEnd src => Sys2Proof.Machine.execReactionWindowEnd src s
  | .stickyClear port src v => Sys2Proof.Machine.execStickyClear port src v s
  | .clearAll port v => Sys2Proof.Machine.execClearAll port v s
  | .lostInReactionClear port v => Sys2Proof.Machine.execLostInReactionClear port v s
  | .aliveToggle => Sys2Proof.Machine.execAliveToggle s
  | .dieTempRound temp raw => Sys2Proof.Machine.execDieTempRound temp raw s
  | .dieTrip => Sys2Proof.Machine.execDieTrip s
  | .supplyWarn m mV => Sys2Proof.Machine.execSupplyWarn m mV s
  | .supplyRecover => Sys2Proof.Machine.execSupplyRecover s
  | .domReqWrite port d v => Sys2Proof.Machine.execDomReqWrite port d v s
  | .domPowerUpDone d bistFail => Sys2Proof.Machine.execDomPowerUpDone d bistFail s
  | .domFail d => Sys2Proof.Machine.execDomFail d s
  | .domPowerDownDone d => Sys2Proof.Machine.execDomPowerDownDone d s
  | .otpProgram port vppPin => Sys2Proof.Machine.execOtpProgram port vppPin s
  | .otpSeal port vppPin => Sys2Proof.Machine.execOtpSeal port vppPin s
  | .otpReinforce port vppPin => Sys2Proof.Machine.execOtpReinforce port vppPin s
  | .otpSense port => Sys2Proof.Machine.execOtpSense port s
  | .otpOpComplete failBit weak => Sys2Proof.Machine.execOtpOpComplete failBit weak s
  | .calCmd port v => Sys2Proof.Machine.execCalCmd port v s
  | .calStart k => Sys2Proof.Machine.execCalStart k s
  | .calComplete k res => Sys2Proof.Machine.execCalComplete k res s
  | .finupRun p => Sys2Proof.Machine.execFinupRun p s
  | .finupStop p => Sys2Proof.Machine.execFinupStop p s
  | .softTrig p => Sys2Proof.Machine.execSoftTrig p s
  | .resetBuf p => Sys2Proof.Machine.execResetBuf p s
  | .statusRead p => Sys2Proof.Machine.execStatusRead p s
  | .frameErrCntRead p => Sys2Proof.Machine.execFrameErrCntRead p s
  | .skipCntRead p => Sys2Proof.Machine.execSkipCntRead p s
  | .finupRegisterWrite p w v => Sys2Proof.Machine.execFinupRegisterWrite p w v s
  | .waveDataWrite p v => Sys2Proof.Machine.execWaveDataWrite p v s
  | .delayWrite p k v => Sys2Proof.Machine.execDelayWrite p k v s
  | .finupImageFrame p frame payload => Sys2Proof.Machine.execFinupImageFrame p frame payload s
  | .endOfPage p => Sys2Proof.Machine.execEndOfPage p s
  | .loadReady p => Sys2Proof.Machine.execLoadReady p s
  | .prbsSelWrite port v => Sys2Proof.Machine.execPrbsSelWrite port v s
  | .laneUp k => Sys2Proof.Machine.execLaneUp k s
  | .linkUp p anDone => Sys2Proof.Machine.execLinkUp p anDone s
  | .driveBlockLockLost c => Sys2Proof.Machine.execDriveBlockLockLost c s
  | .canBusError tec rec => Sys2Proof.Machine.execCanBusError tec rec s
  | .lhpRegisterWrite reg v => Sys2Proof.Machine.execLhpRegisterWrite reg v s
  | .prbsLock errors => Sys2Proof.Machine.execPrbsLock errors s

end Sys2Proof.Machine
end

