-- ==== Sys2Proof/Machine/Tick.lean ====
section
/-!
DEFINITION. What the end of a TICK does of itself: due table swaps, lines known to be absent, self-refresh entries, gaps of the
ring lanes, the event of a change of the flags, and the count of TIME.
-/
namespace Sys2Proof.Machine

/-- The FLAGS event: bits [15:10] of DEV_FLAGS have changed in this TICK (R470). -/
def flagsEvent (s : State) : State :=
  let f := flagsHigh s
  if f = s.flagsSeen then s else maskedEvent { s with flagsSeen := f } 2 0x2000 2 (devFlags s)

/-- The gaps of both rings' OUT lanes (R407). -/
def drainLanes (s : State) : State := if ringOn s then drainLane (drainLane s 0) 1 else s

/-- What is due in the TICK's own right (R22, R106, R136, R301, R303, R315, R331, R384, R407, R470, R559, R570; log entries 1, 24, 38). -/
def tickWork (s : State) : State :=
  flagsEvent (keepLeftOut (restPin (drainLanes (enterSelfRefresh (assignSpares (initStep (personaPitch (absentSteps (idleSwaps (retryWrites (vernStep s)))))))))))

/-- The count of the TICK: TIME advances by 32 periods while DOM_10 is on (R27, R73), and what acted in the TICK is forgotten
(R37). -/
def countTick (s : State) : State :=
  { s with tick := s.tick + 1, acted := [], was := [], time := if s.domOn 10 then wrap48 (s.time + 32) else s.time }

/-- The end of a TICK (DESIGN CHOICE, log entry 1); the Lathe's samples that wait go on (R278). -/
def endTick (s : State) : State := latheTick (countTick (tickWork s))

end Sys2Proof.Machine
end

