-- ==== Sys2Proof/Machine/Order.lean ====
section
/-!
DEFINITION. The order in which the events of one TICK are applied: their precedence (R37), and between events of equal
precedence the port of a command and the fault source of a hardware event (R43). `State.sample` puts an event at its place
among those that wait.
-/
namespace Sys2Proof.Machine

/-! ### Precedence -/

/-- Precedence of a write of a value to an entry (R350, R356, R357, R450, R467, R560): COMMAND by its command. -/
def writePrec (key v : Nat) : Nat :=
  if key = E.command.k0 then
    match v / 2 ^ 40 with
    | 0x01 | 0x02 => 7
    | 0x03 | 0x04 | 0x20 => 5
    | 0xF0 => 1
    | _ => 8
  else match rowOf key with
    | none => 8
    | some (r, _, _) =>
      if r.k0 = E.abort.k0 ∧ v = 1 then 5
      else if r.k0 = E.pause.k0 ∧ v = 1 then 6
      else if (r.k0 = E.start.k0 ∧ v = 1) ∨ r.k0 = E.calCmd.k0 ∨ r.k0 = E.loopCmd.k0 then 7
      else 8

/-- Precedence of a read: SUMMARY is a snapshot of the end of the TICK (R485); for another read no rule gives one, and it stands
with the writes (DESIGN CHOICE, log entry 1). -/
def readPrec (key : Nat) : Nat := if key = E.summary.k0 then 10 else 8

/-- Precedence of a message (R493): that of the class configured for its kind. -/
def messagePrec (s : State) (m : FaultMsg) : Nat :=
  let k := classOf s m.src m.kind
  if k ≤ 1 then 9 else if k = 2 then 3 else 5

/-- Precedence of an access that LHP_CMD starts. -/
def lhpPrec (s : State) (cmd : Nat) : Nat :=
  if cmd % 16 = 2 then writePrec (lhpKey s.lhp) (ofBytes (lhpTaken (lhpKey s.lhp) s.lhp)) else readPrec (lhpKey s.lhp)

/-- The precedence of an event in a state (R37): 1 reset, 2 trip or supply reset, 3 fence, 4 completion, 5 abort or stop,
6 pause, 7 start, 8 configuration write, 9 informational. A read that clears comes before every event of its TICK (R577). An
event that no rule classes stands as completion when an operation ends with it, as start when one begins, else as
informational (DESIGN CHOICE, log entry 1). -/
def precedence (s : State) : Instr → Nat
  | .statusRead _ | .frameErrCntRead _ | .skipCntRead _ => 0
  | .powerOnReset _ | .clockFault | .watchdogExpiry | .resetN _ | .reset _ _ => 1
  | .supplyReset _ _ | .dieTrip => 2
  | .otpSensingDone _ | .bootFirmwareDone _ _ _ | .configToReady _ | .lineFire _ | .feedLineReady _ _ | .foldDone _
  | .shadowSyncDone _ _ | .takeoverCopyDone _ _ | .learnScanEnd _ | .logWrite | .memoryReadDone _ _ _
  | .spareBringupDone _ _ | .migPageSwitch _ | .migrationEnd | .selfRefreshExit _ | .initDone | .sramClearDone
  | .dmaBurstDone _ _ | .dmaBlockComplete _ | .dmaDescriptorLoad _ _ | .segmentWriteDone _ _ _ | .haltEntry | .storeEnd _
  | .restoreEnd | .shutdownStepEnd | .countedChangeDone _ _ | .reactionWindowEnd _ | .domPowerUpDone _ _
  | .domPowerDownDone _ | .otpOpComplete _ _ | .calComplete _ _ | .loadReady _ => 4
  | .stop _ _ | .abort _ _ | .shutdown _ | .shutdownImmediate _ | .shutdownBudget | .dmaAbort _ _ | .finupStop _ => 5
  | .dmaPause _ _ | .headCareRound => 6
  | .triggerEdge _ _ _ | .lineLock _ | .buildStart _ | .feedFetch _ | .loopHandover _ _ | .loopHold _ _ | .loopRelease _ _
  | .dmaStart _ _ | .dmaChannelRun | .dmaCommitRequest _ | .arm _ _ | .start _ _ | .pageStart _ | .calCmd _ _ | .calStart _
  | .finupRun _ | .softTrig _ => 7
  | .changeover _ _ | .srcPrimaryWrite _ _ | .srcSecondaryWrite _ _ | .encConfigWrite _ _ _ _ | .ringPosNodeWrite _ _
  | .speedLimFreqWrite _ _ | .stitchCommit _ _ | .shapeCommit _ _ | .tileCommit _ _ | .waveCommit _ _
  | .takeoverCommand _ _ | .learnStart _ _ | .learnCancel _ _ | .healthEnWrite _ _ _ | .healthMapWrite _ _ _ _
  | .logEnWrite _ _ | .loopEnWrite _ _ _ | .sectionWrite _ _ _ _ _ | .map _ | .unmap _ | .retire _ | .clearPoison _
  | .dmaUnpause _ _ | .dmaDoneClear _ _ | .rbWrWrite _ _ _ | .rbGeometryWrite _ _ _ _ | .rsEnWrite _ _ _ | .nmtStart
  | .nmtStop | .nmtEnterPreOperational | .nmtResetNode | .nmtResetCommunication | .release _ _ | .store _ _ | .restore _
  | .restoreDefaults _ | .countedSettingWrite _ _ _ _ | .stickyClear _ _ _ | .clearAll _ _ | .lostInReactionClear _ _
  | .domReqWrite _ _ _ | .otpProgram _ _ | .otpSeal _ _ | .otpReinforce _ _ | .otpSense _ | .resetBuf _
  | .finupRegisterWrite _ _ _ | .waveDataWrite _ _ | .delayWrite _ _ _ | .prbsSelWrite _ _ => 8
  | .configWrite _ index sub _ data => writePrec (index % 65536 * 256 + sub % 256) (ofBytes data)
  | .ringDictWrite q => writePrec (reqKey q) (ofBytes q.data)
  | .usdoDownload _ index sub _ data =>
    let key := index % 65536 * 256 + sub % 256
    writePrec key (ofBytes (canOrder key data))
  | .ringDictRead q => readPrec (reqKey q)
  | .usdoUpload _ index sub _ => readPrec (index % 65536 * 256 + sub % 256)
  | .summaryRead _ _ _ => 10
  | .lhpRead cmd | .lhpWrite cmd => lhpPrec s cmd
  | .lhpRegisterWrite reg v => if reg = 7 then lhpPrec s v else 8
  | .faultMessage m => messagePrec s m
  | .rootPllLock | .encoderEdge _ _ _ _ _ | .encTimeout _ | .ringPosSample _ _ _ _ _ | .ringPosStale | .ringPosPublish
  | .observerSample | .coastLimit | .planningInterval | .speedLimPeriod | .feedTimeout _ | .idleFrameHeader _
  | .backchannelFrame _ _ | .backchannelSilent _ | .driveFrameOut _ | .driveFrameIn _ _ _ | .probeScore _ _
  | .loopSample _ _ _ | .mr4Poll _ _ _ _ | .patrolScrub _ _ _ _ | .pdTimer _ | .srTimer _ | .sramAccessGrant _
  | .busTimeout _ _ | .lineSegment _ _ | .absentLines _ _ | .stagingSramWrite _ _ | .rsGapTimeout _ _ | .statusDatagram _
  | .arpRequest _ _ _ _ | .neighbourSolicitation _ _ _ _ | .linkDown _ | .fecUncorr _ _ | .ringFrameForward _ _
  | .ringInjWait _ | .announceSend | .announceReceive _ _ | .annTimeout | .ringAbsent | .laneDown _ | .ringHeal _
  | .linkStateSend | .linkStateReceive _ _ | .delayReqSend | .delayReqReceive _ _ _ _ | .delayRespReceive _ _ _ _ _
  | .syncSend | .syncReceive _ _ _ _ _ _ _ | .syncLost | .heartbeat | .busOffRecovery | .configCrcUpdate | .aliveToggle
  | .dieTempRound _ _ | .supplyWarn _ _ | .supplyRecover | .domFail _ | .finupImageFrame _ _ _ | .endOfPage _ | .laneUp _
  | .linkUp _ _ | .driveBlockLockLost _ | .canBusError _ _ | .prbsLock _ => 9

/-! ### Ports and sources -/

/-- The port order of R43. -/
def portRank : Port → Nat
  | .ringA => 0
  | .ringB => 1
  | .canFd => 2
  | .lhp => 3
  | .fw => 4

/-- The port that a command arrives on; none for a hardware event. -/
def portOf : Instr → Option Port
  | .reset p _ | .changeover p _ | .srcPrimaryWrite p _ | .srcSecondaryWrite p _ | .encConfigWrite p _ _ _
  | .ringPosNodeWrite p _ | .speedLimFreqWrite p _ | .stitchCommit p _ | .shapeCommit p _ | .tileCommit p _ | .waveCommit p _
  | .takeoverCommand p _ | .learnStart p _ | .learnCancel p _ | .healthEnWrite p _ _ | .healthMapWrite p _ _ _
  | .logEnWrite p _ | .loopHandover p _ | .loopHold p _ | .loopRelease p _ | .loopEnWrite p _ _ | .sectionWrite p _ _ _ _
  | .map p | .unmap p | .retire p | .clearPoison p | .dmaStart p _ | .dmaPause p _ | .dmaUnpause p _ | .dmaAbort p _
  | .dmaDoneClear p _ | .rbWrWrite p _ _ | .rbGeometryWrite p _ _ _ | .rsEnWrite p _ _ | .configWrite p _ _ _ _
  | .summaryRead p _ _ | .arm p _ | .start p _ | .stop p _ | .abort p _ | .release p _ | .store p _ | .restore p
  | .restoreDefaults p | .shutdown p | .shutdownImmediate p | .countedSettingWrite p _ _ _ | .stickyClear p _ _
  | .clearAll p _ | .lostInReactionClear p _ | .domReqWrite p _ _ | .otpProgram p _ | .otpSeal p _ | .otpReinforce p _
  | .otpSense p | .calCmd p _ | .prbsSelWrite p _ => some p
  | .ringDictRead q | .ringDictWrite q => some (reqPort q)
  | .usdoDownload _ _ _ _ _ | .usdoUpload _ _ _ _ | .nmtStart | .nmtStop | .nmtEnterPreOperational | .nmtResetNode
  | .nmtResetCommunication => some .canFd
  | .lhpRead _ | .lhpWrite _ | .lhpRegisterWrite _ _ | .finupRun _ | .finupStop _ | .softTrig _ | .resetBuf _
  | .statusRead _ | .frameErrCntRead _ | .skipCntRead _ | .finupRegisterWrite _ _ _ | .waveDataWrite _ _
  | .delayWrite _ _ _ => some .lhp
  | _ => none

/-- The fault source ID of the unit that a hardware event belongs to (R43, R491), with a place behind it for the parts of one
unit: rank 0 of a DRAM channel before rank 1 (R315). -/
def sourceOf (s : State) : Instr → Nat × Nat
  | .faultMessage m => (m.src, 0)
  | .lineLock c | .lineFire c | .buildStart c | .feedFetch c | .feedLineReady c _ | .feedTimeout c | .idleFrameHeader c
  | .backchannelFrame c _ | .backchannelSilent c | .driveFrameOut c | .driveFrameIn c _ _ | .driveBlockLockLost c
  | .pageStart c => (reporter s c, 0)
  | .foldDone e | .shadowSyncDone e _ | .probeScore e _ | .learnScanEnd e => (e, 0)
  | .takeoverCopyDone g _ => (96 + g, 0)
  | .mr4Poll r _ _ _ | .patrolScrub r _ _ _ | .pdTimer r | .srTimer r | .selfRefreshExit r => (0x70 + r.1.val, r.2.val)
  | .memoryReadDone a _ _ => (0x70 + pRank (pageEntry s (a / pageSize)) / 2, 0)
  | .spareBringupDone _ _ | .migPageSwitch _ | .migrationEnd => (0x74, 0)
  | .initDone => (0x78, 0)
  | .dmaBurstDone n _ | .busTimeout n _ | .dmaBlockComplete n | .dmaDescriptorLoad n _ | .dmaCommitRequest n => (0x80 + n, 0)
  | .dmaChannelRun => (0x90, 0)
  | .lineSegment p _ | .absentLines p _ | .stagingSramWrite p _ | .arpRequest p _ _ _ | .neighbourSolicitation p _ _ _
  | .linkDown p | .linkUp p _ | .fecUncorr p _ => (0xA0 + p, 0)
  | .segmentWriteDone _ _ _ | .rsGapTimeout _ _ | .statusDatagram _ | .finupImageFrame _ _ _ | .endOfPage _ | .loadReady _ =>
    (0xA0, 0)
  | .ringFrameForward i _ | .ringInjWait i | .laneDown i | .laneUp i | .linkStateReceive i _ | .delayReqReceive i _ _ _
  | .delayRespReceive i _ _ _ _ | .syncReceive i _ _ _ _ _ _ => (0xA8 + i, 0)
  | .loopSample _ _ _ | .logWrite => (0xB0, 0)
  | .encoderEdge n _ _ _ _ | .encTimeout n => (0xB8, n)
  | .triggerEdge n _ _ => (0xB8, n)
  | .sramAccessGrant _ | .sramClearDone => (0xC0, 0)
  | .otpSensingDone _ | .otpOpComplete _ _ | .countedChangeDone _ _ => (0xC8, 0)
  | .dieTempRound _ _ | .dieTrip => (0xD0, 0)
  | .supplyWarn m _ | .supplyReset m _ | .domPowerUpDone m _ | .domFail m | .domPowerDownDone m => (0xD1 + m, 0)
  | .calStart k | .calComplete k _ => (0xF0, k)
  | .ringPosSample _ _ _ _ _ | .ringPosStale | .ringPosPublish | .observerSample | .coastLimit | .planningInterval
  | .speedLimPeriod | .headCareRound => (0xB8, 8)
  | _ => (0xE0, 0)

/-- The place of an event among those of its TICK: precedence, then a command's port or a hardware event's source (R37, R43).
Between a command and a hardware event of equal precedence no rule decides: the command comes first (DESIGN CHOICE, log
entry 1). -/
def order (s : State) (c : Instr) : Nat :=
  precedence s c * 8192 +
    match portOf c with
    | some p => portRank p
    | none => 8 + (sourceOf s c).1 % 256 * 16 + (sourceOf s c).2 % 16

/-! ### Sampling -/

/-- A list of events with one more, behind those that are not to be applied after it. -/
def place (f : Instr → Nat) (c : Instr) : List Instr → List Instr
  | [] => [c]
  | d :: l => if f d ≤ f c then d :: place f c l else c :: d :: l

/-- An event is sampled in the present TICK: it waits at its place among the events of the TICK (R36 to R38, R43). -/
def State.sample (s : State) (c : Instr) : State := { s with pending := place (order s) c s.pending }

/-- The events of a TICK are sampled. -/
def State.sampleAll (s : State) (l : List Instr) : State := l.foldl State.sample s

end Sys2Proof.Machine
end

