-- ==== Sys2Proof/WellFormed.lean ====
section
/-!
DEFINITION. Which commands are well formed: every operand fits the field that carries it on its port, link or bus.
-/
namespace Sys2Proof

def w4 (x : Nat) : Bool := decide (x < 2 ^ 4)
def w7 (x : Nat) : Bool := decide (x < 2 ^ 7)
def w8 (x : Nat) : Bool := decide (x < 2 ^ 8)
def w16 (x : Nat) : Bool := decide (x < 2 ^ 16)
def w32 (x : Nat) : Bool := decide (x < 2 ^ 32)
def w48 (x : Nat) : Bool := decide (x < 2 ^ 48)
def w56 (x : Nat) : Bool := decide (x < 2 ^ 56)
def w64 (x : Nat) : Bool := decide (x < 2 ^ 64)
def i16 (x : Int) : Bool := decide (-2 ^ 15 ≤ x ∧ x < 2 ^ 15)
def i48 (x : Int) : Bool := decide (-2 ^ 47 ≤ x ∧ x < 2 ^ 47)
def i64 (x : Int) : Bool := decide (-2 ^ 63 ≤ x ∧ x < 2 ^ 63)

/-- A fault message (R490): the fields' widths, and a kind of 0 is never sent. -/
def faultMsgWf (m : FaultMsg) : Bool := w8 m.src && w4 m.kind && decide (0 < m.kind) && w48 m.addr

/-- A frame (R378): the widths of its addresses. -/
def frameWf (f : Frame) : Bool := w48 f.dstMac && w48 f.srcMac

/-- A datagram (R378, R381): the widths of its context, two addresses of one protocol, and data that fit its frame. -/
def datagramWf (d : Datagram) : Bool :=
  frameWf d.frame && w16 d.dstPort && w16 d.srcPort && (d.srcIp.length == 4 || d.srcIp.length == 16) &&
    d.dstIp.length == d.srcIp.length && decide (d.payload.length ≤ d.frame.size)

/-- A Darine frame (R402): 16 to 272 bytes. -/
def ringFrameWf (f : RingFrame) : Bool :=
  decide (16 ≤ f.bytes.length ∧ f.bytes.length ≤ 272) && w56 f.arrival

/-- A dictionary request of the ring (R410). -/
def ringReqWf (r : RingReq) : Bool :=
  w16 r.src && w16 r.seq && w16 r.index && w8 r.sub && w32 r.ofs && decide (r.dlen ≤ 1024) &&
    decide (r.data.length ≤ 240)

/-- A request to the staging SRAM port (R335): at most 32 bytes. -/
def sramReqWf (r : SramReq) : Bool :=
  w48 r.addr && decide (r.len ≤ 32) && (match r.data with | none => true | some d => decide (d.length ≤ 32))

/-- Rows of a calibration result fit their entries. -/
def calWf (r : CalResult) : Bool :=
  r.rows.all (fun x => w16 x.1 && w32 x.2.1 && w16 x.2.2.1 && w16 x.2.2.2)

/-- Header fields of a patch (R556). -/
def patchWf (p : Patch) : Bool := w32 p.magic && w16 p.version && w16 p.romVer

/-- Every operand of a command fits the field that carries it. -/
def Instr.wf : Instr → Bool
  | .powerOnReset _ => true
  | .otpSensingDone weak => decide (weak.Nodup)
  | .rootPllLock => true
  | .bootFirmwareDone patch _ bistFail => (match patch with | none => true | some p => patchWf p) && decide (bistFail.Nodup)
  | .configToReady dram => decide (dram.failed.Nodup)
  | .clockFault => true
  | .supplyReset _ _ => true
  | .watchdogExpiry => true
  | .resetN _ => true
  | .reset _ arg => w32 arg
  | .encoderEdge _ _ _ _ t => w48 t
  | .encTimeout _ => true
  | .triggerEdge _ _ t => w48 t
  | .ringPosSample node seq pos vel stime => w16 node && w16 seq && w48 pos && i48 vel && w48 stime
  | .ringPosStale => true
  | .ringPosPublish => true
  | .observerSample => true
  | .coastLimit => true
  | .changeover _ v => w48 v
  | .srcPrimaryWrite _ v => w48 v
  | .srcSecondaryWrite _ v => w48 v
  | .encConfigWrite _ _ _ v => w48 v
  | .ringPosNodeWrite _ v => w48 v
  | .lineLock _ => true
  | .lineFire _ => true
  | .planningInterval => true
  | .speedLimPeriod => true
  | .speedLimFreqWrite _ v => w48 v
  | .buildStart _ => true
  | .feedFetch _ => true
  | .feedLineReady _ _ => true
  | .feedTimeout _ => true
  | .stitchCommit _ _ => true
  | .shapeCommit _ _ => true
  | .tileCommit _ _ => true
  | .waveCommit _ _ => true
  | .foldDone _ => true
  | .shadowSyncDone _ _ => true
  | .takeoverCopyDone _ _ => true
  | .takeoverCommand _ _ => true
  | .idleFrameHeader _ => true
  | .backchannelFrame _ bytes => decide (bytes.length ≤ 64)
  | .backchannelSilent _ => true
  | .driveFrameOut _ => true
  | .driveFrameIn _ bytes t => decide (bytes.length ≤ 256) && w48 t
  | .headCareRound => true
  | .probeScore _ _ => true
  | .learnStart _ _ => true
  | .learnCancel _ _ => true
  | .learnScanEnd _ => true
  | .healthEnWrite _ _ v => w48 v
  | .healthMapWrite _ _ ofs data => w32 ofs && decide (data.length ≤ 131072)
  | .loopSample _ _ _ => true
  | .logWrite => true
  | .logEnWrite _ v => w48 v
  | .loopHandover _ _ => true
  | .loopHold _ _ => true
  | .loopRelease _ _ => true
  | .loopEnWrite _ _ v => w48 v
  | .sectionWrite _ _ sub ofs data => w8 sub && w32 ofs && decide (data.length ≤ 131072)
  | .mr4Poll _ rate _ _ => w8 rate
  | .memoryReadDone addr _ _ => w48 addr
  | .patrolScrub _ _ _ _ => true
  | .spareBringupDone _ _ => true
  | .migPageSwitch badBlocks => decide (badBlocks.Nodup)
  | .migrationEnd => true
  | .map _ => true
  | .unmap _ => true
  | .retire _ => true
  | .clearPoison _ => true
  | .pdTimer _ => true
  | .srTimer _ => true
  | .selfRefreshExit _ => true
  | .initDone => true
  | .sramClearDone => true
  | .sramAccessGrant reqs => reqs.all sramReqWf
  | .dmaStart _ _ => true
  | .dmaPause _ _ => true
  | .dmaUnpause _ _ => true
  | .dmaAbort _ _ => true
  | .dmaChannelRun => true
  | .dmaBurstDone _ _ => true
  | .busTimeout _ _ => true
  | .dmaBlockComplete _ => true
  | .dmaDescriptorLoad _ _ => true
  | .dmaCommitRequest _ => true
  | .dmaDoneClear _ v => w48 v
  | .rbWrWrite _ _ v => w48 v
  | .rbGeometryWrite _ _ _ v => w48 v
  | .lineSegment _ d => datagramWf d
  | .absentLines _ d => datagramWf d
  | .stagingSramWrite _ d => datagramWf d
  | .segmentWriteDone _ line seg => w32 line && w16 seg
  | .rsGapTimeout _ _ => true
  | .statusDatagram _ => true
  | .arpRequest _ frame srcIp targetIp => frameWf frame && w32 srcIp && w32 targetIp
  | .neighbourSolicitation _ frame srcIp targetIp => frameWf frame && srcIp.length == 16 && targetIp.length == 16
  | .linkDown _ => true
  | .fecUncorr _ _ => true
  | .rsEnWrite _ _ v => w48 v
  | .ringFrameForward _ f => ringFrameWf f
  | .ringInjWait _ => true
  | .ringDictRead req => ringReqWf req
  | .ringDictWrite req => ringReqWf req
  | .announceSend => true
  | .announceReceive src nonce => w16 src && w32 nonce
  | .annTimeout => true
  | .ringAbsent => true
  | .laneDown _ => true
  | .ringHeal _ => true
  | .linkStateSend => true
  | .linkStateReceive _ _ => true
  | .delayReqSend => true
  | .delayReqReceive _ src seq t2 => w16 src && w16 seq && w64 t2
  | .delayRespReceive _ seq t2 t3 t4 => w16 seq && w64 t2 && w64 t3 && w64 t4
  | .syncSend => true
  | .syncReceive _ src seq hops origin correction ti => w16 src && w16 seq && w16 hops && w56 origin && i64 correction && w56 ti
  | .syncLost => true
  | .usdoDownload node index sub _ data => w7 node && w16 index && w8 sub && decide (data.length ≤ 131072)
  | .usdoUpload node index sub len => w7 node && w16 index && w8 sub && w16 len
  | .nmtStart => true
  | .nmtStop => true
  | .nmtEnterPreOperational => true
  | .nmtResetNode => true
  | .nmtResetCommunication => true
  | .heartbeat => true
  | .busOffRecovery => true
  | .lhpRead cmd => w16 cmd
  | .lhpWrite cmd => w16 cmd
  | .configWrite _ index sub ofs data => w16 index && w8 sub && w32 ofs && decide (data.length ≤ 131072)
  | .summaryRead _ ofs len => w32 ofs && w16 len
  | .arm _ arg => w32 arg
  | .start _ arg => w32 arg
  | .pageStart _ => true
  | .stop _ arg => w32 arg
  | .haltEntry => true
  | .abort _ arg => w32 arg
  | .release _ arg => w32 arg
  | .store _ arg => w32 arg
  | .storeEnd _ => true
  | .restore _ => true
  | .restoreDefaults _ => true
  | .restoreEnd => true
  | .shutdown _ => true
  | .shutdownImmediate _ => true
  | .shutdownStepEnd => true
  | .shutdownBudget => true
  | .countedSettingWrite _ index sub v => w16 index && w8 sub && w48 v
  | .countedChangeDone index sub => w16 index && w8 sub
  | .configCrcUpdate => true
  | .faultMessage m => faultMsgWf m
  | .reactionWindowEnd src => w8 src
  | .stickyClear _ src v => w8 src && w48 v
  | .clearAll _ v => w48 v
  | .lostInReactionClear _ v => w48 v
  | .aliveToggle => true
  | .dieTempRound temp raw => i16 temp && w16 raw
  | .dieTrip => true
  | .supplyWarn _ mV => w16 mV
  | .supplyRecover => true
  | .domReqWrite _ _ v => w48 v
  | .domPowerUpDone _ bistFail => decide (bistFail.Nodup)
  | .domFail _ => true
  | .domPowerDownDone _ => true
  | .otpProgram _ _ => true
  | .otpSeal _ _ => true
  | .otpReinforce _ _ => true
  | .otpSense _ => true
  | .otpOpComplete _ _ => true
  | .calCmd _ v => w48 v
  | .calStart _ => true
  | .calComplete _ res => calWf res
  | .finupRun _ => true
  | .finupStop _ => true
  | .softTrig _ => true
  | .resetBuf _ => true
  | .statusRead _ => true
  | .frameErrCntRead _ => true
  | .skipCntRead _ => true
  | .finupRegisterWrite _ _ v => w16 v
  | .waveDataWrite _ v => w16 v
  | .delayWrite _ _ v => w16 v
  | .finupImageFrame _ frame payload => frameWf frame && decide (payload.length ≤ frame.size)
  | .endOfPage _ => true
  | .loadReady _ => true
  | .prbsSelWrite _ v => w48 v
  | .laneUp _ => true
  | .linkUp _ _ => true
  | .driveBlockLockLost _ => true
  | .canBusError tec rec => w16 tec && w16 rec
  | .lhpRegisterWrite _ v => w16 v
  | .prbsLock _ => true

end Sys2Proof
end

