-- ==== Sys2Proof/Safety.lean ====
section
/-!
DEFINITION. What counts as a safe step and a sound state, and what claims say of a write on a port, in the terms that claims
use.
-/
namespace Sys2Proof.Machine

/-- A step that goes on. -/
def goesOn (o : Host.Outcome State Fault Refusal) : Prop := ∃ t, o = .next t

/-- The command answers a next state, and that state is as `P` says. -/
def Gives (c : Instr) (s : State) (P : State → Prop) : Prop := ∃ t, exec c s = .next t ∧ P t

/-- The block's byte memories are in canonical form. -/
def State.memWf (s : State) : Bool := Memory.wf s.mem

/-- TIME is a count of 48 bits (R73). -/
def State.timeWf (s : State) : Bool := decide (s.time < 2 ^ 48)

/-- The dictionary lists its keys in rising order. -/
def State.dictWf (s : State) : Bool := decide ((s.dict.map Prod.fst).Pairwise (· < ·))

/-- No entry outside `keys` has another value, and no byte of any memory has changed. -/
def SameBut (s t : State) (keys : List Nat) : Prop :=
  (∀ r i j, rowKey r i j ∉ keys → t.rd r i j = s.rd r i j) ∧ ∀ a, t.byte a = s.byte a

/-- A write of value v to the entry of row r, unit i, subindex j passes: the port carries accesses, nothing in this TICK
has superseded it (`late`), and every check of R449 passes. -/
def Accepted (s : State) (p : Port) (late : Bool) (r : Row) (i j : Nat) (v : Int) : Prop :=
  portUp s p = true ∧ late = false ∧ checkWrite s r i j v = none

/-- The state with CONFIG_CRC stale or not (R484). -/
def State.withStale (s : State) (b : Bool) : State := { s with store := { s.store with crcStale := b } }

/-- Both rings carry this node's frames at once: its lanes are powered, neither side is wrapped, no frame has left or waits in
this TICK, and no test pattern replaces them (R407, R422, R612). -/
def RingsFree (s : State) : Prop :=
  ringOn s = true ∧ s.ring.wrapUp = false ∧ s.ring.wrapDown = false ∧
    ∀ i, i ≤ 1 → (s.lane i).busy = false ∧ (s.lane i).inj = false ∧ (s.lane i).own = [] ∧ prbsOnRing s i = false

/-- The entries of a group's heater loops that switching them off writes; none for a domain that is no group's (R275). -/
def heaterKeys (d : Nat) : List Nat :=
  if 6 ≤ d ∧ d ≤ 9 then (List.range 24).flatMap (fun k =>
    [E.refTarget, E.output, E.y1, E.y2, E.hofs, E.refNow].map (fun r => rowKey r (98 + 24 * (d - 6) + k) 0)) else []

/-- r_buf of R223 as the target takes it: 0 while no job is under way. -/
def rateOfBufferOrZero (s : State) : Nat := if s.busyJob then rateOfBuffer s (linesAhead s) else 0

/-- The state that a reset leaves: BOOT, RESET_CAUSE and SUPPLY_LAST as given, every other entry at its default, every byte at
what it reads as unlisted, no unit with anything in it; the queue, the fuses' programmed bits and the parameter slots stay. -/
def AfterReset (s t : State) (cause low : Int) : Prop :=
  t.dev = .boot ∧ t.rd E.resetCause = cause ∧ t.rd E.supplyLast = low ∧
    (∀ r i j, rowKey r i j ∉ [rowKey E.resetCause 0 0, rowKey E.supplyLast 0 0] → t.rd r i j = r.dflt i j) ∧
    (∀ a, t.byte a = memDefault a) ∧ t.time = 0 ∧ t.faultQ = [] ∧ t.chans = [] ∧ t.engs = [] ∧ t.doms = [] ∧
    t.pending = s.pending ∧ t.store.slotA = s.store.slotA ∧ t.store.slotB = s.store.slotB ∧
    ∀ w b, (fuseWord s w).data.testBit b = true → (fuseWord t w).data.testBit b = true

/-- Two states agree on all that an event and a change of the device state leave: everything but DEV_STATE, the output
trace, the event log, EVENT_SEQ, and the frames of the ring's lanes and their counts. -/
structure SameExceptEvents (s t : State) : Prop where
  pending : t.pending = s.pending
  tick : t.tick = s.tick
  time : t.time = s.time
  acted : t.acted = s.acted
  was : t.was = s.was
  fresh : t.fresh = s.fresh
  flagsSeen : t.flagsSeen = s.flagsSeen
  leftOut : t.leftOut = s.leftOut
  clkRoot : t.clkRoot = s.clkRoot
  straps : t.straps = s.straps
  mem : t.mem = s.mem
  encs : t.encs = s.encs
  trigs : t.trigs = s.trigs
  ringPos : t.ringPos = s.ringPos
  obs : t.obs = s.obs
  chans : t.chans = s.chans
  engs : t.engs = s.engs
  secs : t.secs = s.secs
  loops : t.loops = s.loops
  lathe : t.lathe = s.lathe
  dmas : t.dmas = s.dmas
  streams : t.streams = s.streams
  ports : t.ports = s.ports
  ring : t.ring = s.ring
  can : t.can = s.can
  lhp : t.lhp = s.lhp
  snaps : t.snaps = s.snaps
  memory : t.memory = s.memory
  logQ : t.logQ = s.logQ
  logSeq : t.logSeq = s.logSeq
  logAt : t.logAt = s.logAt
  gov : t.gov = s.gov
  job : t.job = s.job
  faultQ : t.faultQ = s.faultQ
  windows : t.windows = s.windows
  alive : t.alive = s.alive
  die : t.die = s.die
  shut : t.shut = s.shut
  sup : t.sup = s.sup
  doms : t.doms = s.doms
  otp : t.otp = s.otp
  store : t.store = s.store
  cals : t.cals = s.cals
  vern : t.vern = s.vern
  personas : t.personas = s.personas
  rd : ∀ r i j, rowKey r i j ∉ [rowKey E.eventSeq 0 0, rowKey E.txFrames 0 0, rowKey E.txFrames 1 0] →
    t.rd r i j = s.rd r i j

end Sys2Proof.Machine
end

