-- ==== Sys2Proof/Certificates/Slice0/Obligations.lean ====
section
/-!
DEFINITION. The statements for the provers, family by family in the order of spec/opcode_table.json: the step and the form of the
state first, then what each command does, in which states it does it, and what it leaves unchanged.
-/
open Sys2Proof Sys2Proof.Machine

/-! ### The step -/

/-- A step takes the command at the front of the queue and runs it with the queue's rest. Every command answers a next state,
but a grant of the staging SRAM that names an address outside it. An event that is sampled joins the queue, and a queue that
stands in the order of R37 and R43 stays in it: precedence, then the port of a command or the source of a hardware event (log
entry 1). -/
def Obligations.StepRunsFrontCommand : Prop :=
  (∀ (c : Instr) (rest : List Instr) (s : State), s.pending = c :: rest → step s = exec c { s with pending := rest }) ∧
  (∀ (c : Instr) (s : State), (∀ l, c ≠ .sramAccessGrant l) → ∃ t, exec c s = .next t) ∧
  ∀ (c : Instr) (s : State), (s.sample c).pending.Perm (c :: s.pending) ∧ { s.sample c with pending := s.pending } = s ∧
    (s.pending.Pairwise (fun a b => order s a ≤ order s b) →
      (s.sample c).pending.Pairwise (fun a b => order (s.sample c) a ≤ order (s.sample c) b)) ∧
    (∀ a b : Instr, precedence s a < precedence s b → order s a < order s b) ∧
    (∀ a b p q, precedence s a = precedence s b → portOf a = some p → portOf b = some q → portRank p < portRank q →
      order s a < order s b) ∧
    ∀ a b : Instr, precedence s a = precedence s b → portOf a = none → portOf b = none →
      (sourceOf s a).1 < (sourceOf s b).1 → (sourceOf s b).1 < 256 → order s a < order s b

/-- On an empty queue the TICK ends: the TICK is counted, TIME advances by 32 periods of CLK_FIRE while DOM_10 is on (R27,
R73), and no unit counts as acted on (log entry 1, the model's choice). -/
def Obligations.IdleStepEndsTick : Prop :=
  ∀ s : State, s.pending = [] → ∃ t, step s = .next t ∧ t.tick = s.tick + 1 ∧ t.acted = [] ∧
    t.time = if s.domOn 10 then (s.time + 32) % 2 ^ 48 else s.time

/-- Every step keeps the form of the state: the byte memories and the dictionary canonical, TIME a count of 48 bits
(R73, R445). -/
def Obligations.StepKeepsForm : Prop :=
  ∀ s t : State, s.memWf = true → s.dictWf = true → s.timeWf = true → step s = .next t →
    t.memWf = true ∧ t.dictWf = true ∧ t.timeWf = true

/-- The state after reset has that form. -/
def Obligations.ResetHasForm : Prop :=
  State.reset.memWf = true ∧ State.reset.dictWf = true ∧ State.reset.timeWf = true

/-- A command changes the queue of waiting commands in no way, takes back nothing that the block has sent, and clears no
programmed fuse bit and no seal (R530). -/
def Obligations.CommandsKeepQueueTraceFuses : Prop :=
  ∀ (c : Instr) (s t : State), exec c s = .next t → t.pending = s.pending ∧ (∃ l, t.sent = l ++ s.sent) ∧
    (∀ w b, (fuseWord s w).data.testBit b = true → (fuseWord t w).data.testBit b = true) ∧
    ∀ w, (fuseWord s w).sealed = true → (fuseWord t w).sealed = true

/-! ### Position -/

/-- R63 to R68, R71, R89, R96: an edge shorter than the filter does nothing; an accepted edge is counted by the mode and
ENC_DIR, timestamped, and a step toward validity; an illegal transition of a quadrature mode is counted and reported, not the
count. The position unit loses an encoder while the medium moves, loses the ring source, and ends a coast that has lasted
COAST_MAX, each with its message, whose address is the observer position (R107). -/
def Obligations.EncodersCountAndAreLost : Prop :=
  (∀ (n : Fin 4) (a b : Bool) (held t : Nat) (s : State), s.domOn 10 = true →
    ¬ (a = (s.enc n).a ∧ b = (s.enc n).b) →
    (held < s.rdN E.encFilter n → exec (.encoderEdge n a b held t) s = .next s) ∧
    (s.rdN E.encFilter n ≤ held → s.rdN E.encMode n ≠ 0 →
      (s.rdN E.encMode n = 3 ∨ a = (s.enc n).a ∨ b = (s.enc n).b →
        Gives (.encoderEdge n a b held t) s fun u =>
          u.rd E.encLastTs n = t ∧
          u.rd E.encCount n = signed 48 (wrap48 (s.rd E.encCount n +
            (if s.rd E.encDir n = 1 then -edgeCounts (s.rdN E.encMode n) (s.enc n).a a b
              else edgeCounts (s.rdN E.encMode n) (s.enc n).a a b))) ∧
          (u.enc n).a = a ∧ (u.enc n).b = b ∧ (u.enc n).run = min 16 ((s.enc n).run + 1) ∧
          (u.enc n).valid = ((s.enc n).valid || decide (15 ≤ (s.enc n).run)) ∧
          u.rd E.encErrors n = s.rd E.encErrors n ∧ ∀ x, u.byte x = s.byte x) ∧
      (s.rdN E.encMode n ≠ 3 → a ≠ (s.enc n).a → b ≠ (s.enc n).b →
        Gives (.encoderEdge n a b held t) s fun u =>
          u.rd E.encErrors n = min (s.rd E.encErrors n + 1) (2 ^ 32 - 1) ∧
          u.rd E.encCount n = s.rd E.encCount n ∧ u.rd E.encLastTs n = s.rd E.encLastTs n ∧
          (s.faultQ ++ [⟨0xB8, 1, s.rdN E.posEst⟩]) <+: u.faultQ ∧ ∀ x, u.byte x = s.byte x))) ∧
  (∀ (n : Fin 4) (s : State), s.domOn 10 = true → encValid s n = true → stopped s = false →
    Gives (.encTimeout n) s fun u => (u.enc n).valid = false ∧ (u.enc n).run = 0 ∧
      u.faultQ = s.faultQ ++ [⟨0xB8, 2, s.rdN E.posEst⟩] ∧ SameBut s u [] ∧
      u.obs.lost = (s.obs.lost || s.obs.active == n.val)) ∧
  (∀ s : State, s.domOn 10 = true → s.ringPos.valid = true → (stopped s = false ∨ ∃ n : Fin 4, encValid s n = true) →
    Gives .ringPosStale s fun u => u.ringPos.valid = false ∧ u.faultQ = s.faultQ ++ [⟨0xB8, 8, s.rdN E.posEst⟩] ∧
      u.obs.lost = (s.obs.lost || s.obs.active == 4) ∧ SameBut s u []) ∧
  (∀ s : State, s.domOn 10 = true → s.obs.active = 6 → s.obs.limited = false → s.rd E.coastMax ≠ 0 →
    exec .coastLimit s = .next { s with
      obs := { s.obs with limited := true }, faultQ := s.faultQ ++ [⟨0xB8, 6, s.rdN E.posEst⟩] })

/-- R617, R92, R97: what an accepted write that chooses or sets up a position source does, and nothing else but its answer
and CONFIG_CRC's staleness. -/
def Obligations.SourceWritesTakeEffect : Prop :=
  (∀ (p : Port) (v : Nat) (s : State), Accepted s p (s.superseded noTarget) E.changeover 0 0 v →
    ∀ k, k = otherSource s (if s.obs.active < 5 then s.obs.active else s.obs.before) →
      Gives (.changeover p v) s fun u =>
        if srcValid s k then u = { s with obs := { s.obs with change := some k } }.answer p okCode
        else u = s.answer p codeSource) ∧
  (∀ (p : Port) (v : Nat) (s : State), Accepted s p (s.superseded noTarget) E.srcPrimary 0 0 v →
    Gives (.srcPrimaryWrite p v) s fun u => ∃ b, u = ({ s.wr E.srcPrimary v with
      obs := { s.obs with primary := if v = s.obs.active then none else some v } }.withStale b).answer p okCode) ∧
  (∀ (p : Port) (v : Nat) (s : State), Accepted s p (s.superseded noTarget) E.srcSecondary 0 0 v →
    Gives (.srcSecondaryWrite p v) s fun u => ∃ b, u = ((s.wr E.srcSecondary v).withStale b).answer p okCode) ∧
  (∀ (p : Port) (n : Fin 4) (f : EncField) (v : Nat) (s : State),
    Accepted s p (s.superseded noTarget) (encRow f) n 0 v →
    Gives (.encConfigWrite p n f v) s fun u =>
      if s.rd (encRow f) n = v then ∃ b, u = (s.withStale b).answer p okCode
      else (u.enc n).valid = false ∧ (u.enc n).run = 0 ∧ u.rd (encRow f) n = v ∧ u.faultQ = s.faultQ ∧
        u.obs.active = s.obs.active ∧ u.obs.lost = (s.obs.lost || s.obs.active == n.val) ∧
        u.sent = .answer p okCode [] :: s.sent ∧ SameBut s u [rowKey (encRow f) n 0]) ∧
  (∀ (p : Port) (v : Nat) (s : State), Accepted s p (s.superseded noTarget) E.ringPosNode 0 0 v →
    Gives (.ringPosNodeWrite p v) s fun u =>
      if s.rd E.ringPosNode = v then ∃ b, u = (s.withStale b).answer p okCode
      else u.ringPos = {} ∧ u.rd E.ringPosNode = v ∧ u.obs.lost = (s.obs.lost || s.obs.active == 4) ∧
        u.sent = .answer p okCode [] :: s.sent ∧ SameBut s u [rowKey E.ringPosNode 0 0])

/-- R69, R72, R434 to R436: a newer sample of the selected node becomes the ring source's, an older one or another node's
changes nothing; the observer's own output is broadcast in one frame on each ring, with one SEQ. -/
def Obligations.RingPositionSamples : Prop :=
  (∀ (node seq pos : Nat) (vel : Int) (stime : Nat) (s : State), s.domOn 10 = true → ringTimeValid s = true →
    node = s.rdN E.ringPosNode → (∀ q, s.ringPos.seq = some q → 0 < signed 16 (unsigned 16 ((seq : Int) - q))) →
    Gives (.ringPosSample node seq pos vel stime) s fun u =>
      u.ringPos = ⟨true, some seq, pos, vel, localTime56 s (stime * 256) / 256⟩ ∧
      SameBut s u [rowKey E.hwm 0 0, rowKey E.reverseCount 0 0]) ∧
  (∀ (node seq pos : Nat) (vel : Int) (stime : Nat) (s : State), node ≠ s.rdN E.ringPosNode ∨
      (∃ q, s.ringPos.seq = some q ∧ signed 16 (unsigned 16 ((seq : Int) - q)) ≤ 0) →
    exec (.ringPosSample node seq pos vel stime) s = .next s) ∧
  (∀ s : State, s.domOn 10 = true → s.rd E.ringPosPublish = 1 → assigned s = true → ringTimeValid s = true →
    RingsFree s → Gives .ringPosPublish s fun u =>
      u.sent = [.ringFrame 1 (ringFrameBytes 6 1 0xFFFF (nodeAddr s) 0 (aget 0 6 s.ring.seqs) (positionPayload s)) false,
        .ringFrame 0 (ringFrameBytes 6 0 0xFFFF (nodeAddr s) 0 (aget 0 6 s.ring.seqs) (positionPayload s)) false] ++
        s.sent ∧
      aget 0 6 u.ring.seqs = (aget 0 6 s.ring.seqs + 1) % 65536 ∧
      SameBut s u [rowKey E.txFrames 0 0, rowKey E.txFrames 1 0])

/-- R76, R77, R91, R92, R95: an observer sample delivers SAMPLE_TIME as TIME and changes no memory and no device state; where
the sources ask for a handover to source k, that source is active from the sample on. -/
def Obligations.ObserverSampleDelivers : Prop :=
  ∀ s : State, s.domOn 10 = true → loopHeld s 0 = false →
    Gives .observerSample s fun u => u.rd E.sampleTime = s.time ∧ (∀ x, u.byte x = s.byte x) ∧ u.dev = s.dev ∧
      ∀ k, k < 5 → (s.loop 0).pendOdd = false → nextSource s = some k →
        u.obs.active = k ∧ u.obs.chainSrc = k ∧ u.obs.lost = false ∧ u.obs.change = none

/-! ### Lines -/

/-- R84, R87, R100, R458: a line whose instant lies less than LOCK_LEAD ahead is locked at that instant, and the lines that it
passes over are counted; a line that was withheld while firing was suspended is locked again below the lines locked after it;
while firing is suspended, or once a stop is sampled, no line is locked. -/
def Obligations.LineLockFreezesInstant : Prop :=
  (∀ (c : Ch) (s : State) (l : Lock), s.dev = .printing → s.noLocks = false → s.obs.reverse = false →
    enabledCh s c = true → lockable s c = some l → sdiff51 l.inst (nowStep s) < lockLeadSteps s →
    Gives (.lineLock c) s fun u =>
      ((s.chan c).next ≤ l.line → (u.chan c).locked = (s.chan c).locked ++ [l] ∧ (u.chan c).next = l.line + 1 ∧
        u.rd E.skipped c = (if l.line - (s.chan c).next = 0 then s.rd E.skipped c
          else min (s.rd E.skipped c + (l.line - (s.chan c).next : Nat)) (2 ^ 32 - 1))) ∧
      (l.line < (s.chan c).next → l ∈ (u.chan c).locked ∧ (∀ k ∈ (s.chan c).locked, k.line ≠ l.line → k ∈ (u.chan c).locked) ∧
        (u.chan c).next = (s.chan c).next ∧ u.rd E.skipped c = s.rd E.skipped c) ∧
      SameBut s u [rowKey E.skipped c 0, rowKey E.skippedTotal 0 0]) ∧
  ∀ (c : Ch) (s : State), s.obs.reverse = true ∨ s.noLocks = true → exec (.lineLock c) s = .next s

/-- R84, R86, R87, R145: at its instant a locked line whose masks are with the head fires, and LAST_LINE is its number; one
that is not ready is late, is counted and reported, and does not fire; while REVERSE is set it is neither, lines locked after
it keep their instants, and the lines withheld are solved again when none is left. The line is not the last of its page. -/
def Obligations.LineFireOrLate : Prop :=
  ∀ (c : Ch) (s : State) (l : Lock) (rest : List Lock) (e : Nat), (s.chan c).locked = l :: rest → serving s c = some e →
    (pageLinesOf s c = 0 ∨ l.line + 1 < pageLinesOf s c) →
    (s.obs.reverse = false → s.rd E.paused c ≠ 1 → ∀ b, readyBuilt s c l = some b → b.engine < 100 →
      Gives (.lineFire c) s fun u =>
        u.rd E.lastLine c = l.line ∧ u.rd E.linesFired b.engine = wrap48 (s.rd E.linesFired b.engine + 1) ∧
        (u.chan c).locked = rest ∧ (u.chan c).built = none ∧ (u.chan c).fired = some l.line ∧
        (u.chan c).freeAt = l.inst ∧ (u.chan c).lateRun = 0 ∧ (∃ f y, .waveform c f y ∈ u.sent) ∧ u.faultQ = s.faultQ ∧
        ∀ x, u.byte x = s.byte x) ∧
    (s.obs.reverse = false → s.rd E.paused c ≠ 1 → readyBuilt s c l = none → (s.chan c).taking = 0 → e < 100 →
      Gives (.lineFire c) s fun u =>
        u.rd E.lateLines e = min (s.rd E.lateLines e + 1) (2 ^ 32 - 1) ∧ u.rd E.lastLine c = s.rd E.lastLine c ∧
        (u.chan c).locked = rest ∧ (u.chan c).built = none ∧ (u.chan c).freeAt = l.inst ∧
        (∀ d f y, .waveform d f y ∈ u.sent → .waveform d f y ∈ s.sent) ∧
        (s.faultQ ++ [⟨e, 5, l.line⟩]) <+: u.faultQ) ∧
    (s.obs.reverse = true →
      Gives (.lineFire c) s fun u =>
        (u.chan c).locked = rest ∧
        (rest = [] → (u.chan c).next = ((s.chan c).withheld ++ [l.line]).headD l.line ∧ (u.chan c).withheld = []) ∧
        (rest ≠ [] → (u.chan c).next = (s.chan c).next ∧ (u.chan c).withheld = (s.chan c).withheld ++ [l.line]) ∧
        u.sent = s.sent ∧ u.faultQ = s.faultQ ∧ SameBut s u [])

/-- R114, R115, R144, R163: the build of a line that is in the line buffer starts: the channel holds it as built, by the
engine that serves the channel, with the fill of its slot. -/
def Obligations.BuildStartBuildsLine : Prop :=
  ∀ (c : Ch) (s : State) (e : Nat) (l : LbSlot), workingEngine s c = some e → s.busyJob = true → enabledCh s c = true →
    s.rd E.paused c ≠ 1 → (s.chan c).built = none → (s.noLocks = true → (s.chan c).locked ≠ []) →
    slotOf (s.chan c) ((s.chan c).page * pageLinesOf s c + targetLine s c) = some l →
    Gives (.buildStart c) s fun u => ∃ b, (u.chan c).built = some b ∧ b.line = targetLine s c ∧ b.page = (s.chan c).page ∧
      b.engine = e ∧ b.fill = l.damaged ∧ b.rep = l.rep ∧ u.dev = s.dev ∧ u.rd E.lastLine c = s.rd E.lastLine c

/-- R143, R144, R309, R327, R370, R372, R373: the first line asked for is fetched when the ring buffer holds it and fewer than
4 requests are in flight; a request is translated when it is accepted and takes the data that stand then; a line that arrives
whole lands as read; one that does not is damaged, is counted and is reported with its line number. -/
def Obligations.FeedFetchesLines : Prop :=
  ∀ (c : Ch) (s : State) (e r : Nat), workingEngine s c = some e → e < 100 → ringBufOf s c = some r →
    (∀ (n : Nat) (rest : List Nat), (s.chan c).asked = n :: rest → s.rdN E.rbMode r = 0 → n < s.rdN E.rbWr r →
      (∀ f ∈ (s.chan c).issued, f.todo = []) → inRequest (s.chan c) < 4 →
      Gives (.feedFetch c) s fun u => (u.chan c).asked = rest ∧ u.rd E.feedNext c = n + 1 ∧ (∀ x, u.byte x = s.byte x) ∧
        ∃ f, (u.chan c).issued = (s.chan c).issued ++ [f] ∧ f.job = n ∧ f.addr = lineAddr s c r n ∧
          ∀ p, s.rdN E.rbWr r ≤ n + s.rdN E.rbLines r → requests f.addr (lineBytes s e) = [(f.addr, lineBytes s e)] →
            reach s f.addr = .at_ p → (s.rank (pRank (pageEntry s (f.addr / pageSize)))).power < 3 →
            f = ⟨n, lineAddr s c r n, rangeBad s f.addr (lineBytes s e), [], 1, [], s.bytes p (lineBytes s e)⟩) ∧
    ∀ (f : Fetch) (fs : List Fetch), (s.chan c).issued = f :: fs → (∀ g ∈ fs, g.todo = [] ∧ g.job ≠ f.job) →
      (∀ ecc : EccResult, f.todo = [] → f.waits = [] → f.bad = false → ecc ≠ .uncorrectable →
        Gives (.feedLineReady c ecc) s fun u =>
          (u.chan c).issued = fs ∧ (u.chan c).slots = (s.chan c).slots ++ [⟨f.job, nowStep s, false, false, f.data⟩] ∧
          u.faultQ = s.faultQ ∧ SameBut s u []) ∧
      (∀ ecc : EccResult, f.todo = [] → f.waits = [] → f.bad = true ∨ ecc = .uncorrectable →
        Gives (.feedLineReady c ecc) s fun u =>
          (u.chan c).issued = fs ∧ (∃ x, x ∈ (u.chan c).slots ∧ x.job = f.job ∧ x.damaged = true) ∧
          u.rd E.damagedLines e = min (s.rd E.damagedLines e + 1) (2 ^ 32 - 1) ∧
          u.faultQ = s.faultQ ++ [⟨e, 4, pageLine s c f.job⟩]) ∧
      Gives (.feedTimeout c) s fun u =>
        (u.chan c).issued = fs ∧ (∃ x, x ∈ (u.chan c).slots ∧ x.job = f.job ∧ x.damaged = true) ∧
        u.rd E.damagedLines e = min (s.rd E.damagedLines e + 1) (2 ^ 32 - 1) ∧
        u.faultQ = s.faultQ ++ [⟨e, 4, pageLine s c f.job⟩, ⟨0x90, 2, f.addr⟩]

/-! ### Tables and takeover -/

/-- R134, R135, R138, R140, R141, R182: an accepted commit request sets the table's pending bit in this TICK; a Stitch map's
shadow then folds unless it is SYNCING; a waveform table that fails its check is refused, and WAVE_CHECK shows the check. A
fold that ends leaves its shadow DIRTY where it differs from the active copy, and CLEAN otherwise, ready for the swap; a copy
back that ends leaves the shadow CLEAN when no write was held for it. -/
def Obligations.TablesAreCommitted : Prop :=
  (∀ (p : Port) (e : Eng) (s : State),
    (Accepted s p (s.superseded (.engine e)) E.tableCommit e 0 2 →
      Gives (.shapeCommit p e) s fun u => ∃ b, u = ((s.setEng e { s.eng e with
        pendShape := true, pendAt := ains 1 s.tick (s.eng e).pendAt }).withStale b).answer p okCode) ∧
    (Accepted s p (s.superseded (.engine e)) E.tableCommit e 0 4 →
      Gives (.tileCommit p e) s fun u => ∃ b, u = ((s.setEng e { s.eng e with
        pendTile := true, pendAt := ains 2 s.tick (s.eng e).pendAt }).withStale b).answer p okCode) ∧
    (Accepted s p (s.superseded (.engine e)) E.tableCommit e 0 8 →
      Gives (.waveCommit p e) s fun u => u.rd E.waveCheck e = waveCheckFor s e ∧
        (u.eng e).pendWave = ((s.eng e).pendWave || waveCheckFor s e == 0) ∧
        u.sent = .answer p (if waveCheckFor s e = 0 then okCode else codeRange) [] :: s.sent ∧
        SameBut s u [rowKey E.waveCheck e 0]) ∧
    (Accepted s p (s.superseded (.engine e)) E.tableCommit e 0 1 → engGroup e < 4 →
      Gives (.stitchCommit p e) s fun u => (u.eng e).pendStitch = true ∧
        ((s.eng e).stitch = .syncing → (u.eng e).stitch = .syncing) ∧
        ((s.eng e).stitch = .clean ∨ (s.eng e).stitch = .dirty → (u.eng e).stitch = .folding) ∧
        u.sent = .answer p okCode [] :: s.sent ∧ ∀ r i j, u.rd r i j = s.rd r i j)) ∧
  (∀ (e : Eng) (s : State), (s.eng e).stitch = .folding →
    Gives (.foldDone e) s fun u => (u.eng e).stitch = (if (s.eng e).foldDirty then .dirty else .clean) ∧ SameBut s u [] ∧ u.faultQ = s.faultQ ∧ u.sent = s.sent) ∧
  (∀ (e : Eng) (t : Table) (s : State), t ≠ .stitch → (s.eng e).shadow t = .syncing → (s.eng e).held = [] →
    exec (.shadowSyncDone e t) s = .next (s.setEng e ((s.eng e).setShadow t .clean))) ∧
  (∀ (e : Eng) (s : State), (s.eng e).stitch ≠ .folding → exec (.foldDone e) s = .next s) ∧
  ∀ (e : Eng) (t : Table) (s : State), (s.eng e).shadow t ≠ .syncing → exec (.shadowSyncDone e t) s = .next s

/-- R149, R152, R155: an accepted TAKEOVER gives the channel to its spare, which copies, and changes nothing of the engine
that served it; a copy that ends leaves the spare's shadows CLEAN and its tables those of the engine it replaces, and the next
build starts no earlier; one that fails leaves the channel unserved and is reported. -/
def Obligations.TakeoverMovesChannel : Prop :=
  (∀ (p : Port) (c : Ch) (s : State) (e : Nat), Accepted s p (s.superseded (.engine c)) E.takeover c 0 1 →
    serving s c = some e → s.busyJob = false → e < 96 → spareFree s c = true →
    Gives (.takeoverCommand p c) s fun u =>
      u.rd E.servedBy c = 96 + c.val / 24 ∧ u.rd E.channel (96 + c.val / 24) = c.val ∧ u.rd E.channel e = 0xFF ∧
      (u.eng (96 + c.val / 24)).copying = some (c.val, e) ∧ u.eng e = s.eng e ∧ (u.chan c).built = none ∧
      (u.chan c).issued = (s.chan c).issued ∧ (u.chan c).asked = (s.chan c).asked ∧
      (∃ l, u.sent = .answer p okCode [] :: (l ++ s.sent)) ∧
      SameBut s u [rowKey E.servedBy c 0, rowKey E.channel (96 + c.val / 24) 0, rowKey E.channel e 0]) ∧
  (∀ (g : Fin 4) (s : State) (c e : Nat), s.memWf = true → (s.eng (96 + g.val)).copying = some (c, e) → c < 96 → e < 96 →
    Gives (.takeoverCopyDone g true) s fun u =>
      (u.eng (96 + g.val)).copying = none ∧ (∀ t, (u.eng (96 + g.val)).shadow t = .clean) ∧
      (∀ t o, o < tableLen t → u.byte (activeAt (96 + g.val) t + o) = s.byte (activeAt e t + o)) ∧
      (∀ t o, o < tableLen t → u.byte (shadowAt (96 + g.val) t + o) = s.byte (activeAt e t + o)) ∧
      u.rd E.nozzles (96 + g.val) = s.rd E.nozzles e ∧ (u.chan c).freeAt = nowStep s ∧ u.faultQ = s.faultQ) ∧
  ∀ (g : Fin 4) (s : State) (c e : Nat), (s.eng (96 + g.val)).copying = some (c, e) → c < 96 →
    Gives (.takeoverCopyDone g false) s fun u =>
      (u.eng (96 + g.val)).copying = none ∧ u.rd E.servedBy c = 0xFF ∧ (u.chan c).unserved = true ∧
      u.faultQ = s.faultQ ++ [⟨96 + g.val, 8, c * 2 ^ 40 + 2 ^ 39⟩] ∧
      SameBut s u [rowKey E.servedBy c 0, rowKey E.channel (96 + g.val) 0]

/-! ### Links and head care -/

/-- R163, R164, R193, R194: an idle frame header counts in LINE_SEQ and carries no line; the outbound Drive link frame is that
of the latest TIME that is a multiple of 170, in 20 blocks whose data blocks the lane's scrambler has passed. -/
def Obligations.LinkFramesLeave : Prop :=
  (∀ (c : Ch) (s : State), s.domOn (engDom c) = true → s.chPresent c = true → s.dev ≠ .boot → s.dev ≠ .safe →
    legacy s c = false → serialising s c = false →
    Gives (.idleFrameHeader c) s fun u => (u.chan c).seq = ((s.chan c).seq + 1) % 65536 ∧
      (∃ periods lanes, u.sent = .idleFrame c periods lanes :: s.sent) ∧ u.faultQ = s.faultQ ∧ SameBut s u []) ∧
  ∀ (c : Ch) (s : State), s.domOn (engDom c) = true → s.chPresent c = true → s.domOn 10 = true →
    prbsOnDrive s c = false → ∀ st bs, driveBlocks (driveTxState (s.chan c)) (driveFrame s c (s.time - s.time % 170)) = (st, bs) →
    exec (.driveFrameOut c) s = .next ((s.setChan c { s.chan c with driveTx := some st }).emit (.driveFrame c bs))

/-- R175, R205, R615: a good back-channel frame gives the channel its lane locks, temperature, discards and heater current,
and a lane that has lost lock is reported; 100 us of silence takes the bridge down and is reported; a bad frame is ignored. -/
def Obligations.BackchannelReports : Prop :=
  (∀ (c : Ch) (l : List Byte) (s : State), s.domOn (engDom c) = true → s.chPresent c = true → legacy s c = false →
    l.length = 40 → crc16 ((l.drop 1).take 37) = fieldAt l 38 2 → (s.chan c).bridgeUp = true →
    Gives (.backchannelFrame c l) s fun u =>
      (u.chan c).lanes = byteAt l 2 / 16 ∧ (u.chan c).temp = signed 16 (fieldAt l 3 2) ∧
      (u.chan c).discards = byteAt l 15 ∧ (u.chan c).bcRound = true ∧ u.rd E.heaterI c = fieldAt l 5 2 ∧
      u.faultQ = s.faultQ ++ (if (s.chan c).lanes &&& (15 - byteAt l 2 / 16) = 0 then []
        else [⟨reporter s c, 7, c.val * 2 ^ 40 + (15 - byteAt l 2 / 16 % 16)⟩]) ∧
      u.sent = s.sent ∧ SameBut s u [rowKey E.heaterI c 0]) ∧
  (∀ (c : Ch) (l : List Byte) (s : State), l.length ≠ 40 ∨ crc16 ((l.drop 1).take 37) ≠ fieldAt l 38 2 →
    exec (.backchannelFrame c l) s = .next s) ∧
  ∀ (c : Ch) (s : State), s.domOn (engDom c) = true → (s.chan c).bridgeUp = true →
    Gives (.backchannelSilent c) s fun u => (u.chan c).bridgeUp = false ∧ (u.chan c).lanes = 0 ∧
      u.faultQ = s.faultQ ++ [⟨reporter s c, 7, c.val * 2 ^ 40 + 16 + 15⟩] ∧ u.sent = s.sent ∧ SameBut s u []

/-- R193, R195, R197, R198: a good inbound frame, its blocks descrambled, gives its status bits and, on a lane that is up, its
17 sample pairs; a lane that loses block lock goes down and, when it has been up, is reported with its channel. -/
def Obligations.DriveLinkInbound : Prop :=
  (∀ (c : Ch) (l f : List Byte) (st t : Nat) (s : State), s.domOn (engDom c) = true → s.chPresent c = true →
    driveUnframe (driveRxState (s.chan c)) l = (st, some f) → crc16 (f.take 72) = fieldAt f 78 2 → (s.chan c).rxUp = true →
    Gives (.driveFrameIn c l t) s fun u =>
      (u.chan c).supplyOk = bit (byteAt f 1) 7 ∧ (u.chan c).ampOt = bit (byteAt f 1) 6 ∧
      (u.chan c).ampFault = bit (byteAt f 1) 5 ∧ (u.chan c).rxUp = true ∧ (u.chan c).driveRx = some st ∧
      (u.chan c).supplySum = (s.chan c).supplySum + fieldAt f 73 2 ∧
      (u.chan c).samples =
        ((framePairs f (wrap51 ((t : Int) * 8 - s.rd E.driveRxDelay c))).reverse ++ (s.chan c).samples).take 4096 ∧
      SameBut s u []) ∧
  ∀ (c : Ch) (s : State), s.domOn (engDom c) = true →
    Gives (.driveBlockLockLost c) s fun u => (u.chan c).rxUp = false ∧
      (u.faultQ = if (s.chan c).rxUp then s.faultQ ++ [⟨reporter s c, 9, c.val * 2 ^ 40⟩] else s.faultQ)

/-- R206 to R213: after a head-care round the HEAD_TEMP of every served channel that has a thermistor comes from one of the
three sources of R208 and R209, and the channel is paused when HEAD_TEMP is at or above OT_THRESH and released when it is more
than 2 K below; STRETCH stays from 0.75 to 1.25. -/
def Obligations.HeadCareRoundPauses : Prop :=
  ∀ (c : Ch) (s : State), s.chPresent c = true → s.domOn (engDom c) = true → legacy s c = false →
    (serving s c).isSome = true → Gives .headCareRound s fun u =>
      (u.rd E.tempSrc c = 0 ∨ u.rd E.tempSrc c = 1 ∨ (u.rd E.tempSrc c = 2 ∧ u.rd E.headTemp c = 0x7FFF)) ∧
      (s.rd E.otThresh ≤ u.rd E.headTemp c → u.rd E.paused c = 1) ∧
      (u.rd E.headTemp c < s.rd E.otThresh - 32 → u.rd E.paused c ≠ 1) ∧
      3072 ≤ u.rd E.stretch c ∧ u.rd E.stretch c ≤ 5120 ∧ u.rd E.otThresh = s.rd E.otThresh

/-! ### Speed -/

/-- R105, R106, R218, R219, R221 to R224: a planning interval takes GIRTH_OVER from the energy of the lines fired in it and
GIRTH_QUOTA, begins the count of the next one at 0, and sets the target to the least of SPEED_MAX, R_QUOTA and R_BUF, not
below SPEED_FLOOR, with the limits as they stood before the writes of its TICK. A period of SPEED_LIM begins with the length
and the high part that SPEED_LIM_FREQ and SPEED_REQ give, or the pin rests low; a write of SPEED_LIM_FREQ begins one with the
new frequency. -/
def Obligations.SpeedIsPlannedAndShown : Prop :=
  (∀ s : State, s.domOn 10 = true →
    Gives .planningInterval s fun u =>
      u.gov.acc = 0 ∧ u.gov.quota = (s.rdHeld E.girthQuota).toNat ∧ u.gov.speedMax = (s.rdHeld E.speedMax).toNat ∧
      u.gov.floor = (s.rdHeld E.speedFloor).toNat ∧
      u.gov.girthOver = (u.gov.quota != 0 && decide (((u.gov.quota * wattUnit : Nat) : Rat) < s.gov.acc)) ∧
      u.rd E.speedTarget =
        max u.gov.floor (min u.gov.speedMax (min (u.rdN E.rQuota) (rateOfBufferOrZero (takeLimits s)))) ∧
      u.rd E.speedMax = s.rd E.speedMax ∧ u.rd E.speedFloor = s.rd E.speedFloor ∧ ∀ x, u.byte x = s.byte x) ∧
  (∀ s : State, speedLimLow s = false → ∀ len high : Nat,
    len = ((2 * 800000000 + s.rd E.speedLimFreq).fdiv (2 * s.rd E.speedLimFreq)).toNat →
    high = (2 * len * (max 1 (min 1023 (1024 * s.rdN E.speedReq / (16 * s.rdN E.speedLimFull)))) + 1024) / 2048 →
    exec .speedLimPeriod s = .next { s with
      gov := { s.gov with pwm := some (s.time, len, high) }, sent := .speedLim len high :: s.sent }) ∧
  (∀ s : State, speedLimLow s = true → s.gov.pwm.isSome = true →
    exec .speedLimPeriod s = .next { s with gov := { s.gov with pwm := none }, sent := .speedLim 0 0 :: s.sent }) ∧
  (∀ (p : Port) (v : Nat) (s : State), Accepted s p (s.superseded noTarget) E.speedLimFreq 0 0 v →
    speedLimLow s = false → Gives (.speedLimFreqWrite p v) s fun u => u.rd E.speedLimFreq = v ∧
      (∃ len high, u.gov.pwm = some (s.time, len, high) ∧ len = ((2 * 800000000 + (v : Int)).fdiv (2 * v)).toNat) ∧
      SameBut s u [rowKey E.speedLimFreq 0 0])

/-! ### The Lathe -/

/-- R260, R262, R265, R278, R288: a sample of a running free loop whose active chain is one section, which starts at once
because the section engine is free and no sample waits, computes the section's output from the exact sum with one rounding and
its saturation, shifts the history, clamps and slews the output, feeds back what R265 says, and moves HOFS toward 0. -/
def Obligations.FreeLoopSampleComputes : Prop :=
  ∀ (l : LoopId) (slot : Slot) (s : State) (b : Bool) (c : Section) (x lim hofs raw y z u0 u : Int),
    s.domOn 10 = true → 194 ≤ l.val → s.rd E.loopEn l = 1 → s.rd E.trigKind l = 1 →
    (s.loop l).sampledAt ≠ some s.tick → latheFree s = true → s.lathe.waiting = [] → loopHeld s l = false →
    handoverDue s l = false → s.rd E.sink l = 0 →
    b = (s.loop l).chainB → chainXmode s l b = false → chainLen s l b = 1 → c = s.sec (chainFirst s l b) →
    x = sourceValue s l (chainSource s l b) → lim = s.rd E.stateLim l → hofs = s.rd E.hofs l →
    raw = (2 ^ c.shift * (c.b0 * x + c.b1 * c.x1 + c.b2 * c.x2) - c.a1 * s.rd E.y1 l - c.a2 * s.rd E.y2 l + 2 ^ 21).fdiv
      (2 ^ 22) →
    y = clampInt (-2 ^ 47) (2 ^ 47 - 1) raw → z = y + hofs → u0 = clampInt (s.rdHeld E.outMin l) (s.rdHeld E.outMax l) z →
    u = s.rd E.output l + limitStep (u0 - s.rd E.output l) (s.rdHeld E.slewDown l) (s.rdHeld E.slewUp l) →
    Gives (.loopSample l .good slot) s fun t =>
      t.rd E.output l = u ∧ t.rd E.y2 l = s.rd E.y1 l ∧
      t.rd E.y1 l = clampInt (-lim) lim (if s.rd E.awBack l = 1 ∧ u ≠ z then u - hofs else y) ∧
      t.sec (chainFirst s l b) = { c with x2 := c.x1, x1 := clampInt (-lim) lim x } ∧
      (∀ k, k ≠ chainFirst s l b → t.sec k = s.sec k) ∧
      t.rd E.hofs l = stepToward hofs 0 (s.rd E.loopHandoverSlew l) ∧
      t.rd E.satCount l = (if y = raw then s.rd E.satCount l else min (s.rd E.satCount l + 1) (2 ^ 32 - 1)) ∧
      t.rd E.heldCount l = s.rd E.heldCount l ∧ t.sent = s.sent ∧ (s.faultQ <+: t.faultQ) ∧
      SameBut s t [rowKey E.output l 0, rowKey E.y1 l 0, rowKey E.y2 l 0, rowKey E.hofs l 0, rowKey E.satCount l 0,
        rowKey E.logDropped 0 0]

/-- R267, R268, R275, R277 to R279, R283: a held sample counts in HELD_COUNT and updates nothing else; a heater loop whose
force condition begins goes to 0 on chain A with its states at 0; a trigger that meets an unfinished sample, or one that
waits, is dropped, counted and reported; one that finds the section engine busy waits; a switching sample keeps OUTPUT and
puts the difference of the chains into HOFS. -/
def Obligations.LoopSampleSpecialCases : Prop :=
  ∀ (l : LoopId) (slot : Slot) (s : State), s.domOn 10 = true → l.val ≠ 0 → s.rd E.loopEn l = 1 → s.rd E.trigKind l = 1 →
    (194 ≤ l.val → (s.loop l).sampledAt ≠ some s.tick → latheFree s = true → s.lathe.waiting = [] → loopHeld s l = true →
      Gives (.loopSample l .good slot) s fun t =>
        t.rd E.heldCount l = min (s.rd E.heldCount l + 1) (2 ^ 32 - 1) ∧ t.secs = s.secs ∧ t.sent = s.sent ∧
        SameBut s t [rowKey E.heldCount l 0, rowKey E.logDropped 0 0]) ∧
    (∀ c : Nat, l.val = 98 + c → c < 96 → (s.loop l).sampledAt ≠ some s.tick → latheFree s = true →
      s.lathe.waiting = [] → heaterOff s c = true → (s.loop l).forced = false → s.rd E.sink l = 0x300 + (c : Int) →
      Gives (.loopSample l .good slot) s fun t =>
        t.rd E.output l = 0 ∧ t.rd E.heaterDuty c = 0 ∧ (t.loop l).chainB = false ∧ t.rd E.y1 l = 0 ∧ t.rd E.y2 l = 0 ∧
        t.rd E.hofs l = 0 ∧ t.rd E.refNow l = (s.chan c).ownTemp ∧
        SameBut s t [rowKey E.output l 0, rowKey E.heaterDuty c 0, rowKey E.y1 l 0, rowKey E.y2 l 0, rowKey E.hofs l 0,
          rowKey E.refNow l 0, rowKey E.logDropped 0 0]) ∧
    (194 ≤ l.val → (s.loop l).sampledAt = some s.tick ∨ (∃ w ∈ s.lathe.waiting, w.loop = l.val) →
      exec (.loopSample l .good slot) s =
        .next ((s.wr E.overruns (min (s.rd E.overruns + 1) (2 ^ 32 - 1))).report 0xB0 2 (l.val * 2 ^ 40))) ∧
    (194 ≤ l.val → (s.loop l).sampledAt ≠ some s.tick → latheFree s = false → s.lathe.waiting = [] →
      Gives (.loopSample l .good slot) s fun t => t.lathe.waiting = [⟨2, s.tick, l, .good, slot⟩] ∧
        (t.loop l).sampledAt = some s.tick ∧ t.secs = s.secs ∧ t.sent = s.sent ∧ t.faultQ = s.faultQ ∧ SameBut s t []) ∧
    ∀ (b : Bool) (d : Int), 194 ≤ l.val → (s.loop l).sampledAt ≠ some s.tick → latheFree s = true →
      s.lathe.waiting = [] → loopHeld s l = false → handoverDue s l = true → s.rd E.sink l = 0 → b = !(s.loop l).chainB → chainXmode s l b = false →
      chainLen s l b = 0 → d = s.rd E.output l - sourceValue s l (chainSource s l b) → -2 ^ 47 ≤ d → d ≤ 2 ^ 47 - 1 →
      s.rdHeld E.outMin l ≤ s.rd E.output l → s.rd E.output l ≤ s.rdHeld E.outMax l →
      0 ≤ s.rdHeld E.slewDown l → 0 ≤ s.rdHeld E.slewUp l →
      Gives (.loopSample l .good slot) s fun t =>
        t.rd E.output l = s.rd E.output l ∧ t.rd E.hofs l = d ∧ (t.loop l).chainB = b ∧
        (t.loop l).pend = (s.loop l).pendAt.any (fun r => r.1 == s.tick) ∧
        (s.rd E.loopHandoverTol l < |d| → (s.faultQ ++ [⟨0xB0, 3, l.val * 2 ^ 40⟩]) <+: t.faultQ) ∧ t.secs = s.secs ∧
        SameBut s t [rowKey E.hofs l 0, rowKey E.y1 l 0, rowKey E.y2 l 0, rowKey E.satCount l 0, rowKey E.logDropped 0 0]

/-- R261, R267, R270, R275, R280, R282, R288 to R290, R295: what the accepted commands of a loop do; a heater loop refuses a
handover, and an enable whose chains fail a check of R270 is refused. A write of 32 bytes of a section sets each of its fields
by its place; one of a coefficient sets it alone; a queued log record is written at LOG_BASE + LOG_WR, or dropped with LOG_EN
cleared; LOG_EN 1 needs an aligned buffer that lies in one memory. -/
def Obligations.LatheCommandsTakeEffect : Prop :=
  (∀ (p : Port) (l : LoopId) (s : State),
    (Accepted s p (s.superseded (.loop l)) E.loopCmd l 0 1 →
      exec (.loopHandover p l) s = .next (if 98 ≤ l.val ∧ l.val < 194 then s.answer p codeRange
        else (s.setLoop l ((s.loop l).ask s.tick)).answer p okCode)) ∧
    (Accepted s p (s.superseded (.loop l)) E.loopCmd l 0 2 →
      exec (.loopHold p l) s = .next ((s.setLoop l { s.loop l with cmdHold := true }).answer p okCode)) ∧
    (Accepted s p (s.superseded (.loop l)) E.loopCmd l 0 3 →
      exec (.loopRelease p l) s = .next ((s.setLoop l { s.loop l with cmdHold := false }).answer p okCode)) ∧
    (194 ≤ l.val → Accepted s p (s.superseded (.loop l)) E.loopEn l 0 0 →
      Gives (.loopEnWrite p l 0) s fun t => ∃ b, t = ((s.wr E.loopEn 0 l).withStale b).answer p okCode) ∧
    (194 ≤ l.val → Accepted s p (s.superseded (.loop l)) E.loopEn l 0 1 → s.rd E.loopEn l ≠ 1 →
      (chainsValid s l = false → exec (.loopEnWrite p l 1) s = .next (s.answer p codeRange)) ∧
      (chainsValid s l = true → Gives (.loopEnWrite p l 1) s fun t =>
        t.rd E.loopEn l = 1 ∧ t.rd E.refNow l = sourceValue s l (chainSource s l (s.loop l).chainB) ∧
        t.sent = .answer p okCode [] :: s.sent ∧ SameBut s t [rowKey E.loopEn l 0, rowKey E.refNow l 0]))) ∧
  (∀ (p : Port) (k : Slot) (d : List Byte) (s : State), portUp s p = true → s.superseded noTarget = false →
    s.domOn 10 = true → s.dev ≠ .boot → s.store.storing = none →
    (d.length = 32 → Gives (.sectionWrite p k 9 0 d) s fun t =>
      (t.sec k).b0 = signed 24 (ofBytes (d.take 3)) ∧ (t.sec k).b1 = signed 24 (ofBytes ((d.drop 3).take 3)) ∧
      (t.sec k).b2 = signed 24 (ofBytes ((d.drop 6).take 3)) ∧ (t.sec k).a1 = signed 24 (ofBytes ((d.drop 9).take 3)) ∧
      (t.sec k).a2 = signed 24 (ofBytes ((d.drop 12).take 3)) ∧ (t.sec k).shift = ofBytes ((d.drop 15).take 1) / 16 ∧
      (t.sec k).x1 = signed 48 (ofBytes ((d.drop 20).take 6)) ∧ (t.sec k).x2 = signed 48 (ofBytes ((d.drop 26).take 6)) ∧
      (∀ n, n ≠ k.val → t.sec n = s.sec n) ∧ t.sent = .answer p okCode [] :: s.sent ∧ SameBut s t []) ∧
    ∀ v : Int, d.length = 4 → v = signed 32 (ofBytes d) → -8388608 ≤ v → v ≤ 8388607 →
      Gives (.sectionWrite p k 1 0 d) s fun t => t.sec k = { s.sec k with b0 := v } ∧
        (∀ n, n ≠ k.val → t.sec n = s.sec n) ∧ t.sent = .answer p okCode [] :: s.sent ∧ SameBut s t []) ∧
  (∀ (s : State) (r : List Byte) (rest : List (List Byte)) (a : Nat), s.logQ = r :: rest →
    a = s.rdN E.logBase + s.rdN E.logWr → inSram a 16 = true → r.length = 16 →
    (a % 8 = 0 ∨ s.memory.badSram = [] → s.domState 11 = 2 → Gives .logWrite s fun t => t.logQ = rest ∧ t.bytes a 16 = r ∧
      t.rd E.logWr = (s.rd E.logWr + 16) % s.rd E.logSize ∧ (∀ x, ¬(a ≤ x ∧ x < a + 16) → t.byte x = s.byte x) ∧
      ∀ r' i j, rowKey r' i j ≠ rowKey E.logWr 0 0 → t.rd r' i j = s.rd r' i j) ∧
    (s.domState 11 ≠ 2 → Gives .logWrite s fun t => t.logQ = rest ∧ t.rd E.logEn = 0 ∧
      t.faultQ = s.faultQ ++ [⟨0xB0, 7, 0⟩] ∧ SameBut s t [rowKey E.logEn 0 0])) ∧
  ∀ (p : Port) (s : State), Accepted s p (s.superseded noTarget) E.logEn 0 0 1 →
    (s.rdN E.logBase % 16 ≠ 0 → exec (.logEnWrite p 1) s = .next (s.answer p codeRange)) ∧
    (s.rdN E.logBase % 16 = 0 → inSram (s.rdN E.logBase) (s.rdN E.logSize) = true →
      Gives (.logEnWrite p 1) s fun t => ∃ b, t = ((s.wr E.logEn 1).withStale b).answer p okCode)

/-! ### Memory -/

/-- R311 to R313: an accepted MAP_OP whose command passes its checks changes the page as its table says and shows 0; one
whose page is in the wrong state, or whose job or migration stands in the way, changes no entry and shows its code. -/
def Obligations.MapCommandsChangePage : Prop :=
  ∀ (p : Port) (s : State) (n t : Nat), n = s.rdN E.mapPage → t = s.rdN E.mapTarget →
    (Accepted s p (s.superseded noTarget) E.mapOp 0 0 1 →
      (s.busyJob = false → s.memory.queue = [] → pageState s n = 0 ∨ pageState s n = 3 →
        bits t 15 5 < s.rdN E.framesPerRank → frameNamed s n (bits t 19 16) (bits t 15 5) = false →
        (s.rank (bits t 19 16)).st = 1 →
        Gives (.map p) s fun u => u.rd E.mapResult = 0 ∧ pageState u n = 1 ∧ pRank (pageEntry u n) = bits t 19 16 ∧
          pFrame (pageEntry u n) = bits t 15 5 ∧ (∀ k, k ≠ n → pageEntry u k = pageEntry s k) ∧
          u.sent = .answer p okCode [] :: s.sent ∧ SameBut s u [rowKey E.mapResult 0 0]) ∧
      (s.busyJob = true ∨ s.memory.queue ≠ [] →
        exec (.map p) s = .next ((s.wr E.mapResult 5).answer p codeState)) ∧
      (s.busyJob = false → s.memory.queue = [] → pageState s n = 1 ∨ pageState s n = 2 →
        exec (.map p) s = .next ((s.wr E.mapResult 1).answer p codeRange))) ∧
    (Accepted s p (s.superseded noTarget) E.mapOp 0 0 2 → s.busyJob = false → s.memory.queue = [] →
      pageState s n = 1 ∨ pageState s n = 3 →
      Gives (.unmap p) s fun u => u.rd E.mapResult = 0 ∧ pageState u n = 0 ∧
        (∀ k, k ≠ n → pageEntry u k = pageEntry s k) ∧ u.sent = .answer p okCode [] :: s.sent ∧
        SameBut s u [rowKey E.mapResult 0 0]) ∧
    (Accepted s p (s.superseded noTarget) E.mapOp 0 0 3 → s.busyJob = false → s.memory.queue = [] → pageState s n = 1 →
      Gives (.retire p) s fun u => u.rd E.mapResult = 0 ∧ pageState u n = 3 ∧
        pRank (pageEntry u n) = pRank (pageEntry s n) ∧ pFrame (pageEntry u n) = pFrame (pageEntry s n) ∧
        (∀ k, k ≠ n → pageEntry u k = pageEntry s k) ∧ u.sent = .answer p okCode [] :: s.sent ∧
        SameBut s u [rowKey E.mapResult 0 0]) ∧
    (Accepted s p (s.superseded noTarget) E.mapOp 0 0 4 →
      Gives (.clearPoison p) s fun u => u.rd E.mapResult = 0 ∧ bit (pageEntry u n) 44 = false ∧
        pageState u n = pageState s n ∧ (∀ k, k ≠ n → pageEntry u k = pageEntry s k) ∧
        u.memory.badBlocks = s.memory.badBlocks ∧ u.sent = .answer p okCode [] :: s.sent ∧
        SameBut s u [rowKey E.mapResult 0 0])

/-- R303 to R306, R310, R314, R315, R322, R332: what a read of a block found is counted in its rank and reported with the
block's logical address; an uncorrectable block stays so and its rank becomes failing; of the ranks that became failing in a
TICK each is assigned the lowest free spare at the TICK's end, or reported where none is left; a page map entry that cannot be
read reads as retired; the scrubber's reads count alike, and a rank in self-refresh is woken first; MR4 is kept. -/
def Obligations.MemoryReadsAreHandled : Prop :=
  ∀ (s : State) (a p phys rank : Nat), s.domOn 3 = true → p = a / 2 ^ 21 → a < 2 ^ 35 → reach s a = .at_ phys →
    rank = pRank (pageEntry s p) →
    (s.memory.badBlocks.contains (phys / 256) = false → s.rd E.ceLimit = 0 →
      Gives (.memoryReadDone a .corrected .good) s fun u =>
        u.rd (if rank % 2 = 0 then E.ceCount0 else E.ceCount1) (rank / 2) =
          min (s.rd (if rank % 2 = 0 then E.ceCount0 else E.ceCount1) (rank / 2) + 1) (2 ^ 32 - 1) ∧
        u.faultQ = s.faultQ ++ [⟨0x70 + rank / 2, 1, a - a % 256⟩] ∧ u.memory.map = s.memory.map ∧
        u.memory.badBlocks = s.memory.badBlocks ∧ (u.rank rank).st = (s.rank rank).st ∧
        SameBut s u [rowKey (if rank % 2 = 0 then E.ceCount0 else E.ceCount1) (rank / 2) 0]) ∧
    ((s.rank rank).st = 1 → (s.rank rank).ues.length < 64 →
      Gives (.memoryReadDone a .uncorrectable .good) s fun u =>
        u.rd (if rank % 2 = 0 then E.ueCount0 else E.ueCount1) (rank / 2) =
          min (s.rd (if rank % 2 = 0 then E.ueCount0 else E.ueCount1) (rank / 2) + 1) (2 ^ 32 - 1) ∧
        u.faultQ = s.faultQ ++ [⟨0x70 + rank / 2, 2, a - a % 256⟩] ∧ u.memory.failing = s.memory.failing ++ [(rank, some p)] ∧
        u.memory.badBlocks.contains (phys / 256) = true ∧ (u.rank rank).st = 2 ∧ u.memory.map = s.memory.map ∧
        SameBut s u [rowKey (if rank % 2 = 0 then E.ueCount0 else E.ueCount1) (rank / 2) 0]) ∧
    (s.memory.failing = [(rank, some p)] → (s.rank rank).st = 2 →
      (freeSpare s = none → (assignSpares s).faultQ = s.faultQ ++ [⟨0x70 + rank / 2, 4, 0⟩] ∧
        ((assignSpares s).rank rank).st = 2 ∧ (assignSpares s).memory.queue = s.memory.queue) ∧
      ∀ k, freeSpare s = some k → s.memory.queue = [] → s.memory.ch4Ready = false →
        ((assignSpares s).rank rank).st = 3 ∧ ((assignSpares s).rank k).st = 7 ∧ (assignSpares s).memory.failing = [] ∧
        (assignSpares s).memory.queue = [⟨rank, k, some p, [], false⟩] ∧ (assignSpares s).faultQ = s.faultQ) ∧
    (Gives (.memoryReadDone a .good .uncorrectable) s fun u =>
      pageState u p = 3 ∧ u.memory.map = s.memory.map ∧ u.faultQ = s.faultQ ++ [⟨0x78, 2, p⟩] ∧ SameBut s u []) ∧
    (∀ (r : Rank) (f : Fin 1820) (b : Fin 8192), s.rd E.scrubPeriod ≠ 0 → rankInUse s (2 * r.1 + r.2) = true →
      s.domOn (dramDom ((2 * r.1 + r.2) / 2)) = true → f.val < s.rdN E.framesPerRank →
      pageOfFrame s (2 * r.1 + r.2) f = some p → s.rd E.ceLimit = 0 →
      s.memory.badBlocks.contains ((frameAt (2 * r.1 + r.2) f + b * 256) / 256) = false →
      ((s.rank (2 * r.1 + r.2)).power < 3 →
        (Gives (.patrolScrub r f b .good) s fun u => u.faultQ = s.faultQ ∧ u.memory.badBlocks = s.memory.badBlocks ∧
          SameBut s u []) ∧
        Gives (.patrolScrub r f b .corrected) s fun u =>
          u.faultQ = s.faultQ ++ [⟨0x70 + (2 * r.1 + r.2) / 2, 1, p * 2 ^ 21 + b * 256⟩]) ∧
      ∀ ecc, (s.rank (2 * r.1 + r.2)).power = 3 → exec (.patrolScrub r f b ecc) s =
        .next (s.setRank (2 * r.1 + r.2) { s.rank (2 * r.1 + r.2) with power := 4 })) ∧
    ∀ (r : Rank) (rate : Nat) (above hot : Bool), rankInUse s (2 * r.1 + r.2) = true →
      s.domOn (dramDom ((2 * r.1 + r.2) / 2)) = true →
      Gives (.mr4Poll r rate above hot) s fun u => (u.rank (2 * r.1 + r.2)).mr4 = some rate ∧
        (u.rank (2 * r.1 + r.2)).hot = above ∧ (u.rank (2 * r.1 + r.2)).overTemp = hot ∧ (u.rank (2 * r.1 + r.2)).st = (s.rank (2 * r.1 + r.2)).st ∧
        u.faultQ = (if hot then s.faultQ ++ [⟨0x70 + (2 * r.1 + r.2) / 2, 6, 0⟩] else s.faultQ) ∧ SameBut s u []

/-- R316, R317, R319, R320: with channel 4 trained the waiting migration begins, over the pages of the failing rank, that of
the first error first; a copied page switches to the same frame of the spare, whose bytes are then those of the old frame; the
end of the last page retires the failing rank and puts the spare in use. -/
def Obligations.MigrationMovesPages : Prop :=
  ∀ (s : State) (m : Migration) (rest : List Migration), s.memory.queue = m :: rest → m.rank < 10 →
    m.spare = 8 ∨ m.spare = 9 → m.rank ≠ m.spare →
    (m.begun = false → s.memory.ch4Ready = false → s.domOn 5 = true →
      Gives (.spareBringupDone true true) s fun u => u.memory.ch4Ready = true ∧ (u.rank m.rank).st = 4 ∧
        (u.rank m.spare).st = 8 ∧ u.rd E.migRank = m.rank ∧ u.rd E.migPagesDone = 0 ∧
        (∃ ps, u.memory.queue = { m with begun := true, pages := ps } :: rest ∧
          (∀ p, p ∈ ps ↔ ∃ v, (p, v) ∈ s.memory.map ∧ (pState v = 1 ∨ pState v = 2) ∧ pRank v = m.rank) ∧
          (∀ p, m.first = some p → p ∈ ps → ps.head? = some p) ∧
          ∀ p, ps.head? = some p → pState (pageEntry u p) = 2 ∧ pDstRank (pageEntry u p) = m.spare) ∧
        SameBut s u [rowKey E.migRank 0 0, rowKey E.migPagesDone 0 0]) ∧
    (∀ p ps f, s.memWf = true → m.begun = true → m.pages = p :: ps → ps.head? ≠ some p → f = pFrame (pageEntry s p) →
      (∀ b ∈ s.memory.badBlocks, ¬(frameAt m.rank f / 256 ≤ b ∧ b < frameAt m.rank f / 256 + 8192)) →
      Gives (.migPageSwitch []) s fun u => pState (pageEntry u p) = 1 ∧ pRank (pageEntry u p) = m.spare ∧
        pFrame (pageEntry u p) = f ∧ u.memory.queue = { m with pages := ps } :: rest ∧
        u.rd E.migPagesDone = s.rd E.migPagesDone + 1 ∧
        (∀ o, o < 2 ^ 21 → u.byte (frameAt m.spare f + o) = s.byte (frameAt m.rank f + o)) ∧
        (∀ x, ¬(frameAt m.spare f ≤ x ∧ x < frameAt m.spare f + 2 ^ 21) → u.byte x = s.byte x) ∧
        u.faultQ = s.faultQ ∧ ∀ r i j, rowKey r i j ≠ rowKey E.migPagesDone 0 0 → u.rd r i j = s.rd r i j) ∧
    (m.begun = true → m.pages = [] → (s.rank m.rank).st ≠ 5 → (s.rank m.spare).st = 8 → rest = [] →
      Gives .migrationEnd s fun u => (u.rank m.rank).st = 5 ∧ (u.rank m.rank).power = 1 ∧ (u.rank m.spare).st = 1 ∧
        u.memory.queue = [] ∧ u.rd E.migRank = 0xFF ∧
        (s.faultQ ++ [⟨0x70 + m.rank / 2, 5, 0⟩]) <+: u.faultQ ∧ ∀ p, pageEntry u p = pageEntry s p)

/-- R301, R330 to R334, R336, R338, R339: the timers put a rank that may rest into power-down or self-refresh entry, and the
exit ends; the start-up initialisation ends once; the cleared staging SRAM reads zeros and grants one access at a time,
requests held since earlier cycles first and then the first master of R336; one that is not ready refuses every request; an
address outside it names no memory. -/
def Obligations.RanksRestAndSramGrants : Prop :=
  (∀ (r : Rank) (s : State) (k : Nat), k = 2 * r.1 + r.2 → rankPowered s k = true →
    (s.rd E.pdTimer ≠ 0 → (s.rank k).power = 0 →
      exec (.pdTimer r) s = .next (s.setRank k { s.rank k with power := 1 })) ∧
    (s.rd E.srTimer ≠ 0 → (s.rank k).power ≤ 1 → (s.rank k).st = 1 ∨ (s.rank k).st = 6 ∨ (s.rank k).st = 8 →
      (s.busyJob = true → feedsJob s k = false) →
      exec (.srTimer r) s = .next (s.setRank k { s.rank k with power := 2 })) ∧
    ((s.rank k).st = 2 ∨ (s.rank k).st = 3 ∨ (s.rank k).st = 4 → exec (.srTimer r) s = .next s)) ∧
  (∀ (r : Rank) (s : State) (k : Nat), k = 2 * r.1 + r.2 → (s.rank k).power = 4 →
    exec (.selfRefreshExit r) s = .next (s.setRank k { s.rank k with power := 0 })) ∧
  (∀ s : State, s.memory.built = true → s.memory.initDone = false →
    Gives .initDone s fun u => u.memory.initDone = true ∧ u.memory.map = s.memory.map ∧
      SameBut s u [rowKey E.initPages 0 0]) ∧
  (∀ s : State, s.domState 11 = 3 → Gives .sramClearDone s fun u => u.domState 11 = 2 ∧
    (∀ a, 0x800000000000 ≤ a → a < 0x800000800000 → u.byte a = 0) ∧ ∀ r i j, u.rd r i j = s.rd r i j) ∧
  (∀ (s : State) (r : SramReq) (d : List Byte), s.domState 11 = 2 → s.memory.sramHeld = [] → r.data = some d →
    d.length = 32 → r.addr % 8 = 0 → 0x800000000000 ≤ r.addr → r.addr + 32 ≤ 0x800000800000 →
    Gives (.sramAccessGrant [r]) s fun u => u.bytes r.addr 32 = d ∧ u.memory.sramHeld = [] ∧
      (∀ x, ¬(r.addr ≤ x ∧ x < r.addr + 32) → u.byte x = s.byte x) ∧ u.faultQ = s.faultQ ∧
      ∀ q i j, u.rd q i j = s.rd q i j) ∧
  (∀ (r q : SramReq) (s : State), s.domState 11 = 2 → s.memory.sramHeld = [] → r.master < q.master → r.data = none →
    r.ecc = .corrected → 0 < r.len → r.len ≤ 8 → r.addr % 8 = 0 → 0x800000000000 ≤ r.addr →
    r.addr + 8 ≤ 0x800000800000 → s.memory.badSram = [] →
    Gives (.sramAccessGrant [q, r]) s fun u => u.memory.sramHeld = [q] ∧
      u.sent = .sramData r.master (s.bytes r.addr r.len) false :: s.sent ∧
      u.rd E.sramCeCount = min (s.rd E.sramCeCount + 1) (2 ^ 32 - 1) ∧ u.faultQ = s.faultQ ++ [⟨0xC0, 1, 0⟩] ∧
      SameBut s u [rowKey E.sramCeCount 0 0]) ∧
  (∀ (r : SramReq) (hs reqs : List SramReq) (s : State), s.domState 11 = 2 → s.memory.sramHeld = r :: hs → r.data = none →
    inSram r.addr r.len = true → Gives (.sramAccessGrant reqs) s fun u =>
      (∃ w, w.Perm reqs ∧ u.memory.sramHeld = hs ++ w) ∧ (∃ b, u.sent = .sramData r.master (s.bytes r.addr r.len) b :: s.sent) ∧
      ∀ x, u.byte x = s.byte x) ∧
  (∀ (reqs : List SramReq) (s : State), s.domState 11 ≠ 2 → Gives (.sramAccessGrant reqs) s fun u =>
    u.memory.sramHeld = [] ∧ u.sent = ((s.memory.sramHeld ++ reqs).map (fun r => .sramRefused r.master)).reverse ++ s.sent ∧
    SameBut s u []) ∧
  ∀ (r : SramReq) (s : State), s.domState 11 = 2 → s.memory.sramHeld = [] → r.addr < 0x800000000000 →
    exec (.sramAccessGrant [r]) s = .fault (.noSuchMemory r.addr)

/-! ### DMA and ring buffers -/

/-- R350, R361: an accepted START of a valid block on a channel that is idle, paused or stopped clears HOPS and RESULT and
makes the channel pending, or paused when PAUSE is 1, and a block with nothing to do completes at once; one on any other
channel, one that names an absent engine, and one of a block that is not valid, is refused. -/
def Obligations.DmaStartFollowsState : Prop :=
  ∀ (p : Port) (n : DmaCh) (s : State), Accepted s p (s.startSuperseded (.dma n)) E.start n 0 1 →
    ((s.dma n).st = .idle ∨ (s.dma n).st = .paused ∨ (s.dma n).st = .stopped →
      absentEngine s (blockOfChannel s n) = false → blockValid s (blockOfChannel s n) = true →
      0 < s.rdN E.count n ∨ bit (s.rdN E.ctrl n) 15 = true →
      Gives (.dmaStart p n) s fun u =>
        (u.dma n).st = (if s.rd E.pause n = 1 then .paused else .pending) ∧ (u.dma n).result = 0 ∧ u.rd E.hops n = 0 ∧
        (∀ k, k ≠ n.val → u.dma k = s.dma k) ∧ u.sent = .answer p okCode [] :: s.sent ∧
        SameBut s u [rowKey E.hops n 0]) ∧
    ((s.dma n).st = .idle ∨ (s.dma n).st = .paused ∨ (s.dma n).st = .stopped →
      absentEngine s (blockOfChannel s n) = false → blockValid s (blockOfChannel s n) = true →
      s.rdN E.count n = 0 → bit (s.rdN E.ctrl n) 15 = false →
      Gives (.dmaStart p n) s fun u => (u.dma n).st = .idle ∧ (u.dma n).result = 1 ∧ u.rd E.hops n = 0 ∧
        u.rd E.dmaDone = (s.rdN E.dmaDone ||| 2 ^ n.val : Nat) ∧ (∀ k, k ≠ n.val → u.dma k = s.dma k) ∧
        u.sent.head? = some (.answer p okCode []) ∧ u.faultQ = s.faultQ ∧ ∀ x, u.byte x = s.byte x) ∧
    ((s.dma n).st = .pending ∨ (s.dma n).st = .running ∨ (s.dma n).st = .pausing ∨ (s.dma n).st = .aborting →
      exec (.dmaStart p n) s = .next (s.answer p codeState)) ∧
    ((s.dma n).st = .idle ∨ (s.dma n).st = .paused ∨ (s.dma n).st = .stopped →
      absentEngine s (blockOfChannel s n) = true → exec (.dmaStart p n) s = .next (s.answer p codeNoObject)) ∧
    ((s.dma n).st = .idle ∨ (s.dma n).st = .paused ∨ (s.dma n).st = .stopped →
      absentEngine s (blockOfChannel s n) = false → blockValid s (blockOfChannel s n) = false →
      exec (.dmaStart p n) s = .next (s.answer p codeRange))

/-- R356: PAUSE 1 makes a running channel pausing, whose burst in flight completes and leaves it paused, and a pending one
paused; it is kept on every other channel. PAUSE 0 makes a paused channel pending and a pausing one running. -/
def Obligations.DmaPauseKeepsPlace : Prop :=
  ∀ (p : Port) (n : DmaCh) (s : State),
    (Accepted s p (s.pauseSuperseded (.dma n)) E.pause n 0 1 → Gives (.dmaPause p n) s fun u =>
      u.rd E.pause n = 1 ∧ u.sent = .answer p okCode [] :: s.sent ∧ (∀ k, k ≠ n.val → u.dma k = s.dma k) ∧
      u.dma n = { s.dma n with st := if (s.dma n).st = .running then .pausing
        else if (s.dma n).st = .pending then .paused else (s.dma n).st } ∧ SameBut s u [rowKey E.pause n 0]) ∧
    (Accepted s p (s.superseded (.dma n)) E.pause n 0 0 → Gives (.dmaUnpause p n) s fun u =>
      u.rd E.pause n = 0 ∧ u.sent = .answer p okCode [] :: s.sent ∧ (∀ k, k ≠ n.val → u.dma k = s.dma k) ∧
      u.dma n = { s.dma n with st := if (s.dma n).st = .paused then .pending
        else if (s.dma n).st = .pausing then .running else (s.dma n).st } ∧ SameBut s u [rowKey E.pause n 0]) ∧
    ((s.dma n).st = .pausing → ∀ u : State, exec (.dmaBurstDone n .good) s = .next u → u.rd E.count n ≠ 0 →
      u.rd E.count n ≠ s.rd E.count n → (u.dma n).st = .paused)

/-- R357: what ABORT does on a channel in each of its states; an aborting channel whose access ends goes idle with RESULT
aborted, moves nothing, and keeps its registers. -/
def Obligations.DmaAbortEndsIdle : Prop :=
  ∀ (p : Port) (n : DmaCh) (s : State),
    (Accepted s p (s.superseded (.dma n)) E.abort n 0 1 → Gives (.dmaAbort p n) s fun u =>
      (∀ k, k ≠ n.val → u.dma k = s.dma k) ∧ SameBut s u [] ∧
      ((s.dma n).st = .idle → u.dma n = s.dma n ∧ u.sent = .answer p codeNothing [] :: s.sent) ∧
      ((s.dma n).st = .aborting → u.dma n = s.dma n ∧ u.sent = .answer p okCode [] :: s.sent) ∧
      ((s.dma n).st = .running ∨ (s.dma n).st = .pausing →
        u.dma n = { s.dma n with st := .aborting } ∧ u.sent = .answer p okCode [] :: s.sent) ∧
      ((s.dma n).st = .pending ∨ (s.dma n).st = .paused ∨ (s.dma n).st = .stopped →
        (u.dma n).st = .idle ∧ (u.dma n).result = 2 ∧ u.sent = .answer p okCode [] :: s.sent)) ∧
    ((s.dma n).st = .aborting → ∀ e : EccResult, ∀ c ∈ [Instr.dmaBurstDone n e, .dmaBlockComplete n, .dmaDescriptorLoad n e],
      Gives c s fun u => (u.dma n).st = .idle ∧ (u.dma n).result = 2 ∧ (∀ k, k ≠ n.val → u.dma k = s.dma k) ∧
        u.faultQ = s.faultQ ∧ u.sent = s.sent ∧ SameBut s u [])

/-- R351, R353, R359, R360, R363, R364, R366, R377: the lowest pending channel runs; a burst of a plain block moves its bytes
and leaves the registers exact; a request without response stops the channel and is reported; a block's completion ends
the chain; a descriptor loads all six registers; a completed block's commit request pends; DMA_DONE bits clear. -/
def Obligations.DmaMovesBlocks : Prop :=
  ∀ (n : DmaCh) (s : State),
    (s.domOn 11 = true → (∃ k, k < 16 ∧ holdsEngine (s.dma k) = true) → exec .dmaChannelRun s = .next s) ∧
    (s.domOn 11 = true → (∀ k, k < 16 → holdsEngine (s.dma k) = false) → (s.dma n).st = .pending →
      (∀ k, k < n.val → (s.dma k).st ≠ .pending) → unitInReset s (0x80 + n) = false → 0 < s.rdN E.count n →
      exec .dmaChannelRun s = .next (s.setDma n { s.dma n with st := .running })) ∧
    (∀ a b k : Nat, a = s.rdN E.src n → b = s.rdN E.dst n → k = s.rdN E.count n → (s.dma n).st = .running →
      (s.dma n).loading = false → (s.dma n).blockEnd = false → s.domState 11 = 2 → s.rdN E.ctrl n = 0 → 0 < k →
      a % 64 + k ≤ 64 → 0x800000000000 ≤ a → a + k ≤ 0x800000800000 → 0xA00000000000 ≤ b → b + k ≤ 0xA00000010000 →
      s.memory.badSram = [] →
      Gives (.dmaBurstDone n .good) s fun u => u.bytes b k = s.bytes a k ∧
        (∀ x, ¬(b ≤ x ∧ x < b + k) → u.byte x = s.byte x) ∧ u.rd E.src n = (a + k : Nat) ∧ u.rd E.dst n = (b + k : Nat) ∧
        u.rd E.count n = 0 ∧ (u.dma n).blockEnd = true ∧ (u.dma n).st = .running ∧ u.faultQ = s.faultQ ∧ u.sent = s.sent ∧
        ∀ r i j, rowKey r i j ∉ [rowKey E.src n 0, rowKey E.dst n 0, rowKey E.count n 0] → u.rd r i j = s.rd r i j) ∧
    (∀ side : Fin 3, (s.dma n).st = .running → (s.dma n).loading = decide (side = 2) →
      ¬(side = 1 ∧ heldByShadow s (blockOfChannel s n) = true) →
      Gives (.busTimeout n side) s fun u => (u.dma n).st = .stopped ∧ (u.dma n).result = 4 ∧ (u.dma n).side = side.val ∧
        u.rd E.faultAddr n = (if side = 0 then silentAt s ((blockOfChannel s n).srcRanges 1)
          else if side = 1 then silentAt s ((blockOfChannel s n).dstRanges 1) else s.rdN E.link n : Nat) ∧
        (∃ a, u.faultQ = s.faultQ ++ [⟨0x80 + n, 2, a⟩] ∧ u.rd E.faultAddr n = (a : Nat)) ∧
        SameBut s u [rowKey E.faultAddr n 0]) ∧
    ((s.dma n).st = .running → (s.dma n).blockEnd = true → bit (s.rdN E.ctrl n) 13 = false →
      bit (s.rdN E.ctrl n) 14 = false → bit (s.rdN E.ctrl n) 15 = false →
      Gives (.dmaBlockComplete n) s fun u => (u.dma n).st = .idle ∧ (u.dma n).result = 1 ∧ (u.dma n).commitReq = false ∧
        u.rd E.dmaDone = (s.rdN E.dmaDone ||| 2 ^ n.val : Nat) ∧ u.faultQ = s.faultQ ∧ u.sent = s.sent ∧
        SameBut s u [rowKey E.dmaDone 0 0]) ∧
    (∀ (a : Nat) (l : List Byte) (b : Block), a = s.rdN E.link n → l = s.bytes a 32 → b = descriptor l →
      (s.dma n).st = .running → (s.dma n).loading = true → s.domState 11 = 2 → 0xA00000000000 ≤ a → a + 32 ≤ 0xA00000010000 →
      (blockValid s b = true → b.count ≠ 0 → Gives (.dmaDescriptorLoad n .good) s fun u =>
        u.rd E.src n = ofBytes (l.take 6) ∧ u.rd E.dst n = ofBytes ((l.drop 6).take 6) ∧
        u.rd E.count n = ofBytes ((l.drop 12).take 4) ∧ u.rd E.ctrl n = ofBytes ((l.drop 16).take 4) ∧
        u.rd E.link n = ofBytes ((l.drop 20).take 6) ∧ u.rd E.rsStride n = ofBytes ((l.drop 26).take 4) ∧
        u.rd E.hops n = s.rd E.hops n + 1 ∧ (u.dma n).st = .running ∧ (u.dma n).loading = false ∧ u.faultQ = s.faultQ ∧
        SameBut s u [rowKey E.src n 0, rowKey E.dst n 0, rowKey E.count n 0, rowKey E.ctrl n 0, rowKey E.link n 0,
          rowKey E.rsStride n 0, rowKey E.hops n 0]) ∧
      Gives (.dmaDescriptorLoad n .uncorrectable) s fun u => (u.dma n).st = .stopped ∧ (u.dma n).result = 7 ∧
        (u.dma n).side = 2 ∧ u.rd E.faultAddr n = (a : Nat) ∧ u.faultQ = s.faultQ ++ [⟨0x80 + n, 5, a⟩] ∧
        SameBut s u [rowKey E.faultAddr n 0]) ∧
    (∀ (a e : Nat), (s.dma n).commitAt = some a → shadowOf a = some (e, .shape) → s.domOn (engDom e) = true →
      s.superseded (.engine e) = false →
      Gives (.dmaCommitRequest n) s fun u => (u.eng e).pendShape = true ∧ (u.dma n).commitAt = none ∧
        u.faultQ = s.faultQ ∧ u.sent = s.sent ∧ SameBut s u []) ∧
    ∀ (p : Port) (v : Nat), Accepted s p (s.superseded noTarget) E.dmaDone 0 0 v →
      exec (.dmaDoneClear p v) s =
        .next ((s.wr E.dmaDone (s.rdN E.dmaDone - (s.rdN E.dmaDone &&& v) : Nat)).answer p okCode)

/-- R368, R377, R387: RB_WR takes any value while no job runs, is not lowered while one does, and is intake's while the
buffer is streamed into; a write of a ring buffer's geometry also sets RB_WR to 0. -/
def Obligations.RingBufferWritesTakeEffect : Prop :=
  ∀ (p : Port) (r : RingBuf) (v : Nat) (s : State),
    (Accepted s p (s.superseded noTarget) E.rbWr r 0 v →
      (s.rd E.rsEn r ≠ 1 → s.busyJob = false ∨ s.rdN E.rbWr r ≤ v →
        exec (.rbWrWrite p r v) s = .next ((s.wr E.rbWr v r).answer p okCode)) ∧
      (s.rd E.rsEn r ≠ 1 → s.busyJob = true → v < s.rdN E.rbWr r →
        exec (.rbWrWrite p r v) s = .next (s.answer p codeRange)) ∧
      (s.rd E.rsEn r = 1 → exec (.rbWrWrite p r v) s = .next (s.answer p codeState))) ∧
    ∀ f : GeoField, Accepted s p (s.superseded noTarget) (geoRow f) r 0 v →
      Gives (.rbGeometryWrite p r f v) s fun u => u.rd (geoRow f) r = v ∧ u.rd E.rbWr r = 0 ∧
        u.sent = .answer p okCode [] :: s.sent ∧ SameBut s u [rowKey (geoRow f) r 0, rowKey E.rbWr r 0]

/-! ### Raster intake -/

/-- R378, R385 to R388, R390, R391, R393: a frame that is damaged or has no size the port takes is counted and discarded, and
one for another station is discarded; an accepted segment is written at its place in the ring buffer, at once or when memory
accepts it, and marked received; one of a passed line, and one received before, are counted and write nothing; a line that a
datagram names absent is closed without a message; a staging SRAM write, none of whose partly covered words is uncorrectable,
lands at its offset, and one while the SRAM is not ready is counted and reported. -/
def Obligations.DatagramsAreTaken : Prop :=
  ∀ (p : Fin 2) (d : Datagram) (s : State), intakeOpen s p = true → s.finup = false →
    (d.frame.good = false ∨ sizeOk d.frame = false → ∀ c ∈ [Instr.lineSegment p d, .absentLines p d, .stagingSramWrite p d],
      exec c s = .next (s.wr E.dropFrame (min (s.rd E.dropFrame p + 1) (2 ^ 32 - 1)) p)) ∧
    (d.frame.good = true → sizeOk d.frame = true → frameFor s p d.frame false = false →
      ∀ c ∈ [Instr.lineSegment p d, .absentLines p d, .stagingSramWrite p d], exec c s = .next s) ∧
    ∀ (h : RsHeader) (x : List Byte), checkDatagram s p d = .inl h → x = (d.payload.drop 32).take h.len →
      (∀ (l : OpenLine) (g a : Nat), h.type = 0 → l = openLine (s.stream h.rb) h.line →
        g = h.ofs / s.rdN E.rsSegBytes h.rb →
        a = s.rdN E.rbBase h.rb + h.line % s.rdN E.rbLines h.rb * s.rdN E.rbStride h.rb + h.ofs →
        (s.rdN E.rbWr h.rb ≤ h.line → h.line < lineLimit s h.rb → l.closed = false → l.got.contains g = false →
          reachAll s a h.len ≠ .refused → Gives (.lineSegment p d) s fun u =>
            (u.mem = if reachAll s a h.len = .silent then s.mem else (logicalWrite s a x).mem) ∧
            (reachAll s a h.len = .silent → u.memory.waiting = s.memory.waiting ++ [⟨a, x, some (p, h.rb, h.line, g)⟩]) ∧
            u.rd E.rxSegs p = wrap48 (s.rd E.rxSegs p + 1) ∧
            u.rd E.rxBytes p = wrap48 (s.rd E.rxBytes p + h.len) ∧
            (openLine (u.stream h.rb) h.line).got = l.got ++ [g] ∧
            (u.stream h.rb).sender = some (p.val, d.frame.srcMac, d.srcIp, d.srcPort) ∧ u.faultQ = s.faultQ ∧ u.sent = s.sent ∧
            ∀ r i j, rowKey r i j ∉ [rowKey E.rxSegs p 0, rowKey E.rxBytes p 0] → u.rd r i j = s.rd r i j) ∧
        (h.line < s.rdN E.rbWr h.rb ∨ l.closed = true → exec (.lineSegment p d) s =
          .next (s.wr E.lateSegs (min (s.rd E.lateSegs h.rb + 1) (2 ^ 32 - 1)) h.rb)) ∧
        (s.rdN E.rbWr h.rb ≤ h.line → h.line < lineLimit s h.rb → l.closed = false → l.got.contains g = true →
          exec (.lineSegment p d) s = .next (s.wr E.dupSegs (min (s.rd E.dupSegs h.rb + 1) (2 ^ 32 - 1)) h.rb))) ∧
      (h.type = 1 → h.count = 1 → (s.stream h.rb).absent = [] → s.rdN E.rbWr h.rb ≤ h.line → h.line < lineLimit s h.rb →
        (openLine (s.stream h.rb) h.line).closed = false → lineComplete s h.rb (openLine (s.stream h.rb) h.line) = false →
        Gives (.absentLines p d) s fun u =>
          u.rd E.missingLines h.rb = min (s.rd E.missingLines h.rb + 1) (2 ^ 32 - 1) ∧ u.faultQ = s.faultQ ∧
          u.sent = s.sent ∧ (s.rd E.rsFill h.rb = 0 → ∀ y, u.byte y ≠ s.byte y → u.byte y = 0) ∧
          ∀ r i j, rowKey r i j ∉ [rowKey E.missingLines h.rb 0, rowKey E.rbWr h.rb 0] → u.rd r i j = s.rd r i j) ∧
      (h.type = 2 → s.domState 11 = 2 → (∀ w ∈ s.memory.badSram, w ∈ sramWords (0x800000000000 + h.ofs) h.len →
          sramWhole (0x800000000000 + h.ofs) h.len w = true) → Gives (.stagingSramWrite p d) s fun u =>
        u.bytes (0x800000000000 + h.ofs) h.len = x ∧
        (∀ y, ¬(0x800000000000 + h.ofs ≤ y ∧ y < 0x800000000000 + h.ofs + h.len) → u.byte y = s.byte y) ∧
        u.faultQ = s.faultQ ∧ u.rd E.rxBytes p = wrap48 (s.rd E.rxBytes p + h.len) ∧
        ∀ r i j, rowKey r i j ≠ rowKey E.rxBytes p 0 → u.rd r i j = s.rd r i j) ∧
      (h.type = 2 → s.domState 11 ≠ 2 → (s.port p).sentAt.find? (fun y => y.1 == 7) = none →
        Gives (.stagingSramWrite p d) s fun u =>
          u.rd E.dropOther p = min (s.rd E.dropOther p + 1) (2 ^ 32 - 1) ∧ u.faultQ = s.faultQ ++ [⟨0xA0 + p, 7, 0⟩] ∧
          SameBut s u [rowKey E.dropOther p 0])

/-- R387, R389, R390, R392: the write of a line's last segment advances RB_WR; the gap time-out closes the lowest line that
is not complete, counts it and reports it; a status datagram carries RB_WR and RB_FREE to the latest sender. -/
def Obligations.LinesCompleteOrClose : Prop :=
  ∀ (r : RingBuf) (s : State),
    (∀ (seg n : Nat) (l : OpenLine), n = s.rdN E.rbWr r → n + 1 < 2 ^ 32 → l = openLine (s.stream r) n →
      (s.stream r).absent = [] → (s.stream r).lines = [l] → l.line = n → l.got.contains seg = true →
      l.written.contains seg = false → (∀ k, k < segments s r → k = seg ∨ l.written.contains k = true) → seg < segments s r →
      Gives (.segmentWriteDone r n seg) s fun u => u.rd E.rbWr r = n + 1 ∧ u.faultQ = s.faultQ ∧ u.sent = s.sent ∧
        SameBut s u [rowKey E.rbWr r 0]) ∧
    (∀ k : Nat, s.rd E.rsEn r = 1 → gapLine s r = some k → (s.stream r).absent = [] →
      Gives (.rsGapTimeout r .good) s fun u =>
        u.rd E.missingLines r = min (s.rd E.missingLines r + 1) (2 ^ 32 - 1) ∧
        (∃ q : Nat, u.faultQ = s.faultQ ++ [⟨0xA0 + q, 4, k⟩]) ∧ u.sent = s.sent ∧
        (s.rd E.rsFill r = 0 → ∀ y, u.byte y ≠ s.byte y → u.byte y = 0) ∧
        ∀ q i j, rowKey q i j ∉ [rowKey E.missingLines r 0, rowKey E.rbWr r 0] → u.rd q i j = s.rd q i j) ∧
    ∀ (q mac : Nat) (ip : List Byte) (udp : Nat), (s.stream r).sender = some (q, mac, ip, udp) → s.rd E.rsAckPeriod ≠ 0 →
      s.rd E.rsEn r = 1 → intakeOpen s q = true → s.finup = false → ∀ h : List Byte,
      h = [0xE5, 0x18] ++ toBytes 1 r ++ [0] ++ toBytes 4 (s.rdN E.rbWr r) ++ toBytes 4 (rbFree s r) ++
        List.replicate 16 0 →
      ∀ (own x : List Byte) (o : Out), own = (if ip.length = 4 then toBytes 4 (s.rdN E.ipv4Addr q) else s.bytes (ipv6At q) 16) →
      x = h ++ toBytes 4 (crc32c h) →
      o = .datagram q mac ip udp (s.rdN E.macAddr q) own (s.rdN E.rsUdpPort)
        (udpChecksum own ip (s.rdN E.rsUdpPort) udp x) x →
      exec (.statusDatagram r) s = .next { s with sent := o :: s.sent }

/-- R378, R380, R384, R395, R397: a port answers an ARP request or a neighbour solicitation for its own address and no other;
a lost link and more than 16 uncorrectable codewords are reported; a link comes up; RS_EN 1 needs the sizes of R384. -/
def Obligations.PortsAnswerAndReport : Prop :=
  (∀ (p : Fin 2) (f : Frame) (ip target : Nat) (s : State), intakeOpen s p = true → f.good = true → sizeOk f = true →
    frameFor s p f true = true →
    (s.rd E.ipv4Addr p ≠ 0 → target = s.rdN E.ipv4Addr p → exec (.arpRequest p f ip target) s =
      .next { s with sent := .arpReply p f.srcMac ip (s.rdN E.macAddr p) target :: s.sent }) ∧
    (s.rd E.ipv4Addr p = 0 ∨ target ≠ s.rdN E.ipv4Addr p → exec (.arpRequest p f ip target) s = .next s)) ∧
  (∀ (p : Fin 2) (f : Frame) (ip target : List Byte) (s : State), intakeOpen s p = true → f.good = true →
    sizeOk f = true → frameFor s p f false = true →
    (s.bytes (ipv6At p) 16 ≠ List.replicate 16 0 → target = s.bytes (ipv6At p) 16 →
      exec (.neighbourSolicitation p f ip target) s =
        .next { s with sent := .neighbourAdvert p f.srcMac ip (s.rdN E.macAddr p) target :: s.sent }) ∧
    (s.bytes (ipv6At p) 16 = List.replicate 16 0 ∨ target ≠ s.bytes (ipv6At p) 16 →
      exec (.neighbourSolicitation p f ip target) s = .next s)) ∧
  (∀ (p : Fin 2) (s : State), s.domOn 2 = true → (s.port p).linkUp = true →
    Gives (.linkDown p) s fun u => (u.port p).linkUp = false ∧ u.faultQ = s.faultQ ++ [⟨0xA0 + p, 1, 0⟩] ∧
      u.sent = s.sent ∧ SameBut s u []) ∧
  (∀ (p : Fin 2) (an : Bool) (s : State), s.domOn 2 = true → s.rd E.portEn p = 1 →
    unitInReset s (0xA0 + p) = false →
    Gives (.linkUp p an) s fun u => (u.port p).linkUp = true ∧ (u.port p).anDone = (an && s.finup) ∧
      u.faultQ = s.faultQ ∧ u.sent = s.sent ∧ SameBut s u []) ∧
  (∀ (p : Fin 2) (n : Nat) (s : State), s.domOn 2 = true → s.rd E.portEn p = 1 → s.finup = false →
    Gives (.fecUncorr p n) s fun u =>
      u.rd E.fecUncorrCnt p = min (s.rd E.fecUncorrCnt p + n) (2 ^ 32 - 1) ∧
      u.faultQ = (if 16 < n then s.faultQ ++ [⟨0xA0 + p, 2, 0⟩] else s.faultQ) ∧
      SameBut s u [rowKey E.fecUncorrCnt p 0]) ∧
  ∀ (p : Port) (r : RingBuf) (s : State), Accepted s p (s.superseded noTarget) E.rsEn r 0 1 → s.rd E.rsEn r ≠ 1 →
    (s.rdN E.rsSegBytes r % 64 = 0 ∧ 64 ≤ s.rdN E.rsSegBytes r ∧ s.rdN E.rsSegBytes r ≤ 9088 ∧
        0 < s.rdN E.rsLineBytes r ∧ s.rdN E.rsLineBytes r ≤ s.rdN E.rbStride r ∧
        s.rdN E.rsLineBytes r ≤ 256 * s.rdN E.rsSegBytes r ∧ s.rdN E.rsWindow ≤ s.rdN E.rbLines r →
      Gives (.rsEnWrite p r 1) s fun u => u.rd E.rsEn r = 1 ∧ (u.stream r).sender = none ∧ (u.stream r).lines = [] ∧
        u.sent = .answer p okCode [] :: s.sent ∧ SameBut s u [rowKey E.rsEn r 0]) ∧
    (s.rdN E.rsLineBytes r = 0 ∨ s.rdN E.rbStride r < s.rdN E.rsLineBytes r ∨ s.rdN E.rsSegBytes r % 64 ≠ 0 →
      exec (.rsEnWrite p r 1) s = .next (s.answer p codeRange))

/-! ### The Darine ring -/

/-- R405 to R407, R428: a good frame that does not end here leaves again with HOPS counted and its CRC anew, a SYNC with its
CORRECTION increased; one that ends here is counted alone; one with a bad CRC is counted, reported and cut; an own frame that
has waited long enough goes first. -/
def Obligations.RingForwardsFrames : Prop :=
  ∀ (i : RingId) (f : RingFrame) (s : State) (hops : Nat), RingsFree s → (s.lane i).inUp = true → 16 ≤ f.bytes.length →
    hops = (frameField f.bytes 6 2 + 1) % 65536 →
    (frameGood f.bytes = true → f.errorBlock = false → keeps s f.bytes hops = false →
      Gives (.ringFrameForward i f) s fun u => u.rd E.rxFrames i = wrap48 (s.rd E.rxFrames i + 1) ∧
        u.rd E.txFrames i = wrap48 (s.rd E.txFrames i + 1) ∧ u.faultQ = s.faultQ ∧
        SameBut s u [rowKey E.rxFrames i 0, rowKey E.txFrames i 0] ∧
        ∃ (hop : Nat) (h : List Byte), hop ≤ 81920 ∧ u.sent = .ringFrame i (h ++ toBytes 4 (crc32c h)) false :: s.sent ∧
          h.take 6 = f.bytes.take 6 ∧ frameField h 6 2 = hops ∧ h.length = f.bytes.length - 4 ∧
          (frameField f.bytes 0 1 % 16 ≠ 0 → h.drop 8 = (f.bytes.take (f.bytes.length - 4)).drop 8) ∧
          (frameField f.bytes 0 1 % 16 = 0 → 32 ≤ f.bytes.length →
            frameField h 20 8 = unsigned 64 (signed 64 (frameField f.bytes 20 8) + (s.rd E.linkDelay i + hop)))) ∧
    (frameGood f.bytes = true → f.errorBlock = false → keeps s f.bytes hops = true →
      Gives (.ringFrameForward i f) s fun u => u.rd E.rxFrames i = wrap48 (s.rd E.rxFrames i + 1) ∧ u.sent = s.sent ∧
        u.faultQ = s.faultQ ∧ SameBut s u [rowKey E.rxFrames i 0]) ∧
    (frameGood f.bytes = false → f.errorBlock = false → keeps s f.bytes hops = false → (s.lane i).crcAt = none →
      Gives (.ringFrameForward i f) s fun u => u.rd E.crcErrors i = min (s.rd E.crcErrors i + 1) (2 ^ 32 - 1) ∧
        u.faultQ = s.faultQ ++ [⟨0xA8 + i, 3, 0⟩] ∧ (∃ b, u.sent = .ringFrame i b true :: s.sent) ∧
        u.rd E.rxFrames i = s.rd E.rxFrames i) ∧
    ∀ (t : State) (b : List Byte) (rest : List (List Byte)), ringOn t = true → prbsOnRing t i = false →
      (t.lane i).own = b :: rest → (t.lane i).inj = false →
      Gives (.ringInjWait i) t fun u => u.sent = .ringFrame i b false :: t.sent ∧ (u.lane i).own = rest ∧
        (u.lane i).inj = true ∧ SameBut t u [rowKey E.txFrames i 0]

/-- R411 to R413: a request is answered on its ring with its SEQ; a full queue answers "busy" and executes nothing; a repeated
write is answered from the record and executes nothing; an executed write is kept in the record. -/
def Obligations.RingServesDictionary : Prop :=
  ∀ (q : RingReq) (s : State), portUp s (reqPort q) = true → inReset s = false → q.src ≠ 0xFFFE → RingsFree s →
    (64 ≤ s.ring.queue.length → ∀ c ∈ [Instr.ringDictRead q, .ringDictWrite q],
      Gives c s fun u => u.rd E.reqBusy = min (s.rd E.reqBusy + 1) (2 ^ 32 - 1) ∧
        (∃ x : List Byte, u.sent = .ringFrame q.ring (ringFrameBytes 4 q.ring q.src (nodeAddr s) 0 q.seq x) false :: s.sent ∧
          (x.drop 12).take 4 = toBytes 4 codeBusy) ∧
        SameBut s u [rowKey E.reqBusy 0 0, rowKey E.txFrames q.ring 0]) ∧
    (s.ring.queue.length < 64 →
      (∀ data : List Byte, 1 ≤ q.dlen → q.dlen ≤ 240 → reqKey q ≠ E.summary.k0 →
        dictRead s (reqKey q) q.ofs q.dlen = (okCode, data) →
        Gives (.ringDictRead q) s fun u => u.sent = .ringFrame q.ring (ringFrameBytes 4 q.ring q.src (nodeAddr s) 0 q.seq
            (respPayload 1 true q (q.ofs % 2 ^ 32) okCode (data.take 240))) false ::
            .answer (reqPort q) okCode data :: s.sent ∧ u.faultQ = s.faultQ ∧
          SameBut s u [rowKey E.txFrames q.ring 0]) ∧
      (∀ code : Nat, s.ring.dups.find? (fun d => d.1 == q.src && d.2.1 == q.seq) = some (q.src, q.seq, code) →
        Gives (.ringDictWrite q) s fun u => u.rd E.dupWrites = min (s.rd E.dupWrites + 1) (2 ^ 32 - 1) ∧
          u.sent = .ringFrame q.ring (ringFrameBytes 4 q.ring q.src (nodeAddr s) 0 q.seq
            (respPayload 2 false q (q.ofs % 2 ^ 32) code [])) false :: s.sent ∧
          SameBut s u [rowKey E.dupWrites 0 0, rowKey E.txFrames q.ring 0]) ∧
      ∀ (code : Nat) (t : State), s.ring.dups.find? (fun d => d.1 == q.src && d.2.1 == q.seq) = none →
        (∀ w ∈ s.ring.queue, ¬(w.src = q.src ∧ w.seq = q.seq)) →
        anyWrite (reqKey q) q.ofs q.data (some (reqPort q)) s = (code, t) → code ≠ laterCode → RingsFree t →
        Gives (.ringDictWrite q) s fun u => u.ring.dups.head? = some (q.src, q.seq, code) ∧
          u.sent = .ringFrame q.ring (ringFrameBytes 4 q.ring q.src (nodeAddr t) 0 q.seq
            (respPayload 2 false q (q.ofs % 2 ^ 32) code [])) false :: .answer (reqPort q) code [] :: t.sent ∧
          SameBut t u [rowKey E.txFrames q.ring 0])

/-- R418 to R423: an assigned node announces its nonce on both rings, joins when it comes back, and is unassigned after an
address conflict or when it does not; a broken side wraps and is reported; a side that has been good for RING_HEAL unwraps;
LINK_STATE tells each neighbour whether it is received. -/
def Obligations.RingJoinsAndWraps : Prop :=
  (∀ (s : State) (n : Nat), RingsFree s → assigned s = true → n = aget 0 8 s.ring.seqs →
    Gives .announceSend s fun u => u.ring.annAt = some s.tick ∧
      u.sent = [.ringFrame 1 (ringFrameBytes 8 1 0xFFFF (nodeAddr s) 0 n (toBytes 4 (s.fuse 1))) false,
        .ringFrame 0 (ringFrameBytes 8 0 0xFFFF (nodeAddr s) 0 n (toBytes 4 (s.fuse 1))) false] ++ s.sent ∧
      SameBut s u [rowKey E.txFrames 0 0, rowKey E.txFrames 1 0]) ∧
  (∀ (s : State) (nonce : Nat), ringOn s = true → assigned s = true →
    (nonce = s.fuse 1 % 2 ^ 32 → lanesReady s = true → s.ring.join = 1 →
      exec (.announceReceive (nodeAddr s) nonce) s = .next { s with ring := { s.ring with annAt := none, join := 2 } }) ∧
    (nonce ≠ s.fuse 1 % 2 ^ 32 → Gives (.announceReceive (nodeAddr s) nonce) s fun u =>
      u.ring.addrConflict = true ∧ u.ring.root = false ∧ nodeAddr u = 0xFFFE ∧ u.faultQ = s.faultQ ++ [⟨0xA8, 4, 0⟩] ∧
      SameBut s u [rowKey E.rtState 0 0]) ∧
    (s.ring.annAt.isSome = true → Gives .annTimeout s fun u =>
      u.ring.addrConflict = true ∧ nodeAddr u = 0xFFFE ∧ u.faultQ = s.faultQ ++ [⟨0xA8, 4, 0⟩] ∧
      SameBut s u [rowKey E.rtState 0 0])) ∧
  (∀ s : State, s.ring.join = 1 → (s.lane 0).inUp = false → (s.lane 1).inUp = false →
    exec .ringAbsent s = .next { s with ring := { s.ring with join := 3 } }) ∧
  (∀ s : State, ringOn s = true →
    ((s.lane 0).inUp = true → s.ring.wrapUp = false → downBroken s = false → Gives (.laneDown 0) s fun u =>
      (u.lane 0).inUp = false ∧ u.ring.wrapUp = true ∧ u.rd E.laneDowns 0 = min (s.rd E.laneDowns 0 + 1) (2 ^ 32 - 1) ∧
      u.faultQ = s.faultQ ++ [⟨0xA8, 1, 0⟩, ⟨0xA8, 2, 0⟩] ∧ SameBut s u [rowKey E.laneDowns 0 0]) ∧
    ((s.lane 1).inUp = true → s.ring.wrapDown = false → upBroken s = false → Gives (.laneDown 1) s fun u =>
      (u.lane 1).inUp = false ∧ u.ring.wrapDown = true ∧ u.rd E.laneDowns 1 = min (s.rd E.laneDowns 1 + 1) (2 ^ 32 - 1) ∧
      u.faultQ = s.faultQ ++ [⟨0xA9, 1, 0⟩, ⟨0xA9, 2, 0⟩] ∧ SameBut s u [rowKey E.laneDowns 1 0]) ∧
    (∀ i : RingId, (s.lane i).inUp = false → unitInReset s (0xA8 + i) = false → Gives (.laneUp i) s fun u => (u.lane i).inUp = true ∧ SameBut s u [] ∧
      u.sent = s.sent) ∧
    (∀ (i : RingId) (up : Bool), (s.lane i).inUp = true → Gives (.linkStateReceive i up) s fun u =>
      (u.lane (1 - i)).outOk = up ∧ (u.lane (1 - i)).heard = true ∧ SameBut s u [] ∧ u.sent = s.sent ∧
      (up = false → (i.val = 1 → u.ring.wrapDown = true) ∧ (i.val = 0 → u.ring.wrapUp = true)))) ∧
  (∀ s : State, (upBroken s = false → Gives (.ringHeal false) s fun u => u.ring.wrapUp = false ∧
      u.ring.wrapDown = s.ring.wrapDown ∧ u.faultQ = s.faultQ ∧ u.sent = s.sent ∧ SameBut s u []) ∧
    (downBroken s = false → Gives (.ringHeal true) s fun u => u.ring.wrapDown = false ∧
      u.ring.wrapUp = s.ring.wrapUp ∧ u.faultQ = s.faultQ ∧ u.sent = s.sent ∧ SameBut s u []) ∧
    (upBroken s = true → exec (.ringHeal false) s = .next s) ∧ (downBroken s = true → exec (.ringHeal true) s = .next s)) ∧
  ∀ (s : State) (n : Nat), RingsFree s → n = aget 0 7 s.ring.seqs →
    Gives .linkStateSend s fun u =>
      u.sent = [.ringFrame 1 (ringFrameBytes 7 1 0x8001 (nodeAddr s) 0 n [if (s.lane 0).inUp then 1 else 0]) false,
        .ringFrame 0 (ringFrameBytes 7 0 0x8001 (nodeAddr s) 0 n [if (s.lane 1).inUp then 1 else 0]) false] ++ s.sent ∧
      SameBut s u [rowKey E.txFrames 0 0, rowKey E.txFrames 1 0]

/-- R425, R426, R428 to R431: the delay of a lane is half of the round trip less the turn-round; the root alone sends SYNC; a
follower takes ring TIME from ORIGIN, CORRECTION and LINK_DELAY, and goes from unlocked to locking with the first SYNC; no
SYNC for SYNC_TIMEOUT is holdover. -/
def Obligations.RingTimeBase : Prop :=
  (∀ s : State, RingsFree s → Gives .delayReqSend s fun u =>
    ∃ t0 t1 n, n = aget 0 1 s.ring.seqs ∧ (u.lane 0).delayReq = some (n, t0) ∧ (u.lane 1).delayReq = some (n, t1) ∧
      u.sent = [.ringFrame 0 (ringFrameBytes 1 0 0x8001 (nodeAddr s) 0 n []) false,
        .ringFrame 1 (ringFrameBytes 1 1 0x8001 (nodeAddr s) 0 n []) false] ++ s.sent ∧
      SameBut s u [rowKey E.txFrames 0 0, rowKey E.txFrames 1 0]) ∧
  (∀ (i : RingId) (src seq t2 : Nat) (s : State), RingsFree s → (s.lane i).inUp = true →
    Gives (.delayReqReceive i src seq t2) s fun u => ∃ t3 : Nat,
      u.sent = .ringFrame (1 - i) (ringFrameBytes 2 (1 - i) 0x8001 (nodeAddr s) 0 seq
        (timeBytes (t2 % 2 ^ 56) ++ timeBytes t3)) false :: s.sent ∧ SameBut s u [rowKey E.txFrames (1 - i) 0]) ∧
  (∀ (i : RingId) (s : State) (seq t1 t2 t3 t4 d : Nat), ringOn s = true → (s.lane i).inUp = true →
    (s.lane (1 - i)).heard = false → (s.lane i).delayReq = some (seq, t1) → (s.lane i).delays = [] →
    sdiff56 (t4 - t1 : Int) (t3 - t2 : Int) = 2 * d →
    Gives (.delayRespReceive i seq t2 t3 t4) s fun u => u.rd E.linkDelay i = d ∧ (u.lane i).delayReq = none ∧
      u.sent = s.sent ∧ u.faultQ = s.faultQ ∧ SameBut s u [rowKey E.linkDelay i 0]) ∧
  (∀ s : State, RingsFree s → s.ring.root = true → assigned s = true → Gives .syncSend s fun u =>
    ∃ t0 t1 n, n = aget 0 0 s.ring.seqs ∧
      u.sent = [.ringFrame 1 (ringFrameBytes 0 1 0xFFFF (nodeAddr s) 0 n (timeBytes t1 ++ toBytes 8 0)) false,
        .ringFrame 0 (ringFrameBytes 0 0 0xFFFF (nodeAddr s) 0 n (timeBytes t0 ++ toBytes 8 0)) false] ++ s.sent ∧
      SameBut s u [rowKey E.txFrames 0 0, rowKey E.txFrames 1 0]) ∧
  (∀ s : State, s.ring.root = false → exec .syncSend s = .next s) ∧
  (∀ (i : RingId) (src seq hops origin ti : Nat) (corr : Int) (s : State), ringOn s = true → (s.lane i).inUp = true →
    s.ring.root = false → src ≠ nodeAddr s → s.rdN E.syncSrc = 2 → s.rd E.rtState = 0 → hops < 65536 →
    Gives (.syncReceive i src seq hops origin corr ti) s fun u =>
      u.rd E.syncSrc = i.val ∧ u.rd E.rtState = 1 ∧ u.rd E.hopsToRoot i = hops ∧ u.ring.ti = ti ∧
      u.ring.rti = wrap56 (origin + corr + s.rd E.linkDelay i) ∧ u.ring.syncSeq = some seq ∧ u.faultQ = s.faultQ ∧
      u.sent = s.sent ∧ SameBut s u [rowKey E.syncSrc 0 0, rowKey E.rtState 0 0, rowKey E.hopsToRoot i 0,
        rowKey E.rtOffset 0 0, rowKey E.rtRate 0 0]) ∧
  ∀ s : State, (s.rd E.rtState = 1 ∨ s.rd E.rtState = 2 → Gives .syncLost s fun u => u.rd E.rtState = 3 ∧
    u.faultQ = s.faultQ ++ [⟨0xA8, 6, 0⟩] ∧ u.sent = s.sent ∧ u.ring = s.ring ∧ SameBut s u [rowKey E.rtState 0 0]) ∧
    (s.rd E.rtState = 0 ∨ s.rd E.rtState = 3 ∨ s.rd E.rtState = 4 → exec .syncLost s = .next s)

/-! ### CAN FD -/

/-- R437 to R440, R447: USDO is served for the node ID in force, values least significant byte first; NMT commands set the
state byte, and the resets reset the controller and send the boot-up message; a heartbeat carries the state byte; bus-off ends
after its recovery. The error states by the counters, and the boot-up message's byte, are of ISO 11898-1 (log entry 15). -/
def Obligations.CanServes : Prop :=
  (∀ (index sub : Nat) (s : State) (key : Nat), portUp s .canFd = true → inReset s = false →
    key = index % 65536 * 256 + sub % 256 → isBlockKey key = false →
    (∀ (len : Nat) (l : List Byte), key ≠ E.summary.k0 → dictRead s key (s.rdN E.canDomOfs) len = (okCode, l) →
      Gives (.usdoUpload s.can.node index sub len) s fun u => u.sent = .answer .canFd okCode l.reverse :: s.sent ∧
        u.faultQ = s.faultQ ∧ SameBut s u []) ∧
    (∀ (data : List Byte) (code : Nat) (t : State), code ≠ laterCode →
      anyWrite key (s.rdN E.canDomOfs) data.reverse (some .canFd) s = (code, t) →
      exec (.usdoDownload s.can.node index sub true data) s = .next (t.answer .canFd code)) ∧
    ∀ (node len : Nat), node ≠ s.can.node → exec (.usdoUpload node index sub len) s = .next s) ∧
  (∀ s : State, canOn s = true →
    exec .nmtStart s = .next (s.wr E.canNmt 0x05) ∧ exec .nmtStop s = .next (s.wr E.canNmt 0x04) ∧
    exec .nmtEnterPreOperational s = .next (s.wr E.canNmt 0x7F) ∧
    (s.rd E.canEn ≠ 0 → wire s 13 = false → ∀ c ∈ [Instr.nmtResetNode, .nmtResetCommunication],
      Gives c s fun u => u.rd E.canNmt = 0x7F ∧ u.can.node = s.rdN E.canNodeId ∧ u.can.status = 1 ∧
        u.sent = .canFrame (0x700 + s.rdN E.canNodeId) [0] :: s.sent ∧ u.faultQ = s.faultQ ∧
        SameBut s u [rowKey E.canNmt 0 0, rowKey E.canTec 0 0, rowKey E.canRec 0 0]) ∧
    (s.rd E.canHbTime ≠ 0 → exec .heartbeat s =
      .next { s with sent := .canFrame (0x700 + s.can.node) (toBytes 1 (s.rdN E.canNmt)) :: s.sent }) ∧
    ∀ tec rec : Nat, tec ≤ 255 → rec ≤ 255 → Gives (.canBusError tec rec) s fun u => u.rd E.canTec = tec ∧ u.rd E.canRec = rec ∧
      u.can.status = (if 128 ≤ tec ∨ 128 ≤ rec then 2 else 1) ∧ u.faultQ = s.faultQ ∧ u.sent = s.sent ∧
      SameBut s u [rowKey E.canTec 0 0, rowKey E.canRec 0 0]) ∧
  ∀ s : State, s.domOn 1 = true → s.can.status = 3 → Gives .busOffRecovery s fun u => u.can.status = 1 ∧
    u.sent = s.sent ∧ u.faultQ = s.faultQ ∧ SameBut s u [rowKey E.canTec 0 0, rowKey E.canRec 0 0]

/-! ### Dictionary and ports -/

/-- R445, R447, R449 to R452: a write of the bytes of a plain entry takes effect and is answered; one of the wrong length, to
a read-only entry, to an entry that no table lists, or in BOOT is answered with the code of the first check that fails, and
changes nothing. -/
def Obligations.DictionaryWritesAreChecked : Prop :=
  ∀ (p : Port) (data : List Byte) (s : State), portUp s p = true → s.superseded noTarget = false →
    (∀ r ∈ [E.eventMask, E.jobId, E.pageLines, E.startDist, E.pagePitch, E.jobTrig],
      (∀ v : Int, checkWrite s r 0 0 v = none → data.length = tyBytes r.ty → bytesValue r data = v →
        Gives (.configWrite p (r.k0 / 256) (r.k0 % 256) 0 data) s fun u =>
          ∃ b, u = ((s.wr r v).withStale b).answer p okCode) ∧
      (checkEntry s r 0 0 = none → data.length ≠ tyBytes r.ty →
        exec (.configWrite p (r.k0 / 256) (r.k0 % 256) 0 data) s = .next (s.answer p codeLength)) ∧
      (∀ v : Int, checkEntry s r 0 0 = none → inRange s r 0 0 v = false → data.length = tyBytes r.ty →
        bytesValue r data = v →
        exec (.configWrite p (r.k0 / 256) (r.k0 % 256) 0 data) s = .next (s.answer p codeRange)) ∧
      (s.dev = .boot → exec (.configWrite p (r.k0 / 256) (r.k0 % 256) 0 data) s = .next (s.answer p codeState))) ∧
    (∀ r ∈ [E.resetCause, E.eventSeq, E.configCrc, E.armCheck],
      exec (.configWrite p (r.k0 / 256) (r.k0 % 256) 0 data) s = .next (s.answer p codeWriteRo)) ∧
    ∀ (index sub ofs key : Nat), key = index % 65536 * 256 + sub % 256 → personaKey key = none → rowOf key = none →
      shadowEntry s key = none → exec (.configWrite p index sub ofs data) s = .next (s.answer p codeNoObject)

/-- R455, R456, R485, R486: SUMMARY is 1,024 bytes of one moment, with its version, the device state and its CRC; the ring
reads it fresh, CAN FD and the LHP from the snapshot of their last read at offset 0. A window register takes a write unless an
access runs; a read leaves an unsigned value right-aligned; a write answers with its code. -/
def Obligations.PortsReadTheDictionary : Prop :=
  (∀ s : State, (summaryBytes s).length = 1024 ∧ (summaryBytes s).take 2 = [1, BitVec.ofNat 8 (devCode s.dev)] ∧
    (summaryBytes s).drop 1020 = toBytes 4 (crc32c ((summaryBytes s).take 1020))) ∧
  (∀ (p : Port) (n ofs : Nat) (s : State), portUp s p = true → inReset s = false → ofs < 1024 →
    (p = .ringA ∨ p = .ringB → exec (.summaryRead p ofs n) s =
      .next (s.answer p okCode (((summaryBytes s).drop ofs).take n))) ∧
    (p = .canFd → exec (.summaryRead p 0 n) s = .next ({ s with
      snaps := { s.snaps with can := some (summaryBytes s) } }.answer p okCode ((summaryBytes s).take n))) ∧
    (p = .lhp → exec (.summaryRead p 0 n) s = .next ({ s with
      snaps := { s.snaps with lhp := some (summaryBytes s) } }.answer p okCode ((summaryBytes s).take n))) ∧
    ∀ l : List Byte, p = .canFd → s.snaps.can = some l → 0 < ofs → ofs < l.length →
      exec (.summaryRead p ofs n) s = .next (s.answer p okCode ((l.drop ofs).take n))) ∧
  (∀ (reg : Fin 16) (v cmd : Nat) (s : State), portUp s .lhp = true → inReset s = false →
    (s.lhp.busy = true → ∀ c ∈ [Instr.lhpRegisterWrite reg v, .lhpRead cmd, .lhpWrite cmd],
      exec c s = .next { s with lhp := { s.lhp with overrun := true } }) ∧
    (s.lhp.busy = false →
      exec (.lhpRegisterWrite 0 v) s = .next { s with lhp := { s.lhp with index := v % 65536 } } ∧
      exec (.lhpRegisterWrite 1 v) s = .next { s with lhp := { s.lhp with sub := v % 65536 % 256 } } ∧
      exec (.lhpRegisterWrite 2 v) s = .next { s with lhp := { s.lhp with data0 := v % 65536 } } ∧
      exec (.lhpRegisterWrite 3 v) s = .next { s with lhp := { s.lhp with data1 := v % 65536 } } ∧
      exec (.lhpRegisterWrite 4 v) s = .next { s with lhp := { s.lhp with data2 := v % 65536 } } ∧
      exec (.lhpRegisterWrite 5 v) s = .next { s with lhp := { s.lhp with ofs0 := v % 65536 } } ∧
      exec (.lhpRegisterWrite 6 v) s = .next { s with lhp := { s.lhp with ofs1 := v % 65536 } } ∧
      (v < 65536 → exec (.lhpRegisterWrite 7 v) s =
        if v % 16 = 1 then exec (.lhpRead v) s else if v % 16 = 2 then exec (.lhpWrite v) s
        else .next { s with lhp := { s.lhp with cmd := v, overrun := false } }) ∧
      (8 ≤ reg.val → exec (.lhpRegisterWrite reg v) s = .next s))) ∧
  ∀ (cmd : Nat) (s : State) (key : Nat), portUp s .lhp = true → inReset s = false → s.lhp.busy = false → key = lhpKey s.lhp →
    isBlockKey key = false → key ≠ E.summary.k0 →
    (∀ (r : Row) (i j : Nat), rowOf key = some (r, i, j) → ∀ l : List Byte, tySigned r.ty = false → l.length ≤ 6 →
      dictRead (lhpStart cmd s) key (lhpOfs s.lhp) (bits cmd 11 8) = (okCode, l) →
      Gives (.lhpRead cmd) s fun u => u.lhp.data2 * 2 ^ 32 + u.lhp.data1 * 2 ^ 16 + u.lhp.data0 = ofBytes l ∧
        u.lhp.code = okCode ∧ u.lhp.busy = false ∧ u.lhp.overrun = false ∧ u.sent = .answer .lhp okCode l :: s.sent ∧
        SameBut s u []) ∧
    ∀ (code : Nat) (t : State), code ≠ laterCode →
      anyWrite key (lhpOfs s.lhp) (lhpTaken key s.lhp) (some .lhp) (lhpStart cmd s) = (code, t) →
      Gives (.lhpWrite cmd) s fun u => u.lhp.code = code ∧ u.lhp.busy = false ∧ u.sent = .answer .lhp code [] :: t.sent ∧
        SameBut t u []

/-! ### Jobs -/

/-- R457, R466, R468: ARM in READY runs the checks, and either shows the first that fails and refuses, or arms: every page
count at 0, every enabled channel at the beginning of the job, CMD_LAST and CMD_RESULT set. -/
def Obligations.ArmChecksAndArms : Prop :=
  ∀ (p : Port) (s : State), Accepted s p (s.startSuperseded .job) E.command 0 0 (0x01 * 2 ^ 40) →
    (s.dev ≠ .ready → exec (.arm p 0) s = .next (s.answer p codeState)) ∧
    (s.dev = .ready → ∀ (t : State) (k : Nat), t = idleSwaps s → k = armCheckOf t (enabledChs t) (t.rdN E.jobTrig) →
      (k ≠ 0 → exec (.arm p 0) s = .next ((s.wr E.armCheck k).answer p codeNotPrintable)) ∧
      (k = 0 → Gives (.arm p 0) s fun u => u.dev = .armed ∧ u.rd E.armCheck = 0 ∧ u.rd E.jobPage = 0 ∧
        u.rd E.pagesDone = 0 ∧ u.rd E.pageStart = 0 ∧ u.rd E.cmdLast = 0x01 * 2 ^ 40 ∧ u.rd E.cmdResult = 0 ∧
        u.job = {} ∧ u.sent.head? = some (.answer p okCode []) ∧ (∀ x, u.byte x = t.byte x) ∧
        ∀ c ∈ enabledChs t, (u.chan c).page = 0 ∧ (u.chan c).inPage = false ∧ (u.chan c).fired = none ∧
          (u.chan c).locked = [] ∧ (u.chan c).slots = []))

/-- R79 to R82, R457, R462: START begins page 0 at the extrapolated position plus START_DIST; a trigger edge of the selected
polarity outside its hold-off is recorded and queued four deep; a page start from the queue is taken for the channel that
waits for it. Either starts the printing. -/
def Obligations.PagesStart : Prop :=
  (∀ (p : Port) (s : State), Accepted s p (s.startSuperseded .job) E.command 0 0 (0x02 * 2 ^ 40) →
    (s.dev = .armed → s.rd E.jobTrig = 0xFF → s.finup = false → Gives (.start p 0) s fun u =>
      u.dev = .printing ∧ u.rd E.cmdLast = 0x02 * 2 ^ 40 ∧ u.sent.head? = some (.answer p okCode []) ∧
      ∃ q : Int, |(q : Rat) - ((s.rd E.posEst : Rat) + ahead s s.time)| < 1 ∧
        u.job.starts = s.job.starts ++ [wrap48 (q + s.rd E.startDist)]) ∧
    (s.dev ≠ .armed → exec (.start p 0) s = .next (s.answer p codeState))) ∧
  (∀ (n : Fin 8) (rising : Bool) (t : Nat) (s : State), s.domOn 10 = true →
    (s.rd E.trigEdge n = 0 ∨ (s.rd E.trigEdge n = 1 ∧ rising = false) ∨ (s.rd E.trigEdge n = 2 ∧ rising = true) →
      exec (.triggerEdge n rising t) s = .next (s.setTrig n { s.trig n with level := rising })) ∧
    ((s.rd E.trigEdge n = 1 ∧ rising = true) ∨ (s.rd E.trigEdge n = 2 ∧ rising = false) → s.finup = false →
      Gives (.triggerEdge n rising t) s fun u => ∃ (q : Int) (pos : Nat),
        |(q : Rat) - ((s.rd E.posEst : Rat) + ahead s t)| < 1 ∧ pos = wrap48 q ∧ (u.trig n).level = rising ∧
        (∀ x, u.byte x = s.byte x) ∧ u.sent = s.sent ∧
        if (s.trig n).seen = true ∧ sdiff48 pos (s.rd E.trigLastPos n) < s.rd E.trigHoldoff n then
          u.rd E.trigReject n = min (s.rd E.trigReject n + 1) (2 ^ 32 - 1) ∧ (u.trig n).queue = (s.trig n).queue ∧
          u.rd E.trigLastPos n = s.rd E.trigLastPos n ∧ u.faultQ = s.faultQ
        else u.rd E.trigLastTs n = t ∧ u.rd E.trigLastPos n = pos ∧ (u.trig n).seen = true ∧
          if 4 ≤ (s.trig n).queue.length then
            (u.trig n).queue = (s.trig n).queue ∧ u.faultQ = s.faultQ ++ [⟨0xB8, 7, s.rdN E.posEst⟩]
          else (u.trig n).queue = (s.trig n).queue ++ [wrap48 (pos + s.rd E.trigOffset n)] ∧ u.faultQ = s.faultQ)) ∧
  ∀ (c : Ch) (s : State) (n a : Nat) (r : List Nat), s.busyJob = true → s.finup = false →
    s.startSuperseded .job = false → s.noLocks = false → (s.chan c).inPage = false → enabledCh s c = true →
    s.job.starts.length = (s.chan c).page → hasPage s (s.chan c).page = true → n = s.rdN E.jobTrig → n < 8 →
    (s.trig n).queue = a :: r →
    Gives (.pageStart c) s fun u => u.dev = .printing ∧ u.job.starts = s.job.starts ++ [a] ∧ (u.trig n).queue = r ∧
      u.rd E.trigQueued n = r.length ∧ (u.chan c).inPage = true ∧ (u.chan c).next = 0 ∧ (u.chan c).fired = none ∧
      u.rd E.lastLine c = 0 ∧ u.faultQ = s.faultQ

/-- R457 to R460, R468, R470: STOP in ARMED enters HALT at once and in PRINTING locks no further line; HALT is entered when
the last locked line has gone; ABORT abandons every line and is READY at once; RELEASE leaves HALT unless a stop-class or
shutdown-class sticky bit is set. The end of a job is an event. -/
def Obligations.JobsEnd : Prop :=
  ∀ (p : Port) (s : State),
    (Accepted s p (s.superseded .job) E.command 0 0 (0x03 * 2 ^ 40) →
      (s.dev = .armed → Gives (.stop p 0) s fun u => u.dev = .halt ∧ u.sent.head? = some (.answer p okCode []) ∧
        (∀ c, (u.chan c).locked = []) ∧ u.rd E.speedReq = 0 ∧ ∀ x, u.byte x = s.byte x) ∧
      (s.dev = .printing → Gives (.stop p 0) s fun u => u.dev = .printing ∧ u.job.stopping = true ∧ u.chans = s.chans ∧
        u.rd E.cmdLast = 0x03 * 2 ^ 40 ∧ u.rd E.cmdResult = 0 ∧ u.sent = .answer p okCode [] :: s.sent ∧
        SameBut s u [rowKey E.cmdLast 0 0, rowKey E.cmdResult 0 0]) ∧
      (s.busyJob = false → exec (.stop p 0) s = .next (s.answer p codeState))) ∧
    (s.busyJob = true → s.job.stopping = true →
      ((∃ x ∈ s.chans, x.2.locked ≠ []) → exec .haltEntry s = .next s) ∧
      ((∀ x ∈ s.chans, x.2.locked = []) → Gives .haltEntry s fun u => u.dev = .halt ∧ u.job.stopping = false ∧
        u.rd E.speedReq = 0 ∧ (∀ x, u.byte x = s.byte x) ∧
        (bit (s.rdN E.eventMask) 6 = true → ∃ e, u.events.head? = some e ∧ e.kind = 7 ∧ e.index = 0x2010 ∧ e.sub = 1 ∧
          e.value = s.rdN E.jobId % 2 ^ 48))) ∧
    (Accepted s p (s.superseded .job) E.command 0 0 (0x04 * 2 ^ 40) →
      (s.busyJob = true → Gives (.abort p 0) s fun u => u.dev = .ready ∧ (∀ c, (u.chan c).locked = []) ∧
        (∀ c, (u.chan c).built = none) ∧ (∀ c, (u.chan c).asked = []) ∧ (∀ r, u.rd E.rbWr r = s.rd E.rbWr r) ∧
        (∀ x, u.byte x = s.byte x) ∧ u.faultQ = s.faultQ ∧ u.sent.head? = some (.answer p okCode [])) ∧
      (s.dev = .config ∨ s.dev = .ready ∨ s.dev = .halt → Gives (.abort p 0) s fun u => u.dev = s.dev ∧
        u.rd E.cmdResult = codeNothing ∧ u.sent = .answer p codeNothing [] :: s.sent ∧
        SameBut s u [rowKey E.cmdLast 0 0, rowKey E.cmdResult 0 0])) ∧
    (Accepted s p (s.superseded .job) E.command 0 0 (0x05 * 2 ^ 40) → s.dev = .halt →
      (frozen s = true → exec (.release p 0) s = .next (s.answer p codeState)) ∧
      (frozen s = false → Gives (.release p 0) s fun u => u.dev = .ready ∧
        u.sent.head? = some (.answer p okCode []) ∧ u.faultQ = s.faultQ ∧ ∀ x, u.byte x = s.byte x))

/-! ### Storage -/

/-- R479 to R482, R484: STORE writes the slot that is not the newest valid one, with the next IMAGE_SEQ, and the slot is valid
once the verify has passed; RESTORE goes to CONFIG, runs with STORE_STATUS 2 and ends with its outcome and the IMAGE_SEQ
applied; CONFIG_CRC is the CRC of the payload that a STORE would write. -/
def Obligations.StoreAndRestore : Prop :=
  (∀ (p : Port) (s : State), Accepted s p (s.superseded noTarget) E.command 0 0 (0x10 * 2 ^ 40) →
    s.dev = .config ∨ s.dev = .ready ∨ s.dev = .halt → s.store.storing = none → s.store.restoring = none →
    s.store.flashOk = true →
    ∀ (m : Image) (b : Bool), newestImage s = some (m, b) → Gives (.store p 0) s fun u =>
      ∃ x : Image, u.store.storing = some (x, !b) ∧ x.seq = (m.seq + 1) % 2 ^ 32 ∧ x.recs = imageRecs s ∧ x.payOk = true ∧
        (if b then u.store.slotB = s.store.slotB ∧ u.store.slotA = none
          else u.store.slotA = s.store.slotA ∧ u.store.slotB = none) ∧
        u.rd E.storeStatus = 1 ∧ u.rd E.storeProgress = 0 ∧ u.sent = .answer p okCode [] :: s.sent ∧
        SameBut s u [rowKey E.storeStatus 0 0, rowKey E.storeProgress 0 0, rowKey E.cmdLast 0 0, rowKey E.cmdResult 0 0]) ∧
  (∀ (s : State) (x : Image) (b : Bool), s.store.storing = some (x, b) → brownout s = false →
    (Gives (.storeEnd true) s fun u => u.store.storing = none ∧ (if b then u.store.slotB else u.store.slotA) = some x ∧
      u.rd E.imageSeq = x.seq ∧ u.rd E.storeStatus = 3 ∧ (∀ a, u.byte a = s.byte a)) ∧
    Gives (.storeEnd false) s fun u => u.store.storing = none ∧ u.store.slotA = s.store.slotA ∧
      u.store.slotB = s.store.slotB ∧ u.rd E.storeStatus = 5 ∧ u.rd E.imageSeq = s.rd E.imageSeq) ∧
  (∀ (p : Port) (s : State), s.dev = .config ∨ s.dev = .ready → s.store.storing = none → s.store.restoring = none →
    (Accepted s p (s.superseded noTarget) E.command 0 0 (0x11 * 2 ^ 40) → Gives (.restore p) s fun u =>
      u.dev = .config ∧ u.rd E.storeStatus = 2 ∧ u.store.restoring = some (restorePlan s false) ∧
      u.sent.head? = some (.answer p okCode [])) ∧
    (Accepted s p (s.superseded noTarget) E.command 0 0 (0x11 * 2 ^ 40 + 1) → Gives (.restoreDefaults p) s fun u =>
      u.dev = .config ∧ u.rd E.storeStatus = 2 ∧ u.store.restoring = some (none, 3) ∧
      u.sent.head? = some (.answer p okCode []))) ∧
  (∀ (s : State) (m : Option Image) (k : Nat), s.store.restoring = some (m, k) → s.dev = .config → switching s = false →
    Gives .restoreEnd s fun u => u.store.restoring = none ∧ u.rd E.storeStatus = k ∧
      u.rd E.imageSeq = (m.elim 0 Image.seq : Nat) ∧ u.store.slotA = s.store.slotA ∧ u.store.slotB = s.store.slotB) ∧
  ∀ s : State, Gives .configCrcUpdate s fun u => u.rd E.configCrc = crc32c (payload (imageRecs s)) ∧
    u.store.crcStale = false ∧ u.sent = s.sent ∧ u.faultQ = s.faultQ ∧ SameBut s u [rowKey E.configCrc 0 0]

/-! ### Nozzle health -/

/-- R234, R237, R238, R241, R242, R247, R254: the oldest probe of an engine is scored: a parity error stops the probing and is
reported; a probe whose line did not fire is counted and its nozzle probed again; a score is kept as LAST_SCORE and makes the
nozzle good, weak or striking; the third strike fails it, is counted and is reported. -/
def Obligations.ProbeScoresNozzles : Prop :=
  ∀ (e : Eng) (c : Nat) (s : State) (p : Probe) (rest : List Probe), (s.eng e).probes = p :: rest →
    channelOf s e = some c →
    (Gives (.probeScore e true) s fun u => (u.eng e).probes = [] ∧ (u.eng e).corrStop = true ∧
      u.faultQ = s.faultQ ++ [⟨e, 0xF, c * 2 ^ 40⟩] ∧ u.sent = s.sent ∧ SameBut s u []) ∧
    (p.unfired = true → p.kind = .scan → (s.eng e).learn = none → hState (s.health e p.nozzle) ≠ 6 → Gives (.probeScore e false) s fun u => (u.eng e).probes = rest ∧
      u.rd E.probesInvalid e = min (s.rd E.probesInvalid e + 1) (2 ^ 32 - 1) ∧
      (u.eng e).again = insertAsc p.nozzle (s.eng e).again ∧ u.faultQ = s.faultQ ∧
      SameBut s u [rowKey E.probesInvalid e 0]) ∧
    ∀ (w : List Int) (n k score h : Nat), p.unfired = false → p.kind = .confirm →
      (s.eng e).learn = none → probeWindow s c e p.cycle = some w →
      n = p.nozzle → k = (if p.masked then 1 else 0) → bit (s.rdN E.templateValid e) k = true →
      score = scoreOf w ((List.range (s.rdN E.probeTaps e)).map (templateWord s e k)) p.cycle.gain (s.rdN E.aTol e) →
      h = s.health e n → hFailed h = false → hState h ≠ 6 →
      Gives (.probeScore e false) s fun u => bits (u.health e n) 39 32 = score % 256 ∧
        bit (u.health e n) 40 = p.masked ∧ u.sent = s.sent ∧
        (∀ x, ¬(healthAt e n ≤ x ∧ x < healthAt e n + 6) → (s.eng e).stitch ≠ .clean → u.byte x = s.byte x) ∧
        (s.rdN E.scoreGood e ≤ score → hState (u.health e n) = 1 ∧ hStrikes (u.health e n) = 0 ∧ u.faultQ = s.faultQ) ∧
        (score < s.rdN E.scoreGood e → s.rdN E.scoreFail e ≤ score →
          hState (u.health e n) = 2 ∧ hStrikes (u.health e n) = 0 ∧ u.faultQ = s.faultQ) ∧
        (score < s.rdN E.scoreGood e → score < s.rdN E.scoreFail e → hStrikes h < 2 →
          hState (u.health e n) = 3 ∧ hStrikes (u.health e n) = hStrikes h + 1 ∧ (s.memWf = true → n < 12288 → n ∈ awaiting u e) ∧
          u.faultQ = s.faultQ ∧ ∀ r i j, u.rd r i j = s.rd r i j) ∧
        (score < s.rdN E.scoreGood e → score < s.rdN E.scoreFail e → 2 ≤ hStrikes h → (s.eng e).stitch ≠ .clean →
          hState (u.health e n) = 4 ∧ hStrikes (u.health e n) = 3 ∧ (u.eng e).foldPending = true ∧
          u.rd E.failedCount e = min (s.rd E.failedCount e + 1) 65535 ∧ u.rd E.lastFailed e = n ∧
          u.faultQ = s.faultQ ++ [⟨e, 0xD, c * 2 ^ 40 + n⟩] ∧
          ∀ r i j, rowKey r i j ∉ [rowKey E.failedCount e 0, rowKey E.lastFailed e 0] → u.rd r i j = s.rd r i j)

/-- R243 to R245, R247: PROBE_LEARN 1 starts a learn scan or shows why not, 2 discards one; a scan that has probed every
nozzle ends with the templates that it has learned; HEALTH_EN 1 needs both templates; a write of a health entry's STATE
exempts a nozzle, forces it failed or makes it unknown again, and no other nozzle's entry changes. -/
def Obligations.LearnAndHealthWrites : Prop :=
  ∀ (p : Port) (e : Eng) (s : State),
    (Accepted s p (s.superseded (.engine e)) E.probeLearn e 0 1 → ∀ c : Nat, channelOf s e = some c →
      (s.dev ≠ .printing → exec (.learnStart p e) s = .next ((s.wr E.learnStatus 3 e).answer p okCode)) ∧
      (s.dev = .printing → (s.chan c).rxUp = false →
        exec (.learnStart p e) s = .next ((s.wr E.learnStatus 4 e).answer p okCode)) ∧
      (s.dev = .printing → (s.chan c).rxUp = true → s.rd E.hlMode e = 1 →
        exec (.learnStart p e) s = .next ((s.wr E.learnStatus 5 e).answer p okCode)) ∧
      (s.dev = .printing → (s.chan c).rxUp = true → s.rd E.hlMode e ≠ 1 → (s.chan c).calDone = true →
        Gives (.learnStart p e) s fun u => (u.eng e).learn = some ⟨0, [], 0, [], 0, (s.chan c).rateInt, 0, 0⟩ ∧
          inFlight u c e .learn = [] ∧ u.rd E.learnStatus e = 1 ∧ u.sent = .answer p okCode [] :: s.sent ∧
          u.faultQ = s.faultQ ∧ SameBut s u [rowKey E.learnStatus e 0])) ∧
    (Accepted s p (s.superseded (.engine e)) E.probeLearn e 0 2 →
      (∀ c : Nat, (s.eng e).learn.isSome = true → channelOf s e = some c → Gives (.learnCancel p e) s fun u =>
        (u.eng e).learn = none ∧ inFlight u c e .learn = [] ∧ u.rd E.learnStatus e = 6 ∧
        u.sent = .answer p okCode [] :: s.sent ∧ u.faultQ = s.faultQ ∧ SameBut s u [rowKey E.learnStatus e 0]) ∧
      ((s.eng e).learn = none → exec (.learnCancel p e) s = .next (s.answer p okCode))) ∧
    (∀ (l : Learn) (c : Nat), (s.eng e).learn = some l → channelOf s e = some c → learnNozzle s e l = none →
      inFlight s c e .learn = [] → Gives (.learnScanEnd e) s fun u => (u.eng e).learn = none ∧
        u.rd E.learnStatus e = (if l.num0 < 256 ∨ l.num1 < 256 then 7 else 2) ∧
        (256 ≤ l.num0 → bit (u.rdN E.templateValid e) 0 = true) ∧
        (256 ≤ l.num1 → bit (u.rdN E.templateValid e) 1 = true) ∧ u.faultQ = s.faultQ ∧ u.sent = s.sent ∧
        (l.num0 < 256 → l.num1 < 256 → ∀ x, u.byte x = s.byte x) ∧
        ∀ r i j, rowKey r i j ∉ [rowKey E.learnStatus e 0, rowKey E.templateValid e 0, rowKey E.learnRate e 0] →
          u.rd r i j = s.rd r i j) ∧
    (Accepted s p (s.superseded (.engine e)) E.healthEn e 0 1 →
      (s.rd E.templateValid e ≠ 3 → exec (.healthEnWrite p e 1) s = .next (s.answer p codeRange)) ∧
      (s.rd E.templateValid e = 3 → Gives (.healthEnWrite p e 1) s fun u => u.rd E.healthEn e = 1 ∧
        u.sent = .answer p okCode [] :: s.sent ∧ u.faultQ = s.faultQ ∧ SameBut s u [rowKey E.healthEn e 0])) ∧
    (Accepted s p (s.superseded (.engine e)) E.healthMap e 0 0 → ∀ (n : Nat) (b : Byte), n < 12288 →
      (b.toNat / 32 = 6 → Gives (.healthMapWrite p e (6 * n) [b]) s fun u => hState (u.health e n) = 6 ∧
        (∀ m, m ≠ n → u.health e m = s.health e m) ∧ u.sent = .answer p okCode [] :: s.sent ∧ u.faultQ = s.faultQ ∧
        ∀ r i j, u.rd r i j = s.rd r i j) ∧
      (b.toNat / 32 = 7 → Gives (.healthMapWrite p e (6 * n) [b]) s fun u => hState (u.health e n) = 0 ∧
        hStrikes (u.health e n) = 0 ∧ hResolved (u.health e n) = false ∧ (∀ m, m ≠ n → u.health e m = s.health e m) ∧
        u.sent = .answer p okCode [] :: s.sent ∧ u.faultQ = s.faultQ ∧ ∀ r i j, u.rd r i j = s.rd r i j) ∧
      ∀ c : Nat, b.toNat / 32 = 5 → hFailed (s.health e n) = false → channelOf s e = some c →
        (s.eng e).stitch ≠ .clean →
        Gives (.healthMapWrite p e (6 * n) [b]) s fun u => hState (u.health e n) = 5 ∧
          (∀ m, m ≠ n → u.health e m = s.health e m) ∧ u.rd E.failedCount e = min (s.rd E.failedCount e + 1) 65535 ∧
          u.rd E.lastFailed e = n ∧ u.faultQ = s.faultQ ++ [⟨e, 0xD, c * 2 ^ 40 + n⟩] ∧
          u.sent = .answer p okCode [] :: s.sent)

/-! ### Faults -/

/-- R492 to R495, R497: a sampled message sets its source's STICKY, LAST_KIND, LAST_ADDR and STICKY_CLASS and is counted; one
in an open window of its source is lost and counted, and one sampled after a reset or a trip of its TICK is discarded (R39); a
stop-class message stops the job; a shutdown-class one begins a shutdown; a fence opens a window and is counted. -/
def Obligations.FaultMessagesAreCollected : Prop :=
  ∀ (m : FaultMsg) (s : State) (cls : Nat), sourceExists m.src = true → kindExists m.src m.kind = true →
    cls = classOf s m.src m.kind → cls ≤ 4 →
    (s.actedOn .device [.reset, .trip] = true → exec (.faultMessage m) s = .next { s with faultQ := s.faultQ.erase m }) ∧
    (s.actedOn .device [.reset, .trip] = false →
    (inWindow s m.src m.kind = true → Gives (.faultMessage m) s fun u => u.rd E.lostInReaction = 1 ∧
      u.rd E.lostCount = min (s.rd E.lostCount + 1) (2 ^ 32 - 1) ∧ u.faultQ = s.faultQ.erase m ∧ u.sent = s.sent ∧
      SameBut s u [rowKey E.lostInReaction 0 0, rowKey E.lostCount 0 0]) ∧
    (inWindow s m.src m.kind = false → cls ≤ 1 → Gives (.faultMessage m) s fun u => u.rd E.sticky m.src = 1 ∧
      u.rd E.lastKind m.src = m.kind ∧ u.rd E.lastAddr m.src = (sentAddr s m % 2 ^ 48 : Nat) ∧
      u.rd E.msgCount m.src = min (s.rd E.msgCount m.src + 1) (2 ^ 32 - 1) ∧
      u.rdN E.stickyClass m.src = max (s.rdN E.stickyClass m.src) cls ∧ u.faultQ = s.faultQ.erase m ∧ u.dev = s.dev ∧
      (s.rd E.sticky m.src ≠ 1 → u.rd E.faultLast = (m.src * 256 + m.kind : Nat)) ∧
      (s.rd E.sticky m.src = 1 → u.sent = s.sent ∧ u.rd E.faultLast = s.rd E.faultLast) ∧
      SameBut s u [rowKey E.sticky m.src 0, rowKey E.lastKind m.src 0, rowKey E.lastAddr m.src 0,
        rowKey E.msgCount m.src 0, rowKey E.stickyClass m.src 0, rowKey E.faultLast 0 0, rowKey E.eventSeq 0 0,
        rowKey E.txFrames 0 0, rowKey E.txFrames 1 0]) ∧
    (inWindow s m.src m.kind = false → cls = 3 → s.dev = .printing → Gives (.faultMessage m) s fun u =>
      u.rd E.sticky m.src = 1 ∧ u.dev = .printing ∧ u.job.stopping = true ∧ u.chans = s.chans ∧
      ∀ x, u.byte x = s.byte x) ∧
    (inWindow s m.src m.kind = false → cls = 4 → s.dev ≠ .safe → s.shut = none → s.rd E.shutdownMode = 0 →
      s.rd E.shutdownBudget ≠ 0 → Gives (.faultMessage m) s fun u => u.rd E.sticky m.src = 1 ∧
        u.shut = some ⟨1, false, s.tick⟩ ∧ u.dev = s.dev ∧ u.chans = s.chans ∧ ∀ x, u.byte x = s.byte x) ∧
    (inWindow s m.src m.kind = false → cls = 2 → (m.src ≤ 0x63 → (s.eng m.src).fenced = false) →
      Gives (.faultMessage m) s fun u => u.rd E.sticky m.src = 1 ∧
        u.rd E.fences = min (s.rd E.fences + 1) (2 ^ 32 - 1) ∧ inWindow u m.src m.kind = true ∧
        (m.src ≤ 0x63 → (u.eng m.src).fenced = true)) ∧
    (inWindow s m.src m.kind = false → cls = 2 → 0x80 ≤ m.src → m.src ≤ 0x8F → Gives (.faultMessage m) s fun u =>
      u.rd E.sticky m.src = 1 ∧ u.rd E.fences = min (s.rd E.fences + 1) (2 ^ 32 - 1) ∧
      inWindow u m.src m.kind = true ∧ (u.dma (m.src - 0x80)).st = .idle ∧
      (u.dma (m.src - 0x80)).result = 2 ∧ (∀ n, n ≠ m.src - 0x80 → u.dma n = s.dma n) ∧ ∀ x, u.byte x = s.byte x))

/-- R22, R497, R499 to R501, R503: REACTION_WINDOW_END, STICKY_CLEAR, CLEAR_ALL, LOST_IN_REACTION_CLEAR and ALIVE_TOGGLE each
complete. A reaction window whose 64 TICKs are over ends; a write of 0 to STICKY clears the source's bit and its class, and
every lasting condition of the source is reported again, while a clear in the TICK of a message leaves the bit set; CLEAR_ALL
does so of every source; LOST_IN_REACTION clears when written; ALIVE changes level while it toggles. -/
def Obligations.FaultsAreCleared : Prop :=
  (∀ (src : Nat) (s : State), Gives (.reactionWindowEnd src) s fun u =>
    u = { s with windows := s.windows.filter (fun w => w.src != src || windowOpen s w) } ∧
    ((∀ w ∈ s.windows, w.src = src → w.from_ + 64 ≤ s.tick) → unitInReset u src = false)) ∧
  (∀ (p : Port) (src : Nat) (s : State), Accepted s p (s.superseded noTarget) E.sticky src 0 0 →
    (s.actedOn (.source src) [.done] = true → Gives (.stickyClear p src 0) s fun u =>
      u = s.answer p okCode) ∧
    (s.actedOn (.source src) [.done] = false → Gives (.stickyClear p src 0) s fun u => u.rd E.sticky src = 0 ∧
      u.rd E.stickyClass src = 0 ∧ (src ≤ 0x63 → (u.eng src).corrStop = false) ∧
      u.faultQ = s.faultQ ++ (lasting s src).map (fun x => ⟨src, x.1, x.2⟩) ∧
      u.sent = .answer p okCode [] :: s.sent ∧ u.dev = s.dev ∧
      SameBut s u [rowKey E.sticky src 0, rowKey E.stickyClass src 0])) ∧
  (∀ (p : Port) (s : State), Accepted s p (s.superseded noTarget) E.clearAll 0 0 1 →
    Gives (.clearAll p 1) s fun u => u.sent = .answer p okCode [] :: s.sent ∧ u.dev = s.dev ∧
      (∀ k, sourceExists k = true → if s.actedOn (.source k) [.done] = true then
          u.rd E.sticky k = s.rd E.sticky k ∧ u.rd E.stickyClass k = s.rd E.stickyClass k
        else u.rd E.sticky k = 0 ∧ u.rd E.stickyClass k = 0 ∧ (k ≤ 0x63 → (u.eng k).corrStop = false)) ∧
      u.faultQ = s.faultQ ++ allSources.flatMap (fun k => (lasting s k).map (fun x => ⟨k, x.1, x.2⟩)) ∧
      SameBut s u (allSources.flatMap fun k => [rowKey E.sticky k 0, rowKey E.stickyClass k 0])) ∧
  (∀ (p : Port) (s : State), Accepted s p (s.superseded noTarget) E.lostInReaction 0 0 0 →
    Gives (.lostInReactionClear p 0) s fun u => ∃ b, u = ((s.wr E.lostInReaction 0).withStale b).answer p okCode) ∧
  ∀ s : State, (s.dev ≠ .boot → s.dev ≠ .safe → frozen s = false →
      exec .aliveToggle s = .next { s with alive := !s.alive, sent := .alive (!s.alive) :: s.sent }) ∧
    (s.dev = .boot ∨ s.dev = .safe ∨ frozen s = true → exec .aliveToggle s = .next s)

/-! ### Temperature, supplies and domains -/

/-- R505 to R507, R519, R520: a round of the die diode shows its reading and counts the rounds at or above the trip level; a
reading out of range breaks the diode, and 64 equal raw codes do; the third hot round trips in the next TICK; a supply below
its warning level is shown, counted and reported once, and its recovery ends the brown-out. -/
def Obligations.DieAndSuppliesAreWatched : Prop :=
  (∀ (temp : Int) (raw : Nat) (s : State), s.die.broken = false →
    (-880 ≤ temp → temp ≤ 2720 → s.die.rawLast ≠ some raw ∨ s.die.rawRun < 63 → Gives (.dieTempRound temp raw) s fun u =>
      u.rd E.dieTemp = temp ∧ (s.die.rawLast.isSome = true → u.rd E.dieTempMax = max (s.rd E.dieTempMax) temp) ∧
      u.rd E.tripRun = (if 2240 ≤ temp then (min 3 (s.rdN E.tripRun + 1) : Nat) else 0) ∧
      u.die.due = (s.die.due || (decide (2240 ≤ temp) && s.rdN E.tripRun == 2)) ∧ u.die.broken = false ∧
      u.faultQ = s.faultQ ∧ u.sent = s.sent ∧
      SameBut s u ([rowKey E.dieTemp 0 0, rowKey E.dieTempMax 0 0, rowKey E.tripRun 0 0] ++
        (List.range 5).flatMap (fun ch => [rowKey E.bwRead ch 0, rowKey E.bwWrite ch 0]) ++
        (List.range 4).map (fun k => rowKey E.calState k 0))) ∧
    (temp < -880 ∨ 2720 < temp ∨ (s.die.rawLast = some raw ∧ s.die.rawRun = 63) → Gives (.dieTempRound temp raw) s fun u =>
      u.die.broken = true ∧ u.rd E.dieTemp = 0x7FFF ∧ u.rd E.tripRun = (min 3 (s.rdN E.tripRun + 1) : Nat) ∧
      u.rd E.diodeState = (if temp < -880 ∨ 2720 < temp then 1 else 2) ∧
      u.faultQ = s.faultQ ++ [⟨0xD0, 2, (if temp < -880 ∨ 2720 < temp then 1 else 2) * 2 ^ 16 + raw % 2 ^ 16⟩] ∧
      u.sent = s.sent)) ∧
  (∀ s : State, (s.die.due = false → exec .dieTrip s = .next s) ∧
    (s.die.due = true → s.dev ≠ .safe → s.shut = none → s.rd E.shutdownMode = 0 → s.rd E.shutdownBudget ≠ 0 →
      Gives .dieTrip s fun u => u.die.due = false ∧ u.rd E.sticky 0xD0 = 1 ∧ u.rd E.lastKind 0xD0 = 1 ∧
        u.rd E.lastAddr 0xD0 = (unsigned 16 (s.rd E.dieTemp) : Nat) ∧ u.shut = some ⟨1, true, s.tick⟩ ∧ u.dev = s.dev ∧
        u.superseded .job = true ∧ u.faultQ = s.faultQ ∧ ∀ x, u.byte x = s.byte x)) ∧
  (∀ (m : Dom) (mV : Nat) (s : State), mV < 65536 →
    (s.domOn m = false → s.domState m ≠ 4 → exec (.supplyWarn m mV) s = .next s) ∧
    (s.domOn m = true → s.sup.low.contains m.val = true → Gives (.supplyWarn m mV) s fun u => u.rd E.supV m = mV ∧
      u.rd E.supMin m = min (s.rd E.supMin m) mV ∧ u.sup = s.sup ∧ u.faultQ = s.faultQ ∧
      SameBut s u [rowKey E.supV m 0, rowKey E.supMin m 0]) ∧
    (s.domOn m = true → s.sup.low.contains m.val = false → s.otp.op = none → Gives (.supplyWarn m mV) s fun u =>
      u.rd E.supV m = mV ∧ u.rd E.supMin m = min (s.rd E.supMin m) mV ∧ brownout u = true ∧
      u.rd E.warnCount m = min (s.rd E.warnCount m + 1) (2 ^ 32 - 1) ∧
      u.rd E.brownouts = min (s.rd E.brownouts + 1) (2 ^ 32 - 1) ∧ u.faultQ = s.faultQ ++ [⟨0xD1 + m, 1, mV⟩] ∧
      u.otp = s.otp ∧ SameBut s u [rowKey E.supV m 0, rowKey E.supMin m 0, rowKey E.warnCount m 0, rowKey E.brownouts 0 0])) ∧
  ∀ s : State, (s.sup.low = [] → exec .supplyRecover s = .next s) ∧
    (s.sup.low ≠ [] → Gives .supplyRecover s fun u => brownout u = false ∧ u.otp.queue = [] ∧ u.otp.waiting = [] ∧
      (∀ x ∈ s.otp.queue, x.2 < 48 → (fuseWord u x.1).data.testBit x.2 = true) ∧ u.sent = s.sent ∧ SameBut s u [])

/-- R45, R47, R522 to R524: a request powers a domain down, or up once those that it needs are on; a domain that has powered
up is on, the staging SRAM's then clears; one that fails is off and reported; one that is off keeps no state: its entries read
their defaults, and no other domain's entry changes but those of the heater loops of a group that is off, which switch off
with the set point that the domain has lost (R215, R275). -/
def Obligations.DomainsSwitch : Prop :=
  (∀ (p : Port) (d : Dom) (s : State),
    (Accepted s p (s.superseded noTarget) E.domReq d 0 0 →
      (d.val = 0 ∨ d.val = 5 → exec (.domReqWrite p d 0) s = .next (s.answer p codeState)) ∧
      (domReqRefused s d 0 = false → s.domOn d = true → Gives (.domReqWrite p d 0) s fun u =>
        u.rd E.domReq d = 0 ∧ u.domState d = 4 ∧ u.sent = .answer p okCode [] :: s.sent ∧ u.faultQ = s.faultQ ∧
        SameBut s u [rowKey E.domReq d 0])) ∧
    (Accepted s p (s.superseded noTarget) E.domReq d 0 1 → domReqRefused s d 1 = false → s.domState d = 0 →
      (∀ x, x < 12 → s.domState x ≠ 1 ∧ domWaiting s x = false) → (prerequisites d).all s.domOn = true →
      brownout s = false → s.shut = none → Gives (.domReqWrite p d 1) s fun u =>
        u.rd E.domReq d = 1 ∧ u.domState d = 1 ∧ (∀ x, x ≠ d.val → u.domState x = s.domState x) ∧
        u.sent = .answer p okCode [] :: s.sent ∧ u.faultQ = s.faultQ ∧ SameBut s u [rowKey E.domReq d 0])) ∧
  (∀ (d : Dom) (bad : List Eng) (s : State), s.domState d = 1 → domWaiting s d = false → s.finup = false →
    (d.val = 3 ∨ d.val = 4 ∨ d.val = 5 → Gives (.domPowerUpDone d bad) s fun u => u.domState d = 2 ∧
      u.faultQ = s.faultQ ∧ u.sent = s.sent ∧ SameBut s u []) ∧
    (d.val = 11 → Gives (.domPowerUpDone d bad) s fun u => u.domState 11 = 3 ∧ u.faultQ = s.faultQ ∧ u.sent = s.sent ∧
      SameBut s u []) ∧
    (d.val = 2 → Gives (.domPowerUpDone d bad) s fun u => u.domState 2 = 2 ∧ u.rd E.macAddr 0 = s.fuse 2 ∧
      u.rd E.macAddr 1 = s.fuse 2 + 1 ∧ u.faultQ = s.faultQ ∧ u.sent = s.sent ∧
      SameBut s u [rowKey E.macAddr 0 0, rowKey E.macAddr 1 0]) ∧
    (∀ c : Ch, d.val = 6 + groupOf c → bad.map Fin.val = [c.val] → spareRecord s (groupOf c) = none →
      s.engPresent c = true → s.engPresent (96 + groupOf c) = true → s.grade ≠ 3 → (s.eng c).replaced = false →
      s.eng (96 + groupOf c) = {} → channelOf s (96 + groupOf c) = none → s.rd E.chDisable c = 0 →
      Gives (.domPowerUpDone d bad) s fun u => u.domState d = 2 ∧ u.rd E.servedBy c = 96 + groupOf c ∧
        u.rd E.channel (96 + groupOf c) = c.val ∧ (u.eng c).failedBist = true ∧ ∀ x, u.byte x = s.byte x)) ∧
  (∀ (d : Dom) (s : State), d.val ≠ 0 → s.domState d = 1 → domWaiting s d = false → Gives (.domFail d) s fun u =>
    u.domState d = 6 ∧ u.faultQ = s.faultQ ++ [⟨0xD1 + d, 2, 0⟩] ∧ u.sent = s.sent ∧
    (6 ≤ d.val → d.val ≤ 9 → s.domOn 10 = true → ∀ c : Ch, d.val = 6 + groupOf c →
      u.rd E.output (98 + c.val) = 0 ∧ u.rd E.refTarget (98 + c.val) = E.heaterSet.dflt c 0) ∧
    ∀ r i j, (domainOfKey (rowKey r i j) ≠ d.val → rowKey r i j ∉ heaterKeys d → u.rd r i j = s.rd r i j) ∧
      (domainOfKey (rowKey r i j) = d.val → fusedKey (rowKey r i j) = false → u.rd r i j = r.dflt i j)) ∧
  ∀ (d : Dom) (s : State), (s.domState d ≠ 4 → exec (.domPowerDownDone d) s = .next s) ∧
    (s.domState d = 4 → s.shut = none → domWaiting s d = false → Gives (.domPowerDownDone d) s fun u =>
      u.domState d = 0 ∧ u.faultQ = s.faultQ ∧ u.sent = s.sent ∧
      (6 ≤ d.val → d.val ≤ 9 → s.domOn 10 = true → ∀ c : Ch, d.val = 6 + groupOf c →
        u.rd E.output (98 + c.val) = 0 ∧ u.rd E.refTarget (98 + c.val) = E.heaterSet.dflt c 0) ∧
      ∀ r i j, (domainOfKey (rowKey r i j) ≠ d.val → rowKey r i j ∉ heaterKeys d → u.rd r i j = s.rd r i j) ∧
        (domainOfKey (rowKey r i j) = d.val → fusedKey (rowKey r i j) = false → u.rd r i j = r.dflt i j))

/-! ### Shutdowns -/

/-- R458, R510 to R512, R514, R515: SHUTDOWN begins step 1, in which no line is locked, and in immediate mode step 5 with the
outputs safe; each step's end begins the next, the first only when no line is locked; the budget's end goes to step 5; the
last step powers every domain down but DOM_0, and the device is SAFE. -/
def Obligations.ShutdownRunsToSafe : Prop :=
  (∀ (p : Port) (s : State), s.shut = none →
    (Accepted s p (s.superseded .job) E.command 0 0 (0x20 * 2 ^ 40) →
      (s.dev = .boot → exec (.shutdown p) s = .next (s.answer p codeState)) ∧
      (s.dev ≠ .boot → s.rd E.shutdownMode = 0 → s.rd E.shutdownBudget ≠ 0 → Gives (.shutdown p) s fun u =>
        u.shut = some ⟨1, false, s.tick⟩ ∧ u.noLocks = true ∧ u.dev = s.dev ∧ u.chans = s.chans ∧
        u.rd E.cmdLast = 0x20 * 2 ^ 40 ∧ u.rd E.cmdResult = 0 ∧ u.sent = .answer p okCode [] :: s.sent ∧
        SameBut s u [rowKey E.cmdLast 0 0, rowKey E.cmdResult 0 0])) ∧
    (Accepted s p (s.superseded .job) E.command 0 0 (0x20 * 2 ^ 40 + 1) → s.dev ≠ .boot →
      Gives (.shutdownImmediate p) s fun u => u.shut = some ⟨5, false, s.tick⟩ ∧ u.outputsOff = true ∧ u.dev = s.dev ∧
        (∀ c, (u.chan c).locked = []) ∧ (∀ c : Ch, u.rd E.heaterDuty c = 0 ∧ u.rd E.output (98 + c.val) = 0) ∧
        u.gov.pwm = none ∧ u.sent.head? = some (.answer p okCode []) ∧ u.faultQ = s.faultQ ∧ ∀ x, u.byte x = s.byte x)) ∧
  ∀ (s : State) (x : Shutdown), s.shut = some x →
    (x.step = 1 → drained s = true → exec .shutdownStepEnd s = .next { s with shut := some { x with step := 2 } }) ∧
    (x.step = 1 → drained s = false → exec .shutdownStepEnd s = .next s) ∧
    (x.step = 2 → Gives .shutdownStepEnd s fun u => u.shut = some { x with step := 3 } ∧ u.outputsOff = true ∧
      (∀ c, (u.chan c).locked = []) ∧ (∀ c : Ch, u.rd E.heaterDuty c = 0) ∧ u.gov.pwm = none ∧ u.dev = s.dev ∧
      u.faultQ = s.faultQ ∧ ∀ y, u.byte y = s.byte y) ∧
    (x.step = 3 → Gives .shutdownStepEnd s fun u => u.shut = some { x with step := 4 } ∧ u.store.storing = none ∧
      (∀ n : DmaCh, (u.dma n).st = .idle ∨ (u.dma n).st = .aborting) ∧ u.dev = s.dev ∧ SameBut s u []) ∧
    (x.step = 4 → x.trip = false → Gives .shutdownStepEnd s fun u => u.shut = some { x with step := 5 } ∧
      (∀ n : DmaCh, (u.dma n).st ≠ .aborting) ∧ u.dev = s.dev ∧ SameBut s u []) ∧
    (x.step = 5 → Gives .shutdownStepEnd s fun u => u.shutStep = 6 ∧ u.dev = s.dev ∧
      ∀ d, d < 12 → u.domState d ≠ 1) ∧
    (x.step = 6 → Gives .shutdownStepEnd s fun u => u.dev = .safe ∧ u.shut = none ∧
      ∀ d, 1 ≤ d → d < 12 → u.domState d = 0 ∨ u.domState d = 6) ∧
    (1 ≤ x.step → x.step < 5 → x.trip = false → Gives .shutdownBudget s fun u =>
      u.shut = some { x with step := 5 } ∧ u.outputsOff = true ∧ u.dev = s.dev ∧ ∀ y, u.byte y = s.byte y) ∧
    (5 ≤ x.step → exec .shutdownBudget s = .next s)

/-! ### Fuses -/

/-- R538 to R542: a program or seal is refused with the code of its ground, in the order of R539 (log entry 35), or begins
with its word, its bits and its supply; a completed one has programmed exactly the selected bits, and the first failing bit
ends it with 5; a sealed word's bit is its seal; sensing changes no fuse. -/
def Obligations.FuseOperations : Prop :=
  (∀ (p : Port) (pin : Bool) (s : State) (w d : Nat), w = s.rdN E.otpWord → d = s.rdN E.otpData →
    (Accepted s p (s.superseded noTarget) E.otpOp 0 0 1 →
      (bitwise w = true → 2 ^ 16 ≤ d → exec (.otpProgram p pin) s = .next (s.answer p codeRange)) ∧
      (bitwise w = false ∨ d < 2 ^ 16 →
        (s.busyJob = true → exec (.otpProgram p pin) s = .next (s.answer p codeState)) ∧
        (s.busyJob = false → (fuseShadow s w).data &&& d ≠ (fuseShadow s w).data →
          exec (.otpProgram p pin) s = .next ((s.wr E.otpResult 4).answer p okCode)) ∧
        (s.busyJob = false → (fuseShadow s w).data &&& d = (fuseShadow s w).data → (fuseShadow s w).sealed = true →
          exec (.otpProgram p pin) s = .next ((s.wr E.otpResult 3).answer p okCode)) ∧
        (s.busyJob = false → (fuseShadow s w).data &&& d = (fuseShadow s w).data → (fuseShadow s w).sealed = false →
          (lockedWord s w = true ∨ deviceWord w = true →
            exec (.otpProgram p pin) s = .next ((s.wr E.otpResult 2).answer p okCode)) ∧
          (lockedWord s w = false → deviceWord w = false →
            (brownout s = true ∨ 16 ≤ s.otp.queue.length → exec (.otpProgram p pin) s = .next (s.answer p codeBusy)) ∧
            (otpBusy s 1 = false → pin = false → wire s 11 = true →
              exec (.otpProgram p pin) s = .next (((s.wr E.vppSrc 0).wr E.otpResult 8).answer p okCode)) ∧
            (otpBusy s 1 = false → pin = true ∨ wire s 11 = false → Gives (.otpProgram p pin) s fun u =>
              u.otp.op = some (1, w, programMask w d (fuseShadow s w)) ∧ u.otp.opPort = some p ∧ u.rd E.otpResult = 1 ∧
              u.rd E.vppSrc = (if pin then 1 else 2) ∧ u.otp.words = s.otp.words ∧ u.sent = s.sent ∧
              SameBut s u [rowKey E.otpResult 0 0, rowKey E.vppSrc 0 0]))))) ∧
    (Accepted s p (s.superseded noTarget) E.otpOp 0 0 2 → s.busyJob = false →
      (bitwise w = true ∨ (fuseShadow s w).sealed = true →
        exec (.otpSeal p pin) s = .next ((s.wr E.otpResult 3).answer p okCode)) ∧
      (bitwise w = false → (fuseShadow s w).sealed = false → lockedWord s w = false → deviceWord w = false →
        otpBusy s 2 = false → pin = true → Gives (.otpSeal p pin) s fun u => u.otp.op = some (2, w, 0) ∧
          u.rd E.otpResult = 1 ∧ u.otp.words = s.otp.words ∧ u.sent = s.sent ∧
          SameBut s u [rowKey E.otpResult 0 0, rowKey E.vppSrc 0 0])) ∧
    (Accepted s p (s.superseded noTarget) E.otpOp 0 0 3 →
      (brownout s = true → exec (.otpReinforce p pin) s = .next (s.answer p codeBusy)) ∧
      (otpBusy s 3 = false → pin = true → Gives (.otpReinforce p pin) s fun u => u.otp.op = some (3, w, 0) ∧
        u.rd E.otpResult = 1 ∧ u.otp.words = s.otp.words ∧ u.sent = s.sent ∧
        SameBut s u [rowKey E.otpResult 0 0, rowKey E.vppSrc 0 0])) ∧
    (Accepted s p (s.superseded noTarget) E.otpOp 0 0 4 → otpBusy s 4 = false → Gives (.otpSense p) s fun u =>
      u.otp.op = some (4, w, 0) ∧ u.rd E.otpResult = 1 ∧ u.otp.words = s.otp.words ∧ u.sent = s.sent ∧
      SameBut s u [rowKey E.otpResult 0 0])) ∧
  ∀ (weak : Bool) (s : State) (w mask : Nat), s.otp.opPort = some .fw →
    (s.otp.op = some (1, w, mask) → (fuseWord s w).sealed = false →
      (Gives (.otpOpComplete none weak) s fun u => fuseWord u w = { fuseWord s w with data := (fuseWord s w).data ||| mask } ∧
        (∀ k, k ≠ w → fuseWord u k = fuseWord s k ∧ fuseShadow u k = fuseShadow s k) ∧
        fuseShadow u w = senseOf w (fuseWord u w) weak ∧ u.otp.op = none ∧ u.rd E.otpResult = 0 ∧ u.faultQ = s.faultQ ∧
        u.sent = .answer .fw okCode [] :: s.sent ∧ SameBut s u [rowKey E.otpResult 0 0]) ∧
      ∀ f : Fin 56, bit mask f = true → Gives (.otpOpComplete (some f) weak) s fun u =>
        fuseWord u w = { fuseWord s w with data := (fuseWord s w).data ||| mask % 2 ^ f.val } ∧
        (∀ k, k ≠ w → fuseWord u k = fuseWord s k) ∧ u.otp.op = none ∧ u.rd E.otpResult = 5 ∧
        u.faultQ = s.faultQ ++ [⟨0xC8, 5, w + f * 2 ^ 16⟩] ∧ SameBut s u [rowKey E.otpResult 0 0]) ∧
    (s.otp.op = some (2, w, mask) → Gives (.otpOpComplete none weak) s fun u =>
      fuseWord u w = { data := (fuseWord s w).data, syn := 0, sealed := true } ∧
      (∀ k, k ≠ w → fuseWord u k = fuseWord s k) ∧ u.otp.op = none ∧ u.rd E.otpResult = 0 ∧ u.faultQ = s.faultQ ∧
      SameBut s u [rowKey E.otpResult 0 0]) ∧
    (s.otp.op = some (4, w, mask) → Gives (.otpOpComplete none weak) s fun u => u.otp.words = s.otp.words ∧
      fuseShadow u w = senseOf w (fuseWord s w) weak ∧ u.otp.op = none ∧ u.rd E.otpResult = 0 ∧
      SameBut s u [rowKey E.otpResult 0 0]) ∧
    (s.otp.op = none → exec (.otpOpComplete none weak) s = .next s)

/-- R472 to R475, R545 to R547: a write of a counted setting is refused while the entry changes, without changes left and in a
brown-out, does nothing when it brings the present value, and otherwise waits for its record; the record, sealed, and its slot
bit make the change, and a channel's disable bit disables it at once. -/
def Obligations.CountedSettingsChange : Prop :=
  (∀ (r : Row) (i v : Nat) (p : Port) (s : State),
    (r = E.ringAddr ∧ i = 0) ∨ (r = E.headVCeil ∧ i = 0) ∨ (r = E.personaDefault ∧ i = 0) ∨ (r = E.chDisable ∧ i < 96) →
    Accepted s p (s.superseded noTarget) r i 0 v →
    (∀ c, c = Instr.countedSettingWrite p (rowKey r i 0 / 256) (rowKey r i 0 % 256) v →
      (s.otp.counted.any (fun x => x.1 == rowKey r i 0) = true → exec c s = .next (s.answer p codeBusy)) ∧
      (s.otp.counted = [] → s.rd r i = v → exec c s = .next (s.answer p okCode)) ∧
      (s.otp.counted = [] → s.rd r i ≠ v → brownout s = true → exec c s = .next (s.answer p codeBusy)) ∧
      (s.otp.counted = [] → s.rd r i ≠ v → brownout s = false → leftOf s r i = 0 →
        exec c s = .next (s.answer p codeNoChanges)) ∧
      (s.otp.counted = [] → s.rd r i ≠ v → brownout s = false → leftOf s r i ≠ 0 →
        exec c s = .next { s with otp := { s.otp with counted := [(rowKey r i 0, v, some p)] } }))) ∧
  (∀ (k : Counted) (v : Nat) (s : State), k ∈ countedRecords → brownout s = false → v < 2 ^ 48 →
    s.otp.counted = [(rowKey k.row 0 0, v, some .fw)] → (∀ j, j < k.num → fuseWord s (k.first + j) = {} ∧
      fuseShadow s (k.first + j) = {}) → fuseWord s k.slot = {} → fuseShadow s k.slot = {} →
    Gives (.countedChangeDone (rowKey k.row 0 0 / 256) (rowKey k.row 0 0 % 256)) s fun u => u.rd k.row = v ∧
      u.rd k.left = k.max_ - 1 ∧ u.otp.counted = [] ∧ fuseWord u k.first = ⟨v, 0, true⟩ ∧ (fuseWord u k.slot).data = 7 ∧
      (∀ w, w ≠ k.first → w ≠ k.slot → fuseWord u w = fuseWord s w) ∧ u.sent = .answer .fw okCode [] :: s.sent ∧
      u.faultQ = s.faultQ ∧ ∀ x, u.byte x = s.byte x) ∧
  (∀ (c : Ch) (s : State), brownout s = false → s.otp.counted = [(rowKey E.chDisable c 0, 1, some .fw)] →
    fuseWord s (413 + c.val / 16) = {} → Gives (.countedChangeDone (rowKey E.chDisable c 0 / 256)
      (rowKey E.chDisable c 0 % 256)) s fun u => u.rd E.chDisable c = 1 ∧ u.rd E.chDisableLeft c = 0 ∧
        u.rd E.servedBy c = 0xFF ∧ enabledCh u c = false ∧ (fuseWord u (413 + c.val / 16)).data = 7 * 2 ^ (3 * (c.val % 16)) ∧
        u.otp.counted = [] ∧ u.sent = .answer .fw okCode [] :: s.sent ∧ u.faultQ = s.faultQ) ∧
  ∀ (index sub : Nat) (s : State), brownout s = true → exec (.countedChangeDone index sub) s = .next s

/-! ### Calibration and test patterns -/

/-- R8, R558 to R563, R610, R612: CAL_CMD, CAL_START, CAL_COMPLETE, PRBS_SEL_WRITE and PRBS_LOCK each complete. A bit of
CAL_CMD leaves one run pending; a run starts when its preconditions hold, and else shows why not; a completed vernier run
shows its residual, leaves its trims to the next free edge, sets CAL_TEMP to the temperature at its start and reports a
residual out of limit, and a lane's, bit's or line's result of another run takes its place and is reported when its eye is too
small; a run whose preconditions are lost is discarded and reported; PRBS_SEL selects a pattern, whose checker locks and then
counts errors; one for a lane of an absent channel is refused. -/
def Obligations.CalibrationsAndPatterns : Prop :=
  (∀ (p : Port) (v : Nat) (s : State), Accepted s p (s.superseded noTarget) E.calCmd 0 0 v → Gives (.calCmd p v) s fun u =>
    (∀ k, k < 4 → bit v k = true → (u.cal k).pending = true ∧ (u.cal k).running = (s.cal k).running ∧
      u.rd E.calState k = (if (s.cal k).running ∨ (s.cal k).pending then s.rd E.calState k else 1)) ∧
    (∀ k, k < 4 → bit v k = false → u.cal k = s.cal k ∧ u.rd E.calState k = s.rd E.calState k) ∧
    u.sent = .answer p okCode [] :: s.sent ∧ u.faultQ = s.faultQ ∧
    SameBut s u ((List.range 4).map fun k => rowKey E.calState k 0)) ∧
  (∀ (k : Fin 4) (s : State), (s.cal k).pending = true → (s.cal k).running = false → s.dev ≠ .safe →
    (k.val = 1 → s.busyJob = true → exec (.calStart k) s = .next (s.wr E.calState 5 k)) ∧
    (calRefusal s k ≠ 0 → exec (.calStart k) s = .next (s.wr E.calState (calRefusal s k) k)) ∧
    (k.val = 3 ∨ calRefusal s k = 0 → exec (.calStart k) s = .next
      ((s.setCal k { s.cal k with
        pending := false, running := true, temp0 := s.rd E.dieTemp
        old := if k = 0 then s.bytes (hlTapAt 0) 384 else [] }).wr E.calState 2 k))) ∧
  (∀ (s : State) (res : CalResult) (a b c d : Nat), (s.cal 3).running = true → res.rows = [(a, b, c, d)] → b < 65536 →
    Gives (.calComplete 3 res) s fun u => u.rd E.vernResid = b ∧
      (a < 8 → u.vern = { s.vern with next := some (ains a c (s.vern.next.getD s.vern.trim)) }) ∧ u.rd E.calTemp 3 = (s.cal 3).temp0 ∧
      u.rd E.calState 3 = (if (s.cal 3).pending then 1 else 3) ∧ (u.cal 3).running = false ∧
      u.faultQ = (if s.rdN E.vernLimit < b then s.faultQ ++ [⟨0xF0, 3, 0⟩] else s.faultQ) ∧ u.sent = s.sent ∧
      SameBut s u [rowKey E.vernResid 0 0, rowKey E.calTemp 3 0, rowKey E.calState 3 0]) ∧
  (∀ (k : Fin 4) (res : CalResult) (s : State), (s.cal k).running = true → calRefusal s k = 0 →
    Gives (.calComplete k res) s fun u => (u.cal k).running = false ∧ (u.cal k).pending = (s.cal k).pending ∧
      u.rd E.calTemp k = (s.cal k).temp0 ∧ u.rd E.calState k = (if (s.cal k).pending then 1 else 3) ∧
      ∀ j, j ≠ k.val → u.cal j = s.cal j ∧ u.rd E.calTemp j = s.rd E.calTemp j ∧ u.rd E.calState j = s.rd E.calState j) ∧
  (∀ (s : State) (res : CalResult) (c : Ch) (b eye d : Nat), (s.cal 1).running = true → calRefusal s 1 = 0 →
    (s.chan c).rxUp = true → res.rows = [(c.val, b, eye, d)] →
    Gives (.calComplete 1 res) s fun u => u.rd E.driveRxDelay c = b ∧ u.byte (dlEyeAt c) = BitVec.ofNat 8 eye ∧
      aget 0 c.val (u.cal 1).trims = d ∧ (u.chan c).calDone = true ∧ u.sent = s.sent ∧
      u.faultQ = (if eye < s.rdN E.dlEyeMin then s.faultQ ++ [⟨0xF0, 2, 2 ^ 40 + c.val * 2 ^ 32 + 0xFF⟩] else s.faultQ) ∧
      (∀ x, x ≠ dlEyeAt c → u.byte x = s.byte x) ∧ ∀ r i j,
        rowKey r i j ∉ [rowKey E.driveRxDelay c 0, rowKey E.calTemp 1 0, rowKey E.calState 1 0] → u.rd r i j = s.rd r i j) ∧
  (∀ (s : State) (res : CalResult) (a eye t d : Nat), (s.cal 2).running = true → calRefusal s 2 = 0 → a < 640 →
    s.rdN E.dramEyeMin ≤ eye → res.rows = [(a, eye, t, d)] →
    Gives (.calComplete 2 res) s fun u => u.byte (dramEyeAt a) = BitVec.ofNat 8 eye ∧ aget 0 a (u.cal 2).trims = t ∧
      u.sent = s.sent ∧ u.faultQ = s.faultQ ∧ (∀ x, x ≠ dramEyeAt a → u.byte x = s.byte x) ∧
      ∀ r i j, rowKey r i j ∉ [rowKey E.calTemp 2 0, rowKey E.calState 2 0] → u.rd r i j = s.rd r i j) ∧
  (∀ (k : Fin 4) (res : CalResult) (s : State), (s.cal k).running = true → calRefusal s k ≠ 0 →
    Gives (.calComplete k res) s fun u => u.rd E.calState k = 4 ∧ (u.cal k).pending = true ∧ (u.cal k).running = false ∧
      u.faultQ = s.faultQ ++ [⟨0xF0, 1, k.val * 2 ^ 40 + 0xFF * 2 ^ 32 + 0xFF⟩] ∧ u.rd E.calTemp k = s.rd E.calTemp k ∧
      (k = 0 → (s.cal 0).old.length = 384 → u.bytes (hlTapAt 0) 384 = (s.cal 0).old) ∧
      (∀ x, k ≠ 0 ∨ ¬(hlTapAt 0 ≤ x ∧ x < hlTapAt 0 + (s.cal 0).old.length) → u.byte x = s.byte x) ∧
      ∀ r i j, rowKey r i j ≠ rowKey E.calState k 0 → u.rd r i j = s.rd r i j) ∧
  (∀ (p : Port) (v : Nat) (s : State), Accepted s p (s.superseded noTarget) E.prbsSel 0 0 v →
    (v ≠ 0 → linkAbsent s (s.rdN E.prbsLink) = true → exec (.prbsSelWrite p v) s = .next (s.answer p codeNoObject)) ∧
    (v = 0 ∨ linkAbsent s (s.rdN E.prbsLink) = false → Gives (.prbsSelWrite p v) s fun u => u.rd E.prbsSel = v ∧
      u.rd E.prbsLock = 0 ∧ u.sent = .answer p okCode [] ::
        (if v = 0 ∨ linkOn s (s.rdN E.prbsLink) = false then s.sent else .prbs v (s.rdN E.prbsLink) :: s.sent) ∧
      SameBut s u [rowKey E.prbsSel 0 0, rowKey E.prbsLock 0 0])) ∧
  ∀ (errors : Nat) (s : State), s.rd E.prbsSel ≠ 0 →
    (bits (s.rdN E.prbsLink) 15 12 = 1 ∨ bits (s.rdN E.prbsLink) 15 12 = 2 →
      (s.rd E.prbsLock ≠ 1 → exec (.prbsLock errors) s =
        .next ((s.wr E.prbsLock 1).wr E.prbsErrors (min errors (2 ^ 32 - 1)))) ∧
      (s.rd E.prbsLock = 1 → exec (.prbsLock errors) s =
        .next (s.wr E.prbsErrors (min (s.rd E.prbsErrors + errors) (2 ^ 32 - 1))))) ∧
    (bits (s.rdN E.prbsLink) 15 12 = 0 → exec (.prbsLock errors) s = .next s)

/-! ### Finup personas -/

/-- R579 to R583: RUN 1 in READY arms the persona's channels or sets ARM_FAIL; RUN 0 of the only running persona ends its job;
SOFT_TRIG starts a page: the loaded buffer prints, or the same again with REPRINT, RB_WR of the printing buffer covers the
page and the delays are latched; inside a page it only sets TRIG_MISS. -/
def Obligations.PersonasRunPages : Prop :=
  ∀ (p : Persona) (s : State), personaPort s p = true → s.superseded noTarget = false → s.startSuperseded .job = false →
    ((s.persona p).run = false → s.dev = .ready → ∀ (t : State) (k : Nat), t = idleSwaps (runReset s p) →
      k = armCheckOf t ((enabledChs t).filter (fun c => personaOf c == p)) p →
      (k ≠ 0 → Gives (.finupRun p) s fun u => u.persona p = { s.persona p with
          run := false, latched := (s.persona p).latched ||| 256 } ∧ u.rd E.armCheck = k ∧ u.dev = .ready ∧
        u.sent = s.sent ∧ SameBut s u [rowKey E.armCheck 0 0]) ∧
      (k = 0 → Gives (.finupRun p) s fun u => u.dev = .armed ∧ (u.persona p).run = true ∧ (u.persona p).starts = [] ∧
        u.rd E.armCheck = 0 ∧ u.rd E.cmdLast = 2 ^ 40 ∧ ∀ x, u.byte x = t.byte x)) ∧
    ((s.persona p).run = true → s.busyJob = true → otherRuns s p = false → Gives (.finupStop p) s fun u =>
      u.dev = .ready ∧ (u.persona p).run = false ∧ (u.persona p).inPage = false ∧ (∀ c, (u.chan c).locked = []) ∧
      u.rd E.cmdLast = 4 * 2 ^ 40 ∧ u.rd E.cmdResult = 0 ∧ u.rd E.speedReq = 0 ∧ ∀ x, u.byte x = s.byte x) ∧
    ((s.persona p).run = true → s.busyJob = true → s.noLocks = false → (s.persona p).inPage = true →
      exec (.softTrig p) s = .next ((s.setPersona p { s.persona p with
        latched := (s.persona p).latched ||| 2 }).withStale true)) ∧
    ∀ b : Nat, (s.persona p).run = true → s.busyJob = true → s.noLocks = false → (s.persona p).inPage = false →
      (s.persona p).printBuf ≤ 1 → pWord s p 8 ≠ 0 →
      b = (if (s.persona p).loadReady then 1 - (s.persona p).printBuf else (s.persona p).printBuf) →
      Gives (.softTrig p) s fun u => u.dev = .printing ∧ (u.persona p).inPage = true ∧ (u.persona p).printBuf = b ∧
        (u.persona p).loadReady = false ∧ (u.persona p).starts.length = (s.persona p).starts.length + 1 ∧
        (u.persona p).startCount = s.rd E.encCount p ∧ u.rd E.rbWr (2 * p + b) = ((s.persona p).starts.length + 1) * pWord s p 8 ∧
        (u.persona p).latched = (if (s.persona p).loadReady then (s.persona p).latched else (s.persona p).latched ||| 32) ∧
        (∀ i, i < 32 → aget 0 i (u.persona p).delays = pWord s p (0x20 + i)) ∧
        (u.persona p).landOn = (bit (pWord s p 0x17) 0 && s.obs.active == p.val) ∧ u.faultQ = s.faultQ ∧
        ∀ x, u.byte x = s.byte x

/-- R574 to R578, R583, R586, R591, R592: a read of STATUS or of a counter answers it and clears it; a write of a read-only or
reserved word does nothing, one out of range or of a held word while RUN is 1 sets WR_IGN, others are stored; a sample of
WAVE_DATA is stored and the address advances; an image frame for the persona lands in the load buffer, at once or when memory
accepts it, or is counted; an end of page is ready once earlier frames are. -/
def Obligations.PersonaRegistersAndFrames : Prop :=
  ∀ (p : Persona) (s : State), personaPort s p = true →
    exec (.statusRead p) s = .next ((s.answer .lhp okCode (toBytes 2 (statusWord s p))).setPersona p
      { s.persona p with latched := 0 }) ∧
    exec (.frameErrCntRead p) s = .next ((s.answer .lhp okCode (toBytes 2 (s.persona p).frameErr)).setPersona p
      { s.persona p with frameErr := 0 }) ∧
    exec (.skipCntRead p) s = .next ((s.answer .lhp okCode (toBytes 2 (s.persona p).skips)).setPersona p
      { s.persona p with skips := 0 }) ∧
    (s.superseded noTarget = false → ∀ v : Nat, v < 65536 →
      (∀ w ∈ [(0 : Fin 64), 1, 3, 9, 10, 13, 14, 15, 22, 24, 31], exec (.finupRegisterWrite p w v) s = .next s) ∧
      (exec (.finupRegisterWrite p 4 v) s = .next ((s.setPersona p { s.persona p with
        words := ains 4 v (s.persona p).words }).withStale true)) ∧
      ((s.persona p).run = true ∨ v = 0 ∨ 4095 < v → exec (.finupRegisterWrite p 6 v) s = .next (s.setPersona p
        { s.persona p with latched := (s.persona p).latched ||| 64 })) ∧
      ((s.persona p).run = false → 1 ≤ v → v ≤ 4095 → Gives (.finupRegisterWrite p 6 v) s fun u => pWord u p 6 = v ∧
        (u.persona p).latched = (s.persona p).latched ∧ SameBut s u [rowKey E.linePitch 0 0]) ∧
      (∀ i : Fin 32, exec (.delayWrite p i v) s = .next ((s.setPersona p { s.persona p with
        words := ains (0x20 + i) v (s.persona p).words }).withStale true)) ∧
      (∀ ch a : Nat, v < 1024 → ch = pWord s p 0x13 → ch < 32 → a = pWord s p 0x14 → a < 255 →
        Gives (.waveDataWrite p v) s fun u => pWord u p 0x14 = a + 1 ∧
          u.bytes (personaWave p ch + 2 * a) 2 = toBytes 2 v ∧
          (∀ x, ¬(personaWave p ch + 2 * a ≤ x ∧ x < personaWave p ch + 2 * a + 2) → u.byte x = s.byte x) ∧
          u.engs = s.engs ∧ ∀ r i j, u.rd r i j = s.rd r i j) ∧
      ((s.persona p).run = false ∨ s.busyJob = true → exec (.resetBuf p) s = .next ((s.setPersona p { s.persona p with
        loadReady := false, endWait := false }).withStale true))) ∧
    (framesArrive s p = true →
      ((s.persona p).loadReady = false → exec (.endOfPage p) s = .next (s.setPersona p { s.persona p with endWait := true })) ∧
      (∀ (f : Frame) (d : List Byte), imageFor s p f = false → exec (.finupImageFrame p f d) s = .next s) ∧
      (∀ (f : Frame) (d : List Byte), imageFor s p f = true → imageOk f = false ∨ (s.persona p).loadReady = true ∨
          d.length < 12 ∨ field d 0 1 = 0x12 →
        exec (.finupImageFrame p f d) s = .next (s.setPersona p { s.persona p with
          frameErr := min 65535 ((s.persona p).frameErr + 1), latched := (s.persona p).latched ||| 16 })) ∧
      ∀ (f : Frame) (d : List Byte) (n a : Nat), imageFor s p f = true → imageOk f = true → (s.persona p).loadReady = false → n = field d 8 2 → 12 + n ≤ d.length →
        field d 0 1 = 0x10 → field d 2 4 < pWord s p 8 → field d 6 2 + n ≤ 512 →
        a = imageAddr s p (field d 2 4) (field d 1 1 % 32) (field d 6 2) → reachAll s a n ≠ .refused →
        Gives (.finupImageFrame p f d) s fun u =>
          (u.mem = if reachAll s a n = .silent then s.mem else (logicalWrite s a ((d.drop 12).take n)).mem) ∧
          (reachAll s a n = .silent → u.memory.waiting = s.memory.waiting ++ [⟨a, (d.drop 12).take n, none⟩]) ∧
          u.rd E.framesOk p = wrap48 (s.rd E.framesOk p + 1) ∧ u.persona p = s.persona p ∧ u.faultQ = s.faultQ ∧
          ∀ r i j, rowKey r i j ≠ rowKey E.framesOk p 0 → u.rd r i j = s.rd r i j) ∧
    ((s.persona p).endWait = true → frameWaits s p = false → exec (.loadReady p) s = .next (s.setPersona p { s.persona p with
      loadReady := true, endWait := false })) ∧
    ((s.persona p).endWait = false ∨ frameWaits s p = true → exec (.loadReady p) s = .next s)

/-! ### Start-up and resets -/

/-- R20, R33, R39, R467, R502, R504, R516, R518, R521, R603, R613: each reset leaves the block in BOOT with its RESET_CAUSE
and SUPPLY_LAST, every other entry at its default and every byte as after power-up; the fuses and the flash stay. A shutdown
that has begun ignores every reset but a power-on reset. -/
def Obligations.ResetsLeaveBoot : Prop :=
  ∀ s : State,
    (∀ x : Straps, Gives (.powerOnReset x) s fun u => AfterReset s u 0 255 ∧ u.straps = x ∧ u.clkRoot = false) ∧
    (∀ m : Dom, Gives (.supplyReset m true) s fun u => AfterReset s u 0 255 ∧ u.straps = s.straps) ∧
    (s.shut = none → s.dev ≠ .safe →
      (∀ m : Dom, s.domOn m = true ∨ s.domState m = 4 → Gives (.supplyReset m false) s fun u => AfterReset s u 2 m.val) ∧
      (Gives .watchdogExpiry s fun u => AfterReset s u 4 (s.rd E.supplyLast)) ∧
      (∀ w, 1000 ≤ w → Gives (.resetN w) s fun u => AfterReset s u 5 (s.rd E.supplyLast)) ∧
      (∀ w, w < 100 → exec (.resetN w) s = .next s) ∧
      (Gives .clockFault s fun u => AfterReset s u 1 (s.rd E.supplyLast) ∧ u.clkRoot = false ∧ u.otp.sensed = s.otp.sensed) ∧
      (∀ p : Port, portUp s p = true → s.actedOn .device [.reset] = false →
        checkWrite s E.command 0 0 (0xF0 * 2 ^ 40 + 0x5A5A) = none →
        Gives (.reset p 0x5A5A) s fun u => AfterReset s u 3 (s.rd E.supplyLast) ∧ u.clkRoot = s.clkRoot ∧
          u.otp.words = s.otp.words ∧ ∃ l, u.sent = l ++ s.sent ∧ ∀ o ∈ l, o = .alive false) ∧
      (∀ (p : Port) (arg : Nat), portUp s p = true → s.actedOn .device [.reset] = false → arg ≠ 0x5A5A →
        checkWrite s E.command 0 0 (0xF0 * 2 ^ 40 + (arg : Nat)) = none →
        exec (.reset p arg) s = .next (s.answer p codeRange))) ∧
    ((∃ x, s.shut = some x ∧ 5 ≤ x.step) ∨ s.dev = .safe → exec .watchdogExpiry s = .next s ∧
      (∀ w, exec (.resetN w) s = .next s) ∧ (s.shut.isSome = true → ∀ m : Dom, exec (.supplyReset m false) s = .next s))

/-- R34, R535, R536, R546, R552, R555, R457: sensing gives every word its shadow, and a fuse array that fails its integrity
checks puts the device in SAFE; the start-up ends in CONFIG once the fuses are sensed, the root PLL has locked and no supply
is low; CONFIG goes to READY with the page map built, the ring settled and no RESTORE running. -/
def Obligations.StartUpReachesReady : Prop :=
  (∀ s : State, s.dev = .boot → s.otp.sensed = false → Gives (.otpSensingDone []) s fun u => u.otp.sensed = true ∧
    (∀ w, w < 512 → fuseShadow u w = senseOf w (fuseWord s w) (s.otp.partly.contains w)) ∧ (∀ w, fuseWord u w = fuseWord s w) ∧
    u.dev = (if wiresSound u = true ∧ variantSound u = true then .boot else .safe)) ∧
  (∀ (w : List (Fin 512)) (s : State), s.dev ≠ .boot ∨ s.otp.sensed = true → exec (.otpSensingDone w) s = .next s) ∧
  (∀ s : State, exec .rootPllLock s = .next { s with clkRoot := true }) ∧
  (∀ (x : Option Patch) (f : Bool) (bad : List Eng) (s : State),
    (s.dev = .boot → s.otp.sensed = true → s.clkRoot = true → brownout s = false → Gives (.bootFirmwareDone x f bad) s fun u =>
      u.dev = .config ∧ u.rd E.bootConfigUs = (s.tick / 25 : Nat) ∧ u.store.flashOk = f ∧ (u.cal 2).pending = true ∧
      (u.cal 3).pending = true) ∧
    (s.dev ≠ .boot ∨ s.otp.sensed = false ∨ s.clkRoot = false ∨ brownout s = true →
      exec (.bootFirmwareDone x f bad) s = .next s)) ∧
  ∀ (x : DramFound) (s : State), s.dev = .config → s.store.restoring = none → s.ring.join ≠ 1 →
    (s.memory.built = true → s.rd E.bootReadyUs ≠ 0 → Gives (.configToReady x) s fun u => u.dev = .ready ∧
      SameExceptEvents s u) ∧
    (s.memory.built = false → s.domOn 3 = true → s.domOn 4 = true → x.failed = [] → Gives (.configToReady x) s fun u =>
      u.dev = .ready ∧ u.memory.built = true ∧ u.memory.initDone = false ∧ u.rd E.ranksPerCh = (if x.twoRanks then 2 else 1) ∧
      u.rd E.framesPerRank = (if x.dense then 1820 else 910) ∧
      (s.rd E.bootReadyUs = 0 → u.rd E.bootReadyUs = (s.tick / 25 : Nat))) ∧
    (s.memory.built = false → s.domOn 3 = true → s.domOn 4 = true → x.failed ≠ [] →
      exec (.configToReady x) s = .next { s with
        faultQ := s.faultQ ++ x.failed.map (fun ch => ⟨0x70 + ch.val, 7, 0⟩) })
end

