-- ==== Sys2Proof/Laws/Lists.lean ====
section
/-!
SUPPORT. Laws of the sparse lists and of the byte memory: read after write, and the canonical form.
-/
namespace Sys2Proof.Machine

/-! ### Sparse lists -/

@[simp] theorem aget_nil {α : Type} (d : α) (k : Nat) : aget d k [] = d := rfl

@[simp] theorem aget_ains_same {α : Type} (d : α) (k : Nat) (v : α) (m : List (Nat × α)) : aget d k (ains k v m) = v := by
  induction m with
  | nil => simp [ains, aget]
  | cons x r ih =>
    obtain ⟨j, w⟩ := x
    unfold ains
    split
    · simp [aget]
    · split
      · simp [aget]
      · have hne : ¬ j = k := fun h => ‹¬k = j› h.symm
        simp [aget, hne, ih]

theorem aget_ains_ne {α : Type} (d : α) {j k : Nat} (v : α) (m : List (Nat × α)) (h : j ≠ k) :
    aget d j (ains k v m) = aget d j m := by
  induction m with
  | nil => simp [ains, aget, h.symm]
  | cons x r ih =>
    obtain ⟨i, w⟩ := x
    unfold ains
    split
    · simp [aget, h.symm]
    · split
      · subst k
        simp [aget, h.symm]
      · simp [aget, ih]

@[simp] theorem aget_aerase_same {α : Type} (d : α) (k : Nat) (m : List (Nat × α)) : aget d k (aerase k m) = d := by
  induction m with
  | nil => rfl
  | cons x r ih =>
    by_cases h : x.1 = k
    · simpa [aerase, h] using ih
    · simpa [aerase, h, aget] using ih

theorem aget_aerase_ne {α : Type} (d : α) {j k : Nat} (m : List (Nat × α)) (h : j ≠ k) :
    aget d j (aerase k m) = aget d j m := by
  induction m with
  | nil => rfl
  | cons x r ih =>
    by_cases hx : x.1 = k
    · simpa [aerase, hx, aget, Ne.symm h] using ih
    · simp only [aerase] at ih
      simp [aerase, hx, aget, ih]

@[simp] theorem aget_aput_same {α : Type} [DecidableEq α] (d : α) (k : Nat) (v : α) (m : List (Nat × α)) :
    aget d k (aput d k v m) = v := by
  unfold aput
  split <;> simp_all

theorem aget_aput_ne {α : Type} [DecidableEq α] (d e : α) {j k : Nat} (v : α) (m : List (Nat × α)) (h : j ≠ k) :
    aget d j (aput e k v m) = aget d j m := by
  unfold aput
  split
  · exact aget_aerase_ne d m h
  · exact aget_ains_ne d v m h

/-- The keys of a sparse list rise strictly. -/
def rising {α : Type} (m : List (Nat × α)) : Prop := (m.map Prod.fst).Pairwise (· < ·)

theorem rising_nil {α : Type} : rising ([] : List (Nat × α)) := by simp [rising]

theorem rising_filter {α : Type} (p : Nat × α → Bool) {m : List (Nat × α)} (h : rising m) : rising (m.filter p) :=
  h.sublist (List.filter_sublist.map _)

theorem mem_ains {α : Type} {k : Nat} {v : α} {m : List (Nat × α)} {x : Nat × α} (h : x ∈ ains k v m) :
    x = (k, v) ∨ x ∈ m := by
  induction m with
  | nil => simpa [ains] using h
  | cons y r ih =>
    obtain ⟨j, w⟩ := y
    unfold ains at h
    split at h
    · simpa using h
    · split at h
      · rcases List.mem_cons.mp h with h | h
        · exact .inl h
        · exact .inr (List.mem_cons_of_mem _ h)
      · rcases List.mem_cons.mp h with h | h
        · exact .inr (h ▸ List.mem_cons_self)
        · rcases ih h with h | h
          · exact .inl h
          · exact .inr (List.mem_cons_of_mem _ h)

theorem rising_ains {α : Type} (k : Nat) (v : α) {m : List (Nat × α)} (h : rising m) : rising (ains k v m) := by
  induction m with
  | nil => simp [ains, rising]
  | cons x r ih =>
    obtain ⟨j, w⟩ := x
    have hr : rising r := (List.pairwise_cons.mp h).2
    have hj : ∀ y ∈ r, j < y.1 := fun y hy => (List.pairwise_cons.mp h).1 y.1 (List.mem_map_of_mem hy)
    unfold ains
    split
    · refine List.pairwise_cons.mpr ⟨fun y hy => ?_, h⟩
      rcases List.mem_map.mp hy with ⟨z, hz, rfl⟩
      rcases List.mem_cons.mp hz with rfl | hz
      · assumption
      · exact Nat.lt_trans ‹_› (hj z hz)
    · split
      · subst k
        exact List.pairwise_cons.mpr ⟨fun y hy => by
          rcases List.mem_map.mp hy with ⟨z, hz, rfl⟩
          exact hj z hz, hr⟩
      · refine List.pairwise_cons.mpr ⟨fun y hy => ?_, ih hr⟩
        rcases List.mem_map.mp hy with ⟨z, hz, rfl⟩
        rcases mem_ains hz with rfl | hz
        · simp only; omega
        · exact hj z hz

theorem rising_aput {α : Type} [DecidableEq α] (d : α) (k : Nat) (v : α) {m : List (Nat × α)} (h : rising m) :
    rising (aput d k v m) := by
  unfold aput
  split
  · exact rising_filter _ h
  · exact rising_ains k v h

/-! ### Byte memory -/

theorem Memory.wf_iff (m : List Host.Cell) :
    Memory.wf m = true ↔ rising m ∧ ∀ c ∈ m, c.2 ≠ memDefault c.1 := by
  simp [Memory.wf, rising]

theorem Memory.wf_nil : Memory.wf [] = true := by simp [Memory.wf]

theorem Memory.wf_filter (p : Host.Cell → Bool) {m : List Host.Cell} (h : Memory.wf m = true) :
    Memory.wf (m.filter p) = true := by
  rw [Memory.wf_iff] at h ⊢
  exact ⟨rising_filter p h.1, fun c hc => h.2 c (List.mem_of_mem_filter hc)⟩

/-- A write of one byte keeps the canonical form. -/
theorem Memory.wf_set (a : Nat) (b : Byte) {m : List Host.Cell} (h : Memory.wf m = true) :
    Memory.wf (Memory.set m a b) = true := by
  rw [Memory.wf_iff] at h ⊢
  refine ⟨rising_aput _ a b h.1, fun c hc => ?_⟩
  unfold Memory.set aput at hc
  split at hc
  · exact h.2 c (List.mem_of_mem_filter hc)
  · rcases mem_ains hc with rfl | hc
    · assumption
    · exact h.2 c hc

theorem Memory.wf_write (l : List Byte) : ∀ (a : Nat) {m : List Host.Cell}, Memory.wf m = true →
    Memory.wf (Memory.write m a l) = true := by
  induction l with
  | nil => intro a m h; exact h
  | cons b r ih => intro a m h; exact ih (a + 1) (Memory.wf_set a b h)

theorem Memory.wf_clear (a n : Nat) {m : List Host.Cell} (h : Memory.wf m = true) :
    Memory.wf (Memory.clear m a n) = true := Memory.wf_filter _ h

theorem Memory.wf_copy (src dst n : Nat) {m : List Host.Cell} (h : Memory.wf m = true) :
    Memory.wf (Memory.copy m src dst n) = true := by
  unfold Memory.copy
  generalize m.filter _ = l
  have hc := Memory.wf_clear dst n h
  generalize Memory.clear m dst n = k at hc
  induction l generalizing k with
  | nil => exact hc
  | cons c r ih => exact ih _ (Memory.wf_set _ _ hc)

/-- A byte reads as it was written. -/
theorem Memory.get_set_same (m : List Host.Cell) (a : Nat) (b : Byte) : Memory.get (Memory.set m a b) a = b := by
  simp [Memory.get, Memory.set]

/-- A write leaves every other byte alone. -/
theorem Memory.get_set_ne (m : List Host.Cell) {a x : Nat} (b : Byte) (h : x ≠ a) :
    Memory.get (Memory.set m a b) x = Memory.get m x := by
  simp [Memory.get, Memory.set, aget_aput_ne _ _ b m h]

/-- A write of bytes leaves every byte outside them alone. -/
theorem Memory.get_write_ne (l : List Byte) : ∀ (a : Nat) (m : List Host.Cell) {x : Nat},
    ¬ (a ≤ x ∧ x < a + l.length) → Memory.get (Memory.write m a l) x = Memory.get m x := by
  induction l with
  | nil => intros; rfl
  | cons b r ih =>
    intro a m x h
    simp only [List.length_cons] at h
    rw [Memory.write, ih (a + 1) _ (by omega), Memory.get_set_ne _ _ (by omega)]

/-- Bytes read as they were written. -/
theorem Memory.get_write (l : List Byte) : ∀ (a i : Nat) (m : List Host.Cell) (h : i < l.length),
    Memory.get (Memory.write m a l) (a + i) = l[i] := by
  induction l with
  | nil => intro a i m h; simp at h
  | cons b r ih =>
    intro a i m h
    cases i with
    | zero =>
      rw [Memory.write, Memory.get_write_ne r (a + 1) _ (by omega)]
      exact Memory.get_set_same m a b
    | succ i =>
      have hi : i < r.length := by simpa using h
      have e : a + (i + 1) = a + 1 + i := by omega
      rw [Memory.write, e, ih (a + 1) i _ hi]
      rfl

end Sys2Proof.Machine
end

