-- ==== Sys2Proof/Laws/State.lean ====
section
/-!
SUPPORT. What each operation on the state leaves as it was, one lemma for each field and each reading of the state, and
what is read after a write.
-/
namespace Sys2Proof.Machine

variable (s : State)

/-! ### Fields and readings that an operation leaves alone -/

@[simp] theorem State.wr_pending (q : Row) (v : Int) (x y : Nat) : (s.wr q v x y).pending = s.pending := rfl
@[simp] theorem State.wr_tick (q : Row) (v : Int) (x y : Nat) : (s.wr q v x y).tick = s.tick := rfl
@[simp] theorem State.wr_time (q : Row) (v : Int) (x y : Nat) : (s.wr q v x y).time = s.time := rfl
@[simp] theorem State.wr_acted (q : Row) (v : Int) (x y : Nat) : (s.wr q v x y).acted = s.acted := rfl
@[simp] theorem State.wr_was (q : Row) (v : Int) (x y : Nat) : (s.wr q v x y).was = s.was := rfl
@[simp] theorem State.wr_sent (q : Row) (v : Int) (x y : Nat) : (s.wr q v x y).sent = s.sent := rfl
@[simp] theorem State.wr_fresh (q : Row) (v : Int) (x y : Nat) : (s.wr q v x y).fresh = s.fresh := rfl
@[simp] theorem State.wr_dev (q : Row) (v : Int) (x y : Nat) : (s.wr q v x y).dev = s.dev := rfl
@[simp] theorem State.wr_flagsSeen (q : Row) (v : Int) (x y : Nat) : (s.wr q v x y).flagsSeen = s.flagsSeen := rfl
@[simp] theorem State.wr_leftOut (q : Row) (v : Int) (x y : Nat) : (s.wr q v x y).leftOut = s.leftOut := rfl
@[simp] theorem State.wr_clkRoot (q : Row) (v : Int) (x y : Nat) : (s.wr q v x y).clkRoot = s.clkRoot := rfl
@[simp] theorem State.wr_straps (q : Row) (v : Int) (x y : Nat) : (s.wr q v x y).straps = s.straps := rfl
@[simp] theorem State.wr_mem (q : Row) (v : Int) (x y : Nat) : (s.wr q v x y).mem = s.mem := rfl
@[simp] theorem State.wr_encs (q : Row) (v : Int) (x y : Nat) : (s.wr q v x y).encs = s.encs := rfl
@[simp] theorem State.wr_trigs (q : Row) (v : Int) (x y : Nat) : (s.wr q v x y).trigs = s.trigs := rfl
@[simp] theorem State.wr_ringPos (q : Row) (v : Int) (x y : Nat) : (s.wr q v x y).ringPos = s.ringPos := rfl
@[simp] theorem State.wr_obs (q : Row) (v : Int) (x y : Nat) : (s.wr q v x y).obs = s.obs := rfl
@[simp] theorem State.wr_chans (q : Row) (v : Int) (x y : Nat) : (s.wr q v x y).chans = s.chans := rfl
@[simp] theorem State.wr_engs (q : Row) (v : Int) (x y : Nat) : (s.wr q v x y).engs = s.engs := rfl
@[simp] theorem State.wr_secs (q : Row) (v : Int) (x y : Nat) : (s.wr q v x y).secs = s.secs := rfl
@[simp] theorem State.wr_loops (q : Row) (v : Int) (x y : Nat) : (s.wr q v x y).loops = s.loops := rfl
@[simp] theorem State.wr_lathe (q : Row) (v : Int) (x y : Nat) : (s.wr q v x y).lathe = s.lathe := rfl
@[simp] theorem State.wr_dmas (q : Row) (v : Int) (x y : Nat) : (s.wr q v x y).dmas = s.dmas := rfl
@[simp] theorem State.wr_streams (q : Row) (v : Int) (x y : Nat) : (s.wr q v x y).streams = s.streams := rfl
@[simp] theorem State.wr_ports (q : Row) (v : Int) (x y : Nat) : (s.wr q v x y).ports = s.ports := rfl
@[simp] theorem State.wr_lanes (q : Row) (v : Int) (x y : Nat) : (s.wr q v x y).lanes = s.lanes := rfl
@[simp] theorem State.wr_ring (q : Row) (v : Int) (x y : Nat) : (s.wr q v x y).ring = s.ring := rfl
@[simp] theorem State.wr_can (q : Row) (v : Int) (x y : Nat) : (s.wr q v x y).can = s.can := rfl
@[simp] theorem State.wr_lhp (q : Row) (v : Int) (x y : Nat) : (s.wr q v x y).lhp = s.lhp := rfl
@[simp] theorem State.wr_snaps (q : Row) (v : Int) (x y : Nat) : (s.wr q v x y).snaps = s.snaps := rfl
@[simp] theorem State.wr_memory (q : Row) (v : Int) (x y : Nat) : (s.wr q v x y).memory = s.memory := rfl
@[simp] theorem State.wr_logQ (q : Row) (v : Int) (x y : Nat) : (s.wr q v x y).logQ = s.logQ := rfl
@[simp] theorem State.wr_logSeq (q : Row) (v : Int) (x y : Nat) : (s.wr q v x y).logSeq = s.logSeq := rfl
@[simp] theorem State.wr_logAt (q : Row) (v : Int) (x y : Nat) : (s.wr q v x y).logAt = s.logAt := rfl
@[simp] theorem State.wr_gov (q : Row) (v : Int) (x y : Nat) : (s.wr q v x y).gov = s.gov := rfl
@[simp] theorem State.wr_job (q : Row) (v : Int) (x y : Nat) : (s.wr q v x y).job = s.job := rfl
@[simp] theorem State.wr_faultQ (q : Row) (v : Int) (x y : Nat) : (s.wr q v x y).faultQ = s.faultQ := rfl
@[simp] theorem State.wr_windows (q : Row) (v : Int) (x y : Nat) : (s.wr q v x y).windows = s.windows := rfl
@[simp] theorem State.wr_events (q : Row) (v : Int) (x y : Nat) : (s.wr q v x y).events = s.events := rfl
@[simp] theorem State.wr_alive (q : Row) (v : Int) (x y : Nat) : (s.wr q v x y).alive = s.alive := rfl
@[simp] theorem State.wr_die (q : Row) (v : Int) (x y : Nat) : (s.wr q v x y).die = s.die := rfl
@[simp] theorem State.wr_shut (q : Row) (v : Int) (x y : Nat) : (s.wr q v x y).shut = s.shut := rfl
@[simp] theorem State.wr_sup (q : Row) (v : Int) (x y : Nat) : (s.wr q v x y).sup = s.sup := rfl
@[simp] theorem State.wr_doms (q : Row) (v : Int) (x y : Nat) : (s.wr q v x y).doms = s.doms := rfl
@[simp] theorem State.wr_otp (q : Row) (v : Int) (x y : Nat) : (s.wr q v x y).otp = s.otp := rfl
@[simp] theorem State.wr_store (q : Row) (v : Int) (x y : Nat) : (s.wr q v x y).store = s.store := rfl
@[simp] theorem State.wr_cals (q : Row) (v : Int) (x y : Nat) : (s.wr q v x y).cals = s.cals := rfl
@[simp] theorem State.wr_vern (q : Row) (v : Int) (x y : Nat) : (s.wr q v x y).vern = s.vern := rfl
@[simp] theorem State.wr_personas (q : Row) (v : Int) (x y : Nat) : (s.wr q v x y).personas = s.personas := rfl
@[simp] theorem State.wr_byte (q : Row) (v : Int) (x y : Nat) (a : Nat) : (s.wr q v x y).byte a = s.byte a := rfl
@[simp] theorem State.wr_bytes (q : Row) (v : Int) (x y : Nat) (a n : Nat) : (s.wr q v x y).bytes a n = s.bytes a n := rfl
@[simp] theorem State.wr_chan (q : Row) (v : Int) (x y : Nat) (k : Nat) : (s.wr q v x y).chan k = s.chan k := rfl
@[simp] theorem State.wr_eng (q : Row) (v : Int) (x y : Nat) (k : Nat) : (s.wr q v x y).eng k = s.eng k := rfl
@[simp] theorem State.wr_enc (q : Row) (v : Int) (x y : Nat) (k : Nat) : (s.wr q v x y).enc k = s.enc k := rfl
@[simp] theorem State.wr_trig (q : Row) (v : Int) (x y : Nat) (k : Nat) : (s.wr q v x y).trig k = s.trig k := rfl
@[simp] theorem State.wr_loop (q : Row) (v : Int) (x y : Nat) (k : Nat) : (s.wr q v x y).loop k = s.loop k := rfl
@[simp] theorem State.wr_sec (q : Row) (v : Int) (x y : Nat) (k : Nat) : (s.wr q v x y).sec k = s.sec k := rfl
@[simp] theorem State.wr_dma (q : Row) (v : Int) (x y : Nat) (k : Nat) : (s.wr q v x y).dma k = s.dma k := rfl
@[simp] theorem State.wr_stream (q : Row) (v : Int) (x y : Nat) (k : Nat) : (s.wr q v x y).stream k = s.stream k := rfl
@[simp] theorem State.wr_port (q : Row) (v : Int) (x y : Nat) (k : Nat) : (s.wr q v x y).port k = s.port k := rfl
@[simp] theorem State.wr_lane (q : Row) (v : Int) (x y : Nat) (k : Nat) : (s.wr q v x y).lane k = s.lane k := rfl
@[simp] theorem State.wr_rank (q : Row) (v : Int) (x y : Nat) (k : Nat) : (s.wr q v x y).rank k = s.rank k := rfl
@[simp] theorem State.wr_cal (q : Row) (v : Int) (x y : Nat) (k : Nat) : (s.wr q v x y).cal k = s.cal k := rfl
@[simp] theorem State.wr_persona (q : Row) (v : Int) (x y : Nat) (k : Nat) : (s.wr q v x y).persona k = s.persona k := rfl
@[simp] theorem State.wr_domState (q : Row) (v : Int) (x y : Nat) (k : Nat) : (s.wr q v x y).domState k = s.domState k := rfl
@[simp] theorem State.wr_domOn (q : Row) (v : Int) (x y : Nat) (k : Nat) : (s.wr q v x y).domOn k = s.domOn k := rfl
@[simp] theorem State.setBytes_pending (a : Nat) (l : List Byte) : (s.setBytes a l).pending = s.pending := rfl
@[simp] theorem State.setBytes_tick (a : Nat) (l : List Byte) : (s.setBytes a l).tick = s.tick := rfl
@[simp] theorem State.setBytes_time (a : Nat) (l : List Byte) : (s.setBytes a l).time = s.time := rfl
@[simp] theorem State.setBytes_acted (a : Nat) (l : List Byte) : (s.setBytes a l).acted = s.acted := rfl
@[simp] theorem State.setBytes_was (a : Nat) (l : List Byte) : (s.setBytes a l).was = s.was := rfl
@[simp] theorem State.setBytes_sent (a : Nat) (l : List Byte) : (s.setBytes a l).sent = s.sent := rfl
@[simp] theorem State.setBytes_fresh (a : Nat) (l : List Byte) : (s.setBytes a l).fresh = s.fresh := rfl
@[simp] theorem State.setBytes_dev (a : Nat) (l : List Byte) : (s.setBytes a l).dev = s.dev := rfl
@[simp] theorem State.setBytes_flagsSeen (a : Nat) (l : List Byte) : (s.setBytes a l).flagsSeen = s.flagsSeen := rfl
@[simp] theorem State.setBytes_leftOut (a : Nat) (l : List Byte) : (s.setBytes a l).leftOut = s.leftOut := rfl
@[simp] theorem State.setBytes_clkRoot (a : Nat) (l : List Byte) : (s.setBytes a l).clkRoot = s.clkRoot := rfl
@[simp] theorem State.setBytes_straps (a : Nat) (l : List Byte) : (s.setBytes a l).straps = s.straps := rfl
@[simp] theorem State.setBytes_dict (a : Nat) (l : List Byte) : (s.setBytes a l).dict = s.dict := rfl
@[simp] theorem State.setBytes_encs (a : Nat) (l : List Byte) : (s.setBytes a l).encs = s.encs := rfl
@[simp] theorem State.setBytes_trigs (a : Nat) (l : List Byte) : (s.setBytes a l).trigs = s.trigs := rfl
@[simp] theorem State.setBytes_ringPos (a : Nat) (l : List Byte) : (s.setBytes a l).ringPos = s.ringPos := rfl
@[simp] theorem State.setBytes_obs (a : Nat) (l : List Byte) : (s.setBytes a l).obs = s.obs := rfl
@[simp] theorem State.setBytes_chans (a : Nat) (l : List Byte) : (s.setBytes a l).chans = s.chans := rfl
@[simp] theorem State.setBytes_engs (a : Nat) (l : List Byte) : (s.setBytes a l).engs = s.engs := rfl
@[simp] theorem State.setBytes_secs (a : Nat) (l : List Byte) : (s.setBytes a l).secs = s.secs := rfl
@[simp] theorem State.setBytes_loops (a : Nat) (l : List Byte) : (s.setBytes a l).loops = s.loops := rfl
@[simp] theorem State.setBytes_lathe (a : Nat) (l : List Byte) : (s.setBytes a l).lathe = s.lathe := rfl
@[simp] theorem State.setBytes_dmas (a : Nat) (l : List Byte) : (s.setBytes a l).dmas = s.dmas := rfl
@[simp] theorem State.setBytes_streams (a : Nat) (l : List Byte) : (s.setBytes a l).streams = s.streams := rfl
@[simp] theorem State.setBytes_ports (a : Nat) (l : List Byte) : (s.setBytes a l).ports = s.ports := rfl
@[simp] theorem State.setBytes_lanes (a : Nat) (l : List Byte) : (s.setBytes a l).lanes = s.lanes := rfl
@[simp] theorem State.setBytes_ring (a : Nat) (l : List Byte) : (s.setBytes a l).ring = s.ring := rfl
@[simp] theorem State.setBytes_can (a : Nat) (l : List Byte) : (s.setBytes a l).can = s.can := rfl
@[simp] theorem State.setBytes_lhp (a : Nat) (l : List Byte) : (s.setBytes a l).lhp = s.lhp := rfl
@[simp] theorem State.setBytes_snaps (a : Nat) (l : List Byte) : (s.setBytes a l).snaps = s.snaps := rfl
@[simp] theorem State.setBytes_memory (a : Nat) (l : List Byte) : (s.setBytes a l).memory = s.memory := rfl
@[simp] theorem State.setBytes_logQ (a : Nat) (l : List Byte) : (s.setBytes a l).logQ = s.logQ := rfl
@[simp] theorem State.setBytes_logSeq (a : Nat) (l : List Byte) : (s.setBytes a l).logSeq = s.logSeq := rfl
@[simp] theorem State.setBytes_logAt (a : Nat) (l : List Byte) : (s.setBytes a l).logAt = s.logAt := rfl
@[simp] theorem State.setBytes_gov (a : Nat) (l : List Byte) : (s.setBytes a l).gov = s.gov := rfl
@[simp] theorem State.setBytes_job (a : Nat) (l : List Byte) : (s.setBytes a l).job = s.job := rfl
@[simp] theorem State.setBytes_faultQ (a : Nat) (l : List Byte) : (s.setBytes a l).faultQ = s.faultQ := rfl
@[simp] theorem State.setBytes_windows (a : Nat) (l : List Byte) : (s.setBytes a l).windows = s.windows := rfl
@[simp] theorem State.setBytes_events (a : Nat) (l : List Byte) : (s.setBytes a l).events = s.events := rfl
@[simp] theorem State.setBytes_alive (a : Nat) (l : List Byte) : (s.setBytes a l).alive = s.alive := rfl
@[simp] theorem State.setBytes_die (a : Nat) (l : List Byte) : (s.setBytes a l).die = s.die := rfl
@[simp] theorem State.setBytes_shut (a : Nat) (l : List Byte) : (s.setBytes a l).shut = s.shut := rfl
@[simp] theorem State.setBytes_sup (a : Nat) (l : List Byte) : (s.setBytes a l).sup = s.sup := rfl
@[simp] theorem State.setBytes_doms (a : Nat) (l : List Byte) : (s.setBytes a l).doms = s.doms := rfl
@[simp] theorem State.setBytes_otp (a : Nat) (l : List Byte) : (s.setBytes a l).otp = s.otp := rfl
@[simp] theorem State.setBytes_store (a : Nat) (l : List Byte) : (s.setBytes a l).store = s.store := rfl
@[simp] theorem State.setBytes_cals (a : Nat) (l : List Byte) : (s.setBytes a l).cals = s.cals := rfl
@[simp] theorem State.setBytes_vern (a : Nat) (l : List Byte) : (s.setBytes a l).vern = s.vern := rfl
@[simp] theorem State.setBytes_personas (a : Nat) (l : List Byte) : (s.setBytes a l).personas = s.personas := rfl
@[simp] theorem State.setBytes_rd (a : Nat) (l : List Byte) (r : Row) (i j : Nat) : (s.setBytes a l).rd r i j = s.rd r i j := rfl
@[simp] theorem State.setBytes_rdN (a : Nat) (l : List Byte) (r : Row) (i j : Nat) : (s.setBytes a l).rdN r i j = s.rdN r i j := rfl
@[simp] theorem State.setBytes_chan (a : Nat) (l : List Byte) (k : Nat) : (s.setBytes a l).chan k = s.chan k := rfl
@[simp] theorem State.setBytes_eng (a : Nat) (l : List Byte) (k : Nat) : (s.setBytes a l).eng k = s.eng k := rfl
@[simp] theorem State.setBytes_enc (a : Nat) (l : List Byte) (k : Nat) : (s.setBytes a l).enc k = s.enc k := rfl
@[simp] theorem State.setBytes_trig (a : Nat) (l : List Byte) (k : Nat) : (s.setBytes a l).trig k = s.trig k := rfl
@[simp] theorem State.setBytes_loop (a : Nat) (l : List Byte) (k : Nat) : (s.setBytes a l).loop k = s.loop k := rfl
@[simp] theorem State.setBytes_sec (a : Nat) (l : List Byte) (k : Nat) : (s.setBytes a l).sec k = s.sec k := rfl
@[simp] theorem State.setBytes_dma (a : Nat) (l : List Byte) (k : Nat) : (s.setBytes a l).dma k = s.dma k := rfl
@[simp] theorem State.setBytes_stream (a : Nat) (l : List Byte) (k : Nat) : (s.setBytes a l).stream k = s.stream k := rfl
@[simp] theorem State.setBytes_port (a : Nat) (l : List Byte) (k : Nat) : (s.setBytes a l).port k = s.port k := rfl
@[simp] theorem State.setBytes_lane (a : Nat) (l : List Byte) (k : Nat) : (s.setBytes a l).lane k = s.lane k := rfl
@[simp] theorem State.setBytes_rank (a : Nat) (l : List Byte) (k : Nat) : (s.setBytes a l).rank k = s.rank k := rfl
@[simp] theorem State.setBytes_cal (a : Nat) (l : List Byte) (k : Nat) : (s.setBytes a l).cal k = s.cal k := rfl
@[simp] theorem State.setBytes_persona (a : Nat) (l : List Byte) (k : Nat) : (s.setBytes a l).persona k = s.persona k := rfl
@[simp] theorem State.setBytes_domState (a : Nat) (l : List Byte) (k : Nat) : (s.setBytes a l).domState k = s.domState k := rfl
@[simp] theorem State.setBytes_domOn (a : Nat) (l : List Byte) (k : Nat) : (s.setBytes a l).domOn k = s.domOn k := rfl
@[simp] theorem State.copyBytes_pending (a b n : Nat) : (s.copyBytes a b n).pending = s.pending := rfl
@[simp] theorem State.copyBytes_tick (a b n : Nat) : (s.copyBytes a b n).tick = s.tick := rfl
@[simp] theorem State.copyBytes_time (a b n : Nat) : (s.copyBytes a b n).time = s.time := rfl
@[simp] theorem State.copyBytes_acted (a b n : Nat) : (s.copyBytes a b n).acted = s.acted := rfl
@[simp] theorem State.copyBytes_was (a b n : Nat) : (s.copyBytes a b n).was = s.was := rfl
@[simp] theorem State.copyBytes_sent (a b n : Nat) : (s.copyBytes a b n).sent = s.sent := rfl
@[simp] theorem State.copyBytes_fresh (a b n : Nat) : (s.copyBytes a b n).fresh = s.fresh := rfl
@[simp] theorem State.copyBytes_dev (a b n : Nat) : (s.copyBytes a b n).dev = s.dev := rfl
@[simp] theorem State.copyBytes_flagsSeen (a b n : Nat) : (s.copyBytes a b n).flagsSeen = s.flagsSeen := rfl
@[simp] theorem State.copyBytes_leftOut (a b n : Nat) : (s.copyBytes a b n).leftOut = s.leftOut := rfl
@[simp] theorem State.copyBytes_clkRoot (a b n : Nat) : (s.copyBytes a b n).clkRoot = s.clkRoot := rfl
@[simp] theorem State.copyBytes_straps (a b n : Nat) : (s.copyBytes a b n).straps = s.straps := rfl
@[simp] theorem State.copyBytes_dict (a b n : Nat) : (s.copyBytes a b n).dict = s.dict := rfl
@[simp] theorem State.copyBytes_encs (a b n : Nat) : (s.copyBytes a b n).encs = s.encs := rfl
@[simp] theorem State.copyBytes_trigs (a b n : Nat) : (s.copyBytes a b n).trigs = s.trigs := rfl
@[simp] theorem State.copyBytes_ringPos (a b n : Nat) : (s.copyBytes a b n).ringPos = s.ringPos := rfl
@[simp] theorem State.copyBytes_obs (a b n : Nat) : (s.copyBytes a b n).obs = s.obs := rfl
@[simp] theorem State.copyBytes_chans (a b n : Nat) : (s.copyBytes a b n).chans = s.chans := rfl
@[simp] theorem State.copyBytes_engs (a b n : Nat) : (s.copyBytes a b n).engs = s.engs := rfl
@[simp] theorem State.copyBytes_secs (a b n : Nat) : (s.copyBytes a b n).secs = s.secs := rfl
@[simp] theorem State.copyBytes_loops (a b n : Nat) : (s.copyBytes a b n).loops = s.loops := rfl
@[simp] theorem State.copyBytes_lathe (a b n : Nat) : (s.copyBytes a b n).lathe = s.lathe := rfl
@[simp] theorem State.copyBytes_dmas (a b n : Nat) : (s.copyBytes a b n).dmas = s.dmas := rfl
@[simp] theorem State.copyBytes_streams (a b n : Nat) : (s.copyBytes a b n).streams = s.streams := rfl
@[simp] theorem State.copyBytes_ports (a b n : Nat) : (s.copyBytes a b n).ports = s.ports := rfl
@[simp] theorem State.copyBytes_lanes (a b n : Nat) : (s.copyBytes a b n).lanes = s.lanes := rfl
@[simp] theorem State.copyBytes_ring (a b n : Nat) : (s.copyBytes a b n).ring = s.ring := rfl
@[simp] theorem State.copyBytes_can (a b n : Nat) : (s.copyBytes a b n).can = s.can := rfl
@[simp] theorem State.copyBytes_lhp (a b n : Nat) : (s.copyBytes a b n).lhp = s.lhp := rfl
@[simp] theorem State.copyBytes_snaps (a b n : Nat) : (s.copyBytes a b n).snaps = s.snaps := rfl
@[simp] theorem State.copyBytes_memory (a b n : Nat) : (s.copyBytes a b n).memory = s.memory := rfl
@[simp] theorem State.copyBytes_logQ (a b n : Nat) : (s.copyBytes a b n).logQ = s.logQ := rfl
@[simp] theorem State.copyBytes_logSeq (a b n : Nat) : (s.copyBytes a b n).logSeq = s.logSeq := rfl
@[simp] theorem State.copyBytes_logAt (a b n : Nat) : (s.copyBytes a b n).logAt = s.logAt := rfl
@[simp] theorem State.copyBytes_gov (a b n : Nat) : (s.copyBytes a b n).gov = s.gov := rfl
@[simp] theorem State.copyBytes_job (a b n : Nat) : (s.copyBytes a b n).job = s.job := rfl
@[simp] theorem State.copyBytes_faultQ (a b n : Nat) : (s.copyBytes a b n).faultQ = s.faultQ := rfl
@[simp] theorem State.copyBytes_windows (a b n : Nat) : (s.copyBytes a b n).windows = s.windows := rfl
@[simp] theorem State.copyBytes_events (a b n : Nat) : (s.copyBytes a b n).events = s.events := rfl
@[simp] theorem State.copyBytes_alive (a b n : Nat) : (s.copyBytes a b n).alive = s.alive := rfl
@[simp] theorem State.copyBytes_die (a b n : Nat) : (s.copyBytes a b n).die = s.die := rfl
@[simp] theorem State.copyBytes_shut (a b n : Nat) : (s.copyBytes a b n).shut = s.shut := rfl
@[simp] theorem State.copyBytes_sup (a b n : Nat) : (s.copyBytes a b n).sup = s.sup := rfl
@[simp] theorem State.copyBytes_doms (a b n : Nat) : (s.copyBytes a b n).doms = s.doms := rfl
@[simp] theorem State.copyBytes_otp (a b n : Nat) : (s.copyBytes a b n).otp = s.otp := rfl
@[simp] theorem State.copyBytes_store (a b n : Nat) : (s.copyBytes a b n).store = s.store := rfl
@[simp] theorem State.copyBytes_cals (a b n : Nat) : (s.copyBytes a b n).cals = s.cals := rfl
@[simp] theorem State.copyBytes_vern (a b n : Nat) : (s.copyBytes a b n).vern = s.vern := rfl
@[simp] theorem State.copyBytes_personas (a b n : Nat) : (s.copyBytes a b n).personas = s.personas := rfl
@[simp] theorem State.copyBytes_rd (a b n : Nat) (r : Row) (i j : Nat) : (s.copyBytes a b n).rd r i j = s.rd r i j := rfl
@[simp] theorem State.copyBytes_rdN (a b n : Nat) (r : Row) (i j : Nat) : (s.copyBytes a b n).rdN r i j = s.rdN r i j := rfl
@[simp] theorem State.copyBytes_chan (a b n : Nat) (k : Nat) : (s.copyBytes a b n).chan k = s.chan k := rfl
@[simp] theorem State.copyBytes_eng (a b n : Nat) (k : Nat) : (s.copyBytes a b n).eng k = s.eng k := rfl
@[simp] theorem State.copyBytes_enc (a b n : Nat) (k : Nat) : (s.copyBytes a b n).enc k = s.enc k := rfl
@[simp] theorem State.copyBytes_trig (a b n : Nat) (k : Nat) : (s.copyBytes a b n).trig k = s.trig k := rfl
@[simp] theorem State.copyBytes_loop (a b n : Nat) (k : Nat) : (s.copyBytes a b n).loop k = s.loop k := rfl
@[simp] theorem State.copyBytes_sec (a b n : Nat) (k : Nat) : (s.copyBytes a b n).sec k = s.sec k := rfl
@[simp] theorem State.copyBytes_dma (a b n : Nat) (k : Nat) : (s.copyBytes a b n).dma k = s.dma k := rfl
@[simp] theorem State.copyBytes_stream (a b n : Nat) (k : Nat) : (s.copyBytes a b n).stream k = s.stream k := rfl
@[simp] theorem State.copyBytes_port (a b n : Nat) (k : Nat) : (s.copyBytes a b n).port k = s.port k := rfl
@[simp] theorem State.copyBytes_lane (a b n : Nat) (k : Nat) : (s.copyBytes a b n).lane k = s.lane k := rfl
@[simp] theorem State.copyBytes_rank (a b n : Nat) (k : Nat) : (s.copyBytes a b n).rank k = s.rank k := rfl
@[simp] theorem State.copyBytes_cal (a b n : Nat) (k : Nat) : (s.copyBytes a b n).cal k = s.cal k := rfl
@[simp] theorem State.copyBytes_persona (a b n : Nat) (k : Nat) : (s.copyBytes a b n).persona k = s.persona k := rfl
@[simp] theorem State.copyBytes_domState (a b n : Nat) (k : Nat) : (s.copyBytes a b n).domState k = s.domState k := rfl
@[simp] theorem State.copyBytes_domOn (a b n : Nat) (k : Nat) : (s.copyBytes a b n).domOn k = s.domOn k := rfl
@[simp] theorem State.clearBytes_pending (a n : Nat) : (s.clearBytes a n).pending = s.pending := rfl
@[simp] theorem State.clearBytes_tick (a n : Nat) : (s.clearBytes a n).tick = s.tick := rfl
@[simp] theorem State.clearBytes_time (a n : Nat) : (s.clearBytes a n).time = s.time := rfl
@[simp] theorem State.clearBytes_acted (a n : Nat) : (s.clearBytes a n).acted = s.acted := rfl
@[simp] theorem State.clearBytes_was (a n : Nat) : (s.clearBytes a n).was = s.was := rfl
@[simp] theorem State.clearBytes_sent (a n : Nat) : (s.clearBytes a n).sent = s.sent := rfl
@[simp] theorem State.clearBytes_fresh (a n : Nat) : (s.clearBytes a n).fresh = s.fresh := rfl
@[simp] theorem State.clearBytes_dev (a n : Nat) : (s.clearBytes a n).dev = s.dev := rfl
@[simp] theorem State.clearBytes_flagsSeen (a n : Nat) : (s.clearBytes a n).flagsSeen = s.flagsSeen := rfl
@[simp] theorem State.clearBytes_leftOut (a n : Nat) : (s.clearBytes a n).leftOut = s.leftOut := rfl
@[simp] theorem State.clearBytes_clkRoot (a n : Nat) : (s.clearBytes a n).clkRoot = s.clkRoot := rfl
@[simp] theorem State.clearBytes_straps (a n : Nat) : (s.clearBytes a n).straps = s.straps := rfl
@[simp] theorem State.clearBytes_dict (a n : Nat) : (s.clearBytes a n).dict = s.dict := rfl
@[simp] theorem State.clearBytes_encs (a n : Nat) : (s.clearBytes a n).encs = s.encs := rfl
@[simp] theorem State.clearBytes_trigs (a n : Nat) : (s.clearBytes a n).trigs = s.trigs := rfl
@[simp] theorem State.clearBytes_ringPos (a n : Nat) : (s.clearBytes a n).ringPos = s.ringPos := rfl
@[simp] theorem State.clearBytes_obs (a n : Nat) : (s.clearBytes a n).obs = s.obs := rfl
@[simp] theorem State.clearBytes_chans (a n : Nat) : (s.clearBytes a n).chans = s.chans := rfl
@[simp] theorem State.clearBytes_engs (a n : Nat) : (s.clearBytes a n).engs = s.engs := rfl
@[simp] theorem State.clearBytes_secs (a n : Nat) : (s.clearBytes a n).secs = s.secs := rfl
@[simp] theorem State.clearBytes_loops (a n : Nat) : (s.clearBytes a n).loops = s.loops := rfl
@[simp] theorem State.clearBytes_lathe (a n : Nat) : (s.clearBytes a n).lathe = s.lathe := rfl
@[simp] theorem State.clearBytes_dmas (a n : Nat) : (s.clearBytes a n).dmas = s.dmas := rfl
@[simp] theorem State.clearBytes_streams (a n : Nat) : (s.clearBytes a n).streams = s.streams := rfl
@[simp] theorem State.clearBytes_ports (a n : Nat) : (s.clearBytes a n).ports = s.ports := rfl
@[simp] theorem State.clearBytes_lanes (a n : Nat) : (s.clearBytes a n).lanes = s.lanes := rfl
@[simp] theorem State.clearBytes_ring (a n : Nat) : (s.clearBytes a n).ring = s.ring := rfl
@[simp] theorem State.clearBytes_can (a n : Nat) : (s.clearBytes a n).can = s.can := rfl
@[simp] theorem State.clearBytes_lhp (a n : Nat) : (s.clearBytes a n).lhp = s.lhp := rfl
@[simp] theorem State.clearBytes_snaps (a n : Nat) : (s.clearBytes a n).snaps = s.snaps := rfl
@[simp] theorem State.clearBytes_memory (a n : Nat) : (s.clearBytes a n).memory = s.memory := rfl
@[simp] theorem State.clearBytes_logQ (a n : Nat) : (s.clearBytes a n).logQ = s.logQ := rfl
@[simp] theorem State.clearBytes_logSeq (a n : Nat) : (s.clearBytes a n).logSeq = s.logSeq := rfl
@[simp] theorem State.clearBytes_logAt (a n : Nat) : (s.clearBytes a n).logAt = s.logAt := rfl
@[simp] theorem State.clearBytes_gov (a n : Nat) : (s.clearBytes a n).gov = s.gov := rfl
@[simp] theorem State.clearBytes_job (a n : Nat) : (s.clearBytes a n).job = s.job := rfl
@[simp] theorem State.clearBytes_faultQ (a n : Nat) : (s.clearBytes a n).faultQ = s.faultQ := rfl
@[simp] theorem State.clearBytes_windows (a n : Nat) : (s.clearBytes a n).windows = s.windows := rfl
@[simp] theorem State.clearBytes_events (a n : Nat) : (s.clearBytes a n).events = s.events := rfl
@[simp] theorem State.clearBytes_alive (a n : Nat) : (s.clearBytes a n).alive = s.alive := rfl
@[simp] theorem State.clearBytes_die (a n : Nat) : (s.clearBytes a n).die = s.die := rfl
@[simp] theorem State.clearBytes_shut (a n : Nat) : (s.clearBytes a n).shut = s.shut := rfl
@[simp] theorem State.clearBytes_sup (a n : Nat) : (s.clearBytes a n).sup = s.sup := rfl
@[simp] theorem State.clearBytes_doms (a n : Nat) : (s.clearBytes a n).doms = s.doms := rfl
@[simp] theorem State.clearBytes_otp (a n : Nat) : (s.clearBytes a n).otp = s.otp := rfl
@[simp] theorem State.clearBytes_store (a n : Nat) : (s.clearBytes a n).store = s.store := rfl
@[simp] theorem State.clearBytes_cals (a n : Nat) : (s.clearBytes a n).cals = s.cals := rfl
@[simp] theorem State.clearBytes_vern (a n : Nat) : (s.clearBytes a n).vern = s.vern := rfl
@[simp] theorem State.clearBytes_personas (a n : Nat) : (s.clearBytes a n).personas = s.personas := rfl
@[simp] theorem State.clearBytes_rd (a n : Nat) (r : Row) (i j : Nat) : (s.clearBytes a n).rd r i j = s.rd r i j := rfl
@[simp] theorem State.clearBytes_rdN (a n : Nat) (r : Row) (i j : Nat) : (s.clearBytes a n).rdN r i j = s.rdN r i j := rfl
@[simp] theorem State.clearBytes_chan (a n : Nat) (k : Nat) : (s.clearBytes a n).chan k = s.chan k := rfl
@[simp] theorem State.clearBytes_eng (a n : Nat) (k : Nat) : (s.clearBytes a n).eng k = s.eng k := rfl
@[simp] theorem State.clearBytes_enc (a n : Nat) (k : Nat) : (s.clearBytes a n).enc k = s.enc k := rfl
@[simp] theorem State.clearBytes_trig (a n : Nat) (k : Nat) : (s.clearBytes a n).trig k = s.trig k := rfl
@[simp] theorem State.clearBytes_loop (a n : Nat) (k : Nat) : (s.clearBytes a n).loop k = s.loop k := rfl
@[simp] theorem State.clearBytes_sec (a n : Nat) (k : Nat) : (s.clearBytes a n).sec k = s.sec k := rfl
@[simp] theorem State.clearBytes_dma (a n : Nat) (k : Nat) : (s.clearBytes a n).dma k = s.dma k := rfl
@[simp] theorem State.clearBytes_stream (a n : Nat) (k : Nat) : (s.clearBytes a n).stream k = s.stream k := rfl
@[simp] theorem State.clearBytes_port (a n : Nat) (k : Nat) : (s.clearBytes a n).port k = s.port k := rfl
@[simp] theorem State.clearBytes_lane (a n : Nat) (k : Nat) : (s.clearBytes a n).lane k = s.lane k := rfl
@[simp] theorem State.clearBytes_rank (a n : Nat) (k : Nat) : (s.clearBytes a n).rank k = s.rank k := rfl
@[simp] theorem State.clearBytes_cal (a n : Nat) (k : Nat) : (s.clearBytes a n).cal k = s.cal k := rfl
@[simp] theorem State.clearBytes_persona (a n : Nat) (k : Nat) : (s.clearBytes a n).persona k = s.persona k := rfl
@[simp] theorem State.clearBytes_domState (a n : Nat) (k : Nat) : (s.clearBytes a n).domState k = s.domState k := rfl
@[simp] theorem State.clearBytes_domOn (a n : Nat) (k : Nat) : (s.clearBytes a n).domOn k = s.domOn k := rfl
@[simp] theorem State.setChan_pending (c : Nat) (x : Chan) : (s.setChan c x).pending = s.pending := rfl
@[simp] theorem State.setChan_tick (c : Nat) (x : Chan) : (s.setChan c x).tick = s.tick := rfl
@[simp] theorem State.setChan_time (c : Nat) (x : Chan) : (s.setChan c x).time = s.time := rfl
@[simp] theorem State.setChan_acted (c : Nat) (x : Chan) : (s.setChan c x).acted = s.acted := rfl
@[simp] theorem State.setChan_was (c : Nat) (x : Chan) : (s.setChan c x).was = s.was := rfl
@[simp] theorem State.setChan_sent (c : Nat) (x : Chan) : (s.setChan c x).sent = s.sent := rfl
@[simp] theorem State.setChan_fresh (c : Nat) (x : Chan) : (s.setChan c x).fresh = s.fresh := rfl
@[simp] theorem State.setChan_dev (c : Nat) (x : Chan) : (s.setChan c x).dev = s.dev := rfl
@[simp] theorem State.setChan_flagsSeen (c : Nat) (x : Chan) : (s.setChan c x).flagsSeen = s.flagsSeen := rfl
@[simp] theorem State.setChan_leftOut (c : Nat) (x : Chan) : (s.setChan c x).leftOut = s.leftOut := rfl
@[simp] theorem State.setChan_clkRoot (c : Nat) (x : Chan) : (s.setChan c x).clkRoot = s.clkRoot := rfl
@[simp] theorem State.setChan_straps (c : Nat) (x : Chan) : (s.setChan c x).straps = s.straps := rfl
@[simp] theorem State.setChan_dict (c : Nat) (x : Chan) : (s.setChan c x).dict = s.dict := rfl
@[simp] theorem State.setChan_mem (c : Nat) (x : Chan) : (s.setChan c x).mem = s.mem := rfl
@[simp] theorem State.setChan_encs (c : Nat) (x : Chan) : (s.setChan c x).encs = s.encs := rfl
@[simp] theorem State.setChan_trigs (c : Nat) (x : Chan) : (s.setChan c x).trigs = s.trigs := rfl
@[simp] theorem State.setChan_ringPos (c : Nat) (x : Chan) : (s.setChan c x).ringPos = s.ringPos := rfl
@[simp] theorem State.setChan_obs (c : Nat) (x : Chan) : (s.setChan c x).obs = s.obs := rfl
@[simp] theorem State.setChan_engs (c : Nat) (x : Chan) : (s.setChan c x).engs = s.engs := rfl
@[simp] theorem State.setChan_secs (c : Nat) (x : Chan) : (s.setChan c x).secs = s.secs := rfl
@[simp] theorem State.setChan_loops (c : Nat) (x : Chan) : (s.setChan c x).loops = s.loops := rfl
@[simp] theorem State.setChan_lathe (c : Nat) (x : Chan) : (s.setChan c x).lathe = s.lathe := rfl
@[simp] theorem State.setChan_dmas (c : Nat) (x : Chan) : (s.setChan c x).dmas = s.dmas := rfl
@[simp] theorem State.setChan_streams (c : Nat) (x : Chan) : (s.setChan c x).streams = s.streams := rfl
@[simp] theorem State.setChan_ports (c : Nat) (x : Chan) : (s.setChan c x).ports = s.ports := rfl
@[simp] theorem State.setChan_lanes (c : Nat) (x : Chan) : (s.setChan c x).lanes = s.lanes := rfl
@[simp] theorem State.setChan_ring (c : Nat) (x : Chan) : (s.setChan c x).ring = s.ring := rfl
@[simp] theorem State.setChan_can (c : Nat) (x : Chan) : (s.setChan c x).can = s.can := rfl
@[simp] theorem State.setChan_lhp (c : Nat) (x : Chan) : (s.setChan c x).lhp = s.lhp := rfl
@[simp] theorem State.setChan_snaps (c : Nat) (x : Chan) : (s.setChan c x).snaps = s.snaps := rfl
@[simp] theorem State.setChan_memory (c : Nat) (x : Chan) : (s.setChan c x).memory = s.memory := rfl
@[simp] theorem State.setChan_logQ (c : Nat) (x : Chan) : (s.setChan c x).logQ = s.logQ := rfl
@[simp] theorem State.setChan_logSeq (c : Nat) (x : Chan) : (s.setChan c x).logSeq = s.logSeq := rfl
@[simp] theorem State.setChan_logAt (c : Nat) (x : Chan) : (s.setChan c x).logAt = s.logAt := rfl
@[simp] theorem State.setChan_gov (c : Nat) (x : Chan) : (s.setChan c x).gov = s.gov := rfl
@[simp] theorem State.setChan_job (c : Nat) (x : Chan) : (s.setChan c x).job = s.job := rfl
@[simp] theorem State.setChan_faultQ (c : Nat) (x : Chan) : (s.setChan c x).faultQ = s.faultQ := rfl
@[simp] theorem State.setChan_windows (c : Nat) (x : Chan) : (s.setChan c x).windows = s.windows := rfl
@[simp] theorem State.setChan_events (c : Nat) (x : Chan) : (s.setChan c x).events = s.events := rfl
@[simp] theorem State.setChan_alive (c : Nat) (x : Chan) : (s.setChan c x).alive = s.alive := rfl
@[simp] theorem State.setChan_die (c : Nat) (x : Chan) : (s.setChan c x).die = s.die := rfl
@[simp] theorem State.setChan_shut (c : Nat) (x : Chan) : (s.setChan c x).shut = s.shut := rfl
@[simp] theorem State.setChan_sup (c : Nat) (x : Chan) : (s.setChan c x).sup = s.sup := rfl
@[simp] theorem State.setChan_doms (c : Nat) (x : Chan) : (s.setChan c x).doms = s.doms := rfl
@[simp] theorem State.setChan_otp (c : Nat) (x : Chan) : (s.setChan c x).otp = s.otp := rfl
@[simp] theorem State.setChan_store (c : Nat) (x : Chan) : (s.setChan c x).store = s.store := rfl
@[simp] theorem State.setChan_cals (c : Nat) (x : Chan) : (s.setChan c x).cals = s.cals := rfl
@[simp] theorem State.setChan_vern (c : Nat) (x : Chan) : (s.setChan c x).vern = s.vern := rfl
@[simp] theorem State.setChan_personas (c : Nat) (x : Chan) : (s.setChan c x).personas = s.personas := rfl
@[simp] theorem State.setChan_rd (c : Nat) (x : Chan) (r : Row) (i j : Nat) : (s.setChan c x).rd r i j = s.rd r i j := rfl
@[simp] theorem State.setChan_rdN (c : Nat) (x : Chan) (r : Row) (i j : Nat) : (s.setChan c x).rdN r i j = s.rdN r i j := rfl
@[simp] theorem State.setChan_byte (c : Nat) (x : Chan) (a : Nat) : (s.setChan c x).byte a = s.byte a := rfl
@[simp] theorem State.setChan_bytes (c : Nat) (x : Chan) (a n : Nat) : (s.setChan c x).bytes a n = s.bytes a n := rfl
@[simp] theorem State.setChan_eng (c : Nat) (x : Chan) (k : Nat) : (s.setChan c x).eng k = s.eng k := rfl
@[simp] theorem State.setChan_enc (c : Nat) (x : Chan) (k : Nat) : (s.setChan c x).enc k = s.enc k := rfl
@[simp] theorem State.setChan_trig (c : Nat) (x : Chan) (k : Nat) : (s.setChan c x).trig k = s.trig k := rfl
@[simp] theorem State.setChan_loop (c : Nat) (x : Chan) (k : Nat) : (s.setChan c x).loop k = s.loop k := rfl
@[simp] theorem State.setChan_sec (c : Nat) (x : Chan) (k : Nat) : (s.setChan c x).sec k = s.sec k := rfl
@[simp] theorem State.setChan_dma (c : Nat) (x : Chan) (k : Nat) : (s.setChan c x).dma k = s.dma k := rfl
@[simp] theorem State.setChan_stream (c : Nat) (x : Chan) (k : Nat) : (s.setChan c x).stream k = s.stream k := rfl
@[simp] theorem State.setChan_port (c : Nat) (x : Chan) (k : Nat) : (s.setChan c x).port k = s.port k := rfl
@[simp] theorem State.setChan_lane (c : Nat) (x : Chan) (k : Nat) : (s.setChan c x).lane k = s.lane k := rfl
@[simp] theorem State.setChan_rank (c : Nat) (x : Chan) (k : Nat) : (s.setChan c x).rank k = s.rank k := rfl
@[simp] theorem State.setChan_cal (c : Nat) (x : Chan) (k : Nat) : (s.setChan c x).cal k = s.cal k := rfl
@[simp] theorem State.setChan_persona (c : Nat) (x : Chan) (k : Nat) : (s.setChan c x).persona k = s.persona k := rfl
@[simp] theorem State.setChan_domState (c : Nat) (x : Chan) (k : Nat) : (s.setChan c x).domState k = s.domState k := rfl
@[simp] theorem State.setChan_domOn (c : Nat) (x : Chan) (k : Nat) : (s.setChan c x).domOn k = s.domOn k := rfl
@[simp] theorem State.setEng_pending (e : Nat) (x : EngSt) : (s.setEng e x).pending = s.pending := rfl
@[simp] theorem State.setEng_tick (e : Nat) (x : EngSt) : (s.setEng e x).tick = s.tick := rfl
@[simp] theorem State.setEng_time (e : Nat) (x : EngSt) : (s.setEng e x).time = s.time := rfl
@[simp] theorem State.setEng_acted (e : Nat) (x : EngSt) : (s.setEng e x).acted = s.acted := rfl
@[simp] theorem State.setEng_was (e : Nat) (x : EngSt) : (s.setEng e x).was = s.was := rfl
@[simp] theorem State.setEng_sent (e : Nat) (x : EngSt) : (s.setEng e x).sent = s.sent := rfl
@[simp] theorem State.setEng_fresh (e : Nat) (x : EngSt) : (s.setEng e x).fresh = s.fresh := rfl
@[simp] theorem State.setEng_dev (e : Nat) (x : EngSt) : (s.setEng e x).dev = s.dev := rfl
@[simp] theorem State.setEng_flagsSeen (e : Nat) (x : EngSt) : (s.setEng e x).flagsSeen = s.flagsSeen := rfl
@[simp] theorem State.setEng_leftOut (e : Nat) (x : EngSt) : (s.setEng e x).leftOut = s.leftOut := rfl
@[simp] theorem State.setEng_clkRoot (e : Nat) (x : EngSt) : (s.setEng e x).clkRoot = s.clkRoot := rfl
@[simp] theorem State.setEng_straps (e : Nat) (x : EngSt) : (s.setEng e x).straps = s.straps := rfl
@[simp] theorem State.setEng_dict (e : Nat) (x : EngSt) : (s.setEng e x).dict = s.dict := rfl
@[simp] theorem State.setEng_mem (e : Nat) (x : EngSt) : (s.setEng e x).mem = s.mem := rfl
@[simp] theorem State.setEng_encs (e : Nat) (x : EngSt) : (s.setEng e x).encs = s.encs := rfl
@[simp] theorem State.setEng_trigs (e : Nat) (x : EngSt) : (s.setEng e x).trigs = s.trigs := rfl
@[simp] theorem State.setEng_ringPos (e : Nat) (x : EngSt) : (s.setEng e x).ringPos = s.ringPos := rfl
@[simp] theorem State.setEng_obs (e : Nat) (x : EngSt) : (s.setEng e x).obs = s.obs := rfl
@[simp] theorem State.setEng_chans (e : Nat) (x : EngSt) : (s.setEng e x).chans = s.chans := rfl
@[simp] theorem State.setEng_secs (e : Nat) (x : EngSt) : (s.setEng e x).secs = s.secs := rfl
@[simp] theorem State.setEng_loops (e : Nat) (x : EngSt) : (s.setEng e x).loops = s.loops := rfl
@[simp] theorem State.setEng_lathe (e : Nat) (x : EngSt) : (s.setEng e x).lathe = s.lathe := rfl
@[simp] theorem State.setEng_dmas (e : Nat) (x : EngSt) : (s.setEng e x).dmas = s.dmas := rfl
@[simp] theorem State.setEng_streams (e : Nat) (x : EngSt) : (s.setEng e x).streams = s.streams := rfl
@[simp] theorem State.setEng_ports (e : Nat) (x : EngSt) : (s.setEng e x).ports = s.ports := rfl
@[simp] theorem State.setEng_lanes (e : Nat) (x : EngSt) : (s.setEng e x).lanes = s.lanes := rfl
@[simp] theorem State.setEng_ring (e : Nat) (x : EngSt) : (s.setEng e x).ring = s.ring := rfl
@[simp] theorem State.setEng_can (e : Nat) (x : EngSt) : (s.setEng e x).can = s.can := rfl
@[simp] theorem State.setEng_lhp (e : Nat) (x : EngSt) : (s.setEng e x).lhp = s.lhp := rfl
@[simp] theorem State.setEng_snaps (e : Nat) (x : EngSt) : (s.setEng e x).snaps = s.snaps := rfl
@[simp] theorem State.setEng_memory (e : Nat) (x : EngSt) : (s.setEng e x).memory = s.memory := rfl
@[simp] theorem State.setEng_logQ (e : Nat) (x : EngSt) : (s.setEng e x).logQ = s.logQ := rfl
@[simp] theorem State.setEng_logSeq (e : Nat) (x : EngSt) : (s.setEng e x).logSeq = s.logSeq := rfl
@[simp] theorem State.setEng_logAt (e : Nat) (x : EngSt) : (s.setEng e x).logAt = s.logAt := rfl
@[simp] theorem State.setEng_gov (e : Nat) (x : EngSt) : (s.setEng e x).gov = s.gov := rfl
@[simp] theorem State.setEng_job (e : Nat) (x : EngSt) : (s.setEng e x).job = s.job := rfl
@[simp] theorem State.setEng_faultQ (e : Nat) (x : EngSt) : (s.setEng e x).faultQ = s.faultQ := rfl
@[simp] theorem State.setEng_windows (e : Nat) (x : EngSt) : (s.setEng e x).windows = s.windows := rfl
@[simp] theorem State.setEng_events (e : Nat) (x : EngSt) : (s.setEng e x).events = s.events := rfl
@[simp] theorem State.setEng_alive (e : Nat) (x : EngSt) : (s.setEng e x).alive = s.alive := rfl
@[simp] theorem State.setEng_die (e : Nat) (x : EngSt) : (s.setEng e x).die = s.die := rfl
@[simp] theorem State.setEng_shut (e : Nat) (x : EngSt) : (s.setEng e x).shut = s.shut := rfl
@[simp] theorem State.setEng_sup (e : Nat) (x : EngSt) : (s.setEng e x).sup = s.sup := rfl
@[simp] theorem State.setEng_doms (e : Nat) (x : EngSt) : (s.setEng e x).doms = s.doms := rfl
@[simp] theorem State.setEng_otp (e : Nat) (x : EngSt) : (s.setEng e x).otp = s.otp := rfl
@[simp] theorem State.setEng_store (e : Nat) (x : EngSt) : (s.setEng e x).store = s.store := rfl
@[simp] theorem State.setEng_cals (e : Nat) (x : EngSt) : (s.setEng e x).cals = s.cals := rfl
@[simp] theorem State.setEng_vern (e : Nat) (x : EngSt) : (s.setEng e x).vern = s.vern := rfl
@[simp] theorem State.setEng_personas (e : Nat) (x : EngSt) : (s.setEng e x).personas = s.personas := rfl
@[simp] theorem State.setEng_rd (e : Nat) (x : EngSt) (r : Row) (i j : Nat) : (s.setEng e x).rd r i j = s.rd r i j := rfl
@[simp] theorem State.setEng_rdN (e : Nat) (x : EngSt) (r : Row) (i j : Nat) : (s.setEng e x).rdN r i j = s.rdN r i j := rfl
@[simp] theorem State.setEng_byte (e : Nat) (x : EngSt) (a : Nat) : (s.setEng e x).byte a = s.byte a := rfl
@[simp] theorem State.setEng_bytes (e : Nat) (x : EngSt) (a n : Nat) : (s.setEng e x).bytes a n = s.bytes a n := rfl
@[simp] theorem State.setEng_chan (e : Nat) (x : EngSt) (k : Nat) : (s.setEng e x).chan k = s.chan k := rfl
@[simp] theorem State.setEng_enc (e : Nat) (x : EngSt) (k : Nat) : (s.setEng e x).enc k = s.enc k := rfl
@[simp] theorem State.setEng_trig (e : Nat) (x : EngSt) (k : Nat) : (s.setEng e x).trig k = s.trig k := rfl
@[simp] theorem State.setEng_loop (e : Nat) (x : EngSt) (k : Nat) : (s.setEng e x).loop k = s.loop k := rfl
@[simp] theorem State.setEng_sec (e : Nat) (x : EngSt) (k : Nat) : (s.setEng e x).sec k = s.sec k := rfl
@[simp] theorem State.setEng_dma (e : Nat) (x : EngSt) (k : Nat) : (s.setEng e x).dma k = s.dma k := rfl
@[simp] theorem State.setEng_stream (e : Nat) (x : EngSt) (k : Nat) : (s.setEng e x).stream k = s.stream k := rfl
@[simp] theorem State.setEng_port (e : Nat) (x : EngSt) (k : Nat) : (s.setEng e x).port k = s.port k := rfl
@[simp] theorem State.setEng_lane (e : Nat) (x : EngSt) (k : Nat) : (s.setEng e x).lane k = s.lane k := rfl
@[simp] theorem State.setEng_rank (e : Nat) (x : EngSt) (k : Nat) : (s.setEng e x).rank k = s.rank k := rfl
@[simp] theorem State.setEng_cal (e : Nat) (x : EngSt) (k : Nat) : (s.setEng e x).cal k = s.cal k := rfl
@[simp] theorem State.setEng_persona (e : Nat) (x : EngSt) (k : Nat) : (s.setEng e x).persona k = s.persona k := rfl
@[simp] theorem State.setEng_domState (e : Nat) (x : EngSt) (k : Nat) : (s.setEng e x).domState k = s.domState k := rfl
@[simp] theorem State.setEng_domOn (e : Nat) (x : EngSt) (k : Nat) : (s.setEng e x).domOn k = s.domOn k := rfl
@[simp] theorem State.setEnc_pending (n : Nat) (x : EncSt) : (s.setEnc n x).pending = s.pending := rfl
@[simp] theorem State.setEnc_tick (n : Nat) (x : EncSt) : (s.setEnc n x).tick = s.tick := rfl
@[simp] theorem State.setEnc_time (n : Nat) (x : EncSt) : (s.setEnc n x).time = s.time := rfl
@[simp] theorem State.setEnc_acted (n : Nat) (x : EncSt) : (s.setEnc n x).acted = s.acted := rfl
@[simp] theorem State.setEnc_was (n : Nat) (x : EncSt) : (s.setEnc n x).was = s.was := rfl
@[simp] theorem State.setEnc_sent (n : Nat) (x : EncSt) : (s.setEnc n x).sent = s.sent := rfl
@[simp] theorem State.setEnc_fresh (n : Nat) (x : EncSt) : (s.setEnc n x).fresh = s.fresh := rfl
@[simp] theorem State.setEnc_dev (n : Nat) (x : EncSt) : (s.setEnc n x).dev = s.dev := rfl
@[simp] theorem State.setEnc_flagsSeen (n : Nat) (x : EncSt) : (s.setEnc n x).flagsSeen = s.flagsSeen := rfl
@[simp] theorem State.setEnc_leftOut (n : Nat) (x : EncSt) : (s.setEnc n x).leftOut = s.leftOut := rfl
@[simp] theorem State.setEnc_clkRoot (n : Nat) (x : EncSt) : (s.setEnc n x).clkRoot = s.clkRoot := rfl
@[simp] theorem State.setEnc_straps (n : Nat) (x : EncSt) : (s.setEnc n x).straps = s.straps := rfl
@[simp] theorem State.setEnc_dict (n : Nat) (x : EncSt) : (s.setEnc n x).dict = s.dict := rfl
@[simp] theorem State.setEnc_mem (n : Nat) (x : EncSt) : (s.setEnc n x).mem = s.mem := rfl
@[simp] theorem State.setEnc_trigs (n : Nat) (x : EncSt) : (s.setEnc n x).trigs = s.trigs := rfl
@[simp] theorem State.setEnc_ringPos (n : Nat) (x : EncSt) : (s.setEnc n x).ringPos = s.ringPos := rfl
@[simp] theorem State.setEnc_obs (n : Nat) (x : EncSt) : (s.setEnc n x).obs = s.obs := rfl
@[simp] theorem State.setEnc_chans (n : Nat) (x : EncSt) : (s.setEnc n x).chans = s.chans := rfl
@[simp] theorem State.setEnc_engs (n : Nat) (x : EncSt) : (s.setEnc n x).engs = s.engs := rfl
@[simp] theorem State.setEnc_secs (n : Nat) (x : EncSt) : (s.setEnc n x).secs = s.secs := rfl
@[simp] theorem State.setEnc_loops (n : Nat) (x : EncSt) : (s.setEnc n x).loops = s.loops := rfl
@[simp] theorem State.setEnc_lathe (n : Nat) (x : EncSt) : (s.setEnc n x).lathe = s.lathe := rfl
@[simp] theorem State.setEnc_dmas (n : Nat) (x : EncSt) : (s.setEnc n x).dmas = s.dmas := rfl
@[simp] theorem State.setEnc_streams (n : Nat) (x : EncSt) : (s.setEnc n x).streams = s.streams := rfl
@[simp] theorem State.setEnc_ports (n : Nat) (x : EncSt) : (s.setEnc n x).ports = s.ports := rfl
@[simp] theorem State.setEnc_lanes (n : Nat) (x : EncSt) : (s.setEnc n x).lanes = s.lanes := rfl
@[simp] theorem State.setEnc_ring (n : Nat) (x : EncSt) : (s.setEnc n x).ring = s.ring := rfl
@[simp] theorem State.setEnc_can (n : Nat) (x : EncSt) : (s.setEnc n x).can = s.can := rfl
@[simp] theorem State.setEnc_lhp (n : Nat) (x : EncSt) : (s.setEnc n x).lhp = s.lhp := rfl
@[simp] theorem State.setEnc_snaps (n : Nat) (x : EncSt) : (s.setEnc n x).snaps = s.snaps := rfl
@[simp] theorem State.setEnc_memory (n : Nat) (x : EncSt) : (s.setEnc n x).memory = s.memory := rfl
@[simp] theorem State.setEnc_logQ (n : Nat) (x : EncSt) : (s.setEnc n x).logQ = s.logQ := rfl
@[simp] theorem State.setEnc_logSeq (n : Nat) (x : EncSt) : (s.setEnc n x).logSeq = s.logSeq := rfl
@[simp] theorem State.setEnc_logAt (n : Nat) (x : EncSt) : (s.setEnc n x).logAt = s.logAt := rfl
@[simp] theorem State.setEnc_gov (n : Nat) (x : EncSt) : (s.setEnc n x).gov = s.gov := rfl
@[simp] theorem State.setEnc_job (n : Nat) (x : EncSt) : (s.setEnc n x).job = s.job := rfl
@[simp] theorem State.setEnc_faultQ (n : Nat) (x : EncSt) : (s.setEnc n x).faultQ = s.faultQ := rfl
@[simp] theorem State.setEnc_windows (n : Nat) (x : EncSt) : (s.setEnc n x).windows = s.windows := rfl
@[simp] theorem State.setEnc_events (n : Nat) (x : EncSt) : (s.setEnc n x).events = s.events := rfl
@[simp] theorem State.setEnc_alive (n : Nat) (x : EncSt) : (s.setEnc n x).alive = s.alive := rfl
@[simp] theorem State.setEnc_die (n : Nat) (x : EncSt) : (s.setEnc n x).die = s.die := rfl
@[simp] theorem State.setEnc_shut (n : Nat) (x : EncSt) : (s.setEnc n x).shut = s.shut := rfl
@[simp] theorem State.setEnc_sup (n : Nat) (x : EncSt) : (s.setEnc n x).sup = s.sup := rfl
@[simp] theorem State.setEnc_doms (n : Nat) (x : EncSt) : (s.setEnc n x).doms = s.doms := rfl
@[simp] theorem State.setEnc_otp (n : Nat) (x : EncSt) : (s.setEnc n x).otp = s.otp := rfl
@[simp] theorem State.setEnc_store (n : Nat) (x : EncSt) : (s.setEnc n x).store = s.store := rfl
@[simp] theorem State.setEnc_cals (n : Nat) (x : EncSt) : (s.setEnc n x).cals = s.cals := rfl
@[simp] theorem State.setEnc_vern (n : Nat) (x : EncSt) : (s.setEnc n x).vern = s.vern := rfl
@[simp] theorem State.setEnc_personas (n : Nat) (x : EncSt) : (s.setEnc n x).personas = s.personas := rfl
@[simp] theorem State.setEnc_rd (n : Nat) (x : EncSt) (r : Row) (i j : Nat) : (s.setEnc n x).rd r i j = s.rd r i j := rfl
@[simp] theorem State.setEnc_rdN (n : Nat) (x : EncSt) (r : Row) (i j : Nat) : (s.setEnc n x).rdN r i j = s.rdN r i j := rfl
@[simp] theorem State.setEnc_byte (n : Nat) (x : EncSt) (a : Nat) : (s.setEnc n x).byte a = s.byte a := rfl
@[simp] theorem State.setEnc_bytes (n : Nat) (x : EncSt) (a n' : Nat) : (s.setEnc n x).bytes a n' = s.bytes a n' := rfl
@[simp] theorem State.setEnc_chan (n : Nat) (x : EncSt) (k : Nat) : (s.setEnc n x).chan k = s.chan k := rfl
@[simp] theorem State.setEnc_eng (n : Nat) (x : EncSt) (k : Nat) : (s.setEnc n x).eng k = s.eng k := rfl
@[simp] theorem State.setEnc_trig (n : Nat) (x : EncSt) (k : Nat) : (s.setEnc n x).trig k = s.trig k := rfl
@[simp] theorem State.setEnc_loop (n : Nat) (x : EncSt) (k : Nat) : (s.setEnc n x).loop k = s.loop k := rfl
@[simp] theorem State.setEnc_sec (n : Nat) (x : EncSt) (k : Nat) : (s.setEnc n x).sec k = s.sec k := rfl
@[simp] theorem State.setEnc_dma (n : Nat) (x : EncSt) (k : Nat) : (s.setEnc n x).dma k = s.dma k := rfl
@[simp] theorem State.setEnc_stream (n : Nat) (x : EncSt) (k : Nat) : (s.setEnc n x).stream k = s.stream k := rfl
@[simp] theorem State.setEnc_port (n : Nat) (x : EncSt) (k : Nat) : (s.setEnc n x).port k = s.port k := rfl
@[simp] theorem State.setEnc_lane (n : Nat) (x : EncSt) (k : Nat) : (s.setEnc n x).lane k = s.lane k := rfl
@[simp] theorem State.setEnc_rank (n : Nat) (x : EncSt) (k : Nat) : (s.setEnc n x).rank k = s.rank k := rfl
@[simp] theorem State.setEnc_cal (n : Nat) (x : EncSt) (k : Nat) : (s.setEnc n x).cal k = s.cal k := rfl
@[simp] theorem State.setEnc_persona (n : Nat) (x : EncSt) (k : Nat) : (s.setEnc n x).persona k = s.persona k := rfl
@[simp] theorem State.setEnc_domState (n : Nat) (x : EncSt) (k : Nat) : (s.setEnc n x).domState k = s.domState k := rfl
@[simp] theorem State.setEnc_domOn (n : Nat) (x : EncSt) (k : Nat) : (s.setEnc n x).domOn k = s.domOn k := rfl
@[simp] theorem State.setTrig_pending (n : Nat) (x : TrigSt) : (s.setTrig n x).pending = s.pending := rfl
@[simp] theorem State.setTrig_tick (n : Nat) (x : TrigSt) : (s.setTrig n x).tick = s.tick := rfl
@[simp] theorem State.setTrig_time (n : Nat) (x : TrigSt) : (s.setTrig n x).time = s.time := rfl
@[simp] theorem State.setTrig_acted (n : Nat) (x : TrigSt) : (s.setTrig n x).acted = s.acted := rfl
@[simp] theorem State.setTrig_was (n : Nat) (x : TrigSt) : (s.setTrig n x).was = s.was := rfl
@[simp] theorem State.setTrig_sent (n : Nat) (x : TrigSt) : (s.setTrig n x).sent = s.sent := rfl
@[simp] theorem State.setTrig_fresh (n : Nat) (x : TrigSt) : (s.setTrig n x).fresh = s.fresh := rfl
@[simp] theorem State.setTrig_dev (n : Nat) (x : TrigSt) : (s.setTrig n x).dev = s.dev := rfl
@[simp] theorem State.setTrig_flagsSeen (n : Nat) (x : TrigSt) : (s.setTrig n x).flagsSeen = s.flagsSeen := rfl
@[simp] theorem State.setTrig_leftOut (n : Nat) (x : TrigSt) : (s.setTrig n x).leftOut = s.leftOut := rfl
@[simp] theorem State.setTrig_clkRoot (n : Nat) (x : TrigSt) : (s.setTrig n x).clkRoot = s.clkRoot := rfl
@[simp] theorem State.setTrig_straps (n : Nat) (x : TrigSt) : (s.setTrig n x).straps = s.straps := rfl
@[simp] theorem State.setTrig_dict (n : Nat) (x : TrigSt) : (s.setTrig n x).dict = s.dict := rfl
@[simp] theorem State.setTrig_mem (n : Nat) (x : TrigSt) : (s.setTrig n x).mem = s.mem := rfl
@[simp] theorem State.setTrig_encs (n : Nat) (x : TrigSt) : (s.setTrig n x).encs = s.encs := rfl
@[simp] theorem State.setTrig_ringPos (n : Nat) (x : TrigSt) : (s.setTrig n x).ringPos = s.ringPos := rfl
@[simp] theorem State.setTrig_obs (n : Nat) (x : TrigSt) : (s.setTrig n x).obs = s.obs := rfl
@[simp] theorem State.setTrig_chans (n : Nat) (x : TrigSt) : (s.setTrig n x).chans = s.chans := rfl
@[simp] theorem State.setTrig_engs (n : Nat) (x : TrigSt) : (s.setTrig n x).engs = s.engs := rfl
@[simp] theorem State.setTrig_secs (n : Nat) (x : TrigSt) : (s.setTrig n x).secs = s.secs := rfl
@[simp] theorem State.setTrig_loops (n : Nat) (x : TrigSt) : (s.setTrig n x).loops = s.loops := rfl
@[simp] theorem State.setTrig_lathe (n : Nat) (x : TrigSt) : (s.setTrig n x).lathe = s.lathe := rfl
@[simp] theorem State.setTrig_dmas (n : Nat) (x : TrigSt) : (s.setTrig n x).dmas = s.dmas := rfl
@[simp] theorem State.setTrig_streams (n : Nat) (x : TrigSt) : (s.setTrig n x).streams = s.streams := rfl
@[simp] theorem State.setTrig_ports (n : Nat) (x : TrigSt) : (s.setTrig n x).ports = s.ports := rfl
@[simp] theorem State.setTrig_lanes (n : Nat) (x : TrigSt) : (s.setTrig n x).lanes = s.lanes := rfl
@[simp] theorem State.setTrig_ring (n : Nat) (x : TrigSt) : (s.setTrig n x).ring = s.ring := rfl
@[simp] theorem State.setTrig_can (n : Nat) (x : TrigSt) : (s.setTrig n x).can = s.can := rfl
@[simp] theorem State.setTrig_lhp (n : Nat) (x : TrigSt) : (s.setTrig n x).lhp = s.lhp := rfl
@[simp] theorem State.setTrig_snaps (n : Nat) (x : TrigSt) : (s.setTrig n x).snaps = s.snaps := rfl
@[simp] theorem State.setTrig_memory (n : Nat) (x : TrigSt) : (s.setTrig n x).memory = s.memory := rfl
@[simp] theorem State.setTrig_logQ (n : Nat) (x : TrigSt) : (s.setTrig n x).logQ = s.logQ := rfl
@[simp] theorem State.setTrig_logSeq (n : Nat) (x : TrigSt) : (s.setTrig n x).logSeq = s.logSeq := rfl
@[simp] theorem State.setTrig_logAt (n : Nat) (x : TrigSt) : (s.setTrig n x).logAt = s.logAt := rfl
@[simp] theorem State.setTrig_gov (n : Nat) (x : TrigSt) : (s.setTrig n x).gov = s.gov := rfl
@[simp] theorem State.setTrig_job (n : Nat) (x : TrigSt) : (s.setTrig n x).job = s.job := rfl
@[simp] theorem State.setTrig_faultQ (n : Nat) (x : TrigSt) : (s.setTrig n x).faultQ = s.faultQ := rfl
@[simp] theorem State.setTrig_windows (n : Nat) (x : TrigSt) : (s.setTrig n x).windows = s.windows := rfl
@[simp] theorem State.setTrig_events (n : Nat) (x : TrigSt) : (s.setTrig n x).events = s.events := rfl
@[simp] theorem State.setTrig_alive (n : Nat) (x : TrigSt) : (s.setTrig n x).alive = s.alive := rfl
@[simp] theorem State.setTrig_die (n : Nat) (x : TrigSt) : (s.setTrig n x).die = s.die := rfl
@[simp] theorem State.setTrig_shut (n : Nat) (x : TrigSt) : (s.setTrig n x).shut = s.shut := rfl
@[simp] theorem State.setTrig_sup (n : Nat) (x : TrigSt) : (s.setTrig n x).sup = s.sup := rfl
@[simp] theorem State.setTrig_doms (n : Nat) (x : TrigSt) : (s.setTrig n x).doms = s.doms := rfl
@[simp] theorem State.setTrig_otp (n : Nat) (x : TrigSt) : (s.setTrig n x).otp = s.otp := rfl
@[simp] theorem State.setTrig_store (n : Nat) (x : TrigSt) : (s.setTrig n x).store = s.store := rfl
@[simp] theorem State.setTrig_cals (n : Nat) (x : TrigSt) : (s.setTrig n x).cals = s.cals := rfl
@[simp] theorem State.setTrig_vern (n : Nat) (x : TrigSt) : (s.setTrig n x).vern = s.vern := rfl
@[simp] theorem State.setTrig_personas (n : Nat) (x : TrigSt) : (s.setTrig n x).personas = s.personas := rfl
@[simp] theorem State.setTrig_rd (n : Nat) (x : TrigSt) (r : Row) (i j : Nat) : (s.setTrig n x).rd r i j = s.rd r i j := rfl
@[simp] theorem State.setTrig_rdN (n : Nat) (x : TrigSt) (r : Row) (i j : Nat) : (s.setTrig n x).rdN r i j = s.rdN r i j := rfl
@[simp] theorem State.setTrig_byte (n : Nat) (x : TrigSt) (a : Nat) : (s.setTrig n x).byte a = s.byte a := rfl
@[simp] theorem State.setTrig_bytes (n : Nat) (x : TrigSt) (a n' : Nat) : (s.setTrig n x).bytes a n' = s.bytes a n' := rfl
@[simp] theorem State.setTrig_chan (n : Nat) (x : TrigSt) (k : Nat) : (s.setTrig n x).chan k = s.chan k := rfl
@[simp] theorem State.setTrig_eng (n : Nat) (x : TrigSt) (k : Nat) : (s.setTrig n x).eng k = s.eng k := rfl
@[simp] theorem State.setTrig_enc (n : Nat) (x : TrigSt) (k : Nat) : (s.setTrig n x).enc k = s.enc k := rfl
@[simp] theorem State.setTrig_loop (n : Nat) (x : TrigSt) (k : Nat) : (s.setTrig n x).loop k = s.loop k := rfl
@[simp] theorem State.setTrig_sec (n : Nat) (x : TrigSt) (k : Nat) : (s.setTrig n x).sec k = s.sec k := rfl
@[simp] theorem State.setTrig_dma (n : Nat) (x : TrigSt) (k : Nat) : (s.setTrig n x).dma k = s.dma k := rfl
@[simp] theorem State.setTrig_stream (n : Nat) (x : TrigSt) (k : Nat) : (s.setTrig n x).stream k = s.stream k := rfl
@[simp] theorem State.setTrig_port (n : Nat) (x : TrigSt) (k : Nat) : (s.setTrig n x).port k = s.port k := rfl
@[simp] theorem State.setTrig_lane (n : Nat) (x : TrigSt) (k : Nat) : (s.setTrig n x).lane k = s.lane k := rfl
@[simp] theorem State.setTrig_rank (n : Nat) (x : TrigSt) (k : Nat) : (s.setTrig n x).rank k = s.rank k := rfl
@[simp] theorem State.setTrig_cal (n : Nat) (x : TrigSt) (k : Nat) : (s.setTrig n x).cal k = s.cal k := rfl
@[simp] theorem State.setTrig_persona (n : Nat) (x : TrigSt) (k : Nat) : (s.setTrig n x).persona k = s.persona k := rfl
@[simp] theorem State.setTrig_domState (n : Nat) (x : TrigSt) (k : Nat) : (s.setTrig n x).domState k = s.domState k := rfl
@[simp] theorem State.setTrig_domOn (n : Nat) (x : TrigSt) (k : Nat) : (s.setTrig n x).domOn k = s.domOn k := rfl
@[simp] theorem State.setLoop_pending (l : Nat) (x : LoopSt) : (s.setLoop l x).pending = s.pending := rfl
@[simp] theorem State.setLoop_tick (l : Nat) (x : LoopSt) : (s.setLoop l x).tick = s.tick := rfl
@[simp] theorem State.setLoop_time (l : Nat) (x : LoopSt) : (s.setLoop l x).time = s.time := rfl
@[simp] theorem State.setLoop_acted (l : Nat) (x : LoopSt) : (s.setLoop l x).acted = s.acted := rfl
@[simp] theorem State.setLoop_was (l : Nat) (x : LoopSt) : (s.setLoop l x).was = s.was := rfl
@[simp] theorem State.setLoop_sent (l : Nat) (x : LoopSt) : (s.setLoop l x).sent = s.sent := rfl
@[simp] theorem State.setLoop_fresh (l : Nat) (x : LoopSt) : (s.setLoop l x).fresh = s.fresh := rfl
@[simp] theorem State.setLoop_dev (l : Nat) (x : LoopSt) : (s.setLoop l x).dev = s.dev := rfl
@[simp] theorem State.setLoop_flagsSeen (l : Nat) (x : LoopSt) : (s.setLoop l x).flagsSeen = s.flagsSeen := rfl
@[simp] theorem State.setLoop_leftOut (l : Nat) (x : LoopSt) : (s.setLoop l x).leftOut = s.leftOut := rfl
@[simp] theorem State.setLoop_clkRoot (l : Nat) (x : LoopSt) : (s.setLoop l x).clkRoot = s.clkRoot := rfl
@[simp] theorem State.setLoop_straps (l : Nat) (x : LoopSt) : (s.setLoop l x).straps = s.straps := rfl
@[simp] theorem State.setLoop_dict (l : Nat) (x : LoopSt) : (s.setLoop l x).dict = s.dict := rfl
@[simp] theorem State.setLoop_mem (l : Nat) (x : LoopSt) : (s.setLoop l x).mem = s.mem := rfl
@[simp] theorem State.setLoop_encs (l : Nat) (x : LoopSt) : (s.setLoop l x).encs = s.encs := rfl
@[simp] theorem State.setLoop_trigs (l : Nat) (x : LoopSt) : (s.setLoop l x).trigs = s.trigs := rfl
@[simp] theorem State.setLoop_ringPos (l : Nat) (x : LoopSt) : (s.setLoop l x).ringPos = s.ringPos := rfl
@[simp] theorem State.setLoop_obs (l : Nat) (x : LoopSt) : (s.setLoop l x).obs = s.obs := rfl
@[simp] theorem State.setLoop_chans (l : Nat) (x : LoopSt) : (s.setLoop l x).chans = s.chans := rfl
@[simp] theorem State.setLoop_engs (l : Nat) (x : LoopSt) : (s.setLoop l x).engs = s.engs := rfl
@[simp] theorem State.setLoop_secs (l : Nat) (x : LoopSt) : (s.setLoop l x).secs = s.secs := rfl
@[simp] theorem State.setLoop_dmas (l : Nat) (x : LoopSt) : (s.setLoop l x).dmas = s.dmas := rfl
@[simp] theorem State.setLoop_streams (l : Nat) (x : LoopSt) : (s.setLoop l x).streams = s.streams := rfl
@[simp] theorem State.setLoop_ports (l : Nat) (x : LoopSt) : (s.setLoop l x).ports = s.ports := rfl
@[simp] theorem State.setLoop_lanes (l : Nat) (x : LoopSt) : (s.setLoop l x).lanes = s.lanes := rfl
@[simp] theorem State.setLoop_ring (l : Nat) (x : LoopSt) : (s.setLoop l x).ring = s.ring := rfl
@[simp] theorem State.setLoop_can (l : Nat) (x : LoopSt) : (s.setLoop l x).can = s.can := rfl
@[simp] theorem State.setLoop_lhp (l : Nat) (x : LoopSt) : (s.setLoop l x).lhp = s.lhp := rfl
@[simp] theorem State.setLoop_snaps (l : Nat) (x : LoopSt) : (s.setLoop l x).snaps = s.snaps := rfl
@[simp] theorem State.setLoop_memory (l : Nat) (x : LoopSt) : (s.setLoop l x).memory = s.memory := rfl
@[simp] theorem State.setLoop_logQ (l : Nat) (x : LoopSt) : (s.setLoop l x).logQ = s.logQ := rfl
@[simp] theorem State.setLoop_logSeq (l : Nat) (x : LoopSt) : (s.setLoop l x).logSeq = s.logSeq := rfl
@[simp] theorem State.setLoop_logAt (l : Nat) (x : LoopSt) : (s.setLoop l x).logAt = s.logAt := rfl
@[simp] theorem State.setLoop_gov (l : Nat) (x : LoopSt) : (s.setLoop l x).gov = s.gov := rfl
@[simp] theorem State.setLoop_job (l : Nat) (x : LoopSt) : (s.setLoop l x).job = s.job := rfl
@[simp] theorem State.setLoop_faultQ (l : Nat) (x : LoopSt) : (s.setLoop l x).faultQ = s.faultQ := rfl
@[simp] theorem State.setLoop_windows (l : Nat) (x : LoopSt) : (s.setLoop l x).windows = s.windows := rfl
@[simp] theorem State.setLoop_events (l : Nat) (x : LoopSt) : (s.setLoop l x).events = s.events := rfl
@[simp] theorem State.setLoop_alive (l : Nat) (x : LoopSt) : (s.setLoop l x).alive = s.alive := rfl
@[simp] theorem State.setLoop_die (l : Nat) (x : LoopSt) : (s.setLoop l x).die = s.die := rfl
@[simp] theorem State.setLoop_shut (l : Nat) (x : LoopSt) : (s.setLoop l x).shut = s.shut := rfl
@[simp] theorem State.setLoop_sup (l : Nat) (x : LoopSt) : (s.setLoop l x).sup = s.sup := rfl
@[simp] theorem State.setLoop_doms (l : Nat) (x : LoopSt) : (s.setLoop l x).doms = s.doms := rfl
@[simp] theorem State.setLoop_otp (l : Nat) (x : LoopSt) : (s.setLoop l x).otp = s.otp := rfl
@[simp] theorem State.setLoop_store (l : Nat) (x : LoopSt) : (s.setLoop l x).store = s.store := rfl
@[simp] theorem State.setLoop_cals (l : Nat) (x : LoopSt) : (s.setLoop l x).cals = s.cals := rfl
@[simp] theorem State.setLoop_vern (l : Nat) (x : LoopSt) : (s.setLoop l x).vern = s.vern := rfl
@[simp] theorem State.setLoop_personas (l : Nat) (x : LoopSt) : (s.setLoop l x).personas = s.personas := rfl
@[simp] theorem State.setLoop_rd (l : Nat) (x : LoopSt) (r : Row) (i j : Nat) : (s.setLoop l x).rd r i j = s.rd r i j := rfl
@[simp] theorem State.setLoop_rdN (l : Nat) (x : LoopSt) (r : Row) (i j : Nat) : (s.setLoop l x).rdN r i j = s.rdN r i j := rfl
@[simp] theorem State.setLoop_byte (l : Nat) (x : LoopSt) (a : Nat) : (s.setLoop l x).byte a = s.byte a := rfl
@[simp] theorem State.setLoop_bytes (l : Nat) (x : LoopSt) (a n : Nat) : (s.setLoop l x).bytes a n = s.bytes a n := rfl
@[simp] theorem State.setLoop_chan (l : Nat) (x : LoopSt) (k : Nat) : (s.setLoop l x).chan k = s.chan k := rfl
@[simp] theorem State.setLoop_eng (l : Nat) (x : LoopSt) (k : Nat) : (s.setLoop l x).eng k = s.eng k := rfl
@[simp] theorem State.setLoop_enc (l : Nat) (x : LoopSt) (k : Nat) : (s.setLoop l x).enc k = s.enc k := rfl
@[simp] theorem State.setLoop_trig (l : Nat) (x : LoopSt) (k : Nat) : (s.setLoop l x).trig k = s.trig k := rfl
@[simp] theorem State.setLoop_sec (l : Nat) (x : LoopSt) (k : Nat) : (s.setLoop l x).sec k = s.sec k := rfl
@[simp] theorem State.setLoop_dma (l : Nat) (x : LoopSt) (k : Nat) : (s.setLoop l x).dma k = s.dma k := rfl
@[simp] theorem State.setLoop_stream (l : Nat) (x : LoopSt) (k : Nat) : (s.setLoop l x).stream k = s.stream k := rfl
@[simp] theorem State.setLoop_port (l : Nat) (x : LoopSt) (k : Nat) : (s.setLoop l x).port k = s.port k := rfl
@[simp] theorem State.setLoop_lane (l : Nat) (x : LoopSt) (k : Nat) : (s.setLoop l x).lane k = s.lane k := rfl
@[simp] theorem State.setLoop_rank (l : Nat) (x : LoopSt) (k : Nat) : (s.setLoop l x).rank k = s.rank k := rfl
@[simp] theorem State.setLoop_cal (l : Nat) (x : LoopSt) (k : Nat) : (s.setLoop l x).cal k = s.cal k := rfl
@[simp] theorem State.setLoop_persona (l : Nat) (x : LoopSt) (k : Nat) : (s.setLoop l x).persona k = s.persona k := rfl
@[simp] theorem State.setLoop_domState (l : Nat) (x : LoopSt) (k : Nat) : (s.setLoop l x).domState k = s.domState k := rfl
@[simp] theorem State.setLoop_domOn (l : Nat) (x : LoopSt) (k : Nat) : (s.setLoop l x).domOn k = s.domOn k := rfl
@[simp] theorem State.setSec_pending (n : Nat) (x : Section) : (s.setSec n x).pending = s.pending := rfl
@[simp] theorem State.setSec_tick (n : Nat) (x : Section) : (s.setSec n x).tick = s.tick := rfl
@[simp] theorem State.setSec_time (n : Nat) (x : Section) : (s.setSec n x).time = s.time := rfl
@[simp] theorem State.setSec_acted (n : Nat) (x : Section) : (s.setSec n x).acted = s.acted := rfl
@[simp] theorem State.setSec_was (n : Nat) (x : Section) : (s.setSec n x).was = s.was := rfl
@[simp] theorem State.setSec_sent (n : Nat) (x : Section) : (s.setSec n x).sent = s.sent := rfl
@[simp] theorem State.setSec_fresh (n : Nat) (x : Section) : (s.setSec n x).fresh = s.fresh := rfl
@[simp] theorem State.setSec_dev (n : Nat) (x : Section) : (s.setSec n x).dev = s.dev := rfl
@[simp] theorem State.setSec_flagsSeen (n : Nat) (x : Section) : (s.setSec n x).flagsSeen = s.flagsSeen := rfl
@[simp] theorem State.setSec_leftOut (n : Nat) (x : Section) : (s.setSec n x).leftOut = s.leftOut := rfl
@[simp] theorem State.setSec_clkRoot (n : Nat) (x : Section) : (s.setSec n x).clkRoot = s.clkRoot := rfl
@[simp] theorem State.setSec_straps (n : Nat) (x : Section) : (s.setSec n x).straps = s.straps := rfl
@[simp] theorem State.setSec_dict (n : Nat) (x : Section) : (s.setSec n x).dict = s.dict := rfl
@[simp] theorem State.setSec_mem (n : Nat) (x : Section) : (s.setSec n x).mem = s.mem := rfl
@[simp] theorem State.setSec_encs (n : Nat) (x : Section) : (s.setSec n x).encs = s.encs := rfl
@[simp] theorem State.setSec_trigs (n : Nat) (x : Section) : (s.setSec n x).trigs = s.trigs := rfl
@[simp] theorem State.setSec_ringPos (n : Nat) (x : Section) : (s.setSec n x).ringPos = s.ringPos := rfl
@[simp] theorem State.setSec_obs (n : Nat) (x : Section) : (s.setSec n x).obs = s.obs := rfl
@[simp] theorem State.setSec_chans (n : Nat) (x : Section) : (s.setSec n x).chans = s.chans := rfl
@[simp] theorem State.setSec_engs (n : Nat) (x : Section) : (s.setSec n x).engs = s.engs := rfl
@[simp] theorem State.setSec_loops (n : Nat) (x : Section) : (s.setSec n x).loops = s.loops := rfl
@[simp] theorem State.setSec_lathe (n : Nat) (x : Section) : (s.setSec n x).lathe = s.lathe := rfl
@[simp] theorem State.setSec_dmas (n : Nat) (x : Section) : (s.setSec n x).dmas = s.dmas := rfl
@[simp] theorem State.setSec_streams (n : Nat) (x : Section) : (s.setSec n x).streams = s.streams := rfl
@[simp] theorem State.setSec_ports (n : Nat) (x : Section) : (s.setSec n x).ports = s.ports := rfl
@[simp] theorem State.setSec_lanes (n : Nat) (x : Section) : (s.setSec n x).lanes = s.lanes := rfl
@[simp] theorem State.setSec_ring (n : Nat) (x : Section) : (s.setSec n x).ring = s.ring := rfl
@[simp] theorem State.setSec_can (n : Nat) (x : Section) : (s.setSec n x).can = s.can := rfl
@[simp] theorem State.setSec_lhp (n : Nat) (x : Section) : (s.setSec n x).lhp = s.lhp := rfl
@[simp] theorem State.setSec_snaps (n : Nat) (x : Section) : (s.setSec n x).snaps = s.snaps := rfl
@[simp] theorem State.setSec_memory (n : Nat) (x : Section) : (s.setSec n x).memory = s.memory := rfl
@[simp] theorem State.setSec_logQ (n : Nat) (x : Section) : (s.setSec n x).logQ = s.logQ := rfl
@[simp] theorem State.setSec_logSeq (n : Nat) (x : Section) : (s.setSec n x).logSeq = s.logSeq := rfl
@[simp] theorem State.setSec_logAt (n : Nat) (x : Section) : (s.setSec n x).logAt = s.logAt := rfl
@[simp] theorem State.setSec_gov (n : Nat) (x : Section) : (s.setSec n x).gov = s.gov := rfl
@[simp] theorem State.setSec_job (n : Nat) (x : Section) : (s.setSec n x).job = s.job := rfl
@[simp] theorem State.setSec_faultQ (n : Nat) (x : Section) : (s.setSec n x).faultQ = s.faultQ := rfl
@[simp] theorem State.setSec_windows (n : Nat) (x : Section) : (s.setSec n x).windows = s.windows := rfl
@[simp] theorem State.setSec_events (n : Nat) (x : Section) : (s.setSec n x).events = s.events := rfl
@[simp] theorem State.setSec_alive (n : Nat) (x : Section) : (s.setSec n x).alive = s.alive := rfl
@[simp] theorem State.setSec_die (n : Nat) (x : Section) : (s.setSec n x).die = s.die := rfl
@[simp] theorem State.setSec_shut (n : Nat) (x : Section) : (s.setSec n x).shut = s.shut := rfl
@[simp] theorem State.setSec_sup (n : Nat) (x : Section) : (s.setSec n x).sup = s.sup := rfl
@[simp] theorem State.setSec_doms (n : Nat) (x : Section) : (s.setSec n x).doms = s.doms := rfl
@[simp] theorem State.setSec_otp (n : Nat) (x : Section) : (s.setSec n x).otp = s.otp := rfl
@[simp] theorem State.setSec_store (n : Nat) (x : Section) : (s.setSec n x).store = s.store := rfl
@[simp] theorem State.setSec_cals (n : Nat) (x : Section) : (s.setSec n x).cals = s.cals := rfl
@[simp] theorem State.setSec_vern (n : Nat) (x : Section) : (s.setSec n x).vern = s.vern := rfl
@[simp] theorem State.setSec_personas (n : Nat) (x : Section) : (s.setSec n x).personas = s.personas := rfl
@[simp] theorem State.setSec_rd (n : Nat) (x : Section) (r : Row) (i j : Nat) : (s.setSec n x).rd r i j = s.rd r i j := rfl
@[simp] theorem State.setSec_rdN (n : Nat) (x : Section) (r : Row) (i j : Nat) : (s.setSec n x).rdN r i j = s.rdN r i j := rfl
@[simp] theorem State.setSec_byte (n : Nat) (x : Section) (a : Nat) : (s.setSec n x).byte a = s.byte a := rfl
@[simp] theorem State.setSec_bytes (n : Nat) (x : Section) (a n' : Nat) : (s.setSec n x).bytes a n' = s.bytes a n' := rfl
@[simp] theorem State.setSec_chan (n : Nat) (x : Section) (k : Nat) : (s.setSec n x).chan k = s.chan k := rfl
@[simp] theorem State.setSec_eng (n : Nat) (x : Section) (k : Nat) : (s.setSec n x).eng k = s.eng k := rfl
@[simp] theorem State.setSec_enc (n : Nat) (x : Section) (k : Nat) : (s.setSec n x).enc k = s.enc k := rfl
@[simp] theorem State.setSec_trig (n : Nat) (x : Section) (k : Nat) : (s.setSec n x).trig k = s.trig k := rfl
@[simp] theorem State.setSec_loop (n : Nat) (x : Section) (k : Nat) : (s.setSec n x).loop k = s.loop k := rfl
@[simp] theorem State.setSec_dma (n : Nat) (x : Section) (k : Nat) : (s.setSec n x).dma k = s.dma k := rfl
@[simp] theorem State.setSec_stream (n : Nat) (x : Section) (k : Nat) : (s.setSec n x).stream k = s.stream k := rfl
@[simp] theorem State.setSec_port (n : Nat) (x : Section) (k : Nat) : (s.setSec n x).port k = s.port k := rfl
@[simp] theorem State.setSec_lane (n : Nat) (x : Section) (k : Nat) : (s.setSec n x).lane k = s.lane k := rfl
@[simp] theorem State.setSec_rank (n : Nat) (x : Section) (k : Nat) : (s.setSec n x).rank k = s.rank k := rfl
@[simp] theorem State.setSec_cal (n : Nat) (x : Section) (k : Nat) : (s.setSec n x).cal k = s.cal k := rfl
@[simp] theorem State.setSec_persona (n : Nat) (x : Section) (k : Nat) : (s.setSec n x).persona k = s.persona k := rfl
@[simp] theorem State.setSec_domState (n : Nat) (x : Section) (k : Nat) : (s.setSec n x).domState k = s.domState k := rfl
@[simp] theorem State.setSec_domOn (n : Nat) (x : Section) (k : Nat) : (s.setSec n x).domOn k = s.domOn k := rfl
@[simp] theorem State.setDma_pending (n : Nat) (x : DmaSt) : (s.setDma n x).pending = s.pending := rfl
@[simp] theorem State.setDma_tick (n : Nat) (x : DmaSt) : (s.setDma n x).tick = s.tick := rfl
@[simp] theorem State.setDma_time (n : Nat) (x : DmaSt) : (s.setDma n x).time = s.time := rfl
@[simp] theorem State.setDma_acted (n : Nat) (x : DmaSt) : (s.setDma n x).acted = s.acted := rfl
@[simp] theorem State.setDma_was (n : Nat) (x : DmaSt) : (s.setDma n x).was = s.was := rfl
@[simp] theorem State.setDma_sent (n : Nat) (x : DmaSt) : (s.setDma n x).sent = s.sent := rfl
@[simp] theorem State.setDma_fresh (n : Nat) (x : DmaSt) : (s.setDma n x).fresh = s.fresh := rfl
@[simp] theorem State.setDma_dev (n : Nat) (x : DmaSt) : (s.setDma n x).dev = s.dev := rfl
@[simp] theorem State.setDma_flagsSeen (n : Nat) (x : DmaSt) : (s.setDma n x).flagsSeen = s.flagsSeen := rfl
@[simp] theorem State.setDma_leftOut (n : Nat) (x : DmaSt) : (s.setDma n x).leftOut = s.leftOut := rfl
@[simp] theorem State.setDma_clkRoot (n : Nat) (x : DmaSt) : (s.setDma n x).clkRoot = s.clkRoot := rfl
@[simp] theorem State.setDma_straps (n : Nat) (x : DmaSt) : (s.setDma n x).straps = s.straps := rfl
@[simp] theorem State.setDma_dict (n : Nat) (x : DmaSt) : (s.setDma n x).dict = s.dict := rfl
@[simp] theorem State.setDma_mem (n : Nat) (x : DmaSt) : (s.setDma n x).mem = s.mem := rfl
@[simp] theorem State.setDma_encs (n : Nat) (x : DmaSt) : (s.setDma n x).encs = s.encs := rfl
@[simp] theorem State.setDma_trigs (n : Nat) (x : DmaSt) : (s.setDma n x).trigs = s.trigs := rfl
@[simp] theorem State.setDma_ringPos (n : Nat) (x : DmaSt) : (s.setDma n x).ringPos = s.ringPos := rfl
@[simp] theorem State.setDma_obs (n : Nat) (x : DmaSt) : (s.setDma n x).obs = s.obs := rfl
@[simp] theorem State.setDma_chans (n : Nat) (x : DmaSt) : (s.setDma n x).chans = s.chans := rfl
@[simp] theorem State.setDma_engs (n : Nat) (x : DmaSt) : (s.setDma n x).engs = s.engs := rfl
@[simp] theorem State.setDma_secs (n : Nat) (x : DmaSt) : (s.setDma n x).secs = s.secs := rfl
@[simp] theorem State.setDma_loops (n : Nat) (x : DmaSt) : (s.setDma n x).loops = s.loops := rfl
@[simp] theorem State.setDma_lathe (n : Nat) (x : DmaSt) : (s.setDma n x).lathe = s.lathe := rfl
@[simp] theorem State.setDma_streams (n : Nat) (x : DmaSt) : (s.setDma n x).streams = s.streams := rfl
@[simp] theorem State.setDma_ports (n : Nat) (x : DmaSt) : (s.setDma n x).ports = s.ports := rfl
@[simp] theorem State.setDma_lanes (n : Nat) (x : DmaSt) : (s.setDma n x).lanes = s.lanes := rfl
@[simp] theorem State.setDma_ring (n : Nat) (x : DmaSt) : (s.setDma n x).ring = s.ring := rfl
@[simp] theorem State.setDma_can (n : Nat) (x : DmaSt) : (s.setDma n x).can = s.can := rfl
@[simp] theorem State.setDma_lhp (n : Nat) (x : DmaSt) : (s.setDma n x).lhp = s.lhp := rfl
@[simp] theorem State.setDma_snaps (n : Nat) (x : DmaSt) : (s.setDma n x).snaps = s.snaps := rfl
@[simp] theorem State.setDma_memory (n : Nat) (x : DmaSt) : (s.setDma n x).memory = s.memory := rfl
@[simp] theorem State.setDma_logQ (n : Nat) (x : DmaSt) : (s.setDma n x).logQ = s.logQ := rfl
@[simp] theorem State.setDma_logSeq (n : Nat) (x : DmaSt) : (s.setDma n x).logSeq = s.logSeq := rfl
@[simp] theorem State.setDma_logAt (n : Nat) (x : DmaSt) : (s.setDma n x).logAt = s.logAt := rfl
@[simp] theorem State.setDma_gov (n : Nat) (x : DmaSt) : (s.setDma n x).gov = s.gov := rfl
@[simp] theorem State.setDma_job (n : Nat) (x : DmaSt) : (s.setDma n x).job = s.job := rfl
@[simp] theorem State.setDma_faultQ (n : Nat) (x : DmaSt) : (s.setDma n x).faultQ = s.faultQ := rfl
@[simp] theorem State.setDma_windows (n : Nat) (x : DmaSt) : (s.setDma n x).windows = s.windows := rfl
@[simp] theorem State.setDma_events (n : Nat) (x : DmaSt) : (s.setDma n x).events = s.events := rfl
@[simp] theorem State.setDma_alive (n : Nat) (x : DmaSt) : (s.setDma n x).alive = s.alive := rfl
@[simp] theorem State.setDma_die (n : Nat) (x : DmaSt) : (s.setDma n x).die = s.die := rfl
@[simp] theorem State.setDma_shut (n : Nat) (x : DmaSt) : (s.setDma n x).shut = s.shut := rfl
@[simp] theorem State.setDma_sup (n : Nat) (x : DmaSt) : (s.setDma n x).sup = s.sup := rfl
@[simp] theorem State.setDma_doms (n : Nat) (x : DmaSt) : (s.setDma n x).doms = s.doms := rfl
@[simp] theorem State.setDma_otp (n : Nat) (x : DmaSt) : (s.setDma n x).otp = s.otp := rfl
@[simp] theorem State.setDma_store (n : Nat) (x : DmaSt) : (s.setDma n x).store = s.store := rfl
@[simp] theorem State.setDma_cals (n : Nat) (x : DmaSt) : (s.setDma n x).cals = s.cals := rfl
@[simp] theorem State.setDma_vern (n : Nat) (x : DmaSt) : (s.setDma n x).vern = s.vern := rfl
@[simp] theorem State.setDma_personas (n : Nat) (x : DmaSt) : (s.setDma n x).personas = s.personas := rfl
@[simp] theorem State.setDma_rd (n : Nat) (x : DmaSt) (r : Row) (i j : Nat) : (s.setDma n x).rd r i j = s.rd r i j := rfl
@[simp] theorem State.setDma_rdN (n : Nat) (x : DmaSt) (r : Row) (i j : Nat) : (s.setDma n x).rdN r i j = s.rdN r i j := rfl
@[simp] theorem State.setDma_byte (n : Nat) (x : DmaSt) (a : Nat) : (s.setDma n x).byte a = s.byte a := rfl
@[simp] theorem State.setDma_bytes (n : Nat) (x : DmaSt) (a n' : Nat) : (s.setDma n x).bytes a n' = s.bytes a n' := rfl
@[simp] theorem State.setDma_chan (n : Nat) (x : DmaSt) (k : Nat) : (s.setDma n x).chan k = s.chan k := rfl
@[simp] theorem State.setDma_eng (n : Nat) (x : DmaSt) (k : Nat) : (s.setDma n x).eng k = s.eng k := rfl
@[simp] theorem State.setDma_enc (n : Nat) (x : DmaSt) (k : Nat) : (s.setDma n x).enc k = s.enc k := rfl
@[simp] theorem State.setDma_trig (n : Nat) (x : DmaSt) (k : Nat) : (s.setDma n x).trig k = s.trig k := rfl
@[simp] theorem State.setDma_loop (n : Nat) (x : DmaSt) (k : Nat) : (s.setDma n x).loop k = s.loop k := rfl
@[simp] theorem State.setDma_sec (n : Nat) (x : DmaSt) (k : Nat) : (s.setDma n x).sec k = s.sec k := rfl
@[simp] theorem State.setDma_stream (n : Nat) (x : DmaSt) (k : Nat) : (s.setDma n x).stream k = s.stream k := rfl
@[simp] theorem State.setDma_port (n : Nat) (x : DmaSt) (k : Nat) : (s.setDma n x).port k = s.port k := rfl
@[simp] theorem State.setDma_lane (n : Nat) (x : DmaSt) (k : Nat) : (s.setDma n x).lane k = s.lane k := rfl
@[simp] theorem State.setDma_rank (n : Nat) (x : DmaSt) (k : Nat) : (s.setDma n x).rank k = s.rank k := rfl
@[simp] theorem State.setDma_cal (n : Nat) (x : DmaSt) (k : Nat) : (s.setDma n x).cal k = s.cal k := rfl
@[simp] theorem State.setDma_persona (n : Nat) (x : DmaSt) (k : Nat) : (s.setDma n x).persona k = s.persona k := rfl
@[simp] theorem State.setDma_domState (n : Nat) (x : DmaSt) (k : Nat) : (s.setDma n x).domState k = s.domState k := rfl
@[simp] theorem State.setDma_domOn (n : Nat) (x : DmaSt) (k : Nat) : (s.setDma n x).domOn k = s.domOn k := rfl
@[simp] theorem State.setStream_pending (r : Nat) (x : StreamSt) : (s.setStream r x).pending = s.pending := rfl
@[simp] theorem State.setStream_tick (r : Nat) (x : StreamSt) : (s.setStream r x).tick = s.tick := rfl
@[simp] theorem State.setStream_time (r : Nat) (x : StreamSt) : (s.setStream r x).time = s.time := rfl
@[simp] theorem State.setStream_acted (r : Nat) (x : StreamSt) : (s.setStream r x).acted = s.acted := rfl
@[simp] theorem State.setStream_was (r : Nat) (x : StreamSt) : (s.setStream r x).was = s.was := rfl
@[simp] theorem State.setStream_sent (r : Nat) (x : StreamSt) : (s.setStream r x).sent = s.sent := rfl
@[simp] theorem State.setStream_fresh (r : Nat) (x : StreamSt) : (s.setStream r x).fresh = s.fresh := rfl
@[simp] theorem State.setStream_dev (r : Nat) (x : StreamSt) : (s.setStream r x).dev = s.dev := rfl
@[simp] theorem State.setStream_flagsSeen (r : Nat) (x : StreamSt) : (s.setStream r x).flagsSeen = s.flagsSeen := rfl
@[simp] theorem State.setStream_leftOut (r : Nat) (x : StreamSt) : (s.setStream r x).leftOut = s.leftOut := rfl
@[simp] theorem State.setStream_clkRoot (r : Nat) (x : StreamSt) : (s.setStream r x).clkRoot = s.clkRoot := rfl
@[simp] theorem State.setStream_straps (r : Nat) (x : StreamSt) : (s.setStream r x).straps = s.straps := rfl
@[simp] theorem State.setStream_dict (r : Nat) (x : StreamSt) : (s.setStream r x).dict = s.dict := rfl
@[simp] theorem State.setStream_mem (r : Nat) (x : StreamSt) : (s.setStream r x).mem = s.mem := rfl
@[simp] theorem State.setStream_encs (r : Nat) (x : StreamSt) : (s.setStream r x).encs = s.encs := rfl
@[simp] theorem State.setStream_trigs (r : Nat) (x : StreamSt) : (s.setStream r x).trigs = s.trigs := rfl
@[simp] theorem State.setStream_ringPos (r : Nat) (x : StreamSt) : (s.setStream r x).ringPos = s.ringPos := rfl
@[simp] theorem State.setStream_obs (r : Nat) (x : StreamSt) : (s.setStream r x).obs = s.obs := rfl
@[simp] theorem State.setStream_chans (r : Nat) (x : StreamSt) : (s.setStream r x).chans = s.chans := rfl
@[simp] theorem State.setStream_engs (r : Nat) (x : StreamSt) : (s.setStream r x).engs = s.engs := rfl
@[simp] theorem State.setStream_secs (r : Nat) (x : StreamSt) : (s.setStream r x).secs = s.secs := rfl
@[simp] theorem State.setStream_loops (r : Nat) (x : StreamSt) : (s.setStream r x).loops = s.loops := rfl
@[simp] theorem State.setStream_lathe (r : Nat) (x : StreamSt) : (s.setStream r x).lathe = s.lathe := rfl
@[simp] theorem State.setStream_dmas (r : Nat) (x : StreamSt) : (s.setStream r x).dmas = s.dmas := rfl
@[simp] theorem State.setStream_ports (r : Nat) (x : StreamSt) : (s.setStream r x).ports = s.ports := rfl
@[simp] theorem State.setStream_lanes (r : Nat) (x : StreamSt) : (s.setStream r x).lanes = s.lanes := rfl
@[simp] theorem State.setStream_ring (r : Nat) (x : StreamSt) : (s.setStream r x).ring = s.ring := rfl
@[simp] theorem State.setStream_can (r : Nat) (x : StreamSt) : (s.setStream r x).can = s.can := rfl
@[simp] theorem State.setStream_lhp (r : Nat) (x : StreamSt) : (s.setStream r x).lhp = s.lhp := rfl
@[simp] theorem State.setStream_snaps (r : Nat) (x : StreamSt) : (s.setStream r x).snaps = s.snaps := rfl
@[simp] theorem State.setStream_memory (r : Nat) (x : StreamSt) : (s.setStream r x).memory = s.memory := rfl
@[simp] theorem State.setStream_logQ (r : Nat) (x : StreamSt) : (s.setStream r x).logQ = s.logQ := rfl
@[simp] theorem State.setStream_logSeq (r : Nat) (x : StreamSt) : (s.setStream r x).logSeq = s.logSeq := rfl
@[simp] theorem State.setStream_logAt (r : Nat) (x : StreamSt) : (s.setStream r x).logAt = s.logAt := rfl
@[simp] theorem State.setStream_gov (r : Nat) (x : StreamSt) : (s.setStream r x).gov = s.gov := rfl
@[simp] theorem State.setStream_job (r : Nat) (x : StreamSt) : (s.setStream r x).job = s.job := rfl
@[simp] theorem State.setStream_faultQ (r : Nat) (x : StreamSt) : (s.setStream r x).faultQ = s.faultQ := rfl
@[simp] theorem State.setStream_windows (r : Nat) (x : StreamSt) : (s.setStream r x).windows = s.windows := rfl
@[simp] theorem State.setStream_events (r : Nat) (x : StreamSt) : (s.setStream r x).events = s.events := rfl
@[simp] theorem State.setStream_alive (r : Nat) (x : StreamSt) : (s.setStream r x).alive = s.alive := rfl
@[simp] theorem State.setStream_die (r : Nat) (x : StreamSt) : (s.setStream r x).die = s.die := rfl
@[simp] theorem State.setStream_shut (r : Nat) (x : StreamSt) : (s.setStream r x).shut = s.shut := rfl
@[simp] theorem State.setStream_sup (r : Nat) (x : StreamSt) : (s.setStream r x).sup = s.sup := rfl
@[simp] theorem State.setStream_doms (r : Nat) (x : StreamSt) : (s.setStream r x).doms = s.doms := rfl
@[simp] theorem State.setStream_otp (r : Nat) (x : StreamSt) : (s.setStream r x).otp = s.otp := rfl
@[simp] theorem State.setStream_store (r : Nat) (x : StreamSt) : (s.setStream r x).store = s.store := rfl
@[simp] theorem State.setStream_cals (r : Nat) (x : StreamSt) : (s.setStream r x).cals = s.cals := rfl
@[simp] theorem State.setStream_vern (r : Nat) (x : StreamSt) : (s.setStream r x).vern = s.vern := rfl
@[simp] theorem State.setStream_personas (r : Nat) (x : StreamSt) : (s.setStream r x).personas = s.personas := rfl
@[simp] theorem State.setStream_rd (r : Nat) (x : StreamSt) (r' : Row) (i j : Nat) : (s.setStream r x).rd r' i j = s.rd r' i j := rfl
@[simp] theorem State.setStream_rdN (r : Nat) (x : StreamSt) (r' : Row) (i j : Nat) : (s.setStream r x).rdN r' i j = s.rdN r' i j := rfl
@[simp] theorem State.setStream_byte (r : Nat) (x : StreamSt) (a : Nat) : (s.setStream r x).byte a = s.byte a := rfl
@[simp] theorem State.setStream_bytes (r : Nat) (x : StreamSt) (a n : Nat) : (s.setStream r x).bytes a n = s.bytes a n := rfl
@[simp] theorem State.setStream_chan (r : Nat) (x : StreamSt) (k : Nat) : (s.setStream r x).chan k = s.chan k := rfl
@[simp] theorem State.setStream_eng (r : Nat) (x : StreamSt) (k : Nat) : (s.setStream r x).eng k = s.eng k := rfl
@[simp] theorem State.setStream_enc (r : Nat) (x : StreamSt) (k : Nat) : (s.setStream r x).enc k = s.enc k := rfl
@[simp] theorem State.setStream_trig (r : Nat) (x : StreamSt) (k : Nat) : (s.setStream r x).trig k = s.trig k := rfl
@[simp] theorem State.setStream_loop (r : Nat) (x : StreamSt) (k : Nat) : (s.setStream r x).loop k = s.loop k := rfl
@[simp] theorem State.setStream_sec (r : Nat) (x : StreamSt) (k : Nat) : (s.setStream r x).sec k = s.sec k := rfl
@[simp] theorem State.setStream_dma (r : Nat) (x : StreamSt) (k : Nat) : (s.setStream r x).dma k = s.dma k := rfl
@[simp] theorem State.setStream_port (r : Nat) (x : StreamSt) (k : Nat) : (s.setStream r x).port k = s.port k := rfl
@[simp] theorem State.setStream_lane (r : Nat) (x : StreamSt) (k : Nat) : (s.setStream r x).lane k = s.lane k := rfl
@[simp] theorem State.setStream_rank (r : Nat) (x : StreamSt) (k : Nat) : (s.setStream r x).rank k = s.rank k := rfl
@[simp] theorem State.setStream_cal (r : Nat) (x : StreamSt) (k : Nat) : (s.setStream r x).cal k = s.cal k := rfl
@[simp] theorem State.setStream_persona (r : Nat) (x : StreamSt) (k : Nat) : (s.setStream r x).persona k = s.persona k := rfl
@[simp] theorem State.setStream_domState (r : Nat) (x : StreamSt) (k : Nat) : (s.setStream r x).domState k = s.domState k := rfl
@[simp] theorem State.setStream_domOn (r : Nat) (x : StreamSt) (k : Nat) : (s.setStream r x).domOn k = s.domOn k := rfl
@[simp] theorem State.setPort_pending (p : Nat) (x : PortSt) : (s.setPort p x).pending = s.pending := rfl
@[simp] theorem State.setPort_tick (p : Nat) (x : PortSt) : (s.setPort p x).tick = s.tick := rfl
@[simp] theorem State.setPort_time (p : Nat) (x : PortSt) : (s.setPort p x).time = s.time := rfl
@[simp] theorem State.setPort_acted (p : Nat) (x : PortSt) : (s.setPort p x).acted = s.acted := rfl
@[simp] theorem State.setPort_was (p : Nat) (x : PortSt) : (s.setPort p x).was = s.was := rfl
@[simp] theorem State.setPort_sent (p : Nat) (x : PortSt) : (s.setPort p x).sent = s.sent := rfl
@[simp] theorem State.setPort_fresh (p : Nat) (x : PortSt) : (s.setPort p x).fresh = s.fresh := rfl
@[simp] theorem State.setPort_dev (p : Nat) (x : PortSt) : (s.setPort p x).dev = s.dev := rfl
@[simp] theorem State.setPort_flagsSeen (p : Nat) (x : PortSt) : (s.setPort p x).flagsSeen = s.flagsSeen := rfl
@[simp] theorem State.setPort_leftOut (p : Nat) (x : PortSt) : (s.setPort p x).leftOut = s.leftOut := rfl
@[simp] theorem State.setPort_clkRoot (p : Nat) (x : PortSt) : (s.setPort p x).clkRoot = s.clkRoot := rfl
@[simp] theorem State.setPort_straps (p : Nat) (x : PortSt) : (s.setPort p x).straps = s.straps := rfl
@[simp] theorem State.setPort_dict (p : Nat) (x : PortSt) : (s.setPort p x).dict = s.dict := rfl
@[simp] theorem State.setPort_mem (p : Nat) (x : PortSt) : (s.setPort p x).mem = s.mem := rfl
@[simp] theorem State.setPort_encs (p : Nat) (x : PortSt) : (s.setPort p x).encs = s.encs := rfl
@[simp] theorem State.setPort_trigs (p : Nat) (x : PortSt) : (s.setPort p x).trigs = s.trigs := rfl
@[simp] theorem State.setPort_ringPos (p : Nat) (x : PortSt) : (s.setPort p x).ringPos = s.ringPos := rfl
@[simp] theorem State.setPort_obs (p : Nat) (x : PortSt) : (s.setPort p x).obs = s.obs := rfl
@[simp] theorem State.setPort_chans (p : Nat) (x : PortSt) : (s.setPort p x).chans = s.chans := rfl
@[simp] theorem State.setPort_engs (p : Nat) (x : PortSt) : (s.setPort p x).engs = s.engs := rfl
@[simp] theorem State.setPort_secs (p : Nat) (x : PortSt) : (s.setPort p x).secs = s.secs := rfl
@[simp] theorem State.setPort_loops (p : Nat) (x : PortSt) : (s.setPort p x).loops = s.loops := rfl
@[simp] theorem State.setPort_lathe (p : Nat) (x : PortSt) : (s.setPort p x).lathe = s.lathe := rfl
@[simp] theorem State.setPort_dmas (p : Nat) (x : PortSt) : (s.setPort p x).dmas = s.dmas := rfl
@[simp] theorem State.setPort_streams (p : Nat) (x : PortSt) : (s.setPort p x).streams = s.streams := rfl
@[simp] theorem State.setPort_lanes (p : Nat) (x : PortSt) : (s.setPort p x).lanes = s.lanes := rfl
@[simp] theorem State.setPort_ring (p : Nat) (x : PortSt) : (s.setPort p x).ring = s.ring := rfl
@[simp] theorem State.setPort_can (p : Nat) (x : PortSt) : (s.setPort p x).can = s.can := rfl
@[simp] theorem State.setPort_lhp (p : Nat) (x : PortSt) : (s.setPort p x).lhp = s.lhp := rfl
@[simp] theorem State.setPort_snaps (p : Nat) (x : PortSt) : (s.setPort p x).snaps = s.snaps := rfl
@[simp] theorem State.setPort_memory (p : Nat) (x : PortSt) : (s.setPort p x).memory = s.memory := rfl
@[simp] theorem State.setPort_logQ (p : Nat) (x : PortSt) : (s.setPort p x).logQ = s.logQ := rfl
@[simp] theorem State.setPort_logSeq (p : Nat) (x : PortSt) : (s.setPort p x).logSeq = s.logSeq := rfl
@[simp] theorem State.setPort_logAt (p : Nat) (x : PortSt) : (s.setPort p x).logAt = s.logAt := rfl
@[simp] theorem State.setPort_gov (p : Nat) (x : PortSt) : (s.setPort p x).gov = s.gov := rfl
@[simp] theorem State.setPort_job (p : Nat) (x : PortSt) : (s.setPort p x).job = s.job := rfl
@[simp] theorem State.setPort_faultQ (p : Nat) (x : PortSt) : (s.setPort p x).faultQ = s.faultQ := rfl
@[simp] theorem State.setPort_windows (p : Nat) (x : PortSt) : (s.setPort p x).windows = s.windows := rfl
@[simp] theorem State.setPort_events (p : Nat) (x : PortSt) : (s.setPort p x).events = s.events := rfl
@[simp] theorem State.setPort_alive (p : Nat) (x : PortSt) : (s.setPort p x).alive = s.alive := rfl
@[simp] theorem State.setPort_die (p : Nat) (x : PortSt) : (s.setPort p x).die = s.die := rfl
@[simp] theorem State.setPort_shut (p : Nat) (x : PortSt) : (s.setPort p x).shut = s.shut := rfl
@[simp] theorem State.setPort_sup (p : Nat) (x : PortSt) : (s.setPort p x).sup = s.sup := rfl
@[simp] theorem State.setPort_doms (p : Nat) (x : PortSt) : (s.setPort p x).doms = s.doms := rfl
@[simp] theorem State.setPort_otp (p : Nat) (x : PortSt) : (s.setPort p x).otp = s.otp := rfl
@[simp] theorem State.setPort_store (p : Nat) (x : PortSt) : (s.setPort p x).store = s.store := rfl
@[simp] theorem State.setPort_cals (p : Nat) (x : PortSt) : (s.setPort p x).cals = s.cals := rfl
@[simp] theorem State.setPort_vern (p : Nat) (x : PortSt) : (s.setPort p x).vern = s.vern := rfl
@[simp] theorem State.setPort_personas (p : Nat) (x : PortSt) : (s.setPort p x).personas = s.personas := rfl
@[simp] theorem State.setPort_rd (p : Nat) (x : PortSt) (r : Row) (i j : Nat) : (s.setPort p x).rd r i j = s.rd r i j := rfl
@[simp] theorem State.setPort_rdN (p : Nat) (x : PortSt) (r : Row) (i j : Nat) : (s.setPort p x).rdN r i j = s.rdN r i j := rfl
@[simp] theorem State.setPort_byte (p : Nat) (x : PortSt) (a : Nat) : (s.setPort p x).byte a = s.byte a := rfl
@[simp] theorem State.setPort_bytes (p : Nat) (x : PortSt) (a n : Nat) : (s.setPort p x).bytes a n = s.bytes a n := rfl
@[simp] theorem State.setPort_chan (p : Nat) (x : PortSt) (k : Nat) : (s.setPort p x).chan k = s.chan k := rfl
@[simp] theorem State.setPort_eng (p : Nat) (x : PortSt) (k : Nat) : (s.setPort p x).eng k = s.eng k := rfl
@[simp] theorem State.setPort_enc (p : Nat) (x : PortSt) (k : Nat) : (s.setPort p x).enc k = s.enc k := rfl
@[simp] theorem State.setPort_trig (p : Nat) (x : PortSt) (k : Nat) : (s.setPort p x).trig k = s.trig k := rfl
@[simp] theorem State.setPort_loop (p : Nat) (x : PortSt) (k : Nat) : (s.setPort p x).loop k = s.loop k := rfl
@[simp] theorem State.setPort_sec (p : Nat) (x : PortSt) (k : Nat) : (s.setPort p x).sec k = s.sec k := rfl
@[simp] theorem State.setPort_dma (p : Nat) (x : PortSt) (k : Nat) : (s.setPort p x).dma k = s.dma k := rfl
@[simp] theorem State.setPort_stream (p : Nat) (x : PortSt) (k : Nat) : (s.setPort p x).stream k = s.stream k := rfl
@[simp] theorem State.setPort_lane (p : Nat) (x : PortSt) (k : Nat) : (s.setPort p x).lane k = s.lane k := rfl
@[simp] theorem State.setPort_rank (p : Nat) (x : PortSt) (k : Nat) : (s.setPort p x).rank k = s.rank k := rfl
@[simp] theorem State.setPort_cal (p : Nat) (x : PortSt) (k : Nat) : (s.setPort p x).cal k = s.cal k := rfl
@[simp] theorem State.setPort_persona (p : Nat) (x : PortSt) (k : Nat) : (s.setPort p x).persona k = s.persona k := rfl
@[simp] theorem State.setPort_domState (p : Nat) (x : PortSt) (k : Nat) : (s.setPort p x).domState k = s.domState k := rfl
@[simp] theorem State.setPort_domOn (p : Nat) (x : PortSt) (k : Nat) : (s.setPort p x).domOn k = s.domOn k := rfl
@[simp] theorem State.setLane_pending (i : Nat) (x : LaneSt) : (s.setLane i x).pending = s.pending := rfl
@[simp] theorem State.setLane_tick (i : Nat) (x : LaneSt) : (s.setLane i x).tick = s.tick := rfl
@[simp] theorem State.setLane_time (i : Nat) (x : LaneSt) : (s.setLane i x).time = s.time := rfl
@[simp] theorem State.setLane_acted (i : Nat) (x : LaneSt) : (s.setLane i x).acted = s.acted := rfl
@[simp] theorem State.setLane_was (i : Nat) (x : LaneSt) : (s.setLane i x).was = s.was := rfl
@[simp] theorem State.setLane_sent (i : Nat) (x : LaneSt) : (s.setLane i x).sent = s.sent := rfl
@[simp] theorem State.setLane_fresh (i : Nat) (x : LaneSt) : (s.setLane i x).fresh = s.fresh := rfl
@[simp] theorem State.setLane_dev (i : Nat) (x : LaneSt) : (s.setLane i x).dev = s.dev := rfl
@[simp] theorem State.setLane_flagsSeen (i : Nat) (x : LaneSt) : (s.setLane i x).flagsSeen = s.flagsSeen := rfl
@[simp] theorem State.setLane_leftOut (i : Nat) (x : LaneSt) : (s.setLane i x).leftOut = s.leftOut := rfl
@[simp] theorem State.setLane_clkRoot (i : Nat) (x : LaneSt) : (s.setLane i x).clkRoot = s.clkRoot := rfl
@[simp] theorem State.setLane_straps (i : Nat) (x : LaneSt) : (s.setLane i x).straps = s.straps := rfl
@[simp] theorem State.setLane_dict (i : Nat) (x : LaneSt) : (s.setLane i x).dict = s.dict := rfl
@[simp] theorem State.setLane_mem (i : Nat) (x : LaneSt) : (s.setLane i x).mem = s.mem := rfl
@[simp] theorem State.setLane_encs (i : Nat) (x : LaneSt) : (s.setLane i x).encs = s.encs := rfl
@[simp] theorem State.setLane_trigs (i : Nat) (x : LaneSt) : (s.setLane i x).trigs = s.trigs := rfl
@[simp] theorem State.setLane_ringPos (i : Nat) (x : LaneSt) : (s.setLane i x).ringPos = s.ringPos := rfl
@[simp] theorem State.setLane_obs (i : Nat) (x : LaneSt) : (s.setLane i x).obs = s.obs := rfl
@[simp] theorem State.setLane_chans (i : Nat) (x : LaneSt) : (s.setLane i x).chans = s.chans := rfl
@[simp] theorem State.setLane_engs (i : Nat) (x : LaneSt) : (s.setLane i x).engs = s.engs := rfl
@[simp] theorem State.setLane_secs (i : Nat) (x : LaneSt) : (s.setLane i x).secs = s.secs := rfl
@[simp] theorem State.setLane_loops (i : Nat) (x : LaneSt) : (s.setLane i x).loops = s.loops := rfl
@[simp] theorem State.setLane_lathe (i : Nat) (x : LaneSt) : (s.setLane i x).lathe = s.lathe := rfl
@[simp] theorem State.setLane_dmas (i : Nat) (x : LaneSt) : (s.setLane i x).dmas = s.dmas := rfl
@[simp] theorem State.setLane_streams (i : Nat) (x : LaneSt) : (s.setLane i x).streams = s.streams := rfl
@[simp] theorem State.setLane_ports (i : Nat) (x : LaneSt) : (s.setLane i x).ports = s.ports := rfl
@[simp] theorem State.setLane_ring (i : Nat) (x : LaneSt) : (s.setLane i x).ring = s.ring := rfl
@[simp] theorem State.setLane_can (i : Nat) (x : LaneSt) : (s.setLane i x).can = s.can := rfl
@[simp] theorem State.setLane_lhp (i : Nat) (x : LaneSt) : (s.setLane i x).lhp = s.lhp := rfl
@[simp] theorem State.setLane_snaps (i : Nat) (x : LaneSt) : (s.setLane i x).snaps = s.snaps := rfl
@[simp] theorem State.setLane_memory (i : Nat) (x : LaneSt) : (s.setLane i x).memory = s.memory := rfl
@[simp] theorem State.setLane_logQ (i : Nat) (x : LaneSt) : (s.setLane i x).logQ = s.logQ := rfl
@[simp] theorem State.setLane_logSeq (i : Nat) (x : LaneSt) : (s.setLane i x).logSeq = s.logSeq := rfl
@[simp] theorem State.setLane_logAt (i : Nat) (x : LaneSt) : (s.setLane i x).logAt = s.logAt := rfl
@[simp] theorem State.setLane_gov (i : Nat) (x : LaneSt) : (s.setLane i x).gov = s.gov := rfl
@[simp] theorem State.setLane_job (i : Nat) (x : LaneSt) : (s.setLane i x).job = s.job := rfl
@[simp] theorem State.setLane_faultQ (i : Nat) (x : LaneSt) : (s.setLane i x).faultQ = s.faultQ := rfl
@[simp] theorem State.setLane_windows (i : Nat) (x : LaneSt) : (s.setLane i x).windows = s.windows := rfl
@[simp] theorem State.setLane_events (i : Nat) (x : LaneSt) : (s.setLane i x).events = s.events := rfl
@[simp] theorem State.setLane_alive (i : Nat) (x : LaneSt) : (s.setLane i x).alive = s.alive := rfl
@[simp] theorem State.setLane_die (i : Nat) (x : LaneSt) : (s.setLane i x).die = s.die := rfl
@[simp] theorem State.setLane_shut (i : Nat) (x : LaneSt) : (s.setLane i x).shut = s.shut := rfl
@[simp] theorem State.setLane_sup (i : Nat) (x : LaneSt) : (s.setLane i x).sup = s.sup := rfl
@[simp] theorem State.setLane_doms (i : Nat) (x : LaneSt) : (s.setLane i x).doms = s.doms := rfl
@[simp] theorem State.setLane_otp (i : Nat) (x : LaneSt) : (s.setLane i x).otp = s.otp := rfl
@[simp] theorem State.setLane_store (i : Nat) (x : LaneSt) : (s.setLane i x).store = s.store := rfl
@[simp] theorem State.setLane_cals (i : Nat) (x : LaneSt) : (s.setLane i x).cals = s.cals := rfl
@[simp] theorem State.setLane_vern (i : Nat) (x : LaneSt) : (s.setLane i x).vern = s.vern := rfl
@[simp] theorem State.setLane_personas (i : Nat) (x : LaneSt) : (s.setLane i x).personas = s.personas := rfl
@[simp] theorem State.setLane_rd (i : Nat) (x : LaneSt) (r : Row) (i' j : Nat) : (s.setLane i x).rd r i' j = s.rd r i' j := rfl
@[simp] theorem State.setLane_rdN (i : Nat) (x : LaneSt) (r : Row) (i' j : Nat) : (s.setLane i x).rdN r i' j = s.rdN r i' j := rfl
@[simp] theorem State.setLane_byte (i : Nat) (x : LaneSt) (a : Nat) : (s.setLane i x).byte a = s.byte a := rfl
@[simp] theorem State.setLane_bytes (i : Nat) (x : LaneSt) (a n : Nat) : (s.setLane i x).bytes a n = s.bytes a n := rfl
@[simp] theorem State.setLane_chan (i : Nat) (x : LaneSt) (k : Nat) : (s.setLane i x).chan k = s.chan k := rfl
@[simp] theorem State.setLane_eng (i : Nat) (x : LaneSt) (k : Nat) : (s.setLane i x).eng k = s.eng k := rfl
@[simp] theorem State.setLane_enc (i : Nat) (x : LaneSt) (k : Nat) : (s.setLane i x).enc k = s.enc k := rfl
@[simp] theorem State.setLane_trig (i : Nat) (x : LaneSt) (k : Nat) : (s.setLane i x).trig k = s.trig k := rfl
@[simp] theorem State.setLane_loop (i : Nat) (x : LaneSt) (k : Nat) : (s.setLane i x).loop k = s.loop k := rfl
@[simp] theorem State.setLane_sec (i : Nat) (x : LaneSt) (k : Nat) : (s.setLane i x).sec k = s.sec k := rfl
@[simp] theorem State.setLane_dma (i : Nat) (x : LaneSt) (k : Nat) : (s.setLane i x).dma k = s.dma k := rfl
@[simp] theorem State.setLane_stream (i : Nat) (x : LaneSt) (k : Nat) : (s.setLane i x).stream k = s.stream k := rfl
@[simp] theorem State.setLane_port (i : Nat) (x : LaneSt) (k : Nat) : (s.setLane i x).port k = s.port k := rfl
@[simp] theorem State.setLane_rank (i : Nat) (x : LaneSt) (k : Nat) : (s.setLane i x).rank k = s.rank k := rfl
@[simp] theorem State.setLane_cal (i : Nat) (x : LaneSt) (k : Nat) : (s.setLane i x).cal k = s.cal k := rfl
@[simp] theorem State.setLane_persona (i : Nat) (x : LaneSt) (k : Nat) : (s.setLane i x).persona k = s.persona k := rfl
@[simp] theorem State.setLane_domState (i : Nat) (x : LaneSt) (k : Nat) : (s.setLane i x).domState k = s.domState k := rfl
@[simp] theorem State.setLane_domOn (i : Nat) (x : LaneSt) (k : Nat) : (s.setLane i x).domOn k = s.domOn k := rfl
@[simp] theorem State.setRank_pending (r : Nat) (x : RankSt) : (s.setRank r x).pending = s.pending := rfl
@[simp] theorem State.setRank_tick (r : Nat) (x : RankSt) : (s.setRank r x).tick = s.tick := rfl
@[simp] theorem State.setRank_time (r : Nat) (x : RankSt) : (s.setRank r x).time = s.time := rfl
@[simp] theorem State.setRank_acted (r : Nat) (x : RankSt) : (s.setRank r x).acted = s.acted := rfl
@[simp] theorem State.setRank_was (r : Nat) (x : RankSt) : (s.setRank r x).was = s.was := rfl
@[simp] theorem State.setRank_sent (r : Nat) (x : RankSt) : (s.setRank r x).sent = s.sent := rfl
@[simp] theorem State.setRank_fresh (r : Nat) (x : RankSt) : (s.setRank r x).fresh = s.fresh := rfl
@[simp] theorem State.setRank_dev (r : Nat) (x : RankSt) : (s.setRank r x).dev = s.dev := rfl
@[simp] theorem State.setRank_flagsSeen (r : Nat) (x : RankSt) : (s.setRank r x).flagsSeen = s.flagsSeen := rfl
@[simp] theorem State.setRank_leftOut (r : Nat) (x : RankSt) : (s.setRank r x).leftOut = s.leftOut := rfl
@[simp] theorem State.setRank_clkRoot (r : Nat) (x : RankSt) : (s.setRank r x).clkRoot = s.clkRoot := rfl
@[simp] theorem State.setRank_straps (r : Nat) (x : RankSt) : (s.setRank r x).straps = s.straps := rfl
@[simp] theorem State.setRank_dict (r : Nat) (x : RankSt) : (s.setRank r x).dict = s.dict := rfl
@[simp] theorem State.setRank_mem (r : Nat) (x : RankSt) : (s.setRank r x).mem = s.mem := rfl
@[simp] theorem State.setRank_encs (r : Nat) (x : RankSt) : (s.setRank r x).encs = s.encs := rfl
@[simp] theorem State.setRank_trigs (r : Nat) (x : RankSt) : (s.setRank r x).trigs = s.trigs := rfl
@[simp] theorem State.setRank_ringPos (r : Nat) (x : RankSt) : (s.setRank r x).ringPos = s.ringPos := rfl
@[simp] theorem State.setRank_obs (r : Nat) (x : RankSt) : (s.setRank r x).obs = s.obs := rfl
@[simp] theorem State.setRank_chans (r : Nat) (x : RankSt) : (s.setRank r x).chans = s.chans := rfl
@[simp] theorem State.setRank_engs (r : Nat) (x : RankSt) : (s.setRank r x).engs = s.engs := rfl
@[simp] theorem State.setRank_secs (r : Nat) (x : RankSt) : (s.setRank r x).secs = s.secs := rfl
@[simp] theorem State.setRank_loops (r : Nat) (x : RankSt) : (s.setRank r x).loops = s.loops := rfl
@[simp] theorem State.setRank_lathe (r : Nat) (x : RankSt) : (s.setRank r x).lathe = s.lathe := rfl
@[simp] theorem State.setRank_dmas (r : Nat) (x : RankSt) : (s.setRank r x).dmas = s.dmas := rfl
@[simp] theorem State.setRank_streams (r : Nat) (x : RankSt) : (s.setRank r x).streams = s.streams := rfl
@[simp] theorem State.setRank_ports (r : Nat) (x : RankSt) : (s.setRank r x).ports = s.ports := rfl
@[simp] theorem State.setRank_lanes (r : Nat) (x : RankSt) : (s.setRank r x).lanes = s.lanes := rfl
@[simp] theorem State.setRank_ring (r : Nat) (x : RankSt) : (s.setRank r x).ring = s.ring := rfl
@[simp] theorem State.setRank_can (r : Nat) (x : RankSt) : (s.setRank r x).can = s.can := rfl
@[simp] theorem State.setRank_lhp (r : Nat) (x : RankSt) : (s.setRank r x).lhp = s.lhp := rfl
@[simp] theorem State.setRank_snaps (r : Nat) (x : RankSt) : (s.setRank r x).snaps = s.snaps := rfl
@[simp] theorem State.setRank_logQ (r : Nat) (x : RankSt) : (s.setRank r x).logQ = s.logQ := rfl
@[simp] theorem State.setRank_logSeq (r : Nat) (x : RankSt) : (s.setRank r x).logSeq = s.logSeq := rfl
@[simp] theorem State.setRank_logAt (r : Nat) (x : RankSt) : (s.setRank r x).logAt = s.logAt := rfl
@[simp] theorem State.setRank_gov (r : Nat) (x : RankSt) : (s.setRank r x).gov = s.gov := rfl
@[simp] theorem State.setRank_job (r : Nat) (x : RankSt) : (s.setRank r x).job = s.job := rfl
@[simp] theorem State.setRank_faultQ (r : Nat) (x : RankSt) : (s.setRank r x).faultQ = s.faultQ := rfl
@[simp] theorem State.setRank_windows (r : Nat) (x : RankSt) : (s.setRank r x).windows = s.windows := rfl
@[simp] theorem State.setRank_events (r : Nat) (x : RankSt) : (s.setRank r x).events = s.events := rfl
@[simp] theorem State.setRank_alive (r : Nat) (x : RankSt) : (s.setRank r x).alive = s.alive := rfl
@[simp] theorem State.setRank_die (r : Nat) (x : RankSt) : (s.setRank r x).die = s.die := rfl
@[simp] theorem State.setRank_shut (r : Nat) (x : RankSt) : (s.setRank r x).shut = s.shut := rfl
@[simp] theorem State.setRank_sup (r : Nat) (x : RankSt) : (s.setRank r x).sup = s.sup := rfl
@[simp] theorem State.setRank_doms (r : Nat) (x : RankSt) : (s.setRank r x).doms = s.doms := rfl
@[simp] theorem State.setRank_otp (r : Nat) (x : RankSt) : (s.setRank r x).otp = s.otp := rfl
@[simp] theorem State.setRank_store (r : Nat) (x : RankSt) : (s.setRank r x).store = s.store := rfl
@[simp] theorem State.setRank_cals (r : Nat) (x : RankSt) : (s.setRank r x).cals = s.cals := rfl
@[simp] theorem State.setRank_vern (r : Nat) (x : RankSt) : (s.setRank r x).vern = s.vern := rfl
@[simp] theorem State.setRank_personas (r : Nat) (x : RankSt) : (s.setRank r x).personas = s.personas := rfl
@[simp] theorem State.setRank_rd (r : Nat) (x : RankSt) (r' : Row) (i j : Nat) : (s.setRank r x).rd r' i j = s.rd r' i j := rfl
@[simp] theorem State.setRank_rdN (r : Nat) (x : RankSt) (r' : Row) (i j : Nat) : (s.setRank r x).rdN r' i j = s.rdN r' i j := rfl
@[simp] theorem State.setRank_byte (r : Nat) (x : RankSt) (a : Nat) : (s.setRank r x).byte a = s.byte a := rfl
@[simp] theorem State.setRank_bytes (r : Nat) (x : RankSt) (a n : Nat) : (s.setRank r x).bytes a n = s.bytes a n := rfl
@[simp] theorem State.setRank_chan (r : Nat) (x : RankSt) (k : Nat) : (s.setRank r x).chan k = s.chan k := rfl
@[simp] theorem State.setRank_eng (r : Nat) (x : RankSt) (k : Nat) : (s.setRank r x).eng k = s.eng k := rfl
@[simp] theorem State.setRank_enc (r : Nat) (x : RankSt) (k : Nat) : (s.setRank r x).enc k = s.enc k := rfl
@[simp] theorem State.setRank_trig (r : Nat) (x : RankSt) (k : Nat) : (s.setRank r x).trig k = s.trig k := rfl
@[simp] theorem State.setRank_loop (r : Nat) (x : RankSt) (k : Nat) : (s.setRank r x).loop k = s.loop k := rfl
@[simp] theorem State.setRank_sec (r : Nat) (x : RankSt) (k : Nat) : (s.setRank r x).sec k = s.sec k := rfl
@[simp] theorem State.setRank_dma (r : Nat) (x : RankSt) (k : Nat) : (s.setRank r x).dma k = s.dma k := rfl
@[simp] theorem State.setRank_stream (r : Nat) (x : RankSt) (k : Nat) : (s.setRank r x).stream k = s.stream k := rfl
@[simp] theorem State.setRank_port (r : Nat) (x : RankSt) (k : Nat) : (s.setRank r x).port k = s.port k := rfl
@[simp] theorem State.setRank_lane (r : Nat) (x : RankSt) (k : Nat) : (s.setRank r x).lane k = s.lane k := rfl
@[simp] theorem State.setRank_cal (r : Nat) (x : RankSt) (k : Nat) : (s.setRank r x).cal k = s.cal k := rfl
@[simp] theorem State.setRank_persona (r : Nat) (x : RankSt) (k : Nat) : (s.setRank r x).persona k = s.persona k := rfl
@[simp] theorem State.setRank_domState (r : Nat) (x : RankSt) (k : Nat) : (s.setRank r x).domState k = s.domState k := rfl
@[simp] theorem State.setRank_domOn (r : Nat) (x : RankSt) (k : Nat) : (s.setRank r x).domOn k = s.domOn k := rfl
@[simp] theorem State.setCal_pending (k : Nat) (x : CalSt) : (s.setCal k x).pending = s.pending := rfl
@[simp] theorem State.setCal_tick (k : Nat) (x : CalSt) : (s.setCal k x).tick = s.tick := rfl
@[simp] theorem State.setCal_time (k : Nat) (x : CalSt) : (s.setCal k x).time = s.time := rfl
@[simp] theorem State.setCal_acted (k : Nat) (x : CalSt) : (s.setCal k x).acted = s.acted := rfl
@[simp] theorem State.setCal_was (k : Nat) (x : CalSt) : (s.setCal k x).was = s.was := rfl
@[simp] theorem State.setCal_sent (k : Nat) (x : CalSt) : (s.setCal k x).sent = s.sent := rfl
@[simp] theorem State.setCal_fresh (k : Nat) (x : CalSt) : (s.setCal k x).fresh = s.fresh := rfl
@[simp] theorem State.setCal_dev (k : Nat) (x : CalSt) : (s.setCal k x).dev = s.dev := rfl
@[simp] theorem State.setCal_flagsSeen (k : Nat) (x : CalSt) : (s.setCal k x).flagsSeen = s.flagsSeen := rfl
@[simp] theorem State.setCal_leftOut (k : Nat) (x : CalSt) : (s.setCal k x).leftOut = s.leftOut := rfl
@[simp] theorem State.setCal_clkRoot (k : Nat) (x : CalSt) : (s.setCal k x).clkRoot = s.clkRoot := rfl
@[simp] theorem State.setCal_straps (k : Nat) (x : CalSt) : (s.setCal k x).straps = s.straps := rfl
@[simp] theorem State.setCal_dict (k : Nat) (x : CalSt) : (s.setCal k x).dict = s.dict := rfl
@[simp] theorem State.setCal_mem (k : Nat) (x : CalSt) : (s.setCal k x).mem = s.mem := rfl
@[simp] theorem State.setCal_encs (k : Nat) (x : CalSt) : (s.setCal k x).encs = s.encs := rfl
@[simp] theorem State.setCal_trigs (k : Nat) (x : CalSt) : (s.setCal k x).trigs = s.trigs := rfl
@[simp] theorem State.setCal_ringPos (k : Nat) (x : CalSt) : (s.setCal k x).ringPos = s.ringPos := rfl
@[simp] theorem State.setCal_obs (k : Nat) (x : CalSt) : (s.setCal k x).obs = s.obs := rfl
@[simp] theorem State.setCal_chans (k : Nat) (x : CalSt) : (s.setCal k x).chans = s.chans := rfl
@[simp] theorem State.setCal_engs (k : Nat) (x : CalSt) : (s.setCal k x).engs = s.engs := rfl
@[simp] theorem State.setCal_secs (k : Nat) (x : CalSt) : (s.setCal k x).secs = s.secs := rfl
@[simp] theorem State.setCal_loops (k : Nat) (x : CalSt) : (s.setCal k x).loops = s.loops := rfl
@[simp] theorem State.setCal_lathe (k : Nat) (x : CalSt) : (s.setCal k x).lathe = s.lathe := rfl
@[simp] theorem State.setCal_dmas (k : Nat) (x : CalSt) : (s.setCal k x).dmas = s.dmas := rfl
@[simp] theorem State.setCal_streams (k : Nat) (x : CalSt) : (s.setCal k x).streams = s.streams := rfl
@[simp] theorem State.setCal_ports (k : Nat) (x : CalSt) : (s.setCal k x).ports = s.ports := rfl
@[simp] theorem State.setCal_lanes (k : Nat) (x : CalSt) : (s.setCal k x).lanes = s.lanes := rfl
@[simp] theorem State.setCal_ring (k : Nat) (x : CalSt) : (s.setCal k x).ring = s.ring := rfl
@[simp] theorem State.setCal_can (k : Nat) (x : CalSt) : (s.setCal k x).can = s.can := rfl
@[simp] theorem State.setCal_lhp (k : Nat) (x : CalSt) : (s.setCal k x).lhp = s.lhp := rfl
@[simp] theorem State.setCal_snaps (k : Nat) (x : CalSt) : (s.setCal k x).snaps = s.snaps := rfl
@[simp] theorem State.setCal_memory (k : Nat) (x : CalSt) : (s.setCal k x).memory = s.memory := rfl
@[simp] theorem State.setCal_logQ (k : Nat) (x : CalSt) : (s.setCal k x).logQ = s.logQ := rfl
@[simp] theorem State.setCal_logSeq (k : Nat) (x : CalSt) : (s.setCal k x).logSeq = s.logSeq := rfl
@[simp] theorem State.setCal_logAt (k : Nat) (x : CalSt) : (s.setCal k x).logAt = s.logAt := rfl
@[simp] theorem State.setCal_gov (k : Nat) (x : CalSt) : (s.setCal k x).gov = s.gov := rfl
@[simp] theorem State.setCal_job (k : Nat) (x : CalSt) : (s.setCal k x).job = s.job := rfl
@[simp] theorem State.setCal_faultQ (k : Nat) (x : CalSt) : (s.setCal k x).faultQ = s.faultQ := rfl
@[simp] theorem State.setCal_windows (k : Nat) (x : CalSt) : (s.setCal k x).windows = s.windows := rfl
@[simp] theorem State.setCal_events (k : Nat) (x : CalSt) : (s.setCal k x).events = s.events := rfl
@[simp] theorem State.setCal_alive (k : Nat) (x : CalSt) : (s.setCal k x).alive = s.alive := rfl
@[simp] theorem State.setCal_die (k : Nat) (x : CalSt) : (s.setCal k x).die = s.die := rfl
@[simp] theorem State.setCal_shut (k : Nat) (x : CalSt) : (s.setCal k x).shut = s.shut := rfl
@[simp] theorem State.setCal_sup (k : Nat) (x : CalSt) : (s.setCal k x).sup = s.sup := rfl
@[simp] theorem State.setCal_doms (k : Nat) (x : CalSt) : (s.setCal k x).doms = s.doms := rfl
@[simp] theorem State.setCal_otp (k : Nat) (x : CalSt) : (s.setCal k x).otp = s.otp := rfl
@[simp] theorem State.setCal_store (k : Nat) (x : CalSt) : (s.setCal k x).store = s.store := rfl
@[simp] theorem State.setCal_personas (k : Nat) (x : CalSt) : (s.setCal k x).personas = s.personas := rfl
@[simp] theorem State.setCal_rd (k : Nat) (x : CalSt) (r : Row) (i j : Nat) : (s.setCal k x).rd r i j = s.rd r i j := rfl
@[simp] theorem State.setCal_rdN (k : Nat) (x : CalSt) (r : Row) (i j : Nat) : (s.setCal k x).rdN r i j = s.rdN r i j := rfl
@[simp] theorem State.setCal_byte (k : Nat) (x : CalSt) (a : Nat) : (s.setCal k x).byte a = s.byte a := rfl
@[simp] theorem State.setCal_bytes (k : Nat) (x : CalSt) (a n : Nat) : (s.setCal k x).bytes a n = s.bytes a n := rfl
@[simp] theorem State.setCal_chan (k : Nat) (x : CalSt) (k' : Nat) : (s.setCal k x).chan k' = s.chan k' := rfl
@[simp] theorem State.setCal_eng (k : Nat) (x : CalSt) (k' : Nat) : (s.setCal k x).eng k' = s.eng k' := rfl
@[simp] theorem State.setCal_enc (k : Nat) (x : CalSt) (k' : Nat) : (s.setCal k x).enc k' = s.enc k' := rfl
@[simp] theorem State.setCal_trig (k : Nat) (x : CalSt) (k' : Nat) : (s.setCal k x).trig k' = s.trig k' := rfl
@[simp] theorem State.setCal_loop (k : Nat) (x : CalSt) (k' : Nat) : (s.setCal k x).loop k' = s.loop k' := rfl
@[simp] theorem State.setCal_sec (k : Nat) (x : CalSt) (k' : Nat) : (s.setCal k x).sec k' = s.sec k' := rfl
@[simp] theorem State.setCal_dma (k : Nat) (x : CalSt) (k' : Nat) : (s.setCal k x).dma k' = s.dma k' := rfl
@[simp] theorem State.setCal_stream (k : Nat) (x : CalSt) (k' : Nat) : (s.setCal k x).stream k' = s.stream k' := rfl
@[simp] theorem State.setCal_port (k : Nat) (x : CalSt) (k' : Nat) : (s.setCal k x).port k' = s.port k' := rfl
@[simp] theorem State.setCal_lane (k : Nat) (x : CalSt) (k' : Nat) : (s.setCal k x).lane k' = s.lane k' := rfl
@[simp] theorem State.setCal_rank (k : Nat) (x : CalSt) (k' : Nat) : (s.setCal k x).rank k' = s.rank k' := rfl
@[simp] theorem State.setCal_persona (k : Nat) (x : CalSt) (k' : Nat) : (s.setCal k x).persona k' = s.persona k' := rfl
@[simp] theorem State.setCal_domState (k : Nat) (x : CalSt) (k' : Nat) : (s.setCal k x).domState k' = s.domState k' := rfl
@[simp] theorem State.setCal_domOn (k : Nat) (x : CalSt) (k' : Nat) : (s.setCal k x).domOn k' = s.domOn k' := rfl
@[simp] theorem State.setPersona_pending (p : Nat) (x : PersonaSt) : (s.setPersona p x).pending = s.pending := rfl
@[simp] theorem State.setPersona_tick (p : Nat) (x : PersonaSt) : (s.setPersona p x).tick = s.tick := rfl
@[simp] theorem State.setPersona_time (p : Nat) (x : PersonaSt) : (s.setPersona p x).time = s.time := rfl
@[simp] theorem State.setPersona_acted (p : Nat) (x : PersonaSt) : (s.setPersona p x).acted = s.acted := rfl
@[simp] theorem State.setPersona_was (p : Nat) (x : PersonaSt) : (s.setPersona p x).was = s.was := rfl
@[simp] theorem State.setPersona_sent (p : Nat) (x : PersonaSt) : (s.setPersona p x).sent = s.sent := rfl
@[simp] theorem State.setPersona_fresh (p : Nat) (x : PersonaSt) : (s.setPersona p x).fresh = s.fresh := rfl
@[simp] theorem State.setPersona_dev (p : Nat) (x : PersonaSt) : (s.setPersona p x).dev = s.dev := rfl
@[simp] theorem State.setPersona_flagsSeen (p : Nat) (x : PersonaSt) : (s.setPersona p x).flagsSeen = s.flagsSeen := rfl
@[simp] theorem State.setPersona_leftOut (p : Nat) (x : PersonaSt) : (s.setPersona p x).leftOut = s.leftOut := rfl
@[simp] theorem State.setPersona_clkRoot (p : Nat) (x : PersonaSt) : (s.setPersona p x).clkRoot = s.clkRoot := rfl
@[simp] theorem State.setPersona_straps (p : Nat) (x : PersonaSt) : (s.setPersona p x).straps = s.straps := rfl
@[simp] theorem State.setPersona_dict (p : Nat) (x : PersonaSt) : (s.setPersona p x).dict = s.dict := rfl
@[simp] theorem State.setPersona_mem (p : Nat) (x : PersonaSt) : (s.setPersona p x).mem = s.mem := rfl
@[simp] theorem State.setPersona_encs (p : Nat) (x : PersonaSt) : (s.setPersona p x).encs = s.encs := rfl
@[simp] theorem State.setPersona_trigs (p : Nat) (x : PersonaSt) : (s.setPersona p x).trigs = s.trigs := rfl
@[simp] theorem State.setPersona_ringPos (p : Nat) (x : PersonaSt) : (s.setPersona p x).ringPos = s.ringPos := rfl
@[simp] theorem State.setPersona_obs (p : Nat) (x : PersonaSt) : (s.setPersona p x).obs = s.obs := rfl
@[simp] theorem State.setPersona_chans (p : Nat) (x : PersonaSt) : (s.setPersona p x).chans = s.chans := rfl
@[simp] theorem State.setPersona_engs (p : Nat) (x : PersonaSt) : (s.setPersona p x).engs = s.engs := rfl
@[simp] theorem State.setPersona_secs (p : Nat) (x : PersonaSt) : (s.setPersona p x).secs = s.secs := rfl
@[simp] theorem State.setPersona_loops (p : Nat) (x : PersonaSt) : (s.setPersona p x).loops = s.loops := rfl
@[simp] theorem State.setPersona_lathe (p : Nat) (x : PersonaSt) : (s.setPersona p x).lathe = s.lathe := rfl
@[simp] theorem State.setPersona_dmas (p : Nat) (x : PersonaSt) : (s.setPersona p x).dmas = s.dmas := rfl
@[simp] theorem State.setPersona_streams (p : Nat) (x : PersonaSt) : (s.setPersona p x).streams = s.streams := rfl
@[simp] theorem State.setPersona_ports (p : Nat) (x : PersonaSt) : (s.setPersona p x).ports = s.ports := rfl
@[simp] theorem State.setPersona_lanes (p : Nat) (x : PersonaSt) : (s.setPersona p x).lanes = s.lanes := rfl
@[simp] theorem State.setPersona_ring (p : Nat) (x : PersonaSt) : (s.setPersona p x).ring = s.ring := rfl
@[simp] theorem State.setPersona_can (p : Nat) (x : PersonaSt) : (s.setPersona p x).can = s.can := rfl
@[simp] theorem State.setPersona_lhp (p : Nat) (x : PersonaSt) : (s.setPersona p x).lhp = s.lhp := rfl
@[simp] theorem State.setPersona_snaps (p : Nat) (x : PersonaSt) : (s.setPersona p x).snaps = s.snaps := rfl
@[simp] theorem State.setPersona_memory (p : Nat) (x : PersonaSt) : (s.setPersona p x).memory = s.memory := rfl
@[simp] theorem State.setPersona_logQ (p : Nat) (x : PersonaSt) : (s.setPersona p x).logQ = s.logQ := rfl
@[simp] theorem State.setPersona_logSeq (p : Nat) (x : PersonaSt) : (s.setPersona p x).logSeq = s.logSeq := rfl
@[simp] theorem State.setPersona_logAt (p : Nat) (x : PersonaSt) : (s.setPersona p x).logAt = s.logAt := rfl
@[simp] theorem State.setPersona_gov (p : Nat) (x : PersonaSt) : (s.setPersona p x).gov = s.gov := rfl
@[simp] theorem State.setPersona_job (p : Nat) (x : PersonaSt) : (s.setPersona p x).job = s.job := rfl
@[simp] theorem State.setPersona_faultQ (p : Nat) (x : PersonaSt) : (s.setPersona p x).faultQ = s.faultQ := rfl
@[simp] theorem State.setPersona_windows (p : Nat) (x : PersonaSt) : (s.setPersona p x).windows = s.windows := rfl
@[simp] theorem State.setPersona_events (p : Nat) (x : PersonaSt) : (s.setPersona p x).events = s.events := rfl
@[simp] theorem State.setPersona_alive (p : Nat) (x : PersonaSt) : (s.setPersona p x).alive = s.alive := rfl
@[simp] theorem State.setPersona_die (p : Nat) (x : PersonaSt) : (s.setPersona p x).die = s.die := rfl
@[simp] theorem State.setPersona_shut (p : Nat) (x : PersonaSt) : (s.setPersona p x).shut = s.shut := rfl
@[simp] theorem State.setPersona_sup (p : Nat) (x : PersonaSt) : (s.setPersona p x).sup = s.sup := rfl
@[simp] theorem State.setPersona_doms (p : Nat) (x : PersonaSt) : (s.setPersona p x).doms = s.doms := rfl
@[simp] theorem State.setPersona_otp (p : Nat) (x : PersonaSt) : (s.setPersona p x).otp = s.otp := rfl
@[simp] theorem State.setPersona_store (p : Nat) (x : PersonaSt) : (s.setPersona p x).store = s.store := rfl
@[simp] theorem State.setPersona_cals (p : Nat) (x : PersonaSt) : (s.setPersona p x).cals = s.cals := rfl
@[simp] theorem State.setPersona_vern (p : Nat) (x : PersonaSt) : (s.setPersona p x).vern = s.vern := rfl
@[simp] theorem State.setPersona_rd (p : Nat) (x : PersonaSt) (r : Row) (i j : Nat) : (s.setPersona p x).rd r i j = s.rd r i j := rfl
@[simp] theorem State.setPersona_rdN (p : Nat) (x : PersonaSt) (r : Row) (i j : Nat) : (s.setPersona p x).rdN r i j = s.rdN r i j := rfl
@[simp] theorem State.setPersona_byte (p : Nat) (x : PersonaSt) (a : Nat) : (s.setPersona p x).byte a = s.byte a := rfl
@[simp] theorem State.setPersona_bytes (p : Nat) (x : PersonaSt) (a n : Nat) : (s.setPersona p x).bytes a n = s.bytes a n := rfl
@[simp] theorem State.setPersona_chan (p : Nat) (x : PersonaSt) (k : Nat) : (s.setPersona p x).chan k = s.chan k := rfl
@[simp] theorem State.setPersona_eng (p : Nat) (x : PersonaSt) (k : Nat) : (s.setPersona p x).eng k = s.eng k := rfl
@[simp] theorem State.setPersona_enc (p : Nat) (x : PersonaSt) (k : Nat) : (s.setPersona p x).enc k = s.enc k := rfl
@[simp] theorem State.setPersona_trig (p : Nat) (x : PersonaSt) (k : Nat) : (s.setPersona p x).trig k = s.trig k := rfl
@[simp] theorem State.setPersona_loop (p : Nat) (x : PersonaSt) (k : Nat) : (s.setPersona p x).loop k = s.loop k := rfl
@[simp] theorem State.setPersona_sec (p : Nat) (x : PersonaSt) (k : Nat) : (s.setPersona p x).sec k = s.sec k := rfl
@[simp] theorem State.setPersona_dma (p : Nat) (x : PersonaSt) (k : Nat) : (s.setPersona p x).dma k = s.dma k := rfl
@[simp] theorem State.setPersona_stream (p : Nat) (x : PersonaSt) (k : Nat) : (s.setPersona p x).stream k = s.stream k := rfl
@[simp] theorem State.setPersona_port (p : Nat) (x : PersonaSt) (k : Nat) : (s.setPersona p x).port k = s.port k := rfl
@[simp] theorem State.setPersona_lane (p : Nat) (x : PersonaSt) (k : Nat) : (s.setPersona p x).lane k = s.lane k := rfl
@[simp] theorem State.setPersona_rank (p : Nat) (x : PersonaSt) (k : Nat) : (s.setPersona p x).rank k = s.rank k := rfl
@[simp] theorem State.setPersona_cal (p : Nat) (x : PersonaSt) (k : Nat) : (s.setPersona p x).cal k = s.cal k := rfl
@[simp] theorem State.setPersona_domState (p : Nat) (x : PersonaSt) (k : Nat) : (s.setPersona p x).domState k = s.domState k := rfl
@[simp] theorem State.setPersona_domOn (p : Nat) (x : PersonaSt) (k : Nat) : (s.setPersona p x).domOn k = s.domOn k := rfl
@[simp] theorem State.emit_pending (o : Out) : (s.emit o).pending = s.pending := rfl
@[simp] theorem State.emit_tick (o : Out) : (s.emit o).tick = s.tick := rfl
@[simp] theorem State.emit_time (o : Out) : (s.emit o).time = s.time := rfl
@[simp] theorem State.emit_acted (o : Out) : (s.emit o).acted = s.acted := rfl
@[simp] theorem State.emit_was (o : Out) : (s.emit o).was = s.was := rfl
@[simp] theorem State.emit_fresh (o : Out) : (s.emit o).fresh = s.fresh := rfl
@[simp] theorem State.emit_dev (o : Out) : (s.emit o).dev = s.dev := rfl
@[simp] theorem State.emit_flagsSeen (o : Out) : (s.emit o).flagsSeen = s.flagsSeen := rfl
@[simp] theorem State.emit_leftOut (o : Out) : (s.emit o).leftOut = s.leftOut := rfl
@[simp] theorem State.emit_clkRoot (o : Out) : (s.emit o).clkRoot = s.clkRoot := rfl
@[simp] theorem State.emit_straps (o : Out) : (s.emit o).straps = s.straps := rfl
@[simp] theorem State.emit_dict (o : Out) : (s.emit o).dict = s.dict := rfl
@[simp] theorem State.emit_mem (o : Out) : (s.emit o).mem = s.mem := rfl
@[simp] theorem State.emit_encs (o : Out) : (s.emit o).encs = s.encs := rfl
@[simp] theorem State.emit_trigs (o : Out) : (s.emit o).trigs = s.trigs := rfl
@[simp] theorem State.emit_ringPos (o : Out) : (s.emit o).ringPos = s.ringPos := rfl
@[simp] theorem State.emit_obs (o : Out) : (s.emit o).obs = s.obs := rfl
@[simp] theorem State.emit_chans (o : Out) : (s.emit o).chans = s.chans := rfl
@[simp] theorem State.emit_engs (o : Out) : (s.emit o).engs = s.engs := rfl
@[simp] theorem State.emit_secs (o : Out) : (s.emit o).secs = s.secs := rfl
@[simp] theorem State.emit_loops (o : Out) : (s.emit o).loops = s.loops := rfl
@[simp] theorem State.emit_lathe (o : Out) : (s.emit o).lathe = s.lathe := rfl
@[simp] theorem State.emit_dmas (o : Out) : (s.emit o).dmas = s.dmas := rfl
@[simp] theorem State.emit_streams (o : Out) : (s.emit o).streams = s.streams := rfl
@[simp] theorem State.emit_ports (o : Out) : (s.emit o).ports = s.ports := rfl
@[simp] theorem State.emit_lanes (o : Out) : (s.emit o).lanes = s.lanes := rfl
@[simp] theorem State.emit_ring (o : Out) : (s.emit o).ring = s.ring := rfl
@[simp] theorem State.emit_can (o : Out) : (s.emit o).can = s.can := rfl
@[simp] theorem State.emit_lhp (o : Out) : (s.emit o).lhp = s.lhp := rfl
@[simp] theorem State.emit_snaps (o : Out) : (s.emit o).snaps = s.snaps := rfl
@[simp] theorem State.emit_memory (o : Out) : (s.emit o).memory = s.memory := rfl
@[simp] theorem State.emit_logQ (o : Out) : (s.emit o).logQ = s.logQ := rfl
@[simp] theorem State.emit_logSeq (o : Out) : (s.emit o).logSeq = s.logSeq := rfl
@[simp] theorem State.emit_logAt (o : Out) : (s.emit o).logAt = s.logAt := rfl
@[simp] theorem State.emit_gov (o : Out) : (s.emit o).gov = s.gov := rfl
@[simp] theorem State.emit_job (o : Out) : (s.emit o).job = s.job := rfl
@[simp] theorem State.emit_faultQ (o : Out) : (s.emit o).faultQ = s.faultQ := rfl
@[simp] theorem State.emit_windows (o : Out) : (s.emit o).windows = s.windows := rfl
@[simp] theorem State.emit_events (o : Out) : (s.emit o).events = s.events := rfl
@[simp] theorem State.emit_alive (o : Out) : (s.emit o).alive = s.alive := rfl
@[simp] theorem State.emit_die (o : Out) : (s.emit o).die = s.die := rfl
@[simp] theorem State.emit_shut (o : Out) : (s.emit o).shut = s.shut := rfl
@[simp] theorem State.emit_sup (o : Out) : (s.emit o).sup = s.sup := rfl
@[simp] theorem State.emit_doms (o : Out) : (s.emit o).doms = s.doms := rfl
@[simp] theorem State.emit_otp (o : Out) : (s.emit o).otp = s.otp := rfl
@[simp] theorem State.emit_store (o : Out) : (s.emit o).store = s.store := rfl
@[simp] theorem State.emit_cals (o : Out) : (s.emit o).cals = s.cals := rfl
@[simp] theorem State.emit_vern (o : Out) : (s.emit o).vern = s.vern := rfl
@[simp] theorem State.emit_personas (o : Out) : (s.emit o).personas = s.personas := rfl
@[simp] theorem State.emit_rd (o : Out) (r : Row) (i j : Nat) : (s.emit o).rd r i j = s.rd r i j := rfl
@[simp] theorem State.emit_rdN (o : Out) (r : Row) (i j : Nat) : (s.emit o).rdN r i j = s.rdN r i j := rfl
@[simp] theorem State.emit_byte (o : Out) (a : Nat) : (s.emit o).byte a = s.byte a := rfl
@[simp] theorem State.emit_bytes (o : Out) (a n : Nat) : (s.emit o).bytes a n = s.bytes a n := rfl
@[simp] theorem State.emit_chan (o : Out) (k : Nat) : (s.emit o).chan k = s.chan k := rfl
@[simp] theorem State.emit_eng (o : Out) (k : Nat) : (s.emit o).eng k = s.eng k := rfl
@[simp] theorem State.emit_enc (o : Out) (k : Nat) : (s.emit o).enc k = s.enc k := rfl
@[simp] theorem State.emit_trig (o : Out) (k : Nat) : (s.emit o).trig k = s.trig k := rfl
@[simp] theorem State.emit_loop (o : Out) (k : Nat) : (s.emit o).loop k = s.loop k := rfl
@[simp] theorem State.emit_sec (o : Out) (k : Nat) : (s.emit o).sec k = s.sec k := rfl
@[simp] theorem State.emit_dma (o : Out) (k : Nat) : (s.emit o).dma k = s.dma k := rfl
@[simp] theorem State.emit_stream (o : Out) (k : Nat) : (s.emit o).stream k = s.stream k := rfl
@[simp] theorem State.emit_port (o : Out) (k : Nat) : (s.emit o).port k = s.port k := rfl
@[simp] theorem State.emit_lane (o : Out) (k : Nat) : (s.emit o).lane k = s.lane k := rfl
@[simp] theorem State.emit_rank (o : Out) (k : Nat) : (s.emit o).rank k = s.rank k := rfl
@[simp] theorem State.emit_cal (o : Out) (k : Nat) : (s.emit o).cal k = s.cal k := rfl
@[simp] theorem State.emit_persona (o : Out) (k : Nat) : (s.emit o).persona k = s.persona k := rfl
@[simp] theorem State.emit_domState (o : Out) (k : Nat) : (s.emit o).domState k = s.domState k := rfl
@[simp] theorem State.emit_domOn (o : Out) (k : Nat) : (s.emit o).domOn k = s.domOn k := rfl
@[simp] theorem State.report_pending (src kind addr : Nat) : (s.report src kind addr).pending = s.pending := rfl
@[simp] theorem State.report_tick (src kind addr : Nat) : (s.report src kind addr).tick = s.tick := rfl
@[simp] theorem State.report_time (src kind addr : Nat) : (s.report src kind addr).time = s.time := rfl
@[simp] theorem State.report_acted (src kind addr : Nat) : (s.report src kind addr).acted = s.acted := rfl
@[simp] theorem State.report_was (src kind addr : Nat) : (s.report src kind addr).was = s.was := rfl
@[simp] theorem State.report_sent (src kind addr : Nat) : (s.report src kind addr).sent = s.sent := rfl
@[simp] theorem State.report_fresh (src kind addr : Nat) : (s.report src kind addr).fresh = s.fresh := rfl
@[simp] theorem State.report_dev (src kind addr : Nat) : (s.report src kind addr).dev = s.dev := rfl
@[simp] theorem State.report_flagsSeen (src kind addr : Nat) : (s.report src kind addr).flagsSeen = s.flagsSeen := rfl
@[simp] theorem State.report_leftOut (src kind addr : Nat) : (s.report src kind addr).leftOut = s.leftOut := rfl
@[simp] theorem State.report_clkRoot (src kind addr : Nat) : (s.report src kind addr).clkRoot = s.clkRoot := rfl
@[simp] theorem State.report_straps (src kind addr : Nat) : (s.report src kind addr).straps = s.straps := rfl
@[simp] theorem State.report_dict (src kind addr : Nat) : (s.report src kind addr).dict = s.dict := rfl
@[simp] theorem State.report_mem (src kind addr : Nat) : (s.report src kind addr).mem = s.mem := rfl
@[simp] theorem State.report_encs (src kind addr : Nat) : (s.report src kind addr).encs = s.encs := rfl
@[simp] theorem State.report_trigs (src kind addr : Nat) : (s.report src kind addr).trigs = s.trigs := rfl
@[simp] theorem State.report_ringPos (src kind addr : Nat) : (s.report src kind addr).ringPos = s.ringPos := rfl
@[simp] theorem State.report_obs (src kind addr : Nat) : (s.report src kind addr).obs = s.obs := rfl
@[simp] theorem State.report_chans (src kind addr : Nat) : (s.report src kind addr).chans = s.chans := rfl
@[simp] theorem State.report_engs (src kind addr : Nat) : (s.report src kind addr).engs = s.engs := rfl
@[simp] theorem State.report_secs (src kind addr : Nat) : (s.report src kind addr).secs = s.secs := rfl
@[simp] theorem State.report_loops (src kind addr : Nat) : (s.report src kind addr).loops = s.loops := rfl
@[simp] theorem State.report_lathe (src kind addr : Nat) : (s.report src kind addr).lathe = s.lathe := rfl
@[simp] theorem State.report_dmas (src kind addr : Nat) : (s.report src kind addr).dmas = s.dmas := rfl
@[simp] theorem State.report_streams (src kind addr : Nat) : (s.report src kind addr).streams = s.streams := rfl
@[simp] theorem State.report_ports (src kind addr : Nat) : (s.report src kind addr).ports = s.ports := rfl
@[simp] theorem State.report_lanes (src kind addr : Nat) : (s.report src kind addr).lanes = s.lanes := rfl
@[simp] theorem State.report_ring (src kind addr : Nat) : (s.report src kind addr).ring = s.ring := rfl
@[simp] theorem State.report_can (src kind addr : Nat) : (s.report src kind addr).can = s.can := rfl
@[simp] theorem State.report_lhp (src kind addr : Nat) : (s.report src kind addr).lhp = s.lhp := rfl
@[simp] theorem State.report_snaps (src kind addr : Nat) : (s.report src kind addr).snaps = s.snaps := rfl
@[simp] theorem State.report_memory (src kind addr : Nat) : (s.report src kind addr).memory = s.memory := rfl
@[simp] theorem State.report_logQ (src kind addr : Nat) : (s.report src kind addr).logQ = s.logQ := rfl
@[simp] theorem State.report_logSeq (src kind addr : Nat) : (s.report src kind addr).logSeq = s.logSeq := rfl
@[simp] theorem State.report_logAt (src kind addr : Nat) : (s.report src kind addr).logAt = s.logAt := rfl
@[simp] theorem State.report_gov (src kind addr : Nat) : (s.report src kind addr).gov = s.gov := rfl
@[simp] theorem State.report_job (src kind addr : Nat) : (s.report src kind addr).job = s.job := rfl
@[simp] theorem State.report_windows (src kind addr : Nat) : (s.report src kind addr).windows = s.windows := rfl
@[simp] theorem State.report_events (src kind addr : Nat) : (s.report src kind addr).events = s.events := rfl
@[simp] theorem State.report_alive (src kind addr : Nat) : (s.report src kind addr).alive = s.alive := rfl
@[simp] theorem State.report_die (src kind addr : Nat) : (s.report src kind addr).die = s.die := rfl
@[simp] theorem State.report_shut (src kind addr : Nat) : (s.report src kind addr).shut = s.shut := rfl
@[simp] theorem State.report_sup (src kind addr : Nat) : (s.report src kind addr).sup = s.sup := rfl
@[simp] theorem State.report_doms (src kind addr : Nat) : (s.report src kind addr).doms = s.doms := rfl
@[simp] theorem State.report_otp (src kind addr : Nat) : (s.report src kind addr).otp = s.otp := rfl
@[simp] theorem State.report_store (src kind addr : Nat) : (s.report src kind addr).store = s.store := rfl
@[simp] theorem State.report_cals (src kind addr : Nat) : (s.report src kind addr).cals = s.cals := rfl
@[simp] theorem State.report_vern (src kind addr : Nat) : (s.report src kind addr).vern = s.vern := rfl
@[simp] theorem State.report_personas (src kind addr : Nat) : (s.report src kind addr).personas = s.personas := rfl
@[simp] theorem State.report_rd (src kind addr : Nat) (r : Row) (i j : Nat) : (s.report src kind addr).rd r i j = s.rd r i j := rfl
@[simp] theorem State.report_rdN (src kind addr : Nat) (r : Row) (i j : Nat) : (s.report src kind addr).rdN r i j = s.rdN r i j := rfl
@[simp] theorem State.report_byte (src kind addr : Nat) (a : Nat) : (s.report src kind addr).byte a = s.byte a := rfl
@[simp] theorem State.report_bytes (src kind addr : Nat) (a n : Nat) : (s.report src kind addr).bytes a n = s.bytes a n := rfl
@[simp] theorem State.report_chan (src kind addr : Nat) (k : Nat) : (s.report src kind addr).chan k = s.chan k := rfl
@[simp] theorem State.report_eng (src kind addr : Nat) (k : Nat) : (s.report src kind addr).eng k = s.eng k := rfl
@[simp] theorem State.report_enc (src kind addr : Nat) (k : Nat) : (s.report src kind addr).enc k = s.enc k := rfl
@[simp] theorem State.report_trig (src kind addr : Nat) (k : Nat) : (s.report src kind addr).trig k = s.trig k := rfl
@[simp] theorem State.report_loop (src kind addr : Nat) (k : Nat) : (s.report src kind addr).loop k = s.loop k := rfl
@[simp] theorem State.report_sec (src kind addr : Nat) (k : Nat) : (s.report src kind addr).sec k = s.sec k := rfl
@[simp] theorem State.report_dma (src kind addr : Nat) (k : Nat) : (s.report src kind addr).dma k = s.dma k := rfl
@[simp] theorem State.report_stream (src kind addr : Nat) (k : Nat) : (s.report src kind addr).stream k = s.stream k := rfl
@[simp] theorem State.report_port (src kind addr : Nat) (k : Nat) : (s.report src kind addr).port k = s.port k := rfl
@[simp] theorem State.report_lane (src kind addr : Nat) (k : Nat) : (s.report src kind addr).lane k = s.lane k := rfl
@[simp] theorem State.report_rank (src kind addr : Nat) (k : Nat) : (s.report src kind addr).rank k = s.rank k := rfl
@[simp] theorem State.report_cal (src kind addr : Nat) (k : Nat) : (s.report src kind addr).cal k = s.cal k := rfl
@[simp] theorem State.report_persona (src kind addr : Nat) (k : Nat) : (s.report src kind addr).persona k = s.persona k := rfl
@[simp] theorem State.report_domState (src kind addr : Nat) (k : Nat) : (s.report src kind addr).domState k = s.domState k := rfl
@[simp] theorem State.report_domOn (src kind addr : Nat) (k : Nat) : (s.report src kind addr).domOn k = s.domOn k := rfl
@[simp] theorem State.act_pending (t : Target) (a : Act) : (s.act t a).pending = s.pending := rfl
@[simp] theorem State.act_tick (t : Target) (a : Act) : (s.act t a).tick = s.tick := rfl
@[simp] theorem State.act_time (t : Target) (a : Act) : (s.act t a).time = s.time := rfl
@[simp] theorem State.act_sent (t : Target) (a : Act) : (s.act t a).sent = s.sent := rfl
@[simp] theorem State.act_fresh (t : Target) (a : Act) : (s.act t a).fresh = s.fresh := rfl
@[simp] theorem State.act_dev (t : Target) (a : Act) : (s.act t a).dev = s.dev := rfl
@[simp] theorem State.act_flagsSeen (t : Target) (a : Act) : (s.act t a).flagsSeen = s.flagsSeen := rfl
@[simp] theorem State.act_leftOut (t : Target) (a : Act) : (s.act t a).leftOut = s.leftOut := rfl
@[simp] theorem State.act_clkRoot (t : Target) (a : Act) : (s.act t a).clkRoot = s.clkRoot := rfl
@[simp] theorem State.act_straps (t : Target) (a : Act) : (s.act t a).straps = s.straps := rfl
@[simp] theorem State.act_dict (t : Target) (a : Act) : (s.act t a).dict = s.dict := rfl
@[simp] theorem State.act_mem (t : Target) (a : Act) : (s.act t a).mem = s.mem := rfl
@[simp] theorem State.act_encs (t : Target) (a : Act) : (s.act t a).encs = s.encs := rfl
@[simp] theorem State.act_trigs (t : Target) (a : Act) : (s.act t a).trigs = s.trigs := rfl
@[simp] theorem State.act_ringPos (t : Target) (a : Act) : (s.act t a).ringPos = s.ringPos := rfl
@[simp] theorem State.act_obs (t : Target) (a : Act) : (s.act t a).obs = s.obs := rfl
@[simp] theorem State.act_chans (t : Target) (a : Act) : (s.act t a).chans = s.chans := rfl
@[simp] theorem State.act_engs (t : Target) (a : Act) : (s.act t a).engs = s.engs := rfl
@[simp] theorem State.act_secs (t : Target) (a : Act) : (s.act t a).secs = s.secs := rfl
@[simp] theorem State.act_loops (t : Target) (a : Act) : (s.act t a).loops = s.loops := rfl
@[simp] theorem State.act_lathe (t : Target) (a : Act) : (s.act t a).lathe = s.lathe := rfl
@[simp] theorem State.act_dmas (t : Target) (a : Act) : (s.act t a).dmas = s.dmas := rfl
@[simp] theorem State.act_streams (t : Target) (a : Act) : (s.act t a).streams = s.streams := rfl
@[simp] theorem State.act_ports (t : Target) (a : Act) : (s.act t a).ports = s.ports := rfl
@[simp] theorem State.act_lanes (t : Target) (a : Act) : (s.act t a).lanes = s.lanes := rfl
@[simp] theorem State.act_ring (t : Target) (a : Act) : (s.act t a).ring = s.ring := rfl
@[simp] theorem State.act_can (t : Target) (a : Act) : (s.act t a).can = s.can := rfl
@[simp] theorem State.act_lhp (t : Target) (a : Act) : (s.act t a).lhp = s.lhp := rfl
@[simp] theorem State.act_snaps (t : Target) (a : Act) : (s.act t a).snaps = s.snaps := rfl
@[simp] theorem State.act_memory (t : Target) (a : Act) : (s.act t a).memory = s.memory := rfl
@[simp] theorem State.act_logQ (t : Target) (a : Act) : (s.act t a).logQ = s.logQ := rfl
@[simp] theorem State.act_logSeq (t : Target) (a : Act) : (s.act t a).logSeq = s.logSeq := rfl
@[simp] theorem State.act_logAt (t : Target) (a : Act) : (s.act t a).logAt = s.logAt := rfl
@[simp] theorem State.act_gov (t : Target) (a : Act) : (s.act t a).gov = s.gov := rfl
@[simp] theorem State.act_job (t : Target) (a : Act) : (s.act t a).job = s.job := rfl
@[simp] theorem State.act_faultQ (t : Target) (a : Act) : (s.act t a).faultQ = s.faultQ := rfl
@[simp] theorem State.act_windows (t : Target) (a : Act) : (s.act t a).windows = s.windows := rfl
@[simp] theorem State.act_events (t : Target) (a : Act) : (s.act t a).events = s.events := rfl
@[simp] theorem State.act_alive (t : Target) (a : Act) : (s.act t a).alive = s.alive := rfl
@[simp] theorem State.act_die (t : Target) (a : Act) : (s.act t a).die = s.die := rfl
@[simp] theorem State.act_shut (t : Target) (a : Act) : (s.act t a).shut = s.shut := rfl
@[simp] theorem State.act_sup (t : Target) (a : Act) : (s.act t a).sup = s.sup := rfl
@[simp] theorem State.act_doms (t : Target) (a : Act) : (s.act t a).doms = s.doms := rfl
@[simp] theorem State.act_otp (t : Target) (a : Act) : (s.act t a).otp = s.otp := rfl
@[simp] theorem State.act_store (t : Target) (a : Act) : (s.act t a).store = s.store := rfl
@[simp] theorem State.act_cals (t : Target) (a : Act) : (s.act t a).cals = s.cals := rfl
@[simp] theorem State.act_vern (t : Target) (a : Act) : (s.act t a).vern = s.vern := rfl
@[simp] theorem State.act_personas (t : Target) (a : Act) : (s.act t a).personas = s.personas := rfl
@[simp] theorem State.act_rd (t : Target) (a : Act) (r : Row) (i j : Nat) : (s.act t a).rd r i j = s.rd r i j := rfl
@[simp] theorem State.act_rdN (t : Target) (a : Act) (r : Row) (i j : Nat) : (s.act t a).rdN r i j = s.rdN r i j := rfl
@[simp] theorem State.act_byte (t : Target) (a : Act) (a' : Nat) : (s.act t a).byte a' = s.byte a' := rfl
@[simp] theorem State.act_bytes (t : Target) (a : Act) (a' n : Nat) : (s.act t a).bytes a' n = s.bytes a' n := rfl
@[simp] theorem State.act_chan (t : Target) (a : Act) (k : Nat) : (s.act t a).chan k = s.chan k := rfl
@[simp] theorem State.act_eng (t : Target) (a : Act) (k : Nat) : (s.act t a).eng k = s.eng k := rfl
@[simp] theorem State.act_enc (t : Target) (a : Act) (k : Nat) : (s.act t a).enc k = s.enc k := rfl
@[simp] theorem State.act_trig (t : Target) (a : Act) (k : Nat) : (s.act t a).trig k = s.trig k := rfl
@[simp] theorem State.act_loop (t : Target) (a : Act) (k : Nat) : (s.act t a).loop k = s.loop k := rfl
@[simp] theorem State.act_sec (t : Target) (a : Act) (k : Nat) : (s.act t a).sec k = s.sec k := rfl
@[simp] theorem State.act_dma (t : Target) (a : Act) (k : Nat) : (s.act t a).dma k = s.dma k := rfl
@[simp] theorem State.act_stream (t : Target) (a : Act) (k : Nat) : (s.act t a).stream k = s.stream k := rfl
@[simp] theorem State.act_port (t : Target) (a : Act) (k : Nat) : (s.act t a).port k = s.port k := rfl
@[simp] theorem State.act_lane (t : Target) (a : Act) (k : Nat) : (s.act t a).lane k = s.lane k := rfl
@[simp] theorem State.act_rank (t : Target) (a : Act) (k : Nat) : (s.act t a).rank k = s.rank k := rfl
@[simp] theorem State.act_cal (t : Target) (a : Act) (k : Nat) : (s.act t a).cal k = s.cal k := rfl
@[simp] theorem State.act_persona (t : Target) (a : Act) (k : Nat) : (s.act t a).persona k = s.persona k := rfl
@[simp] theorem State.act_domState (t : Target) (a : Act) (k : Nat) : (s.act t a).domState k = s.domState k := rfl
@[simp] theorem State.act_domOn (t : Target) (a : Act) (k : Nat) : (s.act t a).domOn k = s.domOn k := rfl
@[simp] theorem setDom_pending (d st : Nat) : (setDom s d st).pending = s.pending := rfl
@[simp] theorem setDom_tick (d st : Nat) : (setDom s d st).tick = s.tick := rfl
@[simp] theorem setDom_time (d st : Nat) : (setDom s d st).time = s.time := rfl
@[simp] theorem setDom_acted (d st : Nat) : (setDom s d st).acted = s.acted := rfl
@[simp] theorem setDom_was (d st : Nat) : (setDom s d st).was = s.was := rfl
@[simp] theorem setDom_sent (d st : Nat) : (setDom s d st).sent = s.sent := rfl
@[simp] theorem setDom_fresh (d st : Nat) : (setDom s d st).fresh = s.fresh := rfl
@[simp] theorem setDom_dev (d st : Nat) : (setDom s d st).dev = s.dev := rfl
@[simp] theorem setDom_flagsSeen (d st : Nat) : (setDom s d st).flagsSeen = s.flagsSeen := rfl
@[simp] theorem setDom_leftOut (d st : Nat) : (setDom s d st).leftOut = s.leftOut := rfl
@[simp] theorem setDom_clkRoot (d st : Nat) : (setDom s d st).clkRoot = s.clkRoot := rfl
@[simp] theorem setDom_straps (d st : Nat) : (setDom s d st).straps = s.straps := rfl
@[simp] theorem setDom_dict (d st : Nat) : (setDom s d st).dict = s.dict := rfl
@[simp] theorem setDom_mem (d st : Nat) : (setDom s d st).mem = s.mem := rfl
@[simp] theorem setDom_encs (d st : Nat) : (setDom s d st).encs = s.encs := rfl
@[simp] theorem setDom_trigs (d st : Nat) : (setDom s d st).trigs = s.trigs := rfl
@[simp] theorem setDom_ringPos (d st : Nat) : (setDom s d st).ringPos = s.ringPos := rfl
@[simp] theorem setDom_obs (d st : Nat) : (setDom s d st).obs = s.obs := rfl
@[simp] theorem setDom_chans (d st : Nat) : (setDom s d st).chans = s.chans := rfl
@[simp] theorem setDom_engs (d st : Nat) : (setDom s d st).engs = s.engs := rfl
@[simp] theorem setDom_secs (d st : Nat) : (setDom s d st).secs = s.secs := rfl
@[simp] theorem setDom_loops (d st : Nat) : (setDom s d st).loops = s.loops := rfl
@[simp] theorem setDom_lathe (d st : Nat) : (setDom s d st).lathe = s.lathe := rfl
@[simp] theorem setDom_dmas (d st : Nat) : (setDom s d st).dmas = s.dmas := rfl
@[simp] theorem setDom_streams (d st : Nat) : (setDom s d st).streams = s.streams := rfl
@[simp] theorem setDom_ports (d st : Nat) : (setDom s d st).ports = s.ports := rfl
@[simp] theorem setDom_lanes (d st : Nat) : (setDom s d st).lanes = s.lanes := rfl
@[simp] theorem setDom_ring (d st : Nat) : (setDom s d st).ring = s.ring := rfl
@[simp] theorem setDom_can (d st : Nat) : (setDom s d st).can = s.can := rfl
@[simp] theorem setDom_lhp (d st : Nat) : (setDom s d st).lhp = s.lhp := rfl
@[simp] theorem setDom_snaps (d st : Nat) : (setDom s d st).snaps = s.snaps := rfl
@[simp] theorem setDom_memory (d st : Nat) : (setDom s d st).memory = s.memory := rfl
@[simp] theorem setDom_logQ (d st : Nat) : (setDom s d st).logQ = s.logQ := rfl
@[simp] theorem setDom_logSeq (d st : Nat) : (setDom s d st).logSeq = s.logSeq := rfl
@[simp] theorem setDom_logAt (d st : Nat) : (setDom s d st).logAt = s.logAt := rfl
@[simp] theorem setDom_gov (d st : Nat) : (setDom s d st).gov = s.gov := rfl
@[simp] theorem setDom_job (d st : Nat) : (setDom s d st).job = s.job := rfl
@[simp] theorem setDom_faultQ (d st : Nat) : (setDom s d st).faultQ = s.faultQ := rfl
@[simp] theorem setDom_windows (d st : Nat) : (setDom s d st).windows = s.windows := rfl
@[simp] theorem setDom_events (d st : Nat) : (setDom s d st).events = s.events := rfl
@[simp] theorem setDom_alive (d st : Nat) : (setDom s d st).alive = s.alive := rfl
@[simp] theorem setDom_die (d st : Nat) : (setDom s d st).die = s.die := rfl
@[simp] theorem setDom_shut (d st : Nat) : (setDom s d st).shut = s.shut := rfl
@[simp] theorem setDom_sup (d st : Nat) : (setDom s d st).sup = s.sup := rfl
@[simp] theorem setDom_otp (d st : Nat) : (setDom s d st).otp = s.otp := rfl
@[simp] theorem setDom_store (d st : Nat) : (setDom s d st).store = s.store := rfl
@[simp] theorem setDom_cals (d st : Nat) : (setDom s d st).cals = s.cals := rfl
@[simp] theorem setDom_vern (d st : Nat) : (setDom s d st).vern = s.vern := rfl
@[simp] theorem setDom_personas (d st : Nat) : (setDom s d st).personas = s.personas := rfl
@[simp] theorem setDom_rd (d st : Nat) (r : Row) (i j : Nat) : (setDom s d st).rd r i j = s.rd r i j := rfl
@[simp] theorem setDom_rdN (d st : Nat) (r : Row) (i j : Nat) : (setDom s d st).rdN r i j = s.rdN r i j := rfl
@[simp] theorem setDom_byte (d st : Nat) (a : Nat) : (setDom s d st).byte a = s.byte a := rfl
@[simp] theorem setDom_bytes (d st : Nat) (a n : Nat) : (setDom s d st).bytes a n = s.bytes a n := rfl
@[simp] theorem setDom_chan (d st : Nat) (k : Nat) : (setDom s d st).chan k = s.chan k := rfl
@[simp] theorem setDom_eng (d st : Nat) (k : Nat) : (setDom s d st).eng k = s.eng k := rfl
@[simp] theorem setDom_enc (d st : Nat) (k : Nat) : (setDom s d st).enc k = s.enc k := rfl
@[simp] theorem setDom_trig (d st : Nat) (k : Nat) : (setDom s d st).trig k = s.trig k := rfl
@[simp] theorem setDom_loop (d st : Nat) (k : Nat) : (setDom s d st).loop k = s.loop k := rfl
@[simp] theorem setDom_sec (d st : Nat) (k : Nat) : (setDom s d st).sec k = s.sec k := rfl
@[simp] theorem setDom_dma (d st : Nat) (k : Nat) : (setDom s d st).dma k = s.dma k := rfl
@[simp] theorem setDom_stream (d st : Nat) (k : Nat) : (setDom s d st).stream k = s.stream k := rfl
@[simp] theorem setDom_port (d st : Nat) (k : Nat) : (setDom s d st).port k = s.port k := rfl
@[simp] theorem setDom_lane (d st : Nat) (k : Nat) : (setDom s d st).lane k = s.lane k := rfl
@[simp] theorem setDom_rank (d st : Nat) (k : Nat) : (setDom s d st).rank k = s.rank k := rfl
@[simp] theorem setDom_cal (d st : Nat) (k : Nat) : (setDom s d st).cal k = s.cal k := rfl
@[simp] theorem setDom_persona (d st : Nat) (k : Nat) : (setDom s d st).persona k = s.persona k := rfl
@[simp] theorem setWaiting_pending (d : Nat) (w : Bool) : (setWaiting s d w).pending = s.pending := rfl
@[simp] theorem setWaiting_tick (d : Nat) (w : Bool) : (setWaiting s d w).tick = s.tick := rfl
@[simp] theorem setWaiting_time (d : Nat) (w : Bool) : (setWaiting s d w).time = s.time := rfl
@[simp] theorem setWaiting_acted (d : Nat) (w : Bool) : (setWaiting s d w).acted = s.acted := rfl
@[simp] theorem setWaiting_was (d : Nat) (w : Bool) : (setWaiting s d w).was = s.was := rfl
@[simp] theorem setWaiting_sent (d : Nat) (w : Bool) : (setWaiting s d w).sent = s.sent := rfl
@[simp] theorem setWaiting_fresh (d : Nat) (w : Bool) : (setWaiting s d w).fresh = s.fresh := rfl
@[simp] theorem setWaiting_dev (d : Nat) (w : Bool) : (setWaiting s d w).dev = s.dev := rfl
@[simp] theorem setWaiting_flagsSeen (d : Nat) (w : Bool) : (setWaiting s d w).flagsSeen = s.flagsSeen := rfl
@[simp] theorem setWaiting_leftOut (d : Nat) (w : Bool) : (setWaiting s d w).leftOut = s.leftOut := rfl
@[simp] theorem setWaiting_clkRoot (d : Nat) (w : Bool) : (setWaiting s d w).clkRoot = s.clkRoot := rfl
@[simp] theorem setWaiting_straps (d : Nat) (w : Bool) : (setWaiting s d w).straps = s.straps := rfl
@[simp] theorem setWaiting_dict (d : Nat) (w : Bool) : (setWaiting s d w).dict = s.dict := rfl
@[simp] theorem setWaiting_mem (d : Nat) (w : Bool) : (setWaiting s d w).mem = s.mem := rfl
@[simp] theorem setWaiting_encs (d : Nat) (w : Bool) : (setWaiting s d w).encs = s.encs := rfl
@[simp] theorem setWaiting_trigs (d : Nat) (w : Bool) : (setWaiting s d w).trigs = s.trigs := rfl
@[simp] theorem setWaiting_ringPos (d : Nat) (w : Bool) : (setWaiting s d w).ringPos = s.ringPos := rfl
@[simp] theorem setWaiting_obs (d : Nat) (w : Bool) : (setWaiting s d w).obs = s.obs := rfl
@[simp] theorem setWaiting_chans (d : Nat) (w : Bool) : (setWaiting s d w).chans = s.chans := rfl
@[simp] theorem setWaiting_engs (d : Nat) (w : Bool) : (setWaiting s d w).engs = s.engs := rfl
@[simp] theorem setWaiting_secs (d : Nat) (w : Bool) : (setWaiting s d w).secs = s.secs := rfl
@[simp] theorem setWaiting_loops (d : Nat) (w : Bool) : (setWaiting s d w).loops = s.loops := rfl
@[simp] theorem setWaiting_lathe (d : Nat) (w : Bool) : (setWaiting s d w).lathe = s.lathe := rfl
@[simp] theorem setWaiting_dmas (d : Nat) (w : Bool) : (setWaiting s d w).dmas = s.dmas := rfl
@[simp] theorem setWaiting_streams (d : Nat) (w : Bool) : (setWaiting s d w).streams = s.streams := rfl
@[simp] theorem setWaiting_ports (d : Nat) (w : Bool) : (setWaiting s d w).ports = s.ports := rfl
@[simp] theorem setWaiting_lanes (d : Nat) (w : Bool) : (setWaiting s d w).lanes = s.lanes := rfl
@[simp] theorem setWaiting_ring (d : Nat) (w : Bool) : (setWaiting s d w).ring = s.ring := rfl
@[simp] theorem setWaiting_can (d : Nat) (w : Bool) : (setWaiting s d w).can = s.can := rfl
@[simp] theorem setWaiting_lhp (d : Nat) (w : Bool) : (setWaiting s d w).lhp = s.lhp := rfl
@[simp] theorem setWaiting_snaps (d : Nat) (w : Bool) : (setWaiting s d w).snaps = s.snaps := rfl
@[simp] theorem setWaiting_memory (d : Nat) (w : Bool) : (setWaiting s d w).memory = s.memory := rfl
@[simp] theorem setWaiting_logQ (d : Nat) (w : Bool) : (setWaiting s d w).logQ = s.logQ := rfl
@[simp] theorem setWaiting_logSeq (d : Nat) (w : Bool) : (setWaiting s d w).logSeq = s.logSeq := rfl
@[simp] theorem setWaiting_logAt (d : Nat) (w : Bool) : (setWaiting s d w).logAt = s.logAt := rfl
@[simp] theorem setWaiting_gov (d : Nat) (w : Bool) : (setWaiting s d w).gov = s.gov := rfl
@[simp] theorem setWaiting_job (d : Nat) (w : Bool) : (setWaiting s d w).job = s.job := rfl
@[simp] theorem setWaiting_faultQ (d : Nat) (w : Bool) : (setWaiting s d w).faultQ = s.faultQ := rfl
@[simp] theorem setWaiting_windows (d : Nat) (w : Bool) : (setWaiting s d w).windows = s.windows := rfl
@[simp] theorem setWaiting_events (d : Nat) (w : Bool) : (setWaiting s d w).events = s.events := rfl
@[simp] theorem setWaiting_alive (d : Nat) (w : Bool) : (setWaiting s d w).alive = s.alive := rfl
@[simp] theorem setWaiting_die (d : Nat) (w : Bool) : (setWaiting s d w).die = s.die := rfl
@[simp] theorem setWaiting_shut (d : Nat) (w : Bool) : (setWaiting s d w).shut = s.shut := rfl
@[simp] theorem setWaiting_sup (d : Nat) (w : Bool) : (setWaiting s d w).sup = s.sup := rfl
@[simp] theorem setWaiting_otp (d : Nat) (w : Bool) : (setWaiting s d w).otp = s.otp := rfl
@[simp] theorem setWaiting_store (d : Nat) (w : Bool) : (setWaiting s d w).store = s.store := rfl
@[simp] theorem setWaiting_cals (d : Nat) (w : Bool) : (setWaiting s d w).cals = s.cals := rfl
@[simp] theorem setWaiting_vern (d : Nat) (w : Bool) : (setWaiting s d w).vern = s.vern := rfl
@[simp] theorem setWaiting_personas (d : Nat) (w : Bool) : (setWaiting s d w).personas = s.personas := rfl
@[simp] theorem setWaiting_rd (d : Nat) (w : Bool) (r : Row) (i j : Nat) : (setWaiting s d w).rd r i j = s.rd r i j := rfl
@[simp] theorem setWaiting_rdN (d : Nat) (w : Bool) (r : Row) (i j : Nat) : (setWaiting s d w).rdN r i j = s.rdN r i j := rfl
@[simp] theorem setWaiting_byte (d : Nat) (w : Bool) (a : Nat) : (setWaiting s d w).byte a = s.byte a := rfl
@[simp] theorem setWaiting_bytes (d : Nat) (w : Bool) (a n : Nat) : (setWaiting s d w).bytes a n = s.bytes a n := rfl
@[simp] theorem setWaiting_chan (d : Nat) (w : Bool) (k : Nat) : (setWaiting s d w).chan k = s.chan k := rfl
@[simp] theorem setWaiting_eng (d : Nat) (w : Bool) (k : Nat) : (setWaiting s d w).eng k = s.eng k := rfl
@[simp] theorem setWaiting_enc (d : Nat) (w : Bool) (k : Nat) : (setWaiting s d w).enc k = s.enc k := rfl
@[simp] theorem setWaiting_trig (d : Nat) (w : Bool) (k : Nat) : (setWaiting s d w).trig k = s.trig k := rfl
@[simp] theorem setWaiting_loop (d : Nat) (w : Bool) (k : Nat) : (setWaiting s d w).loop k = s.loop k := rfl
@[simp] theorem setWaiting_sec (d : Nat) (w : Bool) (k : Nat) : (setWaiting s d w).sec k = s.sec k := rfl
@[simp] theorem setWaiting_dma (d : Nat) (w : Bool) (k : Nat) : (setWaiting s d w).dma k = s.dma k := rfl
@[simp] theorem setWaiting_stream (d : Nat) (w : Bool) (k : Nat) : (setWaiting s d w).stream k = s.stream k := rfl
@[simp] theorem setWaiting_port (d : Nat) (w : Bool) (k : Nat) : (setWaiting s d w).port k = s.port k := rfl
@[simp] theorem setWaiting_lane (d : Nat) (w : Bool) (k : Nat) : (setWaiting s d w).lane k = s.lane k := rfl
@[simp] theorem setWaiting_rank (d : Nat) (w : Bool) (k : Nat) : (setWaiting s d w).rank k = s.rank k := rfl
@[simp] theorem setWaiting_cal (d : Nat) (w : Bool) (k : Nat) : (setWaiting s d w).cal k = s.cal k := rfl
@[simp] theorem setWaiting_persona (d : Nat) (w : Bool) (k : Nat) : (setWaiting s d w).persona k = s.persona k := rfl

/-! ### What is read back -/

@[simp] theorem State.setChan_same (k : Nat) (x : Chan) : (s.setChan k x).chan k = x := by simp [State.setChan, State.chan]
theorem State.setChan_ne (j k : Nat) (x : Chan) (h : j ≠ k) : (s.setChan k x).chan j = s.chan j := by simp [State.setChan, State.chan, aget_ains_ne _ _ _ h]
@[simp] theorem State.setEng_same (k : Nat) (x : EngSt) : (s.setEng k x).eng k = x := by simp [State.setEng, State.eng]
theorem State.setEng_ne (j k : Nat) (x : EngSt) (h : j ≠ k) : (s.setEng k x).eng j = s.eng j := by simp [State.setEng, State.eng, aget_ains_ne _ _ _ h]
@[simp] theorem State.setEnc_same (k : Nat) (x : EncSt) : (s.setEnc k x).enc k = x := by simp [State.setEnc, State.enc]
theorem State.setEnc_ne (j k : Nat) (x : EncSt) (h : j ≠ k) : (s.setEnc k x).enc j = s.enc j := by simp [State.setEnc, State.enc, aget_ains_ne _ _ _ h]
@[simp] theorem State.setTrig_same (k : Nat) (x : TrigSt) : (s.setTrig k x).trig k = x := by simp [State.setTrig, State.trig]
theorem State.setTrig_ne (j k : Nat) (x : TrigSt) (h : j ≠ k) : (s.setTrig k x).trig j = s.trig j := by simp [State.setTrig, State.trig, aget_ains_ne _ _ _ h]
@[simp] theorem State.setLoop_same (k : Nat) (x : LoopSt) : (s.setLoop k x).loop k = x := by simp [State.setLoop, State.loop]
theorem State.setLoop_ne (j k : Nat) (x : LoopSt) (h : j ≠ k) : (s.setLoop k x).loop j = s.loop j := by simp [State.setLoop, State.loop, aget_ains_ne _ _ _ h]
@[simp] theorem State.setSec_same (k : Nat) (x : Section) : (s.setSec k x).sec k = x := by simp [State.setSec, State.sec]
theorem State.setSec_ne (j k : Nat) (x : Section) (h : j ≠ k) : (s.setSec k x).sec j = s.sec j := by simp [State.setSec, State.sec, aget_ains_ne _ _ _ h]
@[simp] theorem State.setDma_same (k : Nat) (x : DmaSt) : (s.setDma k x).dma k = x := by simp [State.setDma, State.dma]
theorem State.setDma_ne (j k : Nat) (x : DmaSt) (h : j ≠ k) : (s.setDma k x).dma j = s.dma j := by simp [State.setDma, State.dma, aget_ains_ne _ _ _ h]
@[simp] theorem State.setStream_same (k : Nat) (x : StreamSt) : (s.setStream k x).stream k = x := by simp [State.setStream, State.stream]
theorem State.setStream_ne (j k : Nat) (x : StreamSt) (h : j ≠ k) : (s.setStream k x).stream j = s.stream j := by simp [State.setStream, State.stream, aget_ains_ne _ _ _ h]
@[simp] theorem State.setPort_same (k : Nat) (x : PortSt) : (s.setPort k x).port k = x := by simp [State.setPort, State.port]
theorem State.setPort_ne (j k : Nat) (x : PortSt) (h : j ≠ k) : (s.setPort k x).port j = s.port j := by simp [State.setPort, State.port, aget_ains_ne _ _ _ h]
@[simp] theorem State.setLane_same (k : Nat) (x : LaneSt) : (s.setLane k x).lane k = x := by simp [State.setLane, State.lane]
theorem State.setLane_ne (j k : Nat) (x : LaneSt) (h : j ≠ k) : (s.setLane k x).lane j = s.lane j := by simp [State.setLane, State.lane, aget_ains_ne _ _ _ h]
@[simp] theorem State.setRank_same (k : Nat) (x : RankSt) : (s.setRank k x).rank k = x := by simp [State.setRank, State.rank]
theorem State.setRank_ne (j k : Nat) (x : RankSt) (h : j ≠ k) : (s.setRank k x).rank j = s.rank j := by simp [State.setRank, State.rank, aget_ains_ne _ _ _ h]
@[simp] theorem State.setCal_same (k : Nat) (x : CalSt) : (s.setCal k x).cal k = x := by simp [State.setCal, State.cal]
theorem State.setCal_ne (j k : Nat) (x : CalSt) (h : j ≠ k) : (s.setCal k x).cal j = s.cal j := by simp [State.setCal, State.cal, aget_ains_ne _ _ _ h]
@[simp] theorem State.setPersona_same (k : Nat) (x : PersonaSt) : (s.setPersona k x).persona k = x := by simp [State.setPersona, State.persona]
theorem State.setPersona_ne (j k : Nat) (x : PersonaSt) (h : j ≠ k) : (s.setPersona k x).persona j = s.persona j := by simp [State.setPersona, State.persona, aget_ains_ne _ _ _ h]

theorem State.rd_wr (q r : Row) (v : Int) (x y i j : Nat) (h : rowKey r i j ≠ rowKey q x y) :
    (s.wr q v x y).rd r i j = s.rd r i j := aget_aput_ne _ _ _ _ h

@[simp] theorem State.rd_wr_same (r : Row) (v : Int) (i j : Nat) : (s.wr r v i j).rd r i j = v := aget_aput_same _ _ _ _

@[simp] theorem State.rdN_wr_same (r : Row) (v : Int) (i j : Nat) : (s.wr r v i j).rdN r i j = v.toNat := by
  simp [State.rdN]

theorem State.rdN_wr (q r : Row) (v : Int) (x y i j : Nat) (h : rowKey r i j ≠ rowKey q x y) :
    (s.wr q v x y).rdN r i j = s.rdN r i j := by simp [State.rdN, s.rd_wr q r v x y i j h]

@[simp] theorem State.emit_sent (o : Out) : (s.emit o).sent = o :: s.sent := rfl

@[simp] theorem State.report_faultQ (src kind addr : Nat) :
    (s.report src kind addr).faultQ = s.faultQ ++ [⟨src, kind, addr⟩] := rfl

@[simp] theorem State.act_acted (t : Target) (a : Act) : (s.act t a).acted = (t, a) :: s.acted := rfl

@[simp] theorem setDom_same (d st : Nat) (h : d ≠ 0) : (setDom s d st).domState d = st := by
  simp [setDom, State.domState, h]

theorem setDom_ne (d d' st : Nat) (h : d' ≠ d) : (setDom s d st).domState d' = s.domState d' := by
  simp [setDom, State.domState, aget_ains_ne _ _ _ h]

@[simp] theorem setWaiting_domState (d d' : Nat) (w : Bool) : (setWaiting s d w).domState d' = s.domState d' := by
  by_cases h : d' = d
  · subst h; simp [setWaiting, State.domState]
  · simp [setWaiting, State.domState, aget_ains_ne _ _ _ h]

/-- A byte outside those that a write names keeps its value. -/
theorem State.byte_setBytes (a b : Nat) (l : List Byte) (h : ¬ (a ≤ b ∧ b < a + l.length)) :
    (s.setBytes a l).byte b = s.byte b := Memory.get_write_ne l a s.mem h

/-- A byte that a write names is the one written. -/
theorem State.byte_setBytes_in (a i : Nat) (l : List Byte) (h : i < l.length) :
    (s.setBytes a l).byte (a + i) = l[i] := Memory.get_write l a i s.mem h

end Sys2Proof.Machine
end

