-- ==== Sys2Proof/Laws/Events.lean ====
section
/-!
SUPPORT. What an event and a change of the device state leave as they were: everything but the output trace, the event log,
EVENT_SEQ, the frames waiting on the ring's lanes and their count.
-/
namespace Sys2Proof.Machine

variable (s : State)



theorem SameExceptEvents.refl (s : State) : SameExceptEvents s s := by
  constructor <;> intros <;> rfl

theorem SameExceptEvents.trans {s t u : State} (h : SameExceptEvents s t) (k : SameExceptEvents t u) :
    SameExceptEvents s u where
  pending := k.pending.trans h.pending
  tick := k.tick.trans h.tick
  time := k.time.trans h.time
  acted := k.acted.trans h.acted
  was := k.was.trans h.was
  fresh := k.fresh.trans h.fresh
  flagsSeen := k.flagsSeen.trans h.flagsSeen
  leftOut := k.leftOut.trans h.leftOut
  clkRoot := k.clkRoot.trans h.clkRoot
  straps := k.straps.trans h.straps
  mem := k.mem.trans h.mem
  encs := k.encs.trans h.encs
  trigs := k.trigs.trans h.trigs
  ringPos := k.ringPos.trans h.ringPos
  obs := k.obs.trans h.obs
  chans := k.chans.trans h.chans
  engs := k.engs.trans h.engs
  secs := k.secs.trans h.secs
  loops := k.loops.trans h.loops
  lathe := k.lathe.trans h.lathe
  dmas := k.dmas.trans h.dmas
  streams := k.streams.trans h.streams
  ports := k.ports.trans h.ports
  ring := k.ring.trans h.ring
  can := k.can.trans h.can
  lhp := k.lhp.trans h.lhp
  snaps := k.snaps.trans h.snaps
  memory := k.memory.trans h.memory
  logQ := k.logQ.trans h.logQ
  logSeq := k.logSeq.trans h.logSeq
  logAt := k.logAt.trans h.logAt
  gov := k.gov.trans h.gov
  job := k.job.trans h.job
  faultQ := k.faultQ.trans h.faultQ
  windows := k.windows.trans h.windows
  alive := k.alive.trans h.alive
  die := k.die.trans h.die
  shut := k.shut.trans h.shut
  sup := k.sup.trans h.sup
  doms := k.doms.trans h.doms
  otp := k.otp.trans h.otp
  store := k.store.trans h.store
  cals := k.cals.trans h.cals
  vern := k.vern.trans h.vern
  personas := k.personas.trans h.personas
  rd := fun r i j hk => (k.rd r i j hk).trans (h.rd r i j hk)

theorem SameExceptEvents.emit {s t : State} (h : SameExceptEvents s t) (o : Out) : SameExceptEvents s (t.emit o) := by
  obtain ⟨⟩ := h
  constructor <;> assumption

theorem SameExceptEvents.answer {s t : State} (h : SameExceptEvents s t) (p : Port) (code : Nat) (l : List Byte) :
    SameExceptEvents s (t.answer p code l) := h.emit _

theorem State.rd_wr_key (s : State) (q r : Row) (v : Int) (x y i j : Nat) (h : rowKey r i j = rowKey q x y) :
    (s.wr q v x y).rd r i j = if v = q.dflt x y then r.dflt i j else v := by
  simp only [State.rd, State.wr, aput, h]
  split <;> simp

theorem SameExceptEvents.wr {s t : State} (h : SameExceptEvents s t) (q : Row) (v : Int) (x y : Nat) :
    SameExceptEvents (s.wr q v x y) (t.wr q v x y) := by
  have hr := h.rd
  obtain ⟨⟩ := h
  constructor <;> try assumption
  intro r i j hk
  by_cases e : rowKey r i j = rowKey q x y
  · rw [State.rd_wr_key _ _ _ _ _ _ _ _ e, State.rd_wr_key _ _ _ _ _ _ _ _ e]
  · rw [State.rd_wr _ _ _ _ _ _ _ _ e, State.rd_wr _ _ _ _ _ _ _ _ e]
    exact hr r i j hk

theorem laneEmit_same (out : Nat) (bytes : List Byte) (cut : Bool) (h : out ≤ 1) :
    SameExceptEvents s (laneEmit s out bytes cut) ∧ (laneEmit s out bytes cut).dev = s.dev := by
  unfold laneEmit
  split
  · exact ⟨.refl s, rfl⟩
  · refine ⟨?_, rfl⟩
    constructor <;> try rfl
    intro r i j hk
    simp only [List.mem_cons, List.not_mem_nil, or_false, not_or] at hk
    have : rowKey r i j ≠ rowKey E.txFrames out 0 := by
      interval_cases out
      · exact hk.2.1
      · exact hk.2.2
    simp [State.count48, State.rd_wr _ _ _ _ _ _ _ _ this]

theorem laneQueue_same (out : Nat) (bytes : List Byte) (h : out ≤ 1) :
    SameExceptEvents s (laneQueue s out bytes) ∧ (laneQueue s out bytes).dev = s.dev := by
  unfold laneQueue
  simp only
  split
  · exact ⟨by constructor <;> intros <;> rfl, rfl⟩
  · exact laneEmit_same s out bytes false h

theorem outLane_le (ring out : Nat) (hr : ring ≤ 1) (h : outLane s ring = some out) : out ≤ 1 := by
  unfold outLane at h
  split at h
  · exact absurd h (by simp)
  · split at h
    · simp at h; omega
    · split at h <;> · simp at h; omega

theorem laneSend_same (ring : Nat) (bytes : List Byte) (h : ring ≤ 1) :
    SameExceptEvents s (laneSend s ring bytes) ∧ (laneSend s ring bytes).dev = s.dev := by
  unfold laneSend
  split
  · split
    · exact ⟨.refl s, rfl⟩
    · next out ho => exact laneQueue_same s out bytes (outLane_le s ring out h ho)
  · exact ⟨.refl s, rfl⟩

theorem sendFrame_same (ring cls dst seq : Nat) (payload : List Byte) (h : ring ≤ 1) :
    SameExceptEvents s (sendFrame s ring cls dst seq payload) ∧ (sendFrame s ring cls dst seq payload).dev = s.dev :=
  laneSend_same s ring _ h

theorem sendBoth_same (cls dst seq : Nat) (payload : List Byte) :
    SameExceptEvents s (sendBoth s cls dst seq payload) ∧ (sendBoth s cls dst seq payload).dev = s.dev := by
  have a := sendFrame_same s 0 cls dst seq payload (by omega)
  have b := sendFrame_same (sendFrame s 0 cls dst seq payload) 1 cls dst seq payload (by omega)
  exact ⟨a.1.trans b.1, b.2.trans a.2⟩

theorem raiseEvent_same (kind index sub value : Nat) :
    SameExceptEvents s (raiseEvent s kind index sub value) ∧ (raiseEvent s kind index sub value).dev = s.dev := by
  unfold raiseEvent
  simp only
  have key : ∀ u : State, (∀ t, u = t → SameExceptEvents s t ∧ t.dev = s.dev) → ∀ a b c d,
      SameExceptEvents s (if assigned u = true then sendBoth u a b c d else u) ∧
        (if assigned u = true then sendBoth u a b c d else u).dev = s.dev := by
    intro u hu a b c d
    have h := hu u rfl
    split
    · have k := sendBoth_same u a b c d
      exact ⟨h.1.trans k.1, k.2.trans h.2⟩
    · exact h
  apply key
  rintro t rfl
  have hw : SameExceptEvents s (s.wr E.eventSeq ((s.rdN E.eventSeq + 1) % 2 ^ 48)) := by
    constructor <;> try rfl
    intro r i j hk
    simp only [List.mem_cons, List.not_mem_nil, or_false, not_or] at hk
    simp [State.rd_wr _ _ _ _ _ _ _ _ hk.1]
  split
  · exact ⟨hw, rfl⟩
  · refine ⟨hw.trans ?_, rfl⟩
    constructor <;> intros <;> rfl

theorem maskedEvent_same (kind index sub value : Nat) :
    SameExceptEvents s (maskedEvent s kind index sub value) ∧ (maskedEvent s kind index sub value).dev = s.dev := by
  unfold maskedEvent
  split
  · exact raiseEvent_same s kind index sub value
  · exact ⟨.refl s, rfl⟩

/-- A change of the device state makes it the new one; besides the event nothing changes. -/
theorem setDev_same (d : DevState) : SameExceptEvents s (setDev s d) ∧ (setDev s d).dev = d := by
  unfold setDev
  split
  · next h => exact ⟨.refl s, h⟩
  · have h := maskedEvent_same { s with dev := d } 1 0x2000 1 (devCode d)
    exact ⟨by obtain ⟨⟩ := h.1; constructor <;> assumption, h.2⟩

end Sys2Proof.Machine
end

