-- ==== Sys2Proof/Laws/Keeps.lean ====
section
/-!
SUPPORT. What no meaning breaks: the queue stays as it is, the byte memory and the dictionary keep their form, TIME stays
a count of 48 bits, a programmed fuse bit and a seal stay programmed, the output trace only grows.
-/
namespace Sys2Proof.Machine

/-- What every operation keeps from one state to a later one. -/
structure Keeps (s t : State) : Prop where
  queue : t.pending = s.pending
  mem : Memory.wf s.mem = true → Memory.wf t.mem = true
  dict : rising s.dict → rising t.dict
  time : s.time < 2 ^ 48 → t.time < 2 ^ 48
  bits : ∀ w b, (fuseWord s w).data.testBit b = true → (fuseWord t w).data.testBit b = true
  seals : ∀ w, (fuseWord s w).sealed = true → (fuseWord t w).sealed = true
  sent : ∃ l, t.sent = l ++ s.sent

namespace Keeps

variable {s0 s t : State}

theorem refl (s : State) : Keeps s s := ⟨rfl, id, id, id, fun _ _ h => h, fun _ h => h, [], rfl⟩

theorem trans {u : State} (h : Keeps s t) (k : Keeps t u) : Keeps s u where
  queue := k.queue.trans h.queue
  mem := fun x => k.mem (h.mem x)
  dict := fun x => k.dict (h.dict x)
  time := fun x => k.time (h.time x)
  bits := fun w b x => k.bits w b (h.bits w b x)
  seals := fun w x => k.seals w (h.seals w x)
  sent := by
    obtain ⟨a, ha⟩ := h.sent
    obtain ⟨b, hb⟩ := k.sent
    exact ⟨b ++ a, by simp [ha, hb]⟩

/-- A step of an argument: what holds of s goes on to t when nothing of it changes. -/
theorem same (h : Keeps s0 s) (hq : t.pending = s.pending) (hm : t.mem = s.mem) (hd : t.dict = s.dict) (ht : t.time = s.time)
    (ho : t.otp.words = s.otp.words) (hs : t.sent = s.sent) : Keeps s0 t :=
  h.trans ⟨hq, fun x => hm ▸ x, fun x => hd ▸ x, fun x => ht ▸ x, fun w b x => by simpa [fuseWord, ho] using x,
    fun w x => by simpa [fuseWord, ho] using x, [], by simp [hs]⟩

/-- A state written out as an update of s keeps what s keeps. -/
theorem upd {tick : Nat} {acted : List (Target × Act)} {was : List (Nat × Int)} {fresh : Nat} {dev : DevState} {flagsSeen : Nat} {leftOut : Bool} {clkRoot : Bool}
    {straps : Straps} {encs : List (Nat × EncSt)} {trigs : List (Nat × TrigSt)} {ringPos : RingPosSt} {obs : ObsSt} {chans :
    List (Nat × Chan)} {engs : List (Nat × EngSt)} {secs : List (Nat × Section)} {loops : List (Nat × LoopSt)} {lathe : LatheSt} {dmas : List
    (Nat × DmaSt)} {streams : List (Nat × StreamSt)} {ports : List (Nat × PortSt)} {lanes : List (Nat × LaneSt)} {ring :
    RingSt} {can : CanSt} {lhp : LhpSt} {snaps : Snapshots} {memory : MemSt} {logQ : List (List Byte)} {logSeq : Nat} {logAt
    : Option Nat} {gov : GovSt} {job : JobSt} {faultQ : List FaultMsg} {windows : List Window} {events : List EventRec}
    {alive : Bool} {die : DieSt} {shut : Option Shutdown} {sup : SupSt} {doms : List (Nat × DomSt)} {otp : OtpSt} {store :
    StoreSt} {cals : List (Nat × CalSt)} {vern : VernSt} {personas : List (Nat × PersonaSt)}
    (ho : otp.words = s.otp.words) (h : Keeps s0 s) :
    Keeps s0 ⟨s.pending, tick, s.time, acted, was, s.sent, fresh, dev, flagsSeen, leftOut, clkRoot, straps, s.dict, s.mem, encs,
    trigs, ringPos, obs, chans, engs, secs, loops, lathe, dmas, streams, ports, lanes, ring, can, lhp, snaps, memory, logQ, logSeq,
    logAt, gov, job, faultQ, windows, events, alive, die, shut, sup, doms, otp, store, cals, vern, personas⟩ :=
  h.same rfl rfl rfl rfl ho rfl

/-- A state written out as an update of s that also clears memory or entries, or sets TIME. -/
theorem updAll {tick : Nat} {time : Nat} {acted : List (Target × Act)} {was : List (Nat × Int)} {fresh : Nat} {dev : DevState} {flagsSeen : Nat} {leftOut : Bool}
    {clkRoot : Bool} {straps : Straps} {dict : List (Nat × Int)} {mem : List Host.Cell} {encs : List (Nat × EncSt)} {trigs :
    List (Nat × TrigSt)} {ringPos : RingPosSt} {obs : ObsSt} {chans : List (Nat × Chan)} {engs : List (Nat × EngSt)} {secs :
    List (Nat × Section)} {loops : List (Nat × LoopSt)} {lathe : LatheSt} {dmas : List (Nat × DmaSt)} {streams : List (Nat × StreamSt)} {ports
    : List (Nat × PortSt)} {lanes : List (Nat × LaneSt)} {ring : RingSt} {can : CanSt} {lhp : LhpSt} {snaps : Snapshots}
    {memory : MemSt} {logQ : List (List Byte)} {logSeq : Nat} {logAt : Option Nat} {gov : GovSt} {job : JobSt} {faultQ :
    List FaultMsg} {windows : List Window} {events : List EventRec} {alive : Bool} {die : DieSt} {shut : Option Shutdown}
    {sup : SupSt} {doms : List (Nat × DomSt)} {otp : OtpSt} {store : StoreSt} {cals : List (Nat × CalSt)} {vern : VernSt} {personas : List
    (Nat × PersonaSt)}
    (hm : Memory.wf s.mem = true → Memory.wf mem = true) (hd : rising s.dict → rising dict) (ht : s.time < 2 ^ 48 → time
    < 2 ^ 48)
    (ho : otp.words = s.otp.words) (h : Keeps s0 s) :
    Keeps s0 ⟨s.pending, tick, time, acted, was, s.sent, fresh, dev, flagsSeen, leftOut, clkRoot, straps, dict, mem, encs, trigs,
    ringPos, obs, chans, engs, secs, loops, lathe, dmas, streams, ports, lanes, ring, can, lhp, snaps, memory, logQ, logSeq, logAt,
    gov, job, faultQ, windows, events, alive, die, shut, sup, doms, otp, store, cals, vern, personas⟩ :=
  h.trans ⟨rfl, hm, hd, ht, fun _ _ x => by simpa [fuseWord, ho] using x, fun _ x => by simpa [fuseWord, ho] using x,
    [], rfl⟩

theorem ite {c : Prop} [Decidable c] (h : Keeps s0 s) (k : Keeps s0 t) : Keeps s0 (if c then s else t) := by
  split <;> assumption

theorem foldl {α : Type} {f : State → α → State} (l : List α) (hf : ∀ s x, Keeps s0 s → Keeps s0 (f s x))
    (h : Keeps s0 s) : Keeps s0 (l.foldl f s) := by
  induction l generalizing s with
  | nil => exact h
  | cons x r ih => exact ih (hf s x h)

/-- A fold over a value that carries a state. -/
theorem foldlBy {α β : Type} (p : β → State) {f : β → α → β} (l : List α) {b : β}
    (hf : ∀ b x, Keeps s0 (p b) → Keeps s0 (p (f b x))) (h : Keeps s0 (p b)) : Keeps s0 (p (l.foldl f b)) := by
  induction l generalizing b with
  | nil => exact h
  | cons x r ih => exact ih (hf b x h)

theorem of_pair {α : Type} {f : α × State} {a : α} (e : f = (a, t)) (h : Keeps s0 f.2) : Keeps s0 t := by
  subst e; exact h

theorem of_fst {α : Type} {f : State × α} {a : α} (e : f = (t, a)) (h : Keeps s0 f.1) : Keeps s0 t := by
  subst e; exact h

theorem of_triple {α β : Type} {f : α × β × State} {a : α} {b : β} (e : f = (a, b, t)) (h : Keeps s0 f.2.2) : Keeps s0 t := by
  subst e; exact h

theorem of_quad {α β γ : Type} {f : α × β × γ × State} {a : α} {b : β} {c : γ} (e : f = (a, b, c, t))
    (h : Keeps s0 f.2.2.2) : Keeps s0 t := by
  subst e; exact h

theorem cut {P : Prop} (h : Keeps s0 s) (k : Keeps s0 s → P) : P := k h

end Keeps

variable {s0 s : State}

/-! ### The operations that change what is kept -/

theorem State.setBytes_keeps (a : Nat) (l : List Byte) (h : Keeps s0 s) : Keeps s0 (s.setBytes a l) :=
  h.trans ⟨rfl, Memory.wf_write l a, id, id, fun _ _ x => x, fun _ x => x, [], rfl⟩

theorem State.copyBytes_keeps (src dst n : Nat) (h : Keeps s0 s) : Keeps s0 (s.copyBytes src dst n) :=
  h.trans ⟨rfl, Memory.wf_copy src dst n, id, id, fun _ _ x => x, fun _ x => x, [], rfl⟩

theorem State.clearBytes_keeps (a n : Nat) (h : Keeps s0 s) : Keeps s0 (s.clearBytes a n) :=
  h.trans ⟨rfl, Memory.wf_clear a n, id, id, fun _ _ x => x, fun _ x => x, [], rfl⟩

theorem State.wr_keeps (r : Row) (v : Int) (i j : Nat) (h : Keeps s0 s) : Keeps s0 (s.wr r v i j) :=
  h.trans ⟨rfl, id, fun x => rising_aput _ _ _ x, id, fun _ _ x => x, fun _ x => x, [], rfl⟩

theorem State.emit_keeps (o : Out) (h : Keeps s0 s) : Keeps s0 (s.emit o) :=
  h.trans ⟨rfl, id, id, id, fun _ _ x => x, fun _ x => x, [o], rfl⟩

/-- A fuse word set so that no bit and no seal is lost. -/
theorem setFuseWord_keeps (w : Nat) (x : OtpWord) (hb : ∀ b, (fuseWord s w).data.testBit b = true → x.data.testBit b = true)
    (hs : (fuseWord s w).sealed = true → x.sealed = true) (h : Keeps s0 s) : Keeps s0 (setFuseWord s w x) := by
  refine h.trans ⟨rfl, id, id, id, fun v b hv => ?_, fun v hv => ?_, [], rfl⟩
  · by_cases e : v = w
    · subst e; simpa [fuseWord, setFuseWord] using hb b hv
    · simpa [fuseWord, setFuseWord, aget_ains_ne _ _ _ e] using hv
  · by_cases e : v = w
    · subst e; simpa [fuseWord, setFuseWord] using hs hv
    · simpa [fuseWord, setFuseWord, aget_ains_ne _ _ _ e] using hv

/-- Bits added to a fuse word. -/
theorem setFuseBits_keeps (w m syn : Nat) (sealed : Bool) (hs : (fuseWord s w).sealed = true → sealed = true)
    (hk : Keeps s0 s) : Keeps s0 (setFuseWord s w ⟨(fuseWord s w).data ||| m, syn, sealed⟩) :=
  setFuseWord_keeps _ _ (fun b hb => by simp [Nat.testBit_or, hb]) hs hk

end Sys2Proof.Machine
end

