-- ==== Sys2Proof/Laws/KeepsOps.lean ====
section
/-!
SUPPORT. What the operations of Ops.lean keep (`Keeps`).
-/
namespace Sys2Proof.Machine

variable {s0 s : State}
theorem State.wrHeld_keeps (r : Row) (v : Int) (i : Nat) (j : Nat) (hk : Keeps s0 s) : Keeps s0 (State.wrHeld s r v i j) := by
  unfold State.wrHeld
  repeat' first
    | with_reducible assumption
    | with_reducible apply State.wr_keeps
    | (with_reducible refine Keeps.upd rfl ?_; with_reducible assumption)


theorem State.count_keeps (r : Row) (i : Nat) (n : Nat) (hk : Keeps s0 s) : Keeps s0 (State.count s r i n) := by
  unfold State.count
  repeat' first
    | with_reducible assumption
    | with_reducible apply State.wr_keeps

theorem State.count48_keeps (r : Row) (i : Nat) (n : Nat) (hk : Keeps s0 s) : Keeps s0 (State.count48 s r i n) := by
  unfold State.count48
  repeat' first
    | with_reducible assumption
    | with_reducible apply State.wr_keeps

theorem State.count16_keeps (r : Row) (i : Nat) (n : Nat) (hk : Keeps s0 s) : Keeps s0 (State.count16 s r i n) := by
  unfold State.count16
  repeat' first
    | with_reducible assumption
    | with_reducible apply State.wr_keeps

theorem State.setChan_keeps (c : Nat) (x : Chan) (hk : Keeps s0 s) : Keeps s0 (State.setChan s c x) := by
  unfold State.setChan
  repeat' first
    | with_reducible assumption
    | (with_reducible refine Keeps.upd rfl ?_; first | with_reducible assumption)

theorem State.setEng_keeps (e : Nat) (x : EngSt) (hk : Keeps s0 s) : Keeps s0 (State.setEng s e x) := by
  unfold State.setEng
  repeat' first
    | with_reducible assumption
    | (with_reducible refine Keeps.upd rfl ?_; first | with_reducible assumption)

theorem State.setEnc_keeps (n : Nat) (x : EncSt) (hk : Keeps s0 s) : Keeps s0 (State.setEnc s n x) := by
  unfold State.setEnc
  repeat' first
    | with_reducible assumption
    | (with_reducible refine Keeps.upd rfl ?_; first | with_reducible assumption)

theorem State.setTrig_keeps (n : Nat) (x : TrigSt) (hk : Keeps s0 s) : Keeps s0 (State.setTrig s n x) := by
  unfold State.setTrig
  repeat' first
    | with_reducible assumption
    | (with_reducible refine Keeps.upd rfl ?_; first | with_reducible assumption)

theorem State.setLoop_keeps (l : Nat) (x : LoopSt) (hk : Keeps s0 s) : Keeps s0 (State.setLoop s l x) := by
  unfold State.setLoop
  repeat' first
    | with_reducible assumption
    | (with_reducible refine Keeps.upd rfl ?_; first | with_reducible assumption)

theorem State.setSec_keeps (n : Nat) (x : Section) (hk : Keeps s0 s) : Keeps s0 (State.setSec s n x) := by
  unfold State.setSec
  repeat' first
    | with_reducible assumption
    | (with_reducible refine Keeps.upd rfl ?_; first | with_reducible assumption)

theorem State.setDma_keeps (n : Nat) (x : DmaSt) (hk : Keeps s0 s) : Keeps s0 (State.setDma s n x) := by
  unfold State.setDma
  repeat' first
    | with_reducible assumption
    | (with_reducible refine Keeps.upd rfl ?_; first | with_reducible assumption)

theorem State.setStream_keeps (r : Nat) (x : StreamSt) (hk : Keeps s0 s) : Keeps s0 (State.setStream s r x) := by
  unfold State.setStream
  repeat' first
    | with_reducible assumption
    | (with_reducible refine Keeps.upd rfl ?_; first | with_reducible assumption)

theorem State.setPort_keeps (p : Nat) (x : PortSt) (hk : Keeps s0 s) : Keeps s0 (State.setPort s p x) := by
  unfold State.setPort
  repeat' first
    | with_reducible assumption
    | (with_reducible refine Keeps.upd rfl ?_; first | with_reducible assumption)

theorem State.setLane_keeps (i : Nat) (x : LaneSt) (hk : Keeps s0 s) : Keeps s0 (State.setLane s i x) := by
  unfold State.setLane
  repeat' first
    | with_reducible assumption
    | (with_reducible refine Keeps.upd rfl ?_; first | with_reducible assumption)

theorem State.setRank_keeps (r : Nat) (x : RankSt) (hk : Keeps s0 s) : Keeps s0 (State.setRank s r x) := by
  unfold State.setRank
  repeat' first
    | with_reducible assumption
    | (with_reducible refine Keeps.upd rfl ?_; first | with_reducible assumption)

theorem State.setCal_keeps (k : Nat) (x : CalSt) (hk : Keeps s0 s) : Keeps s0 (State.setCal s k x) := by
  unfold State.setCal
  repeat' first
    | with_reducible assumption
    | (with_reducible refine Keeps.upd rfl ?_; first | with_reducible assumption)

theorem State.setPersona_keeps (p : Nat) (x : PersonaSt) (hk : Keeps s0 s) : Keeps s0 (State.setPersona s p x) := by
  unfold State.setPersona
  repeat' first
    | with_reducible assumption
    | (with_reducible refine Keeps.upd rfl ?_; first | with_reducible assumption)

theorem State.answer_keeps (p : Port) (code : Nat) (data : List Byte) (hk : Keeps s0 s) : Keeps s0 (State.answer s p code data) := by
  unfold State.answer
  repeat' first
    | with_reducible assumption
    | with_reducible apply State.emit_keeps

theorem State.report_keeps (src kind addr : Nat) (hk : Keeps s0 s) : Keeps s0 (State.report s src kind addr) := by
  unfold State.report
  repeat' first
    | with_reducible assumption
    | (with_reducible refine Keeps.upd rfl ?_; first | with_reducible assumption)

theorem State.draw_keeps (hk : Keeps s0 s) : Keeps s0 (State.draw s).2 := by
  unfold State.draw
  repeat' first
    | with_reducible assumption
    | (with_reducible refine Keeps.upd rfl ?_; first | with_reducible assumption)

theorem State.act_keeps (t : Target) (a : Act) (hk : Keeps s0 s) : Keeps s0 (State.act s t a) := by
  unfold State.act
  repeat' first
    | with_reducible assumption
    | (with_reducible refine Keeps.upd rfl ?_; first | with_reducible assumption)

theorem State.stale_keeps (hk : Keeps s0 s) : Keeps s0 (State.stale s) := by
  unfold State.stale
  repeat' first
    | with_reducible assumption
    | (with_reducible refine Keeps.upd rfl ?_; first | with_reducible assumption)

end Sys2Proof.Machine
end

