-- ==== Sys2Proof/Laws/KeepsEvents.lean ====
section
/-!
SUPPORT. What the operations of Events.lean keep (`Keeps`).
-/
namespace Sys2Proof.Machine

variable {s0 s : State}

theorem laneEmit_keeps (out : Nat) (bytes : List Byte) (cut : Bool) (hk : Keeps s0 s) : Keeps s0 (laneEmit s out bytes cut) := by
  unfold laneEmit
  repeat' first
    | with_reducible assumption
    | with_reducible apply State.emit_keeps
    | with_reducible apply State.count48_keeps
    | split

theorem laneQueue_keeps (out : Nat) (bytes : List Byte) (hk : Keeps s0 s) : Keeps s0 (laneQueue s out bytes) := by
  unfold laneQueue
  repeat' first
    | with_reducible assumption
    | with_reducible apply State.setLane_keeps
    | with_reducible apply laneEmit_keeps
    | intro st
    | lift_lets
    | split

theorem laneSend_keeps (ring : Nat) (bytes : List Byte) (hk : Keeps s0 s) : Keeps s0 (laneSend s ring bytes) := by
  unfold laneSend
  repeat' first
    | with_reducible assumption
    | with_reducible apply laneQueue_keeps
    | split

theorem nextSeq_keeps (cls : Nat) (hk : Keeps s0 s) : Keeps s0 (nextSeq s cls).2 := by
  unfold nextSeq
  repeat' first
    | with_reducible assumption
    | (with_reducible refine Keeps.upd rfl ?_; first | with_reducible assumption)

theorem sendFrame_keeps (ring cls dst seq : Nat) (payload : List Byte) (hk : Keeps s0 s) : Keeps s0 (sendFrame s ring cls dst seq payload) := by
  unfold sendFrame
  repeat' first
    | with_reducible assumption
    | with_reducible apply laneSend_keeps

theorem sendBoth_keeps (cls dst seq : Nat) (payload : List Byte) (hk : Keeps s0 s) : Keeps s0 (sendBoth s cls dst seq payload) := by
  unfold sendBoth
  repeat' first
    | with_reducible assumption
    | with_reducible apply sendFrame_keeps

theorem raiseEvent_keeps (kind index sub value : Nat) (hk : Keeps s0 s) : Keeps s0 (raiseEvent s kind index sub value) := by
  unfold raiseEvent
  repeat' first
    | with_reducible assumption
    | with_reducible apply State.wr_keeps
    | with_reducible apply sendBoth_keeps
    | (with_reducible refine Keeps.upd rfl ?_; first | with_reducible assumption | with_reducible apply State.wr_keeps | with_reducible apply sendBoth_keeps)
    | (intro st; refine Keeps.cut (s0 := s0) (s := st) ?_ (fun hst => ?_); (on_goal 1 => simp only [st]); (on_goal 2 => clear_value st))
    | intro st
    | lift_lets
    | split

theorem maskedEvent_keeps (kind index sub value : Nat) (hk : Keeps s0 s) : Keeps s0 (maskedEvent s kind index sub value) := by
  unfold maskedEvent
  repeat' first
    | with_reducible assumption
    | with_reducible apply raiseEvent_keeps
    | split

theorem setDev_keeps (d : DevState) (hk : Keeps s0 s) : Keeps s0 (setDev s d) := by
  unfold setDev
  repeat' first
    | with_reducible assumption
    | with_reducible apply maskedEvent_keeps
    | (with_reducible refine Keeps.upd rfl ?_; first | with_reducible assumption | with_reducible apply maskedEvent_keeps)
    | split

end Sys2Proof.Machine
end

