-- ==== Sys2Proof/Laws/KeepsOperands.lean ====
section
/-!
SUPPORT. What the operations of Operands.lean keep (`Keeps`).
-/
namespace Sys2Proof.Machine

variable {s0 s : State}

theorem markStale_keeps {s' : State} (s : State) (r : Row) (i : Nat) (hk : Keeps s0 s') : Keeps s0 (markStale s s' r i) := by
  unfold markStale
  split
  · exact Keeps.upd rfl hk
  · exact hk

theorem State.reply_keeps (p : Port) (code : Nat) (data : List Byte) (hk : Keeps s0 s) : Keeps s0 (State.reply s p code data) := by
  unfold State.reply
  repeat' first
    | with_reducible assumption
    | with_reducible apply State.answer_keeps
    | split

theorem writeCode_keeps (discarded : Bool) (r : Row) (i j : Nat) (v : Int) (act : State → Nat × State) (hact : ∀ t, Keeps s0 t → Keeps s0 (act t).2) (hk : Keeps s0 s) : Keeps s0 (writeCode s discarded r i j v act).2 := by
  unfold writeCode
  repeat' first
    | with_reducible assumption
    | with_reducible apply hact
    | with_reducible apply markStale_keeps
    | (intro st; refine Keeps.cut (s0 := s0) (s := st.2) ?_ (fun hst => ?_); (on_goal 1 => simp only [st]); (on_goal 2 => clear_value st))
    | intro st
    | lift_lets
    | split

theorem writeIf_keeps (p : Port) (discarded : Bool) (r : Row) (i j : Nat) (v : Int) (act : State → Nat × State) (hact : ∀ t, Keeps s0 t → Keeps s0 (act t).2) (hk : Keeps s0 s) : Keeps s0 (writeIf s p discarded r i j v act) := by
  unfold writeIf
  repeat' first
    | with_reducible assumption
    | with_reducible apply hact
    | with_reducible apply State.reply_keeps
    | with_reducible apply writeCode_keeps
    | (intro st; refine Keeps.cut (s0 := s0) (s := st.2) ?_ (fun hst => ?_); (on_goal 1 => simp only [st]); (on_goal 2 => clear_value st))
    | intro st
    | lift_lets
    | split

theorem writeAs_keeps (p : Port) (t : Target) (r : Row) (i j : Nat) (v : Int) (act : State → Nat × State) (hact : ∀ t, Keeps s0 t → Keeps s0 (act t).2) (hk : Keeps s0 s) : Keeps s0 (writeAs s p t r i j v act) := by
  unfold writeAs
  repeat' first
    | with_reducible assumption
    | with_reducible apply hact
    | with_reducible apply writeIf_keeps

theorem blockAct_keeps (r : Row) (i ofs : Nat) (data : List Byte) (act : State → Nat × State) (hact : ∀ t, Keeps s0 t → Keeps s0 (act t).2) (hk : Keeps s0 s) : Keeps s0 (blockAct r i ofs data act s).2 := by
  unfold blockAct
  repeat' first
    | with_reducible assumption
    | with_reducible apply hact
    | with_reducible apply State.act_keeps
    | with_reducible apply State.stale_keeps
    | (intro st; refine Keeps.cut (s0 := s0) (s := st.2) ?_ (fun hst => ?_); (on_goal 1 => simp only [st]); (on_goal 2 => clear_value st))
    | intro st
    | lift_lets
    | split

theorem writeBlock_keeps (p : Port) (t : Target) (r : Row) (i ofs : Nat) (data : List Byte) (act : State → Nat × State) (hact : ∀ t, Keeps s0 t → Keeps s0 (act t).2) (hk : Keeps s0 s) : Keeps s0 (writeBlock s p t r i ofs data act) := by
  unfold writeBlock
  repeat' first
    | with_reducible assumption
    | with_reducible apply hact
    | with_reducible apply writeAs_keeps
    | with_reducible apply blockAct_keeps
    | with_reducible refine Keeps.foldl _ (fun _ _ _ => ?_) ?_
    | intro st

theorem sendResp_keeps (ring : Nat) (q : RingReq) (payload : List Byte) (hk : Keeps s0 s) : Keeps s0 (sendResp s ring q payload) := by
  unfold sendResp
  repeat' first
    | with_reducible assumption
    | with_reducible apply sendFrame_keeps

theorem keepWrite_keeps (q : RingReq) (code : Nat) (hk : Keeps s0 s) : Keeps s0 (keepWrite s q code) := by
  unfold keepWrite
  repeat' first
    | with_reducible assumption
    | (with_reducible refine Keeps.upd rfl ?_; first | with_reducible assumption)

theorem answerWrite_keeps (ring : Nat) (q : RingReq) (code : Nat) (hk : Keeps s0 s) : Keeps s0 (answerWrite s ring q code) := by
  unfold answerWrite
  repeat' first
    | with_reducible assumption
    | with_reducible apply sendResp_keeps
    | with_reducible apply keepWrite_keeps

theorem canEnded_keeps (hk : Keeps s0 s) : Keeps s0 (canEnded s) := by
  unfold canEnded
  repeat' first
    | with_reducible assumption
    | with_reducible apply State.stale_keeps
    | with_reducible apply State.wr_keeps
    | intro st
    | lift_lets
    | split

theorem lhpEnded_keeps (code : Nat) (hk : Keeps s0 s) : Keeps s0 (lhpEnded s code) := by
  unfold lhpEnded
  repeat' first
    | with_reducible assumption
    | (with_reducible refine Keeps.upd rfl ?_; first | with_reducible assumption)

theorem answerLater_keeps (p : Port) (key code : Nat) (hk : Keeps s0 s) : Keeps s0 (answerLater s p key code) := by
  unfold answerLater
  repeat' first
    | with_reducible assumption
    | with_reducible apply State.answer_keeps
    | with_reducible apply answerWrite_keeps
    | with_reducible apply canEnded_keeps
    | with_reducible apply lhpEnded_keeps
    | (with_reducible refine Keeps.upd rfl ?_; first | with_reducible assumption | with_reducible apply State.answer_keeps | with_reducible apply answerWrite_keeps | with_reducible apply canEnded_keeps | with_reducible apply lhpEnded_keeps)
    | (intro st; refine Keeps.cut (s0 := s0) (s := st) ?_ (fun hst => ?_); (on_goal 1 => simp only [st]); (on_goal 2 => clear_value st))
    | intro st
    | lift_lets
    | split

end Sys2Proof.Machine
end

