-- ==== Sys2Proof/Laws/KeepsCalib.lean ====
section
/-!
SUPPORT. What the operations of Calib.lean keep (`Keeps`).
-/
namespace Sys2Proof.Machine

variable {s0 s : State}

theorem calTrigger_keeps (k : Nat) (hk : Keeps s0 s) : Keeps s0 (calTrigger s k) := by
  unfold calTrigger
  repeat' first
    | with_reducible assumption
    | with_reducible apply State.wr_keeps
    | with_reducible apply State.setCal_keeps
    | (intro st; refine Keeps.cut (s0 := s0) (s := st) ?_ (fun hst => ?_); (on_goal 1 => simp only [st]); (on_goal 2 => clear_value st))
    | intro st
    | lift_lets
    | split

theorem calTemperature_keeps (hk : Keeps s0 s) : Keeps s0 (calTemperature s) := by
  unfold calTemperature
  repeat' first
    | with_reducible assumption
    | with_reducible apply calTrigger_keeps
    | with_reducible refine Keeps.foldl _ (fun _ _ _ => ?_) ?_
    | split

end Sys2Proof.Machine
end

