-- ==== Sys2Proof/Laws/KeepsOtpArray.lean ====
section
/-!
SUPPORT. What the operations of OtpArray.lean keep (`Keeps`).
-/
namespace Sys2Proof.Machine

variable {s0 s : State}

theorem senseWord_keeps (w : Nat) (weak : Bool) (hk : Keeps s0 s) : Keeps s0 (senseWord s w weak) := by
  unfold senseWord
  repeat' first
    | with_reducible assumption
    | with_reducible apply State.report_keeps
    | (with_reducible refine Keeps.upd rfl ?_; first | with_reducible assumption | with_reducible apply State.report_keeps)
    | (intro st; refine Keeps.cut (s0 := s0) (s := st) ?_ (fun hst => ?_); (on_goal 1 => simp only [st]); (on_goal 2 => clear_value st))
    | intro st
    | lift_lets
    | split

theorem blow_keeps (w mask : Nat) (hk : Keeps s0 s) : Keeps s0 (blow s w mask) :=
  setFuseWord_keeps _ _ (fun b hb => by simp [Nat.testBit_or, hb]) id hk

theorem blowBit_keeps (w b : Nat) (hk : Keeps s0 s) : Keeps s0 (blowBit s w b) := by
  unfold blowBit
  split
  · exact blow_keeps _ _ hk
  · split
    · exact setFuseWord_keeps _ _ (fun _ h => h) (fun _ => rfl) hk
    · exact hk

theorem tallyBurn_keeps (w l : Nat) (hk : Keeps s0 s) : Keeps s0 (tallyBurn s w l) := by
  unfold tallyBurn
  repeat' first
    | with_reducible assumption
    | with_reducible apply senseWord_keeps
    | with_reducible apply blow_keeps
    | (with_reducible refine Keeps.upd rfl ?_; first | with_reducible assumption | with_reducible apply senseWord_keeps | with_reducible apply blow_keeps)
    | split

theorem tallyRecord_keeps (words : List Nat) (valid fields : Nat) (hk : Keeps s0 s) : Keeps s0 (tallyRecord s words valid fields) := by
  unfold tallyRecord
  repeat' first
    | with_reducible assumption
    | with_reducible apply tallyBurn_keeps
    | split

theorem recordRetirement_keeps (rank : Nat) (spare : Option Nat) (hk : Keeps s0 s) : Keeps s0 (recordRetirement s rank spare) := by
  unfold recordRetirement
  repeat' first
    | with_reducible assumption
    | with_reducible apply tallyRecord_keeps
    | (intro st; refine Keeps.cut (s0 := s0) (s := st) ?_ (fun hst => ?_); (on_goal 1 => simp only [st]); (on_goal 2 => clear_value st))
    | intro st
    | lift_lets
    | split

theorem burnTrip_keeps (hk : Keeps s0 s) : Keeps s0 (burnTrip s) := by
  unfold burnTrip
  repeat' first
    | with_reducible assumption
    | with_reducible apply tallyBurn_keeps
    | split

end Sys2Proof.Machine
end

