-- ==== Sys2Proof/Laws/KeepsPersona.lean ====
section
/-!
SUPPORT. What the operations of Persona.lean keep (`Keeps`).
-/
namespace Sys2Proof.Machine

variable {s0 s : State}

theorem lineEdge_keeps (p t : Nat) (hk : Keeps s0 s) : Keeps s0 (lineEdge s p t) := by
  unfold lineEdge
  repeat' first
    | with_reducible assumption
    | with_reducible apply State.setPersona_keeps
    | intro st
    | lift_lets
    | split

end Sys2Proof.Machine
end

