-- ==== Sys2Proof/Laws/KeepsSolve.lean ====
section
/-!
SUPPORT. What the operations of Solve.lean keep (`Keeps`).
-/
namespace Sys2Proof.Machine

variable {s0 s : State}

theorem roundWord_keeps (x : Rat) (hk : Keeps s0 s) : Keeps s0 (roundWord s x).2 := by
  unfold roundWord
  repeat' first
    | with_reducible assumption
    | (with_reducible refine Keeps.upd rfl ?_; first | with_reducible assumption)
    | split

end Sys2Proof.Machine
end

