-- ==== Sys2Proof/Laws/KeepsPageMap.lean ====
section
/-!
SUPPORT. What the operations of PageMap.lean keep (`Keeps`).
-/
namespace Sys2Proof.Machine

variable {s0 s : State}

theorem setPageEntry_keeps (p v : Nat) (hk : Keeps s0 s) : Keeps s0 (setPageEntry s p v) := by
  unfold setPageEntry
  repeat' first
    | with_reducible assumption
    | (with_reducible refine Keeps.upd rfl ?_; first | with_reducible assumption)

theorem touchRank_keeps (rank n : Nat) (write : Bool) (hk : Keeps s0 s) : Keeps s0 (touchRank s rank n write) := by
  unfold touchRank
  repeat' first
    | with_reducible assumption
    | with_reducible apply State.setRank_keeps
    | (with_reducible refine Keeps.upd rfl ?_; first | with_reducible assumption | with_reducible apply State.setRank_keeps)

theorem wakeRank_keeps (rank : Nat) (hk : Keeps s0 s) : Keeps s0 (wakeRank s rank) := by
  unfold wakeRank
  repeat' first
    | with_reducible assumption
    | with_reducible apply State.setRank_keeps
    | intro st
    | lift_lets
    | split

theorem touchRead_keeps (a n : Nat) (hk : Keeps s0 s) : Keeps s0 (touchRead s a n) := by
  unfold touchRead
  repeat' first
    | with_reducible assumption
    | with_reducible apply touchRank_keeps
    | with_reducible refine Keeps.foldl _ (fun _ _ _ => ?_) ?_
    | split

theorem dramWrite_keeps (phys : Nat) (data : List Byte) (hk : Keeps s0 s) : Keeps s0 (dramWrite s phys data) := by
  unfold dramWrite
  repeat' first
    | with_reducible assumption
    | with_reducible apply State.setBytes_keeps
    | (with_reducible refine Keeps.upd rfl ?_; first | with_reducible assumption | with_reducible apply State.setBytes_keeps)

theorem logicalPut_keeps (a : Nat) (data : List Byte) (hk : Keeps s0 s) : Keeps s0 (logicalPut s a data) := by
  unfold logicalPut
  repeat' first
    | with_reducible assumption
    | with_reducible apply touchRank_keeps
    | with_reducible apply dramWrite_keeps
    | (intro st; refine Keeps.cut (s0 := s0) (s := st) ?_ (fun hst => ?_); (on_goal 1 => simp only [st]); (on_goal 2 => clear_value st))
    | intro st
    | lift_lets
    | split

theorem logicalWrite_keeps (a : Nat) (data : List Byte) (hk : Keeps s0 s) : Keeps s0 (logicalWrite s a data) := by
  unfold logicalWrite
  repeat' first
    | with_reducible assumption
    | with_reducible apply logicalPut_keeps
    | with_reducible refine Keeps.foldl _ (fun _ _ _ => ?_) ?_

theorem holdWrite_keeps (w : WaitingWrite) (hk : Keeps s0 s) : Keeps s0 (holdWrite s w) := by
  unfold holdWrite
  repeat' first
    | with_reducible assumption
    | (with_reducible refine Keeps.upd rfl ?_; first | with_reducible assumption)

end Sys2Proof.Machine
end

