-- ==== Sys2Proof/Laws/KeepsSections.lean ====
section
/-!
SUPPORT. What the operations of Sections.lean keep (`Keeps`).
-/
namespace Sys2Proof.Machine

variable {s0 s : State}

theorem latheReport_keeps (kind l slot : Nat) (hk : Keeps s0 s) : Keeps s0 (latheReport s kind l slot) := by
  unfold latheReport
  repeat' first
    | with_reducible assumption
    | with_reducible apply State.report_keeps

theorem latheWork_keeps (n : Nat) (hk : Keeps s0 s) : Keeps s0 (latheWork s n) := by
  unfold latheWork
  repeat' first
    | with_reducible assumption
    | (with_reducible refine Keeps.upd rfl ?_; first | with_reducible assumption)

theorem runChain_keeps (lim y1 y2 : Int) (n k : Nat) (x : Int) (hk : Keeps s0 s) : Keeps s0 (runChain lim y1 y2 n k x s).1 := by
  induction n generalizing k x s with
  | zero => exact hk
  | succ n ih => exact ih _ _ (Keeps.upd rfl hk)

theorem noteSaturation_keeps (l : Nat) (slots : List Nat) (hk : Keeps s0 s) : Keeps s0 (noteSaturation s l slots) := by
  unfold noteSaturation
  repeat' first
    | with_reducible assumption
    | with_reducible apply State.count_keeps
    | with_reducible apply State.setLoop_keeps
    | with_reducible apply latheReport_keeps
    | (intro st; refine Keeps.cut (s0 := s0) (s := st) ?_ (fun hst => ?_); (on_goal 1 => simp only [st]); (on_goal 2 => clear_value st))
    | intro st
    | lift_lets
    | split

theorem setHistory_keeps (v : Int) (n k : Nat) (hk : Keeps s0 s) : Keeps s0 (setHistory v n k s) := by
  induction n generalizing k s with
  | zero => exact hk
  | succ n ih => exact ih _ (Keeps.upd rfl hk)

theorem heaterStart_keeps (c : Nat) (hk : Keeps s0 s) : Keeps s0 (heaterStart s c) := by
  unfold heaterStart
  repeat' first
    | with_reducible assumption
    | with_reducible apply State.setLoop_keeps
    | with_reducible apply State.wr_keeps
    | with_reducible apply setHistory_keeps

theorem takeHandover_keeps (l : Nat) (hk : Keeps s0 s) : Keeps s0 (takeHandover s l) := by
  unfold takeHandover
  repeat' first
    | with_reducible assumption
    | with_reducible apply State.setLoop_keeps

theorem logSample_keeps (l : Nat) (held : Bool) (out : Int) (hk : Keeps s0 s) : Keeps s0 (logSample s l held out) := by
  unfold logSample
  repeat' first
    | with_reducible assumption
    | with_reducible apply State.count_keeps
    | with_reducible apply State.setLoop_keeps
    | with_reducible apply latheReport_keeps
    | (with_reducible refine Keeps.upd rfl ?_; first | with_reducible assumption | with_reducible apply State.count_keeps | with_reducible apply State.setLoop_keeps | with_reducible apply latheReport_keeps)
    | (intro st; refine Keeps.cut (s0 := s0) (s := st) ?_ (fun hst => ?_); (on_goal 1 => simp only [st]); (on_goal 2 => clear_value st))
    | intro st
    | lift_lets
    | split

theorem noteStill_keeps (l : Nat) (held : Bool) (hk : Keeps s0 s) : Keeps s0 (noteStill s l held) :=
  State.setLoop_keeps _ _ hk

theorem holdSample_keeps (l : Nat) (hk : Keeps s0 s) : Keeps s0 (holdSample s l) := by
  unfold holdSample
  repeat' first
    | with_reducible assumption
    | with_reducible apply State.count_keeps
    | with_reducible apply noteStill_keeps
    | with_reducible apply logSample_keeps

end Sys2Proof.Machine
end

