-- ==== Sys2Proof/Laws/KeepsDomains.lean ====
section
/-!
SUPPORT. What the operations of Domains.lean keep (`Keeps`).
-/
namespace Sys2Proof.Machine

variable {s0 s : State}

theorem clearGroupSpace_keeps (base g : Nat) (hk : Keeps s0 s) : Keeps s0 (clearGroupSpace base g s) := by
  unfold clearGroupSpace
  repeat' first
    | with_reducible assumption
    | with_reducible apply State.clearBytes_keeps

theorem clearGroup_keeps (g : Nat) (hk : Keeps s0 s) : Keeps s0 (clearGroup g s) := by
  unfold clearGroup
  repeat' first
    | with_reducible assumption
    | with_reducible apply clearGroupSpace_keeps
    | (with_reducible refine Keeps.upd rfl ?_; first | with_reducible assumption | with_reducible apply clearGroupSpace_keeps)

theorem clearRanks_keeps (a n : Nat) (keep : Bool) (hk : Keeps s0 s) : Keeps s0 (clearRanks a n keep s) := by
  unfold clearRanks
  repeat' first
    | with_reducible assumption
    | with_reducible apply State.clearBytes_keeps
    | (with_reducible refine Keeps.upd rfl ?_; first | with_reducible assumption | with_reducible apply State.clearBytes_keeps)

theorem clearUnits_keeps (d : Nat) (hk : Keeps s0 s) : Keeps s0 (clearUnits d s) := by
  unfold clearUnits
  split
  · exact Keeps.upd rfl hk
  split
  · exact Keeps.upd rfl hk
  split
  · exact Keeps.upd rfl (clearRanks_keeps _ _ _ hk)
  split
  · exact clearRanks_keeps _ _ _ hk
  split
  · exact Keeps.upd rfl (clearRanks_keeps _ _ _ hk)
  split
  · exact clearGroup_keeps _ hk
  split
  · exact Keeps.updAll id id (fun _ => by norm_num) rfl hk
  split
  · exact Keeps.upd rfl (State.clearBytes_keeps _ _ (State.clearBytes_keeps _ _ hk))
  · exact hk

theorem groupHeaters_keeps (g : Nat) (hk : Keeps s0 s) : Keeps s0 (groupHeaters g s) := by
  unfold groupHeaters
  repeat' first
    | with_reducible assumption
    | with_reducible apply State.wr_keeps
    | with_reducible apply heaterStart_keeps
    | with_reducible refine Keeps.foldl _ (fun _ _ _ => ?_) ?_
    | intro st
    | lift_lets
    | split

theorem clearDomain_keeps (d : Nat) (hk : Keeps s0 s) : Keeps s0 (clearDomain d s) := by
  unfold clearDomain
  have hu := clearUnits_keeps d hk
  generalize clearUnits d s = u at hu ⊢
  dsimp only
  split
  · exact groupHeaters_keeps _ (State.stale_keeps (Keeps.updAll id (fun h => rising_filter _ h) id rfl hu))
  · exact State.stale_keeps (Keeps.updAll id (fun h => rising_filter _ h) id rfl hu)

theorem setDom_keeps (d st : Nat) (hk : Keeps s0 s) : Keeps s0 (setDom s d st) := by
  unfold setDom
  repeat' first
    | with_reducible assumption
    | (with_reducible refine Keeps.upd rfl ?_; first | with_reducible assumption)

theorem setWaiting_keeps (d : Nat) (w : Bool) (hk : Keeps s0 s) : Keeps s0 (setWaiting s d w) := by
  unfold setWaiting
  repeat' first
    | with_reducible assumption
    | (with_reducible refine Keeps.upd rfl ?_; first | with_reducible assumption)

theorem nextPowerUp_keeps (hk : Keeps s0 s) : Keeps s0 (nextPowerUp s) := by
  unfold nextPowerUp
  repeat' first
    | with_reducible assumption
    | with_reducible apply setDom_keeps
    | with_reducible apply setWaiting_keeps
    | split

theorem requestUp_keeps (d : Nat) (hk : Keeps s0 s) : Keeps s0 (requestUp s d) := by
  unfold requestUp
  repeat' first
    | with_reducible assumption
    | with_reducible apply setWaiting_keeps
    | with_reducible apply nextPowerUp_keeps
    | split

theorem dropPowerUp_keeps (d : Nat) (hk : Keeps s0 s) : Keeps s0 (dropPowerUp s d) := by
  unfold dropPowerUp
  repeat' first
    | with_reducible assumption
    | with_reducible apply clearDomain_keeps
    | with_reducible apply setDom_keeps
    | split

theorem beginDown_keeps (d : Nat) (hk : Keeps s0 s) : Keeps s0 (beginDown s d) := by
  unfold beginDown
  repeat' first
    | with_reducible assumption
    | with_reducible apply setDom_keeps
    | with_reducible apply setWaiting_keeps
    | with_reducible apply dropPowerUp_keeps
    | split

end Sys2Proof.Machine
end

