-- ==== Sys2Proof/Laws/KeepsFeed.lean ====
section
/-!
SUPPORT. What the operations of Feed.lean keep (`Keeps`).
-/
namespace Sys2Proof.Machine

variable {s0 s : State}

theorem askLine_keeps (c n : Nat) (hk : Keeps s0 s) : Keeps s0 (askLine s c n) := by
  unfold askLine
  repeat' first
    | with_reducible assumption
    | with_reducible apply State.count_keeps
    | with_reducible apply State.setChan_keeps
    | (intro st; refine Keeps.cut (s0 := s0) (s := st) ?_ (fun hst => ?_); (on_goal 1 => simp only [st]); (on_goal 2 => clear_value st))
    | intro st
    | lift_lets
    | split

theorem askUpTo_keeps (c n : Nat) (hk : Keeps s0 s) : Keeps s0 (askUpTo s c n) := by
  unfold askUpTo
  repeat' first
    | with_reducible assumption
    | with_reducible apply askLine_keeps
    | with_reducible refine Keeps.foldl _ (fun _ _ _ => ?_) ?_

theorem releaseTo_keeps (c n : Nat) (hk : Keeps s0 s) : Keeps s0 (releaseTo s c n) := by
  unfold releaseTo
  repeat' first
    | with_reducible assumption
    | with_reducible apply State.setChan_keeps

theorem landLine_keeps (c n : Nat) (damaged rep : Bool) (data : List Byte) (hk : Keeps s0 s) : Keeps s0 (landLine s c n damaged rep data) := by
  unfold landLine
  repeat' first
    | with_reducible assumption
    | with_reducible apply State.setChan_keeps

theorem landDamaged_keeps (c e n : Nat) (hk : Keeps s0 s) : Keeps s0 (landDamaged s c e n) := by
  unfold landDamaged
  repeat' first
    | with_reducible assumption
    | with_reducible apply State.count_keeps
    | with_reducible apply State.setPersona_keeps
    | with_reducible apply State.report_keeps
    | with_reducible apply landLine_keeps
    | intro st
    | lift_lets
    | split

theorem acceptRequests_keeps (k : Nat) (f : Fetch) (hk : Keeps s0 s) : Keeps s0 (acceptRequests k s f).1 := by
  induction k generalizing s f with
  | zero => exact hk
  | succ k ih =>
    unfold acceptRequests
    dsimp only
    split
    · exact hk
    · split
      · exact hk
      · exact hk
      · exact ih _ (touchRank_keeps _ _ _ hk)

theorem acceptLines_keeps (l : List Fetch) (free : Nat) (hk : Keeps s0 s) : Keeps s0 (acceptLines l free s).1 := by
  induction l generalizing s free with
  | nil => exact hk
  | cons f r ih =>
    unfold acceptLines
    dsimp only
    split
    · exact ih _ (acceptRequests_keeps _ _ hk)
    · exact acceptRequests_keeps _ _ hk

theorem pumpFeed_keeps (c : Nat) (hk : Keeps s0 s) : Keeps s0 (pumpFeed s c) := by
  unfold pumpFeed
  repeat' first
    | with_reducible assumption
    | with_reducible apply State.setChan_keeps
    | with_reducible apply acceptLines_keeps

theorem feedFetchAct_keeps (c : Nat) (hk : Keeps s0 s) : Keeps s0 (feedFetchAct c s) := by
  unfold feedFetchAct
  try dsimp only
  repeat' first
    | with_reducible assumption
    | with_reducible apply State.report_keeps
    | with_reducible apply State.setChan_keeps
    | with_reducible apply State.wr_keeps
    | with_reducible apply landLine_keeps
    | with_reducible apply pumpFeed_keeps
    | intro st
    | lift_lets
    | split

theorem feedReadyAct_keeps (c : Nat) (ecc : EccResult) (hk : Keeps s0 s) : Keeps s0 (feedReadyAct c ecc s) := by
  unfold feedReadyAct
  repeat' first
    | with_reducible assumption
    | with_reducible apply landDamaged_keeps
    | with_reducible apply landLine_keeps
    | with_reducible apply pumpFeed_keeps
    | (intro st; refine Keeps.cut (s0 := s0) (s := st) ?_ (fun hst => ?_); (on_goal 1 => simp only [st]); (on_goal 2 => clear_value st))
    | intro st
    | lift_lets
    | split

theorem feedTimeoutAct_keeps (c : Nat) (hk : Keeps s0 s) : Keeps s0 (feedTimeoutAct c s) := by
  unfold feedTimeoutAct
  repeat' first
    | with_reducible assumption
    | with_reducible apply State.report_keeps
    | with_reducible apply landDamaged_keeps
    | with_reducible apply pumpFeed_keeps
    | intro st
    | lift_lets
    | split

end Sys2Proof.Machine
end

