-- ==== Sys2Proof/Laws/KeepsHeadLink.lean ====
section
/-!
SUPPORT. What the operations of HeadLink.lean keep (`Keeps`).
-/
namespace Sys2Proof.Machine

variable {s0 s : State}
theorem sendBlocks_keeps (c : Nat) (b : Built) (upTo : Option Nat) (hk : Keeps s0 s) : Keeps s0 (sendBlocks s c b upTo) := by
  unfold sendBlocks
  repeat' first
    | with_reducible assumption
    | with_reducible apply State.emit_keeps
    | with_reducible apply State.setChan_keeps
    | intro st
    | lift_lets
    | split

theorem sendShift_keeps (c : Nat) (b : Built) (upTo : Option Nat) (hk : Keeps s0 s) : Keeps s0 (sendShift s c b upTo) := by
  unfold sendShift
  repeat' first
    | with_reducible assumption
    | with_reducible apply State.emit_keeps

theorem sendBuilt_keeps (c : Nat) (upTo : Option Nat) (hk : Keeps s0 s) : Keeps s0 (sendBuilt s c upTo) := by
  unfold sendBuilt
  repeat' first
    | with_reducible assumption
    | with_reducible apply sendBlocks_keeps
    | with_reducible apply sendShift_keeps
    | intro st
    | lift_lets
    | split

theorem sendIdle_keeps (c e : Nat) (hk : Keeps s0 s) : Keeps s0 (sendIdle s c e) := by
  unfold sendIdle
  repeat' first
    | with_reducible assumption
    | with_reducible apply State.emit_keeps
    | with_reducible apply State.setChan_keeps

theorem stepTap_keeps (c lane : Nat) (hk : Keeps s0 s) : Keeps s0 (stepTap s c lane) := by
  unfold stepTap
  repeat' first
    | with_reducible assumption
    | with_reducible apply State.setBytes_keeps
    | intro st
    | lift_lets
    | split

theorem deskewStep_keeps (c : Nat) (hk : Keeps s0 s) : Keeps s0 (deskewStep s c) := by
  unfold deskewStep
  repeat' first
    | with_reducible assumption
    | with_reducible apply State.setChan_keeps
    | with_reducible apply stepTap_keeps
    | with_reducible refine Keeps.foldl _ (fun _ _ _ => ?_) ?_
    | (intro st; refine Keeps.cut (s0 := s0) (s := st) ?_ (fun hst => ?_); (on_goal 1 => simp only [st]); (on_goal 2 => clear_value st))
    | intro st
    | lift_lets
    | split

end Sys2Proof.Machine
end

