-- ==== Sys2Proof/Laws/KeepsHealthMap.lean ====
section
/-!
SUPPORT. What the operations of HealthMap.lean keep (`Keeps`).
-/
namespace Sys2Proof.Machine

variable {s0 s : State}

theorem State.setHealth_keeps (e n v : Nat) (hk : Keeps s0 s) : Keeps s0 (State.setHealth s e n v) := by
  unfold State.setHealth
  repeat' first
    | with_reducible assumption
    | with_reducible apply State.setBytes_keeps

theorem setStitchShadow_keeps (e n v : Nat) (hk : Keeps s0 s) : Keeps s0 (setStitchShadow s e n v) := by
  unfold setStitchShadow
  repeat' first
    | with_reducible assumption
    | with_reducible apply State.setBytes_keeps

theorem Fold.put_keeps (a : Fold) (e n v : Nat) (hk : Keeps s0 a.st) : Keeps s0 (a.put e n v).st :=
  State.setBytes_keeps _ _ hk

theorem foldEntry_keeps (set : List Nat) (c x : Nat) (a : Fold) (f : Nat) (hk : Keeps s0 a.st) :
    Keeps s0 (foldEntry set c x a f).st := by
  have marks (o : Option (Nat × Nat)) (b : Fold) (h : Keeps s0 b.st) :
      Keeps s0 (o.elim b (fun g => b.mark x g.1 g.2 true)).st := by cases o <;> exact h
  unfold foldEntry
  dsimp only
  repeat' first
    | exact hk
    | exact marks _ _ (Fold.put_keeps _ _ _ _ hk)
    | exact Fold.put_keeps _ _ _ _ hk
    | exact Fold.put_keeps _ _ _ _ (marks _ _ (Fold.put_keeps _ _ _ _ hk))
    | exact Fold.put_keeps _ _ _ _ (Fold.put_keeps _ _ _ _ hk)
    | split

theorem runFold_keeps (g : Nat) (set : List Nat) (hk : Keeps s0 s) : Keeps s0 (runFold s g set).st := by
  refine Keeps.foldlBy Fold.st _ (fun a i h => ?_) hk
  split
  · exact h
  · exact Keeps.foldlBy Fold.st _ (fun _ _ h => foldEntry_keeps _ _ _ _ _ h) h

end Sys2Proof.Machine
end

