-- ==== Sys2Proof/Laws/KeepsTables.lean ====
section
/-!
SUPPORT. What the operations of Tables.lean keep (`Keeps`).
-/
namespace Sys2Proof.Machine

variable {s0 s : State}
theorem ampTarget_keeps (c : Nat) (hk : Keeps s0 s) : Keeps s0 (ampTarget s c) := by
  unfold ampTarget
  repeat' first
    | with_reducible assumption
    | with_reducible apply State.wr_keeps
    | intro st
    | lift_lets
    | split

theorem ampLimits_keeps (c : Nat) (hk : Keeps s0 s) : Keeps s0 (ampLimits s c) := by
  unfold ampLimits
  try dsimp only
  repeat' first
    | with_reducible assumption
    | with_reducible apply State.setChan_keeps
    | with_reducible apply State.wr_keeps
    | intro st
    | lift_lets
    | split

theorem ampSettings_keeps (c : Nat) (hk : Keeps s0 s) : Keeps s0 (ampSettings s c) := by
  unfold ampSettings
  repeat' first
    | with_reducible assumption
    | with_reducible apply ampLimits_keeps
    | with_reducible apply ampTarget_keeps

theorem allAmpSettings_keeps (hk : Keeps s0 s) : Keeps s0 (allAmpSettings s) := by
  unfold allAmpSettings
  repeat' first
    | with_reducible assumption
    | with_reducible apply ampSettings_keeps
    | with_reducible refine Keeps.foldl _ (fun _ _ _ => ?_) ?_

theorem allAmpLimits_keeps (hk : Keeps s0 s) : Keeps s0 (allAmpLimits s) := by
  unfold allAmpLimits
  repeat' first
    | with_reducible assumption
    | with_reducible apply ampLimits_keeps
    | with_reducible refine Keeps.foldl _ (fun _ _ _ => ?_) ?_

theorem shadowWrite_keeps (e : Nat) (t : Table) (ofs : Nat) (data : List Byte) (port : Option Port) (hk : Keeps s0 s) : Keeps s0 (shadowWrite s e t ofs data port).2 := by
  unfold shadowWrite
  repeat' first
    | with_reducible assumption
    | with_reducible apply State.setBytes_keeps
    | with_reducible apply State.setEng_keeps
    | intro st
    | lift_lets
    | split

theorem beginFold_keeps (e : Nat) (hk : Keeps s0 s) : Keeps s0 (beginFold s e) := by
  unfold beginFold
  exact Keeps.foldl _ (fun _ _ h => State.setEng_keeps _ _ h)
    (Keeps.foldl _ (fun _ _ h => State.setEng_keeps _ _ h) (runFold_keeps _ _ hk))

theorem requestStitch_keeps (e : Nat) (hk : Keeps s0 s) : Keeps s0 (requestStitch s e) := by
  unfold requestStitch
  repeat' first
    | with_reducible assumption
    | with_reducible apply State.setEng_keeps
    | with_reducible apply beginFold_keeps
    | (intro st; refine Keeps.cut (s0 := s0) (s := st) ?_ (fun hst => ?_); (on_goal 1 => simp only [st]); (on_goal 2 => clear_value st))
    | intro st
    | lift_lets
    | split

theorem requestPlain_keeps (e : Nat) (t : Table) (hk : Keeps s0 s) : Keeps s0 (requestPlain s e t) := by
  unfold requestPlain
  repeat' first
    | with_reducible assumption
    | with_reducible apply State.setEng_keeps

theorem requestWave_keeps (e : Nat) (hk : Keeps s0 s) : Keeps s0 (requestWave s e).2 := by
  unfold requestWave
  repeat' first
    | with_reducible assumption
    | with_reducible apply State.wr_keeps
    | with_reducible apply requestPlain_keeps
    | (intro st; refine Keeps.cut (s0 := s0) (s := st) ?_ (fun hst => ?_); (on_goal 1 => simp only [st]); (on_goal 2 => clear_value st))
    | intro st
    | lift_lets
    | split

theorem requestCommit_keeps (t : Table) (e : Nat) (hk : Keeps s0 s) : Keeps s0 (requestCommit t e s).2 := by
  unfold requestCommit
  repeat' first
    | with_reducible assumption
    | with_reducible apply requestStitch_keeps
    | with_reducible apply requestPlain_keeps
    | with_reducible apply requestWave_keeps
    | split

theorem tableCommitAct_keeps (e v : Nat) (hk : Keeps s0 s) : Keeps s0 (tableCommitAct e v s).2 := by
  unfold tableCommitAct
  repeat' first
    | with_reducible assumption
    | with_reducible apply requestStitch_keeps
    | with_reducible apply requestPlain_keeps
    | with_reducible apply requestWave_keeps
    | (intro st; refine Keeps.cut (s0 := s0) (s := st.2) ?_ (fun hst => ?_); (on_goal 1 => simp only [st]); (on_goal 2 => clear_value st))
    | (intro st; refine Keeps.cut (s0 := s0) (s := st) ?_ (fun hst => ?_); (on_goal 1 => simp only [st]); (on_goal 2 => clear_value st))
    | intro st
    | lift_lets
    | split

theorem noteFailure_keeps (c e n : Nat) (hk : Keeps s0 s) : Keeps s0 (noteFailure s c e n) := by
  unfold noteFailure
  repeat' first
    | with_reducible assumption
    | with_reducible apply State.setEng_keeps
    | with_reducible apply requestStitch_keeps
    | with_reducible refine Keeps.foldl _ (fun _ _ _ => ?_) ?_
    | intro st
    | lift_lets
    | split

theorem autoCommit_keeps (e : Nat) (hk : Keeps s0 s) : Keeps s0 (autoCommit s e) := by
  unfold autoCommit
  repeat' first
    | with_reducible assumption
    | with_reducible apply requestStitch_keeps
    | with_reducible refine Keeps.foldl _ (fun _ _ _ => ?_) ?_
    | intro st
    | lift_lets
    | split

theorem foldDoneAct_keeps (e : Nat) (hk : Keeps s0 s) : Keeps s0 (foldDoneAct e s) := by
  unfold foldDoneAct
  repeat' first
    | with_reducible assumption
    | with_reducible apply State.setEng_keeps
    | with_reducible refine Keeps.foldl _ (fun _ _ _ => ?_) ?_
    | (intro st; refine Keeps.cut (s0 := s0) (s := st) ?_ (fun hst => ?_); (on_goal 1 => simp only [st]); (on_goal 2 => clear_value st))
    | intro st
    | lift_lets
    | split

theorem swings_keeps (e : Nat) (hk : Keeps s0 s) : Keeps s0 (swings s e) := by
  unfold swings
  repeat' first
    | with_reducible assumption
    | with_reducible apply State.setEng_keeps
    | with_reducible apply State.wr_keeps
    | with_reducible apply roundWord_keeps
    | with_reducible refine Keeps.foldl _ (fun _ _ _ => ?_) ?_

theorem applyMarks_keeps (e : Nat) (hk : Keeps s0 s) : Keeps s0 (applyMarks s e) := by
  unfold applyMarks
  repeat' first
    | with_reducible assumption
    | with_reducible apply State.count16_keeps
    | with_reducible apply State.setEng_keeps
    | with_reducible apply State.report_keeps
    | with_reducible apply State.setHealth_keeps
    | with_reducible refine Keeps.foldl _ (fun _ _ _ => ?_) ?_
    | (intro st; refine Keeps.cut (s0 := s0) (s := st) ?_ (fun hst => ?_); (on_goal 1 => simp only [st]); (on_goal 2 => clear_value st))
    | intro st
    | lift_lets
    | split

theorem swapTable_keeps (e : Nat) (t : Table) (k : Nat) (hk : Keeps s0 s) : Keeps s0 (swapTable s e t k) := by
  unfold swapTable
  repeat' first
    | with_reducible assumption
    | with_reducible apply State.copyBytes_keeps
    | with_reducible apply State.setEng_keeps
    | with_reducible apply State.stale_keeps
    | with_reducible apply State.wr_keeps
    | with_reducible apply ampSettings_keeps
    | with_reducible apply applyMarks_keeps
    | with_reducible apply swings_keeps
    | (intro st; refine Keeps.cut (s0 := s0) (s := st) ?_ (fun hst => ?_); (on_goal 1 => simp only [st]); (on_goal 2 => clear_value st))
    | intro st
    | lift_lets
    | split

theorem lineBoundary_keeps (e : Nat) (at_ : Nat × Nat) (hk : Keeps s0 s) : Keeps s0 (lineBoundary s e at_) := by
  unfold lineBoundary
  repeat' first
    | with_reducible assumption
    | with_reducible apply swapTable_keeps
    | with_reducible refine Keeps.foldl _ (fun _ _ _ => ?_) ?_
    | split

theorem idleSwap_keeps (e : Nat) (hk : Keeps s0 s) : Keeps s0 (idleSwap s e) := by
  unfold idleSwap
  repeat' first
    | with_reducible assumption
    | with_reducible apply State.setEng_keeps
    | with_reducible apply lineBoundary_keeps
    | (intro st; refine Keeps.cut (s0 := s0) (s := st) ?_ (fun hst => ?_); (on_goal 1 => simp only [st]); (on_goal 2 => clear_value st))
    | intro st
    | lift_lets
    | split

theorem idleSwaps_keeps (hk : Keeps s0 s) : Keeps s0 (idleSwaps s) := by
  unfold idleSwaps
  repeat' first
    | with_reducible assumption
    | with_reducible apply idleSwap_keeps
    | with_reducible refine Keeps.foldl _ (fun _ _ _ => ?_) ?_

theorem releaseHeld_keeps (e : Nat) (t : Table) (hk : Keeps s0 s) : Keeps s0 (releaseHeld s e t) := by
  unfold releaseHeld
  repeat' first
    | with_reducible assumption
    | with_reducible apply State.setEng_keeps
    | with_reducible apply answerLater_keeps
    | with_reducible apply shadowWrite_keeps
    | with_reducible refine Keeps.foldl _ (fun _ _ _ => ?_) ?_
    | (intro st; refine Keeps.cut (s0 := s0) (s := st) ?_ (fun hst => ?_); (on_goal 1 => simp only [st]); (on_goal 2 => clear_value st))
    | intro st
    | lift_lets
    | split

theorem syncDoneAct_keeps (e : Nat) (t : Table) (hk : Keeps s0 s) : Keeps s0 (syncDoneAct e t s) := by
  unfold syncDoneAct
  repeat' first
    | with_reducible assumption
    | with_reducible apply State.setEng_keeps
    | with_reducible apply beginFold_keeps
    | with_reducible apply autoCommit_keeps
    | with_reducible apply releaseHeld_keeps
    | (intro st; refine Keeps.cut (s0 := s0) (s := st) ?_ (fun hst => ?_); (on_goal 1 => simp only [st]); (on_goal 2 => clear_value st))
    | intro st
    | lift_lets
    | split

end Sys2Proof.Machine
end

