-- ==== Sys2Proof/Laws/KeepsTakeover.lean ====
section
/-!
SUPPORT. What the operations of Takeover.lean keep (`Keeps`).
-/
namespace Sys2Proof.Machine

variable {s0 s : State}
theorem startTakeover_keeps (c e : Nat) (fenced : Bool) (hk : Keeps s0 s) : Keeps s0 (startTakeover s c e fenced) := by
  unfold startTakeover
  repeat' first
    | with_reducible assumption
    | with_reducible apply State.setChan_keeps
    | with_reducible apply State.setEng_keeps
    | with_reducible apply State.wr_keeps
    | with_reducible apply sendBuilt_keeps

theorem leaveUnserved_keeps (c : Nat) (hk : Keeps s0 s) : Keeps s0 (leaveUnserved s c) := by
  unfold leaveUnserved
  repeat' first
    | with_reducible assumption
    | with_reducible apply State.setChan_keeps
    | with_reducible apply State.wr_keeps
    | with_reducible apply sendBuilt_keeps

theorem leavePair_keeps (e : Nat) (hk : Keeps s0 s) : Keeps s0 (leavePair s e) := by
  unfold leavePair
  repeat' first
    | with_reducible assumption
    | with_reducible apply State.setEng_keeps
    | with_reducible refine Keeps.foldl _ (fun _ _ _ => ?_) ?_

theorem yieldSpare_keeps (c e : Nat) (hk : Keeps s0 s) : Keeps s0 (yieldSpare s c e) := by
  unfold yieldSpare
  repeat' first
    | with_reducible assumption
    | with_reducible apply State.setEng_keeps
    | with_reducible apply State.wr_keeps
    | with_reducible apply leaveUnserved_keeps
    | intro st
    | lift_lets
    | split

theorem fenceEngine_keeps (e kind : Nat) (hk : Keeps s0 s) : Keeps s0 (fenceEngine s e kind) := by
  unfold fenceEngine
  try dsimp only
  repeat' first
    | with_reducible assumption
    | with_reducible apply State.setEng_keeps
    | with_reducible apply State.wr_keeps
    | with_reducible apply answerLater_keeps
    | with_reducible apply leavePair_keeps
    | with_reducible apply leaveUnserved_keeps
    | with_reducible apply startTakeover_keeps
    | with_reducible apply yieldSpare_keeps
    | with_reducible refine Keeps.foldl _ (fun _ _ _ => ?_) ?_
    | intro st
    | lift_lets
    | split

theorem copyEngine_keeps (e p : Nat) (hk : Keeps s0 s) : Keeps s0 (copyEngine s e p) := by
  unfold copyEngine
  repeat' first
    | with_reducible assumption
    | with_reducible apply State.copyBytes_keeps
    | with_reducible apply State.wr_keeps
    | with_reducible apply State.setEng_keeps
    | with_reducible refine Keeps.foldl _ (fun _ _ _ => ?_) ?_

theorem copyDoneAct_keeps (g : Nat) (ok : Bool) (hk : Keeps s0 s) : Keeps s0 (copyDoneAct g ok s) := by
  unfold copyDoneAct
  dsimp only
  repeat' first
    | with_reducible assumption
    | with_reducible apply State.wr_keeps
    | with_reducible apply State.setEng_keeps
    | with_reducible apply State.report_keeps
    | with_reducible apply ampLimits_keeps
    | with_reducible apply State.setChan_keeps
    | with_reducible apply leaveUnserved_keeps
    | with_reducible apply copyEngine_keeps
    | with_reducible refine Keeps.foldl _ (fun _ _ _ => ?_) ?_
    | split

theorem takeoverAct_keeps (c : Nat) (hk : Keeps s0 s) : Keeps s0 (takeoverAct c s).2 := by
  unfold takeoverAct
  repeat' first
    | with_reducible assumption
    | with_reducible apply startTakeover_keeps
    | intro st
    | lift_lets
    | split

end Sys2Proof.Machine
end

