-- ==== Sys2Proof/Laws/KeepsLines.lean ====
section
/-!
SUPPORT. What the operations of Lines.lean keep (`Keeps`).
-/
namespace Sys2Proof.Machine

variable {s0 s : State}
theorem dropLearn_keeps (e : Nat) (hk : Keeps s0 s) : Keeps s0 (dropLearn s e) := by
  unfold dropLearn
  repeat' first
    | with_reducible assumption
    | with_reducible apply State.setChan_keeps
    | with_reducible apply State.setEng_keeps
    | (intro st; refine Keeps.cut (s0 := s0) (s := st) ?_ (fun hst => ?_); (on_goal 1 => simp only [st]); (on_goal 2 => clear_value st))
    | intro st
    | lift_lets
    | split

theorem discardLearn_keeps (e : Nat) (hk : Keeps s0 s) : Keeps s0 (discardLearn s e) := by
  unfold discardLearn
  repeat' first
    | with_reducible assumption
    | with_reducible apply State.wr_keeps
    | with_reducible apply dropLearn_keeps
    | intro st
    | lift_lets
    | split

theorem discardLearns_keeps (hk : Keeps s0 s) : Keeps s0 (discardLearns s) := by
  unfold discardLearns
  repeat' first
    | with_reducible assumption
    | with_reducible apply discardLearn_keeps
    | with_reducible refine Keeps.foldl _ (fun _ _ _ => ?_) ?_

theorem abandonAll_keeps (p : Nat → Bool) (hk : Keeps s0 s) : Keeps s0 (abandonAll s p) := by
  unfold abandonAll
  repeat' first
    | with_reducible assumption
    | with_reducible apply State.setChan_keeps
    | with_reducible apply sendBuilt_keeps
    | with_reducible refine Keeps.foldl _ (fun _ _ _ => ?_) ?_

theorem restSpeed_keeps (hk : Keeps s0 s) : Keeps s0 (restSpeed s) := by
  unfold restSpeed
  repeat' first
    | with_reducible assumption
    | with_reducible apply State.wr_keeps

theorem endJob_keeps (d : DevState) (hk : Keeps s0 s) : Keeps s0 (endJob s d) := by
  unfold endJob
  repeat' first
    | with_reducible assumption
    | with_reducible apply abandonAll_keeps
    | with_reducible apply discardLearns_keeps
    | with_reducible apply maskedEvent_keeps
    | with_reducible apply restSpeed_keeps
    | with_reducible apply setDev_keeps
    | (with_reducible refine Keeps.upd rfl ?_; first | with_reducible assumption | with_reducible apply abandonAll_keeps)

theorem updateJob_keeps (hk : Keeps s0 s) : Keeps s0 (updateJob s) := by
  unfold updateJob
  repeat' first
    | with_reducible assumption
    | with_reducible apply State.wr_keeps
    | with_reducible refine Keeps.foldl _ (fun _ _ _ => ?_) ?_
    | intro st
    | lift_lets
    | split

theorem takeStart_keeps (pos : Nat) (hk : Keeps s0 s) : Keeps s0 (takeStart s pos) := by
  unfold takeStart
  repeat' first
    | with_reducible assumption
    | with_reducible apply maskedEvent_keeps
    | with_reducible apply setDev_keeps
    | with_reducible apply updateJob_keeps
    | (with_reducible refine Keeps.upd rfl ?_; first | with_reducible assumption | with_reducible apply maskedEvent_keeps | with_reducible apply setDev_keeps | with_reducible apply updateJob_keeps)
    | intro st
    | lift_lets
    | split

theorem pitchedStart_keeps (p : Nat) (hk : Keeps s0 s) : Keeps s0 (pitchedStart s p).1 := by
  unfold pitchedStart
  repeat' first
    | with_reducible assumption
    | with_reducible apply roundWord_keeps
    | intro st
    | lift_lets
    | split

theorem beginPage_keeps (c : Nat) (hk : Keeps s0 s) : Keeps s0 (beginPage s c) := by
  unfold beginPage
  repeat' first
    | with_reducible assumption
    | with_reducible apply State.wr_keeps
    | with_reducible apply State.setChan_keeps
    | intro st
    | lift_lets
    | split

theorem beginPages_keeps (hk : Keeps s0 s) : Keeps s0 (beginPages s) := by
  unfold beginPages
  repeat' first
    | with_reducible assumption
    | with_reducible apply beginPage_keeps
    | with_reducible refine Keeps.foldl _ (fun _ _ _ => ?_) ?_

theorem personaPageEnd_keeps (p : Nat) (hk : Keeps s0 s) : Keeps s0 (personaPageEnd s p) := by
  unfold personaPageEnd
  repeat' first
    | with_reducible assumption
    | with_reducible apply State.setPersona_keeps
    | intro st
    | lift_lets
    | split

theorem endPage_keeps (c : Nat) (hk : Keeps s0 s) : Keeps s0 (endPage s c) := by
  unfold endPage
  repeat' first
    | with_reducible assumption
    | with_reducible apply State.setChan_keeps
    | with_reducible apply endJob_keeps
    | with_reducible apply updateJob_keeps
    | with_reducible apply takeStart_keeps
    | with_reducible apply pitchedStart_keeps
    | with_reducible apply beginPage_keeps
    | with_reducible apply personaPageEnd_keeps
    | (intro st; refine Keeps.cut (s0 := s0) (s := st) ?_ (fun hst => ?_); (on_goal 1 => simp only [st]); (on_goal 2 => clear_value st))
    | intro st
    | lift_lets
    | split

theorem passLine_keeps (c k : Nat) (hk : Keeps s0 s) : Keeps s0 (passLine s c k) := by
  unfold passLine
  repeat' first
    | with_reducible assumption
    | with_reducible apply endPage_keeps
    | split

theorem skipLines_keeps (c n : Nat) (hk : Keeps s0 s) : Keeps s0 (skipLines s c n) := by
  unfold skipLines
  repeat' first
    | with_reducible assumption
    | with_reducible apply State.count48_keeps
    | with_reducible apply State.count_keeps
    | with_reducible apply State.setChan_keeps
    | with_reducible apply State.setPersona_keeps
    | (intro st; refine Keeps.cut (s0 := s0) (s := st) ?_ (fun hst => ?_); (on_goal 1 => simp only [st]); (on_goal 2 => clear_value st))
    | intro st
    | lift_lets
    | split

end Sys2Proof.Machine
end

