-- ==== Sys2Proof/Laws/KeepsPipeline.lean ====
section
/-!
SUPPORT. What the operations of Pipeline.lean keep (`Keeps`).
-/
namespace Sys2Proof.Machine

variable {s0 s : State}

theorem chooseProbe_keeps (c e : Nat) (hk : Keeps s0 s) : Keeps s0 (chooseProbe s c e).2 := by
  unfold chooseProbe
  repeat' first
    | with_reducible assumption
    | with_reducible apply State.setEng_keeps
    | (intro st; refine Keeps.cut (s0 := s0) (s := st) ?_ (fun hst => ?_); (on_goal 1 => simp only [st]); (on_goal 2 => clear_value st))
    | intro st
    | lift_lets
    | split

theorem announceTakeover_keeps (c e : Nat) (hk : Keeps s0 s) : Keeps s0 (announceTakeover s c e) := by
  unfold announceTakeover
  repeat' first
    | with_reducible assumption
    | with_reducible apply State.setEng_keeps
    | with_reducible apply State.report_keeps
    | intro st
    | lift_lets
    | split

theorem fixedSkips_keeps (c k : Nat) (hk : Keeps s0 s) : Keeps s0 (fixedSkips s c k) := by
  unfold fixedSkips
  repeat' first
    | with_reducible assumption
    | with_reducible apply State.setChan_keeps
    | with_reducible apply State.report_keeps
    | with_reducible apply skipLines_keeps
    | (intro st; refine Keeps.cut (s0 := s0) (s := st) ?_ (fun hst => ?_); (on_goal 1 => simp only [st]); (on_goal 2 => clear_value st))
    | intro st
    | lift_lets
    | split

theorem serialise_keeps (c e : Nat) (b : Built) (fire : Nat) (hk : Keeps s0 s) : Keeps s0 (serialise s c e b fire) := by
  unfold serialise
  repeat' first
    | with_reducible assumption
    | with_reducible apply State.setChan_keeps
    | with_reducible apply deskewStep_keeps
    | (intro st; refine Keeps.cut (s0 := s0) (s := st) ?_ (fun hst => ?_); (on_goal 1 => simp only [st]); (on_goal 2 => clear_value st))
    | intro st
    | lift_lets
    | split

theorem fireTimeOf_keeps (c k : Nat) (hk : Keeps s0 s) : Keeps s0 (fireTimeOf s c k).2 := by
  unfold fireTimeOf
  repeat' first
    | with_reducible assumption
    | with_reducible apply State.draw_keeps
    | intro st
    | lift_lets
    | split

theorem buildLine_keeps (c e k : Nat) (l : LbSlot) (hk : Keeps s0 s) : Keeps s0 (buildLine s c e k l) := by
  unfold buildLine
  repeat' first
    | with_reducible assumption
    | with_reducible apply chooseProbe_keeps
    | with_reducible apply fireTimeOf_keeps
    | with_reducible apply serialise_keeps

theorem buildStartAct_keeps (c : Nat) (hk : Keeps s0 s) : Keeps s0 (buildStartAct c s) := by
  unfold buildStartAct
  repeat' first
    | with_reducible assumption
    | with_reducible apply askUpTo_keeps
    | with_reducible apply releaseTo_keeps
    | with_reducible apply lineBoundary_keeps
    | with_reducible apply announceTakeover_keeps
    | with_reducible apply fixedSkips_keeps
    | with_reducible apply buildLine_keeps
    | (intro st; refine Keeps.cut (s0 := s0) (s := st) ?_ (fun hst => ?_); (on_goal 1 => simp only [st]); (on_goal 2 => clear_value st))
    | intro st
    | lift_lets
    | split

end Sys2Proof.Machine
end

