-- ==== Sys2Proof/Laws/KeepsFire.lean ====
section
/-!
SUPPORT. What the operations of Fire.lean keep (`Keeps`).
-/
namespace Sys2Proof.Machine

variable {s0 s : State}

theorem lineLockAct_keeps (c : Nat) (hk : Keeps s0 s) : Keeps s0 (lineLockAct c s) := by
  unfold lineLockAct
  repeat' first
    | with_reducible assumption
    | with_reducible apply State.setChan_keeps
    | with_reducible apply skipLines_keeps
    | intro st
    | lift_lets
    | split

theorem countEnergy_keeps (c : Nat) (en : Rat) (hk : Keeps s0 s) : Keeps s0 (countEnergy s c en) := by
  unfold countEnergy
  repeat' first
    | with_reducible assumption
    | with_reducible apply State.count48_keeps
    | with_reducible apply State.wr_keeps
    | with_reducible apply roundWord_keeps
    | (with_reducible refine Keeps.upd rfl ?_; first | with_reducible assumption | with_reducible apply State.count48_keeps)

theorem handProbe_keeps (b : Built) (y : Cycle) (unfired : Bool) (hk : Keeps s0 s) : Keeps s0 (handProbe s b y unfired) := by
  unfold handProbe
  repeat' first
    | with_reducible assumption
    | with_reducible apply State.setEng_keeps
    | intro st
    | lift_lets
    | split

theorem sendStrobes_keeps (c e : Nat) (y : Cycle) (hk : Keeps s0 s) : Keeps s0 (sendStrobes s c e y) := by
  unfold sendStrobes
  repeat' first
    | with_reducible assumption
    | with_reducible apply State.emit_keeps
    | with_reducible apply State.setChan_keeps
    | with_reducible refine Keeps.foldl _ (fun _ _ _ => ?_) ?_

theorem fireLine_keeps (c : Nat) (l : Lock) (b : Built) (hk : Keeps s0 s) : Keeps s0 (fireLine s c l b) := by
  unfold fireLine
  repeat' first
    | with_reducible assumption
    | with_reducible apply State.count48_keeps
    | with_reducible apply State.emit_keeps
    | with_reducible apply State.setChan_keeps
    | with_reducible apply State.wr_keeps
    | with_reducible apply countEnergy_keeps
    | with_reducible apply handProbe_keeps
    | with_reducible apply sendBuilt_keeps
    | with_reducible apply sendStrobes_keeps
    | intro st
    | lift_lets
    | split

theorem dropBuilt_keeps (c : Nat) (l : Lock) (hk : Keeps s0 s) : Keeps s0 (dropBuilt s c l) := by
  unfold dropBuilt
  repeat' first
    | with_reducible assumption
    | with_reducible apply State.setChan_keeps
    | with_reducible apply handProbe_keeps
    | with_reducible apply sendBuilt_keeps
    | intro st
    | lift_lets
    | split

theorem lateLine_keeps (c e : Nat) (l : Lock) (hk : Keeps s0 s) : Keeps s0 (lateLine s c e l) := by
  unfold lateLine
  repeat' first
    | with_reducible assumption
    | with_reducible apply State.count_keeps
    | with_reducible apply State.setChan_keeps
    | with_reducible apply State.setPersona_keeps
    | with_reducible apply State.report_keeps
    | with_reducible apply dropBuilt_keeps
    | (intro st; refine Keeps.cut (s0 := s0) (s := st) ?_ (fun hst => ?_); (on_goal 1 => simp only [st]); (on_goal 2 => clear_value st))
    | intro st
    | lift_lets
    | split

theorem suspendLine_keeps (c : Nat) (l : Lock) (rest : List Lock) (hk : Keeps s0 s) : Keeps s0 (suspendLine s c l rest) := by
  unfold suspendLine
  repeat' first
    | with_reducible assumption
    | with_reducible apply State.setChan_keeps

theorem lineFireAct_keeps (c : Nat) (hk : Keeps s0 s) : Keeps s0 (lineFireAct c s) := by
  unfold lineFireAct
  repeat' first
    | with_reducible assumption
    | with_reducible apply State.count_keeps
    | with_reducible apply State.setChan_keeps
    | with_reducible apply askUpTo_keeps
    | with_reducible apply dropBuilt_keeps
    | with_reducible apply fireLine_keeps
    | with_reducible apply lateLine_keeps
    | with_reducible apply passLine_keeps
    | with_reducible apply releaseTo_keeps
    | with_reducible apply suspendLine_keeps
    | (intro st; refine Keeps.cut (s0 := s0) (s := st) ?_ (fun hst => ?_); (on_goal 1 => simp only [st]); (on_goal 2 => clear_value st))
    | intro st
    | lift_lets
    | split

theorem takeTrigger_keeps (hk : Keeps s0 s) : Keeps s0 (takeTrigger s) := by
  unfold takeTrigger
  repeat' first
    | with_reducible assumption
    | with_reducible apply State.wr_keeps
    | with_reducible apply State.setTrig_keeps
    | with_reducible apply takeStart_keeps
    | intro st
    | lift_lets
    | split

theorem pageStartAct_keeps (c : Nat) (hk : Keeps s0 s) : Keeps s0 (pageStartAct c s) := by
  unfold pageStartAct
  repeat' first
    | with_reducible assumption
    | with_reducible apply beginPages_keeps
    | with_reducible apply takeTrigger_keeps
    | (intro st; refine Keeps.cut (s0 := s0) (s := st) ?_ (fun hst => ?_); (on_goal 1 => simp only [st]); (on_goal 2 => clear_value st))
    | intro st
    | lift_lets
    | split

end Sys2Proof.Machine
end

