-- ==== Sys2Proof/Laws/KeepsLoops.lean ====
section
/-!
SUPPORT. What the operations of Loops.lean keep (`Keeps`).
-/
namespace Sys2Proof.Machine

variable {s0 s : State}

theorem fitWord_keeps (x : Int) (hk : Keeps s0 s) : Keeps s0 (fitWord s x).2 := by
  unfold fitWord
  repeat' first
    | with_reducible assumption
    | with_reducible apply State.draw_keeps
    | intro st
    | lift_lets
    | split

theorem heaterForce_keeps (c : Nat) (hk : Keeps s0 s) : Keeps s0 (heaterForce s c) := by
  unfold heaterForce
  repeat' first
    | with_reducible assumption
    | with_reducible apply State.setLoop_keeps
    | with_reducible apply State.wr_keeps
    | with_reducible apply heaterStart_keeps
    | (intro st; refine Keeps.cut (s0 := s0) (s := st) ?_ (fun hst => ?_); (on_goal 1 => simp only [st]); (on_goal 2 => clear_value st))
    | intro st
    | lift_lets
    | split

theorem outputStage_keeps (l : Nat) (y top : Int) (hk : Keeps s0 s) : Keeps s0 (outputStage s l y top).st := by
  unfold outputStage
  repeat' first
    | with_reducible assumption

theorem chainInput_keeps (l : Nat) (b : Bool) (hk : Keeps s0 s) : Keeps s0 (chainInput s l b).2 := by
  unfold chainInput
  repeat' first
    | with_reducible assumption
    | with_reducible apply State.wr_keeps
    | with_reducible apply fitWord_keeps
    | intro st
    | lift_lets
    | split

theorem evalChain_keeps (l : Nat) (b : Bool) (x : Int) (hk : Keeps s0 s) : Keeps s0 (evalChain s l b x).2 := by
  unfold evalChain
  repeat' first
    | with_reducible assumption
    | with_reducible apply latheWork_keeps
    | with_reducible apply noteSaturation_keeps
    | with_reducible apply runChain_keeps

theorem deliver_keeps (l : Nat) (u : Int) (hk : Keeps s0 s) : Keeps s0 (deliver s l u) := by
  unfold deliver
  repeat' first
    | with_reducible assumption
    | with_reducible apply State.wr_keeps
    | (intro st; refine Keeps.cut (s0 := s0) (s := st) ?_ (fun hst => ?_); (on_goal 1 => simp only [st]); (on_goal 2 => clear_value st))
    | intro st
    | lift_lets
    | split

theorem finishSample_keeps (g : Stage) (l : Nat) (switching : Bool) (hk : Keeps s0 g.st) :
    Keeps s0 (finishSample g l switching) := by
  unfold finishSample
  dsimp only
  split <;> repeat' first
    | exact hk
    | with_reducible apply State.setLoop_keeps
    | with_reducible apply deliver_keeps
    | with_reducible apply State.wr_keeps

theorem switchChain_keeps (l : Nat) (hk : Keeps s0 s) : Keeps s0 (switchChain s l) := by
  unfold switchChain
  repeat' first
    | with_reducible assumption
    | with_reducible apply State.wr_keeps
    | with_reducible apply State.setLoop_keeps
    | with_reducible apply setHistory_keeps
    | with_reducible apply fitWord_keeps

theorem activeSample_keeps (l : Nat) (top : Int) (hk : Keeps s0 s) : Keeps s0 (activeSample s l top).st := by
  unfold activeSample
  try dsimp only
  repeat' first
    | with_reducible assumption
    | with_reducible apply State.wr_keeps
    | with_reducible apply State.setLoop_keeps
    | with_reducible apply latheReport_keeps
    | with_reducible apply setHistory_keeps
    | with_reducible apply fitWord_keeps
    | with_reducible apply outputStage_keeps
    | with_reducible apply chainInput_keeps
    | with_reducible apply evalChain_keeps
    | with_reducible apply switchChain_keeps
    | with_reducible apply takeHandover_keeps
    | with_reducible refine Keeps.foldl _ (fun _ _ _ => ?_) ?_
    | split

theorem setCeil_keeps (l : Nat) (hit : Bool) (hk : Keeps s0 s) : Keeps s0 (setCeil s l hit) := by
  unfold setCeil
  repeat' first
    | with_reducible assumption
    | with_reducible apply State.setChan_keeps
    | intro st
    | lift_lets
    | split

theorem sampleLoop_keeps (l : Nat) (hk : Keeps s0 s) : Keeps s0 (sampleLoop l s) := by
  unfold sampleLoop
  repeat' first
    | with_reducible assumption
    | with_reducible apply State.setLoop_keeps
    | with_reducible apply logSample_keeps
    | with_reducible apply noteStill_keeps
    | with_reducible apply holdSample_keeps
    | with_reducible apply heaterForce_keeps
    | with_reducible apply deliver_keeps
    | with_reducible apply finishSample_keeps
    | with_reducible apply activeSample_keeps
    | with_reducible apply setCeil_keeps
    | (intro st; refine Keeps.cut (s0 := s0) (s := st) ?_ (fun hst => ?_); (on_goal 1 => simp only [st]); (on_goal 2 => clear_value st))
    | intro st
    | lift_lets
    | split

end Sys2Proof.Machine
end

