-- ==== Sys2Proof/Laws/KeepsPosition.lean ====
section
/-!
SUPPORT. What the operations of Position.lean keep (`Keeps`).
-/
namespace Sys2Proof.Machine

variable {s0 s : State}

theorem posReport_keeps (kind : Nat) (hk : Keeps s0 s) : Keeps s0 (posReport s kind) := by
  unfold posReport
  repeat' first
    | with_reducible assumption
    | with_reducible apply State.report_keeps

theorem trackHwm_keeps (corrected : Int) (hk : Keeps s0 s) : Keeps s0 (trackHwm s corrected) := by
  unfold trackHwm
  repeat' first
    | with_reducible assumption
    | with_reducible apply State.wr_keeps
    | with_reducible apply State.count_keeps
    | with_reducible apply posReport_keeps
    | (with_reducible refine Keeps.upd rfl ?_; first | with_reducible assumption | with_reducible apply State.wr_keeps | with_reducible apply State.count_keeps | with_reducible apply posReport_keeps)
    | (intro st; refine Keeps.cut (s0 := s0) (s := st) ?_ (fun hst => ?_); (on_goal 1 => simp only [st]); (on_goal 2 => clear_value st))
    | intro st
    | lift_lets
    | split

theorem trackSource_keeps (k : Nat) (hk : Keeps s0 s) : Keeps s0 (trackSource s k) := by
  unfold trackSource
  repeat' first
    | with_reducible assumption
    | with_reducible apply roundWord_keeps
    | with_reducible apply trackHwm_keeps

theorem sourceMoved_keeps (k : Nat) (hk : Keeps s0 s) : Keeps s0 (sourceMoved s k) := by
  unfold sourceMoved
  repeat' first
    | with_reducible assumption
    | with_reducible apply trackSource_keeps
    | (with_reducible refine Keeps.upd rfl ?_; first | with_reducible assumption | with_reducible apply trackSource_keeps)
    | intro st
    | lift_lets
    | split

theorem loseEncoder_keeps (n : Nat) (hk : Keeps s0 s) : Keeps s0 (loseEncoder s n) := by
  unfold loseEncoder
  repeat' first
    | with_reducible assumption
    | with_reducible apply State.setEnc_keeps
    | with_reducible apply posReport_keeps
    | (with_reducible refine Keeps.upd rfl ?_; first | with_reducible assumption | with_reducible apply State.setEnc_keeps | with_reducible apply posReport_keeps)
    | intro st
    | lift_lets
    | split

theorem illegalEdge_keeps (n : Nat) (t : Nat) (hk : Keeps s0 s) : Keeps s0 (illegalEdge s n t) := by
  unfold illegalEdge
  repeat' first
    | with_reducible assumption
    | with_reducible apply State.count_keeps
    | with_reducible apply State.setEnc_keeps
    | with_reducible apply posReport_keeps
    | with_reducible apply loseEncoder_keeps
    | (intro st; refine Keeps.cut (s0 := s0) (s := st) ?_ (fun hst => ?_); (on_goal 1 => simp only [st]); (on_goal 2 => clear_value st))
    | intro st
    | lift_lets
    | split

theorem acceptedEdge_keeps (n : Nat) (a b : Bool) (t : Nat) (hk : Keeps s0 s) : Keeps s0 (acceptedEdge s n a b t) := by
  unfold acceptedEdge
  repeat' first
    | with_reducible assumption
    | with_reducible apply State.wr_keeps
    | with_reducible apply State.setEnc_keeps
    | with_reducible apply lineEdge_keeps
    | with_reducible apply sourceMoved_keeps
    | intro st
    | lift_lets
    | split

theorem encoderEdgeAct_keeps (n : Nat) (a b : Bool) (held t : Nat) (hk : Keeps s0 s) : Keeps s0 (encoderEdgeAct n a b held t s) := by
  unfold encoderEdgeAct
  repeat' first
    | with_reducible assumption
    | with_reducible apply State.setEnc_keeps
    | with_reducible apply illegalEdge_keeps
    | with_reducible apply acceptedEdge_keeps
    | (intro st; refine Keeps.cut (s0 := s0) (s := st) ?_ (fun hst => ?_); (on_goal 1 => simp only [st]); (on_goal 2 => clear_value st))
    | intro st
    | lift_lets
    | split

theorem acceptTrigger_keeps (n : Nat) (rising : Bool) (t : Nat) (hk : Keeps s0 s) : Keeps s0 (acceptTrigger n rising t s).2 := by
  unfold acceptTrigger
  dsimp only
  repeat' first
    | with_reducible assumption
    | with_reducible apply State.wr_keeps
    | with_reducible apply State.count_keeps
    | with_reducible apply State.setTrig_keeps
    | with_reducible apply roundWord_keeps
    | with_reducible refine Keeps.foldl _ (fun _ _ _ => ?_) ?_
    | split

theorem queueTrigger_keeps (n pos : Nat) (hk : Keeps s0 s) : Keeps s0 (queueTrigger n pos s) := by
  unfold queueTrigger
  repeat' first
    | with_reducible assumption
    | with_reducible apply State.wr_keeps
    | with_reducible apply State.setTrig_keeps
    | with_reducible apply posReport_keeps
    | intro st
    | lift_lets
    | split

theorem ringPosAct_keeps (node seq pos : Nat) (vel : Int) (stime : Nat) (hk : Keeps s0 s) : Keeps s0 (ringPosAct node seq pos vel stime s) := by
  unfold ringPosAct
  repeat' first
    | with_reducible assumption
    | with_reducible apply sourceMoved_keeps
    | (with_reducible refine Keeps.upd rfl ?_; first | with_reducible assumption | with_reducible apply sourceMoved_keeps)
    | intro st
    | lift_lets
    | split

theorem enterNoSource_keeps (hk : Keeps s0 s) : Keeps s0 (enterNoSource s) := by
  unfold enterNoSource
  repeat' first
    | with_reducible assumption
    | with_reducible apply State.wr_keeps
    | with_reducible apply posReport_keeps
    | (with_reducible refine Keeps.upd rfl ?_; first | with_reducible assumption | with_reducible apply State.wr_keeps | with_reducible apply posReport_keeps)
    | intro st
    | lift_lets
    | split

theorem ringStaleAct_keeps (hk : Keeps s0 s) : Keeps s0 (ringStaleAct s) := by
  unfold ringStaleAct
  repeat' first
    | with_reducible assumption
    | with_reducible apply posReport_keeps
    | with_reducible apply enterNoSource_keeps
    | (with_reducible refine Keeps.upd rfl ?_; first | with_reducible assumption | with_reducible apply posReport_keeps | with_reducible apply enterNoSource_keeps)
    | (intro st; refine Keeps.cut (s0 := s0) (s := st) ?_ (fun hst => ?_); (on_goal 1 => simp only [st]); (on_goal 2 => clear_value st))
    | intro st
    | lift_lets
    | split

theorem publishAct_keeps (hk : Keeps s0 s) : Keeps s0 (publishAct s) := by
  unfold publishAct
  repeat' first
    | with_reducible assumption
    | with_reducible apply nextSeq_keeps
    | with_reducible apply sendBoth_keeps
    | intro st
    | lift_lets
    | split

theorem changeoverAct_keeps (hk : Keeps s0 s) : Keeps s0 (changeoverAct s).2 := by
  unfold changeoverAct
  repeat' first
    | with_reducible assumption
    | (with_reducible refine Keeps.upd rfl ?_; first | with_reducible assumption)
    | intro st
    | lift_lets
    | split

theorem srcPrimaryAct_keeps (v : Nat) (hk : Keeps s0 s) : Keeps s0 (srcPrimaryAct v s).2 := by
  unfold srcPrimaryAct
  repeat' first
    | with_reducible assumption
    | with_reducible apply State.wr_keeps
    | (with_reducible refine Keeps.upd rfl ?_; first | with_reducible assumption | with_reducible apply State.wr_keeps)

theorem srcSecondaryAct_keeps (v : Nat) (hk : Keeps s0 s) : Keeps s0 (srcSecondaryAct v s).2 := by
  unfold srcSecondaryAct
  repeat' first
    | with_reducible assumption
    | with_reducible apply State.wr_keeps

theorem encConfigAct_keeps (n : Nat) (f : EncField) (v : Nat) (hk : Keeps s0 s) : Keeps s0 (encConfigAct n f v s).2 := by
  unfold encConfigAct
  repeat' first
    | with_reducible assumption
    | with_reducible apply State.wr_keeps
    | with_reducible apply State.setEnc_keeps
    | (with_reducible refine Keeps.upd rfl ?_; first | with_reducible assumption | with_reducible apply State.wr_keeps | with_reducible apply State.setEnc_keeps)
    | (intro st; refine Keeps.cut (s0 := s0) (s := st) ?_ (fun hst => ?_); (on_goal 1 => simp only [st]); (on_goal 2 => clear_value st))
    | intro st
    | lift_lets
    | split

theorem ringPosNodeAct_keeps (v : Nat) (hk : Keeps s0 s) : Keeps s0 (ringPosNodeAct v s).2 := by
  unfold ringPosNodeAct
  dsimp only
  repeat' first
    | with_reducible assumption
    | with_reducible apply State.wr_keeps
    | (with_reducible refine Keeps.upd rfl ?_; first | with_reducible assumption | with_reducible apply State.wr_keeps)
    | with_reducible refine Keeps.foldl _ (fun _ _ _ => ?_) ?_
    | split

end Sys2Proof.Machine
end

