-- ==== Sys2Proof/Laws/KeepsObserver.lean ====
section
/-!
SUPPORT. What the operations of Observer.lean keep (`Keeps`).
-/
namespace Sys2Proof.Machine

variable {s0 s : State}

theorem deliverTriple_keeps (x v a hofs : Int) (switching : Bool) (hk : Keeps s0 s) : Keeps s0 (deliverTriple s x v a hofs switching) := by
  unfold deliverTriple
  repeat' first
    | with_reducible assumption
    | with_reducible apply State.wr_keeps
    | (with_reducible refine Keeps.upd rfl ?_; with_reducible assumption)

theorem tripleWords_keeps (dx v a : Rat) (hk : Keeps s0 s) : Keeps s0 (tripleWords s dx v a).2.2.2 := by
  unfold tripleWords
  repeat' first
    | with_reducible assumption
    | with_reducible apply roundWord_keeps

theorem innovate_keeps (raw : Rat) (hk : Keeps s0 s) : Keeps s0 (innovate s raw).2 := by
  unfold innovate
  repeat' first
    | with_reducible assumption
    | with_reducible apply State.wr_keeps
    | with_reducible apply latheWork_keeps
    | with_reducible apply noteSaturation_keeps
    | with_reducible apply roundWord_keeps
    | with_reducible apply runChain_keeps

theorem plainSample_keeps (switching : Bool) (hk : Keeps s0 s) : Keeps s0 (plainSample s switching) := by
  unfold plainSample
  repeat' first
    | with_reducible assumption
    | with_reducible apply deliverTriple_keeps
    | with_reducible apply innovate_keeps
    | with_reducible apply tripleWords_keeps
    | intro st
    | lift_lets
    | split

theorem reportGap_keeps (hk : Keeps s0 s) : Keeps s0 (reportGap s) := by
  unfold reportGap
  repeat' first
    | with_reducible assumption
    | with_reducible apply posReport_keeps
    | intro st
    | lift_lets
    | split

theorem switchSample_keeps (k : Nat) (hk : Keeps s0 s) : Keeps s0 (switchSample s k) := by
  unfold switchSample
  repeat' first
    | with_reducible assumption
    | with_reducible apply State.setLoop_keeps
    | with_reducible apply State.wr_keeps
    | with_reducible apply deliverTriple_keeps
    | with_reducible apply reportGap_keeps
    | with_reducible apply roundWord_keeps
    | with_reducible apply setHistory_keeps
    | with_reducible apply tripleWords_keeps
    | (with_reducible refine Keeps.upd rfl ?_; first | with_reducible assumption | with_reducible apply State.setLoop_keeps | with_reducible apply State.wr_keeps)

theorem enterCoast_keeps (hk : Keeps s0 s) : Keeps s0 (enterCoast s) := by
  unfold enterCoast
  repeat' first
    | with_reducible assumption
    | with_reducible apply State.wr_keeps
    | with_reducible apply plainSample_keeps
    | with_reducible apply reportGap_keeps
    | (with_reducible refine Keeps.upd rfl ?_; with_reducible assumption)

theorem swapObserver_keeps (hk : Keeps s0 s) : Keeps s0 (swapObserver s) := by
  unfold swapObserver
  repeat' first
    | with_reducible assumption
    | with_reducible apply State.wr_keeps
    | with_reducible apply State.setLoop_keeps
    | with_reducible apply setHistory_keeps

theorem sampleWith_keeps (hk : Keeps s0 s) : Keeps s0 (sampleWith s) := by
  unfold sampleWith
  try dsimp only
  repeat' first
    | with_reducible assumption
    | with_reducible apply State.count_keeps
    | with_reducible apply enterCoast_keeps
    | with_reducible apply enterNoSource_keeps
    | with_reducible apply plainSample_keeps
    | with_reducible apply swapObserver_keeps
    | with_reducible apply switchSample_keeps
    | with_reducible apply takeHandover_keeps
    | (with_reducible refine Keeps.upd rfl ?_; first | with_reducible assumption | with_reducible apply State.count_keeps | with_reducible apply enterCoast_keeps | with_reducible apply enterNoSource_keeps | with_reducible apply plainSample_keeps | with_reducible apply swapObserver_keeps | with_reducible apply switchSample_keeps | with_reducible apply takeHandover_keeps)
    | intro st
    | lift_lets
    | split

theorem checkOverspeed_keeps (c : Nat) (hk : Keeps s0 s) : Keeps s0 (checkOverspeed s c) := by
  unfold checkOverspeed
  repeat' first
    | with_reducible assumption
    | with_reducible apply State.setChan_keeps
    | with_reducible apply posReport_keeps
    | (intro st; refine Keeps.cut (s0 := s0) (s := st) ?_ (fun hst => ?_); (on_goal 1 => simp only [st]); (on_goal 2 => clear_value st))
    | intro st
    | lift_lets
    | split

theorem overspeedFloor_keeps (hk : Keeps s0 s) : Keeps s0 (overspeedFloor s) := by
  unfold overspeedFloor
  repeat' first
    | with_reducible assumption
    | with_reducible apply State.wr_keeps
    | split

theorem trackAfterSample_keeps (hk : Keeps s0 s) : Keeps s0 (trackAfterSample s) := by
  unfold trackAfterSample
  repeat' first
    | with_reducible assumption
    | with_reducible apply trackSource_keeps
    | intro st
    | lift_lets
    | split

theorem observerAct_keeps (hk : Keeps s0 s) : Keeps s0 (observerAct s) := by
  unfold observerAct
  repeat' first
    | with_reducible assumption
    | with_reducible apply State.setLoop_keeps
    | with_reducible apply logSample_keeps
    | with_reducible apply holdSample_keeps
    | with_reducible apply sampleWith_keeps
    | with_reducible apply checkOverspeed_keeps
    | with_reducible apply overspeedFloor_keeps
    | with_reducible apply trackAfterSample_keeps
    | with_reducible refine Keeps.foldl _ (fun _ _ _ => ?_) ?_
    | (intro st; refine Keeps.cut (s0 := s0) (s := st) ?_ (fun hst => ?_); (on_goal 1 => simp only [st]); (on_goal 2 => clear_value st))
    | intro st
    | lift_lets
    | split

end Sys2Proof.Machine
end

