-- ==== Sys2Proof/Laws/KeepsSram.lean ====
section
/-!
SUPPORT. What the operations of Sram.lean keep (`Keeps`).
-/
namespace Sys2Proof.Machine

variable {s0 s : State}
theorem sramRead_keeps (words : List Nat) (ecc : EccResult) (hk : Keeps s0 s) : Keeps s0 (sramRead s words ecc) := by
  unfold sramRead
  repeat' first
    | with_reducible assumption
    | with_reducible apply State.count_keeps
    | with_reducible apply State.report_keeps
    | (with_reducible refine Keeps.upd rfl ?_; first | with_reducible assumption | with_reducible apply State.count_keeps | with_reducible apply State.report_keeps)
    | (intro st; refine Keeps.cut (s0 := s0) (s := st) ?_ (fun hst => ?_); (on_goal 1 => simp only [st]); (on_goal 2 => clear_value st))
    | intro st
    | lift_lets
    | split


end Sys2Proof.Machine
end

