-- ==== Sys2Proof/Laws/KeepsLathe.lean ====
section
/-!
SUPPORT. What the operations of Lathe.lean keep (`Keeps`).
-/
namespace Sys2Proof.Machine

variable {s0 s : State}

theorem sectionEcc_keeps (l slot : Nat) (ecc : EccResult) (hk : Keeps s0 s) : Keeps s0 (sectionEcc s l slot ecc) := by
  unfold sectionEcc
  repeat' first
    | with_reducible assumption
    | with_reducible apply State.setLoop_keeps
    | with_reducible apply latheReport_keeps
    | intro st
    | lift_lets
    | split

theorem startWaiting_keeps (w : Waiting) (hk : Keeps s0 s) : Keeps s0 (startWaiting s w) := by
  unfold startWaiting
  repeat' first
    | with_reducible assumption
    | with_reducible apply State.setLoop_keeps
    | with_reducible apply sampleLoop_keeps
    | with_reducible apply sectionEcc_keeps

theorem trigger_keeps (w : Waiting) (at_ : Nat) (hk : Keeps s0 s) : Keeps s0 (trigger s w at_) := by
  unfold trigger
  repeat' first
    | with_reducible assumption
    | with_reducible apply State.count_keeps
    | with_reducible apply State.setLoop_keeps
    | with_reducible apply latheReport_keeps
    | with_reducible apply startWaiting_keeps
    | (with_reducible refine Keeps.upd rfl ?_; first | with_reducible assumption | with_reducible apply State.count_keeps | with_reducible apply State.setLoop_keeps | with_reducible apply latheReport_keeps | with_reducible apply startWaiting_keeps)
    | (intro st; refine Keeps.cut (s0 := s0) (s := st) ?_ (fun hst => ?_); (on_goal 1 => simp only [st]); (on_goal 2 => clear_value st))
    | intro st
    | lift_lets
    | split

theorem loopSampleAct_keeps (l : Nat) (ecc : EccResult) (slot : Nat) (hk : Keeps s0 s) : Keeps s0 (loopSampleAct l ecc slot s) := by
  unfold loopSampleAct
  repeat' first
    | with_reducible assumption
    | with_reducible apply State.count_keeps
    | with_reducible apply latheReport_keeps
    | with_reducible apply observerAct_keeps
    | with_reducible apply sectionEcc_keeps
    | with_reducible apply trigger_keeps
    | intro st
    | lift_lets
    | split

theorem serveLathe_keeps (n : Nat) (hk : Keeps s0 s) : Keeps s0 (serveLathe n s) := by
  induction n generalizing s with
  | zero => exact hk
  | succ n ih =>
    unfold serveLathe
    split
    · exact hk
    · split
      · exact ih (startWaiting_keeps _ (Keeps.upd rfl hk))
      · exact hk

theorem latheTick_keeps (hk : Keeps s0 s) : Keeps s0 (latheTick s) :=
  serveLathe_keeps _ (Keeps.upd rfl hk)

theorem sramPut_keeps (a : Nat) (data : List Byte) (ecc : EccResult) (hk : Keeps s0 s) : Keeps s0 (sramPut s a data ecc) := by
  unfold sramPut
  repeat' first
    | with_reducible assumption
    | with_reducible apply State.setBytes_keeps
    | with_reducible apply sramRead_keeps
    | (with_reducible refine Keeps.upd rfl ?_; first | with_reducible assumption | with_reducible apply State.setBytes_keeps)

theorem logWriteAct_keeps (hk : Keeps s0 s) : Keeps s0 (logWriteAct s) := by
  unfold logWriteAct
  repeat' first
    | with_reducible assumption
    | with_reducible apply State.stale_keeps
    | with_reducible apply State.wr_keeps
    | with_reducible apply latheReport_keeps
    | with_reducible apply logicalWrite_keeps
    | with_reducible apply sramPut_keeps
    | (with_reducible refine Keeps.upd rfl ?_; first | with_reducible assumption | with_reducible apply State.stale_keeps | with_reducible apply State.wr_keeps | with_reducible apply latheReport_keeps | with_reducible apply logicalWrite_keeps | with_reducible apply sramPut_keeps)
    | (intro st; refine Keeps.cut (s0 := s0) (s := st) ?_ (fun hst => ?_); (on_goal 1 => simp only [st]); (on_goal 2 => clear_value st))
    | intro st
    | lift_lets
    | split

theorem logEnAct_keeps (v : Nat) (hk : Keeps s0 s) : Keeps s0 (logEnAct v s).2 := by
  unfold logEnAct
  repeat' first
    | with_reducible assumption
    | with_reducible apply State.wr_keeps
    | intro st
    | lift_lets
    | split

theorem handoverAct_keeps (l : Nat) (hk : Keeps s0 s) : Keeps s0 (handoverAct l s).2 := by
  unfold handoverAct
  repeat' first
    | with_reducible assumption
    | with_reducible apply State.setLoop_keeps
    | split

theorem holdAct_keeps (l : Nat) (h : Bool) (hk : Keeps s0 s) : Keeps s0 (holdAct l h s).2 := by
  unfold holdAct
  repeat' first
    | with_reducible assumption
    | with_reducible apply State.setLoop_keeps

theorem loopCmdAct_keeps (l v : Nat) (hk : Keeps s0 s) : Keeps s0 (loopCmdAct l v s).2 := by
  unfold loopCmdAct
  repeat' first
    | with_reducible assumption
    | with_reducible apply handoverAct_keeps
    | with_reducible apply holdAct_keeps
    | split

theorem loopEnAct_keeps (l v : Nat) (hk : Keeps s0 s) : Keeps s0 (loopEnAct l v s).2 := by
  unfold loopEnAct
  repeat' first
    | with_reducible assumption
    | with_reducible apply State.wr_keeps
    | with_reducible apply ampSettings_keeps
    | (intro st; refine Keeps.cut (s0 := s0) (s := st) ?_ (fun hst => ?_); (on_goal 1 => simp only [st]); (on_goal 2 => clear_value st))
    | intro st
    | lift_lets
    | split

theorem chainWriteAct_keeps (r : Row) (l v : Nat) (hk : Keeps s0 s) : Keeps s0 (chainWriteAct r l v s).2 := by
  unfold chainWriteAct
  repeat' first
    | with_reducible assumption
    | with_reducible apply State.wr_keeps
    | (intro st; refine Keeps.cut (s0 := s0) (s := st) ?_ (fun hst => ?_); (on_goal 1 => simp only [st]); (on_goal 2 => clear_value st))
    | intro st
    | lift_lets
    | split

theorem sourceWriteAct_keeps (r : Row) (l v : Nat) (hk : Keeps s0 s) : Keeps s0 (sourceWriteAct r l v s).2 := by
  unfold sourceWriteAct
  repeat' first
    | with_reducible assumption
    | with_reducible apply State.wr_keeps
    | split

theorem limitWriteAct_keeps (r : Row) (l : Nat) (v : Int) (hk : Keeps s0 s) : Keeps s0 (limitWriteAct r l v s).2 := by
  unfold limitWriteAct
  repeat' first
    | with_reducible assumption
    | with_reducible apply State.wrHeld_keeps
    | intro st
    | lift_lets
    | split

theorem releaseEcc_keeps (hk : Keeps s0 s) : Keeps s0 (releaseEcc s) := by
  unfold releaseEcc
  repeat' first
    | with_reducible assumption
    | (with_reducible refine Keeps.upd rfl ?_; first | with_reducible assumption)

theorem noteRewrite_keeps (k : Nat) (hk : Keeps s0 s) : Keeps s0 (noteRewrite s k) := by
  unfold noteRewrite
  repeat' first
    | with_reducible assumption
    | with_reducible apply releaseEcc_keeps
    | (with_reducible refine Keeps.upd rfl ?_; with_reducible assumption)

theorem noteCleared_keeps (hk : Keeps s0 s) : Keeps s0 (noteCleared s) := by
  unfold noteCleared
  repeat' first
    | with_reducible assumption
    | with_reducible apply releaseEcc_keeps
    | (with_reducible refine Keeps.upd rfl ?_; with_reducible assumption)

theorem sectionWriteAct_keeps (k sub ofs : Nat) (data : List Byte) (hk : Keeps s0 s) : Keeps s0 (sectionWriteAct k sub ofs data s).2 := by
  unfold sectionWriteAct
  repeat' first
    | with_reducible assumption
    | with_reducible apply State.setSec_keeps
    | with_reducible apply noteRewrite_keeps
    | (intro st; refine Keeps.cut (s0 := s0) (s := st) ?_ (fun hst => ?_); (on_goal 1 => simp only [st]); (on_goal 2 => clear_value st))
    | intro st
    | lift_lets
    | split

theorem sectionCode_keeps (k sub ofs : Nat) (data : List Byte) (hk : Keeps s0 s) : Keeps s0 (sectionCode s k sub ofs data).2 := by
  unfold sectionCode
  repeat' first
    | with_reducible assumption
    | with_reducible apply State.stale_keeps
    | with_reducible apply sectionWriteAct_keeps
    | (intro st; refine Keeps.cut (s0 := s0) (s := st.2) ?_ (fun hst => ?_); (on_goal 1 => simp only [st]); (on_goal 2 => clear_value st))
    | intro st
    | lift_lets
    | split

theorem sectionWrite_keeps (p : Port) (k sub ofs : Nat) (data : List Byte) (hk : Keeps s0 s) : Keeps s0 (sectionWrite s p k sub ofs data) := by
  unfold sectionWrite
  repeat' first
    | with_reducible assumption
    | with_reducible apply State.reply_keeps
    | with_reducible apply sectionCode_keeps
    | (intro st; refine Keeps.cut (s0 := s0) (s := st.2) ?_ (fun hst => ?_); (on_goal 1 => simp only [st]); (on_goal 2 => clear_value st))
    | intro st
    | lift_lets
    | split

end Sys2Proof.Machine
end

