-- ==== Sys2Proof/Laws/KeepsLinks.lean ====
section
/-!
SUPPORT. What the operations of Links.lean keep (`Keeps`).
-/
namespace Sys2Proof.Machine

variable {s0 s : State}

theorem idleHeaderAct_keeps (c : Nat) (hk : Keeps s0 s) : Keeps s0 (idleHeaderAct c s) := by
  unfold idleHeaderAct
  repeat' first
    | with_reducible assumption
    | with_reducible apply sendIdle_keeps
    | split

theorem linkDownMsg_keeps (c : Nat) (silent : Bool) (hk : Keeps s0 s) : Keeps s0 (linkDownMsg s c silent) := by
  unfold linkDownMsg
  repeat' first
    | with_reducible assumption
    | with_reducible apply State.report_keeps

theorem backchannelAct_keeps (c : Nat) (l : List Byte) (hk : Keeps s0 s) : Keeps s0 (backchannelAct c l s) := by
  unfold backchannelAct
  repeat' first
    | with_reducible assumption
    | with_reducible apply State.wr_keeps
    | with_reducible apply State.setChan_keeps
    | with_reducible apply calTrigger_keeps
    | with_reducible apply linkDownMsg_keeps
    | (intro st; refine Keeps.cut (s0 := s0) (s := st) ?_ (fun hst => ?_); (on_goal 1 => simp only [st]); (on_goal 2 => clear_value st))
    | intro st
    | lift_lets
    | split

theorem silentAct_keeps (c : Nat) (hk : Keeps s0 s) : Keeps s0 (silentAct c s) := by
  unfold silentAct
  repeat' first
    | with_reducible assumption
    | with_reducible apply State.setChan_keeps
    | with_reducible apply linkDownMsg_keeps
    | intro st
    | lift_lets
    | split

theorem driveOutAct_keeps (c : Nat) (hk : Keeps s0 s) : Keeps s0 (driveOutAct c s) := by
  unfold driveOutAct
  repeat' first
    | with_reducible assumption
    | with_reducible apply State.emit_keeps
    | with_reducible apply State.setChan_keeps
    | intro st
    | lift_lets
    | split

theorem rxDown_keeps (c : Nat) (hk : Keeps s0 s) : Keeps s0 (rxDown s c) := by
  unfold rxDown
  repeat' first
    | with_reducible assumption
    | with_reducible apply State.setChan_keeps
    | with_reducible apply State.report_keeps
    | with_reducible apply discardLearn_keeps
    | (intro st; refine Keeps.cut (s0 := s0) (s := st) ?_ (fun hst => ?_); (on_goal 1 => simp only [st]); (on_goal 2 => clear_value st))
    | intro st
    | lift_lets
    | split

theorem ampFaultMsg_keeps (c : Nat) (hk : Keeps s0 s) : Keeps s0 (ampFaultMsg s c) := by
  unfold ampFaultMsg
  repeat' first
    | with_reducible assumption
    | with_reducible apply State.report_keeps

theorem supplyCheck_keeps (c : Nat) (hk : Keeps s0 s) : Keeps s0 (supplyCheck s c) := by
  unfold supplyCheck
  repeat' first
    | with_reducible assumption
    | with_reducible apply State.setChan_keeps
    | with_reducible apply ampFaultMsg_keeps
    | intro st
    | lift_lets
    | split

theorem goodFrame_keeps (c : Nat) (l : List Byte) (t : Nat) (hk : Keeps s0 s) : Keeps s0 (goodFrame s c l t) := by
  unfold goodFrame
  repeat' first
    | with_reducible assumption
    | with_reducible apply State.setChan_keeps
    | with_reducible apply calTrigger_keeps
    | with_reducible apply ampFaultMsg_keeps
    | with_reducible apply supplyCheck_keeps
    | with_reducible refine Keeps.foldl _ (fun _ _ _ => ?_) ?_
    | intro st
    | lift_lets
    | split

theorem badFrame_keeps (c t : Nat) (hk : Keeps s0 s) : Keeps s0 (badFrame s c t) := by
  unfold badFrame
  repeat' first
    | with_reducible assumption
    | with_reducible apply State.setChan_keeps
    | with_reducible apply rxDown_keeps
    | (intro st; refine Keeps.cut (s0 := s0) (s := st) ?_ (fun hst => ?_); (on_goal 1 => simp only [st]); (on_goal 2 => clear_value st))
    | intro st
    | lift_lets
    | split

theorem driveInAct_keeps (c : Nat) (l : List Byte) (t : Nat) (hk : Keeps s0 s) : Keeps s0 (driveInAct c l t s) := by
  unfold driveInAct
  repeat' first
    | with_reducible assumption
    | with_reducible apply State.setChan_keeps
    | with_reducible apply badFrame_keeps
    | with_reducible apply goodFrame_keeps
    | (intro st; refine Keeps.cut (s0 := s0) (s := st) ?_ (fun hst => ?_); (on_goal 1 => simp only [st]); (on_goal 2 => clear_value st))
    | intro st
    | lift_lets
    | split

end Sys2Proof.Machine
end

