-- ==== Sys2Proof/Laws/KeepsMemory.lean ====
section
/-!
SUPPORT. What the operations of Memory.lean keep (`Keeps`).
-/
namespace Sys2Proof.Machine

variable {s0 s : State}

theorem setRankState_keeps (rank st : Nat) (hk : Keeps s0 s) : Keeps s0 (setRankState s rank st) := by
  unfold setRankState
  repeat' first
    | with_reducible assumption
    | with_reducible apply State.setRank_keeps

theorem startPage_keeps (hk : Keeps s0 s) : Keeps s0 (startPage s) := by
  unfold startPage
  repeat' first
    | with_reducible assumption
    | with_reducible apply setPageEntry_keeps
    | with_reducible refine Keeps.foldl _ (fun _ _ _ => ?_) ?_
    | intro st
    | split

theorem setQueue_keeps (q : List Migration) (hk : Keeps s0 s) : Keeps s0 (setQueue s q) := by
  unfold setQueue
  repeat' first
    | with_reducible assumption
    | (with_reducible refine Keeps.upd rfl ?_; first | with_reducible assumption)

theorem nextMigration_keeps (hk : Keeps s0 s) : Keeps s0 (nextMigration s) := by
  unfold nextMigration
  repeat' first
    | with_reducible assumption
    | with_reducible apply State.wr_keeps
    | with_reducible apply requestUp_keeps
    | with_reducible apply setRankState_keeps
    | with_reducible apply startPage_keeps
    | with_reducible apply setQueue_keeps
    | with_reducible refine Keeps.foldl _ (fun _ _ _ => ?_) ?_
    | intro st
    | split

theorem makeFailing_keeps (rank : Nat) (first : Option Nat) (hk : Keeps s0 s) : Keeps s0 (makeFailing s rank first) := by
  unfold makeFailing
  repeat' first
    | with_reducible assumption
    | with_reducible apply setRankState_keeps
    | (with_reducible refine Keeps.upd rfl ?_; first | with_reducible assumption | with_reducible apply setRankState_keeps)
    | (intro st; refine Keeps.cut (s0 := s0) (s := st) ?_ (fun hst => ?_); (on_goal 1 => simp only [st]); (on_goal 2 => clear_value st))
    | intro st
    | lift_lets
    | split

theorem assignSpare_keeps (x : Nat × Option Nat) (hk : Keeps s0 s) : Keeps s0 (assignSpare s x) := by
  unfold assignSpare
  repeat' first
    | with_reducible assumption
    | with_reducible apply State.report_keeps
    | with_reducible apply nextMigration_keeps
    | with_reducible apply setQueue_keeps
    | with_reducible apply setRankState_keeps
    | intro st
    | lift_lets
    | split

theorem assignSpares_keeps (hk : Keeps s0 s) : Keeps s0 (assignSpares s) := by
  unfold assignSpares
  repeat' first
    | with_reducible assumption
    | with_reducible apply assignSpare_keeps
    | (with_reducible refine Keeps.upd rfl ?_; first | with_reducible assumption | with_reducible apply assignSpare_keeps)
    | with_reducible refine Keeps.foldl _ (fun _ _ _ => ?_) ?_

theorem moveForward_keeps (p : Nat) (hk : Keeps s0 s) : Keeps s0 (moveForward s p) := by
  unfold moveForward
  repeat' first
    | with_reducible assumption
    | with_reducible apply setQueue_keeps

theorem retireRank_keeps (rank : Nat) (spare : Option Nat) (hk : Keeps s0 s) : Keeps s0 (retireRank s rank spare) := by
  unfold retireRank
  repeat' first
    | with_reducible assumption
    | with_reducible apply State.setRank_keeps
    | with_reducible apply State.report_keeps
    | with_reducible apply recordRetirement_keeps

theorem reassign_keeps (m : Migration) (hk : Keeps s0 s) : Keeps s0 (reassign s m).1 := by
  unfold reassign
  repeat' first
    | with_reducible assumption
    | with_reducible apply State.setRank_keeps
    | with_reducible apply State.report_keeps
    | with_reducible apply setRankState_keeps
    | split

theorem retirePages_keeps (rank : Nat) (hk : Keeps s0 s) : Keeps s0 (retirePages s rank) := by
  unfold retirePages
  repeat' first
    | with_reducible assumption
    | (with_reducible refine Keeps.upd rfl ?_; first | with_reducible assumption)

theorem reassignOnto_keeps (m : Migration) (hk : Keeps s0 s) : Keeps s0 (reassignOnto s m) := by
  unfold reassignOnto
  have h : Keeps s0 (if m.begun then s.wr E.migRank 0xFF else s) := Keeps.ite (State.wr_keeps _ _ _ _ hk) hk
  generalize (if m.begun then s.wr E.migRank 0xFF else s) = t at h
  dsimp only
  split <;> rename_i e
  · exact setQueue_keeps _ (setRankState_keeps _ _ (Keeps.of_fst e (reassign_keeps _ h)))
  · exact Keeps.of_fst e (reassign_keeps _ h)

theorem loseRank_keeps (rank : Nat) (hk : Keeps s0 s) : Keeps s0 (loseRank s rank) := by
  unfold loseRank
  repeat' first
    | with_reducible assumption
    | with_reducible apply State.report_keeps
    | with_reducible apply setRankState_keeps
    | with_reducible apply setQueue_keeps
    | with_reducible apply nextMigration_keeps
    | with_reducible apply retireRank_keeps
    | with_reducible apply retirePages_keeps
    | with_reducible apply reassignOnto_keeps
    | intro st
    | lift_lets
    | split

theorem correctableRead_keeps (rank : Nat) (addr : Nat) (page : Option Nat) (hk : Keeps s0 s) : Keeps s0 (correctableRead s rank addr page) := by
  unfold correctableRead
  repeat' first
    | with_reducible assumption
    | with_reducible apply State.count_keeps
    | with_reducible apply State.setRank_keeps
    | with_reducible apply State.report_keeps
    | with_reducible apply makeFailing_keeps
    | (intro st; refine Keeps.cut (s0 := s0) (s := st) ?_ (fun hst => ?_); (on_goal 1 => simp only [st]); (on_goal 2 => clear_value st))
    | intro st
    | lift_lets
    | split

theorem uncorrectableRead_keeps (rank : Nat) (block addr : Nat) (page : Option Nat) (hk : Keeps s0 s) : Keeps s0 (uncorrectableRead s rank block addr page) := by
  unfold uncorrectableRead
  repeat' first
    | with_reducible assumption
    | with_reducible apply State.count_keeps
    | with_reducible apply State.setRank_keeps
    | with_reducible apply State.report_keeps
    | with_reducible apply makeFailing_keeps
    | with_reducible apply moveForward_keeps
    | with_reducible apply loseRank_keeps
    | (with_reducible refine Keeps.upd rfl ?_; first | with_reducible assumption | with_reducible apply State.count_keeps | with_reducible apply State.setRank_keeps | with_reducible apply State.report_keeps | with_reducible apply makeFailing_keeps | with_reducible apply moveForward_keeps | with_reducible apply loseRank_keeps)
    | (intro st; refine Keeps.cut (s0 := s0) (s := st) ?_ (fun hst => ?_); (on_goal 1 => simp only [st]); (on_goal 2 => clear_value st))
    | intro st
    | lift_lets
    | split

theorem blockRead_keeps (rank phys addr : Nat) (page : Option Nat) (ecc : EccResult) (hk : Keeps s0 s) : Keeps s0 (blockRead s rank phys addr page ecc) := by
  unfold blockRead
  repeat' first
    | with_reducible assumption
    | with_reducible apply correctableRead_keeps
    | with_reducible apply uncorrectableRead_keeps
    | intro st
    | lift_lets
    | split

theorem memoryReadAct_keeps (addr : Nat) (ecc mapEcc : EccResult) (hk : Keeps s0 s) : Keeps s0 (memoryReadAct addr ecc mapEcc s) := by
  unfold memoryReadAct
  repeat' first
    | with_reducible assumption
    | with_reducible apply State.report_keeps
    | with_reducible apply blockRead_keeps
    | (with_reducible refine Keeps.upd rfl ?_; first | with_reducible assumption | with_reducible apply State.report_keeps | with_reducible apply blockRead_keeps)
    | (intro st; refine Keeps.cut (s0 := s0) (s := st) ?_ (fun hst => ?_); (on_goal 1 => simp only [st]); (on_goal 2 => clear_value st))
    | intro st
    | lift_lets
    | split

theorem patrolAct_keeps (rank frame block : Nat) (ecc : EccResult) (hk : Keeps s0 s) : Keeps s0 (patrolAct rank frame block ecc s) := by
  unfold patrolAct
  repeat' first
    | with_reducible assumption
    | with_reducible apply State.draw_keeps
    | with_reducible apply blockRead_keeps
    | with_reducible apply touchRank_keeps
    | with_reducible apply wakeRank_keeps
    | (intro st; refine Keeps.cut (s0 := s0) (s := st) ?_ (fun hst => ?_); (on_goal 1 => simp only [st]); (on_goal 2 => clear_value st))
    | intro st
    | lift_lets
    | split

theorem mr4Act_keeps (rank rate : Nat) (above hot : Bool) (hk : Keeps s0 s) : Keeps s0 (mr4Act rank rate above hot s) := by
  unfold mr4Act
  repeat' first
    | with_reducible assumption
    | with_reducible apply State.setRank_keeps
    | with_reducible apply State.report_keeps
    | (intro st; refine Keeps.cut (s0 := s0) (s := st) ?_ (fun hst => ?_); (on_goal 1 => simp only [st]); (on_goal 2 => clear_value st))
    | intro st
    | lift_lets
    | split

theorem trainSpare_keeps (rank : Nat) (ok : Bool) (hk : Keeps s0 s) : Keeps s0 (trainSpare s rank ok) := by
  have hr : Keeps s0 (retireRank (s.report (rankSource rank) 3 (rank % 2)) rank none) :=
    retireRank_keeps _ _ (State.report_keeps _ _ _ hk)
  unfold trainSpare
  split
  · exact hk
  · generalize retireRank (s.report (rankSource rank) 3 (rank % 2)) rank none = t at hr
    dsimp only
    split
    · exact hr
    · split <;> rename_i e <;> exact setQueue_keeps _ (Keeps.of_fst e (reassign_keeps _ hr))

theorem bringupAct_keeps (ok0 ok1 : Bool) (hk : Keeps s0 s) : Keeps s0 (bringupAct ok0 ok1 s) := by
  unfold bringupAct
  repeat' first
    | with_reducible assumption
    | with_reducible apply State.report_keeps
    | with_reducible apply nextMigration_keeps
    | with_reducible apply trainSpare_keeps
    | (with_reducible refine Keeps.upd rfl ?_; first | with_reducible assumption | with_reducible apply State.report_keeps | with_reducible apply nextMigration_keeps | with_reducible apply trainSpare_keeps)
    | (intro st; refine Keeps.cut (s0 := s0) (s := st) ?_ (fun hst => ?_); (on_goal 1 => simp only [st]); (on_goal 2 => clear_value st))
    | intro st
    | lift_lets
    | split

theorem poisonBlock_keeps (p dst : Nat) (b : Nat) (hk : Keeps s0 s) : Keeps s0 (poisonBlock s p dst b) := by
  unfold poisonBlock
  repeat' first
    | with_reducible assumption
    | with_reducible apply State.count_keeps
    | with_reducible apply State.report_keeps
    | with_reducible apply setPageEntry_keeps
    | (with_reducible refine Keeps.upd rfl ?_; first | with_reducible assumption | with_reducible apply State.count_keeps | with_reducible apply State.report_keeps | with_reducible apply setPageEntry_keeps)

theorem pageSwitchAct_keeps (bad : List Nat) (hk : Keeps s0 s) : Keeps s0 (pageSwitchAct bad s) := by
  unfold pageSwitchAct
  repeat' first
    | with_reducible assumption
    | with_reducible apply State.copyBytes_keeps
    | with_reducible apply State.wr_keeps
    | with_reducible apply poisonBlock_keeps
    | with_reducible apply setPageEntry_keeps
    | with_reducible apply setQueue_keeps
    | with_reducible apply startPage_keeps
    | with_reducible apply touchRank_keeps
    | (with_reducible refine Keeps.upd rfl ?_; first | with_reducible assumption | with_reducible apply State.copyBytes_keeps | with_reducible apply State.wr_keeps | with_reducible apply poisonBlock_keeps | with_reducible apply setPageEntry_keeps | with_reducible apply setQueue_keeps | with_reducible apply startPage_keeps | with_reducible apply touchRank_keeps)
    | with_reducible refine Keeps.foldl _ (fun _ _ _ => ?_) ?_
    | intro st
    | split

theorem zeroFree_keeps (rank : Nat) (hk : Keeps s0 s) : Keeps s0 (zeroFree s rank) := by
  unfold zeroFree
  repeat' first
    | with_reducible assumption
    | with_reducible apply State.clearBytes_keeps
    | with_reducible apply touchRank_keeps
    | (with_reducible refine Keeps.upd rfl ?_; first | with_reducible assumption | with_reducible apply State.clearBytes_keeps | with_reducible apply touchRank_keeps)
    | with_reducible refine Keeps.foldl _ (fun _ _ _ => ?_) ?_
    | (intro st; refine Keeps.cut (s0 := s0) (s := st) ?_ (fun hst => ?_); (on_goal 1 => simp only [st]); (on_goal 2 => clear_value st))
    | intro st
    | lift_lets

theorem migrationEndAct_keeps (hk : Keeps s0 s) : Keeps s0 (migrationEndAct s) := by
  unfold migrationEndAct
  repeat' first
    | with_reducible assumption
    | with_reducible apply State.wr_keeps
    | with_reducible apply setRankState_keeps
    | with_reducible apply setQueue_keeps
    | with_reducible apply nextMigration_keeps
    | with_reducible apply retireRank_keeps
    | with_reducible apply zeroFree_keeps
    | with_reducible refine Keeps.foldl _ (fun _ _ _ => ?_) ?_
    | intro st
    | split

theorem mapAct_keeps (op : Nat) (hk : Keeps s0 s) : Keeps s0 (mapAct op s).2 := by
  unfold mapAct
  repeat' first
    | with_reducible assumption
    | with_reducible apply State.wr_keeps
    | with_reducible apply setPageEntry_keeps
    | (with_reducible refine Keeps.upd rfl ?_; first | with_reducible assumption | with_reducible apply State.wr_keeps | with_reducible apply setPageEntry_keeps)
    | (intro st; refine Keeps.cut (s0 := s0) (s := st) ?_ (fun hst => ?_); (on_goal 1 => simp only [st]); (on_goal 2 => clear_value st))
    | intro st
    | lift_lets
    | split

theorem pdAct_keeps (rank : Nat) (hk : Keeps s0 s) : Keeps s0 (pdAct rank s) := by
  unfold pdAct
  repeat' first
    | with_reducible assumption
    | with_reducible apply State.setRank_keeps
    | split

theorem srAct_keeps (rank : Nat) (hk : Keeps s0 s) : Keeps s0 (srAct rank s) := by
  unfold srAct
  repeat' first
    | with_reducible assumption
    | with_reducible apply State.setRank_keeps
    | intro st
    | lift_lets
    | split

theorem srExitAct_keeps (rank : Nat) (hk : Keeps s0 s) : Keeps s0 (srExitAct rank s) := by
  unfold srExitAct
  repeat' first
    | with_reducible assumption
    | with_reducible apply State.setRank_keeps
    | split

theorem enterSelfRefresh_keeps (hk : Keeps s0 s) : Keeps s0 (enterSelfRefresh s) := by
  unfold enterSelfRefresh
  repeat' first
    | with_reducible assumption
    | (with_reducible refine Keeps.upd rfl ?_; first | with_reducible assumption)

theorem initStep_keeps (hk : Keeps s0 s) : Keeps s0 (initStep s) := by
  unfold initStep
  repeat' first
    | with_reducible assumption
    | with_reducible apply State.draw_keeps
    | with_reducible apply State.wr_keeps
    | (with_reducible refine Keeps.upd rfl ?_; first | with_reducible assumption | with_reducible apply State.draw_keeps | with_reducible apply State.wr_keeps)
    | with_reducible refine Keeps.foldl _ (fun _ _ _ => ?_) ?_
    | intro st
    | lift_lets
    | split

theorem initDoneAct_keeps (hk : Keeps s0 s) : Keeps s0 (initDoneAct s) := by
  unfold initDoneAct
  repeat' first
    | with_reducible assumption
    | with_reducible apply State.wr_keeps
    | (with_reducible refine Keeps.upd rfl ?_; first | with_reducible assumption | with_reducible apply State.wr_keeps)
    | split

theorem sramClearAct_keeps (hk : Keeps s0 s) : Keeps s0 (sramClearAct s) := by
  unfold sramClearAct
  repeat' first
    | with_reducible assumption
    | with_reducible apply State.clearBytes_keeps
    | with_reducible apply nextPowerUp_keeps
    | with_reducible apply setDom_keeps
    | (with_reducible refine Keeps.upd rfl ?_; first | with_reducible assumption | with_reducible apply State.clearBytes_keeps | with_reducible apply nextPowerUp_keeps | with_reducible apply setDom_keeps)
    | (intro st; refine Keeps.cut (s0 := s0) (s := st) ?_ (fun hst => ?_); (on_goal 1 => simp only [st]); (on_goal 2 => clear_value st))
    | intro st
    | lift_lets
    | split

theorem sramEcc_keeps (a n : Nat) (ecc : EccResult) (hk : Keeps s0 s) : Keeps s0 (sramEcc s a n ecc) := by
  unfold sramEcc
  repeat' first
    | with_reducible assumption
    | with_reducible apply sramRead_keeps

theorem sramAccess_keeps (r : SramReq) (hk : Keeps s0 s) : Keeps s0 (sramAccess s r) := by
  unfold sramAccess
  repeat' first
    | with_reducible assumption
    | with_reducible apply State.emit_keeps
    | with_reducible apply sramEcc_keeps
    | with_reducible apply sramPut_keeps
    | (intro st; refine Keeps.cut (s0 := s0) (s := st) ?_ (fun hst => ?_); (on_goal 1 => simp only [st]); (on_goal 2 => clear_value st))
    | intro st
    | lift_lets
    | split

theorem holdSram_keeps (l : List SramReq) (hk : Keeps s0 s) : Keeps s0 (holdSram s l) := by
  unfold holdSram
  repeat' first
    | with_reducible assumption
    | (with_reducible refine Keeps.upd rfl ?_; first | with_reducible assumption)

end Sys2Proof.Machine
end

