-- ==== Sys2Proof/Laws/KeepsBurnisher.lean ====
section
/-!
SUPPORT. What the operations of Burnisher.lean keep (`Keeps`).
-/
namespace Sys2Proof.Machine

variable {s0 s : State}

theorem calStartAct_keeps (k : Nat) (hk : Keeps s0 s) : Keeps s0 (calStartAct k s) := by
  unfold calStartAct
  repeat' first
    | with_reducible assumption
    | with_reducible apply State.wr_keeps
    | with_reducible apply State.setCal_keeps
    | intro st
    | lift_lets
    | split

theorem calDiscard_keeps (k : Nat) (hk : Keeps s0 s) : Keeps s0 (calDiscard s k) := by
  unfold calDiscard
  repeat' first
    | with_reducible assumption
    | with_reducible apply State.report_keeps
    | with_reducible apply State.setBytes_keeps
    | with_reducible apply State.setCal_keeps
    | with_reducible apply State.wr_keeps
    | intro st
    | lift_lets
    | split

theorem setTrim_keeps (k i v : Nat) (hk : Keeps s0 s) : Keeps s0 (setTrim s k i v) := by
  unfold setTrim
  repeat' first
    | with_reducible assumption
    | with_reducible apply State.setCal_keeps

theorem nextTrim_keeps (phase v : Nat) (hk : Keeps s0 s) : Keeps s0 (nextTrim s phase v) := by
  unfold nextTrim
  repeat' first
    | with_reducible assumption
    | (with_reducible refine Keeps.upd rfl ?_; first | with_reducible assumption)
    | intro st
    | lift_lets
    | split

theorem setByteAt_keeps (a v : Nat) (hk : Keeps s0 s) : Keeps s0 (setByteAt s a v) := by
  unfold setByteAt
  repeat' first
    | with_reducible assumption
    | with_reducible apply State.setBytes_keeps

theorem calRow_keeps (sweep : Bool) (k : Nat) (r : Nat × Nat × Nat × Nat) (hk : Keeps s0 s) : Keeps s0 (calRow sweep k s r) := by
  unfold calRow
  repeat' first
    | with_reducible assumption
    | with_reducible apply State.report_keeps
    | with_reducible apply State.setChan_keeps
    | with_reducible apply State.wr_keeps
    | with_reducible apply loseRank_keeps
    | with_reducible apply nextTrim_keeps
    | with_reducible apply setByteAt_keeps
    | with_reducible apply setTrim_keeps
    | (intro st; refine Keeps.cut (s0 := s0) (s := st) ?_ (fun hst => ?_); (on_goal 1 => simp only [st]); (on_goal 2 => clear_value st))
    | intro st
    | split
    | lift_lets

theorem vernResult_keeps (rows : List (Nat × Nat × Nat × Nat)) (hk : Keeps s0 s) : Keeps s0 (vernResult rows s) := by
  unfold vernResult
  repeat' first
    | with_reducible assumption
    | with_reducible apply State.report_keeps
    | with_reducible apply State.wr_keeps
    | with_reducible refine Keeps.foldl _ (fun _ _ _ => ?_) ?_
    | (intro st; refine Keeps.cut (s0 := s0) (s := st) ?_ (fun hst => ?_); (on_goal 1 => simp only [st]); (on_goal 2 => clear_value st))
    | intro st
    | lift_lets
    | split

theorem vernStep_keeps (hk : Keeps s0 s) : Keeps s0 (vernStep s) := by
  unfold vernStep
  repeat' first
    | with_reducible assumption
    | (with_reducible refine Keeps.upd rfl ?_; first | with_reducible assumption)
    | intro st
    | lift_lets
    | split

theorem calCompleteAct_keeps (k : Nat) (res : CalResult) (hk : Keeps s0 s) : Keeps s0 (calCompleteAct k res s) := by
  unfold calCompleteAct
  repeat' first
    | with_reducible assumption
    | with_reducible apply State.setCal_keeps
    | with_reducible apply State.wr_keeps
    | with_reducible apply calDiscard_keeps
    | with_reducible apply calRow_keeps
    | with_reducible apply vernResult_keeps
    | with_reducible refine Keeps.foldl _ (fun _ _ _ => ?_) ?_
    | (intro st; refine Keeps.cut (s0 := s0) (s := st) ?_ (fun hst => ?_); (on_goal 1 => simp only [st]); (on_goal 2 => clear_value st))
    | intro st
    | lift_lets
    | split

theorem calCmdAct_keeps (v : Nat) (hk : Keeps s0 s) : Keeps s0 (calCmdAct v s).2 := by
  unfold calCmdAct
  repeat' first
    | with_reducible assumption
    | with_reducible apply calTrigger_keeps
    | with_reducible refine Keeps.foldl _ (fun _ _ _ => ?_) ?_
    | split

end Sys2Proof.Machine
end

