-- ==== Sys2Proof/Laws/KeepsDma.lean ====
section
/-!
SUPPORT. What the operations of Dma.lean keep (`Keeps`).
-/
namespace Sys2Proof.Machine

variable {s0 s : State}

theorem loadBlock_keeps (n : Nat) (b : Block) (hk : Keeps s0 s) : Keeps s0 (loadBlock s n b) := by
  unfold loadBlock
  repeat' first
    | with_reducible assumption
    | with_reducible apply State.wr_keeps

theorem dmaWrite_keeps (a : Nat) (data : List Byte) (hk : Keeps s0 s) : Keeps s0 (dmaWrite s a data) := by
  unfold dmaWrite
  repeat' first
    | with_reducible assumption
    | with_reducible apply State.setBytes_keeps
    | with_reducible apply logicalWrite_keeps
    | with_reducible apply shadowWrite_keeps
    | with_reducible apply sramPut_keeps
    | split

theorem dmaStop_keeps (n result side addr : Nat) (say : Bool) (hk : Keeps s0 s) : Keeps s0 (dmaStop s n result side addr say) := by
  unfold dmaStop
  repeat' first
    | with_reducible assumption
    | with_reducible apply State.wr_keeps
    | with_reducible apply State.setDma_keeps
    | with_reducible apply State.report_keeps
    | (intro st; refine Keeps.cut (s0 := s0) (s := st) ?_ (fun hst => ?_); (on_goal 1 => simp only [st]); (on_goal 2 => clear_value st))
    | intro st
    | lift_lets
    | split

theorem dmaAborted_keeps (n : Nat) (hk : Keeps s0 s) : Keeps s0 (dmaAborted s n) := by
  unfold dmaAborted
  repeat' first
    | with_reducible assumption
    | with_reducible apply State.setDma_keeps

theorem fenceDma_keeps (n : Nat) (hk : Keeps s0 s) : Keeps s0 (fenceDma s n) := by
  unfold fenceDma
  repeat' first
    | with_reducible assumption
    | with_reducible apply dmaAborted_keeps

theorem beginLoad_keeps (n : Nat) (hk : Keeps s0 s) : Keeps s0 (beginLoad s n) := by
  unfold beginLoad
  repeat' first
    | with_reducible assumption
    | with_reducible apply State.setDma_keeps
    | with_reducible apply dmaStop_keeps
    | split

theorem completeBlock_keeps (n : Nat) (hk : Keeps s0 s) : Keeps s0 (completeBlock s n) := by
  unfold completeBlock
  repeat' first
    | with_reducible assumption
    | with_reducible apply State.wr_keeps
    | with_reducible apply State.setDma_keeps
    | with_reducible apply maskedEvent_keeps
    | with_reducible apply beginLoad_keeps
    | (intro st; refine Keeps.cut (s0 := s0) (s := st) ?_ (fun hst => ?_); (on_goal 1 => simp only [st]); (on_goal 2 => clear_value st))
    | intro st
    | lift_lets
    | split

theorem dmaStartAct_keeps (n : Nat) (hk : Keeps s0 s) : Keeps s0 (dmaStartAct n s).2 := by
  unfold dmaStartAct
  repeat' first
    | with_reducible assumption
    | with_reducible apply State.wr_keeps
    | with_reducible apply State.count_keeps
    | with_reducible apply State.setDma_keeps
    | with_reducible apply completeBlock_keeps
    | (intro st; refine Keeps.cut (s0 := s0) (s := st) ?_ (fun hst => ?_); (on_goal 1 => simp only [st]); (on_goal 2 => clear_value st))
    | intro st
    | lift_lets
    | split

theorem dmaPauseAct_keeps (n : Nat) (hk : Keeps s0 s) : Keeps s0 (dmaPauseAct n s).2 := by
  unfold dmaPauseAct
  repeat' first
    | with_reducible assumption
    | with_reducible apply State.wr_keeps
    | with_reducible apply State.setDma_keeps
    | with_reducible apply State.act_keeps

theorem dmaUnpauseAct_keeps (n : Nat) (hk : Keeps s0 s) : Keeps s0 (dmaUnpauseAct n s).2 := by
  unfold dmaUnpauseAct
  repeat' first
    | with_reducible assumption
    | with_reducible apply State.wr_keeps
    | with_reducible apply State.setDma_keeps

theorem dmaAbortAct_keeps (n : Nat) (hk : Keeps s0 s) : Keeps s0 (dmaAbortAct n s).2 := by
  unfold dmaAbortAct
  repeat' first
    | with_reducible assumption
    | with_reducible apply State.setDma_keeps
    | with_reducible apply State.act_keeps
    | with_reducible apply dmaAborted_keeps
    | (intro st; refine Keeps.cut (s0 := s0) (s := st) ?_ (fun hst => ?_); (on_goal 1 => simp only [st]); (on_goal 2 => clear_value st))
    | intro st
    | lift_lets
    | split

theorem dmaRunAct_keeps (hk : Keeps s0 s) : Keeps s0 (dmaRunAct s) := by
  unfold dmaRunAct
  repeat' first
    | with_reducible assumption
    | with_reducible apply State.count_keeps
    | with_reducible apply State.setDma_keeps
    | with_reducible apply beginLoad_keeps
    | with_reducible apply completeBlock_keeps
    | (intro st; refine Keeps.cut (s0 := s0) (s := st) ?_ (fun hst => ?_); (on_goal 1 => simp only [st]); (on_goal 2 => clear_value st))
    | intro st
    | lift_lets
    | split

theorem moveUnits_keeps (n k : Nat) (hk : Keeps s0 s) : Keeps s0 (moveUnits s n k) := by
  unfold moveUnits
  repeat' first
    | with_reducible assumption
    | with_reducible apply State.count_keeps
    | with_reducible apply State.setDma_keeps
    | with_reducible apply State.wr_keeps
    | with_reducible apply dmaWrite_keeps
    | with_reducible apply touchRead_keeps
    | with_reducible refine Keeps.foldl _ (fun _ _ _ => ?_) ?_
    | intro st
    | lift_lets
    | split

theorem burstEcc_keeps (b : Block) (k : Nat) (ecc : EccResult) (hk : Keeps s0 s) : Keeps s0 (burstEcc s b k ecc) := by
  unfold burstEcc
  repeat' first
    | with_reducible assumption
    | with_reducible apply sramEcc_keeps
    | with_reducible refine Keeps.foldl _ (fun _ _ _ => ?_) ?_
    | intro st
    | lift_lets
    | split

theorem burstAct_keeps (n : Nat) (ecc : EccResult) (hk : Keeps s0 s) : Keeps s0 (burstAct n ecc s) := by
  unfold burstAct
  repeat' first
    | with_reducible assumption
    | with_reducible apply State.count_keeps
    | with_reducible apply State.setDma_keeps
    | with_reducible apply burstEcc_keeps
    | with_reducible apply dmaAborted_keeps
    | with_reducible apply dmaStop_keeps
    | with_reducible apply moveUnits_keeps
    | with_reducible apply wakeRank_keeps
    | with_reducible refine Keeps.foldl _ (fun _ _ _ => ?_) ?_
    | (intro st; refine Keeps.cut (s0 := s0) (s := st) ?_ (fun hst => ?_); (on_goal 1 => simp only [st]); (on_goal 2 => clear_value st))
    | intro st
    | lift_lets
    | split

theorem busTimeoutAct_keeps (n side : Nat) (hk : Keeps s0 s) : Keeps s0 (busTimeoutAct n side s) := by
  unfold busTimeoutAct
  repeat' first
    | with_reducible assumption
    | with_reducible apply dmaStop_keeps
    | with_reducible apply dmaAborted_keeps
    | intro st
    | lift_lets
    | split

theorem blockCompleteAct_keeps (n : Nat) (hk : Keeps s0 s) : Keeps s0 (blockCompleteAct n s) := by
  unfold blockCompleteAct
  repeat' first
    | with_reducible assumption
    | with_reducible apply dmaAborted_keeps
    | with_reducible apply completeBlock_keeps
    | intro st
    | lift_lets
    | split

theorem descriptorAct_keeps (n : Nat) (ecc : EccResult) (hk : Keeps s0 s) : Keeps s0 (descriptorAct n ecc s) := by
  unfold descriptorAct
  repeat' first
    | with_reducible assumption
    | with_reducible apply State.count_keeps
    | with_reducible apply State.setDma_keeps
    | with_reducible apply State.wr_keeps
    | with_reducible apply dmaAborted_keeps
    | with_reducible apply dmaStop_keeps
    | with_reducible apply loadBlock_keeps
    | with_reducible apply sramEcc_keeps
    | with_reducible apply touchRead_keeps
    | with_reducible apply wakeRank_keeps
    | with_reducible refine Keeps.foldl _ (fun _ _ _ => ?_) ?_
    | (intro st; refine Keeps.cut (s0 := s0) (s := st) ?_ (fun hst => ?_); (on_goal 1 => simp only [st]); (on_goal 2 => clear_value st))
    | intro st
    | lift_lets
    | split

theorem commitRequestAct_keeps (n : Nat) (hk : Keeps s0 s) : Keeps s0 (commitRequestAct n s) := by
  unfold commitRequestAct
  repeat' first
    | with_reducible assumption
    | with_reducible apply State.setDma_keeps
    | with_reducible apply requestCommit_keeps
    | (intro st; refine Keeps.cut (s0 := s0) (s := st) ?_ (fun hst => ?_); (on_goal 1 => simp only [st]); (on_goal 2 => clear_value st))
    | intro st
    | lift_lets
    | split

theorem doneClearAct_keeps (v : Nat) (hk : Keeps s0 s) : Keeps s0 (doneClearAct v s).2 := by
  unfold doneClearAct
  repeat' first
    | with_reducible assumption
    | with_reducible apply State.wr_keeps

theorem rbWrAct_keeps (r v : Nat) (hk : Keeps s0 s) : Keeps s0 (rbWrAct r v s).2 := by
  unfold rbWrAct
  repeat' first
    | with_reducible assumption
    | with_reducible apply State.wr_keeps
    | split

theorem geometryAct_keeps (r : Nat) (f : GeoField) (v : Nat) (hk : Keeps s0 s) : Keeps s0 (geometryAct r f v s).2 := by
  unfold geometryAct
  repeat' first
    | with_reducible assumption
    | with_reducible apply State.wr_keeps

end Sys2Proof.Machine
end

