-- ==== Sys2Proof/Laws/KeepsGovernor.lean ====
section
/-!
SUPPORT. What the operations of Governor.lean keep (`Keeps`).
-/
namespace Sys2Proof.Machine

variable {s0 s : State}

theorem learnRateStep_keeps (e rate : Nat) (hk : Keeps s0 s) : Keeps s0 (learnRateStep s e rate) := by
  unfold learnRateStep
  repeat' first
    | with_reducible assumption
    | with_reducible apply State.setEng_keeps
    | with_reducible apply discardLearn_keeps
    | intro st
    | lift_lets
    | split

theorem rateStep_keeps (c : Nat) (hk : Keeps s0 s) : Keeps s0 (rateStep s c) := by
  unfold rateStep
  repeat' first
    | with_reducible assumption
    | with_reducible apply State.setChan_keeps
    | with_reducible apply learnRateStep_keeps
    | (intro st; refine Keeps.cut (s0 := s0) (s := st) ?_ (fun hst => ?_); (on_goal 1 => simp only [st]); (on_goal 2 => clear_value st))
    | intro st
    | lift_lets
    | split

theorem takeLimits_keeps (hk : Keeps s0 s) : Keeps s0 (takeLimits s) := by
  unfold takeLimits
  repeat' first
    | with_reducible assumption
    | (with_reducible refine Keeps.upd rfl ?_; first | with_reducible assumption)

theorem girthStep_keeps (hk : Keeps s0 s) : Keeps s0 (girthStep s) := by
  unfold girthStep
  try dsimp only
  repeat' first
    | with_reducible assumption
    | with_reducible apply State.wr_keeps
    | with_reducible apply State.count_keeps
    | with_reducible apply roundWord_keeps
    | (with_reducible refine Keeps.upd rfl ?_; first | with_reducible assumption | with_reducible apply State.wr_keeps | with_reducible apply State.count_keeps | with_reducible apply roundWord_keeps)
    | with_reducible refine Keeps.foldl _ (fun _ _ _ => ?_) ?_
    | split

theorem governorLoop_keeps (hk : Keeps s0 s) : Keeps s0 (governorLoop s) := by
  unfold governorLoop
  repeat' first
    | with_reducible assumption
    | with_reducible apply State.wr_keeps

theorem targetStep_keeps (hk : Keeps s0 s) : Keeps s0 (targetStep s) := by
  unfold targetStep
  repeat' first
    | with_reducible assumption
    | with_reducible apply State.wr_keeps

theorem planningAct_keeps (hk : Keeps s0 s) : Keeps s0 (planningAct s) := by
  unfold planningAct
  repeat' first
    | with_reducible assumption
    | with_reducible apply girthStep_keeps
    | with_reducible apply governorLoop_keeps
    | with_reducible apply raiseEvent_keeps
    | with_reducible apply rateStep_keeps
    | with_reducible apply sampleLoop_keeps
    | with_reducible apply takeLimits_keeps
    | with_reducible apply targetStep_keeps
    | with_reducible refine Keeps.foldl _ (fun _ _ _ => ?_) ?_
    | (intro st; refine Keeps.cut (s0 := s0) (s := st) ?_ (fun hst => ?_); (on_goal 1 => simp only [st]); (on_goal 2 => clear_value st))
    | intro st
    | lift_lets
    | split

theorem restPin_keeps (hk : Keeps s0 s) : Keeps s0 (restPin s) := by
  unfold restPin
  repeat' first
    | with_reducible assumption
    | with_reducible apply State.emit_keeps
    | (with_reducible refine Keeps.upd rfl ?_; first | with_reducible assumption | with_reducible apply State.emit_keeps)
    | intro st
    | lift_lets
    | split

theorem pwmStart_keeps (hk : Keeps s0 s) : Keeps s0 (pwmStart s) := by
  unfold pwmStart
  repeat' first
    | with_reducible assumption
    | with_reducible apply State.emit_keeps
    | with_reducible apply restPin_keeps
    | (with_reducible refine Keeps.upd rfl ?_; first | with_reducible assumption | with_reducible apply State.emit_keeps | with_reducible apply restPin_keeps)
    | intro st
    | lift_lets
    | split

theorem speedLimFreqAct_keeps (v : Nat) (hk : Keeps s0 s) : Keeps s0 (speedLimFreqAct v s).2 := by
  unfold speedLimFreqAct
  repeat' first
    | with_reducible assumption
    | with_reducible apply State.wr_keeps
    | with_reducible apply pwmStart_keeps

end Sys2Proof.Machine
end

