-- ==== Sys2Proof/Laws/KeepsHeadCare.lean ====
section
/-!
SUPPORT. What the operations of HeadCare.lean keep (`Keeps`).
-/
namespace Sys2Proof.Machine

variable {s0 s : State}

theorem sensorStep_keeps (c : Nat) (hk : Keeps s0 s) : Keeps s0 (sensorStep s c) := by
  unfold sensorStep
  repeat' first
    | with_reducible assumption
    | with_reducible apply State.wr_keeps
    | with_reducible apply State.setChan_keeps
    | with_reducible apply State.report_keeps
    | (intro st; refine Keeps.cut (s0 := s0) (s := st) ?_ (fun hst => ?_); (on_goal 1 => simp only [st]); (on_goal 2 => clear_value st))
    | intro st
    | lift_lets
    | split

theorem dropPaused_keeps (c : Nat) (hk : Keeps s0 s) : Keeps s0 (dropPaused s c) := by
  unfold dropPaused
  repeat' first
    | with_reducible assumption
    | with_reducible apply dropBuilt_keeps
    | intro st
    | lift_lets
    | split

theorem pauseStep_keeps (c : Nat) (t : Int) (hk : Keeps s0 s) : Keeps s0 (pauseStep s c t) := by
  unfold pauseStep
  repeat' first
    | with_reducible assumption
    | with_reducible apply State.act_keeps
    | with_reducible apply State.report_keeps
    | with_reducible apply State.setChan_keeps
    | with_reducible apply State.wr_keeps
    | with_reducible apply discardLearn_keeps
    | with_reducible apply dropPaused_keeps
    | (intro st; refine Keeps.cut (s0 := s0) (s := st) ?_ (fun hst => ?_); (on_goal 1 => simp only [st]); (on_goal 2 => clear_value st))
    | intro st
    | lift_lets
    | split

theorem supplyStep_keeps (c : Nat) (hk : Keeps s0 s) : Keeps s0 (supplyStep s c) := by
  unfold supplyStep
  repeat' first
    | with_reducible assumption
    | with_reducible apply State.wr_keeps
    | with_reducible apply State.setChan_keeps
    | with_reducible apply roundWord_keeps
    | (intro st; refine Keeps.cut (s0 := s0) (s := st) ?_ (fun hst => ?_); (on_goal 1 => simp only [st]); (on_goal 2 => clear_value st))
    | intro st
    | lift_lets
    | split

theorem stretchStep_keeps (c e : Nat) (t : Int) (hk : Keeps s0 s) : Keeps s0 (stretchStep s c e t) := by
  unfold stretchStep
  repeat' first
    | with_reducible assumption
    | with_reducible apply State.wr_keeps
    | with_reducible apply State.setChan_keeps

theorem energyStep_keeps (c e : Nat) (hk : Keeps s0 s) : Keeps s0 (energyStep s c e) := by
  unfold energyStep
  repeat' first
    | with_reducible assumption
    | with_reducible apply State.setChan_keeps

theorem careStep_keeps (broke : List Nat) (c : Nat) (hk : Keeps s0 s) : Keeps s0 (careStep broke s c) := by
  unfold careStep
  repeat' first
    | with_reducible assumption
    | with_reducible apply State.report_keeps
    | with_reducible apply State.wr_keeps
    | with_reducible apply energyStep_keeps
    | with_reducible apply pauseStep_keeps
    | with_reducible apply sampleLoop_keeps
    | with_reducible apply stretchStep_keeps
    | with_reducible apply supplyCheck_keeps
    | with_reducible apply supplyStep_keeps
    | (intro st; refine Keeps.cut (s0 := s0) (s := st) ?_ (fun hst => ?_); (on_goal 1 => simp only [st]); (on_goal 2 => clear_value st))
    | intro st
    | lift_lets
    | split

theorem headCareAct_keeps (hk : Keeps s0 s) : Keeps s0 (headCareAct s) := by
  unfold headCareAct
  repeat' first
    | with_reducible assumption
    | with_reducible apply careStep_keeps
    | with_reducible apply sensorStep_keeps
    | with_reducible refine Keeps.foldl _ (fun _ _ _ => ?_) ?_

end Sys2Proof.Machine
end

