-- ==== Sys2Proof/Laws/KeepsIntake.lean ====
section
/-!
SUPPORT. What the operations of Intake.lean keep (`Keeps`).
-/
namespace Sys2Proof.Machine

variable {s0 s : State}

theorem portReport_keeps (p kind addr : Nat) (hk : Keeps s0 s) : Keeps s0 (portReport s p kind addr) := by
  unfold portReport
  repeat' first
    | with_reducible assumption
    | with_reducible apply State.setPort_keeps
    | with_reducible apply State.report_keeps
    | intro st
    | lift_lets
    | split

theorem advance_keeps (r n : Nat) (hk : Keeps s0 s) : Keeps s0 (advance r n s) := by
  induction n generalizing s with
  | zero => exact hk
  | succ n ih =>
    unfold advance
    extract_lets x k l
    split
    · exact ih (State.wr_keeps _ _ _ _ (Keeps.upd rfl hk))
    · exact hk

theorem advanceAll_keeps (r : Nat) (hk : Keeps s0 s) : Keeps s0 (advanceAll s r) := by
  unfold advanceAll
  repeat' first
    | with_reducible assumption
    | with_reducible apply advance_keeps

theorem drawBytes_keeps (n : Nat) (hk : Keeps s0 s) : Keeps s0 (drawBytes n s).2 := by
  induction n generalizing s with
  | zero => exact hk
  | succ n ih => exact ih (Keeps.upd rfl hk)

theorem fillBytes_keeps (r k g : Nat) (ecc : EccResult) (hk : Keeps s0 s) : Keeps s0 (fillBytes s r k g ecc).2 := by
  unfold fillBytes
  repeat' first
    | with_reducible assumption
    | with_reducible apply drawBytes_keeps
    | with_reducible apply touchRead_keeps
    | intro st
    | lift_lets
    | split

theorem fillSegment_keeps (r k : Nat) (ecc : EccResult) (g : Nat) (hk : Keeps s0 s) : Keeps s0 (fillSegment r k ecc s g) := by
  unfold fillSegment
  repeat' first
    | with_reducible assumption
    | with_reducible apply State.setStream_keeps
    | with_reducible apply fillBytes_keeps
    | with_reducible apply holdWrite_keeps
    | with_reducible apply logicalWrite_keeps
    | intro st
    | lift_lets
    | split

theorem closeLine_keeps (r k : Nat) (say : Bool) (ecc : EccResult) (hk : Keeps s0 s) : Keeps s0 (closeLine s r k say ecc) := by
  unfold closeLine
  repeat' first
    | with_reducible assumption
    | with_reducible apply State.count_keeps
    | with_reducible apply State.setStream_keeps
    | with_reducible apply State.report_keeps
    | with_reducible apply advanceAll_keeps
    | with_reducible apply fillSegment_keeps
    | with_reducible refine Keeps.foldl _ (fun _ _ _ => ?_) ?_
    | intro st
    | lift_lets
    | split

theorem closeAbsent_keeps (r stop n k : Nat) (hk : Keeps s0 s) : Keeps s0 (closeAbsent r stop n k s).2 := by
  induction n generalizing k s with
  | zero => exact hk
  | succ n ih =>
    unfold closeAbsent
    split
    · exact hk
    · refine ih _ ?_
      split
      · exact hk
      · exact closeLine_keeps _ _ _ _ hk

theorem absentStep_keeps (r : Nat) (hk : Keeps s0 s) : Keeps s0 (absentStep s r) := by
  unfold absentStep
  repeat' first
    | with_reducible assumption
    | with_reducible apply State.setStream_keeps
    | with_reducible apply closeAbsent_keeps
    | with_reducible refine Keeps.foldl _ (fun _ _ _ => ?_) ?_

theorem absentSteps_keeps (hk : Keeps s0 s) : Keeps s0 (absentSteps s) := by
  unfold absentSteps
  repeat' first
    | with_reducible assumption
    | with_reducible apply absentStep_keeps
    | with_reducible refine Keeps.foldl _ (fun _ _ _ => ?_) ?_

theorem checkDatagram_keeps {t : State} (p : Nat) (d : Datagram) (e : checkDatagram s p d = .inr t) (hk : Keeps s0 s) :
    Keeps s0 t := by
  have hc (r : Row) : Keeps s0 (s.count r p) := State.count_keeps _ _ _ hk
  unfold checkDatagram at e
  dsimp only at e
  repeat' (split at e)
  all_goals first
    | (rw [← Sum.inr.inj e]; exact hc _)
    | (rw [← Sum.inr.inj e]; exact hk)
    | (rw [← Sum.inr.inj e]; exact portReport_keeps _ _ _ (hc _))
    | (exact absurd e Sum.inl_ne_inr)

theorem takeSegment_keeps (p : Nat) (d : Datagram) (h : RsHeader) (hk : Keeps s0 s) : Keeps s0 (takeSegment s p d h) := by
  unfold takeSegment
  repeat' first
    | with_reducible assumption
    | with_reducible apply State.count48_keeps
    | with_reducible apply State.count_keeps
    | with_reducible apply State.setStream_keeps
    | with_reducible apply State.wr_keeps
    | with_reducible apply closeLine_keeps
    | with_reducible apply holdWrite_keeps
    | with_reducible apply logicalWrite_keeps
    | with_reducible apply portReport_keeps
    | (intro st; refine Keeps.cut (s0 := s0) (s := st) ?_ (fun hst => ?_); (on_goal 1 => simp only [st]); (on_goal 2 => clear_value st))
    | intro st
    | lift_lets
    | split

theorem takeSramWrite_keeps (p : Nat) (d : Datagram) (h : RsHeader) (hk : Keeps s0 s) : Keeps s0 (takeSramWrite s p d h) := by
  unfold takeSramWrite
  repeat' first
    | with_reducible assumption
    | with_reducible apply State.count_keeps
    | with_reducible apply State.count48_keeps
    | with_reducible apply sramPut_keeps
    | with_reducible apply portReport_keeps
    | split

theorem datagramAct_keeps (p : Nat) (d : Datagram) (hk : Keeps s0 s) : Keeps s0 (datagramAct p d s) := by
  unfold datagramAct
  split
  · exact hk
  · split
    · rename_i e
      exact checkDatagram_keeps p d e hk
    · split
      · exact takeSegment_keeps _ _ _ hk
      · split
        · exact absentStep_keeps _ (State.setStream_keeps _ _ hk)
        · exact takeSramWrite_keeps _ _ _ hk

theorem retryWrite_keeps (w : WaitingWrite) (hk : Keeps s0 s) : Keeps s0 (retryWrite s w) := by
  unfold retryWrite
  repeat' first
    | with_reducible assumption
    | with_reducible apply State.setStream_keeps
    | with_reducible apply holdWrite_keeps
    | with_reducible apply logicalWrite_keeps
    | with_reducible apply portReport_keeps
    | with_reducible apply advanceAll_keeps
    | intro st
    | split
    | lift_lets

theorem retryWrites_keeps (hk : Keeps s0 s) : Keeps s0 (retryWrites s) := by
  unfold retryWrites
  repeat' first
    | with_reducible assumption
    | with_reducible apply retryWrite_keeps
    | (with_reducible refine Keeps.upd rfl ?_; first | with_reducible assumption | with_reducible apply retryWrite_keeps)
    | with_reducible refine Keeps.foldl _ (fun _ _ _ => ?_) ?_

theorem segmentDoneAct_keeps (r line seg : Nat) (hk : Keeps s0 s) : Keeps s0 (segmentDoneAct r line seg s) := by
  unfold segmentDoneAct
  repeat' first
    | with_reducible assumption
    | with_reducible apply State.setStream_keeps
    | with_reducible apply advanceAll_keeps
    | with_reducible apply absentStep_keeps
    | intro st
    | lift_lets
    | split

theorem gapTimeoutAct_keeps (r : Nat) (ecc : EccResult) (hk : Keeps s0 s) : Keeps s0 (gapTimeoutAct r ecc s) := by
  unfold gapTimeoutAct
  repeat' first
    | with_reducible assumption
    | with_reducible apply closeLine_keeps
    | with_reducible apply absentStep_keeps
    | split

theorem statusAct_keeps (r : Nat) (hk : Keeps s0 s) : Keeps s0 (statusAct r s) := by
  unfold statusAct
  repeat' first
    | with_reducible assumption
    | with_reducible apply State.emit_keeps
    | split

theorem arpAct_keeps (p : Nat) (f : Frame) (ip target : Nat) (hk : Keeps s0 s) : Keeps s0 (arpAct p f ip target s) := by
  unfold arpAct
  repeat' first
    | with_reducible assumption
    | with_reducible apply State.count_keeps
    | with_reducible apply State.emit_keeps
    | intro st
    | lift_lets
    | split

theorem solicitAct_keeps (p : Nat) (f : Frame) (ip target : List Byte) (hk : Keeps s0 s) : Keeps s0 (solicitAct p f ip target s) := by
  unfold solicitAct
  repeat' first
    | with_reducible assumption
    | with_reducible apply State.count_keeps
    | with_reducible apply State.emit_keeps
    | intro st
    | lift_lets
    | split

theorem linkDownAct_keeps (p : Nat) (hk : Keeps s0 s) : Keeps s0 (linkDownAct p s) := by
  unfold linkDownAct
  repeat' first
    | with_reducible assumption
    | with_reducible apply State.setPort_keeps
    | with_reducible apply State.report_keeps
    | intro st
    | lift_lets
    | split

theorem linkUpAct_keeps (p : Nat) (anDone : Bool) (hk : Keeps s0 s) : Keeps s0 (linkUpAct p anDone s) := by
  unfold linkUpAct
  repeat' first
    | with_reducible assumption
    | with_reducible apply State.setPort_keeps
    | split

theorem fecAct_keeps (p n : Nat) (hk : Keeps s0 s) : Keeps s0 (fecAct p n s) := by
  unfold fecAct
  repeat' first
    | with_reducible assumption
    | with_reducible apply State.count_keeps
    | with_reducible apply State.report_keeps
    | (intro st; refine Keeps.cut (s0 := s0) (s := st) ?_ (fun hst => ?_); (on_goal 1 => simp only [st]); (on_goal 2 => clear_value st))
    | intro st
    | lift_lets
    | split

theorem fencePort_keeps (p : Nat) (hk : Keeps s0 s) : Keeps s0 (fencePort s p) := by
  unfold fencePort
  repeat' first
    | with_reducible assumption
    | with_reducible apply State.setPort_keeps

theorem portEnAct_keeps (p v : Nat) (hk : Keeps s0 s) : Keeps s0 (portEnAct p v s).2 := by
  unfold portEnAct
  repeat' first
    | with_reducible assumption
    | with_reducible apply State.wr_keeps
    | with_reducible apply State.setPort_keeps
    | (intro st; refine Keeps.cut (s0 := s0) (s := st) ?_ (fun hst => ?_); (on_goal 1 => simp only [st]); (on_goal 2 => clear_value st))
    | intro st
    | lift_lets
    | split

theorem rsEnAct_keeps (r v : Nat) (hk : Keeps s0 s) : Keeps s0 (rsEnAct r v s).2 := by
  unfold rsEnAct
  repeat' first
    | with_reducible assumption
    | with_reducible apply State.wr_keeps
    | with_reducible apply State.setStream_keeps
    | (intro st; refine Keeps.cut (s0 := s0) (s := st) ?_ (fun hst => ?_); (on_goal 1 => simp only [st]); (on_goal 2 => clear_value st))
    | intro st
    | lift_lets
    | split

end Sys2Proof.Machine
end

