-- ==== Sys2Proof/Laws/KeepsLanes.lean ====
section
/-!
SUPPORT. What the operations of Lanes.lean keep (`Keeps`).
-/
namespace Sys2Proof.Machine

variable {s0 s : State}

theorem joinNow_keeps (hk : Keeps s0 s) : Keeps s0 (joinNow s) := by
  unfold joinNow
  repeat' first
    | with_reducible assumption
    | (with_reducible refine Keeps.upd rfl ?_; first | with_reducible assumption)
    | split

theorem joinUnassigned_keeps (hk : Keeps s0 s) : Keeps s0 (joinUnassigned s) := by
  unfold joinUnassigned
  repeat' first
    | with_reducible assumption
    | with_reducible apply joinNow_keeps
    | split

theorem evalSides_keeps (cause : Nat) (hk : Keeps s0 s) : Keeps s0 (evalSides s cause) := by
  unfold evalSides
  repeat' first
    | with_reducible assumption
    | with_reducible apply State.report_keeps
    | with_reducible apply joinUnassigned_keeps
    | (with_reducible refine Keeps.upd rfl ?_; first | with_reducible assumption | with_reducible apply State.report_keeps | with_reducible apply joinUnassigned_keeps)
    | intro st
    | lift_lets
    | split

theorem dropIn_keeps (i : Nat) (hk : Keeps s0 s) : Keeps s0 (dropIn s i) := by
  unfold dropIn
  repeat' first
    | with_reducible assumption
    | with_reducible apply State.setLane_keeps

theorem fenceLane_keeps (i : Nat) (hk : Keeps s0 s) : Keeps s0 (fenceLane s i) := by
  unfold fenceLane
  repeat' first
    | with_reducible assumption
    | with_reducible apply State.setLane_keeps
    | with_reducible apply evalSides_keeps
    | with_reducible apply dropIn_keeps

end Sys2Proof.Machine
end

