-- ==== Sys2Proof/Laws/KeepsShutdown.lean ====
section
/-!
SUPPORT. What the operations of Shutdown.lean keep (`Keeps`).
-/
namespace Sys2Proof.Machine

variable {s0 s : State}

theorem stopJob_keeps (hk : Keeps s0 s) : Keeps s0 (stopJob s) := by
  unfold stopJob
  repeat' first
    | with_reducible assumption
    | with_reducible apply State.act_keeps
    | with_reducible apply endJob_keeps
    | (with_reducible refine Keeps.upd rfl ?_; first | with_reducible assumption | with_reducible apply State.act_keeps | with_reducible apply endJob_keeps)
    | (intro st; refine Keeps.cut (s0 := s0) (s := st) ?_ (fun hst => ?_); (on_goal 1 => simp only [st]); (on_goal 2 => clear_value st))
    | intro st
    | lift_lets
    | split

theorem setStep_keeps (n : Nat) (hk : Keeps s0 s) : Keeps s0 (setStep s n) := by
  unfold setStep
  repeat' first
    | with_reducible assumption
    | (with_reducible refine Keeps.upd rfl ?_; first | with_reducible assumption)

theorem outputsSafe_keeps (hk : Keeps s0 s) : Keeps s0 (outputsSafe s) := by
  unfold outputsSafe
  repeat' first
    | with_reducible assumption
    | with_reducible apply abandonAll_keeps
    | with_reducible apply heaterForce_keeps
    | with_reducible apply pwmStart_keeps
    | with_reducible refine Keeps.foldl _ (fun _ _ _ => ?_) ?_

theorem drainUnits_keeps (hk : Keeps s0 s) : Keeps s0 (drainUnits s) := by
  unfold drainUnits
  repeat' first
    | with_reducible assumption
    | with_reducible apply dmaAbortAct_keeps
    | with_reducible refine Keeps.foldl _ (fun _ _ _ => ?_) ?_
    | (with_reducible refine Keeps.upd rfl ?_; first | with_reducible assumption | with_reducible apply dmaAbortAct_keeps)
    | (intro st; refine Keeps.cut (s0 := s0) (s := st) ?_ (fun hst => ?_); (on_goal 1 => simp only [st]); (on_goal 2 => clear_value st))
    | intro st
    | lift_lets

theorem stepFive_keeps (hk : Keeps s0 s) : Keeps s0 (stepFive s) := by
  unfold stepFive
  repeat' first
    | with_reducible assumption
    | with_reducible apply burnTrip_keeps
    | with_reducible apply setStep_keeps
    | with_reducible apply outputsSafe_keeps
    | (intro st; refine Keeps.cut (s0 := s0) (s := st) ?_ (fun hst => ?_); (on_goal 1 => simp only [st]); (on_goal 2 => clear_value st))
    | intro st
    | lift_lets
    | split

theorem downNext_keeps (hk : Keeps s0 s) : Keeps s0 (downNext s) := by
  unfold downNext
  repeat' first
    | with_reducible assumption
    | with_reducible apply dropPowerUp_keeps
    | with_reducible apply beginDown_keeps
    | with_reducible refine Keeps.foldl _ (fun _ _ _ => ?_) ?_
    | (intro st; refine Keeps.cut (s0 := s0) (s := st) ?_ (fun hst => ?_); (on_goal 1 => simp only [st]); (on_goal 2 => clear_value st))
    | intro st
    | lift_lets
    | split

theorem enterSafe_keeps (hk : Keeps s0 s) : Keeps s0 (enterSafe s) := by
  unfold enterSafe
  refine setDev_keeps _ (Keeps.upd rfl (Keeps.foldl _ (fun t d h => ?_) hk))
  have h' : Keeps s0 (setWaiting t d false) := setWaiting_keeps _ _ h
  exact Keeps.ite h' (clearDomain_keeps _ (setDom_keeps _ _ h'))

theorem shutdownCause_keeps (trip immediate : Bool) (hk : Keeps s0 s) : Keeps s0 (shutdownCause s trip immediate) := by
  unfold shutdownCause
  repeat' first
    | with_reducible assumption
    | with_reducible apply stepFive_keeps
    | (with_reducible refine Keeps.upd rfl ?_; first | with_reducible assumption | with_reducible apply stepFive_keeps)
    | (intro st; refine Keeps.cut (s0 := s0) (s := st) ?_ (fun hst => ?_); (on_goal 1 => simp only [st]); (on_goal 2 => clear_value st))
    | intro st
    | lift_lets
    | split

theorem ignoredReset_keeps (hk : Keeps s0 s) : Keeps s0 (ignoredReset s) := by
  unfold ignoredReset
  repeat' first
    | with_reducible assumption
    | with_reducible apply stepFive_keeps
    | split

theorem stepEndAct_keeps (hk : Keeps s0 s) : Keeps s0 (stepEndAct s) := by
  unfold stepEndAct
  repeat' first
    | with_reducible assumption
    | with_reducible apply dmaAborted_keeps
    | with_reducible apply setStep_keeps
    | with_reducible apply outputsSafe_keeps
    | with_reducible apply drainUnits_keeps
    | with_reducible apply stepFive_keeps
    | with_reducible apply downNext_keeps
    | with_reducible apply enterSafe_keeps
    | with_reducible refine Keeps.foldl _ (fun _ _ _ => ?_) ?_
    | split

end Sys2Proof.Machine
end

