-- ==== Sys2Proof/Laws/KeepsFaults.lean ====
section
/-!
SUPPORT. What the operations of Faults.lean keep (`Keeps`).
-/
namespace Sys2Proof.Machine

variable {s0 s : State}

theorem openWindow_keeps (src : Nat) (hk : Keeps s0 s) : Keeps s0 (openWindow s src) := by
  unfold openWindow
  repeat' first
    | with_reducible assumption
    | with_reducible apply State.count_keeps
    | (with_reducible refine Keeps.upd rfl ?_; with_reducible assumption)

theorem fence_keeps (src kind : Nat) (hk : Keeps s0 s) : Keeps s0 (fence s src kind) := by
  unfold fence
  try dsimp only
  repeat' first
    | with_reducible assumption
    | with_reducible apply State.act_keeps
    | with_reducible apply fenceEngine_keeps
    | with_reducible apply fenceDma_keeps
    | with_reducible apply stopJob_keeps
    | with_reducible apply fenceLane_keeps
    | with_reducible apply fencePort_keeps
    | with_reducible apply openWindow_keeps
    | with_reducible refine Keeps.foldl _ (fun _ _ _ => ?_) ?_
    | split

theorem react_keeps (src kind cls : Nat) (hk : Keeps s0 s) : Keeps s0 (react s src kind cls) := by
  unfold react
  repeat' first
    | with_reducible assumption
    | with_reducible apply stopJob_keeps
    | with_reducible apply shutdownCause_keeps
    | with_reducible apply fence_keeps
    | split

theorem personaFault_keeps (hk : Keeps s0 s) : Keeps s0 (personaFault s) := by
  unfold personaFault
  repeat' first
    | with_reducible assumption
    | (with_reducible refine Keeps.upd rfl ?_; first | with_reducible assumption)

theorem recordFault_keeps (m : FaultMsg) (hk : Keeps s0 s) : Keeps s0 (recordFault s m) := by
  unfold recordFault
  repeat' first
    | with_reducible assumption
    | with_reducible apply State.act_keeps
    | with_reducible apply State.count_keeps
    | with_reducible apply State.stale_keeps
    | with_reducible apply State.wr_keeps
    | with_reducible apply maskedEvent_keeps
    | with_reducible apply personaFault_keeps
    | (intro st; refine Keeps.cut (s0 := s0) (s := st) ?_ (fun hst => ?_); (on_goal 1 => simp only [st]); (on_goal 2 => clear_value st))
    | intro st
    | lift_lets
    | split

theorem loseFault_keeps (hk : Keeps s0 s) : Keeps s0 (loseFault s) := by
  unfold loseFault
  repeat' first
    | with_reducible assumption
    | with_reducible apply State.count_keeps
    | with_reducible apply State.stale_keeps
    | with_reducible apply State.wr_keeps

theorem collect_keeps (m : FaultMsg) (hk : Keeps s0 s) : Keeps s0 (collect s m) := by
  unfold collect
  repeat' first
    | with_reducible assumption
    | with_reducible apply react_keeps
    | with_reducible apply recordFault_keeps
    | with_reducible apply loseFault_keeps
    | split

theorem faultAct_keeps (m : FaultMsg) (hk : Keeps s0 s) : Keeps s0 (faultAct m s) := by
  unfold faultAct
  repeat' first
    | with_reducible assumption
    | with_reducible apply collect_keeps
    | (with_reducible refine Keeps.upd rfl ?_; first | with_reducible assumption | with_reducible apply collect_keeps)
    | split

theorem clearSticky_keeps (src : Nat) (hk : Keeps s0 s) : Keeps s0 (clearSticky s src) := by
  unfold clearSticky
  repeat' first
    | with_reducible assumption
    | with_reducible apply State.setEng_keeps
    | with_reducible apply State.wr_keeps
    | with_reducible apply noteCleared_keeps
    | (intro st; refine Keeps.cut (s0 := s0) (s := st) ?_ (fun hst => ?_); (on_goal 1 => simp only [st]); (on_goal 2 => clear_value st))
    | intro st
    | lift_lets
    | split

theorem clearSource_keeps (src : Nat) (hk : Keeps s0 s) : Keeps s0 (clearSource s src) := by
  unfold clearSource
  repeat' first
    | with_reducible assumption
    | with_reducible apply State.report_keeps
    | with_reducible apply clearSticky_keeps
    | with_reducible refine Keeps.foldl _ (fun _ _ _ => ?_) ?_

theorem stickyClearAct_keeps (src : Nat) (hk : Keeps s0 s) : Keeps s0 (stickyClearAct src s).2 := by
  unfold stickyClearAct
  repeat' first
    | with_reducible assumption
    | with_reducible apply clearSource_keeps

theorem clearAllAct_keeps (hk : Keeps s0 s) : Keeps s0 (clearAllAct s).2 := by
  unfold clearAllAct
  repeat' first
    | with_reducible assumption
    | with_reducible apply clearSource_keeps
    | with_reducible refine Keeps.foldl _ (fun _ _ _ => ?_) ?_

theorem lostClearAct_keeps (hk : Keeps s0 s) : Keeps s0 (lostClearAct s).2 := by
  unfold lostClearAct
  repeat' first
    | with_reducible assumption
    | with_reducible apply State.wr_keeps

theorem aliveAct_keeps (hk : Keeps s0 s) : Keeps s0 (aliveAct s) := by
  unfold aliveAct
  repeat' first
    | with_reducible assumption
    | with_reducible apply State.emit_keeps
    | (with_reducible refine Keeps.upd rfl ?_; first | with_reducible assumption | with_reducible apply State.emit_keeps)
    | split

theorem tripAct_keeps (hk : Keeps s0 s) : Keeps s0 (tripAct s) := by
  unfold tripAct
  repeat' first
    | with_reducible assumption
    | with_reducible apply State.act_keeps
    | with_reducible apply shutdownCause_keeps
    | with_reducible apply recordFault_keeps
    | (with_reducible refine Keeps.upd rfl ?_; first | with_reducible assumption | with_reducible apply State.act_keeps | with_reducible apply shutdownCause_keeps | with_reducible apply recordFault_keeps)
    | (intro st; refine Keeps.cut (s0 := s0) (s := st) ?_ (fun hst => ?_); (on_goal 1 => simp only [st]); (on_goal 2 => clear_value st))
    | intro st
    | lift_lets
    | split

end Sys2Proof.Machine
end

