-- ==== Sys2Proof/Laws/KeepsControl.lean ====
section
/-!
SUPPORT. What the operations of Control.lean keep (`Keeps`).
-/
namespace Sys2Proof.Machine

variable {s0 s : State}

theorem noteCommand_keeps (v code : Nat) (hk : Keeps s0 s) : Keeps s0 (noteCommand v code s) := by
  unfold noteCommand
  repeat' first
    | with_reducible assumption
    | with_reducible apply State.wr_keeps
    | split

theorem commandAct_keeps (code arg : Nat) (here : State → Bool) (args : List Nat) (effect : State → Nat × State) (heffect : ∀ t, Keeps s0 t → Keeps s0 (effect t).2) (hk : Keeps s0 s) : Keeps s0 (commandAct code arg here args effect s).2 := by
  unfold commandAct
  repeat' first
    | with_reducible assumption
    | with_reducible apply heffect
    | with_reducible apply noteCommand_keeps
    | (intro st; refine Keeps.cut (s0 := s0) (s := st.2) ?_ (fun hst => ?_); (on_goal 1 => simp only [st]); (on_goal 2 => clear_value st))
    | intro st
    | lift_lets
    | split

theorem prepareChannel_keeps (c : Nat) (hk : Keeps s0 s) : Keeps s0 (prepareChannel s c) := by
  unfold prepareChannel
  repeat' first
    | with_reducible assumption
    | with_reducible apply State.setChan_keeps
    | with_reducible apply askUpTo_keeps
    | (intro st; refine Keeps.cut (s0 := s0) (s := st) ?_ (fun hst => ?_); (on_goal 1 => simp only [st]); (on_goal 2 => clear_value st))
    | intro st
    | lift_lets
    | split

theorem reportLanes_keeps (c : Nat) (hk : Keeps s0 s) : Keeps s0 (reportLanes s c) := by
  unfold reportLanes
  repeat' first
    | with_reducible assumption
    | with_reducible apply State.report_keeps
    | with_reducible apply linkDownMsg_keeps
    | (intro st; refine Keeps.cut (s0 := s0) (s := st) ?_ (fun hst => ?_); (on_goal 1 => simp only [st]); (on_goal 2 => clear_value st))
    | intro st
    | lift_lets
    | split

theorem beginJob_keeps (chs : List Nat) (hk : Keeps s0 s) : Keeps s0 (beginJob s chs) := by
  unfold beginJob
  repeat' first
    | with_reducible assumption
    | with_reducible apply State.stale_keeps
    | with_reducible apply State.wr_keeps
    | with_reducible apply calDiscard_keeps
    | with_reducible apply prepareChannel_keeps
    | with_reducible apply reportLanes_keeps
    | with_reducible refine Keeps.foldl _ (fun _ _ _ => ?_) ?_
    | intro st
    | lift_lets
    | split

theorem emptyTrigger_keeps (n : Nat) (hk : Keeps s0 s) : Keeps s0 (emptyTrigger s n) := by
  unfold emptyTrigger
  repeat' first
    | with_reducible assumption
    | with_reducible apply State.wr_keeps
    | with_reducible apply State.setTrig_keeps
    | split

theorem enterArmed_keeps (chs : List Nat) (hk : Keeps s0 s) : Keeps s0 (enterArmed s chs) := by
  unfold enterArmed
  repeat' first
    | with_reducible assumption
    | with_reducible apply State.wr_keeps
    | with_reducible apply setDev_keeps
    | with_reducible apply beginJob_keeps
    | with_reducible apply emptyTrigger_keeps
    | (with_reducible refine Keeps.upd rfl ?_; first | with_reducible assumption | with_reducible apply State.wr_keeps | with_reducible apply setDev_keeps | with_reducible apply beginJob_keeps | with_reducible apply emptyTrigger_keeps)

theorem armAct_keeps (hk : Keeps s0 s) : Keeps s0 (armAct s).2 := by
  unfold armAct
  repeat' first
    | with_reducible assumption
    | with_reducible apply State.wr_keeps
    | with_reducible apply idleSwaps_keeps
    | with_reducible apply enterArmed_keeps
    | (intro st; refine Keeps.cut (s0 := s0) (s := st) ?_ (fun hst => ?_); (on_goal 1 => simp only [st]); (on_goal 2 => clear_value st))
    | intro st
    | lift_lets
    | split

theorem armCommand_keeps (arg : Nat) (hk : Keeps s0 s) : Keeps s0 (armCommand arg s).2 := by
  unfold armCommand
  repeat' first
    | with_reducible assumption
    | with_reducible apply commandAct_keeps
    | with_reducible apply armAct_keeps

theorem startAct_keeps (hk : Keeps s0 s) : Keeps s0 (startAct s).2 := by
  unfold startAct
  repeat' first
    | with_reducible assumption
    | with_reducible apply roundWord_keeps
    | with_reducible apply takeStart_keeps
    | with_reducible apply beginPages_keeps

theorem startCommand_keeps (arg : Nat) (hk : Keeps s0 s) : Keeps s0 (startCommand arg s).2 := by
  unfold startCommand
  repeat' first
    | with_reducible assumption
    | with_reducible apply commandAct_keeps
    | with_reducible apply startAct_keeps

theorem stopCommand_keeps (arg : Nat) (hk : Keeps s0 s) : Keeps s0 (stopCommand arg s).2 := by
  unfold stopCommand
  repeat' first
    | with_reducible assumption
    | with_reducible apply stopJob_keeps
    | with_reducible apply commandAct_keeps

theorem haltAct_keeps (hk : Keeps s0 s) : Keeps s0 (haltAct s) := by
  unfold haltAct
  repeat' first
    | with_reducible assumption
    | with_reducible apply endJob_keeps
    | split

theorem abortAct_keeps (hk : Keeps s0 s) : Keeps s0 (abortAct s).2 := by
  unfold abortAct
  repeat' first
    | with_reducible assumption
    | with_reducible apply State.act_keeps
    | with_reducible apply endJob_keeps
    | split

theorem abortCommand_keeps (arg : Nat) (hk : Keeps s0 s) : Keeps s0 (abortCommand arg s).2 := by
  unfold abortCommand
  repeat' first
    | with_reducible assumption
    | with_reducible apply commandAct_keeps
    | with_reducible apply abortAct_keeps

theorem releaseAct_keeps (hk : Keeps s0 s) : Keeps s0 (releaseAct s).2 := by
  unfold releaseAct
  repeat' first
    | with_reducible assumption
    | with_reducible apply setDev_keeps
    | split

theorem releaseCommand_keeps (arg : Nat) (hk : Keeps s0 s) : Keeps s0 (releaseCommand arg s).2 := by
  unfold releaseCommand
  repeat' first
    | with_reducible assumption
    | with_reducible apply commandAct_keeps
    | with_reducible apply releaseAct_keeps

theorem shutdownCommand_keeps (arg : Nat) (hk : Keeps s0 s) : Keeps s0 (shutdownCommand arg s).2 := by
  unfold shutdownCommand
  repeat' first
    | with_reducible assumption
    | with_reducible apply State.act_keeps
    | with_reducible apply shutdownCause_keeps
    | with_reducible apply commandAct_keeps
    | with_reducible refine Keeps.foldl _ (fun _ _ _ => ?_) ?_
    | intro st

theorem shutdownWrite_keeps (port : Port) (arg : Nat) (hk : Keeps s0 s) : Keeps s0 (shutdownWrite s port arg) := by
  unfold shutdownWrite
  repeat' first
    | with_reducible assumption
    | with_reducible apply writeIf_keeps
    | with_reducible apply shutdownCommand_keeps
    | with_reducible refine Keeps.foldl _ (fun _ _ _ => ?_) ?_
    | intro st

end Sys2Proof.Machine
end

