-- ==== Sys2Proof/Laws/KeepsDiag.lean ====
section
/-!
SUPPORT. What the operations of Diag.lean keep (`Keeps`).
-/
namespace Sys2Proof.Machine

variable {s0 s : State}
theorem sendPattern_keeps (hk : Keeps s0 s) : Keeps s0 (sendPattern s) := by
  unfold sendPattern
  repeat' first
    | with_reducible assumption
    | with_reducible apply State.emit_keeps
    | intro st
    | lift_lets
    | split

theorem prbsSelAct_keeps (v : Nat) (hk : Keeps s0 s) : Keeps s0 (prbsSelAct v s).2 := by
  unfold prbsSelAct
  repeat' first
    | with_reducible assumption
    | with_reducible apply State.wr_keeps
    | with_reducible apply sendPattern_keeps
    | intro st
    | lift_lets
    | split

theorem prbsLinkAct_keeps (v : Nat) (hk : Keeps s0 s) : Keeps s0 (prbsLinkAct v s).2 := by
  unfold prbsLinkAct
  repeat' first
    | with_reducible assumption
    | with_reducible apply State.wr_keeps
    | with_reducible apply sendPattern_keeps
    | intro st
    | lift_lets
    | split

theorem prbsLockAct_keeps (errors : Nat) (hk : Keeps s0 s) : Keeps s0 (prbsLockAct errors s) := by
  unfold prbsLockAct
  repeat' first
    | with_reducible assumption
    | with_reducible apply State.wr_keeps
    | with_reducible apply State.count_keeps
    | intro st
    | lift_lets
    | split

end Sys2Proof.Machine
end

