-- ==== Sys2Proof/Laws/KeepsPersonaSet.lean ====
section
/-!
SUPPORT. What the operations of PersonaSet.lean keep (`Keeps`).
-/
namespace Sys2Proof.Machine

variable {s0 s : State}
theorem personaPitch_keeps (hk : Keeps s0 s) : Keeps s0 (personaPitch s) := by
  unfold personaPitch
  repeat' first
    | with_reducible assumption
    | with_reducible apply State.stale_keeps
    | with_reducible apply State.wr_keeps
    | intro st
    | lift_lets
    | split

theorem personaNozzles_keeps (p : Nat) (hk : Keeps s0 s) : Keeps s0 (personaNozzles s p) := by
  unfold personaNozzles
  repeat' first
    | with_reducible assumption
    | with_reducible apply State.wr_keeps
    | with_reducible refine Keeps.foldl _ (fun _ _ _ => ?_) ?_

theorem personaEncoder_keeps (p : Nat) (hk : Keeps s0 s) : Keeps s0 (personaEncoder s p) := by
  unfold personaEncoder
  repeat' first
    | with_reducible assumption
    | with_reducible apply encConfigAct_keeps

theorem personaTrigger_keeps (p : Nat) (hk : Keeps s0 s) : Keeps s0 (personaTrigger s p) := by
  unfold personaTrigger
  repeat' first
    | with_reducible assumption
    | with_reducible apply State.wr_keeps

theorem personaBuffers_keeps (p : Nat) (hk : Keeps s0 s) : Keeps s0 (personaBuffers s p) := by
  unfold personaBuffers
  repeat' first
    | with_reducible assumption
    | with_reducible apply State.wr_keeps
    | with_reducible refine Keeps.foldl _ (fun _ _ _ => ?_) ?_

theorem personaEngine_keeps (e : Nat) (hk : Keeps s0 s) : Keeps s0 (personaEngine s e) := by
  unfold personaEngine
  repeat' first
    | with_reducible assumption
    | with_reducible apply State.wr_keeps

theorem personaSet_keeps (hk : Keeps s0 s) : Keeps s0 (personaSet s) := by
  unfold personaSet
  repeat' first
    | with_reducible assumption
    | with_reducible apply State.wr_keeps
    | with_reducible apply personaPitch_keeps
    | with_reducible apply personaNozzles_keeps
    | with_reducible apply personaEncoder_keeps
    | with_reducible apply personaTrigger_keeps
    | with_reducible apply personaBuffers_keeps
    | with_reducible apply personaEngine_keeps
    | with_reducible refine Keeps.foldl _ (fun _ _ _ => ?_) ?_

end Sys2Proof.Machine
end

