-- ==== Sys2Proof/Laws/KeepsFinup.lean ====
section
/-!
SUPPORT. What the operations of Finup.lean keep (`Keeps`).
-/
namespace Sys2Proof.Machine

variable {s0 s : State}

theorem instantiate_keeps (v : Nat) (p : Nat) (hk : Keeps s0 s) : Keeps s0 (instantiate v s p) := by
  unfold instantiate
  repeat' first
    | with_reducible assumption
    | with_reducible apply State.setPersona_keeps
    | intro st
    | lift_lets
    | split

theorem enterPersona_keeps (hk : Keeps s0 s) : Keeps s0 (enterPersona s) := by
  unfold enterPersona
  repeat' first
    | with_reducible assumption
    | with_reducible apply State.wr_keeps
    | with_reducible apply personaSet_keeps
    | with_reducible apply instantiate_keeps
    | with_reducible refine Keeps.foldl _ (fun _ _ _ => ?_) ?_

theorem latch_keeps (p m : Nat) (hk : Keeps s0 s) : Keeps s0 (latch s p m) := by
  unfold latch
  repeat' first
    | with_reducible assumption
    | with_reducible apply State.setPersona_keeps

theorem wrIgnored_keeps (p : Nat) (hk : Keeps s0 s) : Keeps s0 (wrIgnored s p) := by
  unfold wrIgnored
  repeat' first
    | with_reducible assumption
    | with_reducible apply latch_keeps

theorem swapBuffers_keeps (p : Nat) (hk : Keeps s0 s) : Keeps s0 (swapBuffers s p) := by
  unfold swapBuffers
  repeat' first
    | with_reducible assumption
    | with_reducible apply State.wr_keeps
    | with_reducible apply State.setPersona_keeps
    | with_reducible apply personaBuffers_keeps
    | with_reducible apply latch_keeps
    | intro st
    | lift_lets
    | split

theorem personaStart_keeps (p pos : Nat) (hk : Keeps s0 s) : Keeps s0 (personaStart s p pos) := by
  unfold personaStart
  repeat' first
    | with_reducible assumption
    | with_reducible apply State.setPersona_keeps
    | with_reducible apply State.stale_keeps
    | with_reducible apply beginPages_keeps
    | with_reducible apply latch_keeps
    | with_reducible apply maskedEvent_keeps
    | with_reducible apply setDev_keeps
    | with_reducible apply swapBuffers_keeps
    | with_reducible apply updateJob_keeps
    | (intro st; refine Keeps.cut (s0 := s0) (s := st) ?_ (fun hst => ?_); (on_goal 1 => simp only [st]); (on_goal 2 => clear_value st))
    | intro st
    | lift_lets
    | split

theorem triggerAct_keeps (n : Nat) (rising : Bool) (t : Nat) (hk : Keeps s0 s) : Keeps s0 (triggerAct n rising t s) := by
  have h := acceptTrigger_keeps n rising t hk
  unfold triggerAct
  generalize acceptTrigger n rising t s = p at h
  obtain ⟨o, u⟩ := p
  cases o with
  | none => exact h
  | some pos =>
    dsimp only
    split
    · exact personaStart_keeps _ _ h
    · exact queueTrigger_keeps _ _ h

theorem softTrig_keeps (p : Nat) (hk : Keeps s0 s) : Keeps s0 (softTrig s p) := by
  unfold softTrig
  repeat' first
    | with_reducible assumption
    | with_reducible apply personaStart_keeps

theorem runReset_keeps (p : Nat) (hk : Keeps s0 s) : Keeps s0 (runReset s p) := by
  unfold runReset
  repeat' first
    | with_reducible assumption
    | with_reducible apply State.wr_keeps
    | with_reducible apply State.setPersona_keeps

theorem refuseRun_keeps (p : Nat) (hk : Keeps s0 s) : Keeps s0 (refuseRun s p) := by
  unfold refuseRun
  repeat' first
    | with_reducible assumption
    | with_reducible apply State.setPersona_keeps
    | with_reducible apply latch_keeps

theorem runAct_keeps (p : Nat) (hk : Keeps s0 s) : Keeps s0 (runAct s p) := by
  unfold runAct
  repeat' first
    | with_reducible assumption
    | with_reducible apply State.wr_keeps
    | with_reducible apply beginJob_keeps
    | with_reducible apply enterArmed_keeps
    | with_reducible apply idleSwaps_keeps
    | with_reducible apply noteCommand_keeps
    | with_reducible apply refuseRun_keeps
    | with_reducible apply runReset_keeps
    | (intro st; refine Keeps.cut (s0 := s0) (s := st) ?_ (fun hst => ?_); (on_goal 1 => simp only [st]); (on_goal 2 => clear_value st))
    | intro st
    | lift_lets
    | split

theorem stopRun_keeps (p : Nat) (hk : Keeps s0 s) : Keeps s0 (stopRun s p) := by
  unfold stopRun
  repeat' first
    | with_reducible assumption
    | with_reducible apply State.setPersona_keeps
    | with_reducible apply abandonAll_keeps
    | with_reducible apply abortAct_keeps
    | with_reducible apply noteCommand_keeps
    | (intro st; refine Keeps.cut (s0 := s0) (s := st.2) ?_ (fun hst => ?_); (on_goal 1 => simp only [st]); (on_goal 2 => clear_value st))
    | intro st
    | lift_lets
    | split

theorem resetBufAct_keeps (p : Nat) (hk : Keeps s0 s) : Keeps s0 (resetBufAct s p) := by
  unfold resetBufAct
  repeat' first
    | with_reducible assumption
    | with_reducible apply State.setPersona_keeps

theorem dropAct_keeps (p : Nat) (d : Bool) (hk : Keeps s0 s) : Keeps s0 (dropAct s p d) := by
  unfold dropAct
  repeat' first
    | with_reducible assumption
    | with_reducible apply State.setPersona_keeps
    | with_reducible apply personaNozzles_keeps
    | with_reducible apply wrIgnored_keeps
    | intro st
    | lift_lets
    | split

theorem ctrlAct_keeps (p v : Nat) (hk : Keeps s0 s) : Keeps s0 (ctrlAct s p v) := by
  unfold ctrlAct
  repeat' first
    | with_reducible assumption
    | with_reducible apply wrIgnored_keeps
    | with_reducible apply softTrig_keeps
    | with_reducible apply runAct_keeps
    | with_reducible apply stopRun_keeps
    | with_reducible apply resetBufAct_keeps
    | with_reducible apply dropAct_keeps
    | (intro st; refine Keeps.cut (s0 := s0) (s := st) ?_ (fun hst => ?_); (on_goal 1 => simp only [st]); (on_goal 2 => clear_value st))
    | intro st
    | lift_lets
    | split

theorem setWord_keeps (p w v : Nat) (hk : Keeps s0 s) : Keeps s0 (setWord s p w v) := by
  unfold setWord
  repeat' first
    | with_reducible assumption
    | with_reducible apply State.setPersona_keeps

theorem wordEffect_keeps (p w : Nat) (hk : Keeps s0 s) : Keeps s0 (wordEffect s p w) := by
  unfold wordEffect
  repeat' first
    | with_reducible assumption
    | with_reducible apply personaPitch_keeps
    | with_reducible apply personaNozzles_keeps
    | with_reducible apply personaEncoder_keeps
    | with_reducible apply personaTrigger_keeps
    | with_reducible apply personaBuffers_keeps
    | split

theorem buildReplay_keeps (p : Nat) (i : Nat) (hk : Keeps s0 s) : Keeps s0 (buildReplay p s i) := by
  unfold buildReplay
  repeat' first
    | with_reducible assumption
    | with_reducible apply State.wr_keeps
    | with_reducible apply shadowWrite_keeps
    | with_reducible apply requestPlain_keeps
    | intro st
    | lift_lets
    | split

theorem waveDataAct_keeps (p v : Nat) (hk : Keeps s0 s) : Keeps s0 (waveDataAct s p v) := by
  unfold waveDataAct
  repeat' first
    | with_reducible assumption
    | with_reducible apply State.setBytes_keeps
    | with_reducible apply setWord_keeps
    | with_reducible apply buildReplay_keeps
    | with_reducible refine Keeps.foldl _ (fun _ _ _ => ?_) ?_
    | (intro st; refine Keeps.cut (s0 := s0) (s := st) ?_ (fun hst => ?_); (on_goal 1 => simp only [st]); (on_goal 2 => clear_value st))
    | intro st
    | lift_lets
    | split

theorem wordWrite_keeps (p w v : Nat) (hk : Keeps s0 s) : Keeps s0 (wordWrite s p w v) := by
  unfold wordWrite
  repeat' first
    | with_reducible assumption
    | with_reducible apply State.stale_keeps
    | with_reducible apply ctrlAct_keeps
    | with_reducible apply setWord_keeps
    | with_reducible apply waveDataAct_keeps
    | with_reducible apply wordEffect_keeps
    | with_reducible apply wrIgnored_keeps
    | intro st
    | lift_lets
    | split

theorem mapWrite_keeps (p w v : Nat) (hk : Keeps s0 s) : Keeps s0 (mapWrite s p w v) := by
  unfold mapWrite
  repeat' first
    | with_reducible assumption
    | with_reducible apply wordWrite_keeps
    | split

theorem mapRead_keeps (p w : Nat) (hk : Keeps s0 s) : Keeps s0 (mapRead s p w) := by
  unfold mapRead
  repeat' first
    | with_reducible assumption
    | with_reducible apply State.setPersona_keeps
    | with_reducible apply State.answer_keeps
    | (intro st; refine Keeps.cut (s0 := s0) (s := st) ?_ (fun hst => ?_); (on_goal 1 => simp only [st]); (on_goal 2 => clear_value st))
    | intro st
    | lift_lets
    | split

theorem dropImage_keeps (p : Nat) (hk : Keeps s0 s) : Keeps s0 (dropImage s p) := by
  unfold dropImage
  repeat' first
    | with_reducible assumption
    | with_reducible apply State.setPersona_keeps

theorem endPageFrame_keeps (p : Nat) (hk : Keeps s0 s) : Keeps s0 (endPageFrame s p) := by
  unfold endPageFrame
  repeat' first
    | with_reducible assumption
    | with_reducible apply State.setPersona_keeps
    | with_reducible apply dropImage_keeps
    | split

theorem imageFrame_keeps (p : Nat) (frameOk : Bool) (d : List Byte) (hk : Keeps s0 s) : Keeps s0 (imageFrame s p frameOk d) := by
  unfold imageFrame
  repeat' first
    | with_reducible assumption
    | with_reducible apply State.count48_keeps
    | with_reducible apply dropImage_keeps
    | with_reducible apply endPageFrame_keeps
    | with_reducible apply holdWrite_keeps
    | with_reducible apply logicalWrite_keeps
    | intro st
    | lift_lets
    | split

theorem loadReadyAct_keeps (p : Nat) (hk : Keeps s0 s) : Keeps s0 (loadReadyAct s p) := by
  unfold loadReadyAct
  repeat' first
    | with_reducible assumption
    | with_reducible apply State.setPersona_keeps
    | intro st
    | lift_lets
    | split

end Sys2Proof.Machine
end

