-- ==== Sys2Proof/Laws/KeepsHealth.lean ====
section
/-!
SUPPORT. What the operations of Health.lean keep (`Keeps`).
-/
namespace Sys2Proof.Machine

variable {s0 s : State}

theorem advanceScan_keeps (e n : Nat) (hk : Keeps s0 s) : Keeps s0 (advanceScan s e n) := by
  unfold advanceScan
  repeat' first
    | with_reducible assumption
    | with_reducible apply State.wr_keeps
    | with_reducible apply State.count_keeps
    | with_reducible apply State.setEng_keeps
    | (intro st; refine Keeps.cut (s0 := s0) (s := st) ?_ (fun hst => ?_); (on_goal 1 => simp only [st]); (on_goal 2 => clear_value st))
    | intro st
    | lift_lets
    | split

theorem invalidProbe_keeps (e : Nat) (p : Probe) (hk : Keeps s0 s) : Keeps s0 (invalidProbe s e p) := by
  unfold invalidProbe
  repeat' first
    | with_reducible assumption
    | with_reducible apply State.count_keeps
    | with_reducible apply State.setEng_keeps
    | (intro st; refine Keeps.cut (s0 := s0) (s := st) ?_ (fun hst => ?_); (on_goal 1 => simp only [st]); (on_goal 2 => clear_value st))
    | intro st
    | lift_lets
    | split

theorem nozzleFails_keeps (c e n : Nat) (hk : Keeps s0 s) : Keeps s0 (nozzleFails s c e n) := by
  unfold nozzleFails
  repeat' first
    | with_reducible assumption
    | with_reducible apply State.wr_keeps
    | with_reducible apply State.count16_keeps
    | with_reducible apply State.report_keeps
    | with_reducible apply noteFailure_keeps

theorem applyScore_keeps (c e n score : Nat) (t1 : Bool) (hk : Keeps s0 s) : Keeps s0 (applyScore s c e n score t1) := by
  unfold applyScore
  repeat' first
    | with_reducible assumption
    | with_reducible apply State.setEng_keeps
    | with_reducible apply State.setHealth_keeps
    | with_reducible apply nozzleFails_keeps
    | intro st
    | lift_lets
    | split

theorem learnResponse_keeps (e : Nat) (p : Probe) (w : List Int) (hk : Keeps s0 s) : Keeps s0 (learnResponse s e p w) := by
  unfold learnResponse
  repeat' first
    | with_reducible assumption
    | with_reducible apply State.setEng_keeps
    | intro st
    | lift_lets
    | split

theorem probeScoreAct_keeps (e : Nat) (parityError : Bool) (hk : Keeps s0 s) : Keeps s0 (probeScoreAct e parityError s) := by
  unfold probeScoreAct
  try dsimp only
  repeat' first
    | with_reducible assumption
    | with_reducible apply State.setEng_keeps
    | with_reducible apply State.report_keeps
    | with_reducible apply advanceScan_keeps
    | with_reducible apply invalidProbe_keeps
    | with_reducible apply applyScore_keeps
    | with_reducible apply learnResponse_keeps
    | with_reducible refine Keeps.foldl _ (fun _ _ _ => ?_) ?_
    | split

theorem learnStartAct_keeps (e : Nat) (hk : Keeps s0 s) : Keeps s0 (learnStartAct e s).2 := by
  unfold learnStartAct
  repeat' first
    | with_reducible assumption
    | with_reducible apply State.setEng_keeps
    | with_reducible apply State.wr_keeps
    | with_reducible apply dropLearn_keeps
    | (intro st; refine Keeps.cut (s0 := s0) (s := st) ?_ (fun hst => ?_); (on_goal 1 => simp only [st]); (on_goal 2 => clear_value st))
    | intro st
    | lift_lets
    | split

theorem learnCancelAct_keeps (e : Nat) (hk : Keeps s0 s) : Keeps s0 (learnCancelAct e s).2 := by
  unfold learnCancelAct
  repeat' first
    | with_reducible assumption
    | with_reducible apply discardLearn_keeps

theorem templateValue_keeps (sum : Rat) (num : Nat) (hk : Keeps s0 s) : Keeps s0 (templateValue s sum num).2 := by
  unfold templateValue
  try dsimp only
  repeat' first
    | with_reducible assumption
    | with_reducible apply State.draw_keeps
    | with_reducible apply roundWord_keeps
    | with_reducible refine Keeps.foldl _ (fun _ _ _ => ?_) ?_
    | split

theorem learnTemplate_keeps (e k : Nat) (sums : List Rat) (num : Nat) (hk : Keeps s0 s) : Keeps s0 (learnTemplate s e k sums num) := by
  unfold learnTemplate
  repeat' first
    | with_reducible assumption
    | with_reducible apply State.wr_keeps
    | with_reducible apply State.setBytes_keeps
    | with_reducible apply templateValue_keeps
    | with_reducible refine Keeps.foldl _ (fun _ _ _ => ?_) ?_
    | (intro st; refine Keeps.cut (s0 := s0) (s := st) ?_ (fun hst => ?_); (on_goal 1 => simp only [st]); (on_goal 2 => clear_value st))
    | intro st
    | lift_lets
    | split

theorem learnEndAct_keeps (e : Nat) (hk : Keeps s0 s) : Keeps s0 (learnEndAct e s) := by
  unfold learnEndAct
  try dsimp only
  repeat' first
    | with_reducible assumption
    | with_reducible apply State.setEng_keeps
    | with_reducible apply State.stale_keeps
    | with_reducible apply State.wr_keeps
    | with_reducible apply learnTemplate_keeps
    | with_reducible apply roundWord_keeps
    | intro st
    | lift_lets
    | split

theorem healthEnAct_keeps (e v : Nat) (hk : Keeps s0 s) : Keeps s0 (healthEnAct e v s).2 := by
  unfold healthEnAct
  repeat' first
    | with_reducible assumption
    | with_reducible apply State.wr_keeps
    | with_reducible apply State.setEng_keeps
    | (intro st; refine Keeps.cut (s0 := s0) (s := st) ?_ (fun hst => ?_); (on_goal 1 => simp only [st]); (on_goal 2 => clear_value st))
    | intro st
    | lift_lets
    | split

theorem mapEntryWrite_keeps (e n ofs : Nat) (data : List Byte) (hk : Keeps s0 s) : Keeps s0 (mapEntryWrite s e n ofs data) := by
  unfold mapEntryWrite
  repeat' first
    | with_reducible assumption
    | with_reducible apply State.wr_keeps
    | with_reducible apply State.count16_keeps
    | with_reducible apply State.setEng_keeps
    | with_reducible apply State.report_keeps
    | with_reducible apply State.setHealth_keeps
    | with_reducible apply nozzleFails_keeps
    | (intro st; refine Keeps.cut (s0 := s0) (s := st) ?_ (fun hst => ?_); (on_goal 1 => simp only [st]); (on_goal 2 => clear_value st))
    | intro st
    | lift_lets
    | split

theorem mapEntriesWrite_keeps (e : Nat) (l : List Nat) (ofs : Nat) (data : List Byte) (hk : Keeps s0 s) :
    Keeps s0 (mapEntriesWrite e l ofs data s) := by
  induction l generalizing ofs data s with
  | nil => exact hk
  | cons n r ih => exact ih _ _ (mapEntryWrite_keeps e n ofs _ hk)

theorem healthMapAct_keeps (e ofs : Nat) (data : List Byte) (hk : Keeps s0 s) : Keeps s0 (healthMapAct e ofs data s).2 :=
  mapEntriesWrite_keeps e _ ofs data hk

theorem templateAct_keeps (e k ofs : Nat) (data : List Byte) (hk : Keeps s0 s) : Keeps s0 (templateAct e k ofs data s).2 := by
  unfold templateAct
  repeat' first
    | with_reducible assumption
    | with_reducible apply State.wr_keeps
    | with_reducible apply State.setBytes_keeps

end Sys2Proof.Machine
end

