-- ==== Sys2Proof/Laws/KeepsOtp.lean ====
section
/-!
SUPPORT. What the operations of Otp.lean keep (`Keeps`).
-/
namespace Sys2Proof.Machine

variable {s0 s : State}

theorem otpStart_keeps (op w mask : Nat) (pin : Bool) (port : Option Port) (hk : Keeps s0 s) : Keeps s0 (otpStart s op w mask pin port).2 := by
  unfold otpStart
  repeat' first
    | with_reducible assumption
    | with_reducible apply State.wr_keeps
    | (with_reducible refine Keeps.upd rfl ?_; first | with_reducible assumption | with_reducible apply State.wr_keeps)
    | (intro st; refine Keeps.cut (s0 := s0) (s := st) ?_ (fun hst => ?_); (on_goal 1 => simp only [st]); (on_goal 2 => clear_value st))
    | intro st
    | lift_lets
    | split

theorem otpAct_keeps (op : Nat) (pin : Bool) (port : Option Port) (hk : Keeps s0 s) : Keeps s0 (otpAct op pin port s).2 := by
  unfold otpAct
  repeat' first
    | with_reducible assumption
    | with_reducible apply State.wr_keeps
    | with_reducible apply otpStart_keeps
    | intro st
    | lift_lets
    | split

theorem otpWrite_keeps (p : Port) (op : Nat) (pin : Bool) (hk : Keeps s0 s) : Keeps s0 (otpWrite s p op pin) := by
  unfold otpWrite
  repeat' first
    | with_reducible assumption
    | with_reducible apply writeAs_keeps
    | with_reducible apply otpAct_keeps
    | with_reducible refine Keeps.foldl _ (fun _ _ _ => ?_) ?_
    | intro st

theorem otpEnd_keeps (w result : Nat) (weak : Bool) (hk : Keeps s0 s) : Keeps s0 (otpEnd s w result weak) := by
  unfold otpEnd
  try dsimp only
  repeat' first
    | with_reducible assumption
    | with_reducible apply State.wr_keeps
    | with_reducible apply answerLater_keeps
    | with_reducible apply senseWord_keeps
    | (with_reducible refine Keeps.upd rfl ?_; first | with_reducible assumption | with_reducible apply State.wr_keeps | with_reducible apply answerLater_keeps | with_reducible apply senseWord_keeps)
    | with_reducible refine Keeps.foldl _ (fun _ _ _ => ?_) ?_
    | split

theorem reinforce_keeps (w : Nat) (hk : Keeps s0 s) : Keeps s0 (reinforce s w) := by
  unfold reinforce
  dsimp only
  split
  · exact blow_keeps _ _ hk
  · split
    · split
      · exact setFuseBits_keeps _ _ _ _ id hk
      · exact setFuseWord_keeps _ _ (fun _ h => h) (fun h => h) (State.draw_keeps hk)
    · exact hk

theorem progFail_keeps (w b : Nat) (hk : Keeps s0 s) : Keeps s0 (progFail s w b) := by
  unfold progFail
  repeat' first
    | with_reducible assumption
    | with_reducible apply State.report_keeps

theorem otpCompleteAct_keeps (failBit : Option Nat) (weak : Bool) (hk : Keeps s0 s) : Keeps s0 (otpCompleteAct failBit weak s) := by
  unfold otpCompleteAct
  repeat' first
    | with_reducible assumption
    | with_reducible apply blow_keeps
    | with_reducible apply otpEnd_keeps
    | with_reducible apply reinforce_keeps
    | with_reducible apply progFail_keeps
    | refine setFuseWord_keeps _ _ (fun _ h => h) (fun _ => rfl) ?_
    | split

theorem blowDone_keeps (op w : Nat) (done : List Nat) (hk : Keeps s0 s) : Keeps s0 (blowDone s op w done) := by
  unfold blowDone
  repeat' first
    | with_reducible assumption
    | with_reducible apply blowBit_keeps
    | with_reducible apply setFuseWord_keeps
    | with_reducible refine Keeps.foldl _ (fun _ _ _ => ?_) ?_
    | (intro st; refine Keeps.cut (s0 := s0) (s := st) ?_ (fun hst => ?_); (on_goal 1 => simp only [st]); (on_goal 2 => clear_value st))
    | intro st
    | lift_lets
    | split

theorem otpBrownout_keeps (hk : Keeps s0 s) : Keeps s0 (otpBrownout s) := by
  unfold otpBrownout
  repeat' first
    | with_reducible assumption
    | with_reducible apply State.draw_keeps
    | with_reducible apply blowDone_keeps
    | with_reducible apply otpEnd_keeps
    | (with_reducible refine Keeps.upd rfl ?_; first | with_reducible assumption | with_reducible apply State.draw_keeps | with_reducible apply blowDone_keeps | with_reducible apply otpEnd_keeps)
    | (intro st; refine Keeps.cut (s0 := s0) (s := st) ?_ (fun hst => ?_); (on_goal 1 => simp only [st]); (on_goal 2 => clear_value st))
    | intro st
    | lift_lets
    | split

theorem otpRecover_keeps (hk : Keeps s0 s) : Keeps s0 (otpRecover s) := by
  unfold otpRecover
  repeat' first
    | with_reducible assumption
    | with_reducible apply senseWord_keeps
    | with_reducible apply blowBit_keeps
    | with_reducible apply tallyBurn_keeps
    | with_reducible refine Keeps.foldl _ (fun _ _ _ => ?_) ?_
    | (with_reducible refine Keeps.upd rfl ?_; with_reducible assumption)

theorem showRecord_keeps (k : Counted) (hk : Keeps s0 s) : Keeps s0 (showRecord s k) := by
  unfold showRecord
  repeat' first
    | with_reducible assumption
    | with_reducible apply State.wr_keeps

theorem showDisable_keeps (c : Nat) (hk : Keeps s0 s) : Keeps s0 (showDisable s c) := by
  unfold showDisable
  repeat' first
    | with_reducible assumption
    | with_reducible apply State.wr_keeps

theorem dropDisabled_keeps (c : Nat) (hk : Keeps s0 s) : Keeps s0 (dropDisabled s c) := by
  unfold dropDisabled
  repeat' first
    | with_reducible assumption
    | with_reducible apply State.wr_keeps
    | (intro st; refine Keeps.cut (s0 := s0) (s := st) ?_ (fun hst => ?_); (on_goal 1 => simp only [st]); (on_goal 2 => clear_value st))
    | intro st
    | lift_lets
    | split

theorem showCounted_keeps (hk : Keeps s0 s) : Keeps s0 (showCounted s) := by
  unfold showCounted
  repeat' first
    | with_reducible assumption
    | with_reducible apply showRecord_keeps
    | with_reducible apply showDisable_keeps
    | with_reducible refine Keeps.foldl _ (fun _ _ _ => ?_) ?_
    | (with_reducible refine Keeps.upd rfl ?_; first | with_reducible assumption | with_reducible apply showRecord_keeps | with_reducible apply showDisable_keeps)
    | (intro st; refine Keeps.cut (s0 := s0) (s := st) ?_ (fun hst => ?_); (on_goal 1 => simp only [st]); (on_goal 2 => clear_value st))
    | intro st
    | lift_lets

theorem countedAct_keeps (r : Row) (i v : Nat) (port : Option Port) (hk : Keeps s0 s) : Keeps s0 (countedAct r i v port s).2 := by
  unfold countedAct
  repeat' first
    | with_reducible assumption
    | (with_reducible refine Keeps.upd rfl ?_; first | with_reducible assumption)
    | intro st
    | lift_lets
    | split

theorem programRecord_keeps (k : Counted) (v : Nat) (hk : Keeps s0 s) : Keeps s0 (programRecord s k v) := by
  unfold programRecord
  split
  · exact hk
  · exact senseWord_keeps _ _ (blow_keeps _ _ (senseWord_keeps _ _ (setFuseBits_keeps _ _ _ _ (fun _ => rfl) hk)))

theorem countedEffect_keeps (r : Row) (i v : Nat) (hk : Keeps s0 s) : Keeps s0 (countedEffect s r i v) := by
  unfold countedEffect
  repeat' first
    | with_reducible assumption
    | with_reducible apply allAmpLimits_keeps
    | with_reducible apply blow_keeps
    | with_reducible apply dropDisabled_keeps
    | with_reducible apply programRecord_keeps
    | with_reducible apply senseWord_keeps
    | with_reducible apply showDisable_keeps
    | with_reducible apply showRecord_keeps
    | (intro st; refine Keeps.cut (s0 := s0) (s := st) ?_ (fun hst => ?_); (on_goal 1 => simp only [st]); (on_goal 2 => clear_value st))
    | intro st
    | lift_lets
    | split

theorem countedDoneAct_keeps (key : Nat) (hk : Keeps s0 s) : Keeps s0 (countedDoneAct key s) := by
  unfold countedDoneAct
  repeat' first
    | with_reducible assumption
    | with_reducible apply answerLater_keeps
    | with_reducible apply countedEffect_keeps
    | (with_reducible refine Keeps.upd rfl ?_; first | with_reducible assumption | with_reducible apply answerLater_keeps | with_reducible apply countedEffect_keeps)
    | (intro st; refine Keeps.cut (s0 := s0) (s := st) ?_ (fun hst => ?_); (on_goal 1 => simp only [st]); (on_goal 2 => clear_value st))
    | intro st
    | lift_lets
    | split

end Sys2Proof.Machine
end

