-- ==== Sys2Proof/Laws/KeepsPower.lean ====
section
/-!
SUPPORT. What the operations of Power.lean keep (`Keeps`).
-/
namespace Sys2Proof.Machine

variable {s0 s : State}

theorem diodeStep_keeps (temp : Int) (raw : Nat) (hk : Keeps s0 s) : Keeps s0 (diodeStep s temp raw) := by
  unfold diodeStep
  repeat' first
    | with_reducible assumption
    | with_reducible apply State.wr_keeps
    | with_reducible apply State.report_keeps
    | (with_reducible refine Keeps.upd rfl ?_; first | with_reducible assumption | with_reducible apply State.wr_keeps | with_reducible apply State.report_keeps)
    | (intro st; refine Keeps.cut (s0 := s0) (s := st) ?_ (fun hst => ?_); (on_goal 1 => simp only [st]); (on_goal 2 => clear_value st))
    | intro st
    | lift_lets
    | split

theorem dieReading_keeps (temp : Int) (first : Bool) (hk : Keeps s0 s) : Keeps s0 (dieReading s temp first) := by
  unfold dieReading
  repeat' first
    | with_reducible assumption
    | with_reducible apply State.wr_keeps
    | split

theorem tripStep_keeps (hk : Keeps s0 s) : Keeps s0 (tripStep s) := by
  unfold tripStep
  repeat' first
    | with_reducible assumption
    | with_reducible apply State.wr_keeps
    | (with_reducible refine Keeps.upd rfl ?_; first | with_reducible assumption | with_reducible apply State.wr_keeps)
    | (intro st; refine Keeps.cut (s0 := s0) (s := st) ?_ (fun hst => ?_); (on_goal 1 => simp only [st]); (on_goal 2 => clear_value st))
    | intro st
    | lift_lets
    | split

theorem latchTraffic_keeps (hk : Keeps s0 s) : Keeps s0 (latchTraffic s) := by
  unfold latchTraffic
  repeat' first
    | with_reducible assumption
    | with_reducible apply State.wr_keeps
    | with_reducible refine Keeps.foldl _ (fun _ _ _ => ?_) ?_
    | (with_reducible refine Keeps.upd rfl ?_; first | with_reducible assumption | with_reducible apply State.wr_keeps)
    | (intro st; refine Keeps.cut (s0 := s0) (s := st) ?_ (fun hst => ?_); (on_goal 1 => simp only [st]); (on_goal 2 => clear_value st))
    | intro st
    | lift_lets

theorem dieRoundAct_keeps (temp : Int) (raw : Nat) (hk : Keeps s0 s) : Keeps s0 (dieRoundAct temp raw s) := by
  unfold dieRoundAct
  repeat' first
    | with_reducible assumption
    | with_reducible apply calTemperature_keeps
    | with_reducible apply diodeStep_keeps
    | with_reducible apply dieReading_keeps
    | with_reducible apply tripStep_keeps
    | with_reducible apply latchTraffic_keeps

theorem supplyWarnAct_keeps (m mV : Nat) (hk : Keeps s0 s) : Keeps s0 (supplyWarnAct m mV s) := by
  unfold supplyWarnAct
  repeat' first
    | with_reducible assumption
    | with_reducible apply State.wr_keeps
    | with_reducible apply State.count_keeps
    | with_reducible apply State.report_keeps
    | with_reducible apply otpBrownout_keeps
    | (with_reducible refine Keeps.upd rfl ?_; first | with_reducible assumption | with_reducible apply State.wr_keeps | with_reducible apply State.count_keeps | with_reducible apply State.report_keeps | with_reducible apply otpBrownout_keeps)
    | (intro st; refine Keeps.cut (s0 := s0) (s := st) ?_ (fun hst => ?_); (on_goal 1 => simp only [st]); (on_goal 2 => clear_value st))
    | intro st
    | lift_lets
    | split

theorem supplyRecoverAct_keeps (hk : Keeps s0 s) : Keeps s0 (supplyRecoverAct s) := by
  unfold supplyRecoverAct
  repeat' first
    | with_reducible assumption
    | with_reducible apply nextPowerUp_keeps
    | with_reducible apply otpRecover_keeps
    | (with_reducible refine Keeps.upd rfl ?_; first | with_reducible assumption | with_reducible apply nextPowerUp_keeps | with_reducible apply otpRecover_keeps)
    | split

theorem loopEntries_keeps (l kind div ch srcA xA srcB xB sink fa la fb lb : Nat) (hk : Keeps s0 s) : Keeps s0 (loopEntries s l kind div ch srcA xA srcB xB sink fa la fb lb) := by
  unfold loopEntries
  repeat' first
    | with_reducible assumption
    | with_reducible apply State.wr_keeps

theorem channelLoops_keeps (c : Nat) (hk : Keeps s0 s) : Keeps s0 (channelLoops s c) := by
  unfold channelLoops
  repeat' first
    | with_reducible assumption
    | with_reducible apply State.wr_keeps
    | with_reducible apply State.setSec_keeps
    | with_reducible apply loopEntries_keeps

theorem standardLoops_keeps (hk : Keeps s0 s) : Keeps s0 (standardLoops s) := by
  unfold standardLoops
  repeat' first
    | with_reducible assumption
    | with_reducible apply State.wr_keeps
    | with_reducible apply State.setSec_keeps
    | with_reducible apply allAmpSettings_keeps
    | with_reducible apply loopEntries_keeps
    | with_reducible apply channelLoops_keeps
    | with_reducible refine Keeps.foldl _ (fun _ _ _ => ?_) ?_

theorem canStart_keeps (hk : Keeps s0 s) : Keeps s0 (canStart s) := by
  unfold canStart
  repeat' first
    | with_reducible assumption
    | with_reducible apply State.emit_keeps
    | with_reducible apply State.wr_keeps
    | (with_reducible refine Keeps.upd rfl ?_; first | with_reducible assumption | with_reducible apply State.emit_keeps | with_reducible apply State.wr_keeps)
    | (intro st; refine Keeps.cut (s0 := s0) (s := st) ?_ (fun hst => ?_); (on_goal 1 => simp only [st]); (on_goal 2 => clear_value st))
    | intro st
    | lift_lets
    | split

theorem ringStart_keeps (hk : Keeps s0 s) : Keeps s0 (ringStart s) := by
  unfold ringStart
  repeat' first
    | with_reducible assumption
    | with_reducible apply State.wr_keeps
    | (with_reducible refine Keeps.upd rfl ?_; first | with_reducible assumption | with_reducible apply State.wr_keeps)
    | (intro st; refine Keeps.cut (s0 := s0) (s := st) ?_ (fun hst => ?_); (on_goal 1 => simp only [st]); (on_goal 2 => clear_value st))
    | intro st
    | lift_lets
    | split

theorem bootUnserved_keeps (c e : Nat) (hk : Keeps s0 s) : Keeps s0 (bootUnserved s c e) := by
  unfold bootUnserved
  repeat' first
    | with_reducible assumption
    | with_reducible apply State.wr_keeps
    | with_reducible apply leaveUnserved_keeps

theorem bootSpare_keeps (c e p : Nat) (hk : Keeps s0 s) : Keeps s0 (bootSpare s c e p) := by
  unfold bootSpare
  repeat' first
    | with_reducible assumption
    | with_reducible apply State.wr_keeps

theorem engineTest_keeps (g : Nat) (bad : List Nat) (e : Nat) (hk : Keeps s0 s) : Keeps s0 (engineTest g bad s e) := by
  unfold engineTest
  repeat' first
    | with_reducible assumption
    | with_reducible apply State.setEng_keeps
    | with_reducible apply tallyRecord_keeps
    | with_reducible apply bootUnserved_keeps
    | with_reducible apply bootSpare_keeps
    | (intro st; refine Keeps.cut (s0 := s0) (s := st) ?_ (fun hst => ?_); (on_goal 1 => simp only [st]); (on_goal 2 => clear_value st))
    | intro st
    | lift_lets
    | split

theorem startGroup_keeps (g : Nat) (bad : List Nat) (hk : Keeps s0 s) : Keeps s0 (startGroup g bad s) := by
  unfold startGroup
  repeat' first
    | with_reducible assumption
    | with_reducible apply State.setEng_keeps
    | with_reducible apply dropDisabled_keeps
    | with_reducible apply bootUnserved_keeps
    | with_reducible apply bootSpare_keeps
    | with_reducible apply engineTest_keeps
    | with_reducible refine Keeps.foldl _ (fun _ _ _ => ?_) ?_
    | (intro st; refine Keeps.cut (s0 := s0) (s := st) ?_ (fun hst => ?_); (on_goal 1 => simp only [st]); (on_goal 2 => clear_value st))
    | intro st
    | lift_lets
    | split

theorem startDomain_keeps (d : Nat) (bad : List Nat) (hk : Keeps s0 s) : Keeps s0 (startDomain d bad s) := by
  unfold startDomain
  repeat' first
    | with_reducible assumption
    | with_reducible apply State.wr_keeps
    | with_reducible apply allAmpSettings_keeps
    | with_reducible apply standardLoops_keeps
    | with_reducible apply canStart_keeps
    | with_reducible apply ringStart_keeps
    | with_reducible apply startGroup_keeps
    | split

theorem domainUp_keeps (d : Nat) (bad : List Nat) (hk : Keeps s0 s) : Keeps s0 (domainUp d bad s) := by
  unfold domainUp
  repeat' first
    | with_reducible assumption
    | with_reducible apply setDom_keeps
    | with_reducible apply personaSet_keeps
    | with_reducible apply startDomain_keeps
    | (intro st; refine Keeps.cut (s0 := s0) (s := st) ?_ (fun hst => ?_); (on_goal 1 => simp only [st]); (on_goal 2 => clear_value st))
    | intro st
    | lift_lets
    | split

theorem powerUpAct_keeps (d : Nat) (bad : List Nat) (hk : Keeps s0 s) : Keeps s0 (powerUpAct d bad s) := by
  unfold powerUpAct
  repeat' first
    | with_reducible assumption
    | with_reducible apply nextPowerUp_keeps
    | with_reducible apply domainUp_keeps
    | split

theorem domFailAct_keeps (d : Nat) (hk : Keeps s0 s) : Keeps s0 (domFailAct d s) := by
  unfold domFailAct
  repeat' first
    | with_reducible assumption
    | with_reducible apply State.report_keeps
    | with_reducible apply clearDomain_keeps
    | with_reducible apply setDom_keeps
    | with_reducible apply nextPowerUp_keeps
    | split

theorem powerDownAct_keeps (d : Nat) (hk : Keeps s0 s) : Keeps s0 (powerDownAct d s) := by
  unfold powerDownAct
  repeat' first
    | with_reducible assumption
    | with_reducible apply clearDomain_keeps
    | with_reducible apply setDom_keeps
    | with_reducible apply nextPowerUp_keeps
    | with_reducible apply downNext_keeps
    | (intro st; refine Keeps.cut (s0 := s0) (s := st) ?_ (fun hst => ?_); (on_goal 1 => simp only [st]); (on_goal 2 => clear_value st))
    | intro st
    | lift_lets
    | split

theorem domReqAct_keeps (d v : Nat) (hk : Keeps s0 s) : Keeps s0 (domReqAct d v s).2 := by
  unfold domReqAct
  repeat' first
    | with_reducible assumption
    | with_reducible apply State.wr_keeps
    | with_reducible apply nextPowerUp_keeps
    | with_reducible apply requestUp_keeps
    | with_reducible apply beginDown_keeps
    | (intro st; refine Keeps.cut (s0 := s0) (s := st) ?_ (fun hst => ?_); (on_goal 1 => simp only [st]); (on_goal 2 => clear_value st))
    | intro st
    | lift_lets
    | split

end Sys2Proof.Machine
end

