-- ==== Sys2Proof/Laws/KeepsReset.lean ====
section
/-!
SUPPORT. What the operations of Reset.lean keep (`Keeps`).
-/
namespace Sys2Proof.Machine

variable {s0 s : State}
theorem partlyDone_keeps (w : Nat) (hk : Keeps s0 s) : Keeps s0 (partlyDone s w) := by
  unfold partlyDone
  repeat' first
    | with_reducible assumption
    | (with_reducible refine Keeps.upd rfl ?_; first | with_reducible assumption)

theorem cutOperation_keeps (hk : Keeps s0 s) : Keeps s0 (cutOperation s) := by
  unfold cutOperation
  try dsimp only
  repeat' first
    | with_reducible assumption
    | with_reducible apply State.draw_keeps
    | with_reducible apply blowDone_keeps
    | with_reducible apply partlyDone_keeps
    | intro st
    | lift_lets
    | split

theorem cutChange_keeps (x : Nat × Nat × Option Port) (hk : Keeps s0 s) : Keeps s0 (cutChange s x) := by
  unfold cutChange
  split
  · exact hk
  · have h := State.draw_keeps (State.draw_keeps hk)
    dsimp only
    repeat' first
      | with_reducible exact h
      | with_reducible apply partlyDone_keeps
      | with_reducible apply blow_keeps
      | exact setFuseBits_keeps _ _ _ _ (fun _ => rfl) h
      | split

theorem resetUnits_keeps (otp : OtpSt) (cause : Nat) (ho : otp.words = s.otp.words) (hk : Keeps s0 s) :
    Keeps s0 (resetUnits s otp cause) := by
  have h : Keeps s0 { State.reset with
      pending := s.pending, sent := s.sent, fresh := s.fresh, straps := s.straps, otp := otp,
      acted := [(.device, .reset)],
      store := { slotA := s.store.slotA, slotB := s.store.slotB, flashOk := s.store.flashOk } } :=
    hk.trans ⟨rfl, fun _ => Memory.wf_nil, fun _ => rising_nil, fun _ => Nat.two_pow_pos 48, fun _ _ x => by simpa [fuseWord, ho] using x,
      fun _ x => by simpa [fuseWord, ho] using x, [], rfl⟩
  unfold resetUnits
  have h' := State.wr_keeps E.supplyLast (s.rd E.supplyLast) 0 0 (State.wr_keeps E.resetCause cause 0 0 h)
  exact Keeps.ite (State.emit_keeps _ h') h'

theorem resetAll_keeps (cause : Nat) (hk : Keeps s0 s) : Keeps s0 (resetAll s cause) :=
  resetUnits_keeps _ _ rfl (Keeps.foldl _ (fun _ _ h => cutChange_keeps _ h) (cutOperation_keeps hk))

theorem resetDomains_keeps (cause : Nat) (hk : Keeps s0 s) : Keeps s0 (resetDomains s cause) :=
  Keeps.upd rfl (resetUnits_keeps _ _ rfl hk)

theorem powerOnAct_keeps (straps : Straps) (hk : Keeps s0 s) : Keeps s0 (powerOnAct straps s) := by
  unfold powerOnAct
  repeat' first
    | with_reducible assumption
    | with_reducible apply State.wr_keeps
    | with_reducible apply resetAll_keeps
    | (with_reducible refine Keeps.upd rfl ?_; first | with_reducible assumption | with_reducible apply State.wr_keeps)

theorem clockFaultAct_keeps (hk : Keeps s0 s) : Keeps s0 (clockFaultAct s) := by
  unfold clockFaultAct
  repeat' first
    | with_reducible assumption
    | with_reducible apply ignoredReset_keeps
    | with_reducible apply resetDomains_keeps
    | (with_reducible refine Keeps.upd rfl ?_; first | with_reducible assumption | with_reducible apply ignoredReset_keeps | with_reducible apply resetDomains_keeps)
    | split

theorem supplyResetAct_keeps (m : Nat) (powerOnLevel : Bool) (hk : Keeps s0 s) : Keeps s0 (supplyResetAct m powerOnLevel s) := by
  unfold supplyResetAct
  repeat' first
    | with_reducible assumption
    | with_reducible apply State.wr_keeps
    | with_reducible apply ignoredReset_keeps
    | with_reducible apply resetAll_keeps
    | with_reducible apply powerOnAct_keeps
    | split

theorem resetPinAct_keeps (width : Nat) (hk : Keeps s0 s) : Keeps s0 (resetPinAct width s) := by
  unfold resetPinAct
  try dsimp only
  repeat' first
    | with_reducible assumption
    | with_reducible apply State.draw_keeps
    | with_reducible apply resetAll_keeps
    | with_reducible refine Keeps.foldl _ (fun _ _ _ => ?_) ?_
    | split

theorem resetCommand_keeps (arg : Nat) (hk : Keeps s0 s) : Keeps s0 (resetCommand arg s).2 := by
  unfold resetCommand
  repeat' first
    | with_reducible assumption
    | with_reducible apply resetDomains_keeps
    | split

end Sys2Proof.Machine
end

