-- ==== Sys2Proof/Laws/KeepsStore.lean ====
section
/-!
SUPPORT. What the operations of Store.lean keep (`Keeps`).
-/
namespace Sys2Proof.Machine

variable {s0 s : State}

theorem setSlot_keeps (b : Bool) (x : Option Image) (hk : Keeps s0 s) : Keeps s0 (setSlot s b x) := by
  unfold setSlot
  repeat' first
    | with_reducible assumption
    | (with_reducible refine Keeps.upd rfl ?_; first | with_reducible assumption)

theorem storeAct_keeps (hk : Keeps s0 s) : Keeps s0 (storeAct s).2 := by
  unfold storeAct
  repeat' first
    | with_reducible assumption
    | with_reducible apply State.wr_keeps
    | with_reducible apply setSlot_keeps
    | (with_reducible refine Keeps.upd rfl ?_; first | with_reducible assumption | with_reducible apply State.wr_keeps | with_reducible apply setSlot_keeps)
    | (intro st; refine Keeps.cut (s0 := s0) (s := st) ?_ (fun hst => ?_); (on_goal 1 => simp only [st]); (on_goal 2 => clear_value st))
    | intro st
    | lift_lets
    | split

theorem storeCommand_keeps (arg : Nat) (hk : Keeps s0 s) : Keeps s0 (storeCommand arg s).2 := by
  unfold storeCommand
  repeat' first
    | with_reducible assumption
    | with_reducible apply commandAct_keeps
    | with_reducible apply storeAct_keeps

theorem storeEvent_keeps (status : Nat) (hk : Keeps s0 s) : Keeps s0 (storeEvent s status) := by
  unfold storeEvent
  repeat' first
    | with_reducible assumption
    | with_reducible apply State.wr_keeps
    | with_reducible apply maskedEvent_keeps

theorem storeEndAct_keeps (verified : Bool) (hk : Keeps s0 s) : Keeps s0 (storeEndAct verified s) := by
  unfold storeEndAct
  repeat' first
    | with_reducible assumption
    | with_reducible apply State.wr_keeps
    | with_reducible apply setSlot_keeps
    | with_reducible apply storeEvent_keeps
    | (with_reducible refine Keeps.upd rfl ?_; first | with_reducible assumption | with_reducible apply State.wr_keeps | with_reducible apply setSlot_keeps | with_reducible apply storeEvent_keeps)
    | (intro st; refine Keeps.cut (s0 := s0) (s := st) ?_ (fun hst => ?_); (on_goal 1 => simp only [st]); (on_goal 2 => clear_value st))
    | intro st
    | lift_lets
    | split

theorem crcAct_keeps (hk : Keeps s0 s) : Keeps s0 (crcAct s) := by
  unfold crcAct
  repeat' first
    | with_reducible assumption
    | with_reducible apply State.wr_keeps
    | (with_reducible refine Keeps.upd rfl ?_; first | with_reducible assumption | with_reducible apply State.wr_keeps)

theorem skipRecord_keeps (hk : Keeps s0 s) : Keeps s0 (skipRecord s) := by
  unfold skipRecord
  repeat' first
    | with_reducible assumption
    | with_reducible apply State.count_keeps

theorem applyDom_keeps (m : Option Image) (want : Nat) (d : Nat) (hk : Keeps s0 s) : Keeps s0 (applyDom m want s d) := by
  unfold applyDom
  try dsimp only
  repeat' first
    | with_reducible assumption
    | with_reducible apply writeCode_keeps
    | with_reducible apply domReqAct_keeps
    | with_reducible apply skipRecord_keeps
    | with_reducible refine Keeps.foldl _ (fun _ _ _ => ?_) ?_
    | split
    | intro _

theorem restoreDomains_keeps (m : Option Image) (hk : Keeps s0 s) : Keeps s0 (restoreDomains m s) := by
  unfold restoreDomains
  repeat' first
    | with_reducible assumption
    | with_reducible apply applyDom_keeps
    | with_reducible refine Keeps.foldl _ (fun _ _ _ => ?_) ?_

theorem restoreBegin_keeps (defaults : Bool) (hk : Keeps s0 s) : Keeps s0 (restoreBegin defaults s) := by
  unfold restoreBegin
  repeat' first
    | with_reducible assumption
    | with_reducible apply State.wr_keeps
    | with_reducible apply restoreDomains_keeps
    | (with_reducible refine Keeps.upd rfl ?_; with_reducible assumption)

theorem restoreCommand_keeps (arg : Nat) (hk : Keeps s0 s) : Keeps s0 (restoreCommand arg s).2 := by
  unfold restoreCommand
  repeat' first
    | with_reducible assumption
    | with_reducible apply setDev_keeps
    | with_reducible apply commandAct_keeps
    | with_reducible apply restoreBegin_keeps
    | with_reducible refine Keeps.foldl _ (fun _ _ _ => ?_) ?_
    | intro st
    | lift_lets
    | split

theorem restoreWrite_keeps (port : Port) (arg : Nat) (hk : Keeps s0 s) : Keeps s0 (restoreWrite s port arg) := by
  unfold restoreWrite
  repeat' first
    | with_reducible assumption
    | with_reducible apply writeIf_keeps
    | with_reducible apply restoreCommand_keeps
    | with_reducible refine Keeps.foldl _ (fun _ _ _ => ?_) ?_
    | intro st

end Sys2Proof.Machine
end

