-- ==== Sys2Proof/Laws/KeepsEntries.lean ====
section
/-!
SUPPORT. What the operations of Entries.lean keep (`Keeps`).
-/
namespace Sys2Proof.Machine

variable {s0 s : State}

theorem commandWrite_keeps (v : Nat) (hk : Keeps s0 s) : Keeps s0 (commandWrite v s).2 := by
  unfold commandWrite
  repeat' first
    | with_reducible assumption
    | with_reducible apply armCommand_keeps
    | with_reducible apply startCommand_keeps
    | with_reducible apply stopCommand_keeps
    | with_reducible apply abortCommand_keeps
    | with_reducible apply releaseCommand_keeps
    | with_reducible apply shutdownCommand_keeps
    | with_reducible apply resetCommand_keeps
    | with_reducible apply storeCommand_keeps
    | with_reducible apply restoreCommand_keeps
    | intro st
    | lift_lets
    | split

theorem heaterSetAct_keeps (lax : Bool) (c : Nat) (v : Int) (hk : Keeps s0 s) : Keeps s0 (heaterSetAct lax c v s).2 := by
  unfold heaterSetAct
  repeat' first
    | with_reducible assumption
    | with_reducible apply State.wrHeld_keeps
    | with_reducible apply State.wr_keeps
    | with_reducible apply heaterForce_keeps
    | intro st
    | lift_lets
    | split

theorem otThreshAct_keeps (lax : Bool) (v : Int) (hk : Keeps s0 s) : Keeps s0 (otThreshAct lax v s).2 := by
  unfold otThreshAct
  repeat' first
    | with_reducible assumption
    | with_reducible apply State.wr_keeps
    | split

theorem scoreAct_keeps (lax : Bool) (r : Row) (e : Nat) (v : Int) (hk : Keeps s0 s) : Keeps s0 (scoreAct lax r e v s).2 := by
  unfold scoreAct
  repeat' first
    | with_reducible assumption
    | with_reducible apply State.wr_keeps
    | (intro st; refine Keeps.cut (s0 := s0) (s := st) ?_ (fun hst => ?_); (on_goal 1 => simp only [st]); (on_goal 2 => clear_value st))
    | intro st
    | lift_lets
    | split

theorem outLimitAct_keeps (lax : Bool) (r : Row) (l : Nat) (v : Int) (hk : Keeps s0 s) : Keeps s0 (outLimitAct lax r l v s).2 := by
  unfold outLimitAct
  repeat' first
    | with_reducible assumption
    | with_reducible apply State.wrHeld_keeps
    | with_reducible apply limitWriteAct_keeps
    | intro st
    | lift_lets
    | split

theorem ampEntryAct_keeps (r : Row) (v : Int) (hk : Keeps s0 s) : Keeps s0 (ampEntryAct r v s).2 := by
  unfold ampEntryAct
  repeat' first
    | with_reducible assumption
    | with_reducible apply State.wr_keeps
    | with_reducible apply allAmpLimits_keeps

theorem otpOpAct_keeps (op : Nat) (port : Option Port) (hk : Keeps s0 s) : Keeps s0 (otpOpAct op port s).2 := by
  unfold otpOpAct
  repeat' first
    | with_reducible assumption
    | with_reducible apply State.draw_keeps
    | with_reducible apply otpAct_keeps

theorem handoverEntryAct_keeps (r : Row) (l : Nat) (v : Int) (hk : Keeps s0 s) : Keeps s0 (handoverEntryAct r l v s).2 := by
  unfold handoverEntryAct
  repeat' first
    | with_reducible assumption
    | with_reducible apply State.wr_keeps
    | intro st
    | lift_lets
    | split

theorem entryActs_keeps (r : Row) (i : Nat) (v : Int) (port : Option Port) (lax : Bool)
    (x : Nat × (State → Nat × State)) (hx : x ∈ entryActs r i v port lax) (hk : Keeps s0 s) : Keeps s0 (x.2 s).2 := by
  revert x
  unfold entryActs
  dsimp only
  repeat' refine List.forall_mem_cons.2 ⟨?_, ?_⟩
  on_goal -1 => exact fun _ h => absurd h List.not_mem_nil
  all_goals dsimp only
  all_goals repeat' first
    | with_reducible exact hk
    | with_reducible apply ampEntryAct_keeps
    | with_reducible apply ampSettings_keeps
    | with_reducible apply calCmdAct_keeps
    | with_reducible apply chainWriteAct_keeps
    | with_reducible apply changeoverAct_keeps
    | with_reducible apply clearAllAct_keeps
    | with_reducible apply commandWrite_keeps
    | with_reducible apply countedAct_keeps
    | with_reducible apply dmaAbortAct_keeps
    | with_reducible apply dmaPauseAct_keeps
    | with_reducible apply dmaStartAct_keeps
    | with_reducible apply dmaUnpauseAct_keeps
    | with_reducible apply domReqAct_keeps
    | with_reducible apply doneClearAct_keeps
    | with_reducible apply encConfigAct_keeps
    | with_reducible apply geometryAct_keeps
    | with_reducible apply handoverEntryAct_keeps
    | with_reducible apply healthEnAct_keeps
    | with_reducible apply heaterSetAct_keeps
    | with_reducible apply learnCancelAct_keeps
    | with_reducible apply learnStartAct_keeps
    | with_reducible apply logEnAct_keeps
    | with_reducible apply loopCmdAct_keeps
    | with_reducible apply loopEnAct_keeps
    | with_reducible apply lostClearAct_keeps
    | with_reducible apply mapAct_keeps
    | with_reducible apply otThreshAct_keeps
    | with_reducible apply otpOpAct_keeps
    | with_reducible apply outLimitAct_keeps
    | with_reducible apply outLsbAct_keeps
    | with_reducible apply portEnAct_keeps
    | with_reducible apply prbsLinkAct_keeps
    | with_reducible apply prbsSelAct_keeps
    | with_reducible apply rbWrAct_keeps
    | with_reducible apply ringPosNodeAct_keeps
    | with_reducible apply rsEnAct_keeps
    | with_reducible apply scoreAct_keeps
    | with_reducible apply sourceWriteAct_keeps
    | with_reducible apply speedLimFreqAct_keeps
    | with_reducible apply srcPrimaryAct_keeps
    | with_reducible apply srcSecondaryAct_keeps
    | with_reducible apply stickyClearAct_keeps
    | with_reducible apply tableCommitAct_keeps
    | with_reducible apply takeoverAct_keeps
    | with_reducible apply State.wr_keeps
    | split

theorem scalarAct_keeps (r : Row) (i j : Nat) (v : Int) (port : Option Port) (lax : Bool) (hk : Keeps s0 s) :
    Keeps s0 (scalarAct r i j v port lax s).2 := by
  unfold scalarAct
  split
  · rename_i h
    exact entryActs_keeps _ _ _ _ _ _ (List.mem_of_find?_eq_some h) hk
  · split
    · exact shadowWrite_keeps _ _ _ _ _ hk
    · split
      · exact State.wrHeld_keeps _ _ _ _ hk
      · exact State.wr_keeps _ _ _ _ hk

theorem bytesAct_keeps (r : Row) (i ofs : Nat) (data : List Byte) (port : Option Port) (hk : Keeps s0 s) : Keeps s0 (bytesAct r i ofs data port s).2 := by
  unfold bytesAct
  repeat' first
    | with_reducible assumption
    | with_reducible apply State.setBytes_keeps
    | with_reducible apply shadowWrite_keeps
    | with_reducible apply healthMapAct_keeps
    | with_reducible apply templateAct_keeps
    | split

theorem entryWrite_keeps (r : Row) (i j ofs : Nat) (data : List Byte) (port : Option Port) (lax : Bool) (hk : Keeps s0 s) : Keeps s0 (entryWrite r i j ofs data port lax s).2 := by
  unfold entryWrite
  repeat' first
    | with_reducible assumption
    | with_reducible apply writeCode_keeps
    | with_reducible apply blockAct_keeps
    | with_reducible apply sectionCode_keeps
    | with_reducible apply scalarAct_keeps
    | with_reducible apply bytesAct_keeps
    | intro st
    | lift_lets
    | split

theorem viewWrite_keeps (p w ofs : Nat) (data : List Byte) (hk : Keeps s0 s) : Keeps s0 (viewWrite p w ofs data s).2 := by
  unfold viewWrite
  repeat' first
    | with_reducible assumption
    | with_reducible apply State.setBytes_keeps
    | with_reducible apply buildReplay_keeps
    | with_reducible apply wordWrite_keeps
    | with_reducible refine Keeps.foldl _ (fun _ _ _ => ?_) ?_
    | (intro st; refine Keeps.cut (s0 := s0) (s := st) ?_ (fun hst => ?_); (on_goal 1 => simp only [st]); (on_goal 2 => clear_value st))
    | intro st
    | lift_lets
    | split

theorem dictWrite_keeps (key ofs : Nat) (data : List Byte) (port : Option Port) (hk : Keeps s0 s) : Keeps s0 (dictWrite key ofs data port s).2 := by
  unfold dictWrite
  repeat' first
    | with_reducible assumption
    | with_reducible apply entryWrite_keeps
    | with_reducible apply viewWrite_keeps
    | split

end Sys2Proof.Machine
end

