-- ==== Sys2Proof/Laws/KeepsAccess.lean ====
section
/-!
SUPPORT. What the operations of Access.lean keep (`Keeps`).
-/
namespace Sys2Proof.Machine

variable {s0 s : State}

theorem afterRead_keeps (key : Nat) (hk : Keeps s0 s) : Keeps s0 (afterRead s key) := by
  unfold afterRead
  repeat' first
    | with_reducible assumption
    | (with_reducible refine Keeps.upd rfl ?_; first | with_reducible assumption)
    | split

theorem anyWrite_keeps (key ofs : Nat) (data : List Byte) (port : Option Port) (hk : Keeps s0 s) : Keeps s0 (anyWrite key ofs data port s).2 := by
  unfold anyWrite
  repeat' first
    | with_reducible assumption
    | with_reducible apply dictWrite_keeps
    | split

theorem summarySnapshot_keeps (p : Port) (ofs : Nat) (hk : Keeps s0 s) : Keeps s0 (summarySnapshot s p ofs).2 := by
  unfold summarySnapshot
  repeat' first
    | with_reducible assumption
    | (with_reducible refine Keeps.upd rfl ?_; first | with_reducible assumption)
    | intro st
    | lift_lets
    | split

theorem portRead_keeps (p : Port) (key ofs n : Nat) (hk : Keeps s0 s) : Keeps s0 (portRead s p key ofs n).2.2 := by
  unfold portRead
  repeat' first
    | with_reducible assumption
    | with_reducible apply afterRead_keeps
    | with_reducible apply summarySnapshot_keeps
    | (intro st; refine Keeps.cut (s0 := s0) (s := st.2) ?_ (fun hst => ?_); (on_goal 1 => simp only [st]); (on_goal 2 => clear_value st))
    | intro st
    | lift_lets
    | split

theorem readOn_keeps (p : Port) (key ofs n : Nat) (hk : Keeps s0 s) : Keeps s0 (readOn s p key ofs n) := by
  unfold readOn
  repeat' first
    | with_reducible assumption
    | with_reducible apply State.answer_keeps
    | with_reducible apply portRead_keeps
    | intro st
    | lift_lets
    | split

theorem writeOn_keeps (p : Port) (key ofs : Nat) (data : List Byte) (hk : Keeps s0 s) : Keeps s0 (writeOn s p key ofs data) := by
  unfold writeOn
  repeat' first
    | with_reducible assumption
    | with_reducible apply State.reply_keeps
    | with_reducible apply anyWrite_keeps
    | (intro st; refine Keeps.cut (s0 := s0) (s := st.2) ?_ (fun hst => ?_); (on_goal 1 => simp only [st]); (on_goal 2 => clear_value st))
    | intro st
    | lift_lets
    | split

theorem lhpGate_keeps (act : State → State) (hact : ∀ t, Keeps s0 t → Keeps s0 (act t)) (hk : Keeps s0 s) : Keeps s0 (lhpGate s act) := by
  unfold lhpGate
  repeat' first
    | with_reducible assumption
    | with_reducible apply hact
    | (with_reducible refine Keeps.upd rfl ?_; first | with_reducible assumption | with_reducible apply hact)
    | split

theorem lhpStart_keeps (cmd : Nat) (hk : Keeps s0 s) : Keeps s0 (lhpStart cmd s) := by
  unfold lhpStart
  repeat' first
    | with_reducible assumption
    | (with_reducible refine Keeps.upd rfl ?_; first | with_reducible assumption)

theorem lhpFinish_keeps (code moved : Nat) (data : List Byte) (hk : Keeps s0 s) : Keeps s0 (lhpFinish s code moved data) := by
  unfold lhpFinish
  repeat' first
    | with_reducible assumption
    | with_reducible apply State.answer_keeps
    | with_reducible apply lhpEnded_keeps
    | (with_reducible refine Keeps.upd rfl ?_; with_reducible assumption)

theorem lhpReadAct_keeps (cmd : Nat) (hk : Keeps s0 s) : Keeps s0 (lhpReadAct cmd s) := by
  unfold lhpReadAct
  repeat' first
    | with_reducible assumption
    | with_reducible apply portRead_keeps
    | with_reducible apply lhpStart_keeps
    | with_reducible apply lhpFinish_keeps
    | (with_reducible refine Keeps.upd rfl ?_; first | with_reducible assumption | with_reducible apply portRead_keeps | with_reducible apply lhpStart_keeps | with_reducible apply lhpFinish_keeps)
    | (intro st; refine Keeps.cut (s0 := s0) (s := st) ?_ (fun hst => ?_); (on_goal 1 => simp only [st]); (on_goal 2 => clear_value st))
    | intro st
    | lift_lets
    | split

theorem lhpWriteAct_keeps (cmd : Nat) (hk : Keeps s0 s) : Keeps s0 (lhpWriteAct cmd s) := by
  unfold lhpWriteAct
  repeat' first
    | with_reducible assumption
    | with_reducible apply anyWrite_keeps
    | with_reducible apply lhpStart_keeps
    | with_reducible apply lhpFinish_keeps
    | (with_reducible refine Keeps.upd rfl ?_; first | with_reducible assumption | with_reducible apply anyWrite_keeps | with_reducible apply lhpStart_keeps | with_reducible apply lhpFinish_keeps)
    | (intro st; refine Keeps.cut (s0 := s0) (s := st.2) ?_ (fun hst => ?_); (on_goal 1 => simp only [st]); (on_goal 2 => clear_value st))
    | (intro st; refine Keeps.cut (s0 := s0) (s := st) ?_ (fun hst => ?_); (on_goal 1 => simp only [st]); (on_goal 2 => clear_value st))
    | intro st
    | lift_lets
    | split

theorem lhpRegisterAct_keeps (reg v : Nat) (hk : Keeps s0 s) : Keeps s0 (lhpRegisterAct reg v s) := by
  unfold lhpRegisterAct
  repeat' first
    | with_reducible assumption
    | with_reducible apply lhpStart_keeps
    | with_reducible apply lhpReadAct_keeps
    | with_reducible apply lhpWriteAct_keeps
    | (with_reducible refine Keeps.upd rfl ?_; first | with_reducible assumption | with_reducible apply lhpStart_keeps | with_reducible apply lhpReadAct_keeps | with_reducible apply lhpWriteAct_keeps)
    | intro st
    | lift_lets
    | split

end Sys2Proof.Machine
end

