-- ==== Sys2Proof/Laws/KeepsRestore.lean ====
section
/-!
SUPPORT. What the operations of Restore.lean keep (`Keeps`).
-/
namespace Sys2Proof.Machine

variable {s0 s : State}

theorem defaultState_keeps (hk : Keeps s0 s) : Keeps s0 (defaultState s) :=
  startDomain_keeps _ _ (standardLoops_keeps
    (Keeps.updAll (fun _ => Memory.wf_nil) (fun _ => rising_nil) id rfl hk))

theorem tableRecord_keeps (r : Row) (t : Table) (e j : Nat) (data : List Byte) (hk : Keeps s0 s) : Keeps s0 (tableRecord s r t e j data) := by
  unfold tableRecord
  repeat' first
    | with_reducible assumption
    | with_reducible apply State.setBytes_keeps
    | with_reducible apply State.wr_keeps
    | with_reducible apply State.setEng_keeps
    | with_reducible apply allAmpSettings_keeps
    | with_reducible apply swings_keeps
    | with_reducible apply skipRecord_keeps
    | (intro st; refine Keeps.cut (s0 := s0) (s := st) ?_ (fun hst => ?_); (on_goal 1 => simp only [st]); (on_goal 2 => clear_value st))
    | intro st
    | lift_lets
    | split

theorem applyRecord_keeps (lax : Bool) (x : ParamRec) (hk : Keeps s0 s) : Keeps s0 (applyRecord lax s x) := by
  unfold applyRecord
  try dsimp only
  repeat' first
    | with_reducible assumption
    | with_reducible apply skipRecord_keeps
    | with_reducible apply entryWrite_keeps
    | with_reducible apply tableRecord_keeps
    | with_reducible refine Keeps.foldl _ (fun _ _ _ => ?_) ?_
    | split

theorem disableEntry_keeps (x : Row × Nat) (hk : Keeps s0 s) : Keeps s0 (disableEntry s x) := by
  unfold disableEntry
  repeat' first
    | with_reducible assumption
    | with_reducible apply entryWrite_keeps
    | split

theorem passDisable_keeps (hk : Keeps s0 s) : Keeps s0 (passDisable s) := by
  unfold passDisable
  repeat' first
    | with_reducible assumption
    | with_reducible apply disableEntry_keeps
    | with_reducible refine Keeps.foldl _ (fun _ _ _ => ?_) ?_

theorem passRecords_keeps (l : List ParamRec) (hk : Keeps s0 s) : Keeps s0 (passRecords l s) := by
  unfold passRecords
  repeat' first
    | with_reducible assumption
    | with_reducible apply applyRecord_keeps
    | with_reducible refine Keeps.foldl _ (fun _ _ _ => ?_) ?_

theorem toDefault_keeps (act : Int → State → Nat × State) (r : Row) (i : Nat) (hact : ∀ x0 t, Keeps s0 t → Keeps s0 (act x0 t).2) (hk : Keeps s0 s) : Keeps s0 (toDefault act r i s) := by
  unfold toDefault
  repeat' first
    | with_reducible assumption
    | with_reducible apply hact
    | with_reducible apply skipRecord_keeps

theorem checkScores_keeps (e : Nat) (hk : Keeps s0 s) : Keeps s0 (checkScores s e) := by
  unfold checkScores
  repeat' first
    | with_reducible assumption
    | with_reducible apply scoreAct_keeps
    | with_reducible apply toDefault_keeps
    | with_reducible refine Keeps.foldl _ (fun _ _ _ => ?_) ?_
    | intro st
    | lift_lets
    | split

theorem checkHeaters_keeps (hk : Keeps s0 s) : Keeps s0 (checkHeaters s) := by
  unfold checkHeaters
  repeat' first
    | with_reducible assumption
    | with_reducible apply heaterSetAct_keeps
    | with_reducible apply otThreshAct_keeps
    | with_reducible apply toDefault_keeps
    | with_reducible refine Keeps.foldl _ (fun _ _ _ => ?_) ?_
    | intro st
    | lift_lets
    | split

theorem checkLimits_keeps (l : Nat) (hk : Keeps s0 s) : Keeps s0 (checkLimits s l) := by
  unfold checkLimits
  repeat' first
    | with_reducible assumption
    | with_reducible apply outLimitAct_keeps
    | with_reducible apply toDefault_keeps
    | with_reducible refine Keeps.foldl _ (fun _ _ _ => ?_) ?_
    | intro st
    | lift_lets
    | split

theorem passChecks_keeps (hk : Keeps s0 s) : Keeps s0 (passChecks s) := by
  unfold passChecks
  repeat' first
    | with_reducible assumption
    | with_reducible apply checkScores_keeps
    | with_reducible apply checkHeaters_keeps
    | with_reducible apply checkLimits_keeps
    | with_reducible refine Keeps.foldl _ (fun _ _ _ => ?_) ?_

theorem restorePasses_keeps (m : Option Image) (hk : Keeps s0 s) : Keeps s0 (restorePasses m s) := by
  unfold restorePasses
  repeat' first
    | with_reducible assumption
    | with_reducible apply passDisable_keeps
    | with_reducible apply passRecords_keeps
    | with_reducible apply passChecks_keeps

theorem restoreOutcome_keeps (plan : Option Image × Nat) (hk : Keeps s0 s) : Keeps s0 (restoreOutcome plan s) := by
  unfold restoreOutcome
  repeat' first
    | with_reducible assumption
    | with_reducible apply State.wr_keeps
    | with_reducible apply storeEvent_keeps
    | (with_reducible refine Keeps.upd rfl ?_; with_reducible assumption)

theorem restoreEndAct_keeps (hk : Keeps s0 s) : Keeps s0 (restoreEndAct s) := by
  unfold restoreEndAct
  repeat' first
    | with_reducible assumption
    | with_reducible apply restorePasses_keeps
    | with_reducible apply restoreOutcome_keeps
    | split

end Sys2Proof.Machine
end

