-- ==== Sys2Proof/Laws/KeepsBoot.lean ====
section
/-!
SUPPORT. What the operations of Boot.lean keep (`Keeps`).
-/
namespace Sys2Proof.Machine

variable {s0 s : State}

theorem integritySafe_keeps (hk : Keeps s0 s) : Keeps s0 (integritySafe s) := by
  unfold integritySafe
  repeat' first
    | with_reducible assumption
    | with_reducible apply enterSafe_keeps
    | with_reducible apply recordFault_keeps
    | (with_reducible refine Keeps.upd rfl ?_; with_reducible assumption)

theorem reinforceWeak_keeps (w : Nat) (hk : Keeps s0 s) : Keeps s0 (reinforceWeak s w) := by
  unfold reinforceWeak
  repeat' first
    | with_reducible assumption
    | with_reducible apply State.draw_keeps
    | with_reducible apply senseWord_keeps
    | with_reducible apply reinforce_keeps

theorem fuseChecks_keeps (hk : Keeps s0 s) : Keeps s0 (fuseChecks s) := by
  unfold fuseChecks
  repeat' first
    | with_reducible assumption
    | with_reducible apply State.report_keeps
    | with_reducible apply reinforceWeak_keeps
    | with_reducible refine Keeps.foldl _ (fun _ _ _ => ?_) ?_
    | (with_reducible refine Keeps.upd rfl ?_; first | with_reducible assumption | with_reducible apply State.report_keeps | with_reducible apply reinforceWeak_keeps)
    | intro st
    | lift_lets
    | split

theorem senseArray_keeps (weak : List Nat) (hk : Keeps s0 s) : Keeps s0 (senseArray weak s) := by
  unfold senseArray
  repeat' first
    | with_reducible assumption
    | with_reducible apply senseWord_keeps
    | with_reducible refine Keeps.foldl _ (fun _ _ _ => ?_) ?_
    | (with_reducible refine Keeps.upd rfl ?_; with_reducible assumption)

theorem reportWeak_keeps (hk : Keeps s0 s) : Keeps s0 (reportWeak s) := by
  unfold reportWeak
  repeat' first
    | with_reducible assumption
    | with_reducible apply State.report_keeps
    | split

theorem reportUnsealed_keeps (hk : Keeps s0 s) : Keeps s0 (reportUnsealed s) := by
  unfold reportUnsealed
  repeat' first
    | with_reducible assumption
    | with_reducible apply State.report_keeps
    | (with_reducible refine Keeps.upd rfl ?_; first | with_reducible assumption | with_reducible apply State.report_keeps)
    | split

theorem sensingAct_keeps (weak : List Nat) (hk : Keeps s0 s) : Keeps s0 (sensingAct weak s) := by
  unfold sensingAct
  repeat' first
    | with_reducible assumption
    | with_reducible apply integritySafe_keeps
    | with_reducible apply fuseChecks_keeps
    | with_reducible apply senseArray_keeps
    | with_reducible apply reportWeak_keeps
    | with_reducible apply reportUnsealed_keeps
    | (intro st; refine Keeps.cut (s0 := s0) (s := st) ?_ (fun hst => ?_); (on_goal 1 => simp only [st]); (on_goal 2 => clear_value st))
    | intro st
    | lift_lets
    | split

theorem pllLockAct_keeps (hk : Keeps s0 s) : Keeps s0 (pllLockAct s) := by
  unfold pllLockAct
  repeat' first
    | with_reducible assumption
    | (with_reducible refine Keeps.upd rfl ?_; first | with_reducible assumption)

theorem patchStep_keeps (patch : Option Patch) (hk : Keeps s0 s) : Keeps s0 (patchStep patch s) := by
  unfold patchStep
  repeat' first
    | with_reducible assumption
    | with_reducible apply State.wr_keeps
    | with_reducible apply State.report_keeps
    | (intro st; refine Keeps.cut (s0 := s0) (s := st) ?_ (fun hst => ?_); (on_goal 1 => simp only [st]); (on_goal 2 => clear_value st))
    | intro st
    | lift_lets
    | split

theorem bootPower_keeps (bad : List Nat) (d : Nat) (hk : Keeps s0 s) : Keeps s0 (bootPower bad d s) := by
  unfold bootPower
  repeat' first
    | with_reducible assumption
    | with_reducible apply setDom_keeps
    | with_reducible apply domainUp_keeps
    | split

theorem bootDomain_keeps (m : Option Image) (bad : List Nat) (d : Nat) (hk : Keeps s0 s) : Keeps s0 (bootDomain m bad s d) := by
  unfold bootDomain
  repeat' first
    | with_reducible assumption
    | with_reducible apply State.wr_keeps
    | with_reducible apply skipRecord_keeps
    | with_reducible apply bootPower_keeps
    | split

theorem fusedRequests_keeps (hk : Keeps s0 s) : Keeps s0 (fusedRequests s) := by
  unfold fusedRequests
  repeat' first
    | with_reducible assumption
    | with_reducible apply State.wr_keeps
    | with_reducible refine Keeps.foldl _ (fun _ _ _ => ?_) ?_

theorem bootRestore_keeps (bad : List Nat) (hk : Keeps s0 s) : Keeps s0 (bootRestore bad s) := by
  unfold bootRestore
  have hu : Keeps s0 (bootOrder.foldl (bootDomain (restorePlan s (bootSource s != 0)).1 bad)
      (fusedRequests ((s.wr E.storeStatus 2).wr E.restoreSkips 0))) :=
    Keeps.foldl _ (fun _ _ h => bootDomain_keeps _ _ _ h)
      (fusedRequests_keeps (State.wr_keeps _ _ _ _ (State.wr_keeps _ _ _ _ hk)))
  dsimp only
  generalize bootOrder.foldl _ _ = u at hu ⊢
  apply restoreOutcome_keeps
  refine Keeps.upd rfl ?_
  split
  · exact startDomain_keeps _ _ (restorePasses_keeps _ (Keeps.upd rfl hu))
  · exact restorePasses_keeps _ (Keeps.upd rfl hu)

theorem bootPersona_keeps (hk : Keeps s0 s) : Keeps s0 (bootPersona s) := by
  unfold bootPersona
  repeat' first
    | with_reducible assumption
    | with_reducible apply State.wr_keeps
    | with_reducible apply enterPersona_keeps
    | split

theorem bootDoneAct_keeps (patch : Option Patch) (flashOk : Bool) (bad : List Nat) (hk : Keeps s0 s) : Keeps s0 (bootDoneAct patch flashOk bad s) := by
  unfold bootDoneAct
  repeat' first
    | with_reducible assumption
    | with_reducible apply State.wr_keeps
    | with_reducible apply setDev_keeps
    | with_reducible apply calTrigger_keeps
    | with_reducible apply showCounted_keeps
    | with_reducible apply patchStep_keeps
    | with_reducible apply bootRestore_keeps
    | with_reducible apply bootPersona_keeps
    | (with_reducible refine Keeps.upd rfl ?_; first | with_reducible assumption | with_reducible apply State.wr_keeps | with_reducible apply setDev_keeps | with_reducible apply calTrigger_keeps | with_reducible apply showCounted_keeps | with_reducible apply patchStep_keeps | with_reducible apply bootRestore_keeps | with_reducible apply bootPersona_keeps)
    | (intro st; refine Keeps.cut (s0 := s0) (s := st) ?_ (fun hst => ?_); (on_goal 1 => simp only [st]); (on_goal 2 => clear_value st))
    | intro st
    | lift_lets
    | split

theorem bootSpareChannel_keeps (hk : Keeps s0 s) : Keeps s0 (bootSpareChannel s) := by
  unfold bootSpareChannel
  repeat' first
    | with_reducible assumption
    | with_reducible apply setDom_keeps
    | (with_reducible refine Keeps.upd rfl ?_; first | with_reducible assumption | with_reducible apply setDom_keeps)
    | split

theorem buildMemory_keeps (x : DramFound) (hk : Keeps s0 s) : Keeps s0 (buildMemory x s) := by
  unfold buildMemory
  repeat' first
    | with_reducible assumption
    | with_reducible apply State.wr_keeps
    | with_reducible apply bootSpareChannel_keeps
    | (with_reducible refine Keeps.upd rfl ?_; first | with_reducible assumption | with_reducible apply State.wr_keeps)

theorem trainFails_keeps (l : List Nat) (hk : Keeps s0 s) : Keeps s0 (trainFails s l) := by
  unfold trainFails
  repeat' first
    | with_reducible assumption
    | with_reducible apply State.report_keeps
    | with_reducible refine Keeps.foldl _ (fun _ _ _ => ?_) ?_

theorem enterReady_keeps (hk : Keeps s0 s) : Keeps s0 (enterReady s) := by
  unfold enterReady
  repeat' first
    | with_reducible assumption
    | with_reducible apply State.wr_keeps
    | with_reducible apply setDev_keeps
    | intro st
    | lift_lets
    | split

theorem readyAct_keeps (x : DramFound) (hk : Keeps s0 s) : Keeps s0 (readyAct x s) := by
  unfold readyAct
  repeat' first
    | with_reducible assumption
    | with_reducible apply buildMemory_keeps
    | with_reducible apply trainFails_keeps
    | with_reducible apply enterReady_keeps
    | split

end Sys2Proof.Machine
end

