-- ==== Sys2Proof/Laws/KeepsCan.lean ====
section
/-!
SUPPORT. What the operations of Can.lean keep (`Keeps`).
-/
namespace Sys2Proof.Machine

variable {s0 s : State}

theorem usdoGate_keeps (node : Nat) (act : State → State) (hact : ∀ t, Keeps s0 t → Keeps s0 (act t)) (hk : Keeps s0 s) : Keeps s0 (usdoGate s node act) := by
  unfold usdoGate
  repeat' first
    | with_reducible assumption
    | with_reducible apply hact
    | split

theorem usdoEnd_keeps (key code : Nat) (data : List Byte) (hk : Keeps s0 s) : Keeps s0 (usdoEnd s key code data) := by
  unfold usdoEnd
  repeat' first
    | with_reducible assumption
    | with_reducible apply State.answer_keeps
    | with_reducible apply canEnded_keeps
    | intro st
    | lift_lets
    | split

theorem downloadAct_keeps (key : Nat) (sizeGiven : Bool) (data : List Byte) (hk : Keeps s0 s) : Keeps s0 (downloadAct key sizeGiven data s) := by
  unfold downloadAct
  repeat' first
    | with_reducible assumption
    | with_reducible apply anyWrite_keeps
    | with_reducible apply usdoEnd_keeps
    | (with_reducible refine Keeps.upd rfl ?_; first | with_reducible assumption | with_reducible apply anyWrite_keeps | with_reducible apply usdoEnd_keeps)
    | (intro st; refine Keeps.cut (s0 := s0) (s := st.2) ?_ (fun hst => ?_); (on_goal 1 => simp only [st]); (on_goal 2 => clear_value st))
    | (intro st; refine Keeps.cut (s0 := s0) (s := st) ?_ (fun hst => ?_); (on_goal 1 => simp only [st]); (on_goal 2 => clear_value st))
    | intro st
    | lift_lets
    | split

theorem uploadAct_keeps (key len : Nat) (hk : Keeps s0 s) : Keeps s0 (uploadAct key len s) := by
  unfold uploadAct
  repeat' first
    | with_reducible assumption
    | with_reducible apply portRead_keeps
    | with_reducible apply usdoEnd_keeps

theorem nmtSet_keeps (k : Nat) (hk : Keeps s0 s) : Keeps s0 (nmtSet s k) := by
  unfold nmtSet
  repeat' first
    | with_reducible assumption
    | with_reducible apply State.wr_keeps
    | split

theorem nmtReset_keeps (hk : Keeps s0 s) : Keeps s0 (nmtReset s) := by
  unfold nmtReset
  repeat' first
    | with_reducible assumption
    | with_reducible apply canStart_keeps
    | split

theorem heartbeatAct_keeps (hk : Keeps s0 s) : Keeps s0 (heartbeatAct s) := by
  unfold heartbeatAct
  repeat' first
    | with_reducible assumption
    | with_reducible apply State.emit_keeps
    | split

theorem recoveryAct_keeps (hk : Keeps s0 s) : Keeps s0 (recoveryAct s) := by
  unfold recoveryAct
  repeat' first
    | with_reducible assumption
    | with_reducible apply State.wr_keeps
    | (with_reducible refine Keeps.upd rfl ?_; first | with_reducible assumption | with_reducible apply State.wr_keeps)
    | split

theorem busErrorAct_keeps (tec rec : Nat) (hk : Keeps s0 s) : Keeps s0 (busErrorAct tec rec s) := by
  unfold busErrorAct
  repeat' first
    | with_reducible assumption
    | with_reducible apply State.wr_keeps
    | (with_reducible refine Keeps.upd rfl ?_; first | with_reducible assumption | with_reducible apply State.wr_keeps)
    | split

end Sys2Proof.Machine
end

