-- ==== Sys2Proof/Laws/KeepsRing.lean ====
section
/-!
SUPPORT. What the operations of Ring.lean keep (`Keeps`).
-/
namespace Sys2Proof.Machine

variable {s0 s : State}

theorem sendTime_keeps (hk : Keeps s0 s) : Keeps s0 (sendTime s).2 := by
  unfold sendTime
  repeat' first
    | with_reducible assumption
    | with_reducible apply State.draw_keeps

theorem passOn_keeps (out : Nat) (bytes : List Byte) (cut : Bool) (hk : Keeps s0 s) : Keeps s0 (passOn s out bytes cut) := by
  unfold passOn
  repeat' first
    | with_reducible assumption
    | with_reducible apply State.setLane_keeps
    | with_reducible apply laneEmit_keeps
    | intro st
    | lift_lets
    | split

theorem frameCrc_keeps (i : Nat) (hk : Keeps s0 s) : Keeps s0 (frameCrc s i) := by
  unfold frameCrc
  repeat' first
    | with_reducible assumption
    | with_reducible apply State.count_keeps
    | with_reducible apply State.setLane_keeps
    | with_reducible apply State.report_keeps
    | (intro st; refine Keeps.cut (s0 := s0) (s := st) ?_ (fun hst => ?_); (on_goal 1 => simp only [st]); (on_goal 2 => clear_value st))
    | intro st
    | lift_lets
    | split

theorem hopTime_keeps (hk : Keeps s0 s) : Keeps s0 (hopTime s).2 := by
  unfold hopTime
  repeat' first
    | with_reducible assumption
    | with_reducible apply State.draw_keeps

theorem forwardAct_keeps (i : Nat) (f : RingFrame) (hk : Keeps s0 s) : Keeps s0 (forwardAct i f s) := by
  unfold forwardAct
  repeat' first
    | with_reducible assumption
    | with_reducible apply State.count48_keeps
    | with_reducible apply passOn_keeps
    | with_reducible apply frameCrc_keeps
    | with_reducible apply hopTime_keeps
    | (intro st; refine Keeps.cut (s0 := s0) (s := st) ?_ (fun hst => ?_); (on_goal 1 => simp only [st]); (on_goal 2 => clear_value st))
    | intro st
    | lift_lets
    | split

theorem injectAct_keeps (i : Nat) (hk : Keeps s0 s) : Keeps s0 (injectAct i s) := by
  unfold injectAct
  repeat' first
    | with_reducible assumption
    | with_reducible apply State.setLane_keeps
    | with_reducible apply laneEmit_keeps
    | intro st
    | lift_lets
    | split

theorem drainLane_keeps (i : Nat) (hk : Keeps s0 s) : Keeps s0 (drainLane s i) := by
  unfold drainLane
  repeat' first
    | with_reducible assumption
    | with_reducible apply State.setLane_keeps
    | with_reducible apply laneEmit_keeps
    | with_reducible refine Keeps.foldl _ (fun _ _ _ => ?_) ?_

theorem readFrames_keeps (q : RingReq) (l : List Byte) (n : Nat) (hk : Keeps s0 s) : Keeps s0 (readFrames s q l n) := by
  unfold readFrames
  repeat' first
    | with_reducible assumption
    | with_reducible apply sendResp_keeps
    | with_reducible refine Keeps.foldl _ (fun _ _ _ => ?_) ?_

theorem reqGate_keeps (q : RingReq) (op : Nat) (act : State → State) (hact : ∀ t, Keeps s0 t → Keeps s0 (act t)) (hk : Keeps s0 s) : Keeps s0 (reqGate s q op act) := by
  unfold reqGate
  repeat' first
    | with_reducible assumption
    | with_reducible apply hact
    | with_reducible apply State.count_keeps
    | with_reducible apply sendResp_keeps
    | split

theorem ringReadAct_keeps (q : RingReq) (hk : Keeps s0 s) : Keeps s0 (ringReadAct q s) := by
  unfold ringReadAct
  repeat' first
    | with_reducible assumption
    | with_reducible apply State.answer_keeps
    | with_reducible apply sendResp_keeps
    | with_reducible apply portRead_keeps
    | with_reducible apply readFrames_keeps
    | (intro st; refine Keeps.cut (s0 := s0) (s := st) ?_ (fun hst => ?_); (on_goal 1 => simp only [st]); (on_goal 2 => clear_value st))
    | intro st
    | lift_lets
    | split

theorem ringWriteAct_keeps (q : RingReq) (hk : Keeps s0 s) : Keeps s0 (ringWriteAct q s) := by
  unfold ringWriteAct
  repeat' first
    | with_reducible assumption
    | with_reducible apply State.count_keeps
    | with_reducible apply State.answer_keeps
    | with_reducible apply sendResp_keeps
    | with_reducible apply answerWrite_keeps
    | with_reducible apply anyWrite_keeps
    | (with_reducible refine Keeps.upd rfl ?_; first | with_reducible assumption | with_reducible apply State.count_keeps | with_reducible apply State.answer_keeps | with_reducible apply sendResp_keeps | with_reducible apply answerWrite_keeps | with_reducible apply anyWrite_keeps)
    | (intro st; refine Keeps.cut (s0 := s0) (s := st.2) ?_ (fun hst => ?_); (on_goal 1 => simp only [st]); (on_goal 2 => clear_value st))
    | (intro st; refine Keeps.cut (s0 := s0) (s := st) ?_ (fun hst => ?_); (on_goal 1 => simp only [st]); (on_goal 2 => clear_value st))
    | intro st
    | lift_lets
    | split

theorem announceSendAct_keeps (hk : Keeps s0 s) : Keeps s0 (announceSendAct s) := by
  unfold announceSendAct
  repeat' first
    | with_reducible assumption
    | with_reducible apply nextSeq_keeps
    | with_reducible apply sendBoth_keeps
    | (with_reducible refine Keeps.upd rfl ?_; first | with_reducible assumption | with_reducible apply nextSeq_keeps | with_reducible apply sendBoth_keeps)
    | intro st
    | lift_lets
    | split

theorem addrConflict_keeps (hk : Keeps s0 s) : Keeps s0 (addrConflict s) := by
  unfold addrConflict
  repeat' first
    | with_reducible assumption
    | with_reducible apply State.wr_keeps
    | with_reducible apply State.report_keeps
    | with_reducible apply joinUnassigned_keeps
    | (with_reducible refine Keeps.upd rfl ?_; first | with_reducible assumption | with_reducible apply State.wr_keeps | with_reducible apply State.report_keeps | with_reducible apply joinUnassigned_keeps)
    | intro st
    | lift_lets
    | split

theorem announceReceiveAct_keeps (src nonce : Nat) (hk : Keeps s0 s) : Keeps s0 (announceReceiveAct src nonce s) := by
  unfold announceReceiveAct
  repeat' first
    | with_reducible assumption
    | with_reducible apply joinNow_keeps
    | with_reducible apply addrConflict_keeps
    | (with_reducible refine Keeps.upd rfl ?_; first | with_reducible assumption | with_reducible apply joinNow_keeps | with_reducible apply addrConflict_keeps)
    | (intro st; refine Keeps.cut (s0 := s0) (s := st) ?_ (fun hst => ?_); (on_goal 1 => simp only [st]); (on_goal 2 => clear_value st))
    | intro st
    | lift_lets
    | split

theorem laneDownAct_keeps (i : Nat) (hk : Keeps s0 s) : Keeps s0 (laneDownAct i s) := by
  unfold laneDownAct
  repeat' first
    | with_reducible assumption
    | with_reducible apply State.count_keeps
    | with_reducible apply State.report_keeps
    | with_reducible apply evalSides_keeps
    | with_reducible apply dropIn_keeps
    | split

theorem laneUpAct_keeps (i : Nat) (hk : Keeps s0 s) : Keeps s0 (laneUpAct i s) := by
  unfold laneUpAct
  repeat' first
    | with_reducible assumption
    | with_reducible apply State.setLane_keeps
    | with_reducible apply evalSides_keeps
    | split

theorem ringHealAct_keeps (down : Bool) (hk : Keeps s0 s) : Keeps s0 (ringHealAct down s) := by
  unfold ringHealAct
  repeat' first
    | with_reducible assumption
    | with_reducible apply joinUnassigned_keeps
    | (with_reducible refine Keeps.upd rfl ?_; first | with_reducible assumption | with_reducible apply joinUnassigned_keeps)
    | split

theorem neighbourSend_keeps (out cls seq : Nat) (payload : List Byte) (hk : Keeps s0 s) : Keeps s0 (neighbourSend s out cls seq payload) := by
  unfold neighbourSend
  repeat' first
    | with_reducible assumption
    | with_reducible apply laneQueue_keeps
    | split

theorem linkStateSendAct_keeps (hk : Keeps s0 s) : Keeps s0 (linkStateSendAct s) := by
  unfold linkStateSendAct
  repeat' first
    | with_reducible assumption
    | with_reducible apply nextSeq_keeps
    | with_reducible apply neighbourSend_keeps

theorem linkStateAct_keeps (i : Nat) (up : Bool) (hk : Keeps s0 s) : Keeps s0 (linkStateAct i up s) := by
  unfold linkStateAct
  repeat' first
    | with_reducible assumption
    | with_reducible apply State.setLane_keeps
    | with_reducible apply evalSides_keeps
    | split

theorem delayReqLane_keeps (n : Nat) (i : Nat) (hk : Keeps s0 s) : Keeps s0 (delayReqLane n s i) := by
  unfold delayReqLane
  repeat' first
    | with_reducible assumption
    | with_reducible apply State.setLane_keeps
    | with_reducible apply sendTime_keeps
    | with_reducible apply neighbourSend_keeps

theorem delayReqSendAct_keeps (hk : Keeps s0 s) : Keeps s0 (delayReqSendAct s) := by
  unfold delayReqSendAct
  repeat' first
    | with_reducible assumption
    | with_reducible apply nextSeq_keeps
    | with_reducible apply delayReqLane_keeps
    | intro st
    | lift_lets
    | split

theorem delayReqAct_keeps (i seq t2 : Nat) (hk : Keeps s0 s) : Keeps s0 (delayReqAct i seq t2 s) := by
  unfold delayReqAct
  repeat' first
    | with_reducible assumption
    | with_reducible apply sendTime_keeps
    | with_reducible apply neighbourSend_keeps
    | intro st
    | lift_lets
    | split

theorem delayRespAct_keeps (i seq t2 t3 t4 : Nat) (hk : Keeps s0 s) : Keeps s0 (delayRespAct i seq t2 t3 t4 s) := by
  unfold delayRespAct
  repeat' first
    | with_reducible assumption
    | with_reducible apply State.wr_keeps
    | with_reducible apply State.setLane_keeps
    | with_reducible apply roundWord_keeps
    | intro st
    | lift_lets
    | split

theorem syncOn_keeps (n : Nat) (ring : Nat) (hk : Keeps s0 s) : Keeps s0 (syncOn n s ring) := by
  unfold syncOn
  repeat' first
    | with_reducible assumption
    | with_reducible apply sendFrame_keeps
    | with_reducible apply sendTime_keeps

theorem syncSendAct_keeps (hk : Keeps s0 s) : Keeps s0 (syncSendAct s) := by
  unfold syncSendAct
  repeat' first
    | with_reducible assumption
    | with_reducible apply nextSeq_keeps
    | with_reducible apply syncOn_keeps
    | intro st
    | lift_lets
    | split

theorem applySync_keeps (ti rti : Nat) (syncs : List (Nat × Nat)) (hk : Keeps s0 s) : Keeps s0 (applySync s ti rti syncs) := by
  unfold applySync
  repeat' first
    | with_reducible assumption
    | with_reducible apply State.wr_keeps
    | with_reducible apply roundWord_keeps
    | (with_reducible refine Keeps.upd rfl ?_; with_reducible assumption)

theorem farSync_keeps (ti rti : Nat) (hk : Keeps s0 s) : Keeps s0 (farSync s ti rti) := by
  unfold farSync
  repeat' first
    | with_reducible assumption
    | with_reducible apply State.wr_keeps
    | with_reducible apply State.count_keeps
    | with_reducible apply State.report_keeps
    | with_reducible apply applySync_keeps
    | (with_reducible refine Keeps.upd rfl ?_; first | with_reducible assumption | with_reducible apply State.wr_keeps | with_reducible apply State.count_keeps | with_reducible apply State.report_keeps | with_reducible apply applySync_keeps)
    | (intro st; refine Keeps.cut (s0 := s0) (s := st) ?_ (fun hst => ?_); (on_goal 1 => simp only [st]); (on_goal 2 => clear_value st))
    | intro st
    | lift_lets
    | split

theorem nearSync_keeps (ti rti d : Nat) (hk : Keeps s0 s) : Keeps s0 (nearSync s ti rti d) := by
  unfold nearSync
  repeat' first
    | with_reducible assumption
    | with_reducible apply State.wr_keeps
    | with_reducible apply applySync_keeps
    | (with_reducible refine Keeps.upd rfl ?_; first | with_reducible assumption | with_reducible apply State.wr_keeps | with_reducible apply applySync_keeps)
    | (intro st; refine Keeps.cut (s0 := s0) (s := st) ?_ (fun hst => ?_); (on_goal 1 => simp only [st]); (on_goal 2 => clear_value st))
    | intro st
    | lift_lets
    | split

theorem consumeSync_keeps (i seq origin : Nat) (correction : Int) (ti : Nat) (hk : Keeps s0 s) : Keeps s0 (consumeSync s i seq origin correction ti) := by
  unfold consumeSync
  try dsimp only
  repeat' first
    | with_reducible assumption
    | with_reducible apply State.wr_keeps
    | with_reducible apply applySync_keeps
    | with_reducible apply farSync_keeps
    | with_reducible apply nearSync_keeps
    | (with_reducible refine Keeps.upd rfl ?_; first | with_reducible assumption | with_reducible apply State.wr_keeps | with_reducible apply applySync_keeps | with_reducible apply farSync_keeps | with_reducible apply nearSync_keeps)
    | with_reducible refine Keeps.foldl _ (fun _ _ _ => ?_) ?_
    | split

theorem followSync_keeps (i seq hops origin : Nat) (correction : Int) (ti : Nat) (hk : Keeps s0 s) : Keeps s0 (followSync s i seq hops origin correction ti) := by
  unfold followSync
  repeat' first
    | with_reducible assumption
    | with_reducible apply State.wr_keeps
    | with_reducible apply consumeSync_keeps
    | with_reducible refine Keeps.foldl _ (fun _ _ _ => ?_) ?_
    | intro st
    | lift_lets
    | split

theorem syncReceiveAct_keeps (i src seq hops origin : Nat) (correction : Int) (ti : Nat) (hk : Keeps s0 s) : Keeps s0 (syncReceiveAct i src seq hops origin correction ti s) := by
  unfold syncReceiveAct
  repeat' first
    | with_reducible assumption
    | with_reducible apply State.wr_keeps
    | with_reducible apply State.setLane_keeps
    | with_reducible apply State.report_keeps
    | with_reducible apply followSync_keeps
    | (with_reducible refine Keeps.upd rfl ?_; first | with_reducible assumption | with_reducible apply State.wr_keeps | with_reducible apply State.setLane_keeps | with_reducible apply State.report_keeps | with_reducible apply followSync_keeps)
    | with_reducible refine Keeps.foldl _ (fun _ _ _ => ?_) ?_
    | (intro st; refine Keeps.cut (s0 := s0) (s := st) ?_ (fun hst => ?_); (on_goal 1 => simp only [st]); (on_goal 2 => clear_value st))
    | intro st
    | lift_lets
    | split

theorem syncLostAct_keeps (hk : Keeps s0 s) : Keeps s0 (syncLostAct s) := by
  unfold syncLostAct
  repeat' first
    | with_reducible assumption
    | with_reducible apply State.wr_keeps
    | with_reducible apply State.report_keeps
    | split

end Sys2Proof.Machine
end

