-- ==== Sys2Proof/Laws/KeepsTick.lean ====
section
/-!
SUPPORT. What the operations of Tick.lean keep (`Keeps`).
-/
namespace Sys2Proof.Machine

variable {s0 s : State}

theorem flagsEvent_keeps (hk : Keeps s0 s) : Keeps s0 (flagsEvent s) := by
  unfold flagsEvent
  repeat' first
    | with_reducible assumption
    | with_reducible apply maskedEvent_keeps
    | (with_reducible refine Keeps.upd rfl ?_; first | with_reducible assumption | with_reducible apply maskedEvent_keeps)
    | intro st
    | lift_lets
    | split

theorem drainLanes_keeps (hk : Keeps s0 s) : Keeps s0 (drainLanes s) := by
  unfold drainLanes
  repeat' first
    | with_reducible assumption
    | with_reducible apply drainLane_keeps
    | split

theorem keepLeftOut_keeps (hk : Keeps s0 s) : Keeps s0 (keepLeftOut s) := Keeps.upd rfl hk

theorem tickWork_keeps (hk : Keeps s0 s) : Keeps s0 (tickWork s) := by
  unfold tickWork
  repeat' first
    | with_reducible assumption
    | with_reducible apply absentSteps_keeps
    | with_reducible apply assignSpares_keeps
    | with_reducible apply drainLanes_keeps
    | with_reducible apply enterSelfRefresh_keeps
    | with_reducible apply flagsEvent_keeps
    | with_reducible apply idleSwaps_keeps
    | with_reducible apply initStep_keeps
    | with_reducible apply keepLeftOut_keeps
    | with_reducible apply personaPitch_keeps
    | with_reducible apply restPin_keeps
    | with_reducible apply retryWrites_keeps
    | with_reducible apply vernStep_keeps

theorem countTick_keeps (hk : Keeps s0 s) : Keeps s0 (countTick s) := by
  refine Keeps.updAll id id (fun h => ?_) rfl hk
  split
  · exact Nat.mod_lt _ (Nat.two_pow_pos 48)
  · exact h

theorem endTick_keeps (hk : Keeps s0 s) : Keeps s0 (endTick s) := by
  unfold endTick
  repeat' first
    | with_reducible assumption
    | with_reducible apply countTick_keeps
    | with_reducible apply latheTick_keeps
    | with_reducible apply tickWork_keeps

end Sys2Proof.Machine
end

