-- ==== Sys2Proof/Laws/Order.lean ====
section
/-!
SUPPORT. Sampling an event: it joins the queue, nothing else changes, and a queue in the order of R37 and R43 stays in it.
-/
namespace Sys2Proof.Machine

/-- `place` adds the event and drops none. -/
theorem place_perm (f : Instr → Nat) (c : Instr) (l : List Instr) : (place f c l).Perm (c :: l) := by
  induction l with
  | nil => exact .refl _
  | cons d l ih =>
    unfold place
    split
    · exact (ih.cons d).trans (.swap c d l)
    · exact .refl _

/-- `place` keeps a list in order. -/
theorem place_sorted (f : Instr → Nat) (c : Instr) (l : List Instr) (h : l.Pairwise (fun a b => f a ≤ f b)) :
    (place f c l).Pairwise (fun a b => f a ≤ f b) := by
  induction l with
  | nil => exact List.pairwise_singleton _ _
  | cons d l ih =>
    rw [List.pairwise_cons] at h
    unfold place
    split
    · rename_i hd
      refine List.pairwise_cons.2 ⟨fun a ha => ?_, ih h.2⟩
      rcases List.mem_cons.1 ((place_perm f c l).mem_iff.1 ha) with rfl | ha
      · exact hd
      · exact h.1 a ha
    · rename_i hd
      refine List.pairwise_cons.2 ⟨fun a ha => ?_, List.pairwise_cons.2 h⟩
      rcases List.mem_cons.1 ha with rfl | ha
      · omega
      · have := h.1 a ha
        omega

/-- Events that are placed alike keep the order in which they came. -/
theorem place_behind (f : Instr → Nat) (c : Instr) (l : List Instr) (h : ∀ d ∈ l, f d ≤ f c) : place f c l = l ++ [c] := by
  induction l with
  | nil => rfl
  | cons d l ih =>
    unfold place
    rw [if_pos (h d (List.mem_cons_self ..)), ih (fun a ha => h a (List.mem_cons_of_mem _ ha)), List.cons_append]

variable (s : State) (c : Instr)

@[simp] theorem State.sample_pending : (s.sample c).pending = place (order s) c s.pending := rfl

/-- `order` reads nothing of the queue, so it stays the order of the TICK while events are sampled. -/
@[simp] theorem order_setPending (q : List Instr) : order { s with pending := q } = order s := by
  funext c
  cases c <;> rfl

@[simp] theorem State.sample_order : order (s.sample c) = order s := order_setPending s _

end Sys2Proof.Machine
end

