-- ==== Sys2Proof/Laws/Writes.lean ====
section
/-!
SUPPORT. What a write on a port can do: nothing on a port that is down, an answer alone when it is superseded or refused,
the effect of its meaning and the answer when it is accepted.
-/
namespace Sys2Proof.Machine

variable {s : State} {p : Port} {t : Target} {late : Bool} {r : Row} {i j : Nat} {v : Int} {act : State → Nat × State}

/-- CONFIG_CRC alone may become stale. -/
theorem markStale_eq (s u : State) (r : Row) (i : Nat) : ∃ b, markStale s u r i = u.withStale b := by
  unfold markStale State.withStale
  split
  · exact ⟨true, rfl⟩
  · exact ⟨u.store.crcStale, rfl⟩

@[simp] theorem withStale_rd (b : Bool) (r : Row) (i j : Nat) : (s.withStale b).rd r i j = s.rd r i j := rfl
@[simp] theorem withStale_rdN (b : Bool) (r : Row) (i j : Nat) : (s.withStale b).rdN r i j = s.rdN r i j := rfl
@[simp] theorem withStale_byte (b : Bool) (a : Nat) : (s.withStale b).byte a = s.byte a := rfl
@[simp] theorem withStale_sent (b : Bool) : (s.withStale b).sent = s.sent := rfl
@[simp] theorem withStale_dev (b : Bool) : (s.withStale b).dev = s.dev := rfl

/-- An accepted write has its effect and its answer, and may leave CONFIG_CRC stale. -/
theorem writeIf_accepted (h : Accepted s p late r i j v) :
    ∃ b, writeIf s p late r i j v act = ((act s).2.withStale b).reply p (act s).1 := by
  obtain ⟨h1, h2, h3⟩ := h
  obtain ⟨b, hb⟩ := markStale_eq s (act s).2 r i
  exact ⟨b, by simp [writeIf, writeCode, h1, h2, h3, hb]⟩

theorem writeAs_accepted (h : Accepted s p (s.superseded t) r i j v) :
    ∃ b, writeAs s p t r i j v act = ((act s).2.withStale b).reply p (act s).1 := writeIf_accepted h

/-- A write on a port that is down does nothing. -/
theorem writeIf_down (h : portUp s p = false) : writeIf s p late r i j v act = s := by simp [writeIf, h]

/-- A write that a check of R449 refuses leaves its answer alone. -/
theorem writeIf_refused {code : Nat} (h1 : portUp s p = true) (h2 : late = false)
    (h3 : checkWrite s r i j v = some code) : writeIf s p late r i j v act = s.reply p code := by
  simp [writeIf, writeCode, h1, h2, h3]

/-- A write that a reset, trip or fence of its TICK supersedes leaves its answer alone. -/
theorem writeIf_superseded (h1 : portUp s p = true) (h2 : late = true) :
    writeIf s p late r i j v act = s.reply p (discardCode s) := by
  simp [writeIf, writeCode, h1, h2]

theorem reply_of_ne {code : Nat} {l : List Byte} (h : code ≠ laterCode) : s.reply p code l = s.answer p code l := by
  simp [State.reply, h]

@[simp] theorem reply_ok : s.reply p okCode = s.answer p okCode := by simp [State.reply, okCode, laterCode]

end Sys2Proof.Machine
end

