-- ==== Sys2Proof/Tests/Slice0.lean ====
section
/-!
SUPPORT. Tests: for every statement with hypotheses a state and operands that meet them all together (`witness_…`), the
smoke test of the well-formedness checks, and the worked examples of the spec counted out on single steps (`test_…`).
-/
namespace Sys2Proof.Tests
open Sys2Proof Sys2Proof.Machine

-- The kernel evaluates these theorems one after another: side by side they would need more threads than memory allows.
set_option Elab.async false

/-! ### States that the tests start from -/

/-- READY, every domain on, both rings joined, the fuses sensed. -/
def up : State := { State.reset with
  dev := .ready
  clkRoot := true
  doms := (List.range 11).map (fun d => (d + 1, { st := 2 }))
  ring := { join := 2 }
  lanes := [(0, { inUp := true }), (1, { inUp := true })]
  can := { node := 5, status := 1 }
  memory := { built := true, ranks := [(0, { st := 1 }), (8, { st := 6 })], map := [(3, 2 ^ 45)] }
  otp := { State.reset.otp with
    sensed := true
    shadows := factoryOtp.map (fun x => (x.1, { raw := x.2.data, data := x.2.data, sealed := x.2.sealed })) } }

/-- A state with entries set. -/
def with_ (s : State) (l : List (Row × Nat × Int)) : State := l.foldl (fun s x => s.wr x.1 x.2.2 x.2.1) s

/-- Channel 3 with its own reading of something. -/
def withCh (s : State) (x : Chan) : State := s.setChan 3 x
/-! ### The step -/

theorem witness_StepRunsFrontCommand : ({ up with pending := [.initDone, .heartbeat] } : State).pending = .initDone :: [.heartbeat] ∧
    (∀ l, Instr.initDone ≠ .sramAccessGrant l) ∧
    ({ up with pending := [.reset .ringA 0x5A5A, .initDone, .domReqWrite .ringA 11 0, .domReqWrite .fw 0 1] } : State).pending.Pairwise
      (fun a b => order up a ≤ order up b) :=
  ⟨rfl, nofun, by decide +kernel⟩
theorem witness_StepRunsFrontCommand_order : precedence up .dieTrip < precedence up (.abort .fw 0) ∧
    precedence up (.abort .ringA 0) = precedence up (.stop .fw 0) ∧ portOf (.abort .ringA 0) = some .ringA ∧
    portOf (.stop .fw 0) = some .fw ∧ portRank .ringA < portRank .fw ∧
    precedence up (.foldDone 98) = precedence up .initDone ∧ portOf (.foldDone 98) = none ∧ portOf .initDone = none ∧
    (sourceOf up (.foldDone 98)).1 < (sourceOf up .initDone).1 ∧ (sourceOf up .initDone).1 < 256 := by decide
theorem witness_IdleStepEndsTick : up.pending = [] := rfl
theorem witness_StepKeepsForm : up.memWf = true ∧ up.dictWf = true ∧ up.timeWf = true ∧ ∃ t, step up = .next t :=
  ⟨by decide, by decide, by decide, _, rfl⟩
theorem witness_CommandsKeepQueueTraceFuses : (∃ t, exec .rootPllLock up = .next t) ∧
    (fuseWord up 120).data.testBit 15 = true ∧ (fuseWord up 0).sealed = true := ⟨⟨_, rfl⟩, by decide, by decide⟩

/-! ### Position -/

/-- Encoder 1 counts in quadrature and the medium moves. -/
def moving : State :=
  { with_ up [(E.encMode, 1, 1), (E.encFilter, 1, 5), (E.velEst, 0, 2 ^ 40), (E.ringPosNode, 0, 9)] with
    encs := [(1, { valid := true, run := 16 })], ringPos := { valid := true } }

theorem witness_EncodersCountAndAreLost : moving.domOn 10 = true ∧ ¬(true = (moving.enc 1).a ∧ false = (moving.enc 1).b) ∧
    4 < moving.rdN E.encFilter 1 ∧ moving.rdN E.encFilter 1 ≤ 5 ∧ moving.rdN E.encMode 1 ≠ 0 ∧
    true ≠ (moving.enc 1).a ∧ true ≠ (moving.enc 1).b ∧ moving.rdN E.encMode 1 ≠ 3 ∧
    encValid moving 1 = true ∧ stopped moving = false ∧ moving.ringPos.valid = true := by decide +kernel
theorem witness_EncodersCountAndAreLost_coast : ∀ s, s = { with_ up [(E.coastMax, 0, 1)] with obs := { active := 6 } } →
    s.domOn 10 = true ∧ s.obs.active = 6 ∧ s.obs.limited = false ∧ s.rd E.coastMax ≠ 0 := by
  rintro s rfl; decide

theorem witness_SourceWritesTakeEffect : Accepted up .fw (up.superseded noTarget) E.changeover 0 0 1 ∧
    Accepted up .lhp (up.superseded noTarget) E.srcPrimary 0 0 4 ∧
    Accepted up .ringA (up.superseded noTarget) E.srcSecondary 0 0 0 ∧
    Accepted up .canFd (up.superseded noTarget) (encRow .mode) 3 0 3 ∧
    Accepted up .ringB (up.superseded noTarget) E.ringPosNode 0 0 7 := by
  unfold Accepted; decide

theorem witness_RingPositionSamples : ∀ s, s = with_ up [(E.ringPosNode, 0, 9), (E.rtState, 0, 2), (E.ringPosPublish, 0, 1),
      (E.ringAddrNow, 0, 7)] →
    s.domOn 10 = true ∧ ringTimeValid s = true ∧ 9 = s.rdN E.ringPosNode ∧
    (∀ q, s.ringPos.seq = some q → 0 < signed 16 (unsigned 16 ((1 : Int) - q))) ∧ 8 ≠ s.rdN E.ringPosNode ∧
    s.rd E.ringPosPublish = 1 ∧ assigned s = true ∧ RingsFree s := by
  rintro s rfl
  refine ⟨by decide, by decide, by decide, by rintro q ⟨⟩, by decide, by decide, by decide, ?_⟩
  unfold RingsFree; decide
theorem witness_RingPositionSamples_older : ∀ s, s = { up with ringPos := { seq := some 5 } } →
    ∃ q, s.ringPos.seq = some q ∧ signed 16 (unsigned 16 ((5 : Int) - q)) ≤ 0 := by
  rintro s rfl; exact ⟨5, by decide⟩

theorem witness_ObserverSampleDelivers : ∀ s, s = { moving with obs := { active := 1, change := some 0 }, encs := [(0, { valid := true })] } → ∀ t, t = s.wr E.encMode 1 →
    t.domOn 10 = true ∧ loopHeld t 0 = false ∧ (t.loop 0).pendOdd = false ∧ nextSource t = some 0 := by
  rintro s rfl t rfl; decide +kernel

/-! ### Lines -/

/-- Channel 3 prints page 0, at the line that the medium has reached. -/
def printing : State := withCh { with_ up [(E.engEnable, 3, 1), (E.pageLines, 0, 100), (E.pagePitch, 0, 2 ^ 20), (E.velEst, 0, 2 ^ 40), (E.lineCols, 3, 16), (E.dropBits, 3, 2)] with
  dev := .printing, job := { starts := [16500000] }, obs := { active := 1 } } { inPage := true }

theorem witness_LineLockFreezesInstant : printing.dev = .printing ∧ printing.noLocks = false ∧ printing.obs.reverse = false ∧
    enabledCh printing 3 = true ∧ ∃ l, lockable printing 3 = some l ∧ sdiff51 l.inst (nowStep printing) < lockLeadSteps printing := by
  refine ⟨by decide, by decide, by decide, by decide, (lockable printing 3).getD ⟨0, 0, false⟩, ?_, ?_⟩ <;> decide +kernel
theorem witness_LineLockFreezesInstant_suspended :
    ({ printing with obs := { reverse := true } } : State).obs.reverse = true ∧ { printing with job := { stopping := true } }.noLocks = true := by
  decide

/-- Line 8 of channel 3 is locked and line 4 was withheld. -/
def rehung : State := withCh printing { inPage := true, next := 9, locked := [⟨8, 5000, false⟩], withheld := [4] }
theorem witness_LineLockFreezesInstant_again : rehung.noLocks = false ∧ rehung.obs.reverse = false ∧ enabledCh rehung 3 = true ∧
    ∃ l, lockable rehung 3 = some l ∧ sdiff51 l.inst (nowStep rehung) < lockLeadSteps rehung ∧ l.line < (rehung.chan 3).next ∧
      (⟨8, 5000, false⟩ : Lock) ∈ (rehung.chan 3).locked ∧ 8 ≠ l.line := by
  refine ⟨by decide, by decide, by decide, (lockable rehung 3).getD ⟨0, 0, false⟩, ?_, ?_, ?_, ?_, ?_⟩ <;> decide +kernel

/-- Line 4 of channel 3 is locked, and built by engine 3. -/
def locked : State := withCh printing { inPage := true, locked := [⟨4, 1000, false⟩], built := some ⟨4, 0, 3, false, false, none, .scan, [], 100, 900, []⟩ }

theorem witness_LineFireOrLate : (locked.chan 3).locked = [⟨4, 1000, false⟩] ∧ serving locked 3 = some 3 ∧ 4 + 1 < pageLinesOf locked 3 ∧
    locked.obs.reverse = false ∧ locked.rd E.paused 3 ≠ 1 ∧ (∃ b, readyBuilt locked 3 ⟨4, 1000, false⟩ = some b ∧ b.engine < 100) ∧
    (locked.chan 3).taking = 0 := by
  refine ⟨rfl, by decide, by decide, by decide, by decide, ⟨_, rfl, by decide⟩, by decide⟩
theorem witness_LineFireOrLate_late : ∀ s, s = { withCh locked { locked := [⟨99, 1000, true⟩] } with obs := { reverse := true } } →
    (s.chan 3).locked = [⟨99, 1000, true⟩] ∧ readyBuilt s 3 ⟨99, 1000, true⟩ = none ∧ s.obs.reverse = true ∧
    (s.wr E.pageLines 0).rdN E.pageLines = 0 ∧
    ((s.setChan 3 { locked := [⟨98, 1000, false⟩, ⟨99, 2000, false⟩] }).chan 3).locked = ⟨98, 1000, false⟩ :: [⟨99, 2000, false⟩] := by
  rintro s rfl; decide

theorem witness_BuildStartBuildsLine : ∀ s, s = withCh locked { inPage := true, locked := [⟨4, 1000, false⟩], slots := [⟨4, 0, true, false, [0, 1, 2, 3]⟩] } →
    workingEngine s 3 = some 3 ∧ s.busyJob = true ∧ enabledCh s 3 = true ∧ s.rd E.paused 3 ≠ 1 ∧ (s.chan 3).built = none ∧
    (s.chan 3).locked ≠ [] ∧ slotOf (s.chan 3) ((s.chan 3).page * pageLinesOf s 3 + targetLine s 3) = some ⟨4, 0, true, false, [0, 1, 2, 3]⟩ := by
  rintro s rfl; decide +kernel

/-- Channel 3 reads ring buffer 31, whose base is page 3; line 4 is in flight, or was met by an error, and line 5 asked for. -/
def fetching (bad : Bool) : State := withCh { with_ printing [(E.feedRb, 3, 31), (E.rbBase, 31, 0x600000), (E.rbWr, 31, 6), (E.rbLines, 31, 8), (E.rbStride, 31, 4)] with
  memory := { printing.memory with initDone := true } } { asked := [5], issued := [⟨4, 0x600010, bad, [], 1, [], [1, 2, 3, 4]⟩] }
theorem witness_FeedFetchesLines : ∀ s, s = fetching false →
    workingEngine s 3 = some 3 ∧ ringBufOf s 3 = some 31 ∧ (s.chan 3).asked = [5] ∧ s.rdN E.rbMode 31 = 0 ∧ 5 < s.rdN E.rbWr 31 ∧
    (∀ f ∈ (s.chan 3).issued, f.todo = []) ∧ inRequest (s.chan 3) < 4 ∧ s.rdN E.rbWr 31 ≤ 5 + s.rdN E.rbLines 31 ∧
    requests (lineAddr s 3 31 5) (lineBytes s 3) = [(lineAddr s 3 31 5, lineBytes s 3)] ∧ reach s (lineAddr s 3 31 5) = .at_ 20 ∧
    (s.rank (pRank (pageEntry s (lineAddr s 3 31 5 / pageSize)))).power < 3 ∧
    (s.chan 3).issued = ⟨4, 0x600010, false, [], 1, [], [1, 2, 3, 4]⟩ :: [] ∧ (∀ g ∈ ([] : List Fetch), g.todo = [] ∧ g.job ≠ 4) ∧
    EccResult.good ≠ .uncorrectable ∧ ((fetching true).chan 3).issued = [⟨4, 0x600010, true, [], 1, [], [1, 2, 3, 4]⟩] := by
  rintro s rfl; decide +kernel

/-! ### Tables, links and head care -/

theorem witness_TablesAreCommitted : ∀ s, s = up.setEng 95 { stitch := .syncing, wave := .syncing } →
    Accepted s .fw (s.superseded (.engine 95)) E.tableCommit 95 0 2 ∧ Accepted s .fw (s.superseded (.engine 95)) E.tableCommit 95 0 4 ∧
    Accepted s .fw (s.superseded (.engine 95)) E.tableCommit 95 0 8 ∧ Accepted s .fw (s.superseded (.engine 95)) E.tableCommit 95 0 1 ∧
    engGroup 95 < 4 ∧ (s.eng 95).stitch = .syncing ∧ (s.eng 94).stitch = .clean ∧ (s.eng 95).stitch ≠ .folding ∧
    ((up.setEng 95 { stitch := .folding }).eng 95).stitch = .folding ∧ Table.wave ≠ .stitch ∧
    (s.eng 95).foldDirty = false ∧ (({ s.eng 95 with foldDirty := true } : EngSt)).foldDirty = true ∧ (s.eng 95).shadow .wave = .syncing ∧ (s.eng 95).held = [] ∧ (s.eng 95).shadow .tile ≠ .syncing := by
  rintro s rfl; unfold Accepted; decide

theorem witness_TakeoverMovesChannel : Accepted up .fw (up.superseded (.engine 95)) E.takeover 95 0 1 ∧ serving up 95 = some 95 ∧
    up.busyJob = false ∧ spareFree up 95 = true ∧ (up.setEng 99 { copying := some (95, 95) }).memWf = true ∧
    ((up.setEng 99 { copying := some (95, 95) }).eng (96 + (3 : Fin 4).val)).copying = some (95, 95) := by
  unfold Accepted; decide

theorem witness_LinkFramesLeave : (∃ st bs, driveBlocks (driveTxState (up.chan 95)) (driveFrame up 95 (up.time - up.time % 170)) = (st, bs)) ∧
    up.domOn (engDom 95) = true ∧ up.chPresent 95 = true ∧ up.dev ≠ .boot ∧ up.dev ≠ .safe ∧
    legacy up 95 = false ∧ serialising up 95 = false ∧ up.domOn 10 = true ∧ prbsOnDrive up 95 = false :=
  ⟨⟨_, _, (Prod.eta _).symm⟩, by decide⟩

/-- Bytes with the CRC-16 of those from `a` on, n of them, at their end (R175, R195). -/
def withCrc (l : List Byte) (a n : Nat) : List Byte := l ++ toBytes 2 (crc16 ((l.drop a).take n))

theorem witness_BackchannelReports : ∀ s l, s = withCh up { bridgeUp := true } → l = withCrc (List.replicate 38 0xF0) 1 37 →
    s.domOn (engDom 3) = true ∧ s.chPresent 3 = true ∧ legacy s 3 = false ∧ l.length = 40 ∧
    crc16 ((l.drop 1).take 37) = fieldAt l 38 2 ∧ (s.chan 3).bridgeUp = true ∧ (l.take 39).length ≠ 40 := by
  rintro s l rfl rfl; decide +kernel

/-- The 680 bits of 20 blocks as bytes. -/
def packed (bs : List Nat) : List Byte := toBytes 85 (bs.foldl (fun n b => n * 2 ^ 34 + b) 0)
theorem witness_DriveLinkInbound : ∀ s f l, s = withCh up { rxUp := true, driveRx := some 0 } → f = withCrc (List.replicate 78 7) 0 72 →
      l = packed (driveBlocks 0 f).2 →
    s.domOn (engDom 3) = true ∧ s.chPresent 3 = true ∧ (driveUnframe (driveRxState (s.chan 3)) l).2 = some f ∧
    crc16 (f.take 72) = fieldAt f 78 2 ∧ (s.chan 3).rxUp = true := by
  rintro s f l rfl rfl rfl; decide +kernel

theorem witness_HeadCareRoundPauses : up.chPresent 95 = true ∧ up.domOn (engDom 95) = true ∧ legacy up 95 = false ∧
    (serving up 95).isSome = true := by decide

theorem witness_SpeedIsPlannedAndShown : ∀ s, s = { with_ up [(E.speedReq, 0, 5), (E.speedLimEn, 0, 1)] with gov := { pwm := some (0, 8, 4) } } →
    s.domOn 10 = true ∧ speedLimLow s = false ∧ speedLimLow (s.wr E.speedReq 0) = true ∧
    (s.wr E.speedReq 0).gov.pwm.isSome = true ∧ Accepted s .fw (s.superseded noTarget) E.speedLimFreq 0 0 1000 := by
  rintro s rfl; unfold Accepted; decide

/-! ### The Lathe -/

/-- Loop 239 runs, triggered by the TICK, on chain A of one section. -/
def looping : State := with_ up [(E.loopEn, 239, 1), (E.trigKind, 239, 1), (E.lenA, 239, 1), (E.firstA, 239, 7), (E.srcA, 239, 0)]

theorem witness_FreeLoopSampleComputes : looping.domOn 10 = true ∧ looping.rd E.loopEn 239 = 1 ∧ looping.rd E.trigKind 239 = 1 ∧
    (looping.loop 239).sampledAt ≠ some looping.tick ∧ latheFree looping = true ∧ looping.lathe.waiting = [] ∧
    loopHeld looping 239 = false ∧ handoverDue looping 239 = false ∧
    looping.rd E.sink 239 = 0 ∧ chainXmode looping 239 (looping.loop 239).chainB = false ∧
    chainLen looping 239 (looping.loop 239).chainB = 1 := by decide
theorem witness_LoopSampleSpecialCases_held : ∀ s, s = looping.setLoop 239 { cmdHold := true } →
    s.domOn 10 = true ∧ s.rd E.loopEn 239 = 1 ∧ s.rd E.trigKind 239 = 1 ∧ (s.loop 239).sampledAt ≠ some s.tick ∧
    latheFree s = true ∧ s.lathe.waiting = [] ∧ loopHeld s 239 = true := by
  rintro s rfl; decide
theorem witness_LoopSampleSpecialCases_heater : ∀ s, s = with_ up [(E.loopEn, 98 + 95, 1), (E.trigKind, 98 + 95, 1), (E.sink, 98 + 95, 0x35F)] →
    s.rd E.loopEn (98 + 95) = 1 ∧ s.rd E.trigKind (98 + 95) = 1 ∧ (s.loop (98 + 95)).sampledAt ≠ some s.tick ∧ latheFree s = true ∧
    s.lathe.waiting = [] ∧ heaterOff s 95 = true ∧
    (s.loop (98 + 95)).forced = false ∧ s.rd E.sink (98 + 95) = 0x300 + ((95 : Nat) : Int) := by
  rintro s rfl; decide
theorem witness_LoopSampleSpecialCases_overrun :
    ((looping.setLoop 194 { sampledAt := some 0 }).loop 194).sampledAt = some (looping.setLoop 194 { sampledAt := some 0 }).tick ∧
    (∃ w ∈ ({ looping with lathe := { waiting := [⟨2, 0, 239, .good, 0⟩] } } : State).lathe.waiting, w.loop = 239) := by
  decide
theorem witness_LoopSampleSpecialCases_waits : ∀ s, s = { looping with lathe := { busy := 4 } } →
    s.domOn 10 = true ∧ s.rd E.loopEn 239 = 1 ∧ s.rd E.trigKind 239 = 1 ∧ (s.loop 239).sampledAt ≠ some s.tick ∧
    latheFree s = false ∧ s.lathe.waiting = [] := by
  rintro s rfl; decide
theorem witness_LoopSampleSpecialCases_switch : ∀ s, s = (looping.setLoop 239 { pendOdd := true, pend := true }).wr E.srcConst 5 239 →
    handoverDue s 239 = true ∧ latheFree s = true ∧ s.lathe.waiting = [] ∧ loopHeld s 239 = false ∧ s.rd E.sink 239 = 0 ∧ chainXmode s 239 (!(s.loop 239).chainB) = false ∧
    chainLen s 239 (!(s.loop 239).chainB) = 0 ∧ -2 ^ 47 ≤ s.rd E.output 239 - sourceValue s 239 (chainSource s 239 true) ∧
    s.rd E.output 239 - sourceValue s 239 (chainSource s 239 true) ≤ 2 ^ 47 - 1 ∧ s.rdHeld E.outMin 239 ≤ s.rd E.output 239 ∧
    s.rd E.output 239 ≤ s.rdHeld E.outMax 239 ∧ 0 ≤ s.rdHeld E.slewDown 239 ∧ 0 ≤ s.rdHeld E.slewUp 239 := by
  rintro s rfl; decide

theorem witness_LatheCommandsTakeEffect : Accepted up .fw (up.superseded (.loop 98)) E.loopCmd 98 0 1 ∧
    Accepted up .fw (up.superseded (.loop 239)) E.loopCmd 239 0 2 ∧ Accepted up .fw (up.superseded (.loop 0)) E.loopCmd 0 0 3 ∧
    Accepted up .fw (up.superseded (.loop 194)) E.loopEn 194 0 0 ∧ Accepted up .fw (up.superseded (.loop 194)) E.loopEn 194 0 1 ∧
    up.rd E.loopEn 194 ≠ 1 ∧ chainsValid up 194 = true ∧
    chainsValid (with_ up [(E.lenA, 194, 1), (E.lenB, 194, 1)]) 194 = false ∧
    Accepted (with_ up [(E.lenA, 194, 1), (E.lenB, 194, 1)]) .fw false E.loopEn 194 0 1 := by
  unfold Accepted; decide +kernel
theorem witness_LatheCommandsTakeEffect_sections : portUp up .fw = true ∧ up.superseded noTarget = false ∧ up.domOn 10 = true ∧
    up.dev ≠ .boot ∧ up.store.storing = none ∧ (List.replicate 32 (255 : Byte)).length = 32 ∧
    ([0xFF, 0x80, 0, 0] : List Byte).length = 4 ∧ (-8388608 : Int) = signed 32 (ofBytes [0xFF, 0x80, 0, 0]) := by decide
theorem witness_LatheCommandsTakeEffect_log : ∀ s, s = { with_ up [(E.logBase, 0, 0x8000007FFFF0), (E.logSize, 0, 16)] with logQ := [List.replicate 16 1] } →
    s.logQ = [List.replicate 16 1] ∧ (List.replicate 16 (1 : Byte)).length = 16 ∧ s.memory.badSram = [] ∧ inSram (s.rdN E.logBase + s.rdN E.logWr) 16 = true ∧ s.domState 11 = 2 ∧
    (setDom s 11 3).domState 11 ≠ 2 ∧ Accepted s .fw (s.superseded noTarget) E.logEn 0 0 1 ∧ s.rdN E.logBase % 16 = 0 ∧
    inSram (s.rdN E.logBase) (s.rdN E.logSize) = true ∧ (s.wr E.logBase 8).rdN E.logBase % 16 ≠ 0 := by
  rintro s rfl; unfold Accepted; decide

/-! ### Memory -/

theorem witness_MapCommandsChangePage : ∀ s, s = with_ up [(E.mapPage, 0, 5), (E.mapTarget, 0, 1819 * 32), (E.framesPerRank, 0, 1820)] →
    Accepted s .fw (s.superseded noTarget) E.mapOp 0 0 1 ∧ s.busyJob = false ∧ s.memory.queue = [] ∧ pageState s 5 = 0 ∧
    bits (s.rdN E.mapTarget) 15 5 < s.rdN E.framesPerRank ∧
    frameNamed s 5 (bits (s.rdN E.mapTarget) 19 16) (bits (s.rdN E.mapTarget) 15 5) = false ∧
    (s.rank (bits (s.rdN E.mapTarget) 19 16)).st = 1 ∧ pageState s 3 = 1 ∧
    Accepted s .fw (s.superseded noTarget) E.mapOp 0 0 2 ∧ Accepted s .fw (s.superseded noTarget) E.mapOp 0 0 3 ∧
    Accepted s .fw (s.superseded noTarget) E.mapOp 0 0 4 ∧ { s with dev := .armed }.busyJob = true := by
  rintro s rfl; unfold Accepted; decide

/-- `up` with every mapped page written. -/
def upMem : State := { up with memory := { up.memory with initDone := true } }
theorem witness_MemoryReadsAreHandled : upMem.domOn 3 = true ∧ reach upMem 0x600000 = .at_ 0 ∧ upMem.memory.badBlocks.contains 0 = false ∧
    (upMem.wr E.ceLimit 0).rd E.ceLimit = 0 ∧ (upMem.rank 0).st = 1 ∧ (upMem.rank 0).ues.length < 64 ∧
    (upMem.wr E.scrubPeriod 1).rd E.scrubPeriod ≠ 0 ∧ rankInUse upMem 0 = true ∧ upMem.domOn (dramDom 0) = true ∧
    0 < (upMem.wr E.framesPerRank 910).rdN E.framesPerRank ∧ pageOfFrame upMem 0 0 = some 3 ∧ (upMem.rank 0).power < 3 ∧
    ((upMem.setRank 0 { st := 1, power := 3 }).rank 0).power = 3 ∧ rankInUse (upMem.setRank 0 { st := 1, power := 3 }) 0 = true ∧
    pageOfFrame (upMem.setRank 0 { st := 1, power := 3 }) 0 0 = some 3 ∧
    upMem.memory.badBlocks.contains ((frameAt 0 0 + 8191 * 256) / 256) = false := by decide +kernel
theorem witness_MemoryReadsAreHandled_spare : ∀ s, s = { upMem with memory := { upMem.memory with failing := [(0, some 3)], ranks := [(0, { st := 2 }), (8, { st := 6 })] } } →
    s.memory.failing = [(0, some 3)] ∧ (s.rank 0).st = 2 ∧ freeSpare s = some 8 ∧ freeSpare (s.setRank 8 { st := 5 }) = none ∧
    s.memory.queue = [] ∧ s.memory.ch4Ready = false ∧ reach s 0x600000 = .at_ 0 := by
  rintro s rfl; decide +kernel

/-- A migration of rank 0's pages to spare 8, that of the first error being page 3. -/
def migrating (pages : List Nat) (begun : Bool) : State := { up with memory := { up.memory with queue := [⟨0, 8, some 3, pages, begun⟩] } }
theorem witness_MigrationMovesPages : (migrating [3] false).memory.queue = [⟨0, 8, some 3, [3], false⟩] ∧ (0 : Nat) < 10 ∧ (0 : Nat) ≠ 8 ∧
    (migrating [3] false).memory.ch4Ready = false ∧ (migrating [3] false).domOn 5 = true ∧
    (migrating [3] true).memWf = true ∧ ([] : List Nat).head? ≠ some 3 ∧
    (∀ b ∈ (migrating [3] true).memory.badBlocks, ¬(frameAt 0 0 / 256 ≤ b ∧ b < frameAt 0 0 / 256 + 8192)) ∧
    ((migrating [] true).rank 0).st ≠ 5 ∧ (((migrating [] true).setRank 8 { st := 8 }).rank 8).st = 8 := by decide

theorem witness_RanksRestAndSramGrants : rankPowered up 0 = true ∧ (up.wr E.pdTimer 1).rd E.pdTimer ≠ 0 ∧ (up.rank 0).power = 0 ∧
    (up.wr E.srTimer 1).rd E.srTimer ≠ 0 ∧ (up.rank 0).st = 1 ∧ up.busyJob = false ∧
    ((up.setRank 0 { st := 3 }).rank 0).st = 3 ∧ rankPowered (up.setRank 0 { st := 3 }) 0 = true ∧
    ((up.setRank 0 { st := 1, power := 4 }).rank 0).power = 4 ∧ up.memory.built = true ∧ up.memory.initDone = false ∧
    (setDom up 11 3).domState 11 = 3 ∧ (setDom up 11 3).domState 11 ≠ 2 ∧ up.domState 11 = 2 ∧ up.memory.sramHeld = [] ∧
    up.memory.badSram = [] ∧ inSram 0x8000007FFFF8 8 = true ∧
    ({ up.memory with sramHeld := [⟨4, 0x8000007FFFF8, none, 8, .good⟩] } : MemSt).sramHeld = [⟨4, 0x8000007FFFF8, none, 8, .good⟩] := by
  decide
theorem witness_RanksRestAndSramGrants_requests : ∀ r q w : SramReq, r = ⟨0, 0x8000007FFFF8, none, 8, .corrected⟩ →
    q = ⟨4, 0x800000000000, none, 8, .good⟩ → w = ⟨1, 0x8000007FFFE0, some (List.replicate 32 7), 32, .good⟩ →
    r.master < q.master ∧ r.data = none ∧ r.ecc = .corrected ∧ 0 < r.len ∧ r.len ≤ 8 ∧ r.addr % 8 = 0 ∧ 0x800000000000 ≤ r.addr ∧
    r.addr + 8 ≤ 0x800000800000 ∧ w.data = some (List.replicate 32 7) ∧ w.addr % 8 = 0 ∧ w.addr + 32 ≤ 0x800000800000 ∧
    (SramReq.mk 0 0x7FFFFFFFFFFF none 8 .good).addr < 0x800000000000 := by
  rintro r q w rfl rfl rfl; decide

/-! ### DMA -/

theorem witness_DmaStartFollowsState : ∀ s, s = with_ up [(E.src, 15, 0x800000000000), (E.dst, 15, 0x80000000FFC1), (E.count, 15, 63)] →
    Accepted s .fw (s.startSuperseded (.dma 15)) E.start 15 0 1 ∧ (s.dma 15).st = .idle ∧
    absentEngine s (blockOfChannel s 15) = false ∧ blockValid s (blockOfChannel s 15) = true ∧ 0 < s.rdN E.count 15 ∧
    up.rdN E.count 15 = 0 ∧ bit (up.rdN E.ctrl 15) 15 = false ∧ blockValid up (blockOfChannel up 15) = true ∧
    ((s.setDma 15 { st := .aborting }).dma 15).st = .aborting ∧
    blockValid s (blockOfChannel (s.wr E.dst 0x8000007FFFFF 15) 15) = false ∧
    absentEngine s (blockOfChannel (s.wr E.dst 0x8000007FFFFF 15) 15) = false := by
  rintro s rfl; unfold Accepted; decide
theorem witness_DmaStartFollowsState_absent : ∀ s, s = with_ { up with otp := { up.otp with shadows := ains 0 { raw := 0x010340000000, data := 0x010340000000, sealed := true } up.otp.shadows } }
      [(E.src, 15, 0x800000000000), (E.dst, 15, shadowAt 64 .shape), (E.count, 15, 64)] →
    Accepted s .fw (s.startSuperseded (.dma 15)) E.start 15 0 1 ∧ absentEngine s (blockOfChannel s 15) = true := by
  rintro s rfl; unfold Accepted; decide

theorem witness_DmaPauseKeepsPlace : Accepted up .fw (up.pauseSuperseded (.dma 0)) E.pause 0 0 1 ∧
    Accepted up .fw (up.superseded (.dma 0)) E.pause 0 0 0 := by unfold Accepted; decide
/-- Channel 0 moves 64 and 5 bytes from the staging SRAM to the link buffer. -/
def bursting (x : DmaSt) : State :=
  (with_ up [(E.src, 0, 0x800000000000), (E.dst, 0, 0xA00000000000), (E.count, 0, 69)]).setDma 0 x
theorem witness_DmaPauseKeepsPlace_burst : ((bursting { st := .pausing }).dma 0).st = .pausing ∧
    ∃ u, exec (.dmaBurstDone 0 .good) (bursting { st := .pausing }) = .next u ∧ u.rd E.count 0 ≠ 0 ∧
      u.rd E.count 0 ≠ (bursting { st := .pausing }).rd E.count 0 :=
  ⟨rfl, _, rfl, by decide +kernel, by decide +kernel⟩

theorem witness_DmaAbortEndsIdle : Accepted up .fw (up.superseded (.dma 15)) E.abort 15 0 1 ∧
    ((up.setDma 15 { st := .aborting }).dma 15).st = .aborting := by unfold Accepted; decide

theorem witness_DmaMovesBlocks : ∀ s, s = (bursting { st := .pending }).wr E.count 64 → up.domOn 11 = true ∧
    (∃ k, k < 16 ∧ holdsEngine ((bursting { st := .aborting }).dma k) = true) ∧ (∀ k, k < 16 → holdsEngine (s.dma k) = false) ∧
    (s.dma 0).st = .pending ∧ (∀ k, k < (0 : DmaCh).val → (s.dma k).st ≠ .pending) ∧ unitInReset s (0x80 + 0) = false ∧
    0 < s.rdN E.count 0 := by
  rintro s rfl; exact ⟨by decide, ⟨0, by decide⟩, by decide, by decide, by decide, by decide, by decide⟩
theorem witness_DmaMovesBlocks_burst : ∀ s, s = (bursting { st := .running }).wr E.count 64 →
    (s.dma 0).st = .running ∧ (s.dma 0).loading = false ∧ (s.dma 0).blockEnd = false ∧ s.domState 11 = 2 ∧ s.rdN E.ctrl 0 = 0 ∧
    0 < s.rdN E.count 0 ∧ s.rdN E.src 0 % 64 + s.rdN E.count 0 ≤ 64 ∧ 0x800000000000 ≤ s.rdN E.src 0 ∧
    s.rdN E.src 0 + s.rdN E.count 0 ≤ 0x800000800000 ∧ 0xA00000000000 ≤ s.rdN E.dst 0 ∧
    s.rdN E.dst 0 + s.rdN E.count 0 ≤ 0xA00000010000 ∧ s.memory.badSram = [] ∧ (s.dma 0).loading = decide ((1 : Fin 3) = 2) ∧
    heldByShadow s (blockOfChannel s 0) = false := by
  rintro s rfl; decide
theorem witness_DmaMovesBlocks_ends : ((bursting { st := .running, blockEnd := true }).dma 0).blockEnd = true ∧
    bit ((bursting {}).rdN E.ctrl 0) 13 = false ∧ bit ((bursting {}).rdN E.ctrl 0) 14 = false ∧
    bit ((bursting {}).rdN E.ctrl 0) 15 = false ∧ ((bursting { commitAt := some (shadowAt 99 .shape) }).dma 0).commitAt = some (shadowAt 99 .shape) ∧
    shadowOf (shadowAt 99 .shape) = some (99, .shape) ∧ up.domOn (engDom 99) = true ∧ up.superseded (.engine 99) = false ∧
    Accepted up .fw (up.superseded noTarget) E.dmaDone 0 0 0xFFFF := by
  unfold Accepted; decide
theorem witness_DmaMovesBlocks_descriptor : ∀ s, s = ((bursting { st := .running, loading := true }).wr E.link 0xA0000000FFE0).setBytes 0xA0000000FFE0
      (toBytes 6 0x800000000000 ++ toBytes 6 0x800000000100 ++ toBytes 4 4) →
    (s.dma 0).st = .running ∧ (s.dma 0).loading = true ∧ s.domState 11 = 2 ∧ 0xA00000000000 ≤ s.rdN E.link 0 ∧ s.rdN E.link 0 + 32 ≤ 0xA00000010000 ∧
    blockValid s (descriptor (s.bytes (s.rdN E.link 0) 32)) = true ∧ (descriptor (s.bytes (s.rdN E.link 0) 32)).count ≠ 0 := by
  rintro s rfl; decide

theorem witness_RingBufferWritesTakeEffect : Accepted up .fw (up.superseded noTarget) E.rbWr 31 0 0 ∧ up.rd E.rsEn 31 ≠ 1 ∧
    up.busyJob = false ∧ { up with dev := .armed }.busyJob = true ∧ 0 < (up.wr E.rbWr 1 31).rdN E.rbWr 31 ∧
    Accepted { up with dev := .armed } .fw false E.rbWr 31 0 0 ∧ (up.wr E.rsEn 1 31).rd E.rsEn 31 = 1 ∧
    Accepted (up.wr E.rsEn 1 31) .fw false E.rbWr 31 0 0 ∧ Accepted up .fw (up.superseded noTarget) (geoRow .lines) 31 0 2 := by
  unfold Accepted; decide

/-! ### Raster intake -/

/-- Ring buffer 31 is streamed into: one segment of 64 bytes a line, read by channel 3. -/
def streaming : State := (with_ up [(E.rsEn, 31, 1), (E.rsLineBytes, 31, 64), (E.rsSegBytes, 31, 64), (E.rbBase, 31, 0x600000), (E.rbStride, 31, 64),
  (E.feedRb, 3, 31), (E.engEnable, 3, 1), (E.rsSramEn, 0, 1), (E.ipv4Addr, 0, 0x0A000001)]).setPort 0 { linkUp := true }
/-- A frame of the shortest length for a port whose MAC_ADDR is 0. -/
def shortFrame : Frame := ⟨true, 64, 0, 1, false, false⟩
/-- A Raster Stream datagram for channel 3 (R382, R383). -/
def rsDatagram (type line ofs n : Nat) (x : List Byte) : Datagram :=
  let h : List Byte := [0xE5, BitVec.ofNat 8 (16 + type), 31, 0] ++ toBytes 4 line ++ toBytes 4 ofs ++ toBytes 2 x.length ++
    toBytes 2 n ++ toBytes 12 8
  ⟨shortFrame, [10, 0, 0, 1], [10, 0, 0, 9], false, false, 2, 50196, h ++ toBytes 4 (crc32c (h ++ x)) ++ x⟩

theorem witness_DatagramsAreTaken_segment : ∀ d h, d = rsDatagram 0 63 0 0 (List.replicate 64 9) → h = rsHeader d.payload →
    intakeOpen streaming 0 = true ∧ streaming.finup = false ∧ { shortFrame with good := false }.good = false ∧
    sizeOk { shortFrame with size := 63 } = false ∧ sizeOk { shortFrame with size := 9217 } = false ∧ sizeOk shortFrame = true ∧
    frameFor streaming 0 { shortFrame with dstMac := 1 } false = false ∧ frameFor streaming 0 { shortFrame with tagged := true } false = false ∧
    checkDatagram streaming 0 d = .inl h ∧ h.type = 0 ∧ streaming.rdN E.rbWr h.rb ≤ h.line ∧ h.line < lineLimit streaming h.rb ∧
    (openLine (streaming.stream h.rb) h.line).closed = false ∧
    (openLine (streaming.stream h.rb) h.line).got.contains (h.ofs / streaming.rdN E.rsSegBytes h.rb) = false ∧
    reachAll streaming (streaming.rdN E.rbBase h.rb + h.line % streaming.rdN E.rbLines h.rb * streaming.rdN E.rbStride h.rb + h.ofs)
      h.len = .silent ∧
    reachAll { streaming with memory := upMem.memory } (streaming.rdN E.rbBase h.rb + h.line % streaming.rdN E.rbLines h.rb *
      streaming.rdN E.rbStride h.rb + h.ofs) h.len ≠ .silent := by
  rintro d h rfl rfl
  exact ⟨by decide, by decide, rfl, by decide, by decide, by decide, by decide, by decide, by decide +kernel, by decide +kernel,
    by decide +kernel, by decide +kernel, by decide +kernel, by decide +kernel, by decide +kernel, by decide +kernel⟩
theorem witness_DatagramsAreTaken_late : ∀ d s, d = rsDatagram 0 0 0 0 (List.replicate 64 9) → s = streaming.wr E.rbWr 1 31 →
    checkDatagram s 0 d = .inl (rsHeader d.payload) ∧ (rsHeader d.payload).line < s.rdN E.rbWr (rsHeader d.payload).rb := by
  rintro d s rfl rfl; exact ⟨by decide +kernel, by decide +kernel⟩
theorem witness_DatagramsAreTaken_again : ∀ d s, d = rsDatagram 0 0 0 0 (List.replicate 64 9) →
      s = streaming.setStream 31 { lines := [⟨0, [0], [], false, some 0⟩] } →
    checkDatagram s 0 d = .inl (rsHeader d.payload) ∧ (openLine (s.stream 31) 0).got.contains 0 = true := by
  rintro d s rfl rfl; exact ⟨by decide +kernel, by decide +kernel⟩
theorem witness_DatagramsAreTaken_absent : ∀ d h, d = rsDatagram 1 0 0 1 [] → h = rsHeader d.payload →
    checkDatagram streaming 0 d = .inl h ∧ h.type = 1 ∧ h.count = 1 ∧ (streaming.stream h.rb).absent = [] ∧
    streaming.rdN E.rbWr h.rb ≤ h.line ∧ h.line < lineLimit streaming h.rb ∧ (openLine (streaming.stream h.rb) h.line).closed = false ∧
    lineComplete streaming h.rb (openLine (streaming.stream h.rb) h.line) = false := by
  rintro d h rfl rfl
  exact ⟨by decide +kernel, by decide +kernel, by decide +kernel, by decide +kernel, by decide +kernel, by decide +kernel,
    by decide +kernel, by decide +kernel⟩
theorem witness_DatagramsAreTaken_sram : ∀ d h, d = rsDatagram 2 0 8388607 0 [7] → h = rsHeader d.payload →
    checkDatagram streaming 0 d = .inl h ∧ h.type = 2 ∧ streaming.domState 11 = 2 ∧ streaming.memory.badSram = [] ∧
    checkDatagram (setDom streaming 11 3) 0 d = .inl h ∧ (setDom streaming 11 3).domState 11 ≠ 2 ∧
    ((setDom streaming 11 3).port 0).sentAt.find? (fun y => y.1 == 7) = none := by
  rintro d h rfl rfl
  exact ⟨by decide +kernel, by decide +kernel, by decide, by decide, by decide +kernel, by decide, by decide⟩

theorem witness_LinesCompleteOrClose : ∀ s, s = streaming.setStream 31 { lines := [⟨0, [0], [], false, some 0⟩] } →
    0 = s.rdN E.rbWr 31 ∧ (s.stream 31).absent = [] ∧ (s.stream 31).lines = [openLine (s.stream 31) 0] ∧
    (0 : Nat) + 1 < 2 ^ 32 ∧ (openLine (s.stream 31) 0).line = 0 ∧ (openLine (s.stream 31) 0).got.contains 0 = true ∧
    (openLine (s.stream 31) 0).written.contains 0 = false ∧
    (∀ k, k < segments s 31 → k = 0 ∨ (openLine (s.stream 31) 0).written.contains k = true) ∧ 0 < segments s 31 := by
  rintro s rfl; decide
theorem witness_LinesCompleteOrClose_gap : ∀ s, s = streaming.setStream 31 { lines := [⟨1, [0], [], false, some 0⟩], sender := some (0, 1, [10, 0, 0, 9], 2) } →
    s.rd E.rsEn 31 = 1 ∧ gapLine s 31 = some 0 ∧ (s.stream 31).absent = [] ∧
    (s.stream 31).sender = some (0, 1, [10, 0, 0, 9], 2) ∧
    s.rd E.rsAckPeriod ≠ 0 ∧ intakeOpen s 0 = true ∧ s.finup = false := by
  rintro s rfl; decide

theorem witness_PortsAnswerAndReport : intakeOpen streaming 0 = true ∧ shortFrame.good = true ∧ sizeOk shortFrame = true ∧
    frameFor streaming 0 shortFrame true = true ∧ frameFor streaming 0 { shortFrame with dstMac := 2 ^ 48 - 1 } true = true ∧
    frameFor streaming 0 shortFrame false = true ∧ streaming.rd E.ipv4Addr 0 ≠ 0 ∧
    0x0A000001 = streaming.rdN E.ipv4Addr 0 ∧ 0 ≠ streaming.rdN E.ipv4Addr 0 ∧
    (streaming.setBytes (ipv6At 0) (List.replicate 16 1)).bytes (ipv6At 0) 16 = List.replicate 16 1 ∧
    streaming.bytes (ipv6At 0) 16 = List.replicate 16 0 ∧
    streaming.domOn 2 = true ∧ (streaming.port 0).linkUp = true ∧ up.rd E.portEn 1 = 1 ∧ unitInReset up 0xA1 = false := by
  decide
theorem witness_PortsAnswerAndReport_stream : ∀ s, s = with_ up [(E.rsLineBytes, 0, 6144), (E.rsSegBytes, 0, 9088), (E.rbStride, 0, 6144)] →
    Accepted s .fw (s.superseded noTarget) E.rsEn 0 0 1 ∧ s.rd E.rsEn 0 ≠ 1 ∧ s.rdN E.rsSegBytes 0 % 64 = 0 ∧ 64 ≤ s.rdN E.rsSegBytes 0 ∧
    s.rdN E.rsSegBytes 0 ≤ 9088 ∧ 0 < s.rdN E.rsLineBytes 0 ∧ s.rdN E.rsLineBytes 0 ≤ s.rdN E.rbStride 0 ∧
    s.rdN E.rsLineBytes 0 ≤ 256 * s.rdN E.rsSegBytes 0 ∧ s.rdN E.rsWindow ≤ s.rdN E.rbLines 0 ∧
    s.rdN E.rbStride 0 < (s.wr E.rsLineBytes 6145).rdN E.rsLineBytes 0 := by
  rintro s rfl; unfold Accepted; decide

/-! ### The Darine ring and CAN FD -/

/-- Node 7 on a ring whose lanes are up, with the 32 bits of its nonce. -/
def ringed : State := with_ up [(E.ringAddrNow, 0, 7)]
theorem witness_RingsFree : RingsFree ringed := by unfold RingsFree; decide

theorem witness_RingForwardsFrames : ∀ f, f = RingFrame.mk (ringFrameBytes 0 0 0xFFFF 9 3 1 (List.replicate 16 0)) false 0 →
    (ringed.lane 0).inUp = true ∧ 32 ≤ f.bytes.length ∧ frameGood f.bytes = true ∧ f.errorBlock = false ∧
    frameField f.bytes 0 1 % 16 = 0 ∧ keeps ringed f.bytes ((frameField f.bytes 6 2 + 1) % 65536) = false ∧
    frameGood (f.bytes.take 18) = false ∧ (ringed.lane 0).crcAt = none := by
  rintro f rfl; decide +kernel
theorem witness_RingForwardsFrames_kept : ∀ f, f = RingFrame.mk (ringFrameBytes 3 0 7 9 65535 1 []) false 0 →
    frameGood f.bytes = true ∧ 16 ≤ f.bytes.length ∧ keeps ringed f.bytes ((frameField f.bytes 6 2 + 1) % 65536) = true ∧
    frameField f.bytes 0 1 % 16 ≠ 0 := by
  rintro f rfl; decide +kernel
theorem witness_RingForwardsFrames_own : ∀ t, t = ringed.setLane 0 { inUp := true, own := [[1]] } →
    ringOn t = true ∧ prbsOnRing t 0 = false ∧ (t.lane 0).own = [[1]] ∧ (t.lane 0).inj = false := by
  rintro t rfl; decide

/-- Request n of node 9 on ring B, for EVENT_MASK. -/
def ringReq (n : Nat) : RingReq := ⟨1, 9, n, 0x2000, 7, 0, 240, [0, 1]⟩
theorem witness_RingServesDictionary : portUp ringed (reqPort (ringReq 1)) = true ∧ inReset ringed = false ∧ (ringReq 1).src ≠ 0xFFFE ∧
    ringed.ring.queue.length < 64 ∧ 1 ≤ (ringReq 1).dlen ∧ (ringReq 1).dlen ≤ 240 ∧ reqKey (ringReq 1) ≠ E.summary.k0 ∧
    dictRead ringed (reqKey (ringReq 1)) 0 240 = (okCode, [0, 255]) ∧
    ringed.ring.dups.find? (fun d => d.1 == (ringReq 1).src && d.2.1 == (ringReq 1).seq) = none ∧
    (∀ w ∈ ringed.ring.queue, ¬(w.src = (ringReq 1).src ∧ w.seq = (ringReq 1).seq)) := by decide +kernel
theorem witness_RingServesDictionary_write : ∃ code t, anyWrite (reqKey (ringReq 1)) 0 [0, 1] (some .ringB) ringed = (code, t) ∧
    code ≠ laterCode ∧ RingsFree t := by
  refine ⟨_, _, (Prod.eta _).symm, by decide +kernel, ?_⟩
  unfold RingsFree; decide +kernel
theorem witness_RingServesDictionary_full : ∀ s, s = { ringed with ring := { ringed.ring with queue := List.replicate 64 (ringReq 2), dups := [(9, 1, okCode)] } } →
    64 ≤ s.ring.queue.length ∧ portUp s .ringB = true ∧ RingsFree s ∧ { s.ring with queue := [] }.queue.length < 64 ∧
    s.ring.dups.find? (fun d => d.1 == (ringReq 1).src && d.2.1 == (ringReq 1).seq) = some ((ringReq 1).src, (ringReq 1).seq, okCode) := by
  rintro s rfl; unfold RingsFree; decide

theorem witness_RingJoinsAndWraps : RingsFree ringed ∧ assigned ringed = true ∧ ringOn ringed = true ∧
    1 = ringed.fuse 1 % 2 ^ 32 ∧ lanesReady (ringed.setLane 0 { inUp := true }) = true ∧ 2 ≠ ringed.fuse 1 % 2 ^ 32 ∧
    { ringed.ring with join := 1 }.join = 1 ∧ { ringed.ring with annAt := some 3 }.annAt.isSome = true ∧
    ((ringed.setLane 0 {}).lane 0).inUp = false ∧ (((ringed.setLane 0 {}).setLane 1 {}).lane 1).inUp = false ∧
    (ringed.lane 0).inUp = true ∧ ringed.ring.wrapUp = false ∧ downBroken ringed = false ∧ (ringed.lane 1).inUp = true ∧
    ringed.ring.wrapDown = false ∧ upBroken ringed = false ∧ upBroken (ringed.setLane 0 {}) = true ∧
    downBroken (ringed.setLane 1 {}) = true ∧ unitInReset ringed (0xA8 + 0) = false ∧ unitInReset ringed (0xA8 + 1) = false := by
  unfold RingsFree; decide

theorem witness_RingTimeBase : ∀ s, s = { ringed with ring := { ringed.ring with root := true } } →
    RingsFree s ∧ s.ring.root = true ∧ assigned s = true ∧ ringed.ring.root = false ∧ (s.lane 1).inUp = true ∧
    ringOn s = true ∧ 8 ≠ nodeAddr ringed ∧ ringed.rdN E.syncSrc = 2 ∧ ringed.rd E.rtState = 0 ∧
    (ringed.wr E.rtState 2).rd E.rtState = 2 := by
  rintro s rfl; unfold RingsFree; decide
theorem witness_RingTimeBase_delay : ∀ s, s = ringed.setLane 1 { inUp := true, delayReq := some (5, 2 ^ 56 - 1) } →
    ringOn s = true ∧ (s.lane 1).inUp = true ∧ (s.lane (1 - 1)).heard = false ∧ (s.lane 1).delayReq = some (5, 2 ^ 56 - 1) ∧
    (s.lane 1).delays = [] ∧ sdiff56 ((9 : Nat) - (2 ^ 56 - 1 : Nat) : Int) ((4 : Nat) - (2 : Nat) : Int) = 2 * (4 : Nat) := by
  rintro s rfl; decide

theorem witness_CanServes : portUp up .canFd = true ∧ inReset up = false ∧ isBlockKey E.eventMask.k0 = false ∧
    E.eventMask.k0 = 0x2000 % 65536 * 256 + 7 % 256 ∧ E.eventMask.k0 ≠ E.summary.k0 ∧
    dictRead up E.eventMask.k0 (up.rdN E.canDomOfs) 2 = (okCode, [0, 255]) ∧ 6 ≠ up.can.node ∧ canOn up = true ∧
    up.rd E.canEn ≠ 0 ∧ wire up 13 = false ∧ (up.wr E.canHbTime 1).rd E.canHbTime ≠ 0 ∧ up.domOn 1 = true ∧
    { up.can with status := 3 }.status = 3 := by decide +kernel
theorem witness_CanServes_download : ∃ code t, anyWrite E.eventMask.k0 (up.rdN E.canDomOfs) [0, 1] (some .canFd) up = (code, t) ∧
    code ≠ laterCode := ⟨_, _, (Prod.eta _).symm, by decide +kernel⟩

/-! ### Dictionary and ports -/

theorem witness_DictionaryWritesAreChecked : ∀ r ∈ [E.eventMask, E.jobId, E.pageLines, E.startDist, E.pagePitch, E.jobTrig],
    portUp up .lhp = true ∧ up.superseded noTarget = false ∧ checkWrite up r 0 0 1 = none ∧ (toBytes (tyBytes r.ty) 1).length = tyBytes r.ty ∧
    bytesValue r (toBytes (tyBytes r.ty) 1) = 1 ∧ checkEntry up r 0 0 = none ∧ ([] : List Byte).length ≠ tyBytes r.ty := by
  decide +kernel
theorem witness_DictionaryWritesAreChecked_refused : inRange up E.jobTrig 0 0 8 = false ∧ ([8] : List Byte).length = tyBytes E.jobTrig.ty ∧
    bytesValue E.jobTrig [8] = 8 ∧ { up with dev := .boot }.dev = .boot ∧ portUp { up with dev := .boot } .lhp = true ∧
    personaKey (0x2000 % 65536 * 256 + 0xEE % 256) = none ∧ rowOf (0x2000 % 65536 * 256 + 0xEE % 256) = none ∧
    shadowEntry up (0x2000 % 65536 * 256 + 0xEE % 256) = none := by
  refine ⟨?_, ?_, ?_, ?_, ?_, ?_, ?_, ?_⟩ <;> decide +kernel

theorem witness_PortsReadTheDictionary : portUp up .canFd = true ∧ portUp up .ringB = true ∧ portUp up .lhp = true ∧ inReset up = false ∧
    ({ up.snaps with can := some [1, 2] } : Snapshots).can = some [1, 2] ∧ 1 < ([1, 2] : List Byte).length ∧ 1023 < 1024 ∧
    up.lhp.busy = false ∧ { up.lhp with busy := true }.busy = true ∧ 8 ≤ (8 : Fin 16).val := by decide
theorem witness_PortsReadTheDictionary_lhp : ∀ s key, s = { up with lhp := { index := 0x2000, sub := 7, data0 := 1 } } → key = lhpKey s.lhp →
    isBlockKey key = false ∧ key ≠ E.summary.k0 ∧ (∃ r i j, rowOf key = some (r, i, j) ∧ tySigned r.ty = false) ∧
    dictRead (lhpStart 0 s) key (lhpOfs s.lhp) (bits 0 11 8) = (okCode, [0, 255]) ∧
    ∃ code t, anyWrite key (lhpOfs s.lhp) (lhpTaken key s.lhp) (some .lhp) (lhpStart 0 s) = (code, t) ∧ code ≠ laterCode := by
  rintro s key rfl rfl
  refine ⟨by decide +kernel, by decide, ?_, by decide +kernel, _, _, (Prod.eta _).symm, by decide +kernel⟩
  have h : (rowOf (0x2000 * 256 + 7)).any (fun x => !tySigned x.1.ty) = true := by decide +kernel
  obtain ⟨x, hx, ht⟩ := Option.any_eq_true _ _ |>.mp h
  exact ⟨x.1, x.2.1, x.2.2, hx, by simpa using ht⟩

/-! ### Jobs -/

/-- Channel 3 alone is enabled and can be armed: a ring buffer, a drive ceiling and a waveform of 64 samples with its edges. -/
def armable : State :=
  ({ with_ up (((List.range 96).filter (· != 3)).map (fun c => (E.engEnable, c, 0)) ++ [(E.headVCeil, 0, 1), (E.feedRb, 3, 0)]) with
    memory := { up.memory with initDone := true }, obs := { active := 6 } }).setBytes
    (activeAt 3 .wave + 8192) (toBytes 2 64 ++ (List.range 10).flatMap (fun j => toBytes 2 (6 * j)))

theorem witness_ArmChecksAndArms : Accepted armable .fw (armable.startSuperseded .job) E.command 0 0 (0x01 * 2 ^ 40) ∧
    armable.dev = .ready ∧ armCheckOf (idleSwaps armable) (enabledChs (idleSwaps armable)) ((idleSwaps armable).rdN E.jobTrig) = 0 ∧
    armCheckOf (idleSwaps up) (enabledChs (idleSwaps up)) ((idleSwaps up).rdN E.jobTrig) ≠ 0 ∧
    Accepted up .fw (up.startSuperseded .job) E.command 0 0 (0x01 * 2 ^ 40) ∧ { up with dev := .halt }.dev ≠ .ready ∧
    Accepted { up with dev := .halt } .fw false E.command 0 0 (0x01 * 2 ^ 40) := by
  unfold Accepted; decide +kernel

theorem witness_PagesStart : ∀ s, s = { up with dev := .armed } → Accepted s .fw (s.startSuperseded .job) E.command 0 0 (0x02 * 2 ^ 40) ∧
    s.dev = .armed ∧ s.rd E.jobTrig = 0xFF ∧ s.finup = false ∧ up.dev ≠ .armed ∧ s.domOn 10 = true ∧ (s.wr E.trigEdge 0 7).rd E.trigEdge 7 = 0 ∧
    (s.wr E.trigEdge 2 7).rd E.trigEdge 7 = 2 ∧ Accepted up .fw (up.startSuperseded .job) E.command 0 0 (0x02 * 2 ^ 40) := by
  rintro s rfl; unfold Accepted; decide
theorem witness_PagesStart_taken : ∀ s, s = { armable.wr E.jobTrig 7 with dev := .armed, trigs := [(7, { queue := [9] })] } →
    s.busyJob = true ∧ s.finup = false ∧ s.startSuperseded .job = false ∧ s.noLocks = false ∧ (s.chan 3).inPage = false ∧
    enabledCh s 3 = true ∧ s.job.starts.length = (s.chan 3).page ∧ hasPage s (s.chan 3).page = true ∧ 7 = s.rdN E.jobTrig ∧
    (s.trig 7).queue = [9] := by
  rintro s rfl; decide +kernel

theorem witness_JobsEnd : ∀ s, s = { up with dev := .printing } → Accepted s .fw (s.superseded .job) E.command 0 0 (0x03 * 2 ^ 40) ∧
    s.dev = .printing ∧ { up with dev := .armed }.dev = .armed ∧ Accepted { up with dev := .armed } .fw false E.command 0 0 (0x03 * 2 ^ 40) ∧
    up.busyJob = false ∧ Accepted up .fw (up.superseded .job) E.command 0 0 (0x03 * 2 ^ 40) ∧ s.busyJob = true ∧
    { s.job with stopping := true }.stopping = true ∧ (∀ x ∈ s.chans, x.2.locked = []) ∧ (∃ x ∈ locked.chans, x.2.locked ≠ []) ∧
    Accepted s .fw (s.superseded .job) E.command 0 0 (0x04 * 2 ^ 40) ∧ Accepted up .fw (up.superseded .job) E.command 0 0 (0x04 * 2 ^ 40) := by
  rintro s rfl; unfold Accepted; decide
theorem witness_JobsEnd_release : ∀ s, s = { up with dev := .halt } → Accepted s .fw (s.superseded .job) E.command 0 0 (0x05 * 2 ^ 40) ∧
    frozen s = false ∧ frozen (with_ s [(E.sticky, 0, 1), (E.stickyClass, 0, 3)]) = true ∧
    Accepted (with_ s [(E.sticky, 0, 1), (E.stickyClass, 0, 3)]) .fw false E.command 0 0 (0x05 * 2 ^ 40) := by
  rintro s rfl; unfold Accepted; decide +kernel

/-! ### Storage -/

theorem witness_StoreAndRestore : ∀ m s, m = Image.mk 0xFFFFFFFF 1 1 [] true → s = { up with store := { slotB := some m } } →
    Accepted s .fw (s.superseded noTarget) E.command 0 0 (0x10 * 2 ^ 40) ∧ s.dev = .ready ∧ s.store.storing = none ∧
    s.store.restoring = none ∧ s.store.flashOk = true ∧ newestImage s = some (m, true) ∧ brownout s = false ∧
    ({ s.store with storing := some (m, false) } : StoreSt).storing = some (m, false) ∧
    Accepted s .fw (s.superseded noTarget) E.command 0 0 (0x11 * 2 ^ 40) ∧
    Accepted s .fw (s.superseded noTarget) E.command 0 0 (0x11 * 2 ^ 40 + 1) ∧
    ({ s.store with restoring := some (some m, 3) } : StoreSt).restoring = some (some m, 3) ∧ { s with dev := .config }.dev = .config ∧
    switching { s with dev := .config } = false := by
  rintro m s rfl rfl; unfold Accepted; decide +kernel

/-! ### Nozzle health -/

/-- The cycle of a probed line. -/
def probed : Cycle := ⟨4, 0, 4096, 65536, 0, [], 0, 0, 0⟩
/-- Engine 3 has a confirmation probe of nozzle 12287 in flight, channel 3 the 16 samples of its window, and template T0 16
times the value v. -/
def probing (h v : Nat) (good fail : Int) : State :=
  (((withCh (with_ up [(E.probeTaps, 3, 16), (E.templateValid, 3, 1), (E.scoreGood, 3, good), (E.scoreFail, 3, fail)])
    { samples := (List.range 16).reverse.map (fun j => ⟨80 * j, 0, 5, false, false⟩) }).setEng 3
    { stitch := .folding, probes := [⟨12287, 4, false, probed, .confirm, false⟩] }).setHealth 3 12287 h).setBytes (templateAt 3 0)
    ((List.range 16).flatMap (fun _ => toBytes 2 v))
/-- What the probe of `probing` scores. -/
def scored (s : State) : Nat :=
  scoreOf (List.replicate 16 5) ((List.range 16).map (templateWord s 3 0)) 65536 (s.rdN E.aTol 3)

theorem witness_ProbeScoresNozzles : ∀ s, s = probing 0 20 255 1 → (s.eng 3).probes = [⟨12287, 4, false, probed, .confirm, false⟩] ∧
    ({ s.eng 3 with probes := [⟨0, 4, false, probed, .scan, true⟩] } : EngSt).probes = [⟨0, 4, false, probed, .scan, true⟩] ∧
    hState (s.health 3 0) ≠ 6 ∧ (s.eng 3).learn = none ∧ s.memWf = true ∧ channelOf s 3 = some 3 ∧ probeWindow s 3 3 probed = some (List.replicate 16 5) ∧ s.rdN E.probeTaps 3 = 16 ∧
    bit (s.rdN E.templateValid 3) 0 = true ∧ hFailed (s.health 3 12287) = false ∧ hState (s.health 3 12287) ≠ 6 ∧
    s.rdN E.scoreGood 3 ≤ scored s := by
  rintro s rfl; decide +kernel
theorem witness_ProbeScoresNozzles_weak : ∀ s, s = probing 0 19 255 1 → probeWindow s 3 3 probed = some (List.replicate 16 5) ∧
    scored s < s.rdN E.scoreGood 3 ∧ s.rdN E.scoreFail 3 ≤ scored s := by
  rintro s rfl; decide +kernel
theorem witness_ProbeScoresNozzles_strikes : ∀ s, s = probing (3 * 2 ^ 45 + 2 * 2 ^ 43) 19 255 255 →
    probeWindow s 3 3 probed = some (List.replicate 16 5) ∧ scored s < s.rdN E.scoreGood 3 ∧ scored s < s.rdN E.scoreFail 3 ∧
    hFailed (s.health 3 12287) = false ∧ 2 ≤ hStrikes (s.health 3 12287) ∧ (s.eng 3).stitch ≠ .clean ∧
    hStrikes ((probing (3 * 2 ^ 45 + 2 ^ 43) 19 255 255).health 3 12287) < 2 := by
  rintro s rfl; decide +kernel

theorem witness_LearnAndHealthWrites : ∀ s, s = { withCh up { rxUp := true, calDone := true } with dev := .printing } →
    Accepted s .fw (s.superseded (.engine 3)) E.probeLearn 3 0 1 ∧ channelOf s 3 = some 3 ∧ up.dev ≠ .printing ∧
    Accepted up .fw (up.superseded (.engine 3)) E.probeLearn 3 0 1 ∧ s.dev = .printing ∧ (s.chan 3).rxUp = true ∧
    (withCh s {}).dev = .printing ∧ ((withCh s {}).chan 3).rxUp = false ∧ (s.wr E.hlMode 1 3).rd E.hlMode 3 = 1 ∧ s.rd E.hlMode 3 ≠ 1 ∧
    (s.chan 3).calDone = true ∧ Accepted s .fw (s.superseded (.engine 3)) E.probeLearn 3 0 2 ∧ (s.eng 3).learn = none ∧
    ((s.setEng 3 { learn := some ⟨0, [], 0, [], 0, 0, 0, 0⟩ }).eng 3).learn.isSome = true ∧
    channelOf (s.setEng 3 { learn := some ⟨0, [], 0, [], 0, 0, 0, 0⟩ }) 3 = some 3 := by
  rintro s rfl; unfold Accepted; decide
theorem witness_LearnAndHealthWrites_end : ∀ l s, l = Learn.mk 1 [0] 256 [] 255 0 0 0 → s = (up.wr E.nozzles 1 3).setEng 3 { learn := some l } →
    (s.eng 3).learn = some l ∧ channelOf s 3 = some 3 ∧ learnNozzle s 3 l = none ∧ inFlight s 3 3 .learn = [] ∧ 256 ≤ l.num0 ∧ l.num1 < 256 := by
  rintro l s rfl rfl; decide
theorem witness_LearnAndHealthWrites_map : ∀ s, s = up.setEng 3 { stitch := .dirty } →
    Accepted s .fw (s.superseded (.engine 3)) E.healthEn 3 0 1 ∧ s.rd E.templateValid 3 ≠ 3 ∧ (s.wr E.templateValid 3 3).rd E.templateValid 3 = 3 ∧
    Accepted s .fw (s.superseded (.engine 3)) E.healthMap 3 0 0 ∧ (12287 : Nat) < 12288 ∧ (0xC0 : Byte).toNat / 32 = 6 ∧
    (0xFF : Byte).toNat / 32 = 7 ∧ (0xA0 : Byte).toNat / 32 = 5 ∧ hFailed (s.health 3 12287) = false ∧ channelOf s 3 = some 3 ∧
    (s.eng 3).stitch ≠ .clean := by
  rintro s rfl; unfold Accepted; decide

/-! ### Faults -/

theorem witness_FaultMessagesAreCollected : sourceExists 0xF0 = true ∧ kindExists 0xF0 1 = true ∧ classOf up 0xF0 1 ≤ 1 ∧
    inWindow up 0xF0 1 = false ∧ inWindow { up with windows := [⟨0x8F, 0⟩] } 0x8F 1 = true ∧ kindExists 0x8F 1 = true ∧
    (∀ c : Fin 5, classOf (up.wr (E.faultClass) (c.val : Nat) 0x8F) 0x8F 1 = c.val) ∧ up.actedOn .device [.reset, .trip] = false ∧
    ({ up with acted := [(.device, .trip)] } : State).actedOn .device [.reset, .trip] = true ∧ (up.eng 99).fenced = false ∧
    up.rd E.sticky 0xF0 ≠ 1 ∧ (up.wr E.sticky 1 0xF0).rd E.sticky 0xF0 = 1 ∧ { up with dev := .printing }.dev = .printing ∧
    up.dev ≠ .safe ∧ up.shut = none ∧ up.rd E.shutdownMode = 0 ∧ up.rd E.shutdownBudget ≠ 0 := by decide

theorem witness_FaultsAreCleared_window : ∀ s, s = { up with windows := [⟨5, 0⟩, ⟨6, 0⟩], tick := 64 } →
    (∀ w ∈ s.windows, w.src = 5 → w.from_ + 64 ≤ s.tick) ∧ unitInReset { s with tick := 63 } 5 = true := by
  rintro s rfl; decide
theorem witness_FaultsAreCleared : ∀ s, s = { up with acted := [(.source 5, .done)] } →
    Accepted s .fw (s.superseded noTarget) E.sticky 5 0 0 ∧ s.actedOn (.source 5) [.done] = true ∧ s.actedOn (.source 0x63) [.done] = false ∧
    Accepted s .fw (s.superseded noTarget) E.sticky 0x63 0 0 ∧ Accepted s .fw (s.superseded noTarget) E.clearAll 0 0 1 ∧
    Accepted s .fw (s.superseded noTarget) E.lostInReaction 0 0 0 ∧ s.dev ≠ .boot ∧ s.dev ≠ .safe ∧ frozen s = false := by
  rintro s rfl; unfold Accepted; decide +kernel

/-! ### Temperature, supplies and domains -/

theorem witness_DieAndSuppliesAreWatched : up.die.broken = false ∧ -880 ≤ (-880 : Int) ∧ (2720 : Int) ≤ 2720 ∧ up.die.rawLast ≠ some 5 ∧
    (-881 : Int) < -880 ∧ 2720 < (2721 : Int) ∧ ({ rawLast := some 5, rawRun := 63 } : DieSt).rawLast = some 5 ∧ up.die.due = false ∧
    ({ due := true } : DieSt).due = true ∧ up.shut = none ∧ up.dev ≠ .safe ∧ up.rd E.shutdownMode = 0 ∧ up.rd E.shutdownBudget ≠ 0 ∧
    (65535 : Nat) < 65536 ∧ State.reset.domOn 11 = false ∧ State.reset.domState 11 ≠ 4 ∧ up.domOn 11 = true ∧
    up.sup.low.contains 11 = false ∧ ({ low := [11] } : SupSt).low.contains 11 = true ∧ up.otp.op = none ∧ up.sup.low = [] := by decide

theorem witness_DomainsSwitch : ∀ s, s = setDom up 11 0 → Accepted up .fw (up.superseded noTarget) E.domReq 11 0 0 ∧
    Accepted up .fw (up.superseded noTarget) E.domReq 0 0 0 ∧ Accepted up .fw (up.superseded noTarget) E.domReq 5 0 0 ∧
    domReqRefused up 11 0 = false ∧ up.domOn 11 = true ∧ Accepted s .fw (s.superseded noTarget) E.domReq 11 0 1 ∧
    domReqRefused s 11 1 = false ∧ s.domState 11 = 0 ∧ (∀ x, x < 12 → s.domState x ≠ 1 ∧ Machine.domWaiting s x = false) ∧
    (prerequisites 11).all s.domOn = true ∧ brownout s = false ∧ s.shut = none := by
  rintro s rfl; unfold Accepted; decide
theorem witness_DomainsSwitch_up : ∀ s : Nat → State, s = (fun d => setDom up d 1) →
    (∀ d ∈ [1, 2, 3, 4, 5, 11], (s d).domState d = 1 ∧ Machine.domWaiting (s d) d = false ∧ (s d).finup = false) ∧
    (setDom up 11 4).domState 11 = 4 ∧ (setDom up 11 4).shut = none ∧ Machine.domWaiting (setDom up 11 4) 11 = false ∧ up.domState 1 ≠ 4 := by
  rintro s rfl; decide
theorem witness_DomainsSwitch_selftest : ∀ s, s = setDom up 9 1 → ([95] : List Eng).map Fin.val = [95] ∧ 9 = 6 + groupOf 95 ∧
    s.domState 9 = 1 ∧ Machine.domWaiting s 9 = false ∧ s.finup = false ∧ spareRecord s (groupOf 95) = none ∧ s.engPresent 95 = true ∧
    s.engPresent (96 + groupOf 95) = true ∧ s.grade ≠ 3 ∧ (s.eng 95).replaced = false ∧ s.eng (96 + groupOf 95) = {} ∧
    channelOf s (96 + groupOf 95) = none ∧ s.rd E.chDisable 95 = 0 := by
  rintro s rfl; decide

/-! ### Shutdowns and fuses -/

theorem witness_ShutdownRunsToSafe : up.shut = none ∧ Accepted up .fw (up.superseded .job) E.command 0 0 (0x20 * 2 ^ 40) ∧ up.dev ≠ .boot ∧
    up.rd E.shutdownMode = 0 ∧ up.rd E.shutdownBudget ≠ 0 ∧ Accepted up .fw (up.superseded .job) E.command 0 0 (0x20 * 2 ^ 40 + 1) ∧
    ({ up with shut := some ⟨1, false, 0⟩ } : State).shut = some ⟨1, false, 0⟩ ∧ drained up = true ∧ drained locked = false := by
  unfold Accepted; decide

theorem witness_FuseOperations : ∀ s, s = with_ up [(E.otpWord, 0, 419), (E.otpData, 0, 2 ^ 48 - 1)] →
    Accepted s .fw (s.superseded noTarget) E.otpOp 0 0 1 ∧ bitwise 419 = false ∧ s.busyJob = false ∧
    (fuseShadow s 419).data &&& (2 ^ 48 - 1) = (fuseShadow s 419).data ∧ (fuseShadow s 419).sealed = false ∧ lockedWord s 419 = false ∧
    deviceWord 419 = false ∧ otpBusy s 1 = false ∧ otpBusy s 2 = false ∧ otpBusy s 3 = false ∧ otpBusy s 4 = false ∧
    wire s 11 = false ∧ Accepted s .fw (s.superseded noTarget) E.otpOp 0 0 2 ∧
    Accepted s .fw (s.superseded noTarget) E.otpOp 0 0 3 ∧ Accepted s .fw (s.superseded noTarget) E.otpOp 0 0 4 := by
  rintro s rfl; unfold Accepted; decide
theorem witness_FuseOperations_refused : bitwise 120 = true ∧ 2 ^ 16 ≤ (with_ up [(E.otpWord, 0, 120), (E.otpData, 0, 2 ^ 16)]).rdN E.otpData ∧
    { up with dev := .armed }.busyJob = true ∧ Accepted { up with dev := .armed } .fw false E.otpOp 0 0 1 ∧
    (fuseShadow up 1).data &&& 0 ≠ (fuseShadow up 1).data ∧ (fuseShadow up 1).sealed = true ∧ lockedWord up 23 = true ∧
    (fuseShadow up 23).sealed = false ∧ deviceWord 511 = true ∧ brownout { up with sup := { low := [0] } } = true ∧
    Accepted { up with sup := { low := [0] } } .fw false E.otpOp 0 0 1 ∧
    wire { up with otp := { up.otp with wires := 2 ^ 11 } } 11 = true := by
  unfold Accepted; decide
theorem witness_FuseOperations_ends : ∀ s, s = { up with otp := { up.otp with op := some (1, 419, 2 ^ 47), opPort := some .fw } } →
    s.otp.opPort = some .fw ∧ s.otp.op = some (1, 419, 2 ^ 47) ∧ (fuseWord s 419).sealed = false ∧ bit (2 ^ 47) (47 : Fin 56) = true ∧
    ({ s.otp with op := some (2, 419, 0) } : OtpSt).op = some (2, 419, 0) ∧ ({ s.otp with op := some (4, 419, 0) } : OtpSt).op = some (4, 419, 0) ∧
    up.otp.op = none := by
  rintro s rfl; decide

theorem witness_CountedSettingsChange : Accepted up .fw (up.superseded noTarget) E.ringAddr 0 0 7 ∧
    Accepted up .fw (up.superseded noTarget) E.headVCeil 0 0 500 ∧ Accepted up .fw (up.superseded noTarget) E.personaDefault 0 0 1 ∧
    Accepted up .fw (up.superseded noTarget) E.chDisable 95 0 1 ∧ up.otp.counted = [] ∧ up.rd E.ringAddr ≠ 7 ∧ brownout up = false ∧
    leftOf up E.ringAddr 0 ≠ 0 ∧ leftOf (up.wr E.ringAddrLeft 0) E.ringAddr 0 = 0 ∧ (up.wr E.ringAddr 7).rd E.ringAddr = 7 ∧
    ([(rowKey E.ringAddr 0 0, 7, some Port.fw)] : List (Nat × Nat × Option Port)).any (fun x => x.1 == rowKey E.ringAddr 0 0) = true := by
  unfold Accepted; decide
theorem witness_CountedSettingsChange_done : ∀ k s, k = Counted.mk E.headVCeil E.headVCeilLeft 394 10 411 8 →
      s = { up with otp := { up.otp with counted := [(rowKey k.row 0 0, 2 ^ 48 - 1, some .fw)] } } →
    countedRecords[1]? = some k ∧ brownout s = false ∧ s.otp.counted = [(rowKey k.row 0 0, 2 ^ 48 - 1, some .fw)] ∧
    (∀ j, j < k.num → fuseWord s (k.first + j) = {} ∧ fuseShadow s (k.first + j) = {}) ∧ fuseWord s k.slot = {} ∧
    fuseShadow s k.slot = {} ∧ fuseWord s (413 + (95 : Ch).val / 16) = {} := by
  rintro k s rfl rfl; exact ⟨rfl, by decide, rfl, by decide, by decide, by decide, by decide⟩

/-! ### Calibration and test patterns -/

theorem witness_CalibrationsAndPatterns : ∀ s, s = { up with cals := [(0, { pending := true }), (1, { pending := true }), (3, { pending := true })] } →
    Accepted s .fw (s.superseded noTarget) E.calCmd 0 0 15 ∧ (s.cal 0).pending = true ∧ (s.cal 0).running = false ∧ s.dev ≠ .safe ∧
    { s with dev := .armed }.busyJob = true ∧ calRefusal s 0 ≠ 0 ∧ (s.cal 3).pending = true ∧
    Accepted s .fw (s.superseded noTarget) E.prbsSel 0 0 1 ∧ linkAbsent s (s.rdN E.prbsLink) = false ∧ (s.wr E.prbsSel 1).rd E.prbsSel ≠ 0 ∧
    bits ((s.wr E.prbsLink 0x1000).rdN E.prbsLink) 15 12 = 1 ∧ (s.wr E.prbsLock 1).rd E.prbsLock = 1 ∧ s.rd E.prbsLock ≠ 1 ∧
    bits (s.rdN E.prbsLink) 15 12 = 0 := by
  rintro s rfl; unfold Accepted; decide +kernel
theorem witness_CalibrationsAndPatterns_absent : ∀ s, s = { up with otp := { up.otp with shadows := ains 0 { raw := 0x010340000000, data := 0x010340000000, sealed := true } up.otp.shadows } } →
    linkAbsent s ((s.wr E.prbsLink 0x400).rdN E.prbsLink) = true := by
  rintro s rfl; decide +kernel
theorem witness_CalibrationsAndPatterns_rows : ∀ s, s = { withCh (up.wr E.headVCeil 65535) { rxUp := true } with cals := [(1, { running := true }), (2, { running := true })] } →
    (s.cal 1).running = true ∧ calRefusal s 1 = 0 ∧ (s.chan 3).rxUp = true ∧ (s.cal 2).running = true ∧ calRefusal s 2 = 0 ∧
    (CalResult.mk [(3, 2 ^ 32 - 1, 20, 7)] false).rows = [(3, 2 ^ 32 - 1, 20, 7)] ∧
    (CalResult.mk [(639, 65535, 0, 0)] false).rows = [(639, 65535, 0, 0)] ∧ s.rdN E.dramEyeMin ≤ 65535 := by
  rintro s rfl; decide +kernel
theorem witness_CalibrationsAndPatterns_runs : ∀ s, s = { up with cals := [(0, { running := true }), (3, { running := true })] } →
    (s.cal 3).running = true ∧ (CalResult.mk [(0, 65535, 0, 0)] false).rows = [(0, 65535, 0, 0)] ∧ (s.cal 0).running = true ∧
    calRefusal s 0 ≠ 0 ∧ ({ s.cal 0 with old := List.replicate 384 1 } : CalSt).old.length = 384 := by
  rintro s rfl; decide +kernel

/-! ### Finup personas -/

/-- In the persona, with persona 2 instantiated; x is its state. -/
def finup (x : PersonaSt) : State := ((up.wr E.persona 1).setPersona 2 x)

theorem witness_PersonasRunPages : ∀ s, s = finup { on := true } → personaPort s 2 = true ∧ s.superseded noTarget = false ∧
    s.startSuperseded .job = false ∧ (s.persona 2).run = false ∧ s.dev = .ready ∧
    armCheckOf (idleSwaps (runReset s 2)) ((enabledChs (idleSwaps (runReset s 2))).filter (fun c => personaOf c == 2)) 2 ≠ 0 := by
  rintro s rfl; decide +kernel
theorem witness_PersonasRunPages_arms : ∀ s, s = { ((armable.wr E.persona 1).setPersona 0 { on := true }).wr E.trigEdge 1 with
      memory := armable.memory } → personaPort s 0 = true ∧ (s.persona 0).run = false ∧ s.dev = .ready ∧
    armCheckOf (idleSwaps (runReset s 0)) ((enabledChs (idleSwaps (runReset s 0))).filter (fun c => personaOf c == 0)) 0 = 0 := by
  rintro s rfl; decide +kernel
theorem witness_PersonasRunPages_page : ∀ s, s = { finup { on := true, run := true, words := [(8, 1)] } with dev := .printing } →
    personaPort s 2 = true ∧ (s.persona 2).run = true ∧ s.busyJob = true ∧ otherRuns s 2 = false ∧ s.noLocks = false ∧
    (s.persona 2).inPage = false ∧ (s.persona 2).printBuf ≤ 1 ∧ pWord s 2 8 ≠ 0 ∧ ({ inPage := true } : PersonaSt).inPage = true := by
  rintro s rfl; decide

theorem witness_PersonaRegistersAndFrames : ∀ s, s = finup { on := true, words := [(0x13, 31), (0x14, 254)] } →
    personaPort s 2 = true ∧ s.superseded noTarget = false ∧ (65535 : Nat) < 65536 ∧ (s.persona 2).run = false ∧ 4095 < 65535 ∧
    (1023 : Nat) < 1024 ∧ 31 = pWord s 2 0x13 ∧ 254 = pWord s 2 0x14 ∧ (s.persona 2).endWait = false := by
  rintro s rfl; decide
theorem witness_PersonaRegistersAndFrames_frames : ∀ s d, s = ((with_ (finup { on := true, words := [(8, 1), (0x12, 0)] }) [(E.rbBase, 4, 0x600000)]).setPort 0 { linkUp := true }) →
      d = ([0x10, 31] : List Byte) ++ toBytes 4 0 ++ toBytes 2 508 ++ toBytes 2 4 ++ [0, 0, 1, 2, 3, 4] →
    framesArrive s 2 = true ∧ (s.persona 2).loadReady = false ∧ 12 + 4 ≤ d.length ∧ field d 8 2 = 4 ∧ field d 0 1 = 0x10 ∧
    imageFor s 2 { shortFrame with dstMac := personaMac s 2 } = true ∧ imageOk shortFrame = true ∧
    imageFor s 2 { shortFrame with dstMac := 2 ^ 48 } = false ∧ imageOk { shortFrame with size := 1519 } = false ∧
    field d 2 4 < pWord s 2 8 ∧ field d 6 2 + 4 ≤ 512 ∧
    reachAll s (imageAddr s 2 (field d 2 4) (field d 1 1 % 32) (field d 6 2)) 4 = .silent ∧
    reachAll { s with memory := upMem.memory } (imageAddr s 2 (field d 2 4) (field d 1 1 % 32) (field d 6 2)) 4 ≠ .silent ∧
    reachAll { s with memory := upMem.memory } (imageAddr s 2 (field d 2 4) (field d 1 1 % 32) (field d 6 2)) 4 ≠ .refused ∧
    frameWaits s 2 = false ∧ frameWaits { s with memory := { s.memory with waiting := [⟨0x600000, [], none⟩] } } 2 = true ∧
    ({ loadReady := true } : PersonaSt).loadReady = true ∧ (d.take 11).length < 12 := by
  rintro s d rfl rfl
  decide +kernel

/-! ### Start-up and resets -/

theorem witness_ResetsLeaveBoot : up.shut = none ∧ up.dev ≠ .safe ∧ up.domOn 11 = true ∧ (999 : Nat) < 1000 ∧ portUp up .fw = true ∧
    up.actedOn .device [.reset] = false ∧ checkWrite up E.command 0 0 (0xF0 * 2 ^ 40 + 0x5A5A) = none ∧
    checkWrite up E.command 0 0 (0xF0 * 2 ^ 40 + (2 ^ 32 - 1 : Nat)) = none ∧ 2 ^ 32 - 1 ≠ 0x5A5A ∧
    (∃ x, ({ up with shut := some ⟨5, false, 0⟩ } : State).shut = some x ∧ 5 ≤ x.step) ∧ { up with dev := .safe }.dev = .safe := by
  refine ⟨by decide, by decide, by decide, by decide, by decide, by decide, by decide, by decide, by decide, ⟨_, rfl, by decide⟩, rfl⟩

theorem witness_StartUpReachesReady : State.reset.dev = .boot ∧ State.reset.otp.sensed = false ∧ { up with dev := .boot }.dev = .boot ∧
    up.otp.sensed = true ∧ up.clkRoot = true ∧ brownout up = false ∧ up.dev ≠ .boot := by decide
theorem witness_StartUpReachesReady_ready : ∀ s, s = { up with dev := .config } → s.dev = .config ∧ s.store.restoring = none ∧ s.ring.join ≠ 1 ∧
    s.memory.built = true ∧ (s.wr E.bootReadyUs 1).rd E.bootReadyUs ≠ 0 ∧ ({} : MemSt).built = false ∧ s.domOn 3 = true ∧ s.domOn 4 = true ∧
    (DramFound.mk true true true true []).failed = [] ∧ (DramFound.mk false false false false [3]).failed ≠ [] := by
  rintro s rfl; decide
/-! ### The smoke test of WellFormed: for each check a command that it refuses, and boundary values that it takes -/

/-- A frame with its addresses at their largest values. -/
def fr : Frame := ⟨true, 9216, 2 ^ 48 - 1, 2 ^ 48 - 1, false, false⟩
/-- A datagram of the base context. -/
def dg : Datagram := ⟨fr, [5, 6, 7, 8], [1, 2, 3, 4], false, false, 2 ^ 16 - 1, 2 ^ 16 - 1, []⟩
/-- A ring frame of the shortest length. -/
def rf : RingFrame := ⟨List.replicate 16 0, false, 2 ^ 56 - 1⟩
/-- A ring request with every field at its largest value. -/
def rq : RingReq := ⟨0, 2 ^ 16 - 1, 2 ^ 16 - 1, 2 ^ 16 - 1, 255, 2 ^ 32 - 1, 1024, List.replicate 240 0⟩
/-- A patch header with every field at its largest value. -/
def pt : Patch := ⟨2 ^ 32 - 1, 2 ^ 16 - 1, 2 ^ 16 - 1, [], [], []⟩

theorem test_wf_refuses_start : ([.otpSensingDone [1, 1], .bootFirmwareDone (some { pt with magic := 2 ^ 32 }) true [],
    .bootFirmwareDone (some { pt with version := 2 ^ 16 }) true [], .bootFirmwareDone (some { pt with romVer := 2 ^ 16 }) true [],
    .bootFirmwareDone none true [7, 7], .configToReady ⟨true, true, true, true, [2, 2]⟩, .reset .fw (2 ^ 32), .arm .fw (2 ^ 32),
    .start .fw (2 ^ 32), .stop .fw (2 ^ 32), .abort .fw (2 ^ 32), .release .fw (2 ^ 32), .store .fw (2 ^ 32),
    .domPowerUpDone 9 [7, 7], .calComplete 0 ⟨[(2 ^ 16, 0, 0, 0)], true⟩, .calComplete 0 ⟨[(0, 2 ^ 32, 0, 0)], true⟩,
    .calComplete 0 ⟨[(0, 0, 2 ^ 16, 0)], true⟩, .calComplete 0 ⟨[(0, 0, 0, 2 ^ 16)], true⟩, .calCmd .fw (2 ^ 48),
    .prbsSelWrite .fw (2 ^ 48), .domReqWrite .fw 3 (2 ^ 48)] : List Instr).all (fun c => !c.wf) = true := by decide +kernel

theorem test_wf_refuses_position : ([.encoderEdge 0 true false 0 (2 ^ 48), .triggerEdge 0 true (2 ^ 48), .ringPosSample (2 ^ 16) 0 0 0 0,
    .ringPosSample 0 (2 ^ 16) 0 0 0, .ringPosSample 0 0 (2 ^ 48) 0 0, .ringPosSample 0 0 0 (2 ^ 47) 0, .ringPosSample 0 0 0 (-2 ^ 47 - 1) 0,
    .ringPosSample 0 0 0 0 (2 ^ 48), .changeover .fw (2 ^ 48), .srcPrimaryWrite .fw (2 ^ 48), .srcSecondaryWrite .fw (2 ^ 48),
    .encConfigWrite .fw 0 .mode (2 ^ 48), .ringPosNodeWrite .fw (2 ^ 48), .speedLimFreqWrite .fw (2 ^ 48),
    .backchannelFrame 3 (List.replicate 65 0), .driveFrameIn 3 (List.replicate 257 0) 0, .driveFrameIn 3 [] (2 ^ 48), .healthEnWrite .fw 3 (2 ^ 48),
    .healthMapWrite .fw 3 (2 ^ 32) [], .logEnWrite .fw (2 ^ 48), .loopEnWrite .fw 3 (2 ^ 48), .sectionWrite .fw 3 256 0 [],
    .sectionWrite .fw 3 0 (2 ^ 32) []] : List Instr).all (fun c => !c.wf) = true := by decide +kernel

theorem test_wf_refuses_memory : ([.mr4Poll (0, 0) 256 false false, .memoryReadDone (2 ^ 48) .good .good, .migPageSwitch [5, 5],
    .sramAccessGrant [⟨0, 2 ^ 48, none, 0, .good⟩], .sramAccessGrant [⟨0, 0, none, 33, .good⟩],
    .sramAccessGrant [⟨0, 0, some (List.replicate 33 0), 0, .good⟩], .dmaDoneClear .fw (2 ^ 48), .rbWrWrite .fw 0 (2 ^ 48),
    .rbGeometryWrite .fw 0 .base (2 ^ 48), .segmentWriteDone 0 (2 ^ 32) 0, .segmentWriteDone 0 0 (2 ^ 16), .rsEnWrite .fw 0 (2 ^ 48),
    .lineSegment 0 { dg with dstPort := 2 ^ 16 }, .lineSegment 0 { dg with frame := { fr with srcMac := 2 ^ 48 } },
    .lineSegment 0 { dg with frame := { fr with dstMac := 2 ^ 48 } }, .lineSegment 0 { dg with srcPort := 2 ^ 16 },
    .absentLines 0 { dg with srcIp := [] }, .stagingSramWrite 0 { dg with srcIp := List.replicate 15 0, dstIp := List.replicate 15 0 },
    .absentLines 0 { dg with dstIp := List.replicate 16 0 }, .arpRequest 0 { fr with srcMac := 2 ^ 48 } 0 0, .arpRequest 0 fr (2 ^ 32) 0,
    .arpRequest 0 fr 0 (2 ^ 32), .neighbourSolicitation 0 { fr with dstMac := 2 ^ 48 } (List.replicate 16 0) (List.replicate 16 0),
    .neighbourSolicitation 0 fr [] (List.replicate 16 0), .neighbourSolicitation 0 fr (List.replicate 16 0) [],
    .finupImageFrame 0 { fr with srcMac := 2 ^ 48 } []] : List Instr).all (fun c => !c.wf) = true := by
  decide +kernel

theorem test_wf_refuses_ring : ([.ringFrameForward 0 { rf with bytes := List.replicate 15 0 }, .ringFrameForward 0 { rf with bytes := List.replicate 273 0 },
    .ringFrameForward 0 { rf with arrival := 2 ^ 56 }, .ringDictRead { rq with src := 2 ^ 16 }, .ringDictRead { rq with seq := 2 ^ 16 },
    .ringDictRead { rq with index := 2 ^ 16 }, .ringDictRead { rq with sub := 256 }, .ringDictRead { rq with ofs := 2 ^ 32 },
    .ringDictRead { rq with dlen := 1025 }, .ringDictWrite { rq with data := List.replicate 241 0 }, .announceReceive (2 ^ 16) 0,
    .announceReceive 0 (2 ^ 32), .delayReqReceive 0 (2 ^ 16) 0 0, .delayReqReceive 0 0 (2 ^ 16) 0, .delayReqReceive 0 0 0 (2 ^ 64),
    .delayRespReceive 0 (2 ^ 16) 0 0 0, .delayRespReceive 0 0 (2 ^ 64) 0 0, .delayRespReceive 0 0 0 (2 ^ 64) 0, .delayRespReceive 0 0 0 0 (2 ^ 64),
    .syncReceive 0 (2 ^ 16) 0 0 0 0 0, .syncReceive 0 0 (2 ^ 16) 0 0 0 0, .syncReceive 0 0 0 (2 ^ 16) 0 0 0, .syncReceive 0 0 0 0 (2 ^ 56) 0 0,
    .syncReceive 0 0 0 0 0 (2 ^ 63) 0, .syncReceive 0 0 0 0 0 0 (2 ^ 56)] : List Instr).all (fun c => !c.wf) = true := by decide +kernel

theorem test_wf_refuses_ports : ([.usdoDownload 128 0 0 true [], .usdoDownload 0 (2 ^ 16) 0 true [], .usdoDownload 0 0 256 true [], .usdoUpload 128 0 0 0,
    .usdoUpload 0 (2 ^ 16) 0 0, .usdoUpload 0 0 256 0, .usdoUpload 0 0 0 (2 ^ 16), .lhpRead (2 ^ 16), .lhpWrite (2 ^ 16), .lhpRegisterWrite 0 (2 ^ 16),
    .configWrite .fw (2 ^ 16) 0 0 [], .configWrite .fw 0 256 0 [], .configWrite .fw 0 0 (2 ^ 32) [], .summaryRead .fw (2 ^ 32) 0, .summaryRead .fw 0 (2 ^ 16),
    .countedSettingWrite .fw (2 ^ 16) 0 0, .countedSettingWrite .fw 0 256 0, .countedSettingWrite .fw 0 0 (2 ^ 48), .countedChangeDone (2 ^ 16) 0,
    .countedChangeDone 0 256, .canBusError (2 ^ 16) 0, .canBusError 0 (2 ^ 16)] : List Instr).all (fun c => !c.wf) = true := by decide +kernel

theorem test_wf_refuses_faults : ([.faultMessage ⟨256, 1, 0⟩, .faultMessage ⟨0, 16, 0⟩, .faultMessage ⟨0, 0, 0⟩, .faultMessage ⟨0, 1, 2 ^ 48⟩,
    .reactionWindowEnd 256, .stickyClear .fw 256 0, .stickyClear .fw 0 (2 ^ 48), .clearAll .fw (2 ^ 48), .lostInReactionClear .fw (2 ^ 48),
    .dieTempRound (2 ^ 15) 0, .dieTempRound (-2 ^ 15 - 1) 0, .dieTempRound 0 (2 ^ 16), .supplyWarn 0 (2 ^ 16), .finupRegisterWrite 0 0 (2 ^ 16),
    .waveDataWrite 0 (2 ^ 16), .delayWrite 0 0 (2 ^ 16)] : List Instr).all (fun c => !c.wf) = true := by decide +kernel

/-- The longest transfers of a port, a datagram and an image frame. -/
theorem test_wf_refuses_long : ∀ n, 131072 < n → (Instr.configWrite .fw 0 0 0 (List.replicate n 0)).wf = false ∧
    (Instr.healthMapWrite .fw 0 0 (List.replicate n 0)).wf = false ∧ (Instr.sectionWrite .fw 0 0 0 (List.replicate n 0)).wf = false ∧
    (Instr.usdoDownload 0 0 0 true (List.replicate n 0)).wf = false ∧ (Instr.finupImageFrame 0 fr (List.replicate n 0)).wf = false ∧
    (Instr.lineSegment 0 { dg with payload := List.replicate n 0 }).wf = false := by
  intro n h
  simp [Instr.wf, datagramWf, h, dg, fr, Nat.not_le.2 (Nat.lt_trans (by decide : 9216 < 131072) h)]

theorem test_wf_takes : ([.bootFirmwareDone (some pt) true [7], .lineSegment 0 dg, .absentLines 0 { dg with srcIp := List.replicate 16 0, dstIp := List.replicate 16 0 }, .ringFrameForward 0 rf,
    .ringDictRead rq, .ringDictWrite rq, .ringPosSample (2 ^ 16 - 1) (2 ^ 16 - 1) (2 ^ 48 - 1) (-2 ^ 47) (2 ^ 48 - 1), .faultMessage ⟨255, 15, 2 ^ 48 - 1⟩,
    .faultMessage ⟨0, 1, 0⟩, .dieTempRound (-2 ^ 15) (2 ^ 16 - 1), .syncReceive 0 0 0 0 (2 ^ 56 - 1) (-2 ^ 63) (2 ^ 56 - 1),
    .sramAccessGrant [⟨0, 2 ^ 48 - 1, some (List.replicate 32 0), 32, .good⟩], .otpSensingDone [1, 2]] : List Instr).all Instr.wf = true := by
  decide +kernel

/-! ### Worked examples of the spec, and small cases counted out by hand

Each test is one step, or one operation, on a small state. -/

/-- The state that a command answers, the state itself when it answers none. -/
def after (c : Instr) (s : State) : State :=
  match exec c s with
  | .next t => t
  | _ => s

/-- Chapter 02, Example 1: line 20,000 of channel 30 is 1,733,333 steps ahead. -/
theorem test_line_instant_of_example : ∀ s, s = { (with_ up [(E.velEst, 0, 5153960755), (E.posEst, 0, 54600000), (E.offset, 30, 2560000),
      (E.pageLines, 0, 30000)]).setChan 30 { inPage := true, next := 20000 } with dev := .printing, job := { starts := [1000000] }, obs := { active := 0 } } →
    (lockable s 30).map Lock.inst = some 1733333 := by
  rintro s rfl; decide +kernel

/-- Chapter 02, Example 4: 120,000 lines/s of 141,732 is a duty of 866 in 1,024 (R105): of a PWM period of 80,000, 67,656. -/
theorem test_speed_lim_of_example :
    (after .speedLimPeriod (with_ up [(E.speedLimEn, 0, 1), (E.speedLimFull, 0, 141732), (E.speedReq, 0, 1920000)])).gov.pwm =
      some (0, 80000, 67656) := by decide +kernel

/-- Chapter 04, Example 1: the stretch is 4,362 / 4,096 and the cycle 42,598 steps. -/
theorem test_stretch_of_example : stretchLaw (withCh (with_ up [(E.tRef, 3, 720), (E.waveKt, 3, -262), (E.vRef, 3, 3200), (E.waveKv, 3, 32768)]) { supply := 3040 }) 3 3 560 = 4362 ∧
    cycleTime (((up.wr E.stretch 4362 3)).setBytes (activeAt 3 .wave + 8192) (toBytes 2 1000)) 3 = 42598 := by decide +kernel

/-- The heater loop of channel 30 with its default chains. -/
def heating (t : Int) (x : List (Row × Nat × Int)) : State :=
  ((with_ up ([(E.loopEn, 128, 1), (E.trigKind, 128, 1), (E.srcA, 128, 0x400), (E.srcB, 128, 0x31E), (E.xmodeB, 128, 1), (E.sink, 128, 0x31E),
    (E.firstB, 128, 462), (E.lenB, 128, 2), (E.outMax, 128, 255 * 2 ^ 16), (E.heaterSet, 30, 640), (E.refTarget, 128, 640), (E.refNow, 128, 640), (E.loopHandoverTol, 128, 131072),
    (E.loopHandoverSlew, 128, 6554)] ++ x)).setSec 462 heaterSection).setSec 463 unitySection |>.setChan 30
    { sensorOk := true, sensorEver := true, bridgeUp := true, thermOk := true, ownTemp := t }
/-- Chapter 06, Example 2, 0 ms: the handover keeps OUTPUT, and HOFS is -30,802. -/
theorem test_handover_of_example : ∀ s t, s = heating 593 [(E.output, 128, 8388608), (E.heaterDuty, 30, 128)] → t = after (.loopSample 128 .good 0) s →
    t.rd E.output 128 = 8388608 ∧ t.rd E.hofs 128 = -30802 ∧ (t.loop 128).chainB = true ∧ t.rd E.heaterDuty 30 = 128 := by
  rintro s t rfl rfl; decide +kernel
/-- The same, 1 ms: OUTPUT is 8,402,371, and HOFS moves to -24,248. -/
theorem test_sample_of_example : ∀ s t, s = (((heating 594 [(E.output, 128, 8388608), (E.hofs, 128, -30802), (E.y1, 128, 8419410), (E.y2, 128, 8388608)]).setLoop 128 { chainB := true }).setSec 462
      { heaterSection with x1 := 47, x2 := 47 }).setSec 463 { unitySection with x1 := 8419410, x2 := 8388608 } → t = after (.loopSample 128 .good 0) s →
    t.rd E.output 128 = 8402371 ∧ t.rd E.hofs 128 = -24248 ∧ t.rd E.heaterDuty 30 = 128 := by
  rintro s t rfl rfl; decide +kernel

/-- Chapter 10, Example 1: the delay is 57 periods, in 1/256 period; with the longer lane it is 59. -/
theorem test_delay_of_example : ∀ s, s = ringed.setLane 0 { inUp := true, delayReq := some (1, 256 * 1000000) } →
    (after (.delayRespReceive 0 1 (256 * 5000057) (256 * 5000357) (256 * 1000414)) s).rd E.linkDelay 0 = 256 * 57 ∧
    (after (.delayRespReceive 0 1 (256 * 5000061) (256 * 5000361) (256 * 1000418)) s).rd E.linkDelay 0 = 256 * 59 := by
  rintro s rfl; decide +kernel
/-- The same: RT_i is 5,100,057. -/
theorem test_sync_of_example :
    (after (.syncReceive 0 1 0 1 (256 * 5100000) 0 (256 * 1100057)) (ringed.wr E.linkDelay (256 * 57) 0)).ring.rti = 256 * 5100057 := by
  decide +kernel

/-- Chapter 08, Example 1: the descriptor of a batch is a valid block. -/
theorem test_block_of_example : blockValid up ⟨0x800000000000, 28352, 113376, 0x00D38000, 0xA00000000020, 0x3800000⟩ = true ∧
    blockValid up ⟨0x800000000000, 28352, 113375, 0x00D38000, 0xA00000000020, 0x3800000⟩ = false := by decide +kernel

/-- Chapter 14, Example 1: DELAY 5,012 is 641,536 steps. -/
theorem test_delay_word_of_example : delaySteps (finup { on := true, delays := [(0, 5012)] }) 64 = 641536 := by decide +kernel

/-- The check values of CRC-32C (R383) and of the CRC-16 of log entry 13, over the digits 1 to 9. -/
theorem test_crc : crc32c (ascii [49, 50, 51, 52, 53, 54, 55, 56, 57]) = 0xE3069283 ∧
    crc16 (ascii [49, 50, 51, 52, 53, 54, 55, 56, 57]) = 0x29B1 := by decide +kernel

end Sys2Proof.Tests
end

section
/-!
SUPPORT. Writes that a port accepts, in the form in which claims use them: what the answer and CONFIG_CRC leave alone, the
frame `SameBut` under each operation on the state, and the write whose meaning leaves the state as it was.
-/
namespace Sys2Proof.Machine

variable (s : State)

/-! ### What an answer and CONFIG_CRC leave alone -/

@[simp] theorem State.answer_sent (p : Port) (code : Nat) (l : List Byte) :
    (s.answer p code l).sent = .answer p code l :: s.sent := rfl
@[simp] theorem State.answer_faultQ (p : Port) (code : Nat) (l : List Byte) :
    (s.answer p code l).faultQ = s.faultQ := rfl
@[simp] theorem State.answer_rd (p : Port) (code : Nat) (l : List Byte) (r : Row) (i j : Nat) :
    (s.answer p code l).rd r i j = s.rd r i j := rfl
@[simp] theorem State.answer_byte (p : Port) (code : Nat) (l : List Byte) (a : Nat) :
    (s.answer p code l).byte a = s.byte a := rfl
@[simp] theorem State.answer_dma (p : Port) (code : Nat) (l : List Byte) (k : Nat) :
    (s.answer p code l).dma k = s.dma k := rfl
@[simp] theorem withStale_dma (b : Bool) (k : Nat) : (s.withStale b).dma k = s.dma k := rfl
@[simp] theorem withStale_faultQ (b : Bool) : (s.withStale b).faultQ = s.faultQ := rfl

/-! ### The frame under each operation -/

section
variable {s} {t : State} {keys : List Nat}

theorem SameBut.refl (s : State) (keys : List Nat) : SameBut s s keys := ⟨fun _ _ _ _ => rfl, fun _ => rfl⟩

theorem SameBut.answer (h : SameBut s t keys) (p : Port) (code : Nat) (l : List Byte) :
    SameBut s (t.answer p code l) keys := h
theorem SameBut.withStale (h : SameBut s t keys) (b : Bool) : SameBut s (t.withStale b) keys := h
theorem SameBut.setDma (h : SameBut s t keys) (n : Nat) (x : DmaSt) : SameBut s (t.setDma n x) keys := h
theorem SameBut.act (h : SameBut s t keys) (u : Target) (a : Act) : SameBut s (t.act u a) keys := h

/-- A write of an entry that the frame excepts keeps the frame. -/
theorem SameBut.wr (h : SameBut s t keys) {q : Row} {x y : Nat} (hq : rowKey q x y ∈ keys) (v : Int) :
    SameBut s (t.wr q v x y) keys :=
  ⟨fun r i j hk => (t.rd_wr q r v x y i j (fun e => hk (e ▸ hq))).trans (h.1 r i j hk), h.2⟩

end

/-! ### What an event leaves alone, read through the accessors -/

theorem SameExceptEvents.dma {s t : State} (h : SameExceptEvents s t) (k : Nat) : t.dma k = s.dma k := by
  simp only [State.dma, h.dmas]

theorem SameExceptEvents.byte {s t : State} (h : SameExceptEvents s t) (a : Nat) : t.byte a = s.byte a := by
  simp only [State.byte, h.mem]

/-! ### Accepted writes -/

theorem okCode_ne_laterCode : okCode ≠ laterCode := by decide
theorem codeNothing_ne_laterCode : codeNothing ≠ laterCode := by decide

@[simp] theorem markStale_self (r : Row) (i : Nat) : markStale s s r i = s := by simp [markStale]

theorem markStale_of_not_stored {r : Row} {i : Nat} (h : storedEntry r i = false) (u : State) :
    markStale s u r i = u := by simp [markStale, h]

section
variable {s} {p : Port} {late : Bool} {r : Row} {i j : Nat} {v : Int} {act : State → Nat × State} {code : Nat} {u : State}

/-- An accepted write makes its meaning take effect and is answered with the code of it. -/
theorem writeIf_of_accepted (h : Accepted s p late r i j v) :
    writeIf s p late r i j v act = (markStale s (act s).2 r i).reply p (act s).1 := by
  obtain ⟨hport, hlate, hcheck⟩ := h
  simp [writeIf, writeCode, hport, hlate, hcheck]

/-- A write that passes the checks of R449 and that its own meaning refuses leaves its answer alone (R450). -/
theorem writeIf_act_refuses (h : Accepted s p late r i j v) (ha : act s = (code, s)) (hc : code ≠ laterCode) :
    writeIf s p late r i j v act = s.answer p code := by
  rw [writeIf_of_accepted h, ha, markStale_self, reply_of_ne hc]

/-- An accepted write of an entry that is not stored never makes CONFIG_CRC stale. -/
theorem writeIf_act_unstored (h : Accepted s p late r i j v) (hr : storedEntry r i = false) (ha : act s = (okCode, u)) :
    writeIf s p late r i j v act = u.answer p okCode := by
  rw [writeIf_of_accepted h, ha, markStale_of_not_stored s hr, reply_ok]

/-- A command that is an accepted write gives what the effect of its meaning, CONFIG_CRC stale or not, and its answer
give. -/
theorem gives_of_writeIf {c : Instr} {P : State → Prop} (hexec : exec c s = .next (writeIf s p late r i j v act))
    (h : Accepted s p late r i j v) (ha : act s = (code, u)) (hc : code ≠ laterCode)
    (hP : ∀ b, P ((u.withStale b).answer p code)) : Gives c s P := by
  obtain ⟨b, hb⟩ := writeIf_accepted (act := act) h
  refine ⟨_, hexec, ?_⟩
  rw [hb, ha, reply_of_ne hc]
  exact hP b

end

end Sys2Proof.Machine
end

section
/-!
CERTIFICATE. RB_WR and the geometry of a ring buffer (R368, R377, R387).
-/
namespace Sys2Proof.Machine

variable (s : State)

theorem exec_rbWrWrite (p : Port) (r : RingBuf) (v : Nat) :
    exec (.rbWrWrite p r v) s = .next (writeIf s p (s.superseded noTarget) E.rbWr r 0 v (rbWrAct r v)) := rfl

theorem exec_rbGeometryWrite (p : Port) (r : RingBuf) (f : GeoField) (v : Nat) :
    exec (.rbGeometryWrite p r f v) s =
      .next (writeIf s p (s.superseded noTarget) (geoRow f) r 0 v (geometryAct r f v)) := rfl

/-! ### RB_WR -/

/-- RB_WR is not a stored entry (R478). -/
theorem storedEntry_rbWr (i : Nat) : storedEntry E.rbWr i = false := by
  simp [storedEntry, E.rbWr]

variable {s} {r v : Nat}

/-- While intake writes into the buffer, RB_WR is not to be written (R387). -/
theorem rbWrAct_streamed (h : s.rd E.rsEn r = 1) : rbWrAct r v s = (codeState, s) := by
  simp [rbWrAct, h]

/-- While a job is under way, RB_WR is not lowered (R368). -/
theorem rbWrAct_lowered_in_job (hs : s.rd E.rsEn r ≠ 1) (hjob : s.busyJob = true) (hv : v < s.rdN E.rbWr r) :
    rbWrAct r v s = (codeRange, s) := by
  simp [rbWrAct, hs, hjob, hv]

theorem rbWrAct_taken (hs : s.rd E.rsEn r ≠ 1) (h : s.busyJob = false ∨ s.rdN E.rbWr r ≤ v) :
    rbWrAct r v s = (okCode, s.wr E.rbWr v r) := by
  have hnot : ¬(s.busyJob = true ∧ v < s.rdN E.rbWr r) := by
    rintro ⟨hjob, hlt⟩
    rcases h with h | h
    · simp [hjob] at h
    · omega
  simp [rbWrAct, hs, hnot]

/-! ### Geometry -/

/-- RB_WR stands in its buffer's object, behind the geometry fields. -/
theorem rowKey_geoRow_ne_rbWr (f : GeoField) (r : Nat) : rowKey (geoRow f) r 0 ≠ rowKey E.rbWr r 0 := by
  cases f <;> simp [rowKey, geoRow, E.rbBase, E.rbLines, E.rbStride, E.rbWr]

/-- Settles O32. RB_WR: by whether the buffer is streamed into, and whether the write would lower it during a job; a
geometry write: by the keys of the two entries that it writes. -/
theorem ringBufferWritesTakeEffect : Obligations.RingBufferWritesTakeEffect := by
  intro p r v s
  refine ⟨fun h => ⟨fun hs htaken => ?_, fun hs hjob hv => ?_, fun hs => ?_⟩, fun f h => ?_⟩
  · rw [exec_rbWrWrite, writeIf_act_unstored h (storedEntry_rbWr r) (rbWrAct_taken hs htaken)]
  · rw [exec_rbWrWrite, writeIf_act_refuses h (rbWrAct_lowered_in_job hs hjob hv) (by decide)]
  · rw [exec_rbWrWrite, writeIf_act_refuses h (rbWrAct_streamed hs) (by decide)]
  · refine gives_of_writeIf (exec_rbGeometryWrite s p r f v) h rfl (by decide) fun b => ⟨?_, ?_, rfl, ?_⟩
    · simp [State.rd_wr _ _ _ _ _ _ _ _ (rowKey_geoRow_ne_rbWr f r)]
    · simp
    · exact ((((SameBut.refl s _).wr (by simp) _).wr (by simp) _).withStale b).answer p okCode []

end Sys2Proof.Machine
end

section
/-!
CERTIFICATE. ABORT of a DMA channel (R357).
-/
namespace Sys2Proof.Machine

variable {s : State}

theorem exec_dmaAbort (s : State) (p : Port) (n : DmaCh) :
    exec (.dmaAbort p n) s = .next (writeIf s p (s.superseded (.dma n)) E.abort n 0 1 (dmaAbortAct n)) := rfl

/-! ### ABORT by the channel's state -/

theorem dmaAbortAct_idle {n : Nat} (h : (s.dma n).st = .idle) :
    dmaAbortAct n s = (codeNothing, s.act (.dma n) .abort) := by simp [dmaAbortAct, h]

theorem dmaAbortAct_aborting {n : Nat} (h : (s.dma n).st = .aborting) :
    dmaAbortAct n s = (okCode, s.act (.dma n) .abort) := by simp [dmaAbortAct, h]

/-- A channel whose accesses are in flight waits for them. -/
theorem dmaAbortAct_running {n : Nat} (h : (s.dma n).st = .running ∨ (s.dma n).st = .pausing) :
    dmaAbortAct n s = (okCode, (s.act (.dma n) .abort).setDma n { s.dma n with st := .aborting }) := by
  rcases h with h | h <;> simp [dmaAbortAct, h]

/-- A channel without an access in flight ends at once. -/
theorem dmaAbortAct_waiting {n : Nat} (h : (s.dma n).st = .pending ∨ (s.dma n).st = .paused ∨ (s.dma n).st = .stopped) :
    dmaAbortAct n s = (okCode, dmaAborted (s.act (.dma n) .abort) n) := by
  rcases h with h | h | h <;> simp [dmaAbortAct, h]

/-! ### The end of an abort -/

/-- The channel ends idle with RESULT aborted; no other channel, entry or byte changes, and nothing is sent. -/
theorem dmaAborted_ends (s : State) (n : Nat) : ((dmaAborted s n).dma n).st = .idle ∧ ((dmaAborted s n).dma n).result = 2 ∧
    (∀ k, k ≠ n → (dmaAborted s n).dma k = s.dma k) ∧ (dmaAborted s n).faultQ = s.faultQ ∧
    (dmaAborted s n).sent = s.sent ∧ SameBut s (dmaAborted s n) [] := by
  unfold dmaAborted
  exact ⟨by simp, by simp, fun k hk => s.setDma_ne k n _ hk, rfl, rfl, (SameBut.refl s []).setDma n _⟩

/-- Whatever access of an aborting channel ends, it is discarded and the abort ends. -/
theorem exec_accessEnd_of_aborting {n : DmaCh} (h : (s.dma n).st = .aborting) (e : EccResult) :
    ∀ c ∈ [Instr.dmaBurstDone n e, .dmaBlockComplete n, .dmaDescriptorLoad n e],
      exec c s = .next (dmaAborted s n) := by
  have hburst : burstAct n e s = dmaAborted s n := by simp [burstAct, h]
  have hblock : blockCompleteAct n s = dmaAborted s n := by simp [blockCompleteAct, h]
  have hdesc : descriptorAct n e s = dmaAborted s n := by simp [descriptorAct, h]
  simp only [List.mem_cons, List.not_mem_nil, or_false]
  rintro c (rfl | rfl | rfl)
  · exact congrArg Host.Outcome.next hburst
  · exact congrArg Host.Outcome.next hblock
  · exact congrArg Host.Outcome.next hdesc

/-! ### What ABORT leaves alone in every state -/

theorem dmaState_abort_cases (x : DmaState) :
    x = .idle ∨ x = .aborting ∨ (x = .running ∨ x = .pausing) ∨ (x = .pending ∨ x = .paused ∨ x = .stopped) := by
  cases x <;> simp

/-- ABORT is answered at once, sends nothing else, and leaves every other channel, every entry and every byte alone. -/
theorem dmaAbortAct_frame (s : State) (n : Nat) : (dmaAbortAct n s).1 ≠ laterCode ∧ (dmaAbortAct n s).2.sent = s.sent ∧
    (∀ k, k ≠ n → (dmaAbortAct n s).2.dma k = s.dma k) ∧ SameBut s (dmaAbortAct n s).2 [] := by
  have hact : SameBut s (s.act (.dma n) .abort) [] := (SameBut.refl s []).act _ _
  rcases dmaState_abort_cases (s.dma n).st with h | h | h | h
  · rw [dmaAbortAct_idle h]
    exact ⟨codeNothing_ne_laterCode, rfl, fun _ _ => rfl, hact⟩
  · rw [dmaAbortAct_aborting h]
    exact ⟨okCode_ne_laterCode, rfl, fun _ _ => rfl, hact⟩
  · rw [dmaAbortAct_running h]
    exact ⟨okCode_ne_laterCode, rfl, fun k hk => State.setDma_ne _ k n _ hk, hact.setDma n _⟩
  · rw [dmaAbortAct_waiting h]
    obtain ⟨-, -, hothers, -, hsent, hsame⟩ := dmaAborted_ends (s.act (.dma n) .abort) n
    exact ⟨okCode_ne_laterCode, hsent, hothers, hsame⟩

/-- Settles O30. The frame is that of ABORT in every state; what becomes of the channel is said by its state, and an
access that ends on an aborting channel ends the abort. -/
theorem dmaAbortEndsIdle : Obligations.DmaAbortEndsIdle := by
  intro p n s
  refine ⟨fun h => ?_, fun hst e c hc => ?_⟩
  · obtain ⟨hcode, hsent, hothers, hsame⟩ := dmaAbortAct_frame s n
    refine gives_of_writeIf (code := (dmaAbortAct n s).1) (u := (dmaAbortAct n s).2) (exec_dmaAbort s p n) h rfl hcode
      fun b => ⟨hothers, (hsame.withStale b).answer p _ [], fun hst => ?_, fun hst => ?_, fun hst => ?_, fun hst => ?_⟩
    · rw [dmaAbortAct_idle hst]
      simp
    · rw [dmaAbortAct_aborting hst]
      simp
    · rw [dmaAbortAct_running hst]
      simp
    · rw [dmaAbortAct_waiting hst]
      obtain ⟨hidle, hresult, -, -, haborted, -⟩ := dmaAborted_ends (s.act (.dma n) .abort) n
      simp [hidle, hresult, haborted]
  · exact ⟨_, exec_accessEnd_of_aborting hst e c hc, dmaAborted_ends s n⟩

end Sys2Proof.Machine
end

section
/-!
CERTIFICATE. START of a DMA channel (R350, R361), and the completion of a block that ends its chain (R364, R365).
-/
namespace Sys2Proof.Machine

variable {s : State}

theorem exec_dmaStart (s : State) (p : Port) (n : DmaCh) :
    exec (.dmaStart p n) s = .next (writeIf s p (s.startSuperseded (.dma n)) E.start n 0 1 (dmaStartAct n)) := rfl

/-! ### Channels that START takes -/

/-- A channel in this state takes a START (R350). -/
def Startable (x : DmaSt) : Prop := x.st = .idle ∨ x.st = .paused ∨ x.st = .stopped

theorem not_busy_of_startable {x : DmaSt} (h : Startable x) : ¬(x.st = .pending ∨ holdsEngine x = true) := by
  rcases h with h | h | h <;> simp [holdsEngine, h]

theorem busy_of_under_way {x : DmaSt} (h : x.st = .pending ∨ x.st = .running ∨ x.st = .pausing ∨ x.st = .aborting) :
    x.st = .pending ∨ holdsEngine x = true := by
  rcases h with h | h | h | h <;> simp [holdsEngine, h]

/-- The state in which an accepted START leaves channel n: HOPS and RESULT 0, and nothing of an earlier block. -/
def startedState (s : State) (n : Nat) : State :=
  (s.wr E.hops 0 n).setDma n { s.dma n with
    st := if s.rd E.pause n = 1 then .paused else .pending, result := 0, side := 0, blockEnd := false, loading := false,
    lastAt := none }

/-! ### START by the channel's state and block -/

theorem dmaStartAct_under_way {n : Nat}
    (h : (s.dma n).st = .pending ∨ (s.dma n).st = .running ∨ (s.dma n).st = .pausing ∨ (s.dma n).st = .aborting) :
    dmaStartAct n s = (codeState, s) := by
  simp [dmaStartAct, busy_of_under_way h]

theorem dmaStartAct_absentEngine {n : Nat} (hs : Startable (s.dma n)) (ha : absentEngine s (blockOfChannel s n) = true) :
    dmaStartAct n s = (codeNoObject, s) := by
  simp [dmaStartAct, not_busy_of_startable hs, ha]

theorem dmaStartAct_invalid {n : Nat} (hs : Startable (s.dma n)) (ha : absentEngine s (blockOfChannel s n) = false)
    (hv : blockValid s (blockOfChannel s n) = false) : dmaStartAct n s = (codeRange, s) := by
  simp [dmaStartAct, not_busy_of_startable hs, ha, hv]

/-- A valid block starts; with nothing to move and no descriptor to load it is complete (R361). -/
theorem dmaStartAct_valid {n : Nat} (hs : Startable (s.dma n)) (ha : absentEngine s (blockOfChannel s n) = false)
    (hv : blockValid s (blockOfChannel s n) = true) :
    dmaStartAct n s = (okCode, if (blockOfChannel s n).count = 0 ∧ (blockOfChannel s n).linkEn = false
      then completeBlock (startedState s n) n else startedState s n) := by
  simp [dmaStartAct, not_busy_of_startable hs, ha, hv, startedState]

/-! ### The completion of a block that ends its chain -/

/-- The state after the event that CTRL may ask for when channel n's block completes (R364). -/
def notifiedState (s : State) (n : Nat) : State :=
  let t := s.setDma n { s.dma n with blockEnd := false }
  if bit (s.rdN E.ctrl n) 14 then maskedEvent t 4 (0x6800 + 16 * n) 2 (s.rdN E.dst n) else t

theorem notifiedState_same (s : State) (n : Nat) :
    SameExceptEvents (s.setDma n { s.dma n with blockEnd := false }) (notifiedState s n) := by
  unfold notifiedState
  split
  · exact (maskedEvent_same _ _ _ _ _).1
  · exact .refl _

/-- After that event the completion writes the channel and DMA_DONE (R365). -/
theorem completeBlock_of_chain_end {n : Nat} (h : bit (s.rdN E.ctrl n) 15 = false) :
    ∃ x y : DmaSt, completeBlock s n =
      (((notifiedState s n).setDma n x).setDma n { y with st := .idle, result := 1 }).wr E.dmaDone
        ((notifiedState s n).rdN E.dmaDone ||| 2 ^ n : Nat) := by
  simp only [completeBlock, blockOfChannel, Block.linkEn, h]
  exact ⟨_, _, rfl⟩

/-- The entries that the completion of a block may write: DMA_DONE, and those that its event counts in. -/
def completionKeys : List Nat :=
  [rowKey E.dmaDone 0 0, rowKey E.eventSeq 0 0, rowKey E.txFrames 0 0, rowKey E.txFrames 1 0]

/-- A block that ends its chain leaves its channel idle with RESULT complete and its bit of DMA_DONE set; no other channel,
entry or byte changes but for what its event counts, and no fault is sent (R365). -/
theorem completeBlock_ends_chain {n : Nat} (h : bit (s.rdN E.ctrl n) 15 = false) :
    ((completeBlock s n).dma n).st = .idle ∧ ((completeBlock s n).dma n).result = 1 ∧
      (∀ k, k ≠ n → (completeBlock s n).dma k = s.dma k) ∧ (completeBlock s n).faultQ = s.faultQ ∧
      (completeBlock s n).rd E.dmaDone = (s.rdN E.dmaDone ||| 2 ^ n : Nat) ∧
      SameBut s (completeBlock s n) completionKeys := by
  obtain ⟨x, y, heq⟩ := completeBlock_of_chain_end h
  have hevent := notifiedState_same s n
  have hdone : (notifiedState s n).rdN E.dmaDone = s.rdN E.dmaDone := by
    simp only [State.rdN, hevent.rd E.dmaDone 0 0 (by decide), State.setDma_rd]
  have hsame : SameBut s (notifiedState s n) completionKeys :=
    ⟨fun r i j hk => hevent.rd r i j (fun hmem => hk (List.mem_cons_of_mem _ hmem)), hevent.byte⟩
  rw [heq, hdone]
  refine ⟨by simp, by simp, fun k hk => ?_, hevent.faultQ, by simp,
    ((hsame.setDma n x).setDma n _).wr List.mem_cons_self _⟩
  rw [State.wr_dma, State.setDma_ne _ k n _ hk, State.setDma_ne _ k n _ hk, hevent.dma, State.setDma_ne _ k n _ hk]

/-! ### The registers of the started channel -/

theorem rd_startedState {r : Row} {i j n : Nat} (h : rowKey r i j ≠ rowKey E.hops n 0) :
    (startedState s n).rd r i j = s.rd r i j := by
  simp [startedState, State.rd_wr _ _ _ _ _ _ _ _ h]

theorem startedState_sameBut (s : State) (n : Nat) : SameBut s (startedState s n) [rowKey E.hops n 0] :=
  ((SameBut.refl s _).wr List.mem_cons_self 0).setDma n _

theorem startedState_dma_ne {k n : Nat} (h : k ≠ n) : (startedState s n).dma k = s.dma k := by
  simp [startedState, State.setDma_ne _ k n _ h]

/-- HOPS of a channel is none of the entries that a completion may write. -/
theorem hops_notMem_completionKeys : ∀ n : DmaCh, rowKey E.hops n 0 ∉ completionKeys := by decide

/-- A START of a block with nothing to do leaves the channel complete (R361). -/
theorem start_then_complete {n : DmaCh} (hl : bit (s.rdN E.ctrl n) 15 = false) (u : State)
    (hu : u = completeBlock (startedState s n) n) : (u.dma n).st = .idle ∧ (u.dma n).result = 1 ∧ u.rd E.hops n = 0 ∧
      u.rd E.dmaDone = (s.rdN E.dmaDone ||| 2 ^ n.val : Nat) ∧ (∀ k, k ≠ n.val → u.dma k = s.dma k) ∧
      u.faultQ = s.faultQ ∧ ∀ x, u.byte x = s.byte x := by
  have hctrl : (startedState s n).rdN E.ctrl n = s.rdN E.ctrl n :=
    congrArg Int.toNat (rd_startedState (by simp [rowKey, E.ctrl, E.hops]))
  have hdone : (startedState s n).rdN E.dmaDone = s.rdN E.dmaDone :=
    congrArg Int.toNat (rd_startedState fun e => hops_notMem_completionKeys n (e ▸ List.mem_cons_self))
  obtain ⟨hidle, hresult, hothers, hfaults, hbit, hsame⟩ := completeBlock_ends_chain (hctrl ▸ hl)
  subst hu
  refine ⟨hidle, hresult, ?_, hdone ▸ hbit, fun k hk => (hothers k hk).trans (startedState_dma_ne hk), hfaults, hsame.2⟩
  rw [hsame.1 _ _ _ (hops_notMem_completionKeys n)]
  simp [startedState]

/-- Settles O28. By the channel's state and block: the two outcomes of a valid block, whose frames are those of
`startedState` and of a completion that ends the chain, and the three refusals, which leave the answer alone. -/
theorem dmaStartFollowsState : Obligations.DmaStartFollowsState := by
  intro p n s h
  refine ⟨fun hs ha hv hwork => ?_, fun hs ha hv hcount hlink => ?_, fun hst => ?_, fun hs ha => ?_, fun hs ha hv => ?_⟩
  · have hstart : dmaStartAct n s = (okCode, startedState s n) := by
      rw [dmaStartAct_valid hs ha hv, if_neg]
      rintro ⟨hcount, hlink⟩
      rcases hwork with hpos | hlinked
      · exact hpos.ne' hcount
      · exact Bool.false_ne_true (hlink.symm.trans hlinked)
    refine gives_of_writeIf (exec_dmaStart s p n) h hstart (by decide) fun b =>
      ⟨?_, ?_, ?_, fun k hk => startedState_dma_ne hk, rfl, ((startedState_sameBut s n).withStale b).answer p okCode []⟩
    all_goals simp [startedState]
  · have hstart : dmaStartAct n s = (okCode, completeBlock (startedState s n) n) := by
      rw [dmaStartAct_valid hs ha hv, if_pos ⟨hcount, hlink⟩]
    obtain ⟨hidle, hresult, hhops, hdone, hothers, hfaults, hbytes⟩ := start_then_complete hlink _ rfl
    exact gives_of_writeIf (exec_dmaStart s p n) h hstart (by decide) fun b =>
      ⟨hidle, hresult, hhops, hdone, hothers, rfl, hfaults, hbytes⟩
  · rw [exec_dmaStart, writeIf_act_refuses h (dmaStartAct_under_way hst) (by decide)]
  · rw [exec_dmaStart, writeIf_act_refuses h (dmaStartAct_absentEngine hs ha) (by decide)]
  · rw [exec_dmaStart, writeIf_act_refuses h (dmaStartAct_invalid hs ha hv) (by decide)]

end Sys2Proof.Machine
end

section
/-!
SUPPORT. A response on a free ring: the entries on which a frame of this node depends, the operations that keep the ring
free, and what a response changes.
-/
namespace Sys2Proof.Machine

variable {s t u : State} {keys keys' : List Nat}

/-! ### The frame under successive steps, and counts -/

theorem SameBut.trans (h : SameBut s t keys) (h' : SameBut t u keys') : SameBut s u (keys ++ keys') := by
  refine ⟨fun r i j hk => ?_, fun a => (h'.2 a).trans (h.2 a)⟩
  rw [List.mem_append, not_or] at hk
  exact (h'.1 r i j hk.2).trans (h.1 r i j hk.1)

theorem SameBut.count (h : SameBut s t keys) {r : Row} {i : Nat} (hr : rowKey r i 0 ∈ keys) :
    SameBut s (t.count r i) keys := h.wr hr _

theorem sat32_eq_min (x : Int) : sat32 x = min x (2 ^ 32 - 1) := by
  unfold sat32
  split <;> omega

theorem State.count_rd_same (s : State) (r : Row) : (s.count r).rd r = min (s.rd r + 1) (2 ^ 32 - 1) := by
  simp [State.count, sat32_eq_min]

/-! ### What a frame of this node depends on -/

/-- The entries that decide whether a frame of this node leaves on a free ring, and from which address: PRBS_SEL and
PRBS_LINK (R612), and RING_ADDR_NOW (R416). -/
def frameKeys : List Nat := [rowKey E.prbsSel 0 0, rowKey E.prbsLink 0 0, rowKey E.ringAddrNow 0 0]

section
variable {r : Row} (hr : rowKey r 0 0 ∉ frameKeys)
include hr

theorem rdN_count_frameKeys {q : Row} (hq : rowKey q 0 0 ∈ frameKeys) : (s.count r).rdN q = s.rdN q :=
  s.rdN_wr r q _ 0 0 0 0 fun e => hr (e ▸ hq)

theorem prbsOnRing_count (i : Nat) : prbsOnRing (s.count r) i = prbsOnRing s i := by
  simp only [prbsOnRing, rdN_count_frameKeys hr (q := E.prbsSel) (by simp [frameKeys]),
    rdN_count_frameKeys hr (q := E.prbsLink) (by simp [frameKeys])]

theorem nodeAddr_count : nodeAddr (s.count r) = nodeAddr s := by
  simp only [nodeAddr, rdN_count_frameKeys hr (q := E.ringAddrNow) (by simp [frameKeys])]
  rfl

theorem RingsFree.count (h : RingsFree s) : RingsFree (s.count r) := by
  obtain ⟨hon, hup, hdown, hlanes⟩ := h
  refine ⟨hon, hup, hdown, fun i hi => ?_⟩
  rw [prbsOnRing_count hr]
  exact hlanes i hi

end

theorem RingsFree.answer (h : RingsFree s) (p : Port) (code : Nat) (l : List Byte) : RingsFree (s.answer p code l) := h
theorem RingsFree.keepWrite (h : RingsFree s) (q : RingReq) (code : Nat) : RingsFree (keepWrite s q code) := h

/-- Which open value the next read shows is all that a read changes. -/
theorem afterRead_eq (s : State) (key : Nat) : ∃ n, afterRead s key = { s with fresh := n } := by
  unfold afterRead
  split <;> exact ⟨_, rfl⟩

/-! ### A response on a free ring -/

/-- On a free ring a frame goes out on the ring's own lane. -/
theorem outLane_of_free (h : RingsFree s) (i : Nat) : outLane s i = some i := by
  obtain ⟨-, hup, hdown, -⟩ := h
  simp [outLane, hup, hdown]

theorem laneQueue_of_free (h : RingsFree s) (i : RingId) (bytes : List Byte) :
    laneQueue s i bytes = (s.emit (.ringFrame i bytes false)).count48 E.txFrames i := by
  obtain ⟨-, -, -, hlanes⟩ := h
  obtain ⟨hbusy, hinj, hown, hprbs⟩ := hlanes i (by omega)
  simp [laneQueue, laneEmit, hbusy, hinj, hown, hprbs]

theorem laneSend_of_free (h : RingsFree s) (i : RingId) (bytes : List Byte) :
    laneSend s i bytes = (s.emit (.ringFrame i bytes false)).count48 E.txFrames i := by
  have hon : (s.domOn 1 && s.ring.join != 0) = true := h.1
  simp only [laneSend, hon, if_true, outLane_of_free h, laneQueue_of_free h]

theorem sendResp_of_free (h : RingsFree s) (i : RingId) (q : RingReq) (payload : List Byte) :
    sendResp s i q payload =
      (s.emit (.ringFrame i (ringFrameBytes 4 i q.src (nodeAddr s) 0 q.seq payload) false)).count48 E.txFrames i :=
  laneSend_of_free h i _

/-- A response leaves at once, as one frame, and but for the count of frames it leaves everything alone. -/
theorem sendResp_leaves (h : RingsFree s) (i : RingId) (q : RingReq) (payload : List Byte)
    (hu : u = sendResp s i q payload) :
    u.sent = .ringFrame i (ringFrameBytes 4 i q.src (nodeAddr s) 0 q.seq payload) false :: s.sent ∧
      u.faultQ = s.faultQ ∧ u.ring = s.ring ∧ SameBut s u [rowKey E.txFrames i 0] := by
  rw [sendResp_of_free h] at hu
  subst hu
  exact ⟨rfl, rfl, rfl, (SameBut.refl s _).wr List.mem_cons_self _⟩

/-- A request that is counted and answered without being executed. -/
theorem sendResp_counted {r : Row} (h : RingsFree s) (i : RingId) (q : RingReq) (payload : List Byte)
    (hr : rowKey r 0 0 ∉ frameKeys) (hi : ∀ k : RingId, rowKey r 0 0 ≠ rowKey E.txFrames k 0)
    (hu : u = sendResp (s.count r) i q payload) :
    u.rd r = min (s.rd r + 1) (2 ^ 32 - 1) ∧
      u.sent = .ringFrame i (ringFrameBytes 4 i q.src (nodeAddr s) 0 q.seq payload) false :: s.sent ∧
      SameBut s u [rowKey r 0 0, rowKey E.txFrames i 0] := by
  obtain ⟨hsent, -, -, hsame⟩ := sendResp_leaves (h.count hr) i q payload hu
  rw [nodeAddr_count hr] at hsent
  have hcount : SameBut s (s.count r) [rowKey r 0 0] := (SameBut.refl s _).count List.mem_cons_self
  refine ⟨?_, hsent, hcount.trans hsame⟩
  rw [hsame.1 r 0 0 (by simpa using hi i), State.count_rd_same]

/-- The abort code of a response stands in bytes 12 to 15 of its payload (R410). -/
theorem respPayload_code (op : Nat) (last : Bool) (q : RingReq) (ofs code : Nat) (data : List Byte) :
    ((respPayload op last q ofs code data).drop 12).take 4 = toBytes 4 code := rfl

end Sys2Proof.Machine
end

section
/-!
CERTIFICATE. Dictionary requests of the ring (R411 to R413).
-/
namespace Sys2Proof.Machine

variable {s t : State} {q : RingReq}

theorem exec_ringDictRead (s : State) (q : RingReq) :
    exec (.ringDictRead q) s = .next (reqGate s q 1 (ringReadAct q)) := rfl

theorem exec_ringDictWrite (s : State) (q : RingReq) :
    exec (.ringDictWrite q) s = .next (reqGate s q 2 (ringWriteAct q)) := rfl

/-! ### Requests by the room in the queue -/

/-- The request reaches the queue: its ring carries accesses, no reset acts in this TICK, and its SRC is a node (R411,
R515, R613). -/
def Arrives (s : State) (q : RingReq) : Prop :=
  portUp s (reqPort q) = true ∧ inReset s = false ∧ q.src ≠ 0xFFFE

/-- With the queue full, the request is counted and answered "busy", whatever it asks for (R412). -/
theorem reqGate_full (h : Arrives s q) (hfull : 64 ≤ s.ring.queue.length) (op : Nat) (act : State → State) :
    reqGate s q op act =
      sendResp (s.count E.reqBusy) q.ring q (respPayload op (op == 1) q q.ofs codeBusy []) := by
  obtain ⟨hport, hreset, hsrc⟩ := h
  simp [reqGate, hport, hreset, hsrc, hfull]

theorem reqGate_open (h : Arrives s q) (hroom : s.ring.queue.length < 64) (op : Nat) (act : State → State) :
    reqGate s q op act = act s := by
  obtain ⟨hport, hreset, hsrc⟩ := h
  simp [reqGate, hport, hreset, hsrc, Nat.not_le.2 hroom]

/-! ### Reads -/

/-- The data of a read of at most 240 bytes travel in one frame, which is the final one. -/
theorem readFrames_one (s : State) (q : RingReq) (l : List Byte) :
    readFrames s q l 1 = sendResp s q.ring q (respPayload 1 true q (q.ofs % 2 ^ 32) okCode (l.take 240)) := rfl

theorem ringReadAct_ok {data : List Byte} (hpos : 1 ≤ q.dlen) (hlen : q.dlen ≤ 240) (hkey : reqKey q ≠ E.summary.k0)
    (hread : dictRead s (reqKey q) q.ofs q.dlen = (okCode, data)) :
    ringReadAct q s = sendResp ((afterRead s (reqKey q)).answer (reqPort q) okCode data) q.ring q
      (respPayload 1 true q (q.ofs % 2 ^ 32) okCode (data.take 240)) := by
  have hframes : (q.dlen + respMost - 1) / respMost = 1 := by
    unfold respMost
    omega
  have hallowed : ¬(q.dlen < 1 ∨ 1024 < q.dlen) := by omega
  simp only [ringReadAct, portRead, if_neg hallowed, if_neg hkey, hread, if_true, hframes, readFrames_one]

/-! ### Writes -/

/-- A repeated write is counted and answered from the record (R413). -/
theorem ringWriteAct_repeated {code : Nat}
    (hdup : s.ring.dups.find? (fun d => d.1 == q.src && d.2.1 == q.seq) = some (q.src, q.seq, code)) :
    ringWriteAct q s = sendResp (s.count E.dupWrites) q.ring q (respPayload 2 false q (q.ofs % 2 ^ 32) code []) := by
  simp only [ringWriteAct, hdup]

/-- A write that repeats neither a kept write nor a waiting one is executed, and answered when its answer does not come
later. -/
theorem ringWriteAct_executed {code : Nat}
    (hdup : s.ring.dups.find? (fun d => d.1 == q.src && d.2.1 == q.seq) = none)
    (hqueue : ∀ w ∈ s.ring.queue, ¬(w.src = q.src ∧ w.seq = q.seq))
    (hwrite : anyWrite (reqKey q) q.ofs q.data (some (reqPort q)) s = (code, t)) (hcode : code ≠ laterCode) :
    ringWriteAct q s = answerWrite (t.answer (reqPort q) code) q.ring q code := by
  have hwaits : s.ring.queue.any (fun w => w.src == q.src && w.seq == q.seq) = false := by
    simpa using hqueue
  simp [ringWriteAct, hdup, hwaits, hwrite, hcode]

/-- The record begins with the write that was answered last. -/
theorem keepWrite_dups_head (s : State) (q : RingReq) (code : Nat) :
    (keepWrite s q code).ring.dups.head? = some (q.src, q.seq, code) := rfl

/-! ### The requests' outcomes -/

/-- A request that finds the queue full is counted, and answered "busy" with its SEQ on its ring; nothing else happens. -/
theorem request_busy (h : Arrives s q) (hfree : RingsFree s) (hfull : 64 ≤ s.ring.queue.length) (op : Nat)
    (act : State → State) (u : State) (hu : u = reqGate s q op act) :
    u.rd E.reqBusy = min (s.rd E.reqBusy + 1) (2 ^ 32 - 1) ∧
      (∃ x : List Byte,
        u.sent = .ringFrame q.ring (ringFrameBytes 4 q.ring q.src (nodeAddr s) 0 q.seq x) false :: s.sent ∧
        (x.drop 12).take 4 = toBytes 4 codeBusy) ∧
      SameBut s u [rowKey E.reqBusy 0 0, rowKey E.txFrames q.ring 0] := by
  rw [reqGate_full h hfull] at hu
  obtain ⟨hcount, hsent, hsame⟩ := sendResp_counted hfree q.ring q _ (by decide) (by decide) hu
  exact ⟨hcount, ⟨_, hsent, respPayload_code ..⟩, hsame⟩

/-- A successful read of at most 240 bytes is answered in one frame, and leaves faults, entries and bytes alone. -/
theorem ringReadAct_answers (hfree : RingsFree s) {data : List Byte} (hpos : 1 ≤ q.dlen) (hlen : q.dlen ≤ 240)
    (hkey : reqKey q ≠ E.summary.k0) (hread : dictRead s (reqKey q) q.ofs q.dlen = (okCode, data)) (u : State)
    (hu : u = ringReadAct q s) :
    u.sent = .ringFrame q.ring (ringFrameBytes 4 q.ring q.src (nodeAddr s) 0 q.seq
        (respPayload 1 true q (q.ofs % 2 ^ 32) okCode (data.take 240))) false ::
        .answer (reqPort q) okCode data :: s.sent ∧
      u.faultQ = s.faultQ ∧ SameBut s u [rowKey E.txFrames q.ring 0] := by
  obtain ⟨n, hn⟩ := afterRead_eq s (reqKey q)
  rw [ringReadAct_ok hpos hlen hkey hread, hn] at hu
  obtain ⟨hsent, hfaults, -, hsame⟩ := sendResp_leaves (s := State.answer { s with fresh := n } _ _ _) hfree q.ring q _ hu
  exact ⟨hsent, hfaults, hsame⟩

/-- The answer to an executed write, and the record that it leaves. -/
theorem answerWrite_answers (hfree : RingsFree t) (code : Nat) (u : State)
    (hu : u = answerWrite (t.answer (reqPort q) code) q.ring q code) :
    u.ring.dups.head? = some (q.src, q.seq, code) ∧
      u.sent = .ringFrame q.ring (ringFrameBytes 4 q.ring q.src (nodeAddr t) 0 q.seq
        (respPayload 2 false q (q.ofs % 2 ^ 32) code [])) false :: .answer (reqPort q) code [] :: t.sent ∧
      SameBut t u [rowKey E.txFrames q.ring 0] := by
  obtain ⟨hsent, -, hring, hsame⟩ := sendResp_leaves ((hfree.answer (reqPort q) code []).keepWrite q code) q.ring q _ hu
  exact ⟨hring ▸ keepWrite_dups_head _ q code, hsent, hsame⟩

/-- Settles O37. By the room in the queue; with room, a read, a write that the record holds, and a write that is executed. -/
theorem ringServesDictionary : Obligations.RingServesDictionary := by
  intro q s hport hreset hsrc hfree
  have harrives : Arrives s q := ⟨hport, hreset, hsrc⟩
  refine ⟨fun hfull c hc => ?_, fun hroom => ⟨fun data hpos hlen hkey hread => ?_, fun code hdup => ?_,
    fun code t hdup hqueue hwrite hcode hfree' => ?_⟩⟩
  · simp only [List.mem_cons, List.not_mem_nil, or_false] at hc
    rcases hc with rfl | rfl
    · exact ⟨_, exec_ringDictRead s q, request_busy harrives hfree hfull _ _ _ rfl⟩
    · exact ⟨_, exec_ringDictWrite s q, request_busy harrives hfree hfull _ _ _ rfl⟩
  · refine ⟨_, exec_ringDictRead s q, ?_⟩
    rw [reqGate_open harrives hroom]
    exact ringReadAct_answers hfree hpos hlen hkey hread _ rfl
  · refine ⟨_, exec_ringDictWrite s q, ?_⟩
    rw [reqGate_open harrives hroom, ringWriteAct_repeated hdup]
    exact sendResp_counted hfree q.ring q _ (by decide) (by decide) rfl
  · refine ⟨_, exec_ringDictWrite s q, ?_⟩
    rw [reqGate_open harrives hroom, ringWriteAct_executed hdup hqueue hwrite hcode]
    exact answerWrite_answers hfree' code _ rfl

end Sys2Proof.Machine
end

section
/-!
CERTIFICATE. What every command and every step keeps (`Keeps`): the form of the state (R73, R445), the queue, the trace, and
the programmed fuse bits and seals (R530).
-/
namespace Sys2Proof.Machine

variable {s t u : State}

/-- A command that answers one next state keeps what that state keeps. -/
theorem keeps_of_next (hk : Keeps s u) (h : (.next u : Host.Outcome State Fault Refusal) = .next t) : Keeps s t :=
  Host.Outcome.next.inj h ▸ hk

/-- A command that is a write on a port keeps what the meaning of the write keeps. -/
theorem keeps_of_write {p : Port} {late : Bool} {r : Row} {i j : Nat} {v : Int} {act : State → Nat × State}
    (hact : ∀ x, Keeps s x → Keeps s (act x).2)
    (h : (.next (writeIf s p late r i j v act) : Host.Outcome State Fault Refusal) = .next t) : Keeps s t :=
  keeps_of_next (writeIf_keeps p late r i j v act hact (.refl s)) h

theorem execSramAccessGrant_keeps {reqs : List SramReq} (h : execSramAccessGrant reqs s = .next t) : Keeps s t := by
  unfold execSramAccessGrant at h
  split at h
  · exact keeps_of_next (.foldl _ (fun _ _ => State.emit_keeps _) (holdSram_keeps _ (.refl s))) h
  · split at h
    · exact keeps_of_next (.refl s) h
    · split at h
      · exact keeps_of_next (sramAccess_keeps _ (holdSram_keeps _ (.refl s))) h
      · cases h

theorem execCountedSettingWrite_keeps {p : Port} {index sub v : Nat} (h : execCountedSettingWrite p index sub v s = .next t) :
    Keeps s t := by
  unfold execCountedSettingWrite at h
  split at h
  · exact keeps_of_next (.refl s) h
  · exact keeps_of_write (fun _ => countedAct_keeps _ _ _ _) h

/-- Every command keeps what `Keeps` says: one arm for each, by what its meaning keeps. -/
theorem exec_keeps (c : Instr) (h : exec c s = .next t) : Keeps s t := by
  cases c with
  | powerOnReset straps => exact keeps_of_next (powerOnAct_keeps _ (.refl s)) h
  | otpSensingDone weak => exact keeps_of_next (sensingAct_keeps _ (.refl s)) h
  | rootPllLock => exact keeps_of_next (pllLockAct_keeps (.refl s)) h
  | bootFirmwareDone patch flashOk bistFail => exact keeps_of_next (bootDoneAct_keeps _ _ _ (.refl s)) h
  | configToReady dram => exact keeps_of_next (readyAct_keeps _ (.refl s)) h
  | clockFault => exact keeps_of_next (clockFaultAct_keeps (.refl s)) h
  | supplyReset m powerOnLevel => exact keeps_of_next (supplyResetAct_keeps _ _ (.refl s)) h
  | watchdogExpiry => exact keeps_of_next (.ite (.refl s) (resetAll_keeps _ (.refl s))) h
  | resetN widthNs => exact keeps_of_next (resetPinAct_keeps _ (.refl s)) h
  | reset port arg => exact keeps_of_write (fun _ => resetCommand_keeps _) h
  | encoderEdge n a b held t => exact keeps_of_next (encoderEdgeAct_keeps _ _ _ _ _ (.refl s)) h
  | encTimeout n => exact keeps_of_next (.ite (loseEncoder_keeps _ (.refl s)) (.refl s)) h
  | triggerEdge n rising t => exact keeps_of_next (triggerAct_keeps _ _ _ (.refl s)) h
  | ringPosSample node seq pos vel stime => exact keeps_of_next (ringPosAct_keeps _ _ _ _ _ (.refl s)) h
  | ringPosStale => exact keeps_of_next (ringStaleAct_keeps (.refl s)) h
  | ringPosPublish => exact keeps_of_next (publishAct_keeps (.refl s)) h
  | observerSample => exact keeps_of_next (observerAct_keeps (.refl s)) h
  | coastLimit => exact keeps_of_next (.ite (posReport_keeps _ (.upd rfl (.refl s))) (.refl s)) h
  | changeover port v => exact keeps_of_write (fun _ => changeoverAct_keeps) h
  | srcPrimaryWrite port v => exact keeps_of_write (fun _ => srcPrimaryAct_keeps _) h
  | srcSecondaryWrite port v => exact keeps_of_write (fun _ => srcSecondaryAct_keeps _) h
  | encConfigWrite port n f v => exact keeps_of_write (fun _ => encConfigAct_keeps _ _ _) h
  | ringPosNodeWrite port v => exact keeps_of_write (fun _ => ringPosNodeAct_keeps _) h
  | lineLock c => exact keeps_of_next (lineLockAct_keeps _ (.refl s)) h
  | lineFire c => exact keeps_of_next (lineFireAct_keeps _ (.refl s)) h
  | planningInterval => exact keeps_of_next (planningAct_keeps (.refl s)) h
  | speedLimPeriod => exact keeps_of_next (pwmStart_keeps (.refl s)) h
  | speedLimFreqWrite port v => exact keeps_of_write (fun _ => speedLimFreqAct_keeps _) h
  | buildStart c => exact keeps_of_next (buildStartAct_keeps _ (.refl s)) h
  | feedFetch c => exact keeps_of_next (feedFetchAct_keeps _ (.refl s)) h
  | feedLineReady c ecc => exact keeps_of_next (feedReadyAct_keeps _ _ (.refl s)) h
  | feedTimeout c => exact keeps_of_next (feedTimeoutAct_keeps _ (.refl s)) h
  | stitchCommit port e => exact keeps_of_write (fun _ => requestCommit_keeps _ _) h
  | shapeCommit port e => exact keeps_of_write (fun _ => requestCommit_keeps _ _) h
  | tileCommit port e => exact keeps_of_write (fun _ => requestCommit_keeps _ _) h
  | waveCommit port e => exact keeps_of_write (fun _ => requestCommit_keeps _ _) h
  | foldDone e => exact keeps_of_next (foldDoneAct_keeps _ (.refl s)) h
  | shadowSyncDone e tbl => exact keeps_of_next (syncDoneAct_keeps _ _ (.refl s)) h
  | takeoverCopyDone g ok => exact keeps_of_next (copyDoneAct_keeps _ _ (.refl s)) h
  | takeoverCommand port e => exact keeps_of_write (fun _ => takeoverAct_keeps _) h
  | idleFrameHeader c => exact keeps_of_next (idleHeaderAct_keeps _ (.refl s)) h
  | backchannelFrame c bytes => exact keeps_of_next (backchannelAct_keeps _ _ (.refl s)) h
  | backchannelSilent c => exact keeps_of_next (silentAct_keeps _ (.refl s)) h
  | driveFrameOut c => exact keeps_of_next (driveOutAct_keeps _ (.refl s)) h
  | driveFrameIn c bytes t => exact keeps_of_next (driveInAct_keeps _ _ _ (.refl s)) h
  | headCareRound => exact keeps_of_next (headCareAct_keeps (.refl s)) h
  | probeScore e parityError => exact keeps_of_next (probeScoreAct_keeps _ _ (.refl s)) h
  | learnStart port e => exact keeps_of_write (fun _ => learnStartAct_keeps _) h
  | learnCancel port e => exact keeps_of_write (fun _ => learnCancelAct_keeps _) h
  | learnScanEnd e => exact keeps_of_next (learnEndAct_keeps _ (.refl s)) h
  | healthEnWrite port e v => exact keeps_of_write (fun _ => healthEnAct_keeps _ _) h
  | healthMapWrite port e ofs data => exact keeps_of_next (writeBlock_keeps _ _ _ _ _ _ _ (fun _ => healthMapAct_keeps _ _ _) (.refl s)) h
  | loopSample l ecc slot => exact keeps_of_next (loopSampleAct_keeps _ _ _ (.refl s)) h
  | logWrite => exact keeps_of_next (logWriteAct_keeps (.refl s)) h
  | logEnWrite port v => exact keeps_of_write (fun _ => logEnAct_keeps _) h
  | loopHandover port l => exact keeps_of_write (fun _ => handoverAct_keeps _) h
  | loopHold port l => exact keeps_of_write (fun _ => holdAct_keeps _ _) h
  | loopRelease port l => exact keeps_of_write (fun _ => holdAct_keeps _ _) h
  | loopEnWrite port l v => exact keeps_of_write (fun _ => loopEnAct_keeps _ _) h
  | sectionWrite port slot sub ofs data => exact keeps_of_next (sectionWrite_keeps _ _ _ _ _ (.refl s)) h
  | mr4Poll r rate aboveNominal overTemp => exact keeps_of_next (mr4Act_keeps _ _ _ _ (.refl s)) h
  | memoryReadDone addr ecc mapEcc => exact keeps_of_next (memoryReadAct_keeps _ _ _ (.refl s)) h
  | patrolScrub r frame block ecc => exact keeps_of_next (patrolAct_keeps _ _ _ _ (.refl s)) h
  | spareBringupDone ok0 ok1 => exact keeps_of_next (bringupAct_keeps _ _ (.refl s)) h
  | migPageSwitch badBlocks => exact keeps_of_next (pageSwitchAct_keeps _ (.refl s)) h
  | migrationEnd => exact keeps_of_next (migrationEndAct_keeps (.refl s)) h
  | map port => exact keeps_of_write (fun _ => mapAct_keeps _) h
  | unmap port => exact keeps_of_write (fun _ => mapAct_keeps _) h
  | retire port => exact keeps_of_write (fun _ => mapAct_keeps _) h
  | clearPoison port => exact keeps_of_write (fun _ => mapAct_keeps _) h
  | pdTimer r => exact keeps_of_next (pdAct_keeps _ (.refl s)) h
  | srTimer r => exact keeps_of_next (srAct_keeps _ (.refl s)) h
  | selfRefreshExit r => exact keeps_of_next (srExitAct_keeps _ (.refl s)) h
  | initDone => exact keeps_of_next (initDoneAct_keeps (.refl s)) h
  | sramClearDone => exact keeps_of_next (sramClearAct_keeps (.refl s)) h
  | sramAccessGrant reqs => exact execSramAccessGrant_keeps h
  | dmaStart port n => exact keeps_of_write (fun _ => dmaStartAct_keeps _) h
  | dmaPause port n => exact keeps_of_write (fun _ => dmaPauseAct_keeps _) h
  | dmaUnpause port n => exact keeps_of_write (fun _ => dmaUnpauseAct_keeps _) h
  | dmaAbort port n => exact keeps_of_write (fun _ => dmaAbortAct_keeps _) h
  | dmaChannelRun => exact keeps_of_next (dmaRunAct_keeps (.refl s)) h
  | dmaBurstDone n ecc => exact keeps_of_next (burstAct_keeps _ _ (.refl s)) h
  | busTimeout n side => exact keeps_of_next (busTimeoutAct_keeps _ _ (.refl s)) h
  | dmaBlockComplete n => exact keeps_of_next (blockCompleteAct_keeps _ (.refl s)) h
  | dmaDescriptorLoad n ecc => exact keeps_of_next (descriptorAct_keeps _ _ (.refl s)) h
  | dmaCommitRequest n => exact keeps_of_next (commitRequestAct_keeps _ (.refl s)) h
  | dmaDoneClear port v => exact keeps_of_write (fun _ => doneClearAct_keeps _) h
  | rbWrWrite port r v => exact keeps_of_write (fun _ => rbWrAct_keeps _ _) h
  | rbGeometryWrite port r f v => exact keeps_of_write (fun _ => geometryAct_keeps _ _ _) h
  | lineSegment p d => exact keeps_of_next (datagramAct_keeps _ _ (.refl s)) h
  | absentLines p d => exact keeps_of_next (datagramAct_keeps _ _ (.refl s)) h
  | stagingSramWrite p d => exact keeps_of_next (datagramAct_keeps _ _ (.refl s)) h
  | segmentWriteDone r line seg => exact keeps_of_next (segmentDoneAct_keeps _ _ _ (.refl s)) h
  | rsGapTimeout r ecc => exact keeps_of_next (gapTimeoutAct_keeps _ _ (.refl s)) h
  | statusDatagram r => exact keeps_of_next (statusAct_keeps _ (.refl s)) h
  | arpRequest p frame srcIp targetIp => exact keeps_of_next (arpAct_keeps _ _ _ _ (.refl s)) h
  | neighbourSolicitation p frame srcIp targetIp => exact keeps_of_next (solicitAct_keeps _ _ _ _ (.refl s)) h
  | linkDown p => exact keeps_of_next (linkDownAct_keeps _ (.refl s)) h
  | fecUncorr p codewords => exact keeps_of_next (fecAct_keeps _ _ (.refl s)) h
  | rsEnWrite port r v => exact keeps_of_write (fun _ => rsEnAct_keeps _ _) h
  | ringFrameForward k f => exact keeps_of_next (forwardAct_keeps _ _ (.refl s)) h
  | ringInjWait k => exact keeps_of_next (injectAct_keeps _ (.refl s)) h
  | ringDictRead req => exact keeps_of_next (reqGate_keeps _ _ _ (fun _ => ringReadAct_keeps _) (.refl s)) h
  | ringDictWrite req => exact keeps_of_next (reqGate_keeps _ _ _ (fun _ => ringWriteAct_keeps _) (.refl s)) h
  | announceSend => exact keeps_of_next (announceSendAct_keeps (.refl s)) h
  | announceReceive src nonce => exact keeps_of_next (announceReceiveAct_keeps _ _ (.refl s)) h
  | annTimeout => exact keeps_of_next (.ite (addrConflict_keeps (.refl s)) (.refl s)) h
  | ringAbsent => exact keeps_of_next (.ite (.upd rfl (.refl s)) (.refl s)) h
  | laneDown k => exact keeps_of_next (laneDownAct_keeps _ (.refl s)) h
  | ringHeal down => exact keeps_of_next (ringHealAct_keeps _ (.refl s)) h
  | linkStateSend => exact keeps_of_next (.ite (linkStateSendAct_keeps (.refl s)) (.refl s)) h
  | linkStateReceive k up => exact keeps_of_next (linkStateAct_keeps _ _ (.refl s)) h
  | delayReqSend => exact keeps_of_next (delayReqSendAct_keeps (.refl s)) h
  | delayReqReceive k src seq t2 => exact keeps_of_next (delayReqAct_keeps _ _ _ (.refl s)) h
  | delayRespReceive k seq t2 t3 t4 => exact keeps_of_next (delayRespAct_keeps _ _ _ _ _ (.refl s)) h
  | syncSend => exact keeps_of_next (syncSendAct_keeps (.refl s)) h
  | syncReceive k src seq hops origin correction ti => exact keeps_of_next (syncReceiveAct_keeps _ _ _ _ _ _ _ (.refl s)) h
  | syncLost => exact keeps_of_next (syncLostAct_keeps (.refl s)) h
  | usdoDownload node index sub sizeGiven data => exact keeps_of_next (usdoGate_keeps _ _ (fun _ => downloadAct_keeps _ _ _) (.refl s)) h
  | usdoUpload node index sub len => exact keeps_of_next (usdoGate_keeps _ _ (fun _ => uploadAct_keeps _ _) (.refl s)) h
  | nmtStart => exact keeps_of_next (nmtSet_keeps _ (.refl s)) h
  | nmtStop => exact keeps_of_next (nmtSet_keeps _ (.refl s)) h
  | nmtEnterPreOperational => exact keeps_of_next (nmtSet_keeps _ (.refl s)) h
  | nmtResetNode => exact keeps_of_next (nmtReset_keeps (.refl s)) h
  | nmtResetCommunication => exact keeps_of_next (nmtReset_keeps (.refl s)) h
  | heartbeat => exact keeps_of_next (heartbeatAct_keeps (.refl s)) h
  | busOffRecovery => exact keeps_of_next (recoveryAct_keeps (.refl s)) h
  | lhpRead cmd => exact keeps_of_next (lhpGate_keeps _ (fun _ => lhpReadAct_keeps _) (.refl s)) h
  | lhpWrite cmd => exact keeps_of_next (lhpGate_keeps _ (fun _ => lhpWriteAct_keeps _) (.refl s)) h
  | configWrite port index sub ofs data => exact keeps_of_next (writeOn_keeps _ _ _ _ (.refl s)) h
  | summaryRead port ofs len => exact keeps_of_next (readOn_keeps _ _ _ _ (.refl s)) h
  | arm port arg => exact keeps_of_write (fun _ => armCommand_keeps _) h
  | start port arg => exact keeps_of_write (fun _ => startCommand_keeps _) h
  | pageStart c => exact keeps_of_next (pageStartAct_keeps _ (.refl s)) h
  | stop port arg => exact keeps_of_write (fun _ => stopCommand_keeps _) h
  | haltEntry => exact keeps_of_next (haltAct_keeps (.refl s)) h
  | abort port arg => exact keeps_of_write (fun _ => abortCommand_keeps _) h
  | release port arg => exact keeps_of_write (fun _ => releaseCommand_keeps _) h
  | store port arg => exact keeps_of_write (fun _ => storeCommand_keeps _) h
  | storeEnd verified => exact keeps_of_next (storeEndAct_keeps _ (.refl s)) h
  | restore port => exact keeps_of_next (restoreWrite_keeps _ _ (.refl s)) h
  | restoreDefaults port => exact keeps_of_next (restoreWrite_keeps _ _ (.refl s)) h
  | restoreEnd => exact keeps_of_next (restoreEndAct_keeps (.refl s)) h
  | shutdown port => exact keeps_of_next (shutdownWrite_keeps _ _ (.refl s)) h
  | shutdownImmediate port => exact keeps_of_next (shutdownWrite_keeps _ _ (.refl s)) h
  | shutdownStepEnd => exact keeps_of_next (stepEndAct_keeps (.refl s)) h
  | shutdownBudget => exact keeps_of_next (ignoredReset_keeps (.refl s)) h
  | countedSettingWrite port index sub v => exact execCountedSettingWrite_keeps h
  | countedChangeDone index sub => exact keeps_of_next (countedDoneAct_keeps _ (.refl s)) h
  | configCrcUpdate => exact keeps_of_next (crcAct_keeps (.refl s)) h
  | faultMessage m => exact keeps_of_next (faultAct_keeps _ (.refl s)) h
  | reactionWindowEnd src => exact keeps_of_next (.upd rfl (.refl s)) h
  | stickyClear port src v => exact keeps_of_write (fun _ => stickyClearAct_keeps _) h
  | clearAll port v => exact keeps_of_write (fun _ => clearAllAct_keeps) h
  | lostInReactionClear port v => exact keeps_of_write (fun _ => lostClearAct_keeps) h
  | aliveToggle => exact keeps_of_next (aliveAct_keeps (.refl s)) h
  | dieTempRound temp raw => exact keeps_of_next (dieRoundAct_keeps _ _ (.refl s)) h
  | dieTrip => exact keeps_of_next (tripAct_keeps (.refl s)) h
  | supplyWarn m mV => exact keeps_of_next (supplyWarnAct_keeps _ _ (.refl s)) h
  | supplyRecover => exact keeps_of_next (supplyRecoverAct_keeps (.refl s)) h
  | domReqWrite port d v => exact keeps_of_write (fun _ => domReqAct_keeps _ _) h
  | domPowerUpDone d bistFail => exact keeps_of_next (powerUpAct_keeps _ _ (.refl s)) h
  | domFail d => exact keeps_of_next (domFailAct_keeps _ (.refl s)) h
  | domPowerDownDone d => exact keeps_of_next (powerDownAct_keeps _ (.refl s)) h
  | otpProgram port vppPin => exact keeps_of_next (otpWrite_keeps _ _ _ (.refl s)) h
  | otpSeal port vppPin => exact keeps_of_next (otpWrite_keeps _ _ _ (.refl s)) h
  | otpReinforce port vppPin => exact keeps_of_next (otpWrite_keeps _ _ _ (.refl s)) h
  | otpSense port => exact keeps_of_next (otpWrite_keeps _ _ _ (.refl s)) h
  | otpOpComplete failBit weak => exact keeps_of_next (otpCompleteAct_keeps _ _ (.refl s)) h
  | calCmd port v => exact keeps_of_write (fun _ => calCmdAct_keeps _) h
  | calStart k => exact keeps_of_next (calStartAct_keeps _ (.refl s)) h
  | calComplete k res => exact keeps_of_next (calCompleteAct_keeps _ _ (.refl s)) h
  | finupRun p => exact keeps_of_next (mapWrite_keeps _ _ _ (.refl s)) h
  | finupStop p => exact keeps_of_next (mapWrite_keeps _ _ _ (.refl s)) h
  | softTrig p => exact keeps_of_next (mapWrite_keeps _ _ _ (.refl s)) h
  | resetBuf p => exact keeps_of_next (mapWrite_keeps _ _ _ (.refl s)) h
  | statusRead p => exact keeps_of_next (mapRead_keeps _ _ (.refl s)) h
  | frameErrCntRead p => exact keeps_of_next (mapRead_keeps _ _ (.refl s)) h
  | skipCntRead p => exact keeps_of_next (mapRead_keeps _ _ (.refl s)) h
  | finupRegisterWrite p w v => exact keeps_of_next (mapWrite_keeps _ _ _ (.refl s)) h
  | waveDataWrite p v => exact keeps_of_next (mapWrite_keeps _ _ _ (.refl s)) h
  | delayWrite p k v => exact keeps_of_next (mapWrite_keeps _ _ _ (.refl s)) h
  | finupImageFrame p frame payload => exact keeps_of_next (.ite (imageFrame_keeps _ _ _ (.refl s)) (.refl s)) h
  | endOfPage p => exact keeps_of_next (.ite (endPageFrame_keeps _ (.refl s)) (.refl s)) h
  | loadReady p => exact keeps_of_next (loadReadyAct_keeps _ (.refl s)) h
  | prbsSelWrite port v => exact keeps_of_write (fun _ => prbsSelAct_keeps _) h
  | laneUp k => exact keeps_of_next (laneUpAct_keeps _ (.refl s)) h
  | linkUp p anDone => exact keeps_of_next (linkUpAct_keeps _ _ (.refl s)) h
  | driveBlockLockLost c => exact keeps_of_next (.ite (rxDown_keeps _ (.refl s)) (.refl s)) h
  | canBusError tec rec => exact keeps_of_next (busErrorAct_keeps _ _ (.refl s)) h
  | lhpRegisterWrite reg v => exact keeps_of_next (lhpGate_keeps _ (fun _ => lhpRegisterAct_keeps _ _) (.refl s)) h
  | prbsLock errors => exact keeps_of_next (prbsLockAct_keeps _ (.refl s)) h

/-- A step keeps the form of the state: the queue that it takes its command from is no part of it. -/
theorem step_keeps_form (h : step s = .next t) : (Memory.wf s.mem = true → Memory.wf t.mem = true) ∧
    (rising s.dict → rising t.dict) ∧ (s.time < 2 ^ 48 → t.time < 2 ^ 48) := by
  unfold step at h
  split at h
  · obtain ⟨-, hmem, hdict, htime, -⟩ := keeps_of_next (endTick_keeps (.refl s)) h
    exact ⟨hmem, hdict, htime⟩
  · obtain ⟨-, hmem, hdict, htime, -⟩ := exec_keeps _ h
    exact ⟨hmem, hdict, htime⟩

theorem dictWf_iff (s : State) : s.dictWf = true ↔ rising s.dict := by simp [State.dictWf, rising]
theorem timeWf_iff (s : State) : s.timeWf = true ↔ s.time < 2 ^ 48 := by simp [State.timeWf]

/-- Settles O3. By what every command and the end of a TICK keep. -/
theorem stepKeepsForm : Obligations.StepKeepsForm := by
  intro s t hmem hdict htime h
  obtain ⟨hmem', hdict', htime'⟩ := step_keeps_form h
  exact ⟨hmem' hmem, (dictWf_iff t).2 (hdict' ((dictWf_iff s).1 hdict)), (timeWf_iff t).2 (htime' ((timeWf_iff s).1 htime))⟩

/-- Settles O5. The queue, the trace and the fuses are part of what every command keeps. -/
theorem commandsKeepQueueTraceFuses : Obligations.CommandsKeepQueueTraceFuses := by
  intro c s t h
  have hk := exec_keeps c h
  exact ⟨hk.queue, hk.sent, hk.bits, hk.seals⟩

end Sys2Proof.Machine
end

section
/-!
SUPPORT. Frames of this node on both rings, and what tracking the high-water mark leaves alone.
-/
namespace Sys2Proof.Machine

variable {s t u : State} {keys keys' : List Nat}

/-! ### The frame -/

/-- A frame that excepts more entries. -/
theorem SameBut.mono (h : SameBut s t keys) (hk : keys ⊆ keys') : SameBut s t keys' :=
  ⟨fun r i j hn => h.1 r i j fun hm => hn (hk hm), h.2⟩

theorem SameBut.rdN (h : SameBut s t keys) {r : Row} {i j : Nat} (hk : rowKey r i j ∉ keys) : t.rdN r i j = s.rdN r i j :=
  congrArg Int.toNat (h.1 r i j hk)

/-! ### Frames on both rings -/

/-- A frame that has left on a lane: the trace and its count. -/
def frameLeft (s : State) (i : Nat) (bytes : List Byte) : State :=
  (s.emit (.ringFrame i bytes false)).count48 E.txFrames i

theorem frameLeft_sameBut (s : State) (i : Nat) (bytes : List Byte) :
    SameBut s (frameLeft s i bytes) [rowKey E.txFrames i 0] := (SameBut.refl s _).wr List.mem_cons_self _

/-- TX_FRAMES is none of the entries that a frame depends on. -/
theorem txFrames_notMem_frameKeys : ∀ i : RingId, ∀ k ∈ frameKeys, k ∉ [rowKey E.txFrames i 0] := by decide

theorem frameLeft_rdN_of_frameKeys (s : State) (i : RingId) (bytes : List Byte) {q : Row} (hq : rowKey q 0 0 ∈ frameKeys) :
    (frameLeft s i bytes).rdN q = s.rdN q :=
  (frameLeft_sameBut s i bytes).rdN (txFrames_notMem_frameKeys i _ hq)

theorem nodeAddr_frameLeft (s : State) (i : RingId) (bytes : List Byte) : nodeAddr (frameLeft s i bytes) = nodeAddr s := by
  simp only [nodeAddr, frameLeft_rdN_of_frameKeys s i bytes (q := E.ringAddrNow) (by simp [frameKeys])]
  rfl

theorem RingsFree.frameLeft (h : RingsFree s) (i : RingId) (bytes : List Byte) : RingsFree (frameLeft s i bytes) := by
  obtain ⟨hon, hup, hdown, hlanes⟩ := h
  refine ⟨hon, hup, hdown, fun k hk => ?_⟩
  have hprbs : prbsOnRing (Machine.frameLeft s i bytes) k = prbsOnRing s k := by
    simp only [prbsOnRing, frameLeft_rdN_of_frameKeys s i bytes (q := E.prbsSel) (by simp [frameKeys]),
      frameLeft_rdN_of_frameKeys s i bytes (q := E.prbsLink) (by simp [frameKeys])]
  rw [hprbs]
  exact hlanes k hk

theorem sendFrame_of_free (h : RingsFree s) (i : RingId) (cls dst seq : Nat) (payload : List Byte) :
    sendFrame s i cls dst seq payload = frameLeft s i (ringFrameBytes cls i dst (nodeAddr s) 0 seq payload) :=
  laneSend_of_free h i _

/-- On free rings a frame for both leaves at once on each: the trace and the two counts change, and nothing else. -/
theorem sendBoth_of_free (h : RingsFree s) (cls dst seq : Nat) (payload : List Byte) :
    sendBoth s cls dst seq payload =
      frameLeft (frameLeft s 0 (ringFrameBytes cls 0 dst (nodeAddr s) 0 seq payload)) 1
        (ringFrameBytes cls 1 dst (nodeAddr s) 0 seq payload) := by
  have hfirst := sendFrame_of_free h 0 cls dst seq payload
  have hsecond := sendFrame_of_free (h.frameLeft 0 (ringFrameBytes cls 0 dst (nodeAddr s) 0 seq payload)) 1 cls dst seq payload
  rw [nodeAddr_frameLeft] at hsecond
  exact (congrArg (fun x => sendFrame x 1 cls dst seq payload) hfirst).trans hsecond

theorem sendBoth_leaves (h : RingsFree s) (cls dst seq : Nat) (payload : List Byte) (hu : u = sendBoth s cls dst seq payload) :
    u.sent = [.ringFrame 1 (ringFrameBytes cls 1 dst (nodeAddr s) 0 seq payload) false,
        .ringFrame 0 (ringFrameBytes cls 0 dst (nodeAddr s) 0 seq payload) false] ++ s.sent ∧
      u.ring = s.ring ∧ u.faultQ = s.faultQ ∧ SameBut s u [rowKey E.txFrames 0 0, rowKey E.txFrames 1 0] := by
  rw [sendBoth_of_free h] at hu
  subst hu
  exact ⟨rfl, rfl, rfl, (frameLeft_sameBut s 0 _).trans (frameLeft_sameBut _ 1 _)⟩

/-! ### The high-water mark -/

/-- A rounded reading draws at most a free value. -/
theorem roundWord_eq (s : State) (x : Rat) : ∃ n, (roundWord s x).2 = { s with fresh := n } := by
  unfold roundWord
  split <;> exact ⟨_, rfl⟩

/-- What tracking the source leaves alone: the encoders, the ring sample, what was sent, and every entry but HWM and
REVERSE_COUNT; faults are only added. -/
structure TracksOnly (s u : State) : Prop where
  same : SameBut s u [rowKey E.hwm 0 0, rowKey E.reverseCount 0 0]
  encs : u.encs = s.encs
  ringPos : u.ringPos = s.ringPos

theorem TracksOnly.refl (s : State) : TracksOnly s s := ⟨SameBut.refl s _, rfl, rfl⟩

theorem trackHwm_tracks (s : State) (x : Int) : TracksOnly s (trackHwm s x) := by
  unfold trackHwm
  have hhwm : SameBut s (s.wr E.hwm (wrap48 x)) [rowKey E.hwm 0 0, rowKey E.reverseCount 0 0] :=
    (SameBut.refl s _).wr (by simp) _
  have hcount : SameBut s (s.count E.reverseCount) [rowKey E.hwm 0 0, rowKey E.reverseCount 0 0] :=
    (SameBut.refl s _).wr (by simp) _
  dsimp only
  split
  · exact ⟨hhwm, rfl, rfl⟩
  · split
    · exact ⟨SameBut.refl s _, rfl, rfl⟩
    · split
      · exact ⟨SameBut.refl s _, rfl, rfl⟩
      · split
        · exact ⟨SameBut.refl s _, rfl, rfl⟩
        · exact ⟨hcount, rfl, rfl⟩

theorem trackSource_tracks (s : State) (k : Nat) : TracksOnly s (trackSource s k) := by
  obtain ⟨n, hn⟩ := roundWord_eq s (srcNow s k)
  obtain ⟨hsame, hencs, hringPos⟩ := trackHwm_tracks { s with fresh := n } ((roundWord s (srcNow s k)).1 + s.rd E.hofs 0)
  have htrack : trackSource s k = trackHwm { s with fresh := n } ((roundWord s (srcNow s k)).1 + s.rd E.hofs 0) :=
    congrArg (fun u => trackHwm u ((roundWord s (srcNow s k)).1 + u.rd E.hofs 0)) hn
  exact htrack ▸ ⟨hsame, hencs, hringPos⟩

theorem sourceMoved_tracks (s : State) (k : Nat) : TracksOnly s (sourceMoved s k) := by
  unfold sourceMoved
  split
  · obtain ⟨hsame, hencs, hringPos⟩ := trackSource_tracks { s with obs := { s.obs with fresh := true } } k
    exact ⟨hsame, hencs, hringPos⟩
  · exact .refl s

end Sys2Proof.Machine
end

section
/-!
CERTIFICATE. Encoder edges, lost encoders, the ring source, and coast (R63 to R68, R71, R89, R96, R107).
-/
namespace Sys2Proof.Machine

variable {s : State} {n : Fin 4} {a b : Bool} {held t : Nat}

theorem exec_encoderEdge (s : State) (n : Fin 4) (a b : Bool) (held t : Nat) :
    exec (.encoderEdge n a b held t) s = .next (encoderEdgeAct n a b held t s) := rfl

/-! ### The decoder by the edge -/

/-- The lines of encoder n have changed in a powered DOM_10. -/
def EdgeSeen (s : State) (n : Nat) (a b : Bool) : Prop := s.domOn 10 = true ∧ ¬(a = (s.enc n).a ∧ b = (s.enc n).b)

theorem encoderEdgeAct_short (hedge : EdgeSeen s n a b) (h : held < s.rdN E.encFilter n) :
    encoderEdgeAct n a b held t s = s := by
  obtain ⟨hon, hne⟩ := hedge
  simp [encoderEdgeAct, hon, hne, h]

theorem encoderEdgeAct_legal (hedge : EdgeSeen s n a b) (h : s.rdN E.encFilter n ≤ held) (hmode : s.rdN E.encMode n ≠ 0)
    (hlegal : s.rdN E.encMode n = 3 ∨ a = (s.enc n).a ∨ b = (s.enc n).b) :
    encoderEdgeAct n a b held t s = acceptedEdge s n a b t := by
  obtain ⟨hon, hne⟩ := hedge
  have hnot : ¬((a ≠ (s.enc n).a ∧ b ≠ (s.enc n).b) ∧ s.rdN E.encMode n ≠ 3) := by tauto
  simp only [encoderEdgeAct, hon, Nat.not_lt.2 h, hmode]
  simp [hne, hnot]

theorem encoderEdgeAct_illegal (hedge : EdgeSeen s n a b) (h : s.rdN E.encFilter n ≤ held) (hmode : s.rdN E.encMode n ≠ 0)
    (hmode3 : s.rdN E.encMode n ≠ 3) (ha : a ≠ (s.enc n).a) (hb : b ≠ (s.enc n).b) :
    encoderEdgeAct n a b held t s =
      (illegalEdge s n t).setEnc n { (illegalEdge s n t).enc n with a := a, b := b } := by
  obtain ⟨hon, hne⟩ := hedge
  simp only [encoderEdgeAct, hon, Nat.not_lt.2 h, hmode]
  simp [ha, hb, hmode3]

/-! ### An accepted edge -/

/-- The state of encoder n after an accepted edge: its count, its timestamp and its decoder (R63, R68, R90). -/
def countedEdge (s : State) (n : Nat) (a b : Bool) (t : Nat) : State :=
  ((s.setEnc n { s.enc n with
      a := a, b := b, run := min 16 ((s.enc n).run + 1),
      valid := (s.enc n).valid || min 16 ((s.enc n).run + 1) == 16 }).wr E.encCount
    (signed 48 (wrap48 (s.rd E.encCount n +
      (if s.rd E.encDir n = 1 then -edgeCounts (s.rdN E.encMode n) (s.enc n).a a b
        else edgeCounts (s.rdN E.encMode n) (s.enc n).a a b)))) n).wr E.encLastTs t n

theorem lineEdge_tracks (s : State) (p t : Nat) : TracksOnly s (lineEdge s p t) := by
  unfold lineEdge
  dsimp only
  split
  · exact ⟨SameBut.refl s _, rfl, rfl⟩
  · exact .refl s

theorem TracksOnly.trans {s t u : State} (h : TracksOnly s t) (k : TracksOnly t u) : TracksOnly s u :=
  ⟨(h.same.trans k.same).mono (by simp), k.encs.trans h.encs, k.ringPos.trans h.ringPos⟩

theorem acceptedEdge_tracks (s : State) (n : Nat) (a b : Bool) (t : Nat) :
    TracksOnly (countedEdge s n a b t) (acceptedEdge s n a b t) := by
  unfold acceptedEdge
  refine TracksOnly.trans (t := if n < 3 then lineEdge (countedEdge s n a b t) n t else countedEdge s n a b t) ?_
    (sourceMoved_tracks _ n)
  split
  · exact lineEdge_tracks _ n t
  · exact .refl _

/-- The counts of an encoder are none of the entries that tracking writes. -/
theorem encRows_notMem_trackKeys : ∀ n : Fin 4, ∀ r ∈ [E.encLastTs, E.encCount, E.encErrors],
    rowKey r n 0 ∉ [rowKey E.hwm 0 0, rowKey E.reverseCount 0 0] := by decide

theorem acceptedEdge_counts (s : State) (n : Fin 4) (a b : Bool) (t : Nat) (u : State) (hu : u = acceptedEdge s n a b t) :
    u.rd E.encLastTs n = t ∧
      u.rd E.encCount n = signed 48 (wrap48 (s.rd E.encCount n +
        (if s.rd E.encDir n = 1 then -edgeCounts (s.rdN E.encMode n) (s.enc n).a a b
          else edgeCounts (s.rdN E.encMode n) (s.enc n).a a b))) ∧
      (u.enc n).a = a ∧ (u.enc n).b = b ∧ (u.enc n).run = min 16 ((s.enc n).run + 1) ∧
      (u.enc n).valid = ((s.enc n).valid || decide (15 ≤ (s.enc n).run)) ∧
      u.rd E.encErrors n = s.rd E.encErrors n ∧ ∀ x, u.byte x = s.byte x := by
  obtain ⟨hsame, hencs, -⟩ := hu ▸ acceptedEdge_tracks s n a b t
  have henc : u.enc n = (countedEdge s n a b t).enc n := by simp only [State.enc, hencs]
  have hrd : ∀ r ∈ [E.encLastTs, E.encCount, E.encErrors], u.rd r n = (countedEdge s n a b t).rd r n :=
    fun r hr => hsame.1 r n 0 (encRows_notMem_trackKeys n r hr)
  have hvalid : (min 16 ((s.enc n).run + 1) == 16) = decide (15 ≤ (s.enc n).run) := by
    rw [Bool.eq_iff_iff]
    simp
  have hkey : ∀ r ∈ [E.encCount, E.encErrors], rowKey r n 0 ≠ rowKey E.encLastTs n 0 := by
    simp [rowKey, E.encCount, E.encLastTs, E.encErrors]
  have herr : rowKey E.encErrors n 0 ≠ rowKey E.encCount n 0 := by simp [rowKey, E.encCount, E.encErrors]
  rw [henc, hrd _ (by simp), hrd E.encCount (by simp), hrd E.encErrors (by simp)]
  refine ⟨by simp [countedEdge], ?_, by simp [countedEdge], by simp [countedEdge], by simp [countedEdge], ?_, ?_, hsame.2⟩
  · simp [countedEdge, State.rd_wr _ _ _ _ _ _ _ _ (hkey E.encCount (by simp))]
  · simp [countedEdge, hvalid]
  · simp [countedEdge, State.rd_wr _ _ _ _ _ _ _ _ (hkey E.encErrors (by simp)), State.rd_wr _ _ _ _ _ _ _ _ herr]

/-! ### An illegal transition -/

/-- The observer sees that source k is lost when k is the active one (R89, R91). -/
theorem lost_of_active (s : State) (k : Nat) :
    (if s.obs.active = k then { s with obs := { s.obs with lost := true } } else s) =
      { s with obs := { s.obs with lost := s.obs.lost || s.obs.active == k } } := by
  by_cases h : s.obs.active = k
  · simp [h]
  · rw [if_neg h, beq_eq_false_iff_ne.2 h, Bool.or_false]

/-- A lost encoder is not valid, and is reported; the observer sees the loss of its source (R89). -/
theorem loseEncoder_eq (s : State) (n : Nat) : loseEncoder s n =
    { s.setEnc n { s.enc n with valid := false, run := 0, illegal := [] } with
      obs := { s.obs with lost := s.obs.lost || s.obs.active == n }
      faultQ := s.faultQ ++ [⟨0xB8, 2, s.rdN E.posEst⟩] } :=
  congrArg (fun u => posReport u 2) (lost_of_active (s.setEnc n { s.enc n with valid := false, run := 0, illegal := [] }) n)

theorem loseEncoder_leaves (s : State) (n : Nat) (u : State) (hu : u = loseEncoder s n) :
    (u.enc n).valid = false ∧ (u.enc n).run = 0 ∧ u.faultQ = s.faultQ ++ [⟨0xB8, 2, s.rdN E.posEst⟩] ∧ SameBut s u [] ∧
      u.obs.lost = (s.obs.lost || s.obs.active == n) := by
  rw [loseEncoder_eq] at hu
  subst hu
  exact ⟨by simp [State.enc, State.setEnc], by simp [State.enc, State.setEnc], rfl, SameBut.refl s [], rfl⟩

/-- An illegal transition is counted and reported; the fourth within 1 ms also loses the encoder. -/
theorem illegalEdge_leaves (s : State) (n t : Nat) : ∃ v : State, v.rd E.encErrors n = sat32 (s.rd E.encErrors n + 1) ∧
    v.faultQ = s.faultQ ++ [⟨0xB8, 1, s.rdN E.posEst⟩] ∧ SameBut s v [rowKey E.encErrors n 0] ∧
    (illegalEdge s n t = v ∨ illegalEdge s n t = loseEncoder v n) := by
  have hpos : rowKey E.posEst 0 0 ≠ rowKey E.encErrors n 0 := by simp [rowKey, E.posEst, E.encErrors]; omega
  refine ⟨posReport ((s.setEnc n { s.enc n with run := 0, illegal := (t :: (s.enc n).illegal).take 3 }).count E.encErrors n) 1,
    ?_, ?_, (SameBut.refl s _).wr List.mem_cons_self _, ?_⟩
  · simp [posReport, State.count]
  · simp [posReport, State.count, State.rdN_wr _ _ _ _ _ _ _ _ hpos]
  · exact (ite_eq_or_eq _ _ _).symm

theorem illegalEdge_reports (s : State) (n : Fin 4) (t : Nat) (u : State) (hu : u = illegalEdge s n t) :
    u.rd E.encErrors n = min (s.rd E.encErrors n + 1) (2 ^ 32 - 1) ∧
      u.rd E.encCount n = s.rd E.encCount n ∧ u.rd E.encLastTs n = s.rd E.encLastTs n ∧
      (s.faultQ ++ [⟨0xB8, 1, s.rdN E.posEst⟩]) <+: u.faultQ ∧ ∀ x, u.byte x = s.byte x := by
  obtain ⟨v, herr, hfaults, hsame, hcase⟩ := illegalEdge_leaves s n t
  have hcount : rowKey E.encCount n 0 ∉ [rowKey E.encErrors n 0] := by simp [rowKey, E.encCount, E.encErrors]
  have hts : rowKey E.encLastTs n 0 ∉ [rowKey E.encErrors n 0] := by simp [rowKey, E.encLastTs, E.encErrors]
  have hv : SameBut v u [] ∧ v.faultQ <+: u.faultQ := by
    rcases hcase with h | h
    · rw [hu, h]
      exact ⟨SameBut.refl v [], List.prefix_rfl⟩
    · obtain ⟨-, -, hlost, hlsame, -⟩ := loseEncoder_leaves v n u (hu.trans h)
      exact ⟨hlsame, hlost ▸ List.prefix_append ..⟩
  obtain ⟨hvsame, hvfaults⟩ := hv
  refine ⟨?_, ?_, ?_, hfaults ▸ hvfaults, fun x => (hvsame.2 x).trans (hsame.2 x)⟩
  · rw [hvsame.1 _ _ _ List.not_mem_nil, herr, sat32_eq_min]
  · rw [hvsame.1 _ _ _ List.not_mem_nil, hsame.1 _ _ _ hcount]
  · rw [hvsame.1 _ _ _ List.not_mem_nil, hsame.1 _ _ _ hts]

/-! ### The ring source -/

/-- The state in which the loss of the ring source leaves the observer and the collector's queue (R71). -/
def ringLost (s : State) : State :=
  { s with
    ringPos := { s.ringPos with valid := false }
    faultQ := s.faultQ ++ [⟨0xB8, 8, s.rdN E.posEst⟩]
    obs := { s.obs with lost := s.obs.lost || s.obs.active == 4 } }

theorem something_to_follow (h : stopped s = false ∨ ∃ n : Fin 4, encValid s n = true) :
    nothingToFollow (ringLost s) = false := by
  rcases h with h | ⟨n, hn⟩
  · have : stopped (ringLost s) = false := h
    simp [nothingToFollow, this]
  · have hvalid : srcValid (ringLost s) n = true := by
      have : encValid (ringLost s) n = true := hn
      simp [srcValid, n.isLt, this]
    have : anyValid (ringLost s) = true := List.any_eq_true.2 ⟨n, by simp; omega, hvalid⟩
    simp [nothingToFollow, this]

theorem ringStaleAct_lost (hon : s.domOn 10 = true) (hvalid : s.ringPos.valid = true)
    (h : stopped s = false ∨ ∃ n : Fin 4, encValid s n = true) : ringStaleAct s = ringLost s := by
  have hlost := lost_of_active (posReport { s with ringPos := { s.ringPos with valid := false } } 8) 4
  simp only [ringStaleAct, hon, hvalid, hlost]
  exact if_neg (Bool.eq_false_iff.1 (something_to_follow h))

/-- Settles O6. Edges by the filter and the mode; the losses by `loseEncoder` and `ringLost`. -/
theorem encodersCountAndAreLost : Obligations.EncodersCountAndAreLost := by
  refine ⟨fun n a b held t s hon hne => ?_, fun n s hon hvalid hstopped => ?_, fun s hon hvalid hfollow => ?_,
    fun s hon hactive hlimited hmax => ?_⟩
  · have hedge : EdgeSeen s n a b := ⟨hon, hne⟩
    refine ⟨fun hheld => ?_, fun hheld hmode => ⟨fun hlegal => ?_, fun hmode3 ha hb => ?_⟩⟩
    · rw [exec_encoderEdge, encoderEdgeAct_short hedge hheld]
    · exact ⟨_, exec_encoderEdge .., acceptedEdge_counts s n a b t _ (encoderEdgeAct_legal hedge hheld hmode hlegal)⟩
    · refine ⟨_, exec_encoderEdge .., ?_⟩
      rw [encoderEdgeAct_illegal hedge hheld hmode hmode3 ha hb]
      exact illegalEdge_reports s n t (illegalEdge s n t) rfl
  · have hexec : exec (.encTimeout n) s =
        .next (if s.domOn 10 && encValid s n && !stopped s then loseEncoder s n else s) := rfl
    simp only [hon, hvalid, hstopped, Bool.and_self, Bool.not_false, if_true] at hexec
    exact ⟨_, hexec, loseEncoder_leaves s n _ rfl⟩
  · have hexec : exec .ringPosStale s = .next (ringStaleAct s) := rfl
    rw [ringStaleAct_lost hon hvalid hfollow] at hexec
    exact ⟨_, hexec, rfl, rfl, rfl, SameBut.refl s []⟩
  · have hexec : exec .coastLimit s =
        .next (if s.domOn 10 && s.obs.active == 6 && !s.obs.limited && s.rd E.coastMax != 0 then
          posReport { s with obs := { s.obs with limited := true } } 6 else s) := rfl
    rw [hexec, if_pos (by simp [hon, hactive, hlimited, hmax])]
    rfl

end Sys2Proof.Machine
end

section
/-!
SUPPORT. What an answer and CONFIG_CRC leave alone, for the fields and units that accepted writes speak of.
-/
namespace Sys2Proof.Machine

variable (s : State) (p : Port) (code : Nat) (l : List Byte) (b : Bool) (k : Nat)

@[simp] theorem State.answer_dev : (s.answer p code l).dev = s.dev := rfl
@[simp] theorem State.answer_ringPos : (s.answer p code l).ringPos = s.ringPos := rfl
@[simp] theorem State.answer_obs : (s.answer p code l).obs = s.obs := rfl
@[simp] theorem State.answer_store : (s.answer p code l).store = s.store := rfl
@[simp] theorem State.answer_otp : (s.answer p code l).otp = s.otp := rfl
@[simp] theorem State.answer_memory : (s.answer p code l).memory = s.memory := rfl
@[simp] theorem State.answer_ring : (s.answer p code l).ring = s.ring := rfl
@[simp] theorem State.answer_vern : (s.answer p code l).vern = s.vern := rfl
@[simp] theorem State.answer_chans : (s.answer p code l).chans = s.chans := rfl
@[simp] theorem State.answer_engs : (s.answer p code l).engs = s.engs := rfl
@[simp] theorem State.answer_secs : (s.answer p code l).secs = s.secs := rfl
@[simp] theorem State.answer_shut : (s.answer p code l).shut = s.shut := rfl
@[simp] theorem State.answer_job : (s.answer p code l).job = s.job := rfl
@[simp] theorem State.answer_gov : (s.answer p code l).gov = s.gov := rfl
@[simp] theorem State.answer_dict : (s.answer p code l).dict = s.dict := rfl
@[simp] theorem State.answer_mem : (s.answer p code l).mem = s.mem := rfl
@[simp] theorem State.answer_acted : (s.answer p code l).acted = s.acted := rfl
@[simp] theorem State.answer_enc : (s.answer p code l).enc k = s.enc k := rfl
@[simp] theorem State.answer_chan : (s.answer p code l).chan k = s.chan k := rfl
@[simp] theorem State.answer_eng : (s.answer p code l).eng k = s.eng k := rfl
@[simp] theorem State.answer_loop : (s.answer p code l).loop k = s.loop k := rfl
@[simp] theorem State.answer_sec : (s.answer p code l).sec k = s.sec k := rfl
@[simp] theorem State.answer_stream : (s.answer p code l).stream k = s.stream k := rfl
@[simp] theorem State.answer_rank : (s.answer p code l).rank k = s.rank k := rfl
@[simp] theorem State.answer_cal : (s.answer p code l).cal k = s.cal k := rfl
@[simp] theorem State.answer_persona : (s.answer p code l).persona k = s.persona k := rfl
@[simp] theorem State.answer_domState : (s.answer p code l).domState k = s.domState k := rfl
@[simp] theorem State.answer_domOn : (s.answer p code l).domOn k = s.domOn k := rfl
@[simp] theorem State.answer_rdN (r : Row) (i j : Nat) : (s.answer p code l).rdN r i j = s.rdN r i j := rfl

@[simp] theorem withStale_ringPos : (s.withStale b).ringPos = s.ringPos := rfl
@[simp] theorem withStale_obs : (s.withStale b).obs = s.obs := rfl
@[simp] theorem withStale_otp : (s.withStale b).otp = s.otp := rfl
@[simp] theorem withStale_memory : (s.withStale b).memory = s.memory := rfl
@[simp] theorem withStale_ring : (s.withStale b).ring = s.ring := rfl
@[simp] theorem withStale_vern : (s.withStale b).vern = s.vern := rfl
@[simp] theorem withStale_chans : (s.withStale b).chans = s.chans := rfl
@[simp] theorem withStale_engs : (s.withStale b).engs = s.engs := rfl
@[simp] theorem withStale_secs : (s.withStale b).secs = s.secs := rfl
@[simp] theorem withStale_shut : (s.withStale b).shut = s.shut := rfl
@[simp] theorem withStale_job : (s.withStale b).job = s.job := rfl
@[simp] theorem withStale_gov : (s.withStale b).gov = s.gov := rfl
@[simp] theorem withStale_dict : (s.withStale b).dict = s.dict := rfl
@[simp] theorem withStale_mem : (s.withStale b).mem = s.mem := rfl
@[simp] theorem withStale_acted : (s.withStale b).acted = s.acted := rfl
@[simp] theorem withStale_enc : (s.withStale b).enc k = s.enc k := rfl
@[simp] theorem withStale_chan : (s.withStale b).chan k = s.chan k := rfl
@[simp] theorem withStale_eng : (s.withStale b).eng k = s.eng k := rfl
@[simp] theorem withStale_loop : (s.withStale b).loop k = s.loop k := rfl
@[simp] theorem withStale_sec : (s.withStale b).sec k = s.sec k := rfl
@[simp] theorem withStale_stream : (s.withStale b).stream k = s.stream k := rfl
@[simp] theorem withStale_rank : (s.withStale b).rank k = s.rank k := rfl
@[simp] theorem withStale_cal : (s.withStale b).cal k = s.cal k := rfl
@[simp] theorem withStale_persona : (s.withStale b).persona k = s.persona k := rfl
@[simp] theorem withStale_domState : (s.withStale b).domState k = s.domState k := rfl
@[simp] theorem withStale_domOn : (s.withStale b).domOn k = s.domOn k := rfl

end Sys2Proof.Machine
end

section
/-!
CERTIFICATE. Writes that choose or set up a position source (R92, R97, R617).
-/
namespace Sys2Proof.Machine

variable (s : State) (p : Port)

theorem exec_changeover (v : Nat) : exec (.changeover p v) s =
    .next (writeIf s p (s.superseded noTarget) E.changeover 0 0 v changeoverAct) := rfl
theorem exec_srcPrimaryWrite (v : Nat) : exec (.srcPrimaryWrite p v) s =
    .next (writeIf s p (s.superseded noTarget) E.srcPrimary 0 0 v (srcPrimaryAct v)) := rfl
theorem exec_srcSecondaryWrite (v : Nat) : exec (.srcSecondaryWrite p v) s =
    .next (writeIf s p (s.superseded noTarget) E.srcSecondary 0 0 v (srcSecondaryAct v)) := rfl
theorem exec_encConfigWrite (n : Fin 4) (f : EncField) (v : Nat) : exec (.encConfigWrite p n f v) s =
    .next (writeIf s p (s.superseded noTarget) (encRow f) n 0 v (encConfigAct n f v)) := rfl
theorem exec_ringPosNodeWrite (v : Nat) : exec (.ringPosNodeWrite p v) s =
    .next (writeIf s p (s.superseded noTarget) E.ringPosNode 0 0 v (ringPosNodeAct v)) := rfl

variable {s}

/-- CHANGEOVER stands in no table of stored entries, for it is write-only. -/
theorem storedEntry_changeover : storedEntry E.changeover 0 = false := by decide

/-- CHANGEOVER by the validity of the other configured source (R97). -/
theorem changeoverAct_valid {k : Nat} (hk : k = otherSource s (if s.obs.active < 5 then s.obs.active else s.obs.before))
    (hv : srcValid s k = true) : changeoverAct s = (okCode, { s with obs := { s.obs with change := some k } }) := by
  subst hk
  exact if_pos hv

theorem changeoverAct_invalid {k : Nat} (hk : k = otherSource s (if s.obs.active < 5 then s.obs.active else s.obs.before))
    (hv : ¬srcValid s k = true) : changeoverAct s = (codeSource, s) := by
  subst hk
  exact if_neg hv

theorem encConfigAct_same {n : Fin 4} {f : EncField} {v : Nat} (h : s.rd (encRow f) n = v) :
    encConfigAct n f v s = (okCode, s) := if_pos h

/-- The state after a change of an encoder's setting: the encoder is not valid (R617). -/
def encConfigured (s : State) (n : Nat) (f : EncField) (v : Nat) : State :=
  { (s.wr (encRow f) v n).setEnc n { s.enc n with valid := false, run := 0, illegal := [] } with
    obs := { s.obs with lost := s.obs.lost || s.obs.active == n } }

theorem encConfigured_leaves (s : State) (n : Nat) (f : EncField) (v : Nat) (u : State) (hu : u = encConfigured s n f v) :
    u.enc n = { s.enc n with valid := false, run := 0, illegal := [] } ∧ u.rd (encRow f) n = v ∧ u.faultQ = s.faultQ ∧
      u.obs.active = s.obs.active ∧ u.obs.lost = (s.obs.lost || s.obs.active == n) ∧ u.sent = s.sent ∧
      SameBut s u [rowKey (encRow f) n 0] := by
  subst hu
  exact ⟨State.setEnc_same .., State.rd_wr_same s (encRow f) v n 0, rfl, rfl, rfl, rfl,
    (SameBut.refl s _).wr List.mem_cons_self _⟩

theorem encConfigAct_changed {n : Fin 4} {f : EncField} {v : Nat} (h : ¬s.rd (encRow f) n = v) :
    encConfigAct n f v s = (okCode, encConfigured s n f v) := by
  have hlost := lost_of_active ((s.wr (encRow f) v n).setEnc n { s.enc n with valid := false, run := 0, illegal := [] }) n
  exact (if_neg h).trans (congrArg (Prod.mk okCode) hlost)

theorem ringPosNodeAct_same {v : Nat} (h : s.rd E.ringPosNode = v) : ringPosNodeAct v s = (okCode, s) := if_pos h

/-- The state after a change of RING_POS_NODE: the ring source is not valid until a sample of the new node (R617). -/
def nodeChosen (s : State) (v : Nat) : State :=
  { s.wr E.ringPosNode v with ringPos := {}, obs := { s.obs with lost := s.obs.lost || s.obs.active == 4 } }

theorem nodeChosen_leaves (s : State) (v : Nat) (u : State) (hu : u = nodeChosen s v) :
    u.ringPos = {} ∧ u.rd E.ringPosNode = v ∧ u.obs.lost = (s.obs.lost || s.obs.active == 4) ∧ u.sent = s.sent ∧
      SameBut s u [rowKey E.ringPosNode 0 0] := by
  subst hu
  exact ⟨rfl, State.rd_wr_same s E.ringPosNode v 0 0, rfl, rfl, (SameBut.refl s _).wr List.mem_cons_self _⟩

theorem ringPosNodeAct_changed {v : Nat} (h : ¬s.rd E.ringPosNode = v) :
    ringPosNodeAct v s = (okCode, nodeChosen s v) := by
  have hlost := lost_of_active { s.wr E.ringPosNode v with ringPos := {} } 4
  exact (if_neg h).trans (congrArg (Prod.mk okCode) hlost)

/-- Settles O7. Each write by its meaning; those of an encoder and of the ring node by whether they change the entry. -/
theorem sourceWritesTakeEffect : Obligations.SourceWritesTakeEffect := by
  refine ⟨fun p v s h k hk => ?_, fun p v s h => ?_, fun p v s h => ?_, fun p n f v s h => ?_, fun p v s h => ?_⟩
  · by_cases hv : srcValid s k = true
    · refine ⟨_, exec_changeover s p v, ?_⟩
      beta_reduce
      rw [if_pos hv, writeIf_act_unstored h storedEntry_changeover (changeoverAct_valid hk hv)]
    · refine ⟨_, exec_changeover s p v, ?_⟩
      beta_reduce
      rw [if_neg hv, writeIf_act_refuses h (changeoverAct_invalid hk hv) (by decide)]
  · exact gives_of_writeIf (exec_srcPrimaryWrite s p v) h rfl (by decide) fun b => ⟨b, rfl⟩
  · exact gives_of_writeIf (exec_srcSecondaryWrite s p v) h rfl (by decide) fun b => ⟨b, rfl⟩
  · by_cases hv : s.rd (encRow f) n = v
    · refine gives_of_writeIf (exec_encConfigWrite s p n f v) h (encConfigAct_same hv) (by decide) fun b => ?_
      rw [if_pos hv]
      exact ⟨b, rfl⟩
    · refine gives_of_writeIf (exec_encConfigWrite s p n f v) h (encConfigAct_changed hv) (by decide) fun b => ?_
      rw [if_neg hv]
      obtain ⟨henc, hentry, hfaults, hactive, hlost, hsent, hsame⟩ := encConfigured_leaves s n f v _ rfl
      refine ⟨?_, ?_, ?_, ?_, ?_, ?_, ?_, (hsame.withStale b).answer p okCode []⟩
      all_goals simp [henc, hentry, hfaults, hactive, hlost, hsent]
  · by_cases hv : s.rd E.ringPosNode = v
    · refine gives_of_writeIf (exec_ringPosNodeWrite s p v) h (ringPosNodeAct_same hv) (by decide) fun b => ?_
      rw [if_pos hv]
      exact ⟨b, rfl⟩
    · refine gives_of_writeIf (exec_ringPosNodeWrite s p v) h (ringPosNodeAct_changed hv) (by decide) fun b => ?_
      rw [if_neg hv]
      obtain ⟨hringPos, hentry, hlost, hsent, hsame⟩ := nodeChosen_leaves s v _ rfl
      refine ⟨?_, ?_, ?_, ?_, (hsame.withStale b).answer p okCode []⟩
      all_goals simp [hringPos, hentry, hlost, hsent]

end Sys2Proof.Machine
end

section
/-!
CERTIFICATE. Position samples of the ring (R69, R72, R434 to R436).
-/
namespace Sys2Proof.Machine

variable {s : State} {node seq pos stime : Nat} {vel : Int}

theorem exec_ringPosSample (node seq pos : Nat) (vel : Int) (stime : Nat) (s : State) :
    exec (.ringPosSample node seq pos vel stime) s = .next (ringPosAct node seq pos vel stime s) := rfl

/-- The sample's SEQ is newer than that of the latest one taken (R436). -/
def NewerSample (s : State) (seq : Nat) : Prop :=
  ∀ q, s.ringPos.seq = some q → 0 < signed 16 (unsigned 16 ((seq : Int) - q))

theorem ringPosAct_taken (hon : s.domOn 10 = true) (htime : ringTimeValid s = true) (hnode : node = s.rdN E.ringPosNode)
    (hnew : NewerSample s seq) : ringPosAct node seq pos vel stime s =
      sourceMoved { s with ringPos := ⟨true, some seq, pos, vel, localTime56 s (stime * 256) / 256⟩ } 4 := by
  cases hq : s.ringPos.seq with
  | none => simp [ringPosAct, hon, htime, hnode, hq]
  | some q => simp [ringPosAct, hon, htime, hnode, hq, hnew q hq]

theorem ringPosAct_ignored (h : node ≠ s.rdN E.ringPosNode ∨
    ∃ q, s.ringPos.seq = some q ∧ signed 16 (unsigned 16 ((seq : Int) - q)) ≤ 0) :
    ringPosAct node seq pos vel stime s = s := by
  rcases h with hnode | ⟨q, hq, hold⟩
  · simp [ringPosAct, hnode]
  · simp [ringPosAct, hq, hold]

/-- The SEQ of a class counts on, and nothing else changes (R403). -/
theorem nextSeq_next (s : State) (cls : Nat) :
    aget 0 cls (nextSeq s cls).2.ring.seqs = (aget 0 cls s.ring.seqs + 1) % 65536 := by simp [nextSeq]

/-- Settles O8. A sample by its node and SEQ; the published one leaves as `sendBoth_leaves` says. -/
theorem ringPositionSamples : Obligations.RingPositionSamples := by
  refine ⟨fun node seq pos vel stime s hon htime hnode hnew => ?_, fun node seq pos vel stime s h => ?_,
    fun s hon hpublish hassigned htime hfree => ?_⟩
  · refine ⟨_, exec_ringPosSample .., ?_⟩
    rw [ringPosAct_taken hon htime hnode hnew]
    obtain ⟨hsame, -, hringPos⟩ := sourceMoved_tracks
      { s with ringPos := ⟨true, some seq, pos, vel, localTime56 s (stime * 256) / 256⟩ } 4
    exact ⟨hringPos, hsame⟩
  · rw [exec_ringPosSample, ringPosAct_ignored h]
  · have hsend : publishAct s = sendBoth (nextSeq s 6).2 6 0xFFFF (aget 0 6 s.ring.seqs) (positionPayload (nextSeq s 6).2) :=
      if_pos (by simp [hon, hpublish, hassigned, htime])
    have hfree' : RingsFree (nextSeq s 6).2 := hfree
    obtain ⟨hsent, hring, -, hsame⟩ := sendBoth_leaves hfree' 6 0xFFFF _ _ hsend
    exact ⟨_, rfl, hsent, (congrArg (fun r => aget 0 6 r.seqs) hring).trans (nextSeq_next s 6), hsame⟩

end Sys2Proof.Machine
end

section
/-!
CERTIFICATE. The step and the queue: a step runs the command at the front, and sampling keeps the order of R37 and R43.
-/
namespace Sys2Proof.Machine

variable {s : State} {a b c : Instr}

/-- Every command answers a next state, but a grant of the staging SRAM. -/
theorem exec_goesOn (c : Instr) (s : State) (h : ∀ l, c ≠ .sramAccessGrant l) : ∃ t, exec c s = .next t := by
  cases c
  case sramAccessGrant l => exact absurd rfl (h l)
  all_goals exact ⟨_, rfl⟩

/-! ### The order of a TICK's events -/

/-- The place of an event among those of equal precedence: its port or its source. -/
def orderTail (s : State) (c : Instr) : Nat :=
  match portOf c with
  | some p => portRank p
  | none => 8 + (sourceOf s c).1 % 256 * 16 + (sourceOf s c).2 % 16

theorem order_eq (s : State) (c : Instr) : order s c = precedence s c * 8192 + orderTail s c := rfl

theorem orderTail_of_port {p : Port} (h : portOf c = some p) : orderTail s c = portRank p := by simp [orderTail, h]

theorem orderTail_of_source (h : portOf c = none) :
    orderTail s c = 8 + (sourceOf s c).1 % 256 * 16 + (sourceOf s c).2 % 16 := by simp [orderTail, h]

theorem orderTail_lt (s : State) (c : Instr) : orderTail s c < 8192 := by
  cases h : portOf c with
  | none =>
    rw [orderTail_of_source h]
    omega
  | some p =>
    rw [orderTail_of_port h]
    cases p <;> simp [portRank]

theorem order_lt_of_precedence (h : precedence s a < precedence s b) : order s a < order s b := by
  have := orderTail_lt s a
  rw [order_eq, order_eq]
  omega

theorem order_lt_of_tail (h : precedence s a = precedence s b) (ht : orderTail s a < orderTail s b) :
    order s a < order s b := by
  rw [order_eq, order_eq]
  omega

/-- Between hardware events of equal precedence the one of the lower source comes first (R43). -/
theorem orderTail_lt_of_source (ha : portOf a = none) (hb : portOf b = none)
    (h : (sourceOf s a).1 < (sourceOf s b).1) (hlt : (sourceOf s b).1 < 256) : orderTail s a < orderTail s b := by
  rw [orderTail_of_source ha, orderTail_of_source hb]
  omega

/-- Settles O1. The step by its queue, the commands by `exec_goesOn`, sampling by the laws of `place`, the order by its
precedence and its tail. -/
theorem stepRunsFrontCommand : Obligations.StepRunsFrontCommand := by
  refine ⟨fun c rest s h => ?_, fun c s h => exec_goesOn c s h, fun c s => ⟨place_perm _ c s.pending, rfl, fun h => ?_,
    fun a b h => order_lt_of_precedence h, fun a b p q hprec ha hb hrank => ?_, fun a b hprec ha hb hsrc hlt => ?_⟩⟩
  · simp only [step, h]
  · rw [State.sample_order, State.sample_pending]
    exact place_sorted _ c s.pending h
  · refine order_lt_of_tail hprec ?_
    rwa [orderTail_of_port ha, orderTail_of_port hb]
  · exact order_lt_of_tail hprec (orderTail_lt_of_source ha hb hsrc hlt)

/-- Settles O4. The state after reset lists nothing, and TIME is 0. -/
theorem resetHasForm : Obligations.ResetHasForm :=
  ⟨Memory.wf_nil, (dictWf_iff _).2 rising_nil, (timeWf_iff _).2 (by decide)⟩

end Sys2Proof.Machine
end

section
/-!
SUPPORT. What moving data leaves alone: everything but the memories, the memory system, the engines' shadows, the fault
messages and the counts of errors.
-/
namespace Sys2Proof.Machine

variable {s t : State}

/-- A reading of the state that every step of a fold keeps is kept by the fold. -/
theorem foldl_keeps {α β : Type} (g : State → β) (f : State → α → State) (h : ∀ s x, g (f s x) = g s) :
    ∀ (l : List α) (s : State), g (l.foldl f s) = g s
  | [], _ => rfl
  | x :: r, s => (foldl_keeps g f h r (f s x)).trans (h s x)

theorem SameBut.foldl {α : Type} {keys : List Nat} (f : State → α → State) (h : ∀ s x, SameBut s (f s x) keys)
    (l : List α) (s : State) : SameBut s (l.foldl f s) keys := by
  induction l generalizing s with
  | nil => exact SameBut.refl s keys
  | cons x r ih => exact ⟨fun q i j hq => ((ih _).1 q i j hq).trans ((h s x).1 q i j hq),
      fun a => ((ih _).2 a).trans ((h s x).2 a)⟩

theorem SameBut.report {keys : List Nat} (h : SameBut s t keys) (src kind addr : Nat) :
    SameBut s (t.report src kind addr) keys := h

theorem ite_sameBut {keys : List Nat} {p : Prop} [Decidable p] {t u : State} (ht : SameBut s t keys)
    (hu : SameBut s u keys) : SameBut s (if p then t else u) keys := by
  split <;> assumption

/-- Of two values set at a key the later one stays. -/
theorem ains_ains_same {α : Type} (k : Nat) (v w : α) (m : List (Nat × α)) : ains k v (ains k w m) = ains k v m := by
  induction m with
  | nil => simp [ains]
  | cons x r ih =>
    obtain ⟨j, z⟩ := x
    rcases Nat.lt_trichotomy k j with hlt | rfl | hgt
    · simp [ains, hlt]
    · simp [ains]
    · simp [ains, Nat.not_lt_of_gt hgt, hgt.ne', ih]

@[simp] theorem State.length_bytes (s : State) (a n : Nat) : (s.bytes a n).length = n := by
  simp [State.bytes, Memory.read]

@[simp] theorem State.getElem_bytes (s : State) (a n i : Nat) (h : i < (s.bytes a n).length) :
    (s.bytes a n)[i] = s.byte (a + i) := by simp [State.bytes, Memory.read, State.byte]

/-- Bytes read as they were written. -/
theorem State.bytes_setBytes (s : State) (a n : Nat) (l : List Byte) (h : l.length = n) : (s.setBytes a l).bytes a n = l :=
  List.ext_getElem (by simp [h]) fun i _ hi => by
    rw [State.getElem_bytes]
    exact State.byte_setBytes_in s a i l hi

/-- The state without what moving data may touch: a step that keeps this keeps every other field. -/
def beyondMemory (s : State) : State := { s with mem := [], memory := {}, engs := [], faultQ := [], dict := [] }

theorem dma_of_beyondMemory (h : beyondMemory s = beyondMemory t) (n : Nat) : s.dma n = t.dma n := by
  have hdmas := congrArg (State.dma · n) h
  exact hdmas

theorem setRank_beyondMemory (s : State) (k : Nat) (x : RankSt) : beyondMemory (s.setRank k x) = beyondMemory s := rfl
theorem setBytes_beyondMemory (s : State) (a : Nat) (l : List Byte) : beyondMemory (s.setBytes a l) = beyondMemory s := rfl
theorem touchRank_beyondMemory (s : State) (k n : Nat) (w : Bool) :
    beyondMemory (touchRank s k n w) = beyondMemory s := rfl
theorem dramWrite_beyondMemory (s : State) (a : Nat) (l : List Byte) : beyondMemory (dramWrite s a l) = beyondMemory s := rfl

theorem wakeRank_beyondMemory (s : State) (k : Nat) : beyondMemory (wakeRank s k) = beyondMemory s := by
  unfold wakeRank; split <;> rfl

theorem touchRead_beyondMemory (s : State) (a n : Nat) : beyondMemory (touchRead s a n) = beyondMemory s :=
  foldl_keeps beyondMemory _ (fun s r => by cases reach s r.1 <;> rfl) _ s

theorem logicalPut_beyondMemory (s : State) (a : Nat) (l : List Byte) : beyondMemory (logicalPut s a l) = beyondMemory s := by
  unfold logicalPut
  cases reach s a with
  | at_ p =>
    dsimp only
    cases reachDst s a <;> simp only [dramWrite_beyondMemory, touchRank_beyondMemory]
  | refused => rfl
  | silent => rfl

theorem logicalWrite_beyondMemory (s : State) (a : Nat) (l : List Byte) :
    beyondMemory (logicalWrite s a l) = beyondMemory s :=
  foldl_keeps beyondMemory _ (fun s (r : Nat × Nat) => logicalPut_beyondMemory s r.1 _) _ s

theorem sramRead_beyondMemory (s : State) (words : List Nat) (ecc : EccResult) :
    beyondMemory (sramRead s words ecc) = beyondMemory s := by
  unfold sramRead
  split
  · rfl
  · dsimp only
    split
    · split <;> rfl
    · split <;> rfl

theorem sramPut_beyondMemory (s : State) (a : Nat) (l : List Byte) (ecc : EccResult) :
    beyondMemory (sramPut s a l ecc) = beyondMemory s :=
  sramRead_beyondMemory s ((sramWords a l.length).filter fun w => !sramWhole a l.length w) ecc

theorem shadowWrite_beyondMemory (s : State) (e : Nat) (tb : Table) (ofs : Nat) (l : List Byte) (p : Option Port) :
    beyondMemory (shadowWrite s e tb ofs l p).2 = beyondMemory s := by
  unfold shadowWrite
  dsimp only
  split <;> rfl

theorem dmaWrite_beyondMemory (s : State) (a : Nat) (l : List Byte) : beyondMemory (dmaWrite s a l) = beyondMemory s := by
  unfold dmaWrite
  split
  · exact logicalWrite_beyondMemory s a l
  · exact sramPut_beyondMemory s a l .good
  · exact shadowWrite_beyondMemory s _ _ _ l none
  · rfl

/-! ### Reads of the staging SRAM -/

/-- The counts of what reads of the staging SRAM found. -/
def sramKeys : List Nat := [rowKey E.sramUeCount 0 0, rowKey E.sramCeCount 0 0]

theorem sramRead_sameBut (s : State) (words : List Nat) (ecc : EccResult) : SameBut s (sramRead s words ecc) sramKeys := by
  unfold sramRead
  split
  · exact SameBut.refl s _
  · refine ite_sameBut (SameBut.report (SameBut.count ?_ (by simp [sramKeys])) _ _ _) (ite_sameBut
      (((SameBut.refl s _).count (by simp [sramKeys])).report _ _ _) (SameBut.refl s _))
    exact ite_sameBut (SameBut.refl s _) (SameBut.refl s _)

/-- A read that finds nothing changes nothing. -/
theorem sramRead_clean (words : List Nat) (h : s.memory.badSram = []) : sramRead s words .good = s := by
  unfold sramRead
  split
  · rfl
  · simp [h]

end Sys2Proof.Machine
end

section
/-!
CERTIFICATE. The pause of a DMA channel (R356).
-/
namespace Sys2Proof.Machine

variable {s : State} {n : DmaCh}

theorem exec_dmaPause (s : State) (p : Port) (n : DmaCh) :
    exec (.dmaPause p n) s = .next (writeIf s p (s.pauseSuperseded (.dma n)) E.pause n 0 1 (dmaPauseAct n)) := rfl

theorem exec_dmaUnpause (s : State) (p : Port) (n : DmaCh) :
    exec (.dmaUnpause p n) s = .next (writeIf s p (s.superseded (.dma n)) E.pause n 0 0 (dmaUnpauseAct n)) := rfl

/-- The registers of the DMA channels are not stored entries (R478). -/
theorem storedEntry_pause (i : Nat) : storedEntry E.pause i = false := by simp [storedEntry, E.pause]

/-- What PAUSE leaves of a channel: another condition and PAUSE itself. -/
theorem pause_leaves (p : Port) (x : DmaSt) (v : Int) (l : List (Target × Act)) (u : State)
    (h : u = { (s.setDma n x).wr E.pause v n with acted := l }.answer p okCode) :
    u.rd E.pause n = v ∧ u.sent = .answer p okCode [] :: s.sent ∧ (∀ k, k ≠ n.val → u.dma k = s.dma k) ∧
      u.dma n = x ∧ SameBut s u [rowKey E.pause n 0] := by
  subst h
  refine ⟨State.rd_wr_same _ _ _ _ _, rfl, fun k hk => State.setDma_ne _ _ _ _ hk, State.setDma_same _ _ _, ?_⟩
  exact (((SameBut.refl s _).setDma n x).wr (List.mem_cons_self ..) v).answer p okCode []

/-! ### The burst in flight of a pausing channel -/

theorem dmaStop_count (s : State) (k result side addr : Nat) (say : Bool) :
    (dmaStop s k result side addr say).rd E.count k = s.rd E.count k := by
  have h : rowKey E.count k 0 ≠ rowKey E.faultAddr k 0 := by simp [rowKey, E.count, E.faultAddr]
  unfold dmaStop
  exact (ite_eq_or_eq _ _ _).elim (fun e => (congrArg (State.rd · E.count k) e).trans (State.rd_wr _ _ _ _ _ _ _ _ h))
    (fun e => (congrArg (State.rd · E.count k) e).trans (State.rd_wr _ _ _ _ _ _ _ _ h))

theorem count_notMem_sramKeys (n : DmaCh) : rowKey E.count n 0 ∉ sramKeys := by revert n; decide

theorem burstEcc_sameBut (s : State) (b : Block) (k : Nat) (ecc : EccResult) : SameBut s (burstEcc s b k ecc) sramKeys :=
  SameBut.foldl _ (fun _ _ => ite_sameBut (sramRead_sameBut _ _ _) (SameBut.refl _ _)) _ s

theorem burstEcc_beyondMemory (s : State) (b : Block) (k : Nat) (ecc : EccResult) :
    beyondMemory (burstEcc s b k ecc) = beyondMemory s :=
  foldl_keeps beyondMemory _ (fun s (r : (Nat × Nat) × Nat) => by
    cases h : inSram r.1.1 r.1.2
    · rfl
    · exact sramRead_beyondMemory s _ _) _ s

theorem wakeRanks_rd (l : List Nat) (s : State) (r : Row) (i j : Nat) : (l.foldl wakeRank s).rd r i j = s.rd r i j :=
  foldl_keeps (State.rd · r i j) wakeRank (fun s k => by unfold wakeRank; split <;> rfl) l s

/-- Moving data leaves the condition of the channel alone. -/
theorem moveUnits_st (s : State) (n k : Nat) : ((moveUnits s n k).dma n).st = (s.dma n).st := by
  have hread := foldl_keeps beyondMemory (fun s (r : Nat × Nat) => if r.1 < logicalSize then touchRead s r.1 r.2 else s)
    (fun s r => by
      split
      · exact touchRead_beyondMemory s _ _
      · rfl) ((blockOfChannel s n).srcRanges k) s
  have hwrite := foldl_keeps beyondMemory (fun s (w : Nat × List Byte) => dmaWrite s w.1 w.2)
    (fun s w => dmaWrite_beyondMemory s w.1 w.2)
  unfold moveUnits
  dsimp only
  simp only [State.wr_dma, State.setDma_same]
  exact congrArg DmaSt.st (dma_of_beyondMemory ((hwrite _ _).trans hread) n)

/-- The burst in flight of a pausing channel completes, and leaves it paused unless it is the last of its block. -/
theorem burstAct_of_pausing (h : (s.dma n).st = .pausing) (ecc : EccResult) :
    (burstAct n ecc s).rd E.count n = s.rd E.count n ∨ (burstAct n ecc s).rd E.count n = 0 ∨
      ((burstAct n ecc s).dma n).st = .paused := by
  unfold burstAct
  dsimp only
  rw [h, if_neg (by decide)]
  split
  · exact .inl rfl
  split
  · split
    · exact .inl (dmaStop_count _ _ _ _ _ _)
    · exact .inl rfl
  split
  · exact .inl (wakeRanks_rd _ _ _ _ _)
  split
  · exact .inl ((dmaStop_count _ _ _ _ _ _).trans ((burstEcc_sameBut _ _ _ _).1 _ _ _ (count_notMem_sramKeys n)))
  split
  · split
    · exact .inl (dmaStop_count _ _ _ _ _ _)
    · exact .inl rfl
  · generalize hv : moveUnits _ n _ = v
    have hst : (v.dma n).st = .pausing := by
      rw [← hv, moveUnits_st]
      exact (congrArg DmaSt.st (dma_of_beyondMemory (burstEcc_beyondMemory _ _ _ _) n)).trans h
    cases hdone : v.rd E.count n == 0
    · refine .inr (.inr ?_)
      simp [hst]
    · exact .inr (.inl (by simpa using hdone))

/-- Settles O29, by the condition of the channel; a burst that leaves COUNT other than 0 and as it was is not the block's
last. -/
theorem dmaPauseKeepsPlace : Obligations.DmaPauseKeepsPlace := by
  intro p n s
  refine ⟨fun h => ?_, fun h => ?_, fun h u hu hcount hmoved => ?_⟩
  · refine ⟨_, (exec_dmaPause s p n).trans (congrArg _ (writeIf_act_unstored h (storedEntry_pause n) rfl)), ?_⟩
    exact pause_leaves p _ 1 _ _ rfl
  · refine ⟨_, (exec_dmaUnpause s p n).trans (congrArg _ (writeIf_act_unstored h (storedEntry_pause n) rfl)), ?_⟩
    exact pause_leaves p _ 0 s.acted _ rfl
  · obtain rfl : burstAct n .good s = u := by injection hu
    rcases burstAct_of_pausing h .good with hsame | hzero | hst
    · exact absurd hsame hmoved
    · exact absurd hzero hcount
    · exact hst

end Sys2Proof.Machine
end

section
/-!
CERTIFICATE. What the DMA channels run, move, load and complete (R351, R353, R359, R360, R363, R364, R366, R377).
-/
namespace Sys2Proof.Machine

variable {s : State} {n : DmaCh}

theorem exec_dmaChannelRun (s : State) : exec .dmaChannelRun s = .next (dmaRunAct s) := rfl
theorem exec_dmaBurstDone (s : State) (n : DmaCh) (ecc : EccResult) :
    exec (.dmaBurstDone n ecc) s = .next (burstAct n ecc s) := rfl
theorem exec_busTimeout (s : State) (n : DmaCh) (side : Fin 3) :
    exec (.busTimeout n side) s = .next (busTimeoutAct n side s) := rfl
theorem exec_dmaBlockComplete (s : State) (n : DmaCh) :
    exec (.dmaBlockComplete n) s = .next (blockCompleteAct n s) := rfl
theorem exec_dmaDescriptorLoad (s : State) (n : DmaCh) (ecc : EccResult) :
    exec (.dmaDescriptorLoad n ecc) s = .next (descriptorAct n ecc s) := rfl
theorem exec_dmaCommitRequest (s : State) (n : DmaCh) :
    exec (.dmaCommitRequest n) s = .next (commitRequestAct n s) := rfl
theorem exec_dmaDoneClear (s : State) (p : Port) (v : Nat) :
    exec (.dmaDoneClear p v) s = .next (writeIf s p (s.superseded noTarget) E.dmaDone 0 0 v (doneClearAct v)) := rfl

/-! ### The lowest pending channel -/

theorem dmaRunAct_of_held (h : ∃ k, k < 16 ∧ holdsEngine (s.dma k) = true) : dmaRunAct s = s := by
  obtain ⟨k, hk, hx⟩ := h
  unfold dmaRunAct
  refine if_pos ?_
  simp only [Bool.or_eq_true, List.any_eq_true, List.mem_range]
  exact .inr ⟨k, hk, hx⟩

/-- The lowest pending channel is the one that is found. -/
theorem find_lowest_pending (hst : (s.dma n).st = .pending) (hlow : ∀ k, k < n.val → (s.dma k).st ≠ .pending)
    (hreset : unitInReset s (0x80 + n) = false) :
    (List.range 16).find? (fun k => (s.dma k).st == .pending && !unitInReset s (0x80 + k)) = some n.val := by
  rw [List.find?_range_eq_some]
  refine ⟨by simp [hst, hreset], by simp, fun k hk => ?_⟩
  simp [hlow k hk]

theorem dmaRunAct_runs (hon : s.domOn 11 = true) (hfree : ∀ k, k < 16 → holdsEngine (s.dma k) = false)
    (hst : (s.dma n).st = .pending) (hlow : ∀ k, k < n.val → (s.dma k).st ≠ .pending)
    (hreset : unitInReset s (0x80 + n) = false) (hcount : 0 < s.rdN E.count n) :
    dmaRunAct s = s.setDma n { s.dma n with st := .running } := by
  have hnone : (List.range 16).any (fun k => holdsEngine (s.dma k)) = false := by
    simpa only [List.any_eq_false, List.mem_range, Bool.not_eq_true] using hfree
  unfold dmaRunAct
  rw [if_neg (by simp [hon, hnone]), find_lowest_pending hst hlow hreset]
  exact if_pos (Nat.pos_iff_ne_zero.mp hcount)

/-! ### Regions -/

theorem regionOf_sram {a k : Nat} (h : 0x800000000000 ≤ a) (h' : a + k ≤ 0x800000800000) : regionOf a k = some .sram := by
  unfold regionOf
  rw [if_neg (by unfold logicalSize; omega), if_pos]
  simp only [inSram, sramBase, sramSize]
  exact decide_eq_true (by omega)

theorem regionOf_link {a k : Nat} (h : 0xA00000000000 ≤ a) (h' : a + k ≤ 0xA00000010000) : regionOf a k = some .link := by
  unfold regionOf
  rw [if_neg (by unfold logicalSize; omega), if_neg, if_pos (by unfold linkBase; omega)]
  simp only [inSram, sramBase, sramSize]
  exact (decide_eq_false (by omega)).trans_ne Bool.false_ne_true

/-- An address of the link buffer is in no table shadow. -/
theorem shadowOf_link {a : Nat} (h : 0xA00000000000 ≤ a) : shadowOf a = none := by
  unfold shadowOf shadowBase tableStep
  exact if_pos (.inr (by omega))

theorem sleepers_of_internal {a k : Nat} (h : logicalSize ≤ a) : sleepers s [(a, k)] = [] := by
  simp [sleepers, Nat.not_lt.mpr h]

/-! ### A burst of a plain block within the staging SRAM and the link buffer -/

/-- A burst of `k` bytes from the staging SRAM to the link buffer, without conversion. -/
structure PlainBurst (s : State) (n : DmaCh) (a b k : Nat) : Prop where
  src : s.rdN E.src n = a
  dst : s.rdN E.dst n = b
  count : s.rdN E.count n = k
  ctrl : s.rdN E.ctrl n = 0
  pos : 0 < k
  line : a % 64 + k ≤ 64
  srcLow : 0x800000000000 ≤ a
  srcHigh : a + k ≤ 0x800000800000
  dstLow : 0xA00000000000 ≤ b
  dstHigh : b + k ≤ 0xA00000010000
  clean : s.memory.badSram = []

variable {a b k : Nat}

/-- The registers of such a block. -/
theorem PlainBurst.block (h : PlainBurst s n a b k) :
    blockOfChannel s n = ⟨a, b, k, 0, s.rdN E.link n, s.rdN E.rsStride n⟩ := by
  obtain ⟨hsrc, hdst, hcount, hctrl, -⟩ := h
  simp only [blockOfChannel, hsrc, hdst, hcount, hctrl]

section
variable (a b k l m : Nat)

theorem plain_mode : (Block.mk a b k 0 l m).mode = 0 := by simp [Block.mode, bits]

theorem plain_step : (Block.mk a b k 0 l m).step = (1, 1, 1) := by
  simp [Block.step, plain_mode, bits, widthBytes]

theorem plain_planes : (Block.mk a b k 0 l m).planes = (1, 1) := by simp [Block.planes, plain_mode]

theorem plain_srcRanges (j : Nat) : (Block.mk a b k 0 l m).srcRanges j = [(a, j)] := by
  simp [Block.srcRanges, plain_step, plain_planes, ranges]

theorem plain_dstRanges (j : Nat) : (Block.mk a b k 0 l m).dstRanges j = [(b, j)] := by
  simp [Block.dstRanges, plain_step, plain_planes, ranges]

theorem plain_burstUnits (h : a % 64 + k ≤ 64) : burstUnits (Block.mk a b k 0 l m) = k := by
  simp only [burstUnits, Block.units, plain_step, Nat.div_one]
  omega

theorem plain_unitOut (x : Byte) : unitOut (Block.mk a b k 0 l m) [[x]] = [[x]] := by
  simp [unitOut, plain_mode, convert, bits, widthBytes]
end

/-- Ranges that all reach memory are moved whole. -/
theorem reachable_all {l : Nat → List (Nat × Nat)} {p : Nat} (h : ∀ x ∈ l (k + 1), dmaReach s x.1 x.2 = .at_ p) :
    reachable s l (k + 1) = k + 1 := by
  unfold reachable
  refine if_pos (List.all_eq_true.mpr fun x hx => ?_)
  rw [h x hx]

theorem dmaReach_sram (h : 0x800000000000 ≤ a) (h' : a + k ≤ 0x800000800000) : dmaReach s a k = .at_ a := by
  simp only [dmaReach, regionOf_sram h h']

theorem dmaReach_link (h : 0xA00000000000 ≤ a) (h' : a + k ≤ 0xA00000010000) : dmaReach s a k = .at_ a := by
  simp only [dmaReach, regionOf_link h h']

theorem dmaBad_sram_clean (h : 0x800000000000 ≤ a) (h' : a + k ≤ 0x800000800000) (hclean : s.memory.badSram = []) :
    dmaBad s a k = false := by
  simp only [dmaBad, regionOf_sram h h', hclean, List.any_nil]

theorem dmaRead_sram (h : 0x800000000000 ≤ a) (h' : a + k ≤ 0x800000800000) : dmaRead s a k = s.bytes a k := by
  simp only [dmaRead, regionOf_sram h h']

theorem dmaWrite_link {l : List Byte} (h : 0xA00000000000 ≤ a) (h' : a + l.length ≤ 0xA00000010000) :
    dmaWrite s a l = s.setBytes a l := by
  simp only [dmaWrite, regionOf_link h h']

/-- A plain block is written to its destination as it stands at its source (R353). -/
theorem plain_moveUnits (h : PlainBurst s n a b k) : moveUnits s n k =
    ((((s.setBytes b (s.bytes a k)).setDma n { s.dma n with lastAt := some (b + k - 1) }).wr E.src (a + k : Nat) n).wr
      E.dst (b + k : Nat) n).wr E.count 0 n := by
  obtain ⟨-, -, -, -, -, -, hsrcLow, hsrcHigh, hdstLow, hdstHigh, -⟩ := id h
  have hunit : ∀ i ∈ List.range k, dmaRead s (a + i) 1 = [s.byte (a + i)] := fun i hi => by
    have hi := List.mem_range.mp hi
    rw [dmaRead_sram (by omega) (by omega)]
    simp [State.bytes, Memory.read, State.byte]
  have hdata : ((List.range k).map fun i => [[s.byte (a + i)]]).flatMap (fun o => (o[0]?).getD []) = s.bytes a k := by
    rw [List.flatMap_map]
    exact (List.map_eq_flatMap ..).symm
  have hwrite : dmaWrite s b (s.bytes a k) = s.setBytes b (s.bytes a k) :=
    dmaWrite_link hdstLow (by simpa using hdstHigh)
  have hlow : ¬a < logicalSize := by unfold logicalSize; omega
  have houts : (List.range k).map (fun i => unitOut (blockOfChannel s n)
      (((blockOfChannel s n).srcRanges k).map fun r => dmaRead s (r.1 + i * (blockOfChannel s n).step.1)
        (blockOfChannel s n).step.1)) = (List.range k).map fun i => [[s.byte (a + i)]] := by
    refine List.map_congr_left fun i hi => ?_
    rw [h.block, plain_srcRanges, plain_step]
    simp only [List.map_cons, List.map_nil, Nat.mul_one, hunit i hi, plain_unitOut]
  unfold moveUnits
  simp only [h.block, plain_srcRanges, plain_step, plain_planes, List.foldl_cons, List.foldl_nil, hlow, if_false] at houts ⊢
  rw [houts]
  simp [hdata, hwrite]

/-- The burst completes: the bytes are moved, and the block ends, for it held no more. -/
theorem plain_burstAct (h : PlainBurst s n a b k) (hst : (s.dma n).st = .running) (hload : (s.dma n).loading = false)
    (hend : (s.dma n).blockEnd = false) (hon : s.domState 11 = 2) : burstAct n .good s =
      (moveUnits s n k).setDma n { (moveUnits s n k).dma n with blockEnd := true } := by
  obtain ⟨-, -, -, -, hpos, hline, hsrcLow, hsrcHigh, hdstLow, hdstHigh, hclean⟩ := id h
  have hreach (l : Nat → List (Nat × Nat)) (p : Nat) (hl : ∀ x ∈ l k, dmaReach s x.1 x.2 = .at_ p) : reachable s l k = k := by
    obtain ⟨j, rfl⟩ := Nat.exists_eq_succ_of_ne_zero hpos.ne'
    exact reachable_all hl
  have hsrc : reachable s (blockOfChannel s n).srcRanges k = k :=
    hreach _ a (by simp [h.block, plain_srcRanges, dmaReach_sram hsrcLow hsrcHigh])
  have hdst : reachable s (blockOfChannel s n).dstRanges k = k :=
    hreach _ b (by simp [h.block, plain_dstRanges, dmaReach_link hdstLow hdstHigh])
  have hheld : heldByShadow s (blockOfChannel s n) = false := by
    simp [heldByShadow, h.block, shadowOf_link hdstLow]
  have hecc : burstEcc s (blockOfChannel s n) k .good = s := by
    simp [burstEcc, h.block, plain_srcRanges, sramEcc, sramRead_clean _ hclean]
  have hzero : ((moveUnits s n k).rd E.count n == 0) = true := by
    simp [plain_moveUnits h]
  have hstay : ((moveUnits s n k).dma n).st = .running := (moveUnits_st s n k).trans hst
  have hasleep : sleepers s ((blockOfChannel s n).srcRanges k) = [] := by
    rw [h.block, plain_srcRanges]
    exact sleepers_of_internal (by unfold logicalSize; omega)
  have hbad : ((blockOfChannel s n).srcRanges k).any (fun r => dmaBad s r.1 r.2) = false := by
    simp [h.block, plain_srcRanges, dmaBad_sram_clean hsrcLow hsrcHigh hclean]
  have hunits : burstUnits (blockOfChannel s n) = k := by rw [h.block, plain_burstUnits _ _ _ _ _ hline]
  have hcount : (blockOfChannel s n).count = k := by rw [h.block]
  unfold burstAct
  simp [hst, hload, hend, hon, hheld, hunits, hcount, hsrc, hdst, hecc, hasleep, hbad, hpos.ne', hzero, hstay]

/-- What such a burst leaves. -/
theorem plain_burst_leaves (h : PlainBurst s n a b k) (u : State)
    (hu : u = (moveUnits s n k).setDma n { (moveUnits s n k).dma n with blockEnd := true }) :
    u.bytes b k = s.bytes a k ∧ (∀ x, ¬(b ≤ x ∧ x < b + k) → u.byte x = s.byte x) ∧ u.rd E.src n = (a + k : Nat) ∧
      u.rd E.dst n = (b + k : Nat) ∧ u.rd E.count n = 0 ∧ (u.dma n).blockEnd = true ∧
      (u.dma n).st = (s.dma n).st ∧ u.faultQ = s.faultQ ∧ u.sent = s.sent ∧
      ∀ r i j, rowKey r i j ∉ [rowKey E.src n 0, rowKey E.dst n 0, rowKey E.count n 0] → u.rd r i j = s.rd r i j := by
  subst hu
  have hlen := s.length_bytes a k
  have hkeys : rowKey E.src n 0 ≠ rowKey E.dst n 0 ∧ rowKey E.src n 0 ≠ rowKey E.count n 0 ∧
      rowKey E.dst n 0 ≠ rowKey E.count n 0 := by simp [rowKey, E.src, E.dst, E.count]
  obtain ⟨hsd, hsc, hdc⟩ := hkeys
  rw [plain_moveUnits h]
  refine ⟨?_, fun x hx => ?_, ?_, ?_, ?_, ?_, ?_, ?_, ?_, fun r i j hr => ?_⟩
  · simpa using State.bytes_setBytes s b k (s.bytes a k) hlen
  · simpa using State.byte_setBytes s b x _ (by rw [hlen]; exact hx)
  · simp [State.rd_wr _ _ _ _ _ _ _ _ hsd, State.rd_wr _ _ _ _ _ _ _ _ hsc]
  · simp [State.rd_wr _ _ _ _ _ _ _ _ hdc]
  · simp
  · simp
  · simp
  · simp
  · simp
  · simp only [List.mem_cons, List.not_mem_nil, or_false, not_or] at hr
    obtain ⟨hr1, hr2, hr3⟩ := hr
    simp [State.rd_wr _ _ _ _ _ _ _ _ hr1, State.rd_wr _ _ _ _ _ _ _ _ hr2, State.rd_wr _ _ _ _ _ _ _ _ hr3]

/-! ### Stops -/

/-- A stop that is reported: the registers stay, FAULT_ADDR and the message name the address (R360, R375). -/
theorem dmaStop_leaves (s : State) (m result side a : Nat) (u : State) (hu : u = dmaStop s m result side a true) :
    (u.dma m).st = .stopped ∧ (u.dma m).result = result ∧ (u.dma m).side = side ∧ u.rd E.faultAddr m = (a : Nat) ∧
      u.faultQ = s.faultQ ++ [⟨0x80 + m, result - 2, a⟩] ∧ SameBut s u [rowKey E.faultAddr m 0] := by
  subst hu
  refine ⟨by simp [dmaStop], by simp [dmaStop], by simp [dmaStop], by simp [dmaStop], by simp [dmaStop, State.report], ?_⟩
  exact (((SameBut.refl s _).setDma m _).wr (List.mem_cons_self ..) _).report _ _ _

theorem busTimeoutAct_stops {m side : Nat} (hst : (s.dma m).st = .running)
    (hload : (s.dma m).loading = decide (side = 2)) (hheld : ¬(side = 1 ∧ heldByShadow s (blockOfChannel s m) = true)) :
    busTimeoutAct m side s = dmaStop s m 4 side
      (if side = 0 then silentAt s ((blockOfChannel s m).srcRanges 1)
        else if side = 1 then silentAt s ((blockOfChannel s m).dstRanges 1) else s.rdN E.link m) true := by
  unfold busTimeoutAct
  dsimp only
  rw [hst, if_neg (by decide), if_neg]
  · rfl
  · rintro (hrun | hne | hblock)
    · exact hrun (.inl rfl)
    · exact hne hload
    · exact hheld hblock

/-! ### The end of a chain -/

/-- The last block of a chain, which nobody is to hear of and nothing is to commit (R364 to R366). -/
theorem blockCompleteAct_ends_chain (hst : (s.dma n).st = .running) (hend : (s.dma n).blockEnd = true)
    (h13 : bit (s.rdN E.ctrl n) 13 = false) (h14 : bit (s.rdN E.ctrl n) 14 = false)
    (h15 : bit (s.rdN E.ctrl n) 15 = false) :
    ∃ x : DmaSt, x.st = .idle ∧ x.result = 1 ∧ x.commitReq = false ∧ blockCompleteAct n s =
      (s.setDma n x).wr E.dmaDone (s.rdN E.dmaDone ||| 2 ^ n.val : Nat) := by
  have hset (x y : DmaSt) : (s.setDma n x).setDma n y = s.setDma n y := by
    simp only [State.setDma, ains_ains_same]
  refine ⟨{ s.dma n with st := .idle, result := 1, commitReq := false, blockEnd := false }, rfl, rfl, rfl, ?_⟩
  unfold blockCompleteAct
  dsimp only
  rw [hst, if_neg (by decide), if_pos hend]
  unfold completeBlock
  have hlink : (blockOfChannel s n).linkEn = false := h15
  have hctrl : (blockOfChannel s n).ctrl = s.rdN E.ctrl n := rfl
  simp [hctrl, hlink, h13, h14, hset]

/-! ### Descriptors -/

theorem rd_loadBlock {r : Row} {i j : Nat} (m : Nat) (b : Block) (h : rowKey r i j ∉
    [rowKey E.src m 0, rowKey E.dst m 0, rowKey E.count m 0, rowKey E.ctrl m 0, rowKey E.link m 0, rowKey E.rsStride m 0]) :
    (loadBlock s m b).rd r i j = s.rd r i j := by
  simp only [List.mem_cons, List.not_mem_nil, or_false, not_or] at h
  obtain ⟨h1, h2, h3, h4, h5, h6⟩ := h
  simp only [loadBlock, State.rd_wr _ _ _ _ _ _ _ _ h1, State.rd_wr _ _ _ _ _ _ _ _ h2, State.rd_wr _ _ _ _ _ _ _ _ h3,
    State.rd_wr _ _ _ _ _ _ _ _ h4, State.rd_wr _ _ _ _ _ _ _ _ h5, State.rd_wr _ _ _ _ _ _ _ _ h6]

/-- A descriptor read in the link buffer. -/
structure LinkRead (s : State) (n : DmaCh) (a : Nat) : Prop where
  st : (s.dma n).st = .running
  loading : (s.dma n).loading = true
  on : s.domState 11 = 2
  link : s.rdN E.link n = a
  low : 0xA00000000000 ≤ a
  high : a + 32 ≤ 0xA00000010000

variable {d : Block}

/-- The state in which a valid block is loaded and runs (R363). -/
def loadedState (s : State) (n : Nat) (d : Block) : State :=
  ((loadBlock s n d).wr E.hops (s.rd E.hops n + 1) n).setDma n
    { s.dma n with loading := false, blockEnd := false, lastAt := none }

theorem loadBlock_dma (m : Nat) (d : Block) (k : Nat) : (loadBlock s m d).dma k = s.dma k := by simp [loadBlock]

/-- What such a read ends with: the stop of R360, or the block loaded whole. -/
theorem LinkRead.ends (h : LinkRead s n a) (ecc : EccResult) (hd : d = descriptor (s.bytes a 32))
    (hvalid : ecc ≠ .uncorrectable → blockValid s d = true ∧ d.count ≠ 0) : descriptorAct n ecc s =
      if ecc = .uncorrectable then dmaStop s n 7 2 a true else loadedState s n d := by
  obtain ⟨hst, hload, hon, hlink, hlow, hhigh⟩ := h
  have hregion := regionOf_link hlow hhigh
  have hsram : inSram a 32 = false := by
    simp only [inSram, sramBase, sramSize]
    exact decide_eq_false (by omega)
  have hlogical : ¬a < logicalSize := by unfold logicalSize; omega
  have hread : dmaRead s a 32 = s.bytes a 32 := by simp only [dmaRead, hregion]
  have hbad : dmaBad s a 32 = false := by simp only [dmaBad, hregion]
  have hasleep : sleepers s [(a, 32)] = [] := sleepers_of_internal (by omega)
  unfold descriptorAct
  by_cases hecc : ecc = .uncorrectable
  · simp [hst, hload, hon, hlink, hasleep, dmaReach_link hlow hhigh, hsram, hlogical, hbad, hecc]
  · obtain ⟨hblock, hcount⟩ := hvalid hecc
    have hmore : (d.count == 0) = false := by simpa using hcount
    simp [hst, hload, hon, hlink, hasleep, dmaReach_link hlow hhigh, hsram, hlogical, hread, hbad, ← hd, hecc, hblock,
      hmore, loadedState, loadBlock_dma]

/-- The six registers are those of the descriptor, and HOPS counts it. -/
theorem loadedState_leaves (s : State) (m : Nat) (d : Block) (u : State) (hu : u = loadedState s m d) :
    u.rd E.src m = d.src ∧ u.rd E.dst m = d.dst ∧ u.rd E.count m = d.count ∧ u.rd E.ctrl m = d.ctrl ∧
      u.rd E.link m = d.link ∧ u.rd E.rsStride m = d.stride ∧ u.rd E.hops m = s.rd E.hops m + 1 ∧
      (u.dma m).st = (s.dma m).st ∧ (u.dma m).loading = false ∧ u.faultQ = s.faultQ ∧
      SameBut s u [rowKey E.src m 0, rowKey E.dst m 0, rowKey E.count m 0, rowKey E.ctrl m 0, rowKey E.link m 0,
        rowKey E.rsStride m 0, rowKey E.hops m 0] := by
  subst hu
  refine ⟨?_, ?_, ?_, ?_, ?_, ?_, by simp [loadedState], by simp [loadedState], by simp [loadedState],
    by simp [loadedState, loadBlock], ⟨fun r i j hr => ?_, fun x => by simp [loadedState, loadBlock]⟩⟩
  case refine_7 =>
    obtain ⟨hr', hrh⟩ := List.mem_append.not.trans not_or |>.mp (show rowKey r i j ∉ [rowKey E.src m 0, rowKey E.dst m 0,
      rowKey E.count m 0, rowKey E.ctrl m 0, rowKey E.link m 0, rowKey E.rsStride m 0] ++ [rowKey E.hops m 0] from hr)
    simp [loadedState, State.rd_wr _ _ _ _ _ _ _ _ (List.ne_of_not_mem_cons hrh), rd_loadBlock m d hr']
  all_goals
    simp (disch := simp [rowKey, E.src, E.dst, E.count, E.ctrl, E.link, E.rsStride, E.hops])
      [loadedState, loadBlock, State.rd_wr]

/-! ### Commit requests and DMA_DONE -/

/-- The commit that a completed block asked for pends (R366). -/
theorem commitRequestAct_pends {e : Nat} (hat : (s.dma n).commitAt = some a) (hshadow : shadowOf a = some (e, .shape))
    (hon : s.domOn (engDom e) = true) (hlate : s.superseded (.engine e) = false) : commitRequestAct n s =
      requestPlain (s.setDma n { s.dma n with commitAt := none }) e .shape := by
  have hlate' : (s.setDma n { s.dma n with commitAt := none }).superseded (.engine e) = false := hlate
  unfold commitRequestAct
  simp [hat, hshadow, hon, hlate', requestCommit]

/-- DMA_DONE is not a stored entry (R478). -/
theorem storedEntry_dmaDone : storedEntry E.dmaDone 0 = false := by decide

/-- Settles O31: the engine's choice by the first pending channel, a burst by the bytes that it moves, and the stop, the
end and the descriptor by what each leaves. -/
theorem dmaMovesBlocks : Obligations.DmaMovesBlocks := by
  intro n s
  refine ⟨fun _ h => ?_, fun hon hfree hst hlow hreset hcount => ?_,
    fun a b k ha hb hk hst hload hend hon hctrl hpos hline hsl hsh hdl hdh hclean => ?_,
    fun side hst hload hheld => ?_, fun hst hend h13 h14 h15 => ?_,
    fun a l b ha hl hb hst hload hon hlow hhigh => ⟨fun hvalid hcount => ?_, ?_⟩,
    fun a e hat hshadow hon hlate => ?_, fun p v h => ?_⟩
  · rw [exec_dmaChannelRun, dmaRunAct_of_held h]
  · rw [exec_dmaChannelRun, dmaRunAct_runs hon hfree hst hlow hreset hcount]
  · have h : PlainBurst s n a b k := ⟨ha.symm, hb.symm, hk.symm, hctrl, hpos, hline, hsl, hsh, hdl, hdh, hclean⟩
    refine ⟨_, (exec_dmaBurstDone s n .good).trans (congrArg _ (plain_burstAct h hst hload hend hon)), ?_⟩
    have hleaves := plain_burst_leaves h _ rfl
    rwa [hst] at hleaves
  · refine ⟨_, (exec_busTimeout s n side).trans (congrArg _ (busTimeoutAct_stops hst (by simpa [Fin.ext_iff] using hload)
      (by simpa [Fin.ext_iff] using hheld))), ?_⟩
    obtain ⟨hstopped, hresult, hside, haddr, hfault, hsame⟩ := dmaStop_leaves s n 4 side _ _ rfl
    refine ⟨hstopped, hresult, hside, ?_, ⟨_, hfault, haddr⟩, hsame⟩
    exact haddr.trans (congrArg Nat.cast (if_congr (Fin.ext_iff (b := 0)).symm rfl (if_congr (Fin.ext_iff (b := 1)).symm rfl rfl)))
  · obtain ⟨x, hidle, hresult, hreq, heq⟩ := blockCompleteAct_ends_chain hst hend h13 h14 h15
    refine ⟨_, (exec_dmaBlockComplete s n).trans (congrArg _ heq), ?_⟩
    refine ⟨by simp [hidle], by simp [hresult], by simp [hreq], by simp, by simp, by simp, ?_⟩
    exact ((SameBut.refl s _).setDma n x).wr (List.mem_cons_self ..) _
  · have h : LinkRead s n a := ⟨hst, hload, hon, ha.symm, hlow, hhigh⟩
    refine ⟨_, (exec_dmaDescriptorLoad s n .good).trans (congrArg _ (h.ends .good (hl ▸ hb) fun _ => ⟨hvalid, hcount⟩)), ?_⟩
    obtain ⟨h1, h2, h3, h4, h5, h6, hhops, hrun, hmore⟩ := loadedState_leaves s n b _ rfl
    have hfields : b = ⟨ofBytes (l.take 6), ofBytes ((l.drop 6).take 6), ofBytes ((l.drop 12).take 4),
      ofBytes ((l.drop 16).take 4), ofBytes ((l.drop 20).take 6), ofBytes ((l.drop 26).take 4)⟩ := hb
    refine ⟨h1.trans ?_, h2.trans ?_, h3.trans ?_, h4.trans ?_, h5.trans ?_, h6.trans ?_, hhops, hrun.trans hst, hmore⟩
    all_goals rw [hfields]
  · have h : LinkRead s n a := ⟨hst, hload, hon, ha.symm, hlow, hhigh⟩
    refine ⟨_, (exec_dmaDescriptorLoad s n .uncorrectable).trans (congrArg _ (h.ends .uncorrectable (hl ▸ hb)
      (absurd rfl ·))), ?_⟩
    exact dmaStop_leaves s n 7 2 a _ rfl
  · refine ⟨_, (exec_dmaCommitRequest s n).trans (congrArg _ (commitRequestAct_pends hat hshadow hon hlate)), ?_⟩
    refine ⟨by simp [requestPlain, EngSt.request, EngSt.setPend], by simp [requestPlain], rfl, rfl, SameBut.refl s _⟩
  · exact (exec_dmaDoneClear s p v).trans (congrArg _ (writeIf_act_unstored h storedEntry_dmaDone rfl))

end Sys2Proof.Machine
end

section
/-!
SUPPORT. Bytes of numbers, and what writes of the staging SRAM leave.
-/
namespace Sys2Proof.Machine

variable {s : State}

@[simp] theorem length_toBytes : ∀ n x : Nat, (toBytes n x).length = n
  | 0, _ => rfl
  | n + 1, x => congrArg (· + 1) (length_toBytes n x)

/-- A saturating count of 32 bits. -/
theorem rd_count_same (s : State) (r : Row) (i n : Nat) : (s.count r i n).rd r i = min (s.rd r i + n) (2 ^ 32 - 1) :=
  (State.rd_wr_same s r _ i 0).trans (sat32_eq_min _)

/-- Only what is to be read and written is stored (R478). -/
theorem storedEntry_of_acc {r : Row} (hrw : r.acc ≠ .rw) (hrws : r.acc ≠ .rws) (i : Nat) : storedEntry r i = false := by
  have hacc : (accOf r i == .rw || accOf r i == .rws) = false := by
    unfold accOf
    split
    · rfl
    · simp [hrw, hrws]
  simp [storedEntry, hacc]

/-! ### Writes of the staging SRAM -/

/-- A write of whole words leaves no word covered in part. -/
theorem sramWords_whole {a n : Nat} (hlow : sramBase ≤ a) (ha : a % 8 = 0) (hn : n % 8 = 0) :
    (sramWords a n).filter (fun w => !sramWhole a n w) = [] := by
  refine List.filter_eq_nil_iff.mpr fun w hw => ?_
  simp only [sramWords] at hw
  split at hw
  · exact absurd hw List.not_mem_nil
  · obtain ⟨i, hi, rfl⟩ := List.mem_map.mp hw
    have hi := List.mem_range.mp hi
    simp only [sramWhole, Bool.not_eq_true', decide_eq_false_iff_not, not_not]
    unfold sramBase at *
    omega

/-- A write that finds no uncorrectable word where it covers one in part writes every byte, and makes the words that it
covers whole good again (R335, R339). -/
theorem sramPut_plain (a : Nat) (l : List Byte)
    (h : (sramWords a l.length).filter (fun w => !sramWhole a l.length w) = [] ∨ s.memory.badSram = []) :
    sramPut s a l = { s.setBytes a l with memory := { s.memory with
      badSram := s.memory.badSram.filter (fun w => !sramWhole a l.length w) } } := by
  have hread : sramRead s ((sramWords a l.length).filter fun w => !sramWhole a l.length w) .good = s := by
    rcases h with hnone | hclean
    · rw [hnone]; rfl
    · exact sramRead_clean _ hclean
  have hgood : ∀ w : Option Nat, (w.any fun w => ((sramWords a l.length).filter fun w => !sramWhole a l.length w).contains w &&
      s.memory.badSram.contains w) = false := by
    intro w
    cases w with
    | none => rfl
    | some w =>
      rcases h with hnone | hclean
      · rw [hnone]; rfl
      · rw [hclean]; simp
  unfold sramPut
  dsimp only
  simp only [hread, hgood, Bool.false_eq_true, if_false, Nat.add_zero, List.drop_zero, Nat.sub_zero, List.take_length,
    State.setBytes_memory]

end Sys2Proof.Machine
end

section
/-!
CERTIFICATE. The Lathe's commands: handover, hold, release, enables, section writes and the log (R261, R267, R270, R275,
R280, R282, R288 to R290, R295).
-/
namespace Sys2Proof.Machine

variable {s : State} {p : Port} {l : LoopId}

theorem exec_loopHandover (s : State) (p : Port) (l : LoopId) :
    exec (.loopHandover p l) s = .next (writeIf s p (s.superseded (.loop l)) E.loopCmd l 0 1 (handoverAct l)) := rfl
theorem exec_loopHold (s : State) (p : Port) (l : LoopId) :
    exec (.loopHold p l) s = .next (writeIf s p (s.superseded (.loop l)) E.loopCmd l 0 2 (holdAct l true)) := rfl
theorem exec_loopRelease (s : State) (p : Port) (l : LoopId) :
    exec (.loopRelease p l) s = .next (writeIf s p (s.superseded (.loop l)) E.loopCmd l 0 3 (holdAct l false)) := rfl
theorem exec_loopEnWrite (s : State) (p : Port) (l : LoopId) (v : Nat) :
    exec (.loopEnWrite p l v) s = .next (writeIf s p (s.superseded (.loop l)) E.loopEn l 0 v (loopEnAct l v)) := rfl
theorem exec_sectionWrite (s : State) (p : Port) (k : Slot) (sub ofs : Nat) (d : List Byte) :
    exec (.sectionWrite p k sub ofs d) s = .next (sectionWrite s p k sub ofs d) := rfl
theorem exec_logWrite (s : State) : exec .logWrite s = .next (logWriteAct s) := rfl
theorem exec_logEnWrite (s : State) (p : Port) (v : Nat) :
    exec (.logEnWrite p v) s = .next (writeIf s p (s.superseded noTarget) E.logEn 0 0 v (logEnAct v)) := rfl

theorem codeRange_ne_laterCode : codeRange ≠ laterCode := by decide
theorem codeState_ne_laterCode : codeState ≠ laterCode := by decide

/-! ### LOOP_CMD -/

/-- LOOP_CMD is not a stored entry (R478). -/
theorem storedEntry_loopCmd (i : Nat) : storedEntry E.loopCmd i = false :=
  storedEntry_of_acc (by decide) (by decide) i

theorem exec_loopHandover_of_accepted (h : Accepted s p (s.superseded (.loop l)) E.loopCmd l 0 1) :
    exec (.loopHandover p l) s = .next (if 98 ≤ l.val ∧ l.val < 194 then s.answer p codeRange
      else (s.setLoop l ((s.loop l).ask s.tick)).answer p okCode) := by
  rw [exec_loopHandover]
  split
  next hheater => rw [writeIf_act_refuses h (if_pos hheater) codeRange_ne_laterCode]
  next hother => rw [writeIf_act_unstored h (storedEntry_loopCmd l) (if_neg hother)]

/-! ### LOOP_EN -/

/-- A free loop (R271). -/
theorem not_ampLoop (hfree : 194 ≤ l.val) : ¬(2 ≤ l.val ∧ l.val < 98) := by omega

theorem loopEnAct_disables (hfree : 194 ≤ l.val) : loopEnAct l 0 s = (okCode, s.wr E.loopEn 0 l) := by
  have hamp := not_ampLoop hfree
  unfold loopEnAct
  rw [if_neg (by omega), if_pos rfl]
  dsimp only
  rw [if_neg hamp]

theorem loopEnAct_refuses (hfree : 194 ≤ l.val) (hoff : s.rd E.loopEn l ≠ 1) (hbad : chainsValid s l = false) :
    loopEnAct l 1 s = (codeRange, s) := by
  unfold loopEnAct
  rw [if_neg (by omega), if_neg Nat.one_ne_zero, if_neg hoff, hbad]
  rfl

theorem loopEnAct_enables (hfree : 194 ≤ l.val) (hoff : s.rd E.loopEn l ≠ 1) (hgood : chainsValid s l = true) :
    loopEnAct l 1 s = (okCode, (s.wr E.loopEn 1 l).wr E.refNow
      (sourceValue (s.wr E.loopEn 1 l) l (chainSource (s.wr E.loopEn 1 l) l (s.loop l).chainB)) l) := by
  unfold loopEnAct
  rw [if_neg (by omega), if_neg Nat.one_ne_zero, if_neg hoff, hgood]
  rfl

/-- The entries that a source may be read from (R269). -/
def sourceRows : List Row :=
  [E.srcConst, E.ampVLsb, E.preheatDuty, E.speedTarget, E.output, E.velEst, E.srcA, E.srcB]

/-- What a chain's source reads depends on the entries of sources and on the channels alone (R269). -/
theorem sourceValue_congr {t : State} {l : Nat} (hrd : ∀ r ∈ sourceRows, ∀ i, t.rd r i = s.rd r i)
    (hchan : ∀ c, t.chan c = s.chan c) (b : Bool) :
    sourceValue t l (chainSource t l b) = sourceValue s l (chainSource s l b) := by
  have hrow : ∀ r, r ∈ sourceRows → ∀ i, t.rd r i = s.rd r i := hrd
  have hsource : chainSource t l b = chainSource s l b := by
    simp only [chainSource, State.rdN, hrow E.srcA (by simp [sourceRows]), hrow E.srcB (by simp [sourceRows])]
  have hamp (c : Nat) : ampSample t c = ampSample s c := by
    simp only [ampSample, nearestSample, hchan]
  simp only [hsource, sourceValue, hamp, hchan, hrow E.srcConst (by simp [sourceRows]), hrow E.ampVLsb (by simp [sourceRows]),
    hrow E.preheatDuty (by simp [sourceRows]), hrow E.speedTarget (by simp [sourceRows]),
    hrow E.output (by simp [sourceRows]), hrow E.velEst (by simp [sourceRows])]

theorem sourceValue_wr_loopEn (l m : Nat) (v : Int) (b : Bool) :
    sourceValue (s.wr E.loopEn v m) l (chainSource (s.wr E.loopEn v m) l b) = sourceValue s l (chainSource s l b) := by
  refine sourceValue_congr (fun r hr i => State.rd_wr s _ _ _ _ _ _ _ fun he => ?_) (fun c => rfl) b
  unfold sourceRows at hr
  fin_cases hr <;> simp only [rowKey, E.srcConst, E.ampVLsb, E.preheatDuty, E.speedTarget, E.output, E.velEst, E.srcA,
    E.srcB, E.loopEn] at he <;> omega

/-- What enabling a free loop leaves. -/
theorem enabled_leaves (l : Nat) (v : Int) (u : State) (hu : u = (s.wr E.loopEn 1 l).wr E.refNow v l) :
    u.rd E.loopEn l = 1 ∧ u.rd E.refNow l = v ∧ u.sent = s.sent ∧
      SameBut s u [rowKey E.loopEn l 0, rowKey E.refNow l 0] := by
  subst hu
  have hne : rowKey E.loopEn l 0 ≠ rowKey E.refNow l 0 := by simp [rowKey, E.loopEn, E.refNow]
  refine ⟨by simp [State.rd_wr _ _ _ _ _ _ _ _ hne], by simp, rfl, ?_⟩
  exact ((SameBut.refl s _).wr (by simp) 1).wr (by simp) v

/-! ### Sections -/

/-- A write of a section entry that passes the checks. -/
structure SectionTaken (s : State) (p : Port) : Prop where
  port : portUp s p = true
  early : s.superseded noTarget = false
  on : s.domOn 10 = true
  dev : s.dev ≠ .boot
  idle : s.store.storing = none

theorem SectionTaken.sectionWrite {k sub ofs : Nat} {d : List Byte} {u : State} (h : SectionTaken s p) (hlow : 1 ≤ sub)
    (hhigh : sub ≤ 9) (hact : sectionWriteAct k sub ofs d s = (okCode, u)) :
    sectionWrite s p k sub ofs d = u.stale.answer p okCode := by
  obtain ⟨hport, hearly, hon, hdev, hidle⟩ := h
  have hsub : ¬(sub = 0 ∨ 9 < sub) := by omega
  unfold Machine.sectionWrite sectionCode
  simp [hport, hearly, hsub, hon, hdev, hidle, hact, reply_ok]

/-- Bytes laid over the whole of a list take its place. -/
theorem overlay_whole {a d : List Byte} (h : d.length = a.length) : overlay a 0 d = d := by
  simp [overlay, h]

theorem sectionWriteAct_whole {k : Nat} {d : List Byte} (h : d.length = 32) :
    sectionWriteAct k 9 0 d s = (okCode, noteRewrite (s.setSec k (sectionOf d)) k) := by
  have hlen : d.length = (sectionBytes (s.sec k)).length := by simp [h, sectionBytes]
  unfold sectionWriteAct
  simp [h, overlay_whole hlen]

theorem sectionWriteAct_b0 {k : Nat} {d : List Byte} {v : Int} (h : d.length = 4) (hv : v = signed 32 (ofBytes d))
    (hlow : -8388608 ≤ v) (hhigh : v ≤ 8388607) :
    sectionWriteAct k 1 0 d s = (okCode, s.setSec k { s.sec k with b0 := v }) := by
  subst hv
  unfold sectionWriteAct
  simp [h, hlow, hhigh, setField]

/-- What a section write leaves: the section, and what the loops note of it. -/
theorem section_leaves (k : Nat) (c : Section) (b : Bool) (m : List (Nat × LoopSt)) (u : State)
    (hu : u = ({ s.setSec k c with loops := m }.withStale b).answer p okCode) :
    u.sec k = c ∧ (∀ n, n ≠ k → u.sec n = s.sec n) ∧ u.sent = .answer p okCode [] :: s.sent ∧ SameBut s u [] := by
  subst hu
  exact ⟨State.setSec_same s k c, fun n hn => State.setSec_ne s n k c hn, rfl, SameBut.refl s _⟩

/-! ### The log -/

/-- A record that reaches a staging SRAM that is ready is written there (R290). -/
theorem logWriteAct_writes {r : List Byte} {rest : List (List Byte)} {a : Nat} (hq : s.logQ = r :: rest)
    (ha : a = s.rdN E.logBase + s.rdN E.logWr) (hin : inSram a 16 = true) (hon : s.domState 11 = 2) :
    logWriteAct s = (sramPut { s with logQ := rest } a r).wr E.logWr
      (((sramPut { s with logQ := rest } a r).rd E.logWr + 16) % (sramPut { s with logQ := rest } a r).rd E.logSize) := by
  unfold logWriteAct
  rw [hq]
  simp [← ha, hin, hon]

/-- One that finds the staging SRAM not ready is dropped with LOG_EN cleared (R290, R338). -/
theorem logWriteAct_drops {r : List Byte} {rest : List (List Byte)} {a : Nat} (hq : s.logQ = r :: rest)
    (ha : a = s.rdN E.logBase + s.rdN E.logWr) (hin : inSram a 16 = true) (hoff : s.domState 11 ≠ 2) :
    logWriteAct s = latheReport (({ s with logQ := rest }).wr E.logEn 0).stale 7 0 0 := by
  unfold logWriteAct
  rw [hq]
  simp [← ha, hin, hoff]

/-- Whole words of the staging SRAM begin at a multiple of 8. -/
theorem sixteen_whole {a : Nat} (hin : inSram a 16 = true) (ha : a % 8 = 0) :
    (sramWords a 16).filter (fun w => !sramWhole a 16 w) = [] := by
  refine sramWords_whole ?_ ha (by decide)
  simp only [inSram, decide_eq_true_eq] at hin
  exact hin.1

theorem logEnAct_refuses (ha : s.rdN E.logBase % 16 ≠ 0) : logEnAct 1 s = (codeRange, s) :=
  if_pos ⟨rfl, .inl ha⟩

theorem logEnAct_takes (ha : s.rdN E.logBase % 16 = 0) (hin : inSram (s.rdN E.logBase) (s.rdN E.logSize) = true) :
    logEnAct 1 s = (okCode, s.wr E.logEn 1) :=
  if_neg fun ⟨_, hbad⟩ => hbad.elim (fun hne => hne ha) fun hout => hout (.inr hin)

/-- What a record that is written leaves. -/
theorem logged_leaves {r : List Byte} {rest : List (List Byte)} {a : Nat} (hlen : r.length = 16) (m : MemSt) (u : State)
    (hu : u = ({ s.setBytes a r with logQ := rest, memory := m }).wr E.logWr ((s.rd E.logWr + 16) % s.rd E.logSize)) :
    u.logQ = rest ∧ u.bytes a 16 = r ∧ u.rd E.logWr = (s.rd E.logWr + 16) % s.rd E.logSize ∧
      (∀ x, ¬(a ≤ x ∧ x < a + 16) → u.byte x = s.byte x) ∧
      ∀ q i j, rowKey q i j ≠ rowKey E.logWr 0 0 → u.rd q i j = s.rd q i j := by
  subst hu
  refine ⟨rfl, State.bytes_setBytes s a 16 r hlen, by simp, fun x hx => ?_, fun q i j hq => ?_⟩
  · exact State.byte_setBytes s a x r (by rwa [hlen])
  · exact State.rd_wr _ _ _ _ _ _ _ _ hq

/-- Settles O23: each command by its own meaning, the log by the state of the staging SRAM. -/
theorem latheCommandsTakeEffect : Obligations.LatheCommandsTakeEffect := by
  refine ⟨fun p l s => ⟨exec_loopHandover_of_accepted, fun h => ?_, fun h => ?_, fun hfree h => ?_,
    fun hfree h hoff => ⟨fun hbad => ?_, fun hgood => ?_⟩⟩,
    fun p k d s hport hearly hon hdev hidle => ⟨fun hlen => ?_, fun v hlen hv hlow hhigh => ?_⟩,
    fun s r rest a hq ha hin hlen => ⟨fun hclean hon => ?_, fun hoff => ?_⟩, fun p s h => ⟨fun ha => ?_, fun ha hin => ?_⟩⟩
  · exact (exec_loopHold s p l).trans (congrArg _ (writeIf_act_unstored h (storedEntry_loopCmd l) rfl))
  · exact (exec_loopRelease s p l).trans (congrArg _ (writeIf_act_unstored h (storedEntry_loopCmd l) rfl))
  · exact gives_of_writeIf (exec_loopEnWrite s p l 0) h (loopEnAct_disables hfree) okCode_ne_laterCode fun b => ⟨b, rfl⟩
  · rw [exec_loopEnWrite]
    exact congrArg _ (writeIf_act_refuses h (loopEnAct_refuses hfree hoff hbad) codeRange_ne_laterCode)
  · refine gives_of_writeIf (exec_loopEnWrite s p l 1) h (loopEnAct_enables hfree hoff hgood) okCode_ne_laterCode fun b => ?_
    obtain ⟨hen, hnow, hsent, hsame⟩ := enabled_leaves (s := s) l.val _ _ rfl
    refine ⟨hen, hnow.trans (sourceValue_wr_loopEn _ _ _ _), ?_, (hsame.withStale b).answer p okCode []⟩
    simp
  · have h : SectionTaken s p := ⟨hport, hearly, hon, hdev, hidle⟩
    refine ⟨_, (exec_sectionWrite s p k 9 0 d).trans (congrArg _ (h.sectionWrite (by decide) (by decide)
      (sectionWriteAct_whole hlen))), ?_⟩
    obtain ⟨hsec, hother, hsent, hsame⟩ := section_leaves (s := s) (p := p) k.val (sectionOf d) true _ _ rfl
    refine ⟨?_, ?_, ?_, ?_, ?_, ?_, ?_, ?_, hother, hsent, hsame⟩
    all_goals exact congrArg _ hsec
  · have h : SectionTaken s p := ⟨hport, hearly, hon, hdev, hidle⟩
    refine ⟨_, (exec_sectionWrite s p k 1 0 d).trans (congrArg _ (h.sectionWrite (by decide) (by decide)
      (sectionWriteAct_b0 hlen hv hlow hhigh))), ?_⟩
    exact section_leaves (s := s) (p := p) k.val _ true s.loops _ rfl
  · have hput := sramPut_plain (s := { s with logQ := rest }) a r (by
      rw [hlen]
      exact hclean.imp (sixteen_whole hin) id)
    refine ⟨_, (exec_logWrite s).trans (congrArg _ (logWriteAct_writes hq ha hin hon)), ?_⟩
    rw [hput]
    exact logged_leaves hlen _ _ rfl
  · refine ⟨_, (exec_logWrite s).trans (congrArg _ (logWriteAct_drops hq ha hin hoff)), ?_⟩
    refine ⟨rfl, State.rd_wr_same { s with logQ := rest } E.logEn 0 0 0, rfl, ?_⟩
    exact (((SameBut.refl s _).wr (List.mem_cons_self ..) 0).withStale true).report 0xB0 7 0
  · exact (exec_logEnWrite s p 1).trans (congrArg _ (writeIf_act_refuses h (logEnAct_refuses ha) codeRange_ne_laterCode))
  · exact gives_of_writeIf (exec_logEnWrite s p 1) h (logEnAct_takes ha hin) okCode_ne_laterCode fun b => ⟨b, rfl⟩

end Sys2Proof.Machine
end

section
/-!
SUPPORT. What a sample of a Lathe loop leaves alone, and the entries that it may write (R265, R267, R268, R290).
-/
namespace Sys2Proof.Machine

variable {s t u : State} {keys keys' : List Nat}

@[simp] theorem State.setLoop_lathe (s : State) (l : Nat) (x : LoopSt) : (s.setLoop l x).lathe = s.lathe := rfl

/-- Of two values set for a loop the later one stays. -/
@[simp] theorem State.setLoop_setLoop (s : State) (l : Nat) (x y : LoopSt) : (s.setLoop l x).setLoop l y = s.setLoop l y := by
  simp only [State.setLoop, ains_ains_same]

@[simp] theorem latheFree_setLoop (s : State) (l : Nat) (x : LoopSt) : latheFree (s.setLoop l x) = latheFree s := rfl

/-! ### What the Lathe keeps -/

/-- The state without what a sample of a loop may touch: a step that keeps this keeps every other field. -/
def beyondLathe (s : State) : State :=
  { s with loops := [], secs := [], lathe := {}, dict := [], chans := [], fresh := 0, faultQ := [], logQ := [], logSeq := 0,
           logAt := none }

/-- From `s` to `t` the Lathe has worked: no entry outside `keys` has changed, and it has sent messages only. -/
structure LatheKeeps (keys : List Nat) (s t : State) : Prop where
  beyond : beyondLathe t = beyondLathe s
  rd : ∀ r i j, rowKey r i j ∉ keys → t.rd r i j = s.rd r i j
  faultQ : s.faultQ <+: t.faultQ

namespace LatheKeeps

theorem refl (keys : List Nat) (s : State) : LatheKeeps keys s s := ⟨rfl, fun _ _ _ _ => rfl, List.prefix_rfl⟩

theorem trans (h : LatheKeeps keys s t) (h' : LatheKeeps keys t u) : LatheKeeps keys s u :=
  ⟨h'.beyond.trans h.beyond, fun r i j hr => (h'.rd r i j hr).trans (h.rd r i j hr), h.faultQ.trans h'.faultQ⟩

theorem mono (h : LatheKeeps keys s t) (hsub : ∀ k ∈ keys, k ∈ keys') : LatheKeeps keys' s t :=
  ⟨h.beyond, fun r i j hr => h.rd r i j fun hmem => hr (hsub _ hmem), h.faultQ⟩

theorem rdN (h : LatheKeeps keys s t) {r : Row} {i j : Nat} (hr : rowKey r i j ∉ keys) : t.rdN r i j = s.rdN r i j :=
  congrArg Int.toNat (h.rd r i j hr)

theorem byte (h : LatheKeeps keys s t) (a : Nat) : t.byte a = s.byte a := (congrArg (State.byte · a) h.beyond :)
theorem sent (h : LatheKeeps keys s t) : t.sent = s.sent := (congrArg State.sent h.beyond :)
theorem dev (h : LatheKeeps keys s t) : t.dev = s.dev := (congrArg State.dev h.beyond :)
theorem gov (h : LatheKeeps keys s t) : t.gov = s.gov := (congrArg State.gov h.beyond :)
theorem tick (h : LatheKeeps keys s t) : t.tick = s.tick := (congrArg State.tick h.beyond :)
theorem was (h : LatheKeeps keys s t) : t.was = s.was := (congrArg State.was h.beyond :)
theorem doms (h : LatheKeeps keys s t) : t.doms = s.doms := (congrArg State.doms h.beyond :)
theorem shut (h : LatheKeeps keys s t) : t.shut = s.shut := (congrArg State.shut h.beyond :)

theorem sameBut (h : LatheKeeps keys s t) : SameBut s t keys := ⟨h.rd, h.byte⟩

theorem rdHeld (h : LatheKeeps keys s t) {r : Row} {i j : Nat} (hr : rowKey r i j ∉ keys) :
    t.rdHeld r i j = s.rdHeld r i j := by
  simp only [State.rdHeld, h.was, h.rd r i j hr]

theorem domOn (h : LatheKeeps keys s t) (d : Nat) : t.domOn d = s.domOn d := by
  simp only [State.domOn, State.domState, h.doms]

theorem setLoop (h : LatheKeeps keys s t) (l : Nat) (x : LoopSt) : LatheKeeps keys s (t.setLoop l x) :=
  ⟨h.beyond, h.rd, h.faultQ⟩
theorem setSec (h : LatheKeeps keys s t) (k : Nat) (c : Section) : LatheKeeps keys s (t.setSec k c) :=
  ⟨h.beyond, h.rd, h.faultQ⟩
theorem setChan (h : LatheKeeps keys s t) (c : Nat) (x : Chan) : LatheKeeps keys s (t.setChan c x) :=
  ⟨h.beyond, h.rd, h.faultQ⟩
theorem setLathe (h : LatheKeeps keys s t) (x : LatheSt) : LatheKeeps keys s { t with lathe := x } :=
  ⟨h.beyond, h.rd, h.faultQ⟩
theorem setFresh (h : LatheKeeps keys s t) (n : Nat) : LatheKeeps keys s { t with fresh := n } :=
  ⟨h.beyond, h.rd, h.faultQ⟩
theorem setLog (h : LatheKeeps keys s t) (q : List (List Byte)) (n : Nat) (a : Option Nat) :
    LatheKeeps keys s { t with logQ := q, logSeq := n, logAt := a } := ⟨h.beyond, h.rd, h.faultQ⟩

theorem report (h : LatheKeeps keys s t) (src kind addr : Nat) : LatheKeeps keys s (t.report src kind addr) :=
  ⟨h.beyond, h.rd, h.faultQ.trans (List.prefix_append _ _)⟩

theorem wr (h : LatheKeeps keys s t) {q : Row} {x y : Nat} (hq : rowKey q x y ∈ keys) (v : Int) :
    LatheKeeps keys s (t.wr q v x y) :=
  ⟨h.beyond, (h.sameBut.wr hq v).1, h.faultQ⟩

theorem count (h : LatheKeeps keys s t) {q : Row} {x : Nat} (hq : rowKey q x 0 ∈ keys) (n : Nat) :
    LatheKeeps keys s (t.count q x n) := h.wr hq _

theorem ite {p : Prop} [Decidable p] (ht : LatheKeeps keys s t) (hu : LatheKeeps keys s u) :
    LatheKeeps keys s (if p then t else u) := by
  split <;> assumption

end LatheKeeps

/-! ### The parts of a sample -/

theorem fitWord_latheKeeps (x : Int) (h : LatheKeeps keys s t) : LatheKeeps keys s (fitWord t x).2 := by
  unfold fitWord
  split
  · exact h
  · exact h.setFresh _

theorem setHistory_latheKeeps (v : Int) : ∀ (n k : Nat) {t : State}, LatheKeeps keys s t → LatheKeeps keys s (setHistory v n k t)
  | 0, _, _, h => h
  | n + 1, k, _, h => setHistory_latheKeeps v n (k + 1) (h.setSec k _)

theorem runChain_latheKeeps (lim y1 y2 : Int) : ∀ (n k : Nat) (x : Int) {t : State}, LatheKeeps keys s t →
    LatheKeeps keys s (runChain lim y1 y2 n k x t).1
  | 0, _, _, _, h => h
  | n + 1, k, _, _, h => runChain_latheKeeps lim y1 y2 n (k + 1) _ (h.setSec k _)

theorem noteSaturation_latheKeeps (l : Nat) (slots : List Nat) (hsat : rowKey E.satCount l 0 ∈ keys) (h : LatheKeeps keys s t) :
    LatheKeeps keys s (noteSaturation t l slots) := by
  unfold noteSaturation
  dsimp only
  split
  · exact h.setLoop _ _
  · refine LatheKeeps.ite (LatheKeeps.report ?_ _ _ _) ?_
    · exact ((h.setLoop _ _).count hsat _).setLoop _ _
    · exact (h.setLoop _ _).count hsat _

theorem logSample_latheKeeps (l : Nat) (held : Bool) (out : Int) (hdrop : rowKey E.logDropped 0 0 ∈ keys)
    (h : LatheKeeps keys s t) : LatheKeeps keys s (logSample t l held out) := by
  unfold logSample
  dsimp only
  refine h.ite (LatheKeeps.ite (h.setLoop _ _) (LatheKeeps.ite ?_ (LatheKeeps.ite (LatheKeeps.report ?_ _ _ _) ?_)))
  · exact (h.setLoop _ _).setLog _ _ _
  · exact ((h.setLoop _ _).count hdrop 1).setLog _ _ _
  · exact (h.setLoop _ _).count hdrop 1

theorem noteStill_latheKeeps (l : Nat) (held : Bool) (h : LatheKeeps keys s t) : LatheKeeps keys s (noteStill t l held) :=
  h.setLoop _ _

theorem holdSample_latheKeeps (l : Nat) (hheld : rowKey E.heldCount l 0 ∈ keys) (hdrop : rowKey E.logDropped 0 0 ∈ keys)
    (h : LatheKeeps keys s t) : LatheKeeps keys s (holdSample t l) :=
  logSample_latheKeeps l true _ hdrop ((noteStill_latheKeeps l true h).count hheld 1)

theorem takeHandover_latheKeeps (l : Nat) (h : LatheKeeps keys s t) : LatheKeeps keys s (takeHandover t l) := h.setLoop _ _

theorem setCeil_latheKeeps (l : Nat) (hit : Bool) (h : LatheKeeps keys s t) : LatheKeeps keys s (setCeil t l hit) :=
  LatheKeeps.ite (h.setChan _ _) h

theorem evalChain_latheKeeps (l : Nat) (b : Bool) (x : Int) (hsat : rowKey E.satCount l 0 ∈ keys) (h : LatheKeeps keys s t) :
    LatheKeeps keys s (evalChain t l b x).2 :=
  noteSaturation_latheKeeps l _ hsat (runChain_latheKeeps _ _ _ _ _ x (h.setLathe _))

/-! ### A whole sample -/

/-- The entries that a sample of loop l may write: the loop's own, those of the sinks, and the dropped log records. -/
def sampleKeys (l : Nat) : List Nat :=
  [E.output, E.y1, E.y2, E.hofs, E.refNow, E.satCount, E.heldCount].map (rowKey · l 0) ++
    [rowKey E.logDropped 0 0, rowKey E.speedReq 0 0] ++
    (List.range 96).flatMap fun c => [rowKey E.gain c 0, rowKey E.heaterDuty c 0]

theorem loopKey_mem {r : Row} (l : Nat) (hr : r ∈ [E.output, E.y1, E.y2, E.hofs, E.refNow, E.satCount, E.heldCount]) :
    rowKey r l 0 ∈ sampleKeys l :=
  List.mem_append_left _ (List.mem_append_left _ (List.mem_map_of_mem hr))

theorem logDropped_mem (l : Nat) : rowKey E.logDropped 0 0 ∈ sampleKeys l := by simp [sampleKeys]
theorem speedReq_mem (l : Nat) : rowKey E.speedReq 0 0 ∈ sampleKeys l := by simp [sampleKeys]

theorem sinkKey_mem {c : Nat} (hc : c < 96) (l : Nat) :
    rowKey E.gain c 0 ∈ sampleKeys l ∧ rowKey E.heaterDuty c 0 ∈ sampleKeys l := by
  have hmem {k : Nat} (hk : k ∈ [rowKey E.gain c 0, rowKey E.heaterDuty c 0]) : k ∈ sampleKeys l :=
    List.mem_append_right _ (List.mem_flatMap.mpr ⟨c, List.mem_range.mpr hc, hk⟩)
  exact ⟨hmem (by simp), hmem (by simp)⟩

section
variable {l : Nat} (h : LatheKeeps (sampleKeys l) s t)
include h

theorem deliver_latheKeeps (v : Int) : LatheKeeps (sampleKeys l) s (deliver t l v) := by
  have hout := h.wr (loopKey_mem (r := E.output) l (by simp)) v
  unfold deliver
  dsimp only
  split
  next hk => exact hout.wr (sinkKey_mem (by omega) l).1 _
  split
  next hk => exact hout.wr (sinkKey_mem (by omega) l).2 _
  exact LatheKeeps.ite (hout.wr (speedReq_mem l) _) hout

theorem chainInput_latheKeeps (b : Bool) : LatheKeeps (sampleKeys l) s (chainInput t l b).2 := by
  unfold chainInput
  dsimp only
  split
  · exact fitWord_latheKeeps _ (h.wr (loopKey_mem (r := E.refNow) l (by simp)) _)
  · exact h

theorem switchChain_latheKeeps : LatheKeeps (sampleKeys l) s (switchChain t l) := by
  unfold switchChain
  exact ((setHistory_latheKeeps _ _ _ (fitWord_latheKeeps _ (h.setLoop _ _))).wr (loopKey_mem (r := E.y1) l (by simp)) _).wr
    (loopKey_mem (r := E.y2) l (by simp)) _

omit h in
theorem finishSample_latheKeeps (g : Stage) (switching : Bool) (hg : LatheKeeps (sampleKeys l) s g.st) :
    LatheKeeps (sampleKeys l) s (finishSample g l switching) := by
  have hrest := fun v w x => (deliver_latheKeeps ((hg.wr (loopKey_mem (r := E.y2) l (by simp)) v).wr
    (loopKey_mem (r := E.y1) l (by simp)) w) g.u).setLoop l x
  unfold finishSample
  exact LatheKeeps.ite (hrest _ _ _) ((hrest _ _ _).wr (loopKey_mem (r := E.hofs) l (by simp)) _)

end

/-! ### The sample that is neither held nor forced -/

/-- The chain that a sample reads and its input, from the state in which the active chain is known. -/
def evaluated (s : State) (l : Nat) : Int × State :=
  evalChain (chainInput s l (s.loop l).chainB).2 l (s.loop l).chainB (chainInput s l (s.loop l).chainB).1

/-- A sample that does not switch evaluates the active chain (R265). -/
theorem activeSample_still {l : Nat} (top : Int) (h : switchesNow s l = false) : activeSample s l top =
    outputStage (evaluated (takeHandover s l) l).2 l (evaluated (takeHandover s l) l).1 top := by
  have hsw : (handoverDue s l || heaterSwitch s l) = false := h
  unfold activeSample
  simp only [hsw, Bool.false_eq_true, if_false, false_and]
  rfl

/-- The state in which a switching sample evaluates the incoming chain, its first history word being its input (R283). -/
def switchedInput (s : State) (l : Nat) : Int × State :=
  let x := chainInput s l (s.loop l).chainB
  (x.1, if chainLen x.2 l (s.loop l).chainB ≠ 0 then setHistory x.1 1 (chainFirst x.2 l (s.loop l).chainB) x.2 else x.2)

/-- A switching sample puts the difference of the chains into HOFS, and reports one that is too large (R283, R285). -/
def switchedOutput (old : Int) (l : Nat) (e : Int × State) : State :=
  let h := fitWord e.2 (old - e.1)
  let t := h.2.wr E.hofs h.1 l
  if t.rd E.loopHandoverTol l < |h.1| then latheReport t 3 l 0 else t

theorem activeSample_switching {l : Nat} (top : Int) (h : switchesNow s l = true) (v : State)
    (hv : v = switchChain (takeHandover s l) l) : activeSample s l top =
    outputStage (switchedOutput (s.rd E.output l) l
        (evalChain (switchedInput v l).2 l (v.loop l).chainB (switchedInput v l).1)) l
      (evalChain (switchedInput v l).2 l (v.loop l).chainB (switchedInput v l).1).1 top := by
  have hsw : (handoverDue s l || heaterSwitch s l) = true := h
  subst hv
  unfold activeSample
  simp only [hsw, if_true, true_and]
  rfl

section
variable {l : Nat} (h : LatheKeeps (sampleKeys l) s t)
include h

theorem switchedInput_latheKeeps : LatheKeeps (sampleKeys l) s (switchedInput t l).2 :=
  LatheKeeps.ite (setHistory_latheKeeps _ _ _ (chainInput_latheKeeps h _)) (chainInput_latheKeeps h _)

theorem switchedOutput_latheKeeps (old y : Int) : LatheKeeps (sampleKeys l) s (switchedOutput old l (y, t)) := by
  have hwr := fun v => (fitWord_latheKeeps (old - y) h).wr (loopKey_mem (r := E.hofs) l (by simp)) v
  unfold switchedOutput
  exact LatheKeeps.ite ((hwr _).report _ _ _) (hwr _)

theorem evaluated_latheKeeps : LatheKeeps (sampleKeys l) s (evaluated t l).2 :=
  evalChain_latheKeeps l _ _ (loopKey_mem l (by simp)) (chainInput_latheKeeps h _)

theorem activeSample_latheKeeps (top : Int) : LatheKeeps (sampleKeys l) s (activeSample t l top).st := by
  cases hsw : switchesNow t l
  · rw [activeSample_still top hsw]
    exact evaluated_latheKeeps (takeHandover_latheKeeps l h)
  · rw [activeSample_switching top hsw _ rfl]
    exact switchedOutput_latheKeeps (evalChain_latheKeeps l _ _ (loopKey_mem l (by simp))
      (switchedInput_latheKeeps (switchChain_latheKeeps (takeHandover_latheKeeps l h)))) _ _

end

theorem heaterStart_latheKeeps {c : Nat} (h : LatheKeeps (sampleKeys (98 + c)) s t) :
    LatheKeeps (sampleKeys (98 + c)) s (heaterStart t c) := by
  have hmem (r : Row) (hr : r ∈ [E.output, E.y1, E.y2, E.hofs, E.refNow, E.satCount, E.heldCount]) :=
    loopKey_mem (98 + c) hr
  unfold heaterStart
  exact ((((setHistory_latheKeeps _ _ _ ((h.setLoop _ _).wr (hmem E.output (by simp)) 0)).wr (hmem E.y1 (by simp)) 0).wr
    (hmem E.y2 (by simp)) 0).wr (hmem E.hofs (by simp)) 0).wr (hmem E.refNow (by simp)) _

theorem heaterForce_latheKeeps {c : Nat} (hc : c < 96) (h : LatheKeeps (sampleKeys (98 + c)) s t) :
    LatheKeeps (sampleKeys (98 + c)) s (heaterForce t c) := by
  have hoff := (h.wr (loopKey_mem (r := E.output) _ (by simp)) 0).wr (sinkKey_mem hc (98 + c)).2 0
  unfold heaterForce
  exact LatheKeeps.ite (h.setLoop _ _) (LatheKeeps.ite hoff (heaterStart_latheKeeps hoff))

/-! ### The cases of a sample -/

/-- The state in which a sample's force and hold conditions are looked at. -/
def sampleBegin (s : State) (l : Nat) : State :=
  let t := match heaterCh l with
    | some c => heaterForce s c
    | none => s
  t.setLoop l { t.loop l with sampledAt := some t.tick }

theorem sampleBegin_latheKeeps (l : Nat) (s : State) : LatheKeeps (sampleKeys l) s (sampleBegin s l) := by
  unfold sampleBegin
  refine LatheKeeps.setLoop ?_ l _
  cases hc : heaterCh l with
  | none => exact .refl _ s
  | some c =>
    simp only [heaterCh] at hc
    split at hc
    · obtain rfl : l = 98 + c := by injection hc; omega
      exact heaterForce_latheKeeps (by omega) (.refl _ s)
    · cases hc

/-- What a sample does from there: it is forced, held, held at the ceiling of its amplitude, or active. -/
def sampleGoesOn (t : State) (l : Nat) : State :=
  match forceValue t l with
  | some v => logSample (noteStill (deliver t l v) l false) l true v
  | none =>
    if loopHeld t l || ampHold t l then holdSample t l
    else match ceilingActs t l with
      | some g => setCeil (holdSample (deliver t l g) l) l true
      | none =>
        let u := setCeil (finishSample (activeSample t l (t.rdHeld E.outMax l)) l (switchesNow t l)) l false
        logSample u l false (u.rd E.output l)

theorem sampleLoop_eq (l : Nat) (s : State) : sampleLoop l s = sampleGoesOn (sampleBegin s l) l := rfl

theorem sampleGoesOn_forced {l : Nat} {v : Int} (h : forceValue t l = some v) :
    sampleGoesOn t l = logSample (noteStill (deliver t l v) l false) l true v := by
  simp only [sampleGoesOn, h]

theorem sampleGoesOn_held {l : Nat} (h : forceValue t l = none) (hheld : (loopHeld t l || ampHold t l) = true) :
    sampleGoesOn t l = holdSample t l := by
  simp only [sampleGoesOn, h, hheld, if_true]

theorem sampleGoesOn_active {l : Nat} (h : forceValue t l = none) (hheld : (loopHeld t l || ampHold t l) = false)
    (hceil : ceilingActs t l = none) (hu : u = setCeil (finishSample (activeSample t l (t.rdHeld E.outMax l)) l
      (switchesNow t l)) l false) : sampleGoesOn t l = logSample u l false (u.rd E.output l) := by
  subst hu
  simp only [sampleGoesOn, h, hheld, hceil, Bool.false_eq_true, if_false]

theorem sampleGoesOn_latheKeeps {l : Nat} (h : LatheKeeps (sampleKeys l) s t) :
    LatheKeeps (sampleKeys l) s (sampleGoesOn t l) := by
  have hdrop := logDropped_mem l
  have hheld : rowKey E.heldCount l 0 ∈ sampleKeys l := loopKey_mem l (by simp)
  unfold sampleGoesOn
  split
  · exact logSample_latheKeeps l _ _ hdrop (noteStill_latheKeeps l _ (deliver_latheKeeps h _))
  refine LatheKeeps.ite (holdSample_latheKeeps l hheld hdrop h) ?_
  split
  · exact setCeil_latheKeeps l _ (holdSample_latheKeeps l hheld hdrop (deliver_latheKeeps h _))
  · exact logSample_latheKeeps l _ _ hdrop (setCeil_latheKeeps l _ (finishSample_latheKeeps _ _
      (activeSample_latheKeeps h _)))

/-- A sample writes the loop's own entries and its sink. -/
theorem sampleLoop_latheKeeps (l : Nat) (s : State) : LatheKeeps (sampleKeys l) s (sampleLoop l s) :=
  sampleGoesOn_latheKeeps (sampleBegin_latheKeeps l s)

end Sys2Proof.Machine
end

section
/-!
CERTIFICATE. The whole sample of a free loop of one section, and the switching sample that leaves a default unlisted
(R260, R262, R265, R278, R283, R288).
-/
namespace Sys2Proof.Machine

variable {s t u : State} {l : Nat} {slot : Slot}

theorem exec_loopSample (s : State) (l : LoopId) (ecc : EccResult) (slot : Slot) :
    exec (.loopSample l ecc slot) s = .next (loopSampleAct l ecc slot s) := rfl

/-! ### Triggers -/

/-- A loop other than loop 0 that runs and is triggered by TICKs. -/
structure TickLoop (s : State) (l : Nat) : Prop where
  on : s.domOn 10 = true
  ne0 : l ≠ 0
  en : s.rd E.loopEn l = 1
  kind : s.rd E.trigKind l = 1

/-- The state in which a triggered sample has been noted. -/
def triggered (s : State) (l : Nat) : State := s.setLoop l { s.loop l with sampledAt := some s.tick }

theorem TickLoop.triggers {l : LoopId} (h : TickLoop s l) (hat : (s.loop l).sampledAt ≠ some s.tick) :
    loopSampleAct l .good slot s = trigger s ⟨2, s.tick, l, .good, slot⟩ s.tick := by
  obtain ⟨hon, hne, hen, hkind⟩ := h
  unfold loopSampleAct
  simp [hon, hne, hen, hkind, hat]

/-- The moment of the trigger stays that of the loop, whatever its sample does. -/
def afterSample (u : State) (l tick : Nat) : State := u.setLoop l { u.loop l with sampledAt := some tick }

@[simp] theorem afterSample_rd (u : State) (l tick : Nat) (r : Row) (i j : Nat) :
    (afterSample u l tick).rd r i j = u.rd r i j := rfl

theorem sectionEcc_good (s : State) (l k : Nat) : sectionEcc s l k .good = s := by
  unfold sectionEcc
  split <;> rfl

/-- A sample that finds the section engine free and none that waits starts at once (R278). -/
theorem trigger_starts {k : Nat} (hfree : latheFree s = true) (hnone : s.lathe.waiting = []) :
    trigger s ⟨2, s.tick, l, .good, k⟩ s.tick = afterSample (sampleLoop l (triggered s l)) l s.tick := by
  unfold trigger
  rw [if_neg (by simp [hnone])]
  dsimp only
  rw [if_pos (by simp [hfree, hnone])]
  unfold startWaiting
  simp [sectionEcc_good, afterSample, triggered]

/-! ### What a log record leaves -/

theorem logSample_secs (t : State) (l : Nat) (held : Bool) (out : Int) : (logSample t l held out).secs = t.secs := by
  unfold logSample
  dsimp only
  split
  · rfl
  split
  · rfl
  split
  · rfl
  · split <;> split <;> rfl

/-! ### Free loops -/

/-- A free loop has no heater and no force condition (R268, R271). -/
theorem heaterCh_free (hl : 194 ≤ l) : heaterCh l = none := if_neg (by omega)

theorem forceValue_free (hl : 194 ≤ l) : forceValue t l = none := by
  unfold forceValue
  rw [if_neg (by omega), heaterCh_free hl]

theorem sampleBegin_free (hl : 194 ≤ l) : sampleBegin (triggered s l) l = triggered s l := by
  unfold sampleBegin
  rw [heaterCh_free hl]
  simp [triggered]

theorem heaterSwitch_free (hl : 194 ≤ l) : heaterSwitch t l = false := by
  unfold heaterSwitch
  rw [heaterCh_free hl]

/-- A loop without a sink has no conditions of one. -/
theorem ampHold_of_no_sink (h : t.rd E.sink l = 0) : ampHold t l = false := by
  have hk : t.rdN E.sink l = 0 := congrArg Int.toNat h
  simp [ampHold, hk]

theorem ceilingActs_of_no_sink (h : t.rd E.sink l = 0) : ceilingActs t l = none := by
  have hk : t.rdN E.sink l = 0 := congrArg Int.toNat h
  simp [ceilingActs, hk]

theorem setCeil_of_no_sink (h : t.rd E.sink l = 0) (hit : Bool) : setCeil t l hit = t := by
  have hk : t.rdN E.sink l = 0 := congrArg Int.toNat h
  simp [setCeil, hk]

theorem deliver_of_no_sink (h : t.rd E.sink l = 0) (v : Int) : deliver t l v = t.wr E.output v l := by
  have hne : rowKey E.sink l 0 ≠ rowKey E.output l 0 := by simp [rowKey, E.sink, E.output]
  have hk : (t.wr E.output v l).rdN E.sink l = 0 := congrArg Int.toNat ((State.rd_wr _ _ _ _ _ _ _ _ hne).trans h)
  simp [deliver, hk]

/-! ### The end of a sample without a sink -/

/-- The entries that the end of such a sample writes. -/
def endKeys (l : Nat) : List Nat := [E.output, E.y1, E.y2, E.hofs].map (rowKey · l 0)

/-- What remains of R265 after the output stage. -/
theorem finishSample_leaves {g : Stage} (hsink : g.st.rd E.sink l = 0) (sw : Bool) (u : State) (hu : u = finishSample g l sw) :
    u.rd E.output l = g.u ∧ u.rd E.y2 l = g.st.rd E.y1 l ∧
      u.rd E.y1 l = clampInt (-g.st.rd E.stateLim l) (g.st.rd E.stateLim l)
        (if g.st.rd E.awBack l = 1 ∧ g.u ≠ g.y + g.st.rd E.hofs l then g.u - g.st.rd E.hofs l else g.y) ∧
      u.rd E.hofs l = (if sw then g.st.rd E.hofs l
        else stepToward (g.st.rd E.hofs l) 0 (g.st.rd E.loopHandoverSlew l)) ∧
      u.secs = g.st.secs ∧ LatheKeeps (endKeys l) g.st u := by
  obtain ⟨t, y, v, cl, sl⟩ := g
  dsimp only at hsink ⊢
  generalize hw : (if t.rd E.awBack l = 1 ∧ v ≠ y + t.rd E.hofs l then v - t.rd E.hofs l else y) = w
  have hsink' : ((t.wr E.y2 (t.rd E.y1 l) l).wr E.y1 (clampInt (-t.rd E.stateLim l) (t.rd E.stateLim l) w) l).rd E.sink l = 0 := by
    simpa (disch := simp [rowKey, E.sink, E.y1, E.y2]) [State.rd_wr] using hsink
  have hu' : u = if sw then ((((t.wr E.y2 (t.rd E.y1 l) l).wr E.y1 (clampInt (-t.rd E.stateLim l) (t.rd E.stateLim l) w) l).wr
        E.output v l).setLoop l { t.loop l with clamped := cl, slewed := sl, heldLast := false })
      else ((((t.wr E.y2 (t.rd E.y1 l) l).wr E.y1 (clampInt (-t.rd E.stateLim l) (t.rd E.stateLim l) w) l).wr
        E.output v l).setLoop l { t.loop l with clamped := cl, slewed := sl, heldLast := false }).wr E.hofs
          (stepToward (t.rd E.hofs l) 0 (t.rd E.loopHandoverSlew l)) l := by
    subst hu hw
    unfold finishSample
    dsimp only
    rw [deliver_of_no_sink hsink']
    simp (disch := simp [rowKey, E.loopHandoverSlew, E.output, E.y1, E.y2]) [State.rd_wr]
  subst hu'
  have hend : LatheKeeps (endKeys l) t ((((t.wr E.y2 (t.rd E.y1 l) l).wr E.y1
      (clampInt (-t.rd E.stateLim l) (t.rd E.stateLim l) w) l).wr E.output v l).setLoop l
        { t.loop l with clamped := cl, slewed := sl, heldLast := false }) :=
    ((((LatheKeeps.refl _ t).wr (by simp [endKeys]) _).wr (by simp [endKeys]) _).wr (by simp [endKeys]) _).setLoop _ _
  cases sw
  · refine ⟨?_, ?_, ?_, ?_, by simp, hend.wr (by simp [endKeys]) _⟩
    all_goals simp (disch := simp [rowKey, E.output, E.y1, E.y2, E.hofs]) [State.rd_wr]
  · refine ⟨?_, ?_, ?_, ?_, by simp, hend⟩
    all_goals simp (disch := simp [rowKey, E.output, E.y1, E.y2, E.hofs]) [State.rd_wr]

/-! ### The end of the sample of a free loop without a sink -/

theorem sinkKey_notMem (hlt : l < 240) : rowKey E.sink l 0 ∉ sampleKeys l := by
  simp only [sampleKeys, List.mem_append, List.mem_map, List.mem_flatMap, List.mem_range, List.mem_cons, List.not_mem_nil,
    or_false, exists_eq_or_imp, exists_eq_left, rowKey, E.sink, E.output, E.y1, E.y2, E.hofs, E.refNow, E.satCount, E.heldCount,
    E.logDropped, E.speedReq, E.gain, E.heaterDuty]
  rintro ((h | h) | ⟨c, hc, h⟩)
  · simp at h
  · omega
  · omega

theorem activeSample_sink {top : Int} (hlt : l < 240) (h : t.rd E.sink l = 0) : (activeSample t l top).st.rd E.sink l = 0 :=
  ((activeSample_latheKeeps (.refl _ t) top).rd _ _ _ (sinkKey_notMem hlt)).trans h

/-- The state at the end of a sample, before its log record. -/
def activeEnd (t : State) (l : Nat) : State :=
  finishSample (activeSample t l (t.rdHeld E.outMax l)) l (switchesNow t l)

theorem sampleGoesOn_free (hl : 194 ≤ l) (hlt : l < 240) (hheld : loopHeld t l = false) (hsink : t.rd E.sink l = 0) :
    sampleGoesOn t l = logSample (activeEnd t l) l false ((activeEnd t l).rd E.output l) := by
  have hend : (activeEnd t l).rd E.sink l = 0 :=
    ((finishSample_latheKeeps _ _ (activeSample_latheKeeps (.refl _ t) _)).rd _ _ _ (sinkKey_notMem hlt)).trans hsink
  exact sampleGoesOn_active (forceValue_free hl) (by rw [hheld, ampHold_of_no_sink hsink]; rfl) (ceilingActs_of_no_sink hsink)
    (setCeil_of_no_sink hend false).symm

/-- The log record and the moment of the trigger leave what the sample has done. -/
theorem freeSample_leaves (hl : 194 ≤ l) (hlt : l < 240) (hheld : loopHeld s l = false) (hsink : s.rd E.sink l = 0) (w : State)
    (hw : w = afterSample (sampleLoop l (triggered s l)) l s.tick) :
    LatheKeeps [rowKey E.logDropped 0 0] (activeEnd (triggered s l) l) w ∧ w.secs = (activeEnd (triggered s l) l).secs := by
  have hheld' : loopHeld (triggered s l) l = false := by simpa [loopHeld, triggered] using hheld
  rw [sampleLoop_eq, sampleBegin_free hl, sampleGoesOn_free hl hlt hheld' hsink] at hw
  generalize activeEnd (triggered s l) l = v at *
  subst hw
  exact ⟨(logSample_latheKeeps l false _ (by simp) (.refl _ v)).setLoop _ _, logSample_secs v l false _⟩

/-! ### The sample of a free loop of one section -/

/-- The slots that saturate are counted; a message may follow (R260). -/
theorem noteSaturation_leaves {slots : List Nat} (hlen : slots.length ≤ 1) (u : State) (hu : u = noteSaturation t l slots) :
    u.rd E.satCount l = (if slots = [] then t.rd E.satCount l else min (t.rd E.satCount l + 1) (2 ^ 32 - 1)) ∧
      u.secs = t.secs ∧ LatheKeeps [rowKey E.satCount l 0] t u := by
  subst hu
  have hkeeps := noteSaturation_latheKeeps (keys := [rowKey E.satCount l 0]) l slots (by simp) (.refl _ t)
  refine ⟨?_, ?_, hkeeps⟩
  · match slots, hlen with
    | [], _ => rfl
    | [k], _ =>
      have hcount := rd_count_same (t.setLoop l { t.loop l with saturated := true }) E.satCount l 1
      unfold noteSaturation
      dsimp only
      split <;> split <;> exact hcount
  · unfold noteSaturation
    dsimp only
    split
    · rfl
    · split <;> split <;> rfl

/-- A chain of one section (R260, R262). -/
theorem evalChain_single {b : Bool} {x raw y : Int} {c : Section} (hlen : chainLen t l b = 1) (hc : c = t.sec (chainFirst t l b))
    (hraw : raw = sectionOut c x (t.rd E.y1 l) (t.rd E.y2 l)) (hy : y = clampInt wordMin wordMax raw) :
    evalChain t l b x = (y, noteSaturation ((latheWork t 1).setSec (chainFirst t l b)
      { c with x2 := c.x1, x1 := clampInt (-t.rd E.stateLim l) (t.rd E.stateLim l) x }) l
        (if y = raw then [] else [chainFirst t l b])) := by
  subst hc hy hraw
  have hlen' : chainLen (latheWork t 1) l b = 1 := hlen
  unfold evalChain
  simp only [hlen, hlen', runChain, if_true]
  rfl

/-- The source of a chain at a sample that does not ramp a reference. -/
theorem chainInput_plain {b : Bool} (hx : chainXmode t l b = false) :
    chainInput t l b = (sourceValue t l (chainSource t l b), t) := by
  unfold chainInput
  rw [hx]
  rfl

/-- The active chain of a loop is one section with a plain source. -/
structure OneSection (s : State) (l : Nat) (b : Bool) : Prop where
  chain : b = (s.loop l).chainB
  plain : chainXmode s l b = false
  len : chainLen s l b = 1

/-- The section's output before saturation at a sample (R260). -/
def sectionRaw (s : State) (l : Nat) (b : Bool) : Int :=
  sectionOut (s.sec (chainFirst s l b)) (sourceValue s l (chainSource s l b)) (s.rd E.y1 l) (s.rd E.y2 l)

/-- What a section keeps of a sample (R260). -/
def sectionShifted (s : State) (l : Nat) (b : Bool) : Section :=
  { s.sec (chainFirst s l b) with
    x2 := (s.sec (chainFirst s l b)).x1
    x1 := clampInt (-s.rd E.stateLim l) (s.rd E.stateLim l) (sourceValue s l (chainSource s l b)) }

theorem evaluated_section {b : Bool} {y : Int} (h : OneSection t l b) (hy : y = clampInt wordMin wordMax (sectionRaw t l b)) :
    (evaluated t l).1 = y ∧ (evaluated t l).2.rd E.satCount l =
        (if y = sectionRaw t l b then t.rd E.satCount l else min (t.rd E.satCount l + 1) (2 ^ 32 - 1)) ∧
      (evaluated t l).2.sec (chainFirst t l b) = sectionShifted t l b ∧
      (∀ k, k ≠ chainFirst t l b → (evaluated t l).2.sec k = t.sec k) ∧
      LatheKeeps [rowKey E.satCount l 0] t (evaluated t l).2 := by
  obtain ⟨hb, hplain, hlen⟩ := h
  have heval : evaluated t l = (y, noteSaturation ((latheWork t 1).setSec (chainFirst t l b) (sectionShifted t l b)) l
      (if y = sectionRaw t l b then [] else [chainFirst t l b])) := by
    unfold evaluated
    rw [← hb, chainInput_plain hplain]
    exact evalChain_single hlen rfl rfl hy
  rw [heval]
  obtain ⟨hsat, hsecs, hkeeps⟩ := noteSaturation_leaves (l := l) (t := (latheWork t 1).setSec (chainFirst t l b)
    (sectionShifted t l b)) (slots := if y = sectionRaw t l b then [] else [chainFirst t l b]) (by split <;> simp) _ rfl
  refine ⟨rfl, hsat.trans ?_, ?_, fun k hk => ?_, (((LatheKeeps.refl _ t).setLathe _).setSec _ _).trans hkeeps⟩
  · split <;> simp [latheWork, State.rd, State.setSec]
  · simp only [State.sec, hsecs]
    exact State.setSec_same _ _ _
  · simp only [State.sec, hsecs]
    exact State.setSec_ne _ _ _ _ hk

/-- The other entries of a loop that the end of its sample reads. -/
def endRows : List Row :=
  [E.output, E.y1, E.y2, E.hofs, E.outMin, E.outMax, E.slewDown, E.slewUp, E.stateLim, E.awBack, E.loopHandoverSlew, E.sink]

theorem endRows_notMem {r : Row} (hr : r ∈ endRows) (l : Nat) : rowKey r l 0 ∉ [rowKey E.satCount l 0] := by
  unfold endRows at hr
  fin_cases hr <;> simp [rowKey, E.output, E.y1, E.y2, E.hofs, E.outMin, E.outMax, E.slewDown, E.slewUp, E.stateLim, E.awBack,
    E.loopHandoverSlew, E.sink, E.satCount]

/-- The sample of a loop without a sink whose active chain is one section, but for its log record (R260, R262, R265, R288). -/
theorem activeEnd_section {b : Bool} {y z v : Int} (h : OneSection t l b) (hdue : switchesNow t l = false)
    (hsink : t.rd E.sink l = 0) (hy : y = clampInt wordMin wordMax (sectionRaw t l b)) (hz : z = y + t.rd E.hofs l)
    (hv : v = t.rd E.output l + limitStep (clampInt (t.rdHeld E.outMin l) (t.rdHeld E.outMax l) z - t.rd E.output l)
      (t.rdHeld E.slewDown l) (t.rdHeld E.slewUp l)) (u : State) (hu : u = activeEnd t l) :
    u.rd E.output l = v ∧ u.rd E.y2 l = t.rd E.y1 l ∧
      u.rd E.y1 l = clampInt (-t.rd E.stateLim l) (t.rd E.stateLim l)
        (if t.rd E.awBack l = 1 ∧ v ≠ z then v - t.rd E.hofs l else y) ∧
      u.sec (chainFirst t l b) = sectionShifted t l b ∧ (∀ k, k ≠ chainFirst t l b → u.sec k = t.sec k) ∧
      u.rd E.hofs l = stepToward (t.rd E.hofs l) 0 (t.rd E.loopHandoverSlew l) ∧
      u.rd E.satCount l =
        (if y = sectionRaw t l b then t.rd E.satCount l else min (t.rd E.satCount l + 1) (2 ^ 32 - 1)) ∧
      LatheKeeps (rowKey E.satCount l 0 :: endKeys l) t u := by
  have htake : OneSection (takeHandover t l) l b := ⟨by simpa [takeHandover] using h.chain, h.plain, h.len⟩
  obtain ⟨hyv, hsat, hsec, hsecs, hkeeps⟩ := evaluated_section (y := y) htake hy
  have hn : LatheKeeps [rowKey E.satCount l 0] t (evaluated (takeHandover t l) l).2 :=
    (takeHandover_latheKeeps l (.refl _ t)).trans hkeeps
  have hu' := hu
  rw [activeEnd, hdue, activeSample_still _ hdue, hyv] at hu'
  generalize (evaluated (takeHandover t l) l).2 = n at *
  have hold {r : Row} (hr : r ∈ endRows) : n.rd r l = t.rd r l := hn.rd _ _ _ (endRows_notMem hr l)
  have hheld {r : Row} (hr : r ∈ endRows) : n.rdHeld r l = t.rdHeld r l := hn.rdHeld (endRows_notMem hr l)
  have hout : (outputStage n l y (t.rdHeld E.outMax l)).u = v := by
    simp only [outputStage, hold (r := E.output) (by simp [endRows]), hold (r := E.hofs) (by simp [endRows]),
      hheld (r := E.outMin) (by simp [endRows]), hheld (r := E.slewDown) (by simp [endRows]),
      hheld (r := E.slewUp) (by simp [endRows]), hv, hz]
  obtain ⟨houtput, hy2, hy1, hhofs, hsecsu, hkeepsu⟩ := finishSample_leaves (l := l)
    (g := outputStage n l y (t.rdHeld E.outMax l)) ((hold (r := E.sink) (by simp [endRows])).trans hsink) false u hu'
  have hsatk : rowKey E.satCount l 0 ∉ endKeys l := by
    simp [endKeys, rowKey, E.output, E.y1, E.y2, E.hofs, E.satCount]
  change LatheKeeps (endKeys l) n u at hkeepsu
  change u.secs = n.secs at hsecsu
  rw [hout] at houtput hy1
  refine ⟨houtput, hy2.trans (hold (by simp [endRows])), ?_, ?_, fun k hk => ?_, ?_, ?_, ?_⟩
  · simpa only [outputStage, hold (r := E.stateLim) (by simp [endRows]), hold (r := E.awBack) (by simp [endRows]),
      hold (r := E.hofs) (by simp [endRows]), hz] using hy1
  · rw [State.sec, hsecsu]; exact hsec
  · rw [State.sec, hsecsu]; exact hsecs k hk
  · simpa only [outputStage, hold (r := E.hofs) (by simp [endRows]), hold (r := E.loopHandoverSlew) (by simp [endRows]),
      Bool.false_eq_true, if_false] using hhofs
  · exact (hkeepsu.rd _ _ _ hsatk).trans hsat
  · exact (hn.mono (by simp)).trans (hkeepsu.mono fun k hk => List.mem_cons_of_mem _ hk)

/-- Settles O21: the sample starts at once; its end without a sink, then the log record and the trigger's moment. -/
theorem freeLoopSampleComputes : Obligations.FreeLoopSampleComputes := by
  unfold Obligations.FreeLoopSampleComputes
  intro l slot s b c x lim hofs raw y z u0 u hon hl hen hkind hat hfree hnone hheld hdue hsink hb hplain hlen hc hx hlim hhofs
    hraw hy hz hu0 hu
  have hloop : TickLoop s l := ⟨hon, by omega, hen, hkind⟩
  have hsection : OneSection (triggered s l) l b := ⟨by simpa [triggered] using hb, hplain, hlen⟩
  have hstill : switchesNow (triggered s l) l = false := by
    have hdue' : handoverDue (triggered s l) l = false := by simpa [handoverDue, triggered, LoopSt.late] using hdue
    simp [switchesNow, hdue', heaterSwitch_free hl]
  have hrawt : sectionRaw (triggered s l) l b = raw := by subst hc hx hraw; rfl
  obtain ⟨hout, hy2, hy1, hsec, hsecs, hhofst, hsat, hkeeps⟩ := activeEnd_section (y := y) (z := z) (v := u) hsection hstill hsink
    (by rw [hrawt]; exact hy) (by rw [hz, hhofs]; rfl) (by rw [hu, hu0]; rfl) _ rfl
  obtain ⟨hlog, hlogsecs⟩ := freeSample_leaves hl l.isLt hheld hsink _ rfl
  refine ⟨_, (exec_loopSample ..).trans (congrArg _ ((hloop.triggers hat).trans (trigger_starts hfree hnone))), ?_⟩
  generalize afterSample (sampleLoop l (triggered s l)) l s.tick = w at *
  generalize activeEnd (triggered s l) l = e at *
  have hrd {r : Row} (hr : r ∈ [E.output, E.y1, E.y2, E.hofs, E.satCount, E.heldCount]) : w.rd r l = e.rd r l := by
    refine hlog.rd r l 0 ?_
    fin_cases hr <;> simp [rowKey, E.output, E.y1, E.y2, E.hofs, E.satCount, E.heldCount, E.logDropped] <;> omega
  have hkeepsw : LatheKeeps [rowKey E.output l 0, rowKey E.y1 l 0, rowKey E.y2 l 0, rowKey E.hofs l 0, rowKey E.satCount l 0,
      rowKey E.logDropped 0 0] s w :=
    (((LatheKeeps.refl _ s).setLoop l _).trans (hkeeps.mono (by simp [endKeys]))).trans (hlog.mono (by simp))
  refine ⟨(hrd (by simp)).trans hout, (hrd (by simp)).trans hy2, ?_, ?_, fun k hk => ?_, ?_, ?_, ?_, hkeepsw.sent,
    hkeepsw.faultQ, hkeepsw.sameBut⟩
  · rw [hrd (by simp), hy1, hlim, hhofs]; rfl
  · rw [State.sec, hlogsecs]
    refine hsec.trans ?_
    subst hc hx hlim
    rfl
  · rw [State.sec, hlogsecs]; exact hsecs k hk
  · rw [hrd (by simp), hhofst, hhofs]; rfl
  · rw [hrd (by simp), hsat, hrawt]; rfl
  · refine hkeepsw.rd _ _ _ ?_
    simp [rowKey, E.output, E.y1, E.y2, E.hofs, E.satCount, E.heldCount, E.logDropped]
    omega

/-! ### Refutation of O22 -/

/-- A loop with a handover to a chain without sections due, whose OUTPUT is listed in the dictionary at its default 0: the
switching sample writes the same value, which a dictionary leaves unlisted. -/
def outputListed : State :=
  { Tests.looping.setLoop 239 { pendOdd := true, pend := true } with dict := ains (rowKey E.output 239 0) 0 Tests.looping.dict }

/-- A row that shares the keys of OUTPUT and reads 1 where the dictionary lists none. -/
def outputShadow : Row := { E.output with dflt := fun _ _ => 1 }

theorem outputListed_rd : outputListed.rd outputShadow 239 = 0 := by decide

theorem outputListed_sampled_rd : (loopSampleAct 239 .good 0 outputListed).rd outputShadow 239 = 1 := by decide

/-- Refutes O22: in a state whose dictionary lists OUTPUT at its default, a switching sample that keeps OUTPUT takes the key
from the dictionary, and a row with that key and another default then reads another value. -/
theorem not_loopSampleSpecialCases : ¬ Obligations.LoopSampleSpecialCases := by
  unfold Obligations.LoopSampleSpecialCases
  intro h
  obtain ⟨-, -, -, -, hswitch⟩ := h 239 0 outputListed (by decide) (by decide) (by decide) (by decide)
  obtain ⟨t, ht, -, -, -, -, -, -, hrd, -⟩ := hswitch true 0 (by decide) (by decide) (by decide) (by decide) (by decide) (by decide)
    (by decide) (by decide) (by decide) (by decide) (by decide) (by decide) (by decide) (by decide) (by decide) (by decide) (by decide)
  obtain rfl : t = loopSampleAct 239 .good 0 outputListed := by injection ht with ht; exact ht.symm
  have hkept := hrd outputShadow 239 0 (by decide)
  rw [outputListed_rd, outputListed_sampled_rd] at hkept
  exact absurd hkept (by decide)

end Sys2Proof.Machine
end

section
/-!
CERTIFICATE. A planning interval in a state whose SERVED_BY names no engine that exists (R223, R243, R244).
-/
namespace Sys2Proof.Machine

/-- Printing on channels 5 and 7, the only ones present, both 2,048 lines behind the write pointer of ring buffer 0; channel 5
is served by a number that is no engine's, whose LEARN_STATUS shares its key with FEED_RB of channel 7 and whose learn scan the
interval discards. -/
def servedByNoEngine : State :=
  ({ Tests.with_ Tests.up [(E.servedBy, 5, 9984), (E.rbWr, 0, 2048), (E.feedRb, 5, 0), (E.feedRb, 7, 0)] with
      dev := .printing, gov := { decel := 1000 }
      otp := { Tests.up.otp with absent := (List.range 96).filter fun c => c != 5 && c != 7 } }.setChan 5 {}).setEng 9984
    { learn := some ⟨0, [], 0, [], 0, 1, 0, 0⟩ }

/-- The key that the interval overwrites. -/
theorem learnStatus_key_feedRb : rowKey E.learnStatus 9984 0 = rowKey E.feedRb 7 0 := by decide

/-- The discarded scan takes ring buffer 6 for channel 7, which holds no lines: the target is 0. -/
theorem servedByNoEngine_target : (planningAct servedByNoEngine).rd E.speedTarget = 0 := by decide +kernel

/-- The terms of the target as the interval began give more. -/
theorem servedByNoEngine_terms : 0 < min (planningAct servedByNoEngine).gov.speedMax
    (min ((planningAct servedByNoEngine).rdN E.rQuota) (rateOfBufferOrZero (takeLimits servedByNoEngine))) := by
  decide +kernel

/-- Refutes O20: where SERVED_BY holds a number that is no engine's, a discarded learn scan may write over FEED_RB before the
target is computed, so that the target is not that of the lines ahead at the interval's beginning. -/
theorem not_speedIsPlannedAndShown : ¬ Obligations.SpeedIsPlannedAndShown := by
  unfold Obligations.SpeedIsPlannedAndShown
  rintro ⟨hplan, -⟩
  obtain ⟨t, ht, -, -, -, -, -, htarget, -⟩ := hplan servedByNoEngine (by decide)
  obtain rfl : t = planningAct servedByNoEngine := by injection ht with ht; exact ht.symm
  rw [servedByNoEngine_target] at htarget
  have hpos := lt_max_of_lt_right (b := (planningAct servedByNoEngine).gov.floor) servedByNoEngine_terms
  exact absurd htarget (by exact_mod_cast hpos.ne)

end Sys2Proof.Machine
end

section
/-!
SUPPORT. What firing, dropping and caring for lines leave alone beyond the channels, the engines and what is sent.
-/
namespace Sys2Proof.Machine

variable {s t u : State} {keys : List Nat}

/-! ### Beyond the channels, the engines and what is sent -/

/-- The state without its channels, engines, messages and outputs: a step that keeps this keeps every other field. -/
def beyondFire (s : State) : State :=
  { s with chans := [], engs := [], sent := [], faultQ := [], fresh := 0, acted := [] }

@[simp] theorem setChan_beyondFire (s : State) (c : Nat) (x : Chan) : beyondFire (s.setChan c x) = beyondFire s := rfl
@[simp] theorem setEng_beyondFire (s : State) (e : Nat) (x : EngSt) : beyondFire (s.setEng e x) = beyondFire s := rfl
@[simp] theorem emit_beyondFire (s : State) (o : Out) : beyondFire (s.emit o) = beyondFire s := rfl
@[simp] theorem report_beyondFire (s : State) (src kind addr : Nat) : beyondFire (s.report src kind addr) = beyondFire s := rfl
@[simp] theorem act_beyondFire (s : State) (x : Target) (a : Act) : beyondFire (s.act x a) = beyondFire s := rfl
@[simp] theorem fresh_beyondFire (s : State) (n : Nat) : beyondFire { s with fresh := n } = beyondFire s := rfl

theorem rd_of_beyondFire (h : beyondFire t = beyondFire s) (r : Row) (i j : Nat) : t.rd r i j = s.rd r i j :=
  (congrArg (State.rd · r i j) h :)

theorem roundWord_beyondFire (s : State) (x : Rat) : beyondFire (roundWord s x).2 = beyondFire s := by
  obtain ⟨n, hn⟩ := roundWord_eq s x
  rw [hn, fresh_beyondFire]

theorem sendBlocks_beyondFire (s : State) (c : Nat) (b : Built) (upTo : Option Nat) :
    beyondFire (sendBlocks s c b upTo) = beyondFire s := by
  unfold sendBlocks
  dsimp only
  split <;> split <;> rfl

theorem sendBuilt_beyondFire (s : State) (c : Nat) (upTo : Option Nat) : beyondFire (sendBuilt s c upTo) = beyondFire s := by
  unfold sendBuilt
  split
  · rfl
  · split
    · rfl
    · exact sendBlocks_beyondFire ..

theorem handProbe_beyondFire (s : State) (b : Built) (y : Cycle) (unfired : Bool) :
    beyondFire (handProbe s b y unfired) = beyondFire s := by
  unfold handProbe
  split <;> rfl

theorem dropBuilt_beyondFire (s : State) (c : Nat) (l : Lock) : beyondFire (dropBuilt s c l) = beyondFire s := by
  unfold dropBuilt
  dsimp only
  rw [setChan_beyondFire]
  split
  · exact sendBuilt_beyondFire ..
  · exact (handProbe_beyondFire ..).trans (sendBuilt_beyondFire ..)

theorem dropPaused_beyondFire (s : State) (c : Nat) : beyondFire (dropPaused s c) = beyondFire s := by
  unfold dropPaused
  split
  · rfl
  · exact dropBuilt_beyondFire ..

theorem dropLearn_beyondFire (s : State) (e : Nat) : beyondFire (dropLearn s e) = beyondFire s := by
  unfold dropLearn
  dsimp only
  split <;> rfl

theorem supplyCheck_beyondFire (s : State) (c : Nat) : beyondFire (supplyCheck s c) = beyondFire s := by
  unfold supplyCheck ampFaultMsg
  dsimp only
  split
  · rfl
  · split <;> rfl

end Sys2Proof.Machine
end
section
/-!
CERTIFICATE. A head-care round: head temperatures, pauses and the time stretch (R199, R206 to R213).
-/
namespace Sys2Proof.Machine

variable {s t u : State} {keys : List Nat}

/-! ### What a round keeps -/

/-- From `s` to `t` the round has changed no entry of a low object but those in `keys`, put no engine into legacy shift mode, and
left the channels present that were. -/
structure CareKeeps (keys : List Nat) (s t : State) : Prop where
  rd : ∀ r i j, rowKey r i j ∉ keys → rowKey r i j < 0x420000 → t.rd r i j = s.rd r i j
  mode : ∀ e, t.rd E.hlMode e = 1 → s.rd E.hlMode e = 1
  present : ∀ c, t.chPresent c = s.chPresent c

namespace CareKeeps

theorem refl (keys : List Nat) (s : State) : CareKeeps keys s s := ⟨fun _ _ _ _ _ => rfl, fun _ h => h, fun _ => rfl⟩

theorem trans (h : CareKeeps keys s t) (h' : CareKeeps keys t u) : CareKeeps keys s u :=
  ⟨fun r i j hr hlow => (h'.rd r i j hr hlow).trans (h.rd r i j hr hlow), fun _ he => h.mode _ (h'.mode _ he),
    fun c => (h'.present c).trans (h.present c)⟩

theorem of_beyondFire (h : beyondFire t = beyondFire s) : CareKeeps keys s t :=
  ⟨fun r i j _ _ => rd_of_beyondFire h r i j, fun _ he => (rd_of_beyondFire h _ _ _).symm.trans he,
    fun c => (congrArg (State.chPresent · c) h :)⟩

/-- A write of an entry below the engines' objects. -/
theorem wr (s : State) {q : Row} {x y : Nat} (hq : rowKey q x y ∈ keys) (hlow : rowKey q x y < 0x300000) (v : Int) :
    CareKeeps keys s (s.wr q v x y) := by
  refine ⟨fun r i j hr _ => ((SameBut.refl s keys).wr hq v).1 r i j hr, fun _ he => ?_, fun _ => rfl⟩
  rwa [State.rd_wr] at he
  simp only [rowKey, E.hlMode] at hlow ⊢
  omega

theorem mono {keys' : List Nat} (h : CareKeeps keys s t) (hsub : ∀ k ∈ keys, k ∈ keys') : CareKeeps keys' s t :=
  ⟨fun r i j hr => h.rd r i j fun hmem => hr (hsub _ hmem), h.mode, h.present⟩

theorem serving (h : CareKeeps keys s t) {c : Nat} (hc : c < 96) (hk : rowKey E.servedBy c 0 ∉ keys) :
    serving t c = serving s c := by
  have hserved : t.rdN E.servedBy c = s.rdN E.servedBy c := congrArg Int.toNat <| h.rd _ _ _ hk <| by
    simp only [rowKey, E.servedBy]
    omega
  simp only [Machine.serving, hserved, h.present]

theorem legacy (h : CareKeeps keys s t) {c : Nat} (hc : c < 96) (hk : rowKey E.servedBy c 0 ∉ keys)
    (hleg : Machine.legacy s c = false) : Machine.legacy t c = false := by
  simp only [Machine.legacy, reporter, h.serving hc hk, beq_eq_false_iff_ne, ne_eq] at hleg ⊢
  exact fun he => hleg (h.mode _ he)

theorem ite {p : Prop} [Decidable p] (ht : CareKeeps keys s t) (hu : CareKeeps keys s u) :
    CareKeeps keys s (if p then t else u) := by
  split <;> assumption

end CareKeeps

/-- A discarded learn scan writes the LEARN_STATUS of its engine, whatever its number. -/
theorem discardLearn_careKeeps (s : State) (e : Nat) : CareKeeps keys s (discardLearn s e) := by
  unfold discardLearn
  refine CareKeeps.ite (.refl _ s) ((CareKeeps.of_beyondFire (dropLearn_beyondFire s e)).trans ?_)
  refine ⟨fun r i j _ hlow => State.rd_wr _ _ _ _ _ _ _ _ ?_, fun e' he => ?_, fun c => rfl⟩
  · simp only [rowKey, E.learnStatus] at hlow ⊢
    omega
  · by_cases hk : rowKey E.hlMode e' 0 = rowKey E.learnStatus e 0
    · rw [State.rd_wr_key _ _ _ _ _ _ _ _ hk] at he
      exact absurd he (by simp [E.learnStatus])
    · rwa [State.rd_wr _ _ _ _ _ _ _ _ hk] at he

/-! ### A round's keys -/

/-- The entries that a round may write for a channel. -/
def careKeys (c : Nat) : List Nat :=
  sampleKeys (98 + c) ++ [E.headRaw, E.vSup, E.stretch, E.headTemp, E.tempSrc, E.paused].map (rowKey · c 0)

theorem careKey_mem {r : Row} (c : Nat) (hr : r ∈ [E.headRaw, E.vSup, E.stretch, E.headTemp, E.tempSrc, E.paused]) :
    rowKey r c 0 ∈ careKeys c :=
  List.mem_append_right _ (List.mem_map_of_mem hr)

theorem sampleKeys_lt {l k : Nat} (hl : l < 240) (hk : k ∈ sampleKeys l) : k < 0x232D00 := by
  simp only [sampleKeys, List.mem_append, List.mem_map, List.mem_flatMap, List.mem_range, List.mem_cons, List.not_mem_nil,
    or_false, exists_eq_or_imp, exists_eq_left, rowKey, E.output, E.y1, E.y2, E.hofs, E.refNow, E.satCount, E.heldCount,
    E.logDropped, E.speedReq, E.gain, E.heaterDuty] at hk
  obtain (h | h) | ⟨c, hc, h⟩ := hk <;> omega

/-- The entries of a round that say how a channel is. -/
def careRows : List Row := [E.headTemp, E.tempSrc, E.paused, E.stretch]

theorem careRow_notMem_sample {r : Row} (hr : r ∈ careRows) {c l : Nat} (hc : c < 96) (hl : l < 240) :
    rowKey r c 0 ∉ sampleKeys l := by
  simp only [sampleKeys, List.mem_append, List.mem_map, List.mem_flatMap, List.mem_range, List.mem_cons, List.not_mem_nil,
    or_false, exists_eq_or_imp, exists_eq_left, rowKey, E.output, E.y1, E.y2, E.hofs, E.refNow, E.satCount, E.heldCount,
    E.logDropped, E.speedReq, E.gain, E.heaterDuty]
  unfold careRows at hr
  fin_cases hr <;> simp only [E.headTemp, E.tempSrc, E.paused, E.stretch] <;> rintro ((h | h) | ⟨d, hd, h⟩) <;> omega

/-- The rows of a channel are not among the keys of another one, nor are the general ones among those of any. -/
theorem careRow_notMem {r : Row} (hr : r ∈ careRows) {c d : Nat} (hc : c < 96) (hd : d < 96) (hne : c ≠ d) :
    rowKey r c 0 ∉ careKeys d := by
  refine fun hmem => (List.mem_append.mp hmem).elim (careRow_notMem_sample hr hc (by omega)) ?_
  unfold careRows at hr
  fin_cases hr <;> simp only [List.map_cons, List.map_nil, List.mem_cons, List.not_mem_nil, or_false, rowKey, E.headRaw,
    E.vSup, E.stretch, E.headTemp, E.tempSrc, E.paused] <;> omega

theorem careKeys_lt {c k : Nat} (hc : c < 96) (hk : k ∈ careKeys c) : k < 0x236000 := by
  refine (List.mem_append.mp hk).elim (fun h => (sampleKeys_lt (by omega) h).trans (by decide)) ?_
  simp only [List.map_cons, List.map_nil, List.mem_cons, List.not_mem_nil, or_false, rowKey, E.headRaw,
    E.vSup, E.stretch, E.headTemp, E.tempSrc, E.paused]
  omega

theorem servedBy_notMem {c d : Nat} (hd : d < 96) : rowKey E.servedBy c 0 ∉ careKeys d := fun hmem => by
  have hlt := careKeys_lt hd hmem
  simp only [rowKey, E.servedBy] at hlt
  omega

theorem otThresh_notMem {d : Nat} (hd : d < 96) : rowKey E.otThresh 0 0 ∉ careKeys d := fun hmem =>
  absurd (careKeys_lt hd hmem) (by decide)

/-! ### The parts of a round -/

section
variable {c : Nat} (hc : c < 96)
include hc

theorem careRow_lt {r : Row} (hr : r ∈ [E.headRaw, E.vSup, E.stretch, E.headTemp, E.tempSrc, E.paused]) :
    rowKey r c 0 < 0x300000 := by
  have hlt := careKeys_lt hc (careKey_mem c hr)
  omega

theorem careWrite {r : Row} (s : State) (hr : r ∈ [E.headRaw, E.vSup, E.stretch, E.headTemp, E.tempSrc, E.paused]) (v : Int) :
    CareKeeps (careKeys c) s (s.wr r v c) :=
  .wr s (careKey_mem c hr) (careRow_lt hc hr) v

theorem sensorStep_careKeeps (s : State) : CareKeeps (careKeys c) s (sensorStep s c) := by
  unfold sensorStep
  exact .ite ((CareKeeps.of_beyondFire (by simp)).trans (careWrite hc _ (by simp) _)) (.of_beyondFire (by simp))

theorem supplyStep_careKeeps (s : State) : CareKeeps (careKeys c) s (supplyStep s c) := by
  unfold supplyStep
  refine .ite (.of_beyondFire (by simp)) ((CareKeeps.of_beyondFire ?_).trans (careWrite hc _ (by simp) _))
  exact (roundWord_beyondFire ..).trans (by simp)

/-- A pause writes PAUSED alone, but for a learn scan that it discards. -/
theorem pauseStep_careKeeps (s : State) (v : Int) : CareKeeps [rowKey E.paused c 0] s (pauseStep s c v) := by
  have hlow : rowKey E.paused c 0 < 0x300000 := careRow_lt hc (by simp)
  have hlearn (t : State) : CareKeeps [rowKey E.paused c 0] t (match Machine.serving t c with
      | none => t
      | some e => discardLearn t e) := by
    split
    · exact .refl _ t
    · exact discardLearn_careKeeps t _
  have hact : CareKeeps [rowKey E.paused c 0] s (s.act (.channel c) .pause) := .of_beyondFire (by simp)
  have hdrop (t : State) : CareKeeps [rowKey E.paused c 0] t (dropPaused (t.wr E.paused 1 c) c) :=
    (CareKeeps.wr t (by simp) hlow 1).trans (.of_beyondFire (dropPaused_beyondFire ..))
  have hall := (hact.trans (hlearn _)).trans (hdrop _)
  unfold pauseStep
  refine .ite (.ite (.refl _ s) (.ite (hall.trans (.of_beyondFire (report_beyondFire ..))) hall)) (.ite ?_ (.refl _ s))
  exact (CareKeeps.of_beyondFire (by simp)).trans (.wr _ (by simp) hlow _)

theorem stretchStep_careKeeps (s : State) (e : Nat) (v : Int) : CareKeeps (careKeys c) s (stretchStep s c e v) :=
  (CareKeeps.of_beyondFire (by simp)).trans (careWrite hc _ (by simp) _)

omit hc in
theorem energyStep_beyondFire (s : State) (e : Nat) : beyondFire (energyStep s c e) = beyondFire s := rfl

theorem careSample_careKeeps (s : State) :
    CareKeeps (careKeys c) s (if s.domOn 10 then sampleLoop (98 + c) s else s) := by
  refine .ite ?_ (.refl _ s)
  have hk := sampleLoop_latheKeeps (98 + c) s
  refine ⟨fun r i j hr _ => hk.rd r i j fun hmem => hr (List.mem_append_left _ hmem), fun e he => ?_,
    fun d => (congrArg (State.chPresent · d) hk.beyond :)⟩
  rwa [hk.rd] at he
  intro hmem
  have hlt := sampleKeys_lt (by omega) hmem
  simp only [rowKey, E.hlMode] at hlt
  omega

end

/-! ### A channel's care -/

/-- The pause of a channel against a threshold, by its temperature (R210 to R212). -/
def PauseFits (t : State) (c : Nat) (ot v : Int) : Prop :=
  (ot ≤ v → t.rd E.paused c = 1) ∧ (v < ot - 32 → t.rd E.paused c ≠ 1)

theorem pauseStep_fits (s : State) (c : Nat) (v : Int) : PauseFits (pauseStep s c v) c (s.rd E.otThresh) v := by
  have hset (t : State) : (dropPaused (t.wr E.paused 1 c) c).rd E.paused c = 1 :=
    (rd_of_beyondFire (dropPaused_beyondFire ..) _ _ _).trans (State.rd_wr_same ..)
  unfold pauseStep
  by_cases hhot : s.rd E.otThresh ≤ v
  · refine ⟨fun _ => ?_, fun hcold => absurd hcold (by omega)⟩
    simp only [hhot, if_true]
    split
    · assumption
    · split <;> split <;> exact hset _
  · refine ⟨fun h => absurd h hhot, fun hcold => ?_⟩
    simp only [hhot, if_false, hcold, true_and]
    split
    · rw [State.rd_wr_same]; decide
    · assumption

/-- What a round has made of a channel, against a threshold. -/
structure Cared (t : State) (c : Nat) (ot : Int) : Prop where
  src : t.rd E.tempSrc c = 0 ∨ t.rd E.tempSrc c = 1 ∨ t.rd E.tempSrc c = 2 ∧ t.rd E.headTemp c = 0x7FFF
  pause : PauseFits t c ot (t.rd E.headTemp c)
  low : 3072 ≤ t.rd E.stretch c
  high : t.rd E.stretch c ≤ 5120

theorem Cared.of_rd {c : Nat} {ot : Int} (h : Cared s c ot) (hrd : ∀ r ∈ careRows, t.rd r c = s.rd r c) : Cared t c ot := by
  obtain ⟨hsrc, hpause, hlow, hhigh⟩ := h
  have htemp := hrd E.headTemp (by simp [careRows])
  have hsrc' := hrd E.tempSrc (by simp [careRows])
  have hpause' := hrd E.paused (by simp [careRows])
  have hstretch := hrd E.stretch (by simp [careRows])
  constructor <;> simpa only [PauseFits, htemp, hsrc', hpause', hstretch]

theorem effectiveTemp_src (s : State) (c : Nat) :
    (effectiveTemp s c).2 = 0 ∨ (effectiveTemp s c).2 = 1 ∨ (effectiveTemp s c).2 = 2 ∧ (effectiveTemp s c).1 = 0x7FFF := by
  unfold effectiveTemp
  dsimp only
  split
  · exact .inl rfl
  · split
    · exact .inr (.inr ⟨rfl, rfl⟩)
    · exact .inr (.inl rfl)

theorem clampInt_bounds {lo hi x : Int} (h : lo ≤ hi) : lo ≤ clampInt lo hi x ∧ clampInt lo hi x ≤ hi := by
  unfold clampInt
  split
  · omega
  · split <;> omega

/-- HEAD_TEMP and TEMP_SRC of a channel in a round, and the report of a sensor that broke (R206 to R209). -/
def careTemp (broke : List Nat) (s : State) (c : Nat) : State :=
  let t := (s.wr E.headTemp (effectiveTemp s c).1 c).wr E.tempSrc (effectiveTemp s c).2 c
  if broke.contains c then t.report (reporter t c) 0xC (c * 2 ^ 40 + unsigned 16 (effectiveTemp s c).1) else t

/-- STRETCH and the energies of a channel in a round (R199, R217). -/
def careStretch (s : State) (c : Nat) (v : Int) : State :=
  match serving s c with
  | none => s
  | some e => energyStep (stretchStep s c e v) c e

/-- The end of a channel's round: its heater loop's sample and its supply. -/
def careEnd (s : State) (c : Nat) : State := supplyCheck (if s.domOn 10 then sampleLoop (98 + c) s else s) c

/-- A legacy channel's round (R587 to R589). -/
def careLegacy (s : State) (c : Nat) : State :=
  supplyCheck (match serving s c with
    | none => s
    | some e => energyStep (s.wr E.stretch 4096 c) c e) c

theorem careStep_legacy {broke : List Nat} {c : Nat} (h : legacy (supplyStep s c) c = true) :
    careStep broke s c = careLegacy (supplyStep s c) c := by
  unfold careStep
  simp only [h, if_true]
  rfl

theorem careStep_plain {broke : List Nat} {c : Nat} (h : legacy (supplyStep s c) c = false) (t : State)
    (ht : t = supplyStep s c) : careStep broke s c =
      careEnd (careStretch (pauseStep (careTemp broke t c) c (effectiveTemp t c).1) c (effectiveTemp t c).1) c := by
  subst ht
  unfold careStep
  simp only [h, Bool.false_eq_true, if_false]
  rfl

section
variable {c : Nat} (hc : c < 96)
include hc

theorem careTemp_careKeeps (broke : List Nat) (s : State) : CareKeeps (careKeys c) s (careTemp broke s c) := by
  have hset := (careWrite hc s (r := E.headTemp) (by simp) (effectiveTemp s c).1).trans
    (careWrite hc _ (r := E.tempSrc) (by simp) (effectiveTemp s c).2)
  exact .ite (hset.trans (.of_beyondFire (report_beyondFire ..))) hset

theorem careStretch_careKeeps (s : State) (v : Int) : CareKeeps (careKeys c) s (careStretch s c v) := by
  unfold careStretch
  split
  · exact .refl _ s
  · exact (stretchStep_careKeeps hc s _ v).trans (.of_beyondFire (energyStep_beyondFire ..))

theorem careEnd_careKeeps (s : State) : CareKeeps (careKeys c) s (careEnd s c) :=
  (careSample_careKeeps hc s).trans (.of_beyondFire (supplyCheck_beyondFire ..))

theorem careLegacy_careKeeps (s : State) : CareKeeps (careKeys c) s (careLegacy s c) := by
  unfold careLegacy
  refine CareKeeps.trans ?_ (.of_beyondFire (supplyCheck_beyondFire ..))
  split
  · exact .refl _ s
  · exact (careWrite hc s (by simp) _).trans (.of_beyondFire (energyStep_beyondFire ..))

theorem careStep_careKeeps (broke : List Nat) (s : State) : CareKeeps (careKeys c) s (careStep broke s c) := by
  refine (supplyStep_careKeeps hc s).trans ?_
  cases hleg : legacy (supplyStep s c) c
  · rw [careStep_plain hleg _ rfl]
    exact (((careTemp_careKeeps hc broke _).trans
      ((pauseStep_careKeeps hc _ _).mono (by simpa using careKey_mem c (by simp)))).trans (careStretch_careKeeps hc _ _)).trans
      (careEnd_careKeeps hc _)
  · rw [careStep_legacy hleg]
    exact careLegacy_careKeeps hc _

/-- The end of a round leaves what the round has made of a channel. -/
theorem careEnd_rd (s : State) {r : Row} (hr : r ∈ careRows) : (careEnd s c).rd r c = s.rd r c := by
  refine (rd_of_beyondFire (supplyCheck_beyondFire ..) r c 0).trans ?_
  split
  · exact (sampleLoop_latheKeeps _ _).rd _ _ _ (careRow_notMem_sample hr hc (by omega))
  · rfl

omit hc in
theorem careStretch_rd (s : State) (v : Int) {r : Row} (hr : r ∈ [E.headTemp, E.tempSrc, E.paused]) :
    (careStretch s c v).rd r c = s.rd r c := by
  have hne : rowKey r c 0 ≠ rowKey E.stretch c 0 := by
    fin_cases hr <;> simp [rowKey, E.headTemp, E.tempSrc, E.paused, E.stretch]
  unfold careStretch
  split
  · rfl
  · exact (rd_of_beyondFire (energyStep_beyondFire ..) r c 0).trans (State.rd_wr _ _ _ _ _ _ _ _ hne)

omit hc in
theorem careStretch_bounds (s : State) (v : Int) (hserved : (Machine.serving s c).isSome = true) :
    3072 ≤ (careStretch s c v).rd E.stretch c ∧ (careStretch s c v).rd E.stretch c ≤ 5120 := by
  obtain ⟨e, he⟩ := Option.isSome_iff_exists.mp hserved
  have hrd : (careStretch s c v).rd E.stretch c = clampInt 3072 5120 (stretchLaw s c e v) := by
    simp only [careStretch, he]
    exact (rd_of_beyondFire (energyStep_beyondFire ..) E.stretch c 0).trans (State.rd_wr_same ..)
  exact hrd ▸ clampInt_bounds (by decide)

/-- The pause changes neither the temperature nor its source. -/
theorem pauseStep_rd (s : State) (v : Int) {r : Row} (hr : r ∈ [E.headTemp, E.tempSrc]) :
    (pauseStep s c v).rd r c = s.rd r c := by
  refine (pauseStep_careKeeps hc s v).rd r c 0 ?_ ?_
  · fin_cases hr <;> simp [rowKey, E.headTemp, E.tempSrc, E.paused]
  · fin_cases hr <;> simp only [rowKey, E.headTemp, E.tempSrc] <;> omega

omit hc in
theorem careTemp_rd (broke : List Nat) (s : State) : (careTemp broke s c).rd E.tempSrc c = (effectiveTemp s c).2 ∧
    (careTemp broke s c).rd E.headTemp c = (effectiveTemp s c).1 := by
  have hne : rowKey E.headTemp c 0 ≠ rowKey E.tempSrc c 0 := by simp [rowKey, E.headTemp, E.tempSrc]
  have hset (r : Row) : (careTemp broke s c).rd r c =
      ((s.wr E.headTemp (effectiveTemp s c).1 c).wr E.tempSrc (effectiveTemp s c).2 c).rd r c := by
    unfold careTemp
    dsimp only
    split <;> rfl
  exact ⟨(hset _).trans (State.rd_wr_same ..),
    (hset _).trans ((State.rd_wr _ _ _ _ _ _ _ _ hne).trans (State.rd_wr_same ..))⟩

/-- A round of a channel that is served and not in legacy shift mode. -/
theorem careStep_cared (broke : List Nat) (s : State) (hleg : Machine.legacy s c = false)
    (hserved : (Machine.serving s c).isSome = true) : Cared (careStep broke s c) c (s.rd E.otThresh) := by
  have hsupply := supplyStep_careKeeps hc s
  have hnot := servedBy_notMem (c := c) hc
  have hot := otThresh_notMem hc
  rw [careStep_plain (hsupply.legacy hc hnot hleg) _ rfl]
  generalize supplyStep s c = t at hsupply
  have htemp := careTemp_careKeeps hc broke t
  obtain ⟨hsrc, hhead⟩ := careTemp_rd (c := c) broke t
  have hfits := pauseStep_fits (careTemp broke t c) c (effectiveTemp t c).1
  have hpause := (pauseStep_careKeeps hc (careTemp broke t c) (effectiveTemp t c).1).mono (keys' := careKeys c)
    (by simpa using careKey_mem c (by simp))
  have hkeep := (hsupply.trans htemp).trans hpause
  have hotp : (careTemp broke t c).rd E.otThresh = s.rd E.otThresh := (hsupply.trans htemp).rd _ _ _ hot (by decide)
  rw [hotp] at hfits
  have hsrcp := (pauseStep_rd hc (careTemp broke t c) (effectiveTemp t c).1 (r := E.tempSrc) (by simp)).trans hsrc
  have hheadp := (pauseStep_rd hc (careTemp broke t c) (effectiveTemp t c).1 (r := E.headTemp) (by simp)).trans hhead
  have hservedp := (hkeep.serving hc hnot).symm ▸ hserved
  generalize pauseStep (careTemp broke t c) c (effectiveTemp t c).1 = p at *
  have hsrcv := (careStretch_rd (c := c) p (effectiveTemp t c).1 (r := E.tempSrc) (by simp)).trans hsrcp
  have hheadv := (careStretch_rd (c := c) p (effectiveTemp t c).1 (r := E.headTemp) (by simp)).trans hheadp
  have hpausev := careStretch_rd (c := c) p (effectiveTemp t c).1 (r := E.paused) (by simp)
  have hbounds := careStretch_bounds (c := c) p (effectiveTemp t c).1 hservedp
  refine Cared.of_rd (s := careStretch p c (effectiveTemp t c).1) ?_ fun r hr => careEnd_rd hc _ hr
  refine ⟨?_, ?_, hbounds.1, hbounds.2⟩
  · rw [hsrcv, hheadv]
    exact_mod_cast effectiveTemp_src t c
  · rwa [PauseFits, hheadv, hpausev]

end

/-! ### The round -/

theorem foldl_careKeeps (f : State → Nat → State) (hf : ∀ s c, c < 96 → CareKeeps (careKeys c) s (f s c)) :
    ∀ (l : List Nat) (s : State), (∀ c ∈ l, c < 96) → CareKeeps (l.flatMap careKeys) s (l.foldl f s)
  | [], s, _ => .refl _ s
  | c :: r, s, h => by
    have hhead := (hf s c (h c (by simp))).mono (keys' := (c :: r).flatMap careKeys) (by simp +contextual)
    have hrest := (foldl_careKeeps f hf r (f s c) fun d hd => h d (List.mem_cons_of_mem _ hd)).mono
      (keys' := (c :: r).flatMap careKeys) (fun k hk => by rw [List.flatMap_cons]; exact List.mem_append_right _ hk)
    exact hhead.trans hrest

/-- Entries that are among the keys of no channel of a list. -/
theorem notMem_flatMap {k : Nat} {l : List Nat} (h : ∀ d ∈ l, k ∉ careKeys d) : k ∉ l.flatMap careKeys := by
  simpa using h

theorem careChannels_lt (s : State) : ∀ c ∈ careChannels s, c < 96 := fun _ hc =>
  List.mem_range.mp (List.mem_of_mem_filter hc)

/-- Settles O19: the sensors, the channels before, the channel's own care, and the channels after. -/
theorem headCareRoundPauses : Obligations.HeadCareRoundPauses := by
  unfold Obligations.HeadCareRoundPauses
  intro c s hpresent hdom hleg hserved
  have hc : c.val < 96 := c.isLt
  have hlt := careChannels_lt s
  have hmem : c.val ∈ careChannels s := List.mem_filter.mpr ⟨List.mem_range.mpr hc, by simp [hpresent, hdom]⟩
  have hnodup : (careChannels s).Nodup := List.nodup_range.filter _
  refine ⟨_, rfl, ?_⟩
  simp only [headCareAct]
  generalize hown : (careChannels s).filter (fun c => !legacy s c) = own
  generalize own.filter (fun c => (s.chan c).sensorOk && !readingValid (s.chan c)) = broke
  have howlt : ∀ d ∈ own, d < 96 := fun d hd => hlt d (List.mem_of_mem_filter (hown ▸ hd))
  have hsensors := foldl_careKeeps sensorStep (fun s _ hc => sensorStep_careKeeps hc s) own s howlt
  have hservedo := notMem_flatMap (k := rowKey E.servedBy c 0) fun d hd => servedBy_notMem (howlt d hd)
  have hoto := notMem_flatMap fun d hd => otThresh_notMem (howlt d hd)
  generalize own.foldl sensorStep s = t at *
  obtain ⟨before, after, hsplit⟩ := List.append_of_mem hmem
  rw [hsplit] at hlt hnodup ⊢
  have hbefore : ∀ d ∈ before, d < 96 := fun d hd => hlt d (List.mem_append_left _ hd)
  have hafter : ∀ d ∈ after, d < 96 := fun d hd => hlt d (List.mem_append_right _ (List.mem_cons_of_mem _ hd))
  have hnotAfter : c.val ∉ after := (List.nodup_cons.mp (List.nodup_append.mp hnodup).2.1).1
  rw [List.foldl_append, List.foldl_cons]
  have hfirst := foldl_careKeeps (careStep broke) (fun s _ hc => careStep_careKeeps hc broke s) before t hbefore
  have hservedb := notMem_flatMap (k := rowKey E.servedBy c 0) fun d hd => servedBy_notMem (hbefore d hd)
  have hotb := notMem_flatMap fun d hd => otThresh_notMem (hbefore d hd)
  generalize before.foldl (careStep broke) t = v at *
  have hlegv : legacy v c = false := hfirst.legacy hc hservedb (hsensors.legacy hc hservedo hleg)
  have hservedv : (serving v c).isSome = true := by rwa [hfirst.serving hc hservedb, hsensors.serving hc hservedo]
  have hotv : v.rd E.otThresh = s.rd E.otThresh :=
    (hfirst.rd _ _ _ hotb (by decide)).trans (hsensors.rd _ _ _ hoto (by decide))
  have hcared := careStep_cared hc broke v hlegv hservedv
  have hown := careStep_careKeeps hc broke v
  generalize careStep broke v c = w at *
  have hlast := foldl_careKeeps (careStep broke) (fun s _ hc => careStep_careKeeps hc broke s) after w hafter
  have hota := notMem_flatMap fun d hd => otThresh_notMem (hafter d hd)
  have hrows {r : Row} (hr : r ∈ careRows) : rowKey r c 0 ∉ after.flatMap careKeys :=
    notMem_flatMap fun d hd => careRow_notMem hr hc (hafter d hd) fun he => hnotAfter (he ▸ hd)
  generalize after.foldl (careStep broke) w = x at *
  have hotx : x.rd E.otThresh = v.rd E.otThresh :=
    (hlast.rd _ _ _ hota (by decide)).trans (hown.rd _ _ _ (otThresh_notMem hc) (by decide))
  obtain ⟨hsrc, ⟨hhot, hcold⟩, hlow, hhigh⟩ := Cared.of_rd (t := x) hcared fun r hr => hlast.rd _ _ _ (hrows hr) (by
    unfold careRows at hr
    fin_cases hr <;> simp only [rowKey, E.headTemp, E.tempSrc, E.paused, E.stretch] <;> omega)
  rw [hotv] at hhot hcold
  exact ⟨hsrc, hhot, hcold, hlow, hhigh, hotx.trans hotv⟩

end Sys2Proof.Machine
end

section
/-!
CERTIFICATE. A sample of the position observer: its triple's time and its choice of the source (R76, R77, R91, R92, R95).
-/
namespace Sys2Proof.Machine

variable {s t u : State}

/-! ### Beyond the observer -/

/-- The state without what a sample of the observer may touch. -/
def beyondObserver (s : State) : State := { beyondLathe s with obs := {} }

theorem LatheKeeps.beyondObserver {keys : List Nat} (h : LatheKeeps keys s t) : beyondObserver t = beyondObserver s :=
  congrArg (fun x => { x with obs := {} }) h.beyond

theorem LatheKeeps.obs {keys : List Nat} (h : LatheKeeps keys s t) : t.obs = s.obs := (congrArg State.obs h.beyond :)

theorem time_of_beyondObserver (h : beyondObserver t = beyondObserver s) : t.time = s.time := (congrArg State.time h :)

theorem dev_of_beyondObserver (h : beyondObserver t = beyondObserver s) : t.dev = s.dev := (congrArg State.dev h :)
theorem byte_of_beyondObserver (h : beyondObserver t = beyondObserver s) (a : Nat) : t.byte a = s.byte a :=
  (congrArg (State.byte · a) h :)

/-- What the choice of the source looks at, but for what it changes itself (R91, R92, R97). -/
def ObsSt.choice (o : ObsSt) : Nat × Nat × Bool × Option Nat := (o.active, o.chainSrc, o.lost, o.change)

@[simp] theorem wr_beyondObserver (s : State) (r : Row) (v : Int) (i j : Nat) :
    beyondObserver (s.wr r v i j) = beyondObserver s := rfl
@[simp] theorem obs_beyondObserver (s : State) (o : ObsSt) : beyondObserver { s with obs := o } = beyondObserver s := rfl
@[simp] theorem fresh_beyondObserver (s : State) (n : Nat) : beyondObserver { s with fresh := n } = beyondObserver s := rfl
@[simp] theorem setLoop_beyondObserver (s : State) (l : Nat) (x : LoopSt) :
    beyondObserver (s.setLoop l x) = beyondObserver s := rfl
@[simp] theorem setChan_beyondObserver (s : State) (c : Nat) (x : Chan) :
    beyondObserver (s.setChan c x) = beyondObserver s := rfl
@[simp] theorem report_beyondObserver (s : State) (src kind addr : Nat) :
    beyondObserver (s.report src kind addr) = beyondObserver s := rfl

/-! ### The parts of a sample -/

theorem deliverTriple_leaves (s : State) (x v a hofs : Int) (sw : Bool) (hu : u = deliverTriple s x v a hofs sw) :
    u.rd E.sampleTime = s.time ∧ u.obs.choice = s.obs.choice ∧ beyondObserver u = beyondObserver s := by
  have hne : rowKey E.sampleTime 0 0 ≠ rowKey E.hofs 0 0 := by decide
  subst hu
  unfold deliverTriple
  dsimp only
  exact ⟨(State.rd_wr _ _ _ _ _ _ _ _ hne).trans (State.rd_wr_same ..), by simp [ObsSt.choice], by simp⟩

theorem reportGap_leaves (s : State) (hu : u = reportGap s) :
    u.dict = s.dict ∧ u.obs = s.obs ∧ beyondObserver u = beyondObserver s := by
  subst hu
  unfold reportGap
  split <;> exact ⟨rfl, rfl, rfl⟩

theorem tripleWords_state (s : State) (dx v a : Rat) : (tripleWords s dx v a).2.2.2 =
    (roundWord (roundWord (roundWord s dx).2 (v * 2 ^ 24)).2 (a * 2 ^ 40)).2 := rfl

theorem tripleWords_leaves (s : State) (dx v a : Rat) : ∃ n, (tripleWords s dx v a).2.2.2 = { s with fresh := n } := by
  obtain ⟨n, hn⟩ := roundWord_eq s dx
  obtain ⟨m, hm⟩ := roundWord_eq { s with fresh := n } (v * 2 ^ 24)
  obtain ⟨k, hk⟩ := roundWord_eq { s with fresh := m } (a * 2 ^ 40)
  refine ⟨k, ?_⟩
  rw [tripleWords_state, hn, hm, hk]

/-- From `s` to `t` the observer has worked on, and has not chosen another source. -/
structure ObsWorks (s t : State) : Prop where
  obs : t.obs = s.obs
  beyond : beyondObserver t = beyondObserver s

theorem ObsWorks.trans (h : ObsWorks s t) (h' : ObsWorks t u) : ObsWorks s u :=
  ⟨h'.obs.trans h.obs, h'.beyond.trans h.beyond⟩

theorem LatheKeeps.obsWorks {keys : List Nat} (h : LatheKeeps keys s t) : ObsWorks s t := ⟨h.obs, h.beyondObserver⟩

theorem roundWord_obsWorks (s : State) (x : Rat) : ObsWorks s (roundWord s x).2 := by
  obtain ⟨n, hn⟩ := roundWord_eq s x
  exact hn ▸ ⟨rfl, rfl⟩

theorem tripleWords_obsWorks (s : State) (dx v a : Rat) : ObsWorks s (tripleWords s dx v a).2.2.2 := by
  obtain ⟨n, hn⟩ := tripleWords_leaves s dx v a
  exact hn ▸ ⟨rfl, rfl⟩

theorem innovate_obsWorks (s : State) (raw : Rat) : ObsWorks s (innovate s raw).2 := by
  have hkeys (t : State) (n k : Nat) (x y1 y2 lim v w : Int) : ObsWorks t (((noteSaturation
      (runChain lim y1 y2 n k x (latheWork t n)).1 0 (runChain lim y1 y2 n k x (latheWork t n)).2.2).wr E.y2 v 0).wr E.y1 w 0) :=
    LatheKeeps.obsWorks (keys := [E.satCount, E.y2, E.y1].map (rowKey · 0 0)) <|
      ((noteSaturation_latheKeeps 0 _ (by simp) (runChain_latheKeeps _ _ _ _ _ _ ((LatheKeeps.refl _ t).setLathe _))).wr
        (by simp) _).wr (by simp) _
  exact (roundWord_obsWorks s raw).trans (hkeys ..)

/-- A sample's triple has been delivered, its source chosen as `c`. -/
structure Delivered (s t : State) (c : Nat × Nat × Bool × Option Nat) : Prop where
  time : t.rd E.sampleTime = s.time
  choice : t.obs.choice = c
  beyond : beyondObserver t = beyondObserver s

theorem Delivered.of_deliver {v : State} (hv : beyondObserver v = beyondObserver s) (x vel a hofs : Int) (sw : Bool) :
    Delivered s (deliverTriple v x vel a hofs sw) v.obs.choice := by
  obtain ⟨htime, hchoice, hbeyond⟩ := deliverTriple_leaves v x vel a hofs sw rfl
  exact ⟨by rw [htime, time_of_beyondObserver hv], hchoice, hbeyond.trans hv⟩

theorem Delivered.reportGap {c : Nat × Nat × Bool × Option Nat} (h : Delivered s t c) : Delivered s (reportGap t) c := by
  obtain ⟨hdict, hobs, hbeyond⟩ := reportGap_leaves t rfl
  refine ⟨?_, by rw [hobs]; exact h.choice, hbeyond.trans h.beyond⟩
  simpa only [State.rd, hdict] using h.time

theorem Delivered.of_beyond {c : Nat × Nat × Bool × Option Nat} {v : State} (h : Delivered v t c)
    (hv : beyondObserver v = beyondObserver s) : Delivered s t c :=
  ⟨by rw [h.time, time_of_beyondObserver hv], h.choice, h.beyond.trans hv⟩

/-- The innovation of a sample that follows a source, none of one that does not (R273). -/
def plainInput (s : State) : Int × State :=
  if 5 ≤ s.obs.active ∨ !s.obs.fresh then (0, s)
  else innovate s (sourceOffset s s.obs.active - (vel0 s + acc0 s / 2 + (vel0 s + acc0 s) * sourceLag s s.obs.active +
    acc0 s * sourceLag s s.obs.active * sourceLag s s.obs.active / 2))

theorem plainInput_obsWorks (s : State) : ObsWorks s (plainInput s).2 := by
  unfold plainInput
  split
  · exact ⟨rfl, rfl⟩
  · exact innovate_obsWorks ..

theorem plainSample_delivered (s : State) (sw : Bool) : Delivered s (plainSample s sw) s.obs.choice := by
  have hend (dx v a x vel acc hofs : _) : Delivered s (deliverTriple (tripleWords (plainInput s).2 dx v a).2.2.2 x vel acc hofs sw)
      s.obs.choice := by
    have hw := (plainInput_obsWorks s).trans (tripleWords_obsWorks (plainInput s).2 dx v a)
    exact hw.obs ▸ Delivered.of_deliver hw.beyond _ _ _ _ _
  exact hend ..

/-! ### The choice of the source -/

theorem swapObserver_latheKeeps (s : State) : LatheKeeps [rowKey E.y1 0 0, rowKey E.y2 0 0] s (swapObserver s) := by
  unfold swapObserver
  exact ((setHistory_latheKeeps _ _ _ ((LatheKeeps.refl _ s).setLoop _ _)).wr (by simp) _).wr (by simp) _

/-- The chain of loop 0 that a switching sample leaves, its history cleared (R284). -/
theorem clearedChain_obsWorks (s : State) (x : LoopSt) (b : Bool) :
    ObsWorks s (((setHistory 0 (chainLen (s.setLoop 0 x) 0 b) (chainFirst (s.setLoop 0 x) 0 b) (s.setLoop 0 x)).wr E.y1 0 0).wr
      E.y2 0 0) :=
  LatheKeeps.obsWorks (keys := [rowKey E.y1 0 0, rowKey E.y2 0 0]) <|
    ((setHistory_latheKeeps _ _ _ ((LatheKeeps.refl _ s).setLoop _ _)).wr (by simp) _).wr (by simp) _

/-- The state in which a switching sample's source is chosen. -/
def sourceChosen (s : State) (k : Nat) (p : Option Nat) : State :=
  { s with obs := { s.obs with active := k, chainSrc := k, lost := false, change := none, primary := p } }.wr E.coastElapsed 0

theorem sourceChosen_choice (s : State) (k : Nat) (p : Option Nat) : (sourceChosen s k p).obs.choice = (k, k, false, none) := by
  simp [sourceChosen, ObsSt.choice]

theorem sourceChosen_beyondObserver (s : State) (k : Nat) (p : Option Nat) :
    beyondObserver (sourceChosen s k p) = beyondObserver s := by
  simp [sourceChosen]

theorem switchSample_delivered (s : State) (k : Nat) : Delivered s (switchSample s k) (k, k, false, none) := by
  have hend (v : State) (hv : ObsWorks s v) (p : Option Nat) (x vel acc hofs : Int) :
      Delivered s (reportGap (deliverTriple (sourceChosen v k p) x vel acc hofs true)) (k, k, false, none) :=
    sourceChosen_choice v k p ▸
      (Delivered.of_deliver ((sourceChosen_beyondObserver v k p).trans hv.beyond) x vel acc hofs true).reportGap
  unfold switchSample
  dsimp only
  refine hend _ ?_ _ _ _ _ _
  have hpredicted := roundWord_obsWorks s (vel0 s + acc0 s / 2)
  generalize (roundWord s (vel0 s + acc0 s / 2)).2 = a at *
  have hincoming := roundWord_obsWorks a (sourceOffset a k - (vel0 s + acc0 s) * sourceLag a k)
  generalize (roundWord a (sourceOffset a k - (vel0 s + acc0 s) * sourceLag a k)).2 = b at *
  have hwords := tripleWords_obsWorks b 0 (vel0 s + acc0 s) (acc0 s)
  generalize (tripleWords b 0 (vel0 s + acc0 s) (acc0 s)).2.2.2 = d at *
  exact ((hpredicted.trans hincoming).trans hwords).trans (clearedChain_obsWorks ..)

theorem enterCoast_delivered (s : State) : ∃ c, Delivered s (enterCoast s) c :=
  ⟨_, ((plainSample_delivered _ true).reportGap).of_beyond (by simp)⟩

theorem enterNoSource_beyondObserver (s : State) : beyondObserver (enterNoSource s) = beyondObserver s := by
  unfold enterNoSource
  split <;> rfl

/-- The entries by which the sources are chosen. -/
def choiceRows : List Row := [E.autoChange, E.srcPrimary, E.srcSecondary, E.encMode, E.velEst, E.encVmin, E.coastMax, E.rtState]

theorem nextSource_congr (h : ObsWorks s t) (hrd : ∀ r ∈ choiceRows, ∀ i, t.rd r i = s.rd r i) : nextSource t = nextSource s := by
  have henc : t.encs = s.encs := (congrArg State.encs h.beyond :)
  have hring : t.ringPos = s.ringPos := (congrArg State.ringPos h.beyond :)
  have hat (r : Row) (hr : r ∈ choiceRows) (i : Nat) : t.rd r i = s.rd r i := hrd r hr i
  have hmode := hat E.encMode (by simp [choiceRows])
  have hrt := hat E.rtState (by simp [choiceRows]) 0
  have hvalid (k : Nat) : srcValid t k = srcValid s k := by
    simp only [srcValid, encValid, State.enc, henc, hmode, ringPosValid, ringTimeValid, State.rdN, hring, hrt]
  have hprimary : t.rdN E.srcPrimary = s.rdN E.srcPrimary := congrArg Int.toNat (hat _ (by simp [choiceRows]) 0)
  have hsecondary : t.rdN E.srcSecondary = s.rdN E.srcSecondary := congrArg Int.toNat (hat _ (by simp [choiceRows]) 0)
  have hother (k : Nat) : otherSource t k = otherSource s k := by simp only [otherSource, hprimary, hsecondary]
  have hvel : vel0 t = vel0 s := by simp only [vel0, hat E.velEst (by simp [choiceRows])]
  have hvmin : vmin t = vmin s := by simp only [vmin, hat E.encVmin (by simp [choiceRows])]
  have hcoast : coastPossible t = coastPossible s := by
    rw [coastPossible, coastPossible, stopped, stopped, hvel, hvmin, hat E.coastMax (by simp [choiceRows])]
  simp only [nextSource, h.obs, hvalid, hother, hcoast, hat E.autoChange (by simp [choiceRows])]

/-- Loop 0's own entries are none of those by which the sources are chosen. -/
theorem choiceRows_notMem {r : Row} (hr : r ∈ choiceRows) (i : Nat) : rowKey r i 0 ∉ [rowKey E.y1 0 0, rowKey E.y2 0 0] := by
  unfold choiceRows at hr
  fin_cases hr <;> simp only [List.mem_cons, List.not_mem_nil, or_false, rowKey, E.autoChange, E.srcPrimary, E.srcSecondary,
    E.encMode, E.velEst, E.encVmin, E.coastMax, E.rtState, E.y1, E.y2] <;> omega

/-- The chains of loop 0 as a sample finds them: swapped where a handover is due (R281). -/
def chainsTaken (s : State) : State := if handoverDue s 0 then swapObserver (takeHandover s 0) else takeHandover s 0

theorem chainsTaken_latheKeeps (s : State) : LatheKeeps [rowKey E.y1 0 0, rowKey E.y2 0 0] s (chainsTaken s) :=
  .ite ((takeHandover_latheKeeps 0 (.refl _ s)).trans (swapObserver_latheKeeps _)) (takeHandover_latheKeeps 0 (.refl _ s))

theorem nextSource_chainsTaken (s : State) : nextSource (chainsTaken s) = nextSource s :=
  nextSource_congr (chainsTaken_latheKeeps s).obsWorks fun _ hr i => (chainsTaken_latheKeeps s).rd _ _ _ (choiceRows_notMem hr i)

theorem sampleWith_delivered (s : State) : ∃ c, Delivered s (sampleWith s) c ∧
    ∀ k, k < 5 → nextSource s = some k → c = (k, k, false, none) := by
  have hswap := (chainsTaken_latheKeeps s).beyondObserver
  rw [← nextSource_chainsTaken]
  have hmatch : sampleWith s = match nextSource (chainsTaken s) with
      | some 6 => enterCoast (chainsTaken s)
      | some 7 => plainSample (enterNoSource (chainsTaken s))
      | some k => switchSample (chainsTaken s) k
      | none =>
        let t := { chainsTaken s with obs := { (chainsTaken s).obs with change := none } }
        if handoverDue s 0 && decide (t.obs.active < 5) then switchSample t t.obs.active
        else plainSample (if t.obs.active = 6 then t.count E.coastElapsed else t) := rfl
  rw [hmatch]
  generalize chainsTaken s = v at *
  split
  next h6 =>
    obtain ⟨c, hc⟩ := enterCoast_delivered v
    exact ⟨c, hc.of_beyond hswap, fun k hk hn => by rw [h6] at hn; injection hn; omega⟩
  next h7 =>
    exact ⟨_, (plainSample_delivered _ false).of_beyond ((enterNoSource_beyondObserver v).trans hswap),
      fun k hk hn => by rw [h7] at hn; injection hn; omega⟩
  next k _ _ hk' =>
    exact ⟨_, (switchSample_delivered v k).of_beyond hswap, fun m _ hn => by rw [hk'] at hn; injection hn with hn; rw [hn]⟩
  next hnone =>
    dsimp only
    split
    · exact ⟨_, (switchSample_delivered _ _).of_beyond (by simpa using hswap), fun k hk hn => by simp [hnone] at hn⟩
    · refine ⟨_, (plainSample_delivered _ false).of_beyond ?_, fun k hk hn => by simp [hnone] at hn⟩
      split
      · exact hswap
      · exact hswap

/-! ### What follows the triple -/

/-- From `s` to `t` the triple's time and the choice of the source have stayed. -/
structure TripleStays (s t : State) : Prop where
  time : t.rd E.sampleTime = s.rd E.sampleTime
  choice : t.obs.choice = s.obs.choice
  beyond : beyondObserver t = beyondObserver s

theorem TripleStays.refl (s : State) : TripleStays s s := ⟨rfl, rfl, rfl⟩

theorem TripleStays.trans (h : TripleStays s t) (h' : TripleStays t u) : TripleStays s u :=
  ⟨h'.time.trans h.time, h'.choice.trans h.choice, h'.beyond.trans h.beyond⟩

theorem LatheKeeps.tripleStays {keys : List Nat} (h : LatheKeeps keys s t) (hk : rowKey E.sampleTime 0 0 ∉ keys) :
    TripleStays s t :=
  ⟨h.rd _ _ _ hk, by rw [h.obs], h.beyondObserver⟩

theorem trackHwm_tripleStays (s : State) (x : Int) : TripleStays s (trackHwm s x) := by
  have hhwm : (s.wr E.hwm (wrap48 x)).rd E.sampleTime = s.rd E.sampleTime := State.rd_wr _ _ _ _ _ _ _ _ (by decide)
  have hcount : (s.count E.reverseCount).rd E.sampleTime = s.rd E.sampleTime := State.rd_wr _ _ _ _ _ _ _ _ (by decide)
  unfold trackHwm
  dsimp only
  split
  · exact ⟨hhwm, rfl, rfl⟩
  · split
    · exact ⟨rfl, rfl, rfl⟩
    · split
      · exact ⟨rfl, rfl, rfl⟩
      · split
        · exact ⟨rfl, rfl, rfl⟩
        · exact ⟨hcount, rfl, rfl⟩

theorem trackAfterSample_tripleStays (s : State) : TripleStays s (trackAfterSample s) := by
  obtain ⟨n, hn⟩ := roundWord_eq s (srcNow s s.obs.active)
  have hround : TripleStays s (roundWord s (srcNow s s.obs.active)).2 := hn ▸ ⟨rfl, rfl, rfl⟩
  unfold trackAfterSample
  split
  · exact hround.trans (trackHwm_tripleStays _ _)
  · exact .refl s

theorem TripleStays.ite {p : Prop} [Decidable p] (ht : TripleStays s t) (hu : TripleStays s u) :
    TripleStays s (if p then t else u) := by
  split <;> assumption

theorem checkOverspeed_tripleStays (s : State) (c : Nat) : TripleStays s (checkOverspeed s c) := by
  have hset (x : Chan) : TripleStays s (s.setChan c x) := ⟨rfl, rfl, rfl⟩
  have hreport (x : Chan) : TripleStays s (posReport (s.setChan c x) 4) := ⟨rfl, rfl, rfl⟩
  unfold checkOverspeed
  exact .ite (.refl s) (.ite (hreport _) (hset _))

theorem overspeedFloor_tripleStays (s : State) : TripleStays s (overspeedFloor s) := by
  unfold overspeedFloor
  split
  · exact LatheKeeps.tripleStays (keys := [rowKey E.speedReq 0 0, rowKey E.output 1 0, rowKey E.limiter 0 0])
      ((((LatheKeeps.refl _ s).wr (by simp) _).wr (by simp) _).wr (by simp) _) (by decide)
  · exact .refl s

theorem foldl_checkOverspeed_tripleStays : ∀ (l : List Nat) (s : State), TripleStays s (l.foldl checkOverspeed s)
  | [], s => .refl s
  | c :: r, s => (checkOverspeed_tripleStays s c).trans (foldl_checkOverspeed_tripleStays r _)

theorem exec_observerSample (s : State) : exec .observerSample s = .next (observerAct s) := rfl

/-- What follows a sample of loop 0 that is not held. -/
def afterObserver (s : State) : State :=
  let t := logSample (trackAfterSample s) 0 false ((trackAfterSample s).rd E.posEst)
  overspeedFloor ((channelsInPage t).foldl checkOverspeed t)

theorem afterObserver_tripleStays (s : State) : TripleStays s (afterObserver s) :=
  (((trackAfterSample_tripleStays s).trans ((logSample_latheKeeps (keys := [rowKey E.logDropped 0 0]) 0 false _ (by simp)
    (.refl _ _)).tripleStays (by decide))).trans (foldl_checkOverspeed_tripleStays _ _)).trans (overspeedFloor_tripleStays _)

theorem observerAct_of_active (hon : s.domOn 10 = true) (hheld : loopHeld s 0 = false) : observerAct s =
    afterObserver (sampleWith (s.setLoop 0 { s.loop 0 with heldLast := false, saturated := false })) := by
  unfold observerAct
  rw [if_neg (by simp [hon]), if_neg (by simp [hheld])]
  rfl

/-- Settles O9: every sample ends with a triple of its TIME, a switching one with its source chosen. -/
theorem observerSampleDelivers : Obligations.ObserverSampleDelivers := by
  unfold Obligations.ObserverSampleDelivers
  intro s hon hheld
  refine ⟨_, exec_observerSample s, ?_⟩
  rw [observerAct_of_active hon hheld]
  generalize hv : s.setLoop 0 { s.loop 0 with heldLast := false, saturated := false } = v
  have hworks : ObsWorks s v := hv ▸ ⟨rfl, rfl⟩
  have hnext : nextSource v = nextSource s := nextSource_congr hworks fun _ _ _ => by rw [← hv]; rfl
  obtain ⟨c, hsample, hc⟩ := sampleWith_delivered v
  obtain ⟨htime, hchoice, hbeyond⟩ := hsample.of_beyond hworks.beyond
  have hafter := afterObserver_tripleStays (sampleWith v)
  have hall := hafter.beyond.trans hbeyond
  refine ⟨hafter.time.trans htime, byte_of_beyondObserver hall, dev_of_beyondObserver hall, fun k hk _ hs => ?_⟩
  have hchosen := (hafter.choice.trans hchoice).trans (hc k hk (hnext.trans hs))
  simpa only [ObsSt.choice, Prod.mk.injEq] using hchosen

end Sys2Proof.Machine
end

section
/-!
CERTIFICATE. The lock of a line (R84, R87, R100, R458).
-/
namespace Sys2Proof.Machine

variable {s t u : State} {c : Nat}

theorem exec_lineLock (s : State) (c : Ch) : exec (.lineLock c) s = .next (lineLockAct c s) := rfl

/-- Lines passed over are counted, and the channel keeps its lines (R100). -/
theorem skipLines_leaves (hc : c < 96) (s : State) (n : Nat) (hu : u = skipLines s c n) :
    (u.chan c).locked = (s.chan c).locked ∧ (u.chan c).next = (s.chan c).next ∧
      u.rd E.skipped c = (if n = 0 then s.rd E.skipped c else min (s.rd E.skipped c + n) (2 ^ 32 - 1)) ∧
      SameBut s u [rowKey E.skipped c 0, rowKey E.skippedTotal 0 0] := by
  subst hu
  unfold skipLines
  by_cases hn : n = 0
  · simp [hn, SameBut.refl]
  have hne : rowKey E.skipped c 0 ≠ rowKey E.skippedTotal 0 0 := by
    simp only [rowKey, E.skipped, E.skippedTotal]
    omega
  have hcount := rd_count_same (s.setChan c { s.chan c with lateRun := 0 }) E.skipped c n
  have hsame : SameBut s (((s.setChan c { s.chan c with lateRun := 0 }).count E.skipped c n).count48 E.skippedTotal 0 n)
      [rowKey E.skipped c 0, rowKey E.skippedTotal 0 0] :=
    (SameBut.wr (q := E.skipped) (t := s.setChan c { s.chan c with lateRun := 0 }) ⟨fun _ _ _ _ => rfl, fun _ => rfl⟩ (by simp) _).wr
      (by simp) _
  have htotal : (((s.setChan c { s.chan c with lateRun := 0 }).count E.skipped c n).count48 E.skippedTotal 0 n).rd E.skipped c =
      min (s.rd E.skipped c + n) (2 ^ 32 - 1) := (State.rd_wr _ _ _ _ _ _ _ _ hne).trans hcount
  simp only [hn, if_false]
  split
  · exact ⟨by simp [State.count, State.count48], by simp [State.count, State.count48], htotal, hsame⟩
  · exact ⟨by simp [State.count, State.count48], by simp [State.count, State.count48], htotal, hsame⟩

/-- The line of a channel may be locked: printing, no stop sampled, firing not suspended, its instant near (R84, R87, R458). -/
structure Locks (s : State) (c : Nat) (l : Lock) : Prop where
  dev : s.dev = .printing
  open_ : s.noLocks = false
  forward : s.obs.reverse = false
  enabled : enabledCh s c = true
  line : lockable s c = some l
  near : sdiff51 l.inst (nowStep s) < lockLeadSteps s

theorem Locks.next {l : Lock} (h : Locks s c l) (hl : (s.chan c).next ≤ l.line) : lineLockAct c s =
    skipLines (s.setChan c { s.chan c with locked := (s.chan c).locked ++ [l], next := l.line + 1 }) c
      (l.line - (s.chan c).next) := by
  obtain ⟨hdev, hopen, hrev, hen, hline, hnear⟩ := h
  simp [lineLockAct, hdev, hopen, hrev, hen, hline, Int.not_le.mpr hnear, Nat.not_lt.mpr hl]

theorem Locks.again {l : Lock} (h : Locks s c l) (hl : l.line < (s.chan c).next) : lineLockAct c s =
    s.setChan c { s.chan c with
      locked := (s.chan c).locked.filter (fun k => decide (k.line < l.line)) ++ l ::
        (s.chan c).locked.filter (fun k => decide (l.line < k.line))
      withheld := (s.chan c).withheld.filter (fun k => decide (l.line < k)) } := by
  obtain ⟨hdev, hopen, hrev, hen, hline, hnear⟩ := h
  simp [lineLockAct, hdev, hopen, hrev, hen, hline, Int.not_le.mpr hnear, hl]

theorem lineLockAct_blocked (h : s.obs.reverse = true ∨ s.noLocks = true) : lineLockAct c s = s :=
  if_pos (by rcases h with h | h <;> simp [h])

/-- Settles O10: the next line with those it passes over, a withheld line below those locked after it, and no lock. -/
theorem lineLockFreezesInstant : Obligations.LineLockFreezesInstant := by
  unfold Obligations.LineLockFreezesInstant
  refine ⟨fun c s l hdev hopen hrev hen hline hnear => ?_, fun c s h => by rw [exec_lineLock, lineLockAct_blocked h]⟩
  have hlocks : Locks s c l := ⟨hdev, hopen, hrev, hen, hline, hnear⟩
  refine ⟨_, exec_lineLock s c, ?_⟩
  rcases Nat.lt_or_ge l.line (s.chan c).next with hl | hl
  · rw [hlocks.again hl]
    refine ⟨fun h => absurd hl (Nat.not_lt.mpr h), fun _ => ⟨by simp, fun k hk hne => ?_, by simp, rfl⟩,
      fun _ _ _ _ => rfl, fun _ => rfl⟩
    rcases Nat.lt_or_gt_of_ne hne with hlt | hgt
    · simp [hk, hlt]
    · simp [hk, hgt]
  · rw [hlocks.next hl]
    obtain ⟨hlocked, hnext, hskipped, hrd, hbyte⟩ := skipLines_leaves c.isLt
      (s.setChan c { s.chan c with locked := (s.chan c).locked ++ [l], next := l.line + 1 }) (l.line - (s.chan c).next) rfl
    refine ⟨fun _ => ⟨by simpa using hlocked, by simpa using hnext, hskipped⟩, fun h => absurd h (Nat.not_lt.mpr hl), hrd, hbyte⟩

end Sys2Proof.Machine
end

section
/-!
CERTIFICATE. The instant of a locked line: it fires, is late, or is withheld (R84, R86, R87, R145).
-/
namespace Sys2Proof.Machine

variable {s t u : State} {c e : Nat} {l : Lock} {b : Built}

theorem exec_lineFire (s : State) (c : Ch) : exec (.lineFire c) s = .next (lineFireAct c s) := rfl

/-! ### The page -/

theorem pageLinesOf_congr (hpersona : t.rd E.persona = s.rd E.persona) (hlines : t.rd E.pageLines = s.rd E.pageLines)
    (hotp : t.otp = s.otp) (hwords : ∀ p, (t.persona p).words = (s.persona p).words) : pageLinesOf t c = pageLinesOf s c := by
  have hfinup : t.finup = s.finup := by simp only [State.finup, State.rdN, hpersona]
  have hreset (p w : Nat) : wordReset t p w = wordReset s p w := by simp only [wordReset, State.fuse, hotp]
  simp only [pageLinesOf, hfinup, pWord, hreset, hwords, State.rdN, hlines]

theorem pageLinesOf_of_beyondFire (h : beyondFire t = beyondFire s) : pageLinesOf t c = pageLinesOf s c :=
  (congrArg (pageLinesOf · c) h :)

/-- A line that is not the last of its page leaves the channel in it (R463). -/
theorem passLine_of_inner {k : Nat} (h : pageLinesOf s c = 0 ∨ k + 1 < pageLinesOf s c) : passLine s c k = s := by
  refine if_neg ?_
  simp only [Bool.and_eq_true, bne_iff_ne, decide_eq_true_eq]
  omega

/-! ### What is sent of a built line -/

/-- Beyond messages and channels, what a channel keeps while its built line is sent: every field but its scramblers and strobes. -/
def Chan.unsent (x : Chan) : Chan := { x with scr := [], strobeAt := [] }

/-- From `s` to `t` a channel has sent blocks. -/
structure Sends (c : Nat) (s t : State) : Prop where
  beyond : beyondFire t = beyondFire s
  chan : (t.chan c).unsent = (s.chan c).unsent
  engs : t.engs = s.engs
  faultQ : t.faultQ = s.faultQ
  waveforms : ∀ d f y, .waveform d f y ∈ t.sent → .waveform d f y ∈ s.sent

theorem Sends.trans (h : Sends c s t) (h' : Sends c t u) : Sends c s u :=
  ⟨h'.beyond.trans h.beyond, h'.chan.trans h.chan, h'.engs.trans h.engs, h'.faultQ.trans h.faultQ,
    fun d f y hm => h.waveforms d f y (h'.waveforms d f y hm)⟩

theorem Sends.refl (c : Nat) (s : State) : Sends c s s := ⟨rfl, rfl, rfl, rfl, fun _ _ _ h => h⟩

/-- An output that is not a waveform. -/
theorem Sends.emit (s : State) (o : Out) (ho : ∀ d f y, o ≠ .waveform d f y) : Sends c s (s.emit o) := by
  refine ⟨rfl, rfl, rfl, rfl, fun d f y hm => ?_⟩
  rcases List.mem_cons.mp hm with he | hm
  · exact absurd he.symm (ho d f y)
  · exact hm

theorem Sends.setChan (s : State) {x : Chan} (hx : x.unsent = (s.chan c).unsent) : Sends c s (s.setChan c x) :=
  ⟨rfl, by simpa using hx, rfl, rfl, fun _ _ _ h => h⟩

theorem sendBlocks_sends (s : State) (c : Nat) (b : Built) (upTo : Option Nat) : Sends c s (sendBlocks s c b upTo) := by
  have hsent (x : Chan) (hx : x.unsent = (s.chan c).unsent) (ps : List Nat) (ls : List (List Nat)) :
      Sends c s ((s.setChan c x).emit (.lineFrame c ps ls)) :=
    (Sends.setChan s hx).trans (.emit _ _ fun _ _ _ => nofun)
  unfold sendBlocks
  dsimp only
  split <;> split
  · exact .refl c s
  · exact hsent _ (by rfl) _ _
  · exact .refl c s
  · exact hsent _ (by rfl) _ _

theorem sendBuilt_sends (s : State) (c : Nat) (upTo : Option Nat) : Sends c s (sendBuilt s c upTo) := by
  unfold sendBuilt
  split
  · exact .refl c s
  · split
    · exact .emit _ _ fun _ _ _ => nofun
    · exact sendBlocks_sends ..

theorem foldl_emit_sends (f : State → Nat → Out) (hf : ∀ t j d g y, f t j ≠ .waveform d g y) :
    ∀ (l : List Nat) (s : State), Sends c s (l.foldl (fun t j => t.emit (f t j)) s)
  | [], s => .refl c s
  | j :: r, s => (Sends.emit s (f s j) (hf s j)).trans (foldl_emit_sends f hf r _)

theorem sendStrobes_sends (s : State) (c e : Nat) (y : Cycle) : Sends c s (sendStrobes s c e y) :=
  (foldl_emit_sends (fun t j => strobeFor t c e (if j = 9 then 15 else j) (slotEdge t c e y j))
    (fun _ _ _ _ _ => nofun) (List.range 10) s).trans (.setChan _ rfl)

/-! ### A line that fires -/

/-- The line's blocks and strobes have been sent, and its waveform. -/
def firedOut (s : State) (c e : Nat) (y : Cycle) : State :=
  let t := sendBuilt s c none
  (if t.rd E.hlMode e = 1 then t else sendStrobes t c e y).emit (.waveform c y.first y.out)

/-- The entries that a fired line writes (R26, R218). -/
def fireKeys (c e : Nat) : List Nat :=
  [rowKey E.eLine c 0, rowKey E.girthEnergy 0 0, rowKey E.linesFired e 0, rowKey E.lastLine c 0]

theorem firedOut_leaves (s : State) (c e : Nat) (y : Cycle) (hu : u = firedOut s c e y) :
    beyondFire u = beyondFire s ∧ (u.chan c).unsent = (s.chan c).unsent ∧ u.faultQ = s.faultQ ∧
      .waveform c y.first y.out ∈ u.sent := by
  have hblocks := sendBuilt_sends s c none
  generalize ht : sendBuilt s c none = t at *
  have hstrobes : Sends c t (if t.rd E.hlMode e = 1 then t else sendStrobes t c e y) := by
    split
    · exact .refl c t
    · exact sendStrobes_sends ..
  obtain ⟨hbeyond, hchan, -, hfault, -⟩ := hblocks.trans hstrobes
  unfold firedOut at hu
  rw [ht] at hu
  dsimp only at hu
  generalize (if t.rd E.hlMode e = 1 then t else sendStrobes t c e y) = v at *
  subst hu
  exact ⟨hbeyond, hchan, hfault, List.mem_cons_self⟩

/-- The Girth and the engine have counted the line (R26, R218). -/
def firedCounts (s : State) (c e k : Nat) (en : Rat) : State :=
  ((countEnergy s c en).count48 E.linesFired e).wr E.lastLine k c

/-- The channel after its fire. -/
def firedChan (s : State) (c : Nat) (l : Lock) (y : Cycle) : State :=
  s.setChan c { s.chan c with
    built := none, fired := some l.line, lastFire := some l.inst, freeAt := l.inst, lateRun := 0, taking := 0,
    cycle := some y, prevCycle := (s.chan c).cycle, firedInt := (s.chan c).firedInt + 1 }

theorem fireLine_eq (s : State) (c : Nat) (l : Lock) (b : Built) (y : Cycle) (hy : y = newCycle s c b.engine l.line l.inst)
    (v : State) (hv : v = firedOut s c b.engine y) : fireLine s c l b =
      firedChan (handProbe (firedCounts v c b.engine l.line (lineEnergy v c b.engine b)) b y false) c l y := by
  subst hv hy
  rfl

theorem countEnergy_leaves (s : State) (c : Nat) (en : Rat) (hu : u = countEnergy s c en) :
    u.chans = s.chans ∧ u.faultQ = s.faultQ ∧ u.sent = s.sent ∧ u.otp = s.otp ∧ u.personas = s.personas ∧
      SameBut s u [rowKey E.eLine c 0, rowKey E.girthEnergy 0 0] := by
  obtain ⟨n, hn⟩ := roundWord_eq s en
  have hcount : u = { ({ s with fresh := n }.wr E.eLine (sat32 (roundWord s en).1) c).count48 E.girthEnergy 0
      ((s.gov.rest + en) / 1000).floor.toNat with
        gov := { s.gov with acc := s.gov.acc + en, rest := s.gov.rest + en - 1000 * ((s.gov.rest + en) / 1000).floor.toNat } } := by
    rw [hu]
    unfold countEnergy
    dsimp only
    rw [hn]
    rfl
  subst hcount
  refine ⟨rfl, rfl, rfl, rfl, rfl, ?_⟩
  have hsame : SameBut s (({ s with fresh := n }.wr E.eLine (sat32 (roundWord s en).1) c).count48 E.girthEnergy 0
      ((s.gov.rest + en) / 1000).floor.toNat) [rowKey E.eLine c 0, rowKey E.girthEnergy 0 0] :=
    (SameBut.wr (q := E.eLine) (t := { s with fresh := n }) ⟨fun _ _ _ _ => rfl, fun _ => rfl⟩ (by simp) _).wr (by simp) _
  exact hsame

theorem handProbe_leaves (s : State) (b : Built) (y : Cycle) (unfired : Bool) (hu : u = handProbe s b y unfired) :
    u.chans = s.chans ∧ u.faultQ = s.faultQ ∧ u.sent = s.sent := by
  subst hu
  unfold handProbe
  split <;> exact ⟨rfl, rfl, rfl⟩

/-- The entries by which the lines of a page are found lie outside a fired line's. -/
theorem pageRows_notMem {r : Row} (hr : r ∈ [E.persona, E.pageLines]) (c e : Nat) : rowKey r 0 0 ∉ fireKeys c e := by
  fin_cases hr <;> simp only [fireKeys, List.mem_cons, List.not_mem_nil, or_false, rowKey, E.persona, E.pageLines, E.eLine,
    E.girthEnergy, E.linesFired, E.lastLine] <;> omega

theorem fireLine_leaves (hc : c < 96) (he : b.engine < 100) (hu : u = fireLine s c l b) :
    u.rd E.lastLine c = l.line ∧ u.rd E.linesFired b.engine = wrap48 (s.rd E.linesFired b.engine + 1) ∧
      (u.chan c).locked = (s.chan c).locked ∧ (u.chan c).built = none ∧ (u.chan c).fired = some l.line ∧
      (u.chan c).freeAt = l.inst ∧ (u.chan c).lateRun = 0 ∧ (∃ f y, .waveform c f y ∈ u.sent) ∧ u.faultQ = s.faultQ ∧
      (∀ x, u.byte x = s.byte x) ∧ pageLinesOf u c = pageLinesOf s c := by
  rw [fireLine_eq s c l b _ rfl _ rfl] at hu
  generalize newCycle s c b.engine l.line l.inst = y at hu
  obtain ⟨hbeyond, hchan, hfault, hwave⟩ := firedOut_leaves s c b.engine y rfl
  generalize firedOut s c b.engine y = v at *
  obtain ⟨hchans, hfaultE, hsentE, hotpE, hpersE, hsameE⟩ := countEnergy_leaves v c (lineEnergy v c b.engine b) rfl
  unfold firedCounts at hu
  generalize countEnergy v c (lineEnergy v c b.engine b) = g at *
  have hrdv := rd_of_beyondFire hbeyond
  have hfired : g.rd E.linesFired b.engine = s.rd E.linesFired b.engine := by
    rw [hsameE.1, hrdv]
    simp only [List.mem_cons, List.not_mem_nil, or_false, rowKey, E.linesFired, E.eLine, E.girthEnergy]
    omega
  generalize hw : (g.count48 E.linesFired b.engine).wr E.lastLine l.line c = w at *
  have hsamew : SameBut v w (fireKeys c b.engine) := by
    rw [← hw]
    exact ((hsameE.mono (by simp [fireKeys])).wr (by simp [fireKeys]) _).wr (by simp [fireKeys]) _
  have hlast : w.rd E.lastLine c = l.line := hw ▸ State.rd_wr_same ..
  have hcount : w.rd E.linesFired b.engine = wrap48 (s.rd E.linesFired b.engine + 1) := by
    have hne : rowKey E.linesFired b.engine 0 ≠ rowKey E.lastLine c 0 := by
      simp only [rowKey, E.linesFired, E.lastLine]
      omega
    rw [← hw, State.rd_wr _ _ _ _ _ _ _ _ hne, ← hfired]
    exact State.rd_wr_same ..
  have hwotp : w.otp = s.otp := by
    rw [← hw]
    exact hotpE.trans (congrArg State.otp hbeyond :)
  have hwpers : w.personas = s.personas := by
    rw [← hw]
    exact hpersE.trans (congrArg State.personas hbeyond :)
  have hwsame : w.chans = v.chans ∧ w.faultQ = s.faultQ ∧ w.sent = v.sent := by
    rw [← hw]
    exact ⟨hchans, hfaultE.trans hfault, hsentE⟩
  obtain ⟨hchansw, hfaultw, hsentw⟩ := hwsame
  have hpage : pageLinesOf w c = pageLinesOf s c :=
    pageLinesOf_congr ((hsamew.1 _ _ _ (pageRows_notMem (by simp) c _)).trans (hrdv ..))
      ((hsamew.1 _ _ _ (pageRows_notMem (by simp) c _)).trans (hrdv ..)) hwotp fun p => by simp only [State.persona, hwpers]
  have hbyte (x : Nat) : w.byte x = s.byte x := (hsamew.2 x).trans (congrArg (State.byte · x) hbeyond :)
  have hprobe := handProbe_beyondFire w b y false
  obtain ⟨hchansh, hfaulth, hsenth⟩ := handProbe_leaves w b y false rfl
  generalize handProbe w b y false = h at *
  subst hu
  have hlockedv : (v.chan c).locked = (s.chan c).locked := (congrArg Chan.locked hchan :)
  have hlocked : (h.chan c).locked = (s.chan c).locked := by
    simpa only [State.chan, hchansh, hchansw] using hlockedv
  refine ⟨(rd_of_beyondFire hprobe ..).trans hlast, (rd_of_beyondFire hprobe ..).trans hcount, ?_, ?_, ?_, ?_, ?_,
    ⟨y.first, y.out, ?_⟩, hfaulth.trans hfaultw, fun x => (congrArg (State.byte · x) hprobe :).trans (hbyte x),
    (pageLinesOf_of_beyondFire hprobe).trans hpage⟩
  · simpa [firedChan] using hlocked
  · simp [firedChan]
  · simp [firedChan]
  · simp [firedChan]
  · simp [firedChan]
  · simpa only [firedChan, State.setChan, hsenth, hsentw] using hwave

/-! ### A late line -/

/-- The probe of a built line that does not fire goes on as one of no line (R238). -/
def probeUnfired (s : State) (c : Nat) (l : Lock) : State :=
  match (s.chan c).built with
  | none => s
  | some b => handProbe s b (noCycle l) true

theorem probeUnfired_leaves (s : State) (c : Nat) (l : Lock) (hu : u = probeUnfired s c l) :
    u.chans = s.chans ∧ u.faultQ = s.faultQ ∧ u.sent = s.sent ∧ beyondFire u = beyondFire s := by
  subst hu
  unfold probeUnfired
  split
  · exact ⟨rfl, rfl, rfl, rfl⟩
  next b _ =>
    obtain ⟨hchans, hfault, hsent⟩ := handProbe_leaves s b (noCycle l) true rfl
    exact ⟨hchans, hfault, hsent, handProbe_beyondFire ..⟩

theorem dropBuilt_eq (s : State) (c : Nat) (l : Lock) (v : State) (hv : v = probeUnfired (sendBuilt s c (some l.inst)) c l) :
    dropBuilt s c l = v.setChan c { v.chan c with built := none, freeAt := l.inst } := by
  subst hv
  rfl

theorem dropBuilt_leaves (s : State) (c : Nat) (l : Lock) (hu : u = dropBuilt s c l) :
    (u.chan c).locked = (s.chan c).locked ∧ (u.chan c).built = none ∧ (u.chan c).freeAt = l.inst ∧ u.faultQ = s.faultQ ∧
      (∀ d f y, .waveform d f y ∈ u.sent → .waveform d f y ∈ s.sent) ∧ beyondFire u = beyondFire s := by
  obtain ⟨hbeyond, hchan, -, hfault, hwave⟩ := sendBuilt_sends s c (some l.inst)
  have hlocked : ((sendBuilt s c (some l.inst)).chan c).locked = (s.chan c).locked := (congrArg Chan.locked hchan :)
  rw [dropBuilt_eq s c l _ rfl] at hu
  generalize sendBuilt s c (some l.inst) = v at *
  obtain ⟨hchans, hfaultw, hsent, hbeyondw⟩ := probeUnfired_leaves v c l rfl
  generalize probeUnfired v c l = w at *
  have hchanw : w.chan c = v.chan c := by rw [State.chan, hchans]; rfl
  subst hu
  refine ⟨?_, by simp, by simp, hfaultw.trans hfault, fun d f y hm => hwave d f y ?_, hbeyondw.trans hbeyond⟩
  · simpa [hchanw] using hlocked
  · simpa [hsent] using hm

/-- The latch of a late line in the persona (R576). -/
def latchLate (s : State) (c : Nat) : State :=
  if s.finup then s.setPersona (personaOf c) { s.persona (personaOf c) with
    latched := (s.persona (personaOf c)).latched ||| 4 } else s

theorem latchLate_leaves (s : State) (c : Nat) (hu : u = latchLate s c) : u.chans = s.chans ∧ u.faultQ = s.faultQ ∧
    u.sent = s.sent ∧ u.dict = s.dict ∧ u.otp = s.otp ∧ ∀ p, (u.persona p).words = (s.persona p).words := by
  subst hu
  unfold latchLate
  split
  · refine ⟨rfl, rfl, rfl, rfl, rfl, fun p => ?_⟩
    by_cases hp : p = personaOf c
    · subst hp; simp
    · rw [State.setPersona_ne _ _ _ _ hp]
  · exact ⟨rfl, rfl, rfl, rfl, rfl, fun _ => rfl⟩

theorem lateLine_of_not_taking (htaking : (s.chan c).taking = 0) (v : State) (hv : v = dropBuilt s c l) (w : State)
    (hw : w = latchLate (((v.setChan c { v.chan c with lateRun := (v.chan c).lateRun + 1, taking := 0 }).count E.lateLines
      e).report e 5 l.line) c) :
    lateLine s c e l = if (v.chan c).lateRun + 1 = w.rdN E.lateRunMax e then w.report e 6 0 else w := by
  subst hv hw
  have hlost : lostInTakeover s c e = false := by simp [lostInTakeover, htaking]
  unfold lateLine
  simp only [hlost, Bool.false_eq_true, if_false]
  rfl

theorem lateLine_leaves (he : e < 100) (hc : c < 96) (htaking : (s.chan c).taking = 0) (hu : u = lateLine s c e l) :
    u.rd E.lateLines e = min (s.rd E.lateLines e + 1) (2 ^ 32 - 1) ∧ u.rd E.lastLine c = s.rd E.lastLine c ∧
      (u.chan c).locked = (s.chan c).locked ∧ (u.chan c).built = none ∧ (u.chan c).freeAt = l.inst ∧
      (∀ d f y, .waveform d f y ∈ u.sent → .waveform d f y ∈ s.sent) ∧ (s.faultQ ++ [⟨e, 5, l.line⟩]) <+: u.faultQ ∧
      pageLinesOf u c = pageLinesOf s c := by
  rw [lateLine_of_not_taking htaking _ rfl _ rfl] at hu
  obtain ⟨hlocked, hbuilt, hfree, hfault, hwave, hbeyond⟩ := dropBuilt_leaves s c l rfl
  generalize dropBuilt s c l = v at *
  have hrd := rd_of_beyondFire hbeyond
  generalize hx : { v.chan c with lateRun := (v.chan c).lateRun + 1, taking := 0 } = x at hu
  obtain ⟨hchans, hfaultw, hsentw, hdict, hotp, hwords⟩ :=
    latchLate_leaves (((v.setChan c x).count E.lateLines e).report e 5 l.line) c rfl
  generalize latchLate (((v.setChan c x).count E.lateLines e).report e 5 l.line) c = w at *
  have hrdw (r : Row) (i j : Nat) : w.rd r i j = ((v.setChan c x).count E.lateLines e).rd r i j := by
    simp only [State.rd, hdict]
    rfl
  have hkept {r : Row} {i : Nat} (hne : rowKey r i 0 ≠ rowKey E.lateLines e 0) : w.rd r i = s.rd r i :=
    (hrdw r i 0).trans ((State.rd_wr _ _ _ _ _ _ _ _ hne).trans (hrd r i 0))
  have hcount : w.rd E.lateLines e = min (s.rd E.lateLines e + 1) (2 ^ 32 - 1) := by
    rw [hrdw, ← hrd E.lateLines]
    exact rd_count_same (v.setChan c x) E.lateLines e 1
  have hchanw : w.chan c = x := by
    rw [State.chan, hchans]
    exact State.setChan_same v c x
  have hfq : w.faultQ = s.faultQ ++ [⟨e, 5, l.line⟩] := by
    rw [hfaultw, ← hfault]
    rfl
  have hpage : pageLinesOf w c = pageLinesOf s c := by
    refine pageLinesOf_congr (hkept ?_) (hkept ?_) (hotp.trans (congrArg State.otp hbeyond :)) fun p => (hwords p).trans ?_
    · simp only [rowKey, E.persona, E.lateLines]; omega
    · simp only [rowKey, E.pageLines, E.lateLines]; omega
    · exact (congrArg (fun t => (State.persona t p).words) hbeyond :)
  have hlast : w.rd E.lastLine c = s.rd E.lastLine c := hkept (by simp only [rowKey, E.lastLine, E.lateLines]; omega)
  have hwaves (d f : Nat) (y : List Int) (hm : .waveform d f y ∈ w.sent) : .waveform d f y ∈ s.sent :=
    hwave d f y (hsentw ▸ hm)
  subst hx
  split at hu
  · subst hu
    exact ⟨hcount, hlast, by simpa [hchanw] using hlocked, by simpa [hchanw] using hbuilt, by simpa [hchanw] using hfree,
      hwaves, by simp [State.report, hfq], hpage⟩
  · subst hu
    exact ⟨hcount, hlast, by simpa [hchanw] using hlocked, by simpa [hchanw] using hbuilt, by simpa [hchanw] using hfree,
      hwaves, hfq ▸ List.prefix_rfl, hpage⟩

/-! ### The instant -/

theorem readyBuilt_setChan {x : Chan} (h : x.built = (s.chan c).built) (hpage : x.page = (s.chan c).page) :
    readyBuilt (s.setChan c x) c l = readyBuilt s c l := by
  simp only [readyBuilt, State.setChan_same, h, hpage]

/-- The instant of a channel's first locked line, firing not suspended, an engine serving the channel, not paused. -/
structure Due (s : State) (c e : Nat) (l : Lock) (rest : List Lock) : Prop where
  locked : (s.chan c).locked = l :: rest
  forward : s.obs.reverse = false
  served : serving s c = some e
  plays : s.rd E.paused c ≠ 1

/-- The state in which the line's lock is taken. -/
def unlocked (s : State) (c : Nat) (rest : List Lock) : State := s.setChan c { s.chan c with locked := rest }

/-- What the instant of a line comes to. -/
theorem Due.step {rest : List Lock} (h : Due s c e l rest) : lineFireAct c s =
    match readyBuilt s c l with
    | some b => passLine (fireLine (unlocked s c rest) c l b) c l.line
    | none => passLine (lateLine (unlocked s c rest) c e l) c l.line := by
  obtain ⟨hlocked, hforward, hserved, hplays⟩ := h
  have hserved' : serving (s.setChan c { s.chan c with locked := rest }) c = some e := hserved
  have hplays' : ¬(s.setChan c { s.chan c with locked := rest }).rd E.paused c = 1 := hplays
  have hready : readyBuilt (s.setChan c { s.chan c with locked := rest }) c l = readyBuilt s c l := readyBuilt_setChan rfl rfl
  unfold lineFireAct
  simp only [hlocked, hforward, Bool.false_eq_true, if_false, hserved', hplays', hready]
  rfl

theorem lineFireAct_suspended {rest : List Lock} (hlocked : (s.chan c).locked = l :: rest) (h : s.obs.reverse = true) :
    lineFireAct c s = suspendLine s c l rest := by
  simp [lineFireAct, hlocked, h]

/-- Settles O11: the page goes on after the line, which fires, is late, or is withheld. -/
theorem lineFireOrLate : Obligations.LineFireOrLate := by
  unfold Obligations.LineFireOrLate
  intro c s l rest e hlocked hserved hpage
  have hpage' : pageLinesOf (unlocked s c rest) c = pageLinesOf s c := pageLinesOf_of_beyondFire rfl
  have hrest : ((unlocked s c rest).chan c).locked = rest := by simp [unlocked]
  refine ⟨fun hforward hplays b hb he => ⟨_, exec_lineFire s c, ?_⟩, fun hforward hplays hb htaking he =>
    ⟨_, exec_lineFire s c, ?_⟩, fun hrev => ⟨_, exec_lineFire s c, ?_⟩⟩
  · rw [Due.step ⟨hlocked, hforward, hserved, hplays⟩, hb]
    dsimp only
    obtain ⟨hlast, hfired, hlk, hbuilt, hf, hfree, hrun, hwave, hfault, hbyte, hpageu⟩ :=
      fireLine_leaves (s := unlocked s c rest) (l := l) c.isLt he rfl
    rw [passLine_of_inner (by rwa [hpageu, hpage'])]
    exact ⟨hlast, hfired, hlk.trans hrest, hbuilt, hf, hfree, hrun, hwave.imp fun f hy => hy, hfault, hbyte⟩
  · rw [Due.step ⟨hlocked, hforward, hserved, hplays⟩, hb]
    dsimp only
    obtain ⟨hcount, hlast, hlk, hbuilt, hfree, hwave, hfault, hpageu⟩ :=
      lateLine_leaves (s := unlocked s c rest) (l := l) he c.isLt (by simpa [unlocked] using htaking) rfl
    rw [passLine_of_inner (by rwa [hpageu, hpage'])]
    exact ⟨hcount, hlast, hlk.trans hrest, hbuilt, hfree, hwave, hfault⟩
  · rw [lineFireAct_suspended hlocked hrev]
    unfold suspendLine
    cases rest with
    | nil => exact ⟨by simp, by simp, fun h => absurd rfl h, by simp, by simp, fun _ _ _ _ => rfl, fun _ => rfl⟩
    | cons k r => exact ⟨by simp, by simp, by simp, by simp, by simp, fun _ _ _ _ => rfl, fun _ => rfl⟩

end Sys2Proof.Machine
end

section
/-!
CERTIFICATE. The build of a line starts (R114, R115, R144, R163).
-/
namespace Sys2Proof.Machine

variable {s t u : State} {c e : Nat}

theorem exec_buildStart (s : State) (c : Ch) : exec (.buildStart c) s = .next (buildStartAct c s) := rfl

/-! ### What the line boundary keeps -/

/-- From `s` to `t` channel c has kept its page and what it has built, LAST_LINE its value, and the device its state. -/
structure LineKept (c : Nat) (s t : State) : Prop where
  page : (t.chan c).page = (s.chan c).page
  built : (t.chan c).built = (s.chan c).built
  dev : t.dev = s.dev
  last : t.rd E.lastLine c = s.rd E.lastLine c

namespace LineKept

theorem refl (c : Nat) (s : State) : LineKept c s s := ⟨rfl, rfl, rfl, rfl⟩

theorem trans (h : LineKept c s t) (h' : LineKept c t u) : LineKept c s u :=
  ⟨h'.page.trans h.page, h'.built.trans h.built, h'.dev.trans h.dev, h'.last.trans h.last⟩

theorem ite {p : Prop} [Decidable p] (ht : LineKept c s t) (hu : LineKept c s u) : LineKept c s (if p then t else u) := by
  split <;> assumption

theorem foldl {α : Type} (f : State → α → State) (hf : ∀ s x, LineKept c s (f s x)) :
    ∀ (l : List α) (s : State), LineKept c s (l.foldl f s)
  | [], s => .refl c s
  | x :: r, s => (hf s x).trans (foldl f hf r _)

theorem wr (s : State) {q : Row} {x y : Nat} (hq : rowKey q x y ≠ rowKey E.lastLine c 0) (v : Int) :
    LineKept c s (s.wr q v x y) :=
  ⟨rfl, rfl, rfl, State.rd_wr _ _ _ _ _ _ _ _ hq.symm⟩

theorem setChan (s : State) (d : Nat) {x : Chan} (hpage : x.page = (s.chan d).page) (hbuilt : x.built = (s.chan d).built) :
    LineKept c s (s.setChan d x) := by
  by_cases hd : c = d
  · subst hd
    exact ⟨by simpa using hpage, by simpa using hbuilt, rfl, rfl⟩
  · exact ⟨by rw [State.setChan_ne _ _ _ _ hd], by rw [State.setChan_ne _ _ _ _ hd], rfl, rfl⟩

theorem setEng (s : State) (e : Nat) (x : EngSt) : LineKept c s (s.setEng e x) := ⟨rfl, rfl, rfl, rfl⟩
theorem report (s : State) (src kind addr : Nat) : LineKept c s (s.report src kind addr) := ⟨rfl, rfl, rfl, rfl⟩
theorem setBytes (s : State) (a : Nat) (l : List Byte) : LineKept c s (s.setBytes a l) := ⟨rfl, rfl, rfl, rfl⟩
theorem setPersona (s : State) (p : Nat) (x : PersonaSt) : LineKept c s (s.setPersona p x) := ⟨rfl, rfl, rfl, rfl⟩

theorem roundWord (s : State) (x : Rat) : LineKept c s (roundWord s x).2 := by
  obtain ⟨n, hn⟩ := roundWord_eq s x
  exact hn ▸ ⟨rfl, rfl, rfl, rfl⟩

end LineKept

theorem announceTakeover_lineKept (s : State) (d e : Nat) : LineKept c s (announceTakeover s d e) :=
  .ite ((LineKept.setEng s _ _).trans (.report _ _ _ _)) (.refl c s)

section
variable (hc : c < 96)
include hc

theorem skipLines_lineKept (s : State) (n : Nat) : LineKept c s (skipLines s c n) := by
  have hskip : rowKey E.skipped c 0 ≠ rowKey E.lastLine c 0 := by simp only [rowKey, E.skipped, E.lastLine]; omega
  have htotal : rowKey E.skippedTotal 0 0 ≠ rowKey E.lastLine c 0 := by simp only [rowKey, E.skippedTotal, E.lastLine]; omega
  have hcount := ((LineKept.setChan s c (x := { s.chan c with lateRun := 0 }) rfl rfl).trans
    (.wr _ (x := c) hskip (sat32 ((s.setChan c { s.chan c with lateRun := 0 }).rd E.skipped c + n)))).trans
      (.wr _ (x := 0) htotal (wrap48 (((s.setChan c { s.chan c with lateRun := 0 }).count E.skipped c n).rd E.skippedTotal 0 + n)))
  unfold skipLines
  exact .ite (.refl c s) (.ite (hcount.trans (.setPersona _ _ _)) hcount)

theorem fixedSkips_lineKept (s : State) (k : Nat) : LineKept c s (fixedSkips s c k) := by
  have hnext (n : Nat) (b : Bool) : LineKept c s (s.setChan c { s.chan c with next := n, inOver := b }) := .setChan s c rfl rfl
  unfold fixedSkips
  exact .ite (.refl c s) (.trans (.ite ((hnext _ _).trans (.report _ _ _ _)) (hnext _ _)) (skipLines_lineKept hc _ _))

/-- The rows of tables, waveforms and loops lie elsewhere than LAST_LINE. -/
theorem boundaryKey_ne {r : Row} (hr : r ∈ [E.commitLine, E.stitchCrc, E.uncoveredCount]) (i : Nat) :
    rowKey r i 0 ≠ rowKey E.lastLine c 0 := by
  fin_cases hr <;> simp only [rowKey, E.commitLine, E.stitchCrc, E.uncoveredCount, E.lastLine] <;> omega

theorem ampKey_ne {r : Row} (hr : r ∈ [E.refTarget, E.outMin, E.outMax, E.output]) {i : Nat} (hi : i < 98) :
    rowKey r i 0 ≠ rowKey E.lastLine c 0 := by
  fin_cases hr <;> simp only [rowKey, E.refTarget, E.outMin, E.outMax, E.output, E.lastLine] <;> omega

theorem swingKey_ne (i j : Nat) : rowKey E.swing i j ≠ rowKey E.lastLine c 0 := by
  simp only [rowKey, E.swing, E.lastLine]
  omega

theorem gainKey_ne (i : Nat) : rowKey E.gain i 0 ≠ rowKey E.lastLine c 0 := by
  simp only [rowKey, E.gain, E.lastLine]
  omega

theorem ampSettings_lineKept (s : State) {d : Nat} (hd : d < 96) : LineKept c s (ampSettings s d) := by
  have hl : ampLoop d < 98 := by unfold ampLoop; omega
  have htarget : LineKept c s (ampTarget s d) := by
    unfold ampTarget
    split
    · exact .refl c s
    · exact .wr s (ampKey_ne hc (by simp) hl) _
  have hset (t : State) (b : Bool) (v : Int) : LineKept c t ((t.setChan d { t.chan d with ceilHit := b }).wr E.gain v d) :=
    (LineKept.setChan t d (x := { t.chan d with ceilHit := b }) rfl rfl).trans (.wr _ (gainKey_ne hc d) v)
  have hlimits (t : State) : LineKept c t (ampLimits t d) := by
    unfold ampLimits
    split
    · exact .refl c t
    · have hmin (v w : Int) : LineKept c t ((t.wr E.outMin v (ampLoop d)).wr E.outMax w (ampLoop d)) :=
        (LineKept.wr t (ampKey_ne hc (by simp) hl) v).trans (.wr _ (ampKey_ne hc (by simp) hl) w)
      refine (hmin _ _).trans (.ite ?_ (hset _ _ _))
      split
      · exact .refl c _
      · exact .ite (.refl c _) ((hset _ _ _).trans (.wr _ (ampKey_ne hc (by simp) hl) _))
  exact htarget.trans (hlimits _)

theorem swings_lineKept (s : State) (e : Nat) : LineKept c s (swings s e) := by
  unfold swings
  exact (LineKept.setEng s _ _).trans (LineKept.foldl _ (fun t x => (LineKept.roundWord t _).trans
    (.wr _ (swingKey_ne hc _ _) _)) _ _)

theorem applyMarks_lineKept (s : State) (e : Nat) : LineKept c s (applyMarks s e) := by
  unfold applyMarks
  refine (LineKept.setEng s _ _).trans (LineKept.foldl _ (fun t x => ?_) _ _)
  refine .ite (.refl c t) (.ite (LineKept.trans ?_ (.report _ _ _ _)) (.setBytes t _ _))
  exact (LineKept.setBytes t _ _).trans (.wr _ (boundaryKey_ne hc (by simp) _) _)

omit hc in
theorem channelOf_lt {d : Nat} (h : channelOf s e = some d) : d < 96 := by
  unfold channelOf at h
  dsimp only at h
  split at h
  · injection h with h; omega
  · cases h

theorem swapTable_lineKept (s : State) (e : Nat) (tb : Table) (k : Nat) : LineKept c s (swapTable s e tb k) := by
  have hcopy : LineKept c s (s.copyBytes (shadowAt e tb) (activeAt e tb) (tableLen tb)) := ⟨rfl, rfl, rfl, rfl⟩
  have hstale (t : State) : LineKept c t t.stale := ⟨rfl, rfl, rfl, rfl⟩
  have hbase (x : EngSt) := ((hcopy.trans (.setEng _ e x)).trans (.wr _ (boundaryKey_ne hc (r := E.commitLine) (by simp) e) k)).trans (hstale _)
  unfold swapTable
  dsimp only
  cases tb with
  | stitch => exact (hbase _).trans (((LineKept.setEng _ _ _).trans (.wr _ (boundaryKey_ne hc (by simp) _) _)).trans
      (applyMarks_lineKept hc _ _))
  | wave =>
    dsimp only
    split
    · exact (hbase _).trans (swings_lineKept hc _ _)
    next d hd => exact ((hbase _).trans (swings_lineKept hc _ _)).trans (ampSettings_lineKept hc _ (channelOf_lt hd))
  | shape => exact hbase _
  | tile => exact hbase _

theorem lineBoundary_lineKept (s : State) (e : Nat) (at_ : Nat × Nat) : LineKept c s (lineBoundary s e at_) :=
  LineKept.foldl _ (fun _ _ => .ite (swapTable_lineKept hc _ _ _ _) (.refl c _)) _ _

omit hc in
theorem askUpTo_lineKept (s : State) (n : Nat) : LineKept c s (askUpTo s c n) := by
  have hask (t : State) (k : Nat) : LineKept c t (askLine t c k) := by
    have hset : LineKept c t (t.setChan c { t.chan c with asked := (t.chan c).asked ++ [k], askNext := k + 1 }) :=
      .setChan t c rfl rfl
    have hwait : rowKey E.feedWaits c 0 ≠ rowKey E.lastLine c 0 := by simp only [rowKey, E.feedWaits, E.lastLine]; omega
    unfold askLine
    exact .ite (hset.trans (.wr _ hwait _)) hset
  exact LineKept.foldl _ (fun _ _ => hask _ _) _ _

end

/-! ### The build -/

theorem chooseProbe_lineKept (s : State) (d e : Nat) : LineKept c s (chooseProbe s d e).2 := by
  have hset (x : EngSt) : LineKept c s (s.setEng e x) := .setEng s e x
  unfold chooseProbe
  dsimp only
  split
  · exact .refl c s
  split
  · exact hset _
  split
  · exact hset _
  split
  · split
    · exact hset _
    · exact (hset _).trans (.setEng _ _ _)
  · exact hset _
  · exact hset _

theorem fireTimeOf_lineKept (s : State) (d k : Nat) : LineKept c s (fireTimeOf s d k).2 := by
  unfold fireTimeOf
  dsimp only
  split
  · exact .refl c s
  · split
    · exact .refl c s
    · exact ⟨rfl, rfl, rfl, rfl⟩

theorem deskewStep_lineKept (s : State) (d : Nat) : LineKept c s (deskewStep s d) := by
  have htap (t : State) (j : Nat) : LineKept c t (stepTap t d j) := .ite (.refl c t) (.setBytes t _ _)
  have hset (n : Nat) : LineKept c s (s.setChan d { s.chan d with headers := n }) := .setChan s d rfl rfl
  unfold deskewStep
  exact .ite (hset _) (.ite ((hset 0).trans (.foldl _ (fun t j => htap t j) _ _)) (hset 0))

/-- The built line of a channel, as the build states it (R114, R131, R144). -/
structure Builds (c : Nat) (t : State) (k page e : Nat) (fill rep : Bool) : Prop where
  built : ∃ b, (t.chan c).built = some b ∧ b.line = k ∧ b.page = page ∧ b.engine = e ∧ b.fill = fill ∧ b.rep = rep

theorem serialise_builds (s : State) (c e fire : Nat) (b : Built) :
    Builds c (serialise s c e b fire) b.line b.page b.engine b.fill b.rep ∧ (serialise s c e b fire).dev = s.dev ∧
      (serialise s c e b fire).rd E.lastLine c = s.rd E.lastLine c := by
  obtain ⟨-, -, hdev, hlast⟩ := deskewStep_lineKept (c := c) s c
  unfold serialise
  dsimp only
  split
  · exact ⟨⟨b, by simp, rfl, rfl, rfl, rfl, rfl⟩, rfl, rfl⟩
  · exact ⟨⟨_, congrArg Chan.built (State.setChan_same _ _ _), rfl, rfl, rfl, rfl, rfl⟩, hdev, hlast⟩

theorem buildLine_builds (s : State) (c e k : Nat) (l : LbSlot) :
    Builds c (buildLine s c e k l) k (s.chan c).page e l.damaged l.rep ∧ (buildLine s c e k l).dev = s.dev ∧
      (buildLine s c e k l).rd E.lastLine c = s.rd E.lastLine c := by
  obtain ⟨-, -, hdev, hlast⟩ := (chooseProbe_lineKept (c := c) s c e).trans (fireTimeOf_lineKept _ c k)
  obtain ⟨hb, hdev', hlast'⟩ := serialise_builds (fireTimeOf (chooseProbe s c e).2 c k).2 c e
    (fireTimeOf (chooseProbe s c e).2 c k).1 _
  exact ⟨hb, hdev'.trans hdev, hlast'.trans hlast⟩

theorem Builds.of_lineKept {k page e : Nat} {fill rep : Bool} (h : Builds c s k page e fill rep) (hk : LineKept c s t) :
    Builds c t k page e fill rep := by
  obtain ⟨b, hb, hrest⟩ := h
  exact ⟨b, hk.built.trans hb, hrest⟩

/-- Settles O12: the line boundary and the lines asked for leave what the build has made. -/
theorem buildStartBuildsLine : Obligations.BuildStartBuildsLine := by
  unfold Obligations.BuildStartBuildsLine
  intro c s e l hworks hbusy hen hplays hnone hlocks hslot
  have hc : c.val < 96 := c.isLt
  have hlk : (s.noLocks && (s.chan c).locked.isEmpty) = false := by
    cases hno : s.noLocks
    · rfl
    · simpa using hlocks hno
  have hgoes : (!s.busyJob || !enabledCh s c || s.rd E.paused c == 1 || (s.chan c).built.isSome ||
      s.noLocks && (s.chan c).locked.isEmpty) = false := by
    rw [hlk]
    simp [hbusy, hen, hplays, hnone]
  refine ⟨_, exec_buildStart s c, ?_⟩
  unfold buildStartAct
  simp only [hworks, hgoes, Bool.false_eq_true, if_false, hslot]
  have hbefore := ((announceTakeover_lineKept (c := c.val) s c e).trans (fixedSkips_lineKept hc _ (targetLine s c))).trans
    (lineBoundary_lineKept hc _ e ((s.chan c).page, targetLine s c))
  generalize lineBoundary (fixedSkips (announceTakeover s c e) c (targetLine s c)) e ((s.chan c).page, targetLine s c) = v at *
  obtain ⟨hb, hdev, hlast⟩ := buildLine_builds v c e (targetLine s c) l
  generalize buildLine v c e (targetLine s c) l = w at *
  generalize hn : (s.chan c).page * pageLinesOf s c + targetLine s c = n at *
  have hrelease : LineKept c w (releaseTo w c (n - 8)) := .setChan w c rfl rfl
  have hafter := (LineKept.ite (p := 8 ≤ n) hrelease (.refl c w)).trans (askUpTo_lineKept _ (n + w.rdN E.feedAhead e))
  obtain ⟨b, hbuilt, hline, hpage, heng, hfill, hrep⟩ := hb.of_lineKept hafter
  exact ⟨b, hbuilt, hline, hpage.trans hbefore.page, heng, hfill, hrep, hafter.dev.trans (hdev.trans hbefore.dev),
    hafter.last.trans (hlast.trans hbefore.last)⟩

end Sys2Proof.Machine
end

section
/-!
CERTIFICATE. The Feed engines: a line is fetched, lands whole, or is damaged (R143, R144, R309, R327, R370, R372, R373).
-/
namespace Sys2Proof.Machine

variable {s t u : State} {c e : Nat}

theorem exec_feedFetch (s : State) (c : Ch) : exec (.feedFetch c) s = .next (feedFetchAct c s) := rfl
theorem exec_feedLineReady (s : State) (c : Ch) (ecc : EccResult) :
    exec (.feedLineReady c ecc) s = .next (feedReadyAct c ecc s) := rfl
theorem exec_feedTimeout (s : State) (c : Ch) : exec (.feedTimeout c) s = .next (feedTimeoutAct c s) := rfl

/-! ### Requests -/

theorem acceptRequests_done (k : Nat) (s : State) (f : Fetch) (h : f.todo = []) : acceptRequests k s f = (s, f) := by
  cases k with
  | zero => rfl
  | succ k => simp only [acceptRequests, h]

/-- Lines whose requests are all accepted stay as they are. -/
theorem acceptLines_append_done (l : List Fetch) (h : ∀ f ∈ l, f.todo = []) : ∀ (r : List Fetch) (k : Nat) (s : State),
    acceptLines (l ++ r) k s = ((acceptLines r k s).1, l ++ (acceptLines r k s).2) := by
  induction l with
  | nil => exact fun _ _ _ => rfl
  | cons f l ih =>
    intro r k s
    have hf := h f (by simp)
    simp only [List.cons_append, acceptLines, acceptRequests_done k s f hf, hf, List.isEmpty_nil, if_true, Nat.sub_self,
      Nat.sub_zero, ih (fun g hg => h g (List.mem_cons_of_mem _ hg))]

/-- With nothing to issue the Feed engine leaves the channel as it is. -/
theorem pumpFeed_done (s : State) (c : Nat) (h : ∀ f ∈ (s.chan c).issued, f.todo = []) :
    pumpFeed s c = s.setChan c (s.chan c) := by
  have hlines := acceptLines_append_done (s.chan c).issued h [] (4 - inRequest (s.chan c)) s
  simp only [List.append_nil, acceptLines] at hlines
  unfold pumpFeed
  simp only [hlines]

/-- A request is issued: it keeps its line and address, and changes nothing but the memory system. -/
theorem acceptRequests_leaves (k : Nat) : ∀ (s : State) (f : Fetch), (acceptRequests k s f).2.job = f.job ∧
    (acceptRequests k s f).2.addr = f.addr ∧ (acceptRequests k s f).1.chans = s.chans ∧
      (acceptRequests k s f).1.dict = s.dict ∧ (acceptRequests k s f).1.mem = s.mem := by
  induction k with
  | zero => exact fun _ _ => ⟨rfl, rfl, rfl, rfl, rfl⟩
  | succ k ih =>
    intro s f
    unfold acceptRequests
    split
    · exact ⟨rfl, rfl, rfl, rfl, rfl⟩
    · split
      · exact ⟨rfl, rfl, rfl, rfl, rfl⟩
      · exact ⟨rfl, rfl, rfl, rfl, rfl⟩
      · exact ih _ _

/-- One line that is still to be issued comes last. -/
theorem acceptLines_last (f : Fetch) (k : Nat) (s : State) :
    acceptLines [f] k s = ((acceptRequests k s f).1, [(acceptRequests k s f).2]) := by
  simp only [acceptLines]
  split <;> rfl

/-- The line that a channel has just been asked for is issued behind the others. -/
theorem pumpFeed_last (s : State) (c : Nat) (l : List Fetch) (f : Fetch) (h : ∀ g ∈ l, g.todo = [])
    (hissued : (s.chan c).issued = l ++ [f]) : ∃ t g, acceptRequests (4 - inRequest (s.chan c)) s f = (t, g) ∧
      pumpFeed s c = t.setChan c { t.chan c with issued := l ++ [g] } := by
  refine ⟨_, _, rfl, ?_⟩
  unfold pumpFeed
  simp only [hissued, acceptLines_append_done l h, acceptLines_last]

/-- A line of one request that a page of an awake rank serves (R309, R327). -/
theorem acceptRequests_one (k : Nat) (s : State) (f : Fetch) (a n p : Nat) (htodo : f.todo = [(a, n)])
    (hreach : reach s a = .at_ p) (hawake : (s.rank (pRank (pageEntry s (a / pageSize)))).power < 3) :
    (acceptRequests (k + 1) s f).2 = { f with
      bad := f.bad || rangeBad s a n, todo := [], count := f.count + 1, data := f.data ++ s.bytes p n } := by
  have hpower : ¬3 ≤ (s.rank (pRank (pageEntry s (a / pageSize)))).power := Nat.not_le.mpr hawake
  simp only [acceptRequests, htodo, hreach, hpower, decide_false, Bool.false_eq_true, if_false]
  rw [acceptRequests_done _ _ _ rfl]

/-! ### Fetches -/

/-- The first line asked for may be issued: its ring buffer holds it, and few enough requests are in flight (R370, R372). -/
structure Fetches (s : State) (c e r n : Nat) (rest : List Nat) : Prop where
  works : workingEngine s c = some e
  buffer : ringBufOf s c = some r
  asked : (s.chan c).asked = n :: rest
  plain : s.rdN E.rbMode r = 0
  held : n < s.rdN E.rbWr r
  done : ∀ f ∈ (s.chan c).issued, f.todo = []
  room : inRequest (s.chan c) < 4

/-- The line of a fetch as it is asked for (R367, R370). -/
def fetchOf (s : State) (c e r n : Nat) : Fetch :=
  ⟨n, lineAddr s c r n, decide (n + s.rdN E.rbLines r < s.rdN E.rbWr r),
    if n + s.rdN E.rbLines r < s.rdN E.rbWr r then [] else requests (lineAddr s c r n) (lineBytes s e), 0, [], []⟩

/-- The state in which the line waits to be issued. -/
def fetchAsked (s : State) (c n : Nat) (rest : List Nat) (f : Fetch) : State :=
  (s.setChan c { s.chan c with asked := rest, issued := (s.chan c).issued ++ [f] }).wr E.feedNext (n + 1) c

theorem feedFetchAct_issues {r n : Nat} {rest : List Nat} (h : Fetches s c e r n rest) (v : State)
    (hv : v = s.setChan c (s.chan c)) (w : State) (hw : w = pumpFeed (fetchAsked v c n rest (fetchOf s c e r n)) c) :
    feedFetchAct c s = if n + s.rdN E.rbLines r < s.rdN E.rbWr r then w.report 0x90 1 (lineAddr s c r n) else w := by
  obtain ⟨hworks, hbuffer, hasked, hplain, hheld, hdone, hroom⟩ := h
  have hmode : (s.rd E.rbMode r == 1) = false := by
    rw [beq_eq_false_iff_ne]
    intro h1
    rw [State.rdN, h1] at hplain
    exact absurd hplain (by decide)
  have hall : (s.chan c).issued.all (fun f => f.todo.isEmpty) = true :=
    List.all_eq_true.mpr fun f hf => by rw [hdone f hf]; rfl
  have hchan : (s.setChan c (s.chan c)).chan c = s.chan c := State.setChan_same ..
  have hbuffer' : ringBufOf (s.setChan c (s.chan c)) c = some r := hbuffer
  have hmode' : ((s.setChan c (s.chan c)).rd E.rbMode r == 1) = false := hmode
  have hheld' : n < (s.setChan c (s.chan c)).rdN E.rbWr r := hheld
  subst hv hw
  unfold feedFetchAct
  simp only [hworks, pumpFeed_done s c hdone, hchan, hasked, hbuffer', hmode', Bool.false_and, Bool.false_eq_true, if_false,
    hheld', hroom, hall, and_self, if_true]
  by_cases hlap : n + s.rdN E.rbLines r < s.rdN E.rbWr r
  · have hlap' : n + (s.setChan c (s.chan c)).rdN E.rbLines r < (s.setChan c (s.chan c)).rdN E.rbWr r := hlap
    simp only [hlap, hlap', if_true, decide_true, fetchAsked, fetchOf, hchan]
    rfl
  · have hlap' : ¬n + (s.setChan c (s.chan c)).rdN E.rbLines r < (s.setChan c (s.chan c)).rdN E.rbWr r := hlap
    simp only [hlap, hlap', if_false, decide_false, Bool.false_eq_true, fetchAsked, fetchOf, hchan]
    rfl

theorem feedFetch_leaves {r n : Nat} {rest : List Nat} (h : Fetches s c e r n rest) (hu : u = feedFetchAct c s) :
    (u.chan c).asked = rest ∧ u.rd E.feedNext c = n + 1 ∧ (∀ x, u.byte x = s.byte x) ∧
      ∃ k f, (u.chan c).issued = (s.chan c).issued ++ [f] ∧ f.job = n ∧ f.addr = lineAddr s c r n ∧
        f = (acceptRequests (k + 1) (fetchAsked (s.setChan c (s.chan c)) c n rest (fetchOf s c e r n)) (fetchOf s c e r n)).2 := by
  rw [feedFetchAct_issues h _ rfl _ rfl] at hu
  generalize hw : fetchAsked (s.setChan c (s.chan c)) c n rest (fetchOf s c e r n) = w at *
  have hchanw : w.chan c = { s.chan c with asked := rest, issued := (s.chan c).issued ++ [fetchOf s c e r n] } := by
    rw [← hw]
    simp [fetchAsked]
  have hroom : inRequest (w.chan c) < 4 := by
    have hcount : inRequest (w.chan c) = inRequest (s.chan c) := by
      rw [hchanw]
      simp [inRequest, fetchOf]
    exact hcount ▸ h.room
  obtain ⟨k, hk⟩ : ∃ k, 4 - inRequest (w.chan c) = k + 1 := ⟨3 - inRequest (w.chan c), by omega⟩
  obtain ⟨t, g, hacc, hpump⟩ := pumpFeed_last w c (s.chan c).issued (fetchOf s c e r n) h.done (by rw [hchanw])
  obtain ⟨hjob, haddr, hchans, hdict, hmem⟩ := acceptRequests_leaves (4 - inRequest (w.chan c)) w (fetchOf s c e r n)
  rw [hacc] at hjob haddr hchans hdict hmem
  rw [hk] at hacc
  dsimp only at hjob haddr hchans hdict hmem
  have hasked : (t.chan c).asked = rest := by
    rw [State.chan, hchans]
    exact (congrArg Chan.asked hchanw :)
  have hnext : t.rd E.feedNext c = n + 1 := by
    rw [State.rd, hdict, ← hw]
    exact State.rd_wr_same ..
  have hbyte (x : Nat) : t.byte x = s.byte x := by
    rw [State.byte, hmem, ← hw]
    rfl
  rw [hpump] at hu
  have hlast : g = (acceptRequests (k + 1) w (fetchOf s c e r n)).2 := by rw [hacc]
  have hfields : ∀ v : State, v.chans = (t.setChan c { t.chan c with issued := (s.chan c).issued ++ [g] }).chans →
      v.dict = t.dict → v.mem = t.mem → (v.chan c).asked = rest ∧ v.rd E.feedNext c = n + 1 ∧ (∀ x, v.byte x = s.byte x) ∧
        (v.chan c).issued = (s.chan c).issued ++ [g] := by
    intro v hchans hdict hmemv
    have hchanv : v.chan c = { t.chan c with issued := (s.chan c).issued ++ [g] } := by
      rw [State.chan, hchans]
      exact State.setChan_same ..
    refine ⟨by rw [hchanv]; exact hasked, by simpa only [State.rd, hdict] using hnext, fun x => ?_, by rw [hchanv]⟩
    simpa only [State.byte, hmemv] using hbyte x
  have hall : (u.chan c).asked = rest ∧ u.rd E.feedNext c = n + 1 ∧ (∀ x, u.byte x = s.byte x) ∧
      (u.chan c).issued = (s.chan c).issued ++ [g] := by
    subst hu
    split
    · exact hfields _ rfl rfl rfl
    · exact hfields _ rfl rfl rfl
  obtain ⟨ha, hn, hb, hi⟩ := hall
  exact ⟨ha, hn, hb, k, g, hi, hjob, haddr, hlast⟩

/-! ### Lines that land -/

/-- The first line in flight of a channel, behind it lines of other numbers whose requests are all accepted. -/
structure FirstInFlight (s : State) (c : Nat) (f : Fetch) (fs : List Fetch) : Prop where
  issued : (s.chan c).issued = f :: fs
  others : ∀ g ∈ fs, g.todo = [] ∧ g.job ≠ f.job

theorem FirstInFlight.landed {f : Fetch} {fs : List Fetch} (h : FirstInFlight s c f fs) :
    (s.chan c).issued.filter (fun g => g.job != f.job) = fs := by
  rw [h.issued, List.filter_cons_of_neg (by simp), List.filter_eq_self]
  exact fun g hg => by simpa using (h.others g hg).2

theorem landLine_leaves {f : Fetch} {fs : List Fetch} (h : FirstInFlight s c f fs) (dam rep : Bool) (data : List Byte)
    (hu : u = landLine s c f.job dam rep data) : (u.chan c).issued = fs ∧
      (u.chan c).slots = (s.chan c).slots ++ [⟨f.job, nowStep s, dam, rep, data⟩] ∧ u.dict = s.dict ∧ u.faultQ = s.faultQ ∧
      u.mem = s.mem := by
  subst hu
  exact ⟨by simpa [landLine] using h.landed, by simp [landLine], rfl, rfl, rfl⟩

/-- The line that stands for a damaged one (R143, R144). -/
def damagedLine (s : State) (c e n : Nat) : State :=
  match s.rd E.damagedFill e, (if pageLine s c n = 0 then none else slotOf (s.chan c) (n - 1)) with
  | 1, some p => landLine s c n true true p.data
  | _, _ => landLine s c n true false (List.replicate (lineBytes s e) (0 : Byte))

theorem damagedLine_leaves {f : Fetch} {fs : List Fetch} (h : FirstInFlight s c f fs) (hu : u = damagedLine s c e f.job) :
    (u.chan c).issued = fs ∧ (∃ x, x ∈ (u.chan c).slots ∧ x.job = f.job ∧ x.damaged = true) ∧ u.dict = s.dict ∧
      u.faultQ = s.faultQ := by
  subst hu
  unfold damagedLine
  split
  next p _ _ =>
    obtain ⟨hissued, hslots, hdict, hfault, -⟩ := landLine_leaves h true true p.data rfl
    exact ⟨hissued, ⟨_, hslots ▸ List.mem_append_right _ (List.mem_singleton.mpr rfl), rfl, rfl⟩, hdict, hfault⟩
  next =>
    obtain ⟨hissued, hslots, hdict, hfault, -⟩ :=
      landLine_leaves h true false (List.replicate (lineBytes s e) (0 : Byte)) rfl
    exact ⟨hissued, ⟨_, hslots ▸ List.mem_append_right _ (List.mem_singleton.mpr rfl), rfl, rfl⟩, hdict, hfault⟩

theorem landDamaged_eq (s : State) (c e n : Nat) : landDamaged s c e n =
    (latchLate ((damagedLine s c e n).count E.damagedLines e) c).report e 4 (pageLine s c n) := rfl

theorem landDamaged_leaves {f : Fetch} {fs : List Fetch} (h : FirstInFlight s c f fs) (hu : u = landDamaged s c e f.job) :
    (u.chan c).issued = fs ∧ (∃ x, x ∈ (u.chan c).slots ∧ x.job = f.job ∧ x.damaged = true) ∧
      u.rd E.damagedLines e = min (s.rd E.damagedLines e + 1) (2 ^ 32 - 1) ∧
      u.faultQ = s.faultQ ++ [⟨e, 4, pageLine s c f.job⟩] := by
  rw [landDamaged_eq] at hu
  obtain ⟨hissued, hslot, hdict, hfault⟩ := damagedLine_leaves (e := e) h rfl
  generalize damagedLine s c e f.job = v at *
  obtain ⟨hchans, hfaultw, -, hdictw, -, -⟩ := latchLate_leaves (v.count E.damagedLines e) c rfl
  generalize latchLate (v.count E.damagedLines e) c = w at *
  have hchan : w.chan c = v.chan c := by rw [State.chan, hchans]; rfl
  have hcount : w.rd E.damagedLines e = min (s.rd E.damagedLines e + 1) (2 ^ 32 - 1) := by
    have hrd : v.rd E.damagedLines e = s.rd E.damagedLines e := by simp only [State.rd, hdict]
    rw [State.rd, hdictw, ← hrd]
    exact rd_count_same v E.damagedLines e 1
  have hfq : w.faultQ = s.faultQ := hfaultw.trans hfault
  subst hu
  exact ⟨by simpa [hchan] using hissued, by simpa [hchan] using hslot, by simpa using hcount, by simp [hfq]⟩

/-- A Feed engine that has nothing to issue. -/
theorem pumpFeed_done_leaves (h : ∀ f ∈ (s.chan c).issued, f.todo = []) (hu : u = pumpFeed s c) :
    u.chan c = s.chan c ∧ u.dict = s.dict ∧ u.faultQ = s.faultQ ∧ u.mem = s.mem := by
  rw [pumpFeed_done s c h] at hu
  subst hu
  exact ⟨State.setChan_same .., rfl, rfl, rfl⟩

theorem FirstInFlight.done {f : Fetch} {fs : List Fetch} (h : FirstInFlight s c f fs) (hf : f.todo = []) :
    ∀ g ∈ (s.chan c).issued, g.todo = [] := by
  rw [h.issued]
  intro g hg
  rcases List.mem_cons.mp hg with rfl | hg
  · exact hf
  · exact (h.others g hg).1

theorem feedReadyAct_lands {f : Fetch} {fs : List Fetch} {ecc : EccResult} (hworks : workingEngine s c = some e)
    (h : FirstInFlight s c f fs) (htodo : f.todo = []) (hwaits : f.waits = []) (v : State)
    (hv : v = s.setChan c (s.chan c)) : feedReadyAct c ecc s =
      pumpFeed (if f.bad || ecc == .uncorrectable then landDamaged v c e f.job else landLine v c f.job false false f.data) c := by
  have hdone : fetchDone v f = true := by simp [fetchDone, htodo, hwaits]
  have hissued : (v.chan c).issued = f :: fs := by rw [hv, State.setChan_same]; exact h.issued
  unfold feedReadyAct
  simp only [hworks, pumpFeed_done s c (h.done htodo), ← hv, hissued, hdone, Bool.not_true, Bool.false_eq_true, if_false]

/-- Settles O13: the fetch of the first line asked for, and the first line in flight landing whole or damaged. -/
theorem feedFetchesLines : Obligations.FeedFetchesLines := by
  unfold Obligations.FeedFetchesLines
  intro c s e r hworks he hbuffer
  refine ⟨fun n rest hasked hplain hheld hdone hroom => ⟨_, exec_feedFetch s c, ?_⟩, fun f fs hissued hothers => ?_⟩
  · obtain ⟨hask, hnext, hbyte, k, f, hf, hjob, haddr, hacc⟩ :=
      feedFetch_leaves ⟨hworks, hbuffer, hasked, hplain, hheld, hdone, hroom⟩ rfl
    refine ⟨hask, hnext, hbyte, f, hf, hjob, haddr, fun p hlap hone hreach hawake => ?_⟩
    rw [haddr] at hone hreach hawake
    have htodo : (fetchOf s c e r n).todo = [(lineAddr s c r n, lineBytes s e)] := by
      rw [fetchOf, if_neg (Nat.not_lt.mpr hlap)]
      exact hone
    have hserved := acceptRequests_one k (fetchAsked (s.setChan c (s.chan c)) c n rest (fetchOf s c e r n)) _ _ _ p htodo
      hreach hawake
    rw [haddr, hacc, hserved]
    have hnot : decide (n + s.rdN E.rbLines r < s.rdN E.rbWr r) = false := decide_eq_false (Nat.not_lt.mpr hlap)
    simp only [fetchOf, hnot, Bool.false_or, List.nil_append, Nat.zero_add]
    rfl
  · have hfirst : FirstInFlight s c f fs := ⟨hissued, hothers⟩
    have hfirst' : FirstInFlight (s.setChan c (s.chan c)) c f fs := ⟨by simpa using hissued, hothers⟩
    have hothersDone {v : State} (hv : (v.chan c).issued = fs) : ∀ g ∈ (v.chan c).issued, g.todo = [] :=
      fun g hg => (hothers g (hv ▸ hg)).1
    refine ⟨fun ecc htodo hwaits hbad hecc => ⟨_, exec_feedLineReady s c ecc, ?_⟩, fun ecc htodo hwaits hbad =>
      ⟨_, exec_feedLineReady s c ecc, ?_⟩, ⟨_, exec_feedTimeout s c, ?_⟩⟩
    · rw [feedReadyAct_lands hworks hfirst htodo hwaits _ rfl, if_neg (by simp [hbad, hecc])]
      obtain ⟨hiss, hslots, hdict, hfault, hmem⟩ := landLine_leaves hfirst' false false f.data rfl
      obtain ⟨hchan, hdictp, hfaultp, hmemp⟩ := pumpFeed_done_leaves (hothersDone hiss) rfl
      refine ⟨hchan ▸ hiss, hchan ▸ hslots.trans (by simp [nowStep]), hfaultp.trans hfault, fun q i j _ => ?_, fun x => ?_⟩
      · rw [State.rd, hdictp, hdict]; rfl
      · rw [State.byte, hmemp, hmem]; rfl
    · rw [feedReadyAct_lands hworks hfirst htodo hwaits _ rfl, if_pos (by rcases hbad with h | h <;> simp [h])]
      obtain ⟨hiss, hslot, hcount, hfault⟩ := landDamaged_leaves (e := e) hfirst' rfl
      obtain ⟨hchan, hdictp, hfaultp, -⟩ := pumpFeed_done_leaves (hothersDone hiss) rfl
      exact ⟨hchan ▸ hiss, hchan ▸ hslot, by rw [State.rd, hdictp]; exact hcount, hfaultp.trans hfault⟩
    · have htime : feedTimeoutAct c s = pumpFeed ((landDamaged s c e f.job).report 0x90 2 f.addr) c := by
        unfold feedTimeoutAct
        simp only [hworks, hissued]
      rw [htime]
      obtain ⟨hiss, hslot, hcount, hfault⟩ := landDamaged_leaves (e := e) hfirst rfl
      generalize landDamaged s c e f.job = v at *
      obtain ⟨hchan, hdictp, hfaultp, -⟩ := pumpFeed_done_leaves (s := v.report 0x90 2 f.addr) (hothersDone hiss) rfl
      exact ⟨hchan ▸ hiss, hchan ▸ hslot, by rw [State.rd, hdictp]; exact hcount, by rw [hfaultp]; simp [hfault]⟩

end Sys2Proof.Machine
end

section
/-!
CERTIFICATE. The Head link's idle frames and back-channel, and the Drive link (R163, R164, R175, R193 to R198, R205, R615).
-/
namespace Sys2Proof.Machine

variable {s t u : State} {c e : Nat}

theorem exec_idleFrameHeader (s : State) (c : Ch) : exec (.idleFrameHeader c) s = .next (idleHeaderAct c s) := rfl
theorem exec_driveFrameOut (s : State) (c : Ch) : exec (.driveFrameOut c) s = .next (driveOutAct c s) := rfl
theorem exec_backchannelFrame (s : State) (c : Ch) (l : List Byte) :
    exec (.backchannelFrame c l) s = .next (backchannelAct c l s) := rfl
theorem exec_backchannelSilent (s : State) (c : Ch) : exec (.backchannelSilent c) s = .next (silentAct c s) := rfl
theorem exec_driveFrameIn (s : State) (c : Ch) (l : List Byte) (t : Nat) :
    exec (.driveFrameIn c l t) s = .next (driveInAct c l t s) := rfl
theorem exec_driveBlockLockLost (s : State) (c : Ch) :
    exec (.driveBlockLockLost c) s = .next (if s.domOn (engDom c) then rxDown s c else s) := rfl

/-! ### Frames that leave -/

/-- Settles O16: the idle header is sent, and the frame of the latest multiple of 170. -/
theorem linkFramesLeave : Obligations.LinkFramesLeave := by
  unfold Obligations.LinkFramesLeave
  refine ⟨fun c s hon hpresent hboot hsafe hleg hser => ⟨_, exec_idleFrameHeader s c, ?_⟩,
    fun c s hon hpresent hfire hprbs st bs hblocks => ?_⟩
  · have hidle : idleHeaderAct c s = sendIdle s c (reporter s c) :=
      if_neg (by simp [hon, hpresent, hboot, hsafe, hleg, hser])
    rw [hidle]
    exact ⟨by simp [sendIdle], ⟨_, _, rfl⟩, rfl, fun _ _ _ _ => rfl, fun _ => rfl⟩
  · have hout : driveOutAct c s = (s.setChan c { s.chan c with driveTx := some st }).emit (.driveFrame c bs) := by
      unfold driveOutAct
      rw [if_neg (by simp [hon, hpresent, hfire, hprbs])]
      simp only [hblocks]
    rw [exec_driveFrameOut, hout]

/-! ### The back-channel -/

/-- The engine that reports for a channel does not depend on entries but SERVED_BY. -/
theorem reporter_congr (hserved : t.rd E.servedBy c = s.rd E.servedBy c) (hpresent : t.chPresent c = s.chPresent c) :
    reporter t c = reporter s c := by
  have hserved' : t.rdN E.servedBy c = s.rdN E.servedBy c := congrArg Int.toNat hserved
  simp only [reporter, serving, hserved', hpresent]

theorem linkDownMsg_faultQ (s : State) (c : Nat) (silent : Bool) : (linkDownMsg s c silent).faultQ =
    s.faultQ ++ [⟨reporter s c, 7, c * 2 ^ 40 + flag silent 4 + (15 - (s.chan c).lanes % 16)⟩] := rfl

/-- The channel after a good back-channel frame (R205). -/
def heardChan (x : Chan) (l : List Byte) : Chan :=
  { x with
    bridgeUp := true, bridgeEver := true, lanes := byteAt l 2 / 16, lockEver := x.lockEver || byteAt l 2 / 16 == 15,
    discards := byteAt l 15, offsets := (List.range 4).map (offsetField l), bcRound := true,
    temp := signed 16 (fieldAt l 3 2), thermOk := bit (byteAt l 2) 3 }

theorem backchannelAct_good {l : List Byte} (hon : s.domOn (engDom c) = true) (hpresent : s.chPresent c = true)
    (hleg : legacy s c = false) (hlen : l.length = 40) (hcrc : crc16 ((l.drop 1).take 37) = fieldAt l 38 2)
    (hup : (s.chan c).bridgeUp = true) (v : State)
    (hv : v = (s.setChan c (heardChan (s.chan c) l)).wr E.heaterI (fieldAt l 5 2) c) :
    backchannelAct c l s = if (s.chan c).lanes &&& (15 - byteAt l 2 / 16) = 0 then v else linkDownMsg v c false := by
  subst hv
  unfold backchannelAct
  rw [if_neg (by simp [-List.drop_one, hon, hpresent, hleg, hlen, hcrc])]
  simp only [hup, if_true]
  rfl

theorem backchannelAct_bad {l : List Byte} (h : l.length ≠ 40 ∨ crc16 ((l.drop 1).take 37) ≠ fieldAt l 38 2) :
    backchannelAct c l s = s :=
  if_pos (by rcases h with h | h <;> simp [-List.drop_one, h])

/-- Settles O17: a good frame's fields, and the reports of lost lanes and of silence. -/
theorem backchannelReports : Obligations.BackchannelReports := by
  unfold Obligations.BackchannelReports
  refine ⟨fun c l s hon hpresent hleg hlen hcrc hup => ⟨_, exec_backchannelFrame s c l, ?_⟩,
    fun c l s h => by rw [exec_backchannelFrame, backchannelAct_bad h], fun c s hon hup => ⟨_, exec_backchannelSilent s c, ?_⟩⟩
  · rw [backchannelAct_good hon hpresent hleg hlen hcrc hup _ rfl]
    have hne : rowKey E.servedBy c 0 ≠ rowKey E.heaterI c 0 := by simp only [rowKey, E.servedBy, E.heaterI]; omega
    generalize hv : (s.setChan c (heardChan (s.chan c) l)).wr E.heaterI (fieldAt l 5 2) c = v
    have hchan : v.chan c = heardChan (s.chan c) l := by rw [← hv]; exact State.setChan_same s c _
    have hheat : v.rd E.heaterI c = fieldAt l 5 2 := by rw [← hv]; exact State.rd_wr_same ..
    have hrep : reporter v c = reporter s c := by
      rw [← hv]
      exact reporter_congr (State.rd_wr _ _ _ _ _ _ _ _ hne) rfl
    have hsame : SameBut s v [rowKey E.heaterI c 0] := by
      rw [← hv]
      exact SameBut.wr (t := s.setChan c (heardChan (s.chan c) l)) ⟨fun _ _ _ _ => rfl, fun _ => rfl⟩ (by simp) _
    have hfault : v.faultQ = s.faultQ := by rw [← hv]; rfl
    have hsent : v.sent = s.sent := by rw [← hv]; rfl
    have hmsg : (linkDownMsg v c false).faultQ =
        s.faultQ ++ [⟨reporter s c, 7, c.val * 2 ^ 40 + (15 - byteAt l 2 / 16 % 16)⟩] := by
      rw [linkDownMsg_faultQ, hrep, hchan, hfault]
      simp [heardChan, flag]
    by_cases hlost : (s.chan c).lanes &&& (15 - byteAt l 2 / 16) = 0
    · rw [if_pos hlost, if_pos hlost]
      exact ⟨by rw [hchan]; rfl, by rw [hchan]; rfl, by rw [hchan]; rfl, by rw [hchan]; rfl, hheat, by simp [hfault], hsent, hsame⟩
    · rw [if_neg hlost, if_neg hlost]
      have hchan' : (linkDownMsg v c false).chan c = heardChan (s.chan c) l := by simpa [linkDownMsg] using hchan
      exact ⟨by rw [hchan']; rfl, by rw [hchan']; rfl, by rw [hchan']; rfl, by rw [hchan']; rfl, hheat, hmsg, hsent, hsame⟩
  · have hsilent : silentAct c s = linkDownMsg (s.setChan c { s.chan c with bridgeUp := false, lanes := 0 }) c true :=
      if_neg (by simp [hon, hup])
    rw [hsilent]
    refine ⟨by simp [linkDownMsg], by simp [linkDownMsg], ?_, rfl, fun _ _ _ _ => rfl, fun _ => rfl⟩
    rw [linkDownMsg_faultQ, State.setChan_same]
    rfl

/-! ### The inbound Drive link -/

/-- The channel after a good inbound frame on a lane that is up (R195, R197, R198, R227). -/
def driveChan (x : Chan) (pairs : List Sample) (l : List Byte) (t : Nat) : Chan :=
  { x with
    rxGood := min 64 (x.rxGood + 1), rxUp := true, rxEver := true, supplyOk := bit (byteAt l 1) 7,
    ampOt := bit (byteAt l 1) 6, ampFault := bit (byteAt l 1) 5, ocRun := (pairs.foldl ocStep (x.ocRun, false)).1,
    supplyLow := if bit (byteAt l 1) 7 then none else some (x.supplyLow.getD t)
    supplySent := x.supplySent && !bit (byteAt l 1) 7, supplySum := x.supplySum + fieldAt l 73 2
    supplyNum := x.supplyNum + 1, samples := (pairs.reverse ++ x.samples).take 4096 }

/-- A channel with the note that the low supply has been reported set aside. -/
def Chan.supplyUnsent (x : Chan) : Chan := { x with supplySent := false }

theorem supplyCheck_chan (s : State) (c : Nat) : ((supplyCheck s c).chan c).supplyUnsent = (s.chan c).supplyUnsent := by
  unfold supplyCheck ampFaultMsg
  dsimp only
  split
  · rfl
  · split
    · simp [Chan.supplyUnsent]
    · rfl

theorem goodFrame_leaves (s : State) (c : Nat) (l : List Byte) (t : Nat) (pairs : List Sample) (hup : (s.chan c).rxUp = true)
    (hpairs : pairs = framePairs l (wrap51 ((t : Int) * 8 - s.rd E.driveRxDelay c))) (hu : u = goodFrame s c l t) :
    (u.chan c).supplyUnsent = (driveChan (s.chan c) pairs l t).supplyUnsent ∧ beyondFire u = beyondFire s := by
  have hamp (v : State) (p : Prop) [Decidable p] : ((if p then ampFaultMsg v c else v).chan c = v.chan c) ∧
      beyondFire (if p then ampFaultMsg v c else v) = beyondFire v := by
    split <;> exact ⟨rfl, rfl⟩
  generalize hw : s.setChan c (driveChan (s.chan c) pairs l t) = w
  have hgood : goodFrame s c l t = supplyCheck (if (pairs.foldl ocStep ((s.chan c).ocRun, false)).2 = true then
      ampFaultMsg (if (bit (byteAt l 1) 5 && !(s.chan c).ampFault) = true then ampFaultMsg w c else w) c
      else if (bit (byteAt l 1) 5 && !(s.chan c).ampFault) = true then ampFaultMsg w c else w) c := by
    subst hpairs hw
    unfold goodFrame
    simp only [hup, Bool.true_or, if_true, Bool.or_true, Bool.not_true, Bool.and_false, Bool.false_eq_true, if_false]
    rfl
  rw [hgood] at hu
  subst hu
  constructor
  · rw [supplyCheck_chan, (hamp _ _).1, (hamp _ _).1, ← hw, State.setChan_same]
  · rw [supplyCheck_beyondFire, (hamp _ _).2, (hamp _ _).2, ← hw, setChan_beyondFire]

theorem driveInAct_good {l f : List Byte} {st t : Nat} (hon : s.domOn (engDom c) = true) (hpresent : s.chPresent c = true)
    (hframe : driveUnframe (driveRxState (s.chan c)) l = (st, some f)) (hcrc : crc16 (f.take 72) = fieldAt f 78 2) :
    driveInAct c l t s = goodFrame (s.setChan c { s.chan c with driveRx := some st }) c f t := by
  unfold driveInAct
  rw [if_neg (by simp [hon, hpresent])]
  simp only [hframe, hcrc, if_true]

/-- A learn scan that is discarded leaves the channels' lanes and the messages (R244). -/
theorem discardLearn_leaves (s : State) (e d : Nat) (hu : u = discardLearn s e) :
    (u.chan d).rxUp = (s.chan d).rxUp ∧ u.faultQ = s.faultQ := by
  subst hu
  unfold discardLearn dropLearn
  dsimp only
  split
  · exact ⟨rfl, rfl⟩
  · split
    · exact ⟨rfl, rfl⟩
    next c _ =>
      refine ⟨?_, rfl⟩
      by_cases hd : d = c
      · subst hd; simp
      · simp [State.setChan_ne _ _ _ _ hd]

theorem rxDown_leaves (s : State) (hc : c < 96) (hu : u = rxDown s c) : (u.chan c).rxUp = false ∧
    u.faultQ = if (s.chan c).rxUp then s.faultQ ++ [⟨reporter s c, 9, c * 2 ^ 40⟩] else s.faultQ := by
  generalize hv : s.setChan c { s.chan c with rxUp := false, rxGood := 0, rxBad := [] } = v
  have hdown : (v.chan c).rxUp = false := by rw [← hv]; simp
  have hfault : v.faultQ = s.faultQ := by rw [← hv]; rfl
  have hreporter : reporter v c = reporter s c := by rw [← hv]; rfl
  have hrx : rxDown s c = if !(s.chan c).rxUp then v else
      (match serving v c with
      | none => v
      | some e => discardLearn v e).report (reporter (match serving v c with
      | none => v
      | some e => discardLearn v e) c) 9 (c * 2 ^ 40) := by
    rw [← hv]
    rfl
  rw [hrx] at hu
  by_cases hup : (s.chan c).rxUp = true
  · rw [if_neg (by simp [hup])] at hu
    rw [if_pos hup]
    subst hu
    split
    · exact ⟨by simpa using hdown, by simp [hfault, hreporter]⟩
    next e _ =>
      obtain ⟨hrxe, hfaulte⟩ := discardLearn_leaves v e c rfl
      have hkept := discardLearn_careKeeps (keys := []) v e
      have hlow : rowKey E.servedBy c 0 < 0x420000 := by simp only [rowKey, E.servedBy]; omega
      have hrepe : reporter (discardLearn v e) c = reporter s c :=
        (reporter_congr (hkept.rd _ _ _ (by simp) hlow) (hkept.present c)).trans hreporter
      exact ⟨by simpa [hrxe] using hdown, by simp [hfaulte, hfault, hrepe]⟩
  · rw [if_pos (by simpa using hup)] at hu
    rw [if_neg hup]
    subst hu
    exact ⟨hdown, hfault⟩

/-- Settles O18: the good frame's fields, and the lane that goes down. -/
theorem driveLinkInbound : Obligations.DriveLinkInbound := by
  unfold Obligations.DriveLinkInbound
  refine ⟨fun c l f st t s hon hpresent hframe hcrc hup => ⟨_, exec_driveFrameIn s c l t, ?_⟩, fun c s hon =>
    ⟨_, exec_driveBlockLockLost s c, ?_⟩⟩
  · rw [driveInAct_good hon hpresent hframe hcrc]
    obtain ⟨hchan, hbeyond⟩ := goodFrame_leaves (s.setChan c { s.chan c with driveRx := some st }) c f t _
      (by simpa using hup) rfl rfl
    rw [State.setChan_same] at hchan
    generalize goodFrame (s.setChan c { s.chan c with driveRx := some st }) c f t = v at *
    rw [setChan_beyondFire] at hbeyond
    exact ⟨(congrArg Chan.supplyOk hchan :), (congrArg Chan.ampOt hchan :), (congrArg Chan.ampFault hchan :),
      (congrArg Chan.rxUp hchan :), (congrArg Chan.driveRx hchan :), (congrArg Chan.supplySum hchan :),
      (congrArg Chan.samples hchan :), fun r i j _ => rd_of_beyondFire hbeyond r i j, fun x => (congrArg (State.byte · x) hbeyond :)⟩
  · rw [if_pos hon]
    exact rxDown_leaves s c.isLt rfl

end Sys2Proof.Machine
end

section
/-!
CERTIFICATE. Commits of the double-buffered tables: requests, folds and copies back (R134, R135, R138, R140, R141, R182).
-/
namespace Sys2Proof.Machine

variable {s t u : State} {e : Nat}

theorem exec_shapeCommit (s : State) (p : Port) (e : Eng) : exec (.shapeCommit p e) s =
    .next (writeIf s p (s.superseded (.engine e)) E.tableCommit e 0 2 (requestCommit .shape e)) := rfl
theorem exec_tileCommit (s : State) (p : Port) (e : Eng) : exec (.tileCommit p e) s =
    .next (writeIf s p (s.superseded (.engine e)) E.tableCommit e 0 4 (requestCommit .tile e)) := rfl
theorem exec_waveCommit (s : State) (p : Port) (e : Eng) : exec (.waveCommit p e) s =
    .next (writeIf s p (s.superseded (.engine e)) E.tableCommit e 0 8 (requestCommit .wave e)) := rfl
theorem exec_stitchCommit (s : State) (p : Port) (e : Eng) : exec (.stitchCommit p e) s =
    .next (writeIf s p (s.superseded (.engine e)) E.tableCommit e 0 1 (requestCommit .stitch e)) := rfl
theorem exec_foldDone (s : State) (e : Eng) : exec (.foldDone e) s = .next (foldDoneAct e s) := rfl
theorem exec_shadowSyncDone (s : State) (e : Eng) (tb : Table) :
    exec (.shadowSyncDone e tb) s = .next (syncDoneAct e tb s) := rfl

/-- A property that every step of a fold keeps holds after it. -/
theorem foldl_preserves {α : Type} {P : State → Prop} (f : State → α → State) (h : ∀ s x, P s → P (f s x)) :
    ∀ (l : List α) (s : State), P s → P (l.foldl f s)
  | [], _, hs => hs
  | x :: r, s, hs => foldl_preserves f h r _ (h s x hs)

/-! ### Requests -/

theorem requestWave_code (s : State) (e : Nat) :
    (requestWave s e).1 = if waveCheckFor s e = 0 then okCode else codeRange := by
  unfold requestWave
  dsimp only
  split <;> rfl

theorem requestWave_leaves (s : State) (e : Nat) (hu : u = (requestWave s e).2) : u.rd E.waveCheck e = waveCheckFor s e ∧
    (u.eng e).pendWave = ((s.eng e).pendWave || waveCheckFor s e == 0) ∧ u.sent = s.sent ∧
      SameBut s u [rowKey E.waveCheck e 0] := by
  have hsame : SameBut s (s.wr E.waveCheck (waveCheckFor s e) e) [rowKey E.waveCheck e 0] :=
    (SameBut.refl s _).wr (by simp) _
  have hcheck : (s.wr E.waveCheck (waveCheckFor s e) e).rd E.waveCheck e = waveCheckFor s e := State.rd_wr_same ..
  unfold requestWave at hu
  dsimp only at hu
  split at hu
  next h0 =>
    subst hu
    exact ⟨hcheck, by simp [requestPlain, EngSt.request, EngSt.setPend, h0], rfl, hsame⟩
  next h0 =>
    subst hu
    exact ⟨hcheck, by simp [h0], rfl, hsame⟩

/-! ### The fold -/

/-- A fold works on the shadows' bytes alone. -/
def foldRest (s : State) : State := { s with mem := [] }

theorem foldEntry_foldRest (set : List Nat) (c x : Nat) (a : Fold) (f : Nat) :
    foldRest (foldEntry set c x a f).st = foldRest a.st := by
  unfold foldEntry
  dsimp only
  split
  · rfl
  split
  · rfl
  have hput (b : Fold) (hb : b = (if stMode (stitchShadow a.st x f) = 2 then
      (coveredThrough (a.put x f (putBits (stitchShadow a.st x f) 47 46 0)) x f (bits (stitchShadow a.st x f) 29 16)).elim
        (a.put x f (putBits (stitchShadow a.st x f) 47 46 0)) (fun g =>
          (a.put x f (putBits (stitchShadow a.st x f) 47 46 0)).mark x g.1 g.2 true)
      else a.put x f (putBits (stitchShadow a.st x f) 47 46 0))) : foldRest b.st = foldRest a.st := by
    subst hb
    split
    · cases coveredThrough (a.put x f (putBits (stitchShadow a.st x f) 47 46 0)) x f (bits (stitchShadow a.st x f) 29 16) <;>
        rfl
    · rfl
  generalize hb : (if stMode (stitchShadow a.st x f) = 2 then
      (coveredThrough (a.put x f (putBits (stitchShadow a.st x f) 47 46 0)) x f (bits (stitchShadow a.st x f) 29 16)).elim
        (a.put x f (putBits (stitchShadow a.st x f) 47 46 0)) (fun g =>
          (a.put x f (putBits (stitchShadow a.st x f) 47 46 0)).mark x g.1 g.2 true)
      else a.put x f (putBits (stitchShadow a.st x f) 47 46 0)) = b
  have hb' := hput b hb.symm
  split
  · exact hb'
  split
  · exact hb'
  split
  · exact hb'
  · split <;> exact hb'

theorem foldl_foldRest {α : Type} (f : Fold → α → Fold) (h : ∀ a x, foldRest (f a x).st = foldRest a.st) :
    ∀ (l : List α) (a : Fold), foldRest (l.foldl f a).st = foldRest a.st
  | [], _ => rfl
  | x :: r, a => (foldl_foldRest f h r _).trans (h a x)

theorem runFold_foldRest (s : State) (g : Nat) (set : List Nat) : foldRest (runFold s g set).st = foldRest s := by
  refine foldl_foldRest _ (fun a i => ?_) _ _
  split
  · rfl
  · exact foldl_foldRest _ (fun a f => foldEntry_foldRest set _ _ a f) _ _

theorem runFold_dict (s : State) (g : Nat) (set : List Nat) : (runFold s g set).st.dict = s.dict :=
  (congrArg State.dict (runFold_foldRest s g set) :)

theorem runFold_sent (s : State) (g : Nat) (set : List Nat) : (runFold s g set).st.sent = s.sent :=
  (congrArg State.sent (runFold_foldRest s g set) :)

/-- The fold of a commit has begun on engine e of a state whose entries and outputs are those of `s`. -/
structure Folding (s : State) (e : Nat) (t : State) : Prop where
  pend : (t.eng e).pendStitch = true
  stitch : (t.eng e).stitch = .folding
  dict : t.dict = s.dict
  sent : t.sent = s.sent

theorem Folding.setEng {x : EngSt} {y : Nat} (h : Folding s e t) (hx : y = e → x.pendStitch = true ∧ x.stitch = .folding) :
    Folding s e (t.setEng y x) := by
  obtain ⟨hpend, hstitch, hdict, hsent⟩ := h
  by_cases hy : y = e
  · obtain ⟨hxp, hxs⟩ := hx hy
    subst hy
    exact ⟨by simpa using hxp, by simpa using hxs, hdict, hsent⟩
  · have hne : e ≠ y := fun h => hy h.symm
    exact ⟨by rwa [State.setEng_ne _ _ _ _ hne], by rwa [State.setEng_ne _ _ _ _ hne], hdict, hsent⟩

/-- An engine whose commit is pending keeps it so; another's is requested. -/
theorem pendStitch_requested (x : EngSt) (tick : Nat) :
    (if x.pendStitch then x else x.request .stitch tick).pendStitch = true := by
  split
  · assumption
  · rfl

theorem beginFold_folding (s : State) (e : Nat) : Folding s e (beginFold s e) := by
  unfold beginFold
  dsimp only
  refine foldl_preserves _ (fun t y ht => ?_) _ _ ?begun
  · exact ht.setEng fun hy => by
      subst hy
      exact ⟨ht.pend, ht.stitch⟩
  case begun =>
    rw [List.foldl_cons]
    refine foldl_preserves _ (fun t y ht => ht.setEng fun _ => ⟨pendStitch_requested _ _, rfl⟩) _ _ ?_
    exact ⟨by simpa using pendStitch_requested _ _, by simp, runFold_dict .., runFold_sent ..⟩

theorem requestStitch_leaves (s : State) (e : Nat) (hu : u = requestStitch s e) : (u.eng e).pendStitch = true ∧
    ((s.eng e).stitch = .syncing → (u.eng e).stitch = .syncing) ∧
    ((s.eng e).stitch = .clean ∨ (s.eng e).stitch = .dirty → (u.eng e).stitch = .folding) ∧ u.sent = s.sent ∧
    ∀ r i j, u.rd r i j = s.rd r i j := by
  subst hu
  unfold requestStitch
  dsimp only
  split
  next hbusy =>
    refine ⟨by simp [EngSt.request, EngSt.setPend], fun h => by simpa [EngSt.request, EngSt.setPend] using h, fun h => ?_, rfl,
      fun _ _ _ => rfl⟩
    rcases h with h | h <;> simp [h] at hbusy
  next hfree =>
    obtain ⟨hpend, hstitch, hdict, hsent⟩ := beginFold_folding (s.setEng e ((s.eng e).request .stitch s.tick)) e
    exact ⟨hpend, fun h => absurd (.inl h) hfree, fun _ => hstitch, hsent, fun _ _ _ => by rw [State.rd, hdict]; rfl⟩

/-! ### The end of a fold -/

theorem foldl_setEng_pairAt (k : Nat × Nat) (e : Nat) : ∀ (l : List Nat) (s : State),
    ((l.foldl (fun s y => s.setEng y { s.eng y with pairAt := some k }) s).eng e).stitch = (s.eng e).stitch
  | [], _ => rfl
  | y :: r, s => by
    refine (foldl_setEng_pairAt k e r _).trans ?_
    by_cases hy : e = y
    · subst hy; simp
    · rw [State.setEng_ne _ _ _ _ hy]

/-- What a fold's end leaves alone. -/
theorem foldl_setEng_engs (k : Nat × Nat) (l : List Nat) (s : State) :
    ({ l.foldl (fun s y => s.setEng y { s.eng y with pairAt := some k }) s with engs := [] } : State) = { s with engs := [] } :=
  foldl_keeps (fun s : State => { s with engs := [] }) (fun s y => s.setEng y { s.eng y with pairAt := some k })
    (fun _ _ => rfl) l s

theorem foldDoneAct_leaves (h : (s.eng e).stitch = .folding) (hu : u = foldDoneAct e s) :
    (u.eng e).stitch = (if (s.eng e).foldDirty then .dirty else .clean) ∧ SameBut s u [] ∧ u.faultQ = s.faultQ ∧
      u.sent = s.sent := by
  generalize hv : s.setEng e { s.eng e with stitch := if (s.eng e).foldDirty then .dirty else .clean } = v
  have hstitch : (v.eng e).stitch = (if (s.eng e).foldDirty then .dirty else .clean) := by rw [← hv]; simp
  have hsame : SameBut s v [] ∧ v.faultQ = s.faultQ ∧ v.sent = s.sent := by
    rw [← hv]
    exact ⟨⟨fun _ _ _ _ => rfl, fun _ => rfl⟩, rfl, rfl⟩
  have hfold : ∀ (k : Nat × Nat) (l : List Nat) (w : State), w = l.foldl (fun s y => s.setEng y { s.eng y with
      pairAt := some k }) v → (w.eng e).stitch = (if (s.eng e).foldDirty then .dirty else .clean) ∧ SameBut s w [] ∧
        w.faultQ = s.faultQ ∧ w.sent = s.sent := by
    intro k l w hw
    have hrest := foldl_setEng_engs k l v
    have hst := foldl_setEng_pairAt k e l v
    rw [← hw] at hrest hst
    exact ⟨hst.trans hstitch, hsame.1.trans ⟨fun r i j _ => (congrArg (State.rd · r i j) hrest :),
      fun x => (congrArg (State.byte · x) hrest :)⟩, (congrArg State.faultQ hrest :).trans hsame.2.1,
      (congrArg State.sent hrest :).trans hsame.2.2⟩
  unfold foldDoneAct at hu
  rw [if_neg (by simp [h])] at hu
  dsimp only at hu
  rw [hv] at hu
  split at hu
  · exact hu ▸ ⟨hstitch, hsame⟩
  · exact hfold _ _ u hu

/-! ### The end of a copy back -/

theorem releaseHeld_none (tb : Table) (h : (s.eng e).held = []) : releaseHeld s e tb = s.setEng e (s.eng e) := by
  have hheld : { s.eng e with held := [] } = s.eng e := by rw [← h]
  unfold releaseHeld
  simp only [h, List.filter_nil, List.foldl_nil, hheld]

theorem syncDoneAct_clean {tb : Table} (htb : tb ≠ .stitch) (hsync : (s.eng e).shadow tb = .syncing)
    (hheld : (s.eng e).held = []) : syncDoneAct e tb s = s.setEng e ((s.eng e).setShadow tb .clean) := by
  have hheld' : ((s.setEng e ((s.eng e).setShadow tb .clean)).eng e).held = [] := by
    rw [State.setEng_same]
    cases tb <;> exact hheld
  unfold syncDoneAct
  rw [if_neg (by simp [hsync])]
  simp only [releaseHeld_none tb hheld', bne_iff_ne.mpr htb, if_true, State.setEng_same]
  simp only [State.setEng, ains_ains_same]

/-- Settles O14: each commit request, the fold's end and the copy's end. -/
theorem tablesAreCommitted : Obligations.TablesAreCommitted := by
  unfold Obligations.TablesAreCommitted
  refine ⟨fun p e s => ⟨fun h => ?_, fun h => ?_, fun h => ?_, fun h _ => ?_⟩,
    fun e s h => ⟨_, exec_foldDone s e, foldDoneAct_leaves h rfl⟩,
    fun e t s ht hsync hheld => by rw [exec_shadowSyncDone, syncDoneAct_clean ht hsync hheld],
    fun e s h => ?_, fun e t s h => ?_⟩
  · exact gives_of_writeIf (exec_shapeCommit s p e) h rfl okCode_ne_laterCode fun b => ⟨b, rfl⟩
  · exact gives_of_writeIf (exec_tileCommit s p e) h rfl okCode_ne_laterCode fun b => ⟨b, rfl⟩
  · obtain ⟨hcheck, hpend, hsent, hsame⟩ := requestWave_leaves s e rfl
    have hcode : (if waveCheckFor s e = 0 then okCode else codeRange) ≠ laterCode := by
      split
      · exact okCode_ne_laterCode
      · exact codeRange_ne_laterCode
    have hact : requestCommit .wave e s = (if waveCheckFor s e = 0 then okCode else codeRange, (requestWave s e).2) :=
      Prod.ext (requestWave_code s e) rfl
    refine gives_of_writeIf (exec_waveCommit s p e) h hact hcode fun b => ?_
    exact ⟨by simpa using hcheck, by simpa using hpend, by simp [hsent], (hsame.withStale b).answer p _ _⟩
  · obtain ⟨hpend, hsync, hfold, hsent, hrd⟩ := requestStitch_leaves s e rfl
    refine gives_of_writeIf (exec_stitchCommit s p e) h rfl okCode_ne_laterCode fun b => ?_
    exact ⟨by simpa using hpend, fun hs => by simpa using hsync hs, fun hs => by simpa using hfold hs, by simp [hsent],
      fun r i j => hrd r i j⟩
  · rw [exec_foldDone, foldDoneAct, if_pos (by simpa using h)]
  · rw [exec_shadowSyncDone, syncDoneAct, if_pos (by simpa using h)]

end Sys2Proof.Machine
end

section
/-!
SUPPORT. What a copied range of the memories reads as.
-/
namespace Sys2Proof.Machine

variable {s : State}

theorem aget_of_notMem {α : Type} {d : α} {k : Nat} : ∀ {l : List (Nat × α)}, (∀ x ∈ l, x.1 ≠ k) → aget d k l = d
  | [], _ => rfl
  | (j, v) :: r, h => by
    rw [aget, if_neg (h (j, v) List.mem_cons_self)]
    exact aget_of_notMem fun x hx => h x (List.mem_cons_of_mem _ hx)

theorem aget_filter {α : Type} {d : α} {k : Nat} {p : Nat × α → Bool} (hp : ∀ v, p (k, v) = true) :
    ∀ l : List (Nat × α), aget d k (l.filter p) = aget d k l
  | [] => rfl
  | (j, v) :: r => by
    by_cases hj : j = k
    · subst hj
      simp [hp, aget]
    · rw [List.filter_cons]
      split <;> simp [aget, hj, aget_filter hp r]

/-- The value that a key has in a list does not depend on the default once the list has the key. -/
theorem aget_cons_rising {α : Type} {d : α} {k : Nat} {x : Nat × α} {l : List (Nat × α)} (h : rising (x :: l)) (hx : x.1 = k) :
    aget d k l = d :=
  aget_of_notMem fun y hy => by
    have := (List.pairwise_cons.mp h).1 y.1 (List.mem_map_of_mem hy)
    omega

theorem Memory.get_clear_in (m : List Host.Cell) {a n x : Nat} (h : a ≤ x ∧ x < a + n) : Memory.get (Memory.clear m a n) x = memDefault x :=
  aget_of_notMem fun c hc he => by
    have := (List.mem_filter.mp hc).2
    simp only [decide_eq_true_eq] at this
    omega

theorem Memory.get_clear_ne (m : List Host.Cell) {a n x : Nat} (h : x < a ∨ a + n ≤ x) :
    Memory.get (Memory.clear m a n) x = Memory.get m x :=
  aget_filter (fun v => by simp only [decide_eq_true_eq]; omega) m

/-- Cells of a range set at the places of another: a byte of the second reads the cell of its place, or as it did. -/
theorem Memory.get_foldl_set {src dst i : Nat} : ∀ (l : List Host.Cell) (k : List Host.Cell), rising l → (∀ c ∈ l, src ≤ c.1) →
    Memory.get (l.foldl (fun k c => Memory.set k (dst + (c.1 - src)) c.2) k) (dst + i) =
      aget (Memory.get k (dst + i)) (src + i) l
  | [], _, _, _ => rfl
  | c :: r, k, hl, hsrc => by
    have hc : src ≤ c.1 := hsrc c List.mem_cons_self
    rw [List.foldl_cons, Memory.get_foldl_set r _ (List.pairwise_cons.mp hl).2 fun x hx => hsrc x (List.mem_cons_of_mem _ hx)]
    by_cases hi : c.1 = src + i
    · rw [aget_cons_rising hl hi, show dst + (c.1 - src) = dst + i by omega, Memory.get_set_same]
      simp [aget, hi]
    · rw [Memory.get_set_ne _ _ (show dst + i ≠ dst + (c.1 - src) by omega)]
      simp [aget, hi]

theorem Memory.get_foldl_set_ne {src dst n x : Nat} (hx : x < dst ∨ dst + n ≤ x) : ∀ (l : List Host.Cell) (k : List Host.Cell),
    (∀ c ∈ l, c.1 < src + n) → (∀ c ∈ l, src ≤ c.1) →
      Memory.get (l.foldl (fun k c => Memory.set k (dst + (c.1 - src)) c.2) k) x = Memory.get k x
  | [], _, _, _ => rfl
  | c :: r, k, hl, hsrc => by
    have hc := hl c List.mem_cons_self
    have hs := hsrc c List.mem_cons_self
    rw [List.foldl_cons, Memory.get_foldl_set_ne hx r _ (fun y hy => hl y (List.mem_cons_of_mem _ hy))
      fun y hy => hsrc y (List.mem_cons_of_mem _ hy), Memory.get_set_ne _ _ (by omega)]

theorem Memory.get_copy {m : List Host.Cell} {src dst n i : Nat} (hm : Memory.wf m = true) (hi : i < n)
    (hd : memDefault (dst + i) = memDefault (src + i)) :
    Memory.get (Memory.copy m src dst n) (dst + i) = Memory.get m (src + i) := by
  unfold Memory.copy
  rw [Memory.get_foldl_set _ _ (rising_filter _ ((Memory.wf_iff m).mp hm).1) fun c hc =>
    (of_decide_eq_true (List.mem_filter.mp hc).2).1, Memory.get_clear_in _ (by omega), hd,
    aget_filter fun v => by simp only [decide_eq_true_eq]; omega]
  rfl

theorem Memory.get_copy_ne (m : List Host.Cell) {src dst n x : Nat} (hx : x < dst ∨ dst + n ≤ x) :
    Memory.get (Memory.copy m src dst n) x = Memory.get m x := by
  unfold Memory.copy
  rw [Memory.get_foldl_set_ne hx _ _ (fun c hc => (of_decide_eq_true (List.mem_filter.mp hc).2).2) fun c hc =>
    (of_decide_eq_true (List.mem_filter.mp hc).2).1, Memory.get_clear_ne _ hx]

theorem State.byte_copyBytes_ne (s : State) {src dst n x : Nat} (hx : x < dst ∨ dst + n ≤ x) :
    (s.copyBytes src dst n).byte x = s.byte x := Memory.get_copy_ne s.mem hx

theorem State.byte_copyBytes {src dst n i : Nat} (h : s.memWf = true) (hi : i < n)
    (hd : memDefault (dst + i) = memDefault (src + i)) : (s.copyBytes src dst n).byte (dst + i) = s.byte (src + i) :=
  Memory.get_copy h hi hd

theorem State.memWf_copyBytes (src dst n : Nat) (h : s.memWf = true) : (s.copyBytes src dst n).memWf = true :=
  Memory.wf_copy src dst n h

end Sys2Proof.Machine
end

section
/-!
CERTIFICATE. A spare takes a channel over, and its copy ends or fails (R149, R152, R155).
-/
namespace Sys2Proof.Machine

variable {s t u v : State} {c e g : Nat}

theorem exec_takeoverCommand (s : State) (p : Port) (c : Ch) : exec (.takeoverCommand p c) s =
    .next (writeIf s p (s.superseded (.engine c)) E.takeover c 0 1 (takeoverAct c)) := rfl
theorem exec_takeoverCopyDone (s : State) (g : Fin 4) (ok : Bool) : exec (.takeoverCopyDone g ok) s = .next (copyDoneAct g ok s) := rfl

/-! ### The begin of a takeover -/

/-- The entries that a takeover by spare `p` writes. -/
def takeoverKeys (c p e : Nat) : List Nat := [rowKey E.servedBy c 0, rowKey E.channel p 0, rowKey E.channel e 0]

/-- The entries of a takeover written. -/
def crossed (s : State) (c p e : Nat) : State := ((s.wr E.channel c p).wr E.servedBy p c).wr E.channel 0xFF e

theorem crossed_rd {p : Nat} (he : e < 96) (hpe : 96 ≤ p) :
    (crossed s c p e).rd E.servedBy c = p ∧ (crossed s c p e).rd E.channel p = c ∧ (crossed s c p e).rd E.channel e = 0xFF := by
  have hcp : rowKey E.channel p 0 ≠ rowKey E.channel e 0 := by simp only [rowKey, E.channel]; omega
  have hsp : rowKey E.servedBy c 0 ≠ rowKey E.channel p 0 := by simp only [rowKey, E.channel, E.servedBy]; omega
  have hse : rowKey E.servedBy c 0 ≠ rowKey E.channel e 0 := by simp only [rowKey, E.channel, E.servedBy]; omega
  refine ⟨?_, ?_, State.rd_wr_same ..⟩
  · rw [crossed, State.rd_wr _ _ _ _ _ _ _ _ hse, State.rd_wr_same]
  · rw [crossed, State.rd_wr _ _ _ _ _ _ _ _ hcp, State.rd_wr _ _ _ _ _ _ _ _ hsp.symm, State.rd_wr_same]

theorem crossed_sameBut (s : State) (c p e : Nat) : SameBut s (crossed s c p e) (takeoverKeys c p e) :=
  (((SameBut.refl s _).wr (by simp [takeoverKeys]) _).wr (by simp [takeoverKeys]) _).wr (by simp [takeoverKeys]) _

theorem startTakeover_eq (hv : v = sendBuilt s c (some (nowStep s))) (hu : u = startTakeover s c e false) :
    ∃ w n, w = crossed (v.setEng (spareOf c) { v.eng (spareOf c) with copying := some (c, e), announce := true }) c (spareOf c) e ∧
      u = w.setChan c { w.chan c with taking := n, built := none } := by
  unfold startTakeover at hu
  rw [← hv] at hu
  exact ⟨_, _, rfl, hu⟩

@[simp] theorem crossed_chan (s : State) (c p e d : Nat) : (crossed s c p e).chan d = s.chan d := rfl
@[simp] theorem crossed_eng (s : State) (c p e d : Nat) : (crossed s c p e).eng d = s.eng d := rfl
@[simp] theorem crossed_sent (s : State) (c p e : Nat) : (crossed s c p e).sent = s.sent := rfl

theorem spareOf_bounds (hc : c < 96) : 96 ≤ spareOf c ∧ spareOf c < 100 := by
  simp only [spareOf, groupOf]
  omega

theorem sendBuilt_sameBut (s : State) (c : Nat) (upTo : Option Nat) : SameBut s (sendBuilt s c upTo) [] :=
  ⟨fun r i j _ => rd_of_beyondFire (sendBuilt_beyondFire s c upTo) r i j,
    fun x => (congrArg (State.byte · x) (sendBuilt_beyondFire s c upTo) :)⟩

/-- What a takeover without a fence leaves. -/
theorem startTakeover_leaves (hc : c < 96) (he : e < 96) (hu : u = startTakeover s c e false) :
    u.rd E.servedBy c = spareOf c ∧ u.rd E.channel (spareOf c) = c ∧ u.rd E.channel e = 0xFF ∧
      (u.eng (spareOf c)).copying = some (c, e) ∧ u.eng e = s.eng e ∧ (u.chan c).built = none ∧
      (u.chan c).issued = (s.chan c).issued ∧ (u.chan c).asked = (s.chan c).asked ∧ (∃ l, u.sent = l ++ s.sent) ∧
      SameBut s u (takeoverKeys c (spareOf c) e) := by
  obtain ⟨hlow, hhigh⟩ := spareOf_bounds hc
  obtain ⟨-, hchan, hengs, -, -⟩ := sendBuilt_sends s c (some (nowStep s))
  have hsent := (sendBuilt_keeps c (some (nowStep s)) (Keeps.refl s)).sent
  have hsame := sendBuilt_sameBut s c (some (nowStep s))
  obtain ⟨x, n, hx, rfl⟩ := startTakeover_eq rfl hu
  clear hu
  generalize sendBuilt s c (some (nowStep s)) = v at *
  generalize spareOf c = p at *
  have hissued : (v.chan c).issued = (s.chan c).issued := (congrArg Chan.issued hchan :)
  have hasked : (v.chan c).asked = (s.chan c).asked := (congrArg Chan.asked hchan :)
  have heng : v.eng e = s.eng e := (congrArg (aget ({} : EngSt) e) hengs :)
  generalize hw : v.setEng p { v.eng p with copying := some (c, e), announce := true } = w at *
  have hwchan : w.chan c = v.chan c := by rw [← hw]; rfl
  have hweng : w.eng e = v.eng e := by rw [← hw]; exact State.setEng_ne v e p _ (by omega)
  have hwcopy : (w.eng p).copying = some (c, e) := by rw [← hw]; simp
  have hwsent : w.sent = v.sent := by rw [← hw]; rfl
  have hwsame : SameBut v w [] := by rw [← hw]; exact ⟨fun _ _ _ _ => rfl, fun _ => rfl⟩
  obtain ⟨hserved, hspare, hold⟩ := crossed_rd (s := w) (c := c) he hlow
  have hcross := hsame.trans (hwsame.trans (crossed_sameBut w c p e))
  subst hx
  refine ⟨hserved, hspare, hold, ?_, ?_, ?_, ?_, ?_, ?_, ?_⟩
  · simpa using hwcopy
  · simpa using hweng.trans heng
  · simp
  · simpa [hwchan] using hissued
  · simpa [hwchan] using hasked
  · simpa [hwsent] using hsent
  · exact ⟨fun r i j h => hcross.1 r i j (by simpa using h), hcross.2⟩

theorem takeoverAct_starts (hserving : serving s c = some e) (hbusy : s.busyJob = false) (he : e < 96)
    (hfree : spareFree s c = true) : takeoverAct c s = (okCode, startTakeover s c e false) := by
  unfold takeoverAct
  rw [hserving]
  simp [hbusy, he, hfree]

/-! ### A copy that fails -/

theorem leaveUnserved_leaves (hu : u = leaveUnserved s c) : u.rd E.servedBy c = 0xFF ∧ (u.chan c).unserved = true ∧
    u.engs = s.engs ∧ u.faultQ = s.faultQ ∧ SameBut s u [rowKey E.servedBy c 0] := by
  generalize hw : s.wr E.servedBy 0xFF c = w at *
  have hserved : w.rd E.servedBy c = 0xFF := by rw [← hw, State.rd_wr_same]
  have hwsame : SameBut s w [rowKey E.servedBy c 0] := hw ▸ (SameBut.refl s _).wr (by simp) _
  have hwrest : w.engs = s.engs ∧ w.faultQ = s.faultQ := by rw [← hw]; exact ⟨rfl, rfl⟩
  unfold leaveUnserved at hu
  rw [hw] at hu
  obtain ⟨-, -, hengs, hfault, -⟩ := sendBuilt_sends w c (some (nowStep w))
  have hrd : (sendBuilt w c (some (nowStep s))).rd E.servedBy c = w.rd E.servedBy c :=
    rd_of_beyondFire (sendBuilt_beyondFire w c _) ..
  have hnow : nowStep w = nowStep s := by rw [← hw]; rfl
  have hsame := sendBuilt_sameBut w c (some (nowStep s))
  rw [hnow] at hengs hfault
  generalize sendBuilt w c (some (nowStep s)) = v at *
  subst hu
  obtain ⟨hdict, hbyte⟩ := hwsame.trans hsame
  exact ⟨hrd.trans hserved, by simp, hengs.trans hwrest.1, hfault.trans hwrest.2, fun r i j h => hdict r i j (by simpa using h), hbyte⟩

theorem copyDoneAct_fails {p : Nat} (hp : p = 96 + g) (hcopy : (s.eng p).copying = some (c, e))
    (hv : v = (s.setEng p { s.eng p with copying := none, announce := false }).wr E.channel 0xFF p) :
    copyDoneAct g false s = (leaveUnserved v c).report p 8 (c * 2 ^ 40 + 2 ^ 39) := by
  subst hp hv
  unfold copyDoneAct
  dsimp only
  rw [hcopy]
  rfl

/-! ### A copy that ends -/

/-- One table of engine e copied to the active copy and the shadow of engine p. -/
def copyTable (e p : Nat) (s : State) (t : Table) : State :=
  (s.copyBytes (activeAt e t) (activeAt p t) (tableLen t)).copyBytes (activeAt e t) (shadowAt p t) (tableLen t)

theorem memDefault_table {b x : Nat} (hb : b = activeBase ∨ b = shadowBase) (he : e < 100) (hx : x < tableStep) :
    memDefault (b + e * tableStep + x) = memDefault (activeBase + x) := by
  have hmod : (b + e * tableStep + x) % tableStep = (activeBase + x) % tableStep := by
    rcases hb with rfl | rfl <;> simp only [activeBase, shadowBase, tableStep] <;> omega
  have hregion : (b + e * tableStep + x) / 2 ^ 44 = 0x9 ∨ (b + e * tableStep + x) / 2 ^ 44 = 0xB := by
    simp only [tableStep] at hx
    rcases hb with rfl | rfl <;> simp only [activeBase, shadowBase, tableStep] <;> omega
  have hregion' : (activeBase + x) / 2 ^ 44 = 0x9 ∨ (activeBase + x) / 2 ^ 44 = 0xB := by
    simp only [tableStep] at hx
    simp only [activeBase]
    omega
  simp only [memDefault, if_pos hregion, if_pos hregion', hmod]

theorem tableOfs_add_lt {t : Table} {o : Nat} (ho : o < tableLen t) : tableOfs t + o < tableStep := by
  cases t <;> simp only [tableOfs, tableLen, tableStep] at * <;> omega

theorem memDefault_activeAt {t : Table} {o : Nat} (he : e < 100) (ho : o < tableLen t) :
    memDefault (activeAt e t + o) = memDefault (activeBase + (tableOfs t + o)) := by
  rw [activeAt, Nat.add_assoc]
  exact memDefault_table (.inl rfl) he (tableOfs_add_lt ho)

theorem memDefault_shadowAt {t : Table} {o : Nat} (he : e < 100) (ho : o < tableLen t) :
    memDefault (shadowAt e t + o) = memDefault (activeBase + (tableOfs t + o)) := by
  rw [shadowAt, Nat.add_assoc]
  exact memDefault_table (.inr rfl) he (tableOfs_add_lt ho)

theorem tableOfs_end (t : Table) : tableOfs t + tableLen t ≤ tableStep := by
  cases t <;> simp [tableOfs, tableLen, tableStep]

theorem tables_apart {t t' : Table} {o : Nat} (hne : t' ≠ t) (ho : o < tableLen t') :
    tableOfs t' + o < tableOfs t ∨ tableOfs t + tableLen t ≤ tableOfs t' + o := by
  cases t <;> cases t' <;> simp [tableOfs, tableLen] at * <;> omega

/-- From s to v the tables of `done` have been copied from engine e to engine p. -/
structure Copied (e p : Nat) (s v : State) (done : List Table) : Prop where
  wf : v.memWf = true
  source : ∀ t o, o < tableLen t → v.byte (activeAt e t + o) = s.byte (activeAt e t + o)
  active : ∀ t o, t ∈ done → o < tableLen t → v.byte (activeAt p t + o) = s.byte (activeAt e t + o)
  shadow : ∀ t o, t ∈ done → o < tableLen t → v.byte (shadowAt p t + o) = s.byte (activeAt e t + o)

theorem Copied.copyTable {p : Nat} {done : List Table} (he : e < 96) (hp : 96 ≤ p) (hp' : p < 100) (h : Copied e p s v done) (t : Table) :
    Copied e p s (copyTable e p v t) (t :: done) := by
  have hwf := State.memWf_copyBytes (activeAt e t) (activeAt p t) (tableLen t) h.wf
  have hend := tableOfs_end t
  have hother (x : Nat) (hx : x < activeAt p t ∨ activeAt p t + tableLen t ≤ x) (hx' : x < shadowAt p t ∨ shadowAt p t + tableLen t ≤ x) :
      (Machine.copyTable e p v t).byte x = v.byte x :=
    (State.byte_copyBytes_ne _ hx').trans (State.byte_copyBytes_ne _ hx)
  have hsource (o : Nat) (ho : o < tableLen t) : (v.copyBytes (activeAt e t) (activeAt p t) (tableLen t)).byte (activeAt e t + o) =
      v.byte (activeAt e t + o) := State.byte_copyBytes_ne _ (by
    cases t <;> simp only [activeAt, activeBase, tableOfs, tableLen, tableStep] at * <;> omega)
  have hactive (o : Nat) (ho : o < tableLen t) : (Machine.copyTable e p v t).byte (activeAt p t + o) = s.byte (activeAt e t + o) :=
    calc (Machine.copyTable e p v t).byte (activeAt p t + o)
      _ = (v.copyBytes (activeAt e t) (activeAt p t) (tableLen t)).byte (activeAt p t + o) := State.byte_copyBytes_ne _ (by
        cases t <;> simp only [activeAt, activeBase, shadowAt, shadowBase, tableOfs, tableLen, tableStep] at * <;> omega)
      _ = v.byte (activeAt e t + o) := State.byte_copyBytes h.wf ho (by
        rw [memDefault_activeAt hp' ho, memDefault_activeAt (by omega) ho])
      _ = s.byte (activeAt e t + o) := h.source t o ho
  have hshadow (o : Nat) (ho : o < tableLen t) : (Machine.copyTable e p v t).byte (shadowAt p t + o) = s.byte (activeAt e t + o) :=
    calc (Machine.copyTable e p v t).byte (shadowAt p t + o)
      _ = (v.copyBytes (activeAt e t) (activeAt p t) (tableLen t)).byte (activeAt e t + o) := State.byte_copyBytes hwf ho (by
        rw [memDefault_shadowAt hp' ho, memDefault_activeAt (by omega) ho])
      _ = v.byte (activeAt e t + o) := hsource o ho
      _ = s.byte (activeAt e t + o) := h.source t o ho
  refine ⟨State.memWf_copyBytes _ _ _ hwf, fun t' o ho => ?_, fun t' o ht ho => ?_, fun t' o ht ho => ?_⟩
  · have hlt := tableOfs_add_lt ho
    refine (hother _ ?_ ?_).trans (h.source t' o ho) <;>
      simp only [activeAt, activeBase, shadowAt, shadowBase, tableStep] at * <;> omega
  · by_cases heq : t' = t
    · exact heq ▸ hactive o (heq ▸ ho)
    · have hmem : t' ∈ done := (List.mem_cons.mp ht).resolve_left heq
      have hapart := tables_apart heq ho
      have hlt := tableOfs_add_lt ho
      refine (hother _ ?_ ?_).trans (h.active t' o hmem ho) <;>
        simp only [activeAt, activeBase, shadowAt, shadowBase, tableStep] at * <;> omega
  · by_cases heq : t' = t
    · exact heq ▸ hshadow o (heq ▸ ho)
    · have hmem : t' ∈ done := (List.mem_cons.mp ht).resolve_left heq
      have hapart := tables_apart heq ho
      have hlt := tableOfs_add_lt ho
      refine (hother _ ?_ ?_).trans (h.shadow t' o hmem ho) <;>
        simp only [activeAt, activeBase, shadowAt, shadowBase, tableStep] at * <;> omega

/-- Every table of engine e copied to engine p. -/
theorem copied_all {p : Nat} (h : s.memWf = true) (he : e < 96) (hp : 96 ≤ p) (hp' : p < 100) :
    Copied e p s (allTables.foldl (copyTable e p) s) [.wave, .tile, .shape, .stitch] := by
  have h0 : Copied e p s s [] := ⟨h, fun _ _ _ => rfl, fun _ _ hm => by simp at hm, fun _ _ hm => by simp at hm⟩
  exact (((h0.copyTable he hp hp' .stitch).copyTable he hp hp' .shape).copyTable he hp hp' .tile).copyTable he hp hp' .wave

/-- What the end of a copy speaks of, but the memories. -/
structure CopyKeeps (c p : Nat) (s t : State) : Prop where
  engs : t.engs = s.engs
  faultQ : t.faultQ = s.faultQ
  freeAt : (t.chan c).freeAt = (s.chan c).freeAt
  now : nowStep t = nowStep s
  byte : ∀ x, t.byte x = s.byte x
  nozzles : t.rd E.nozzles p = s.rd E.nozzles p

namespace CopyKeeps

variable {p : Nat}

theorem refl (c p : Nat) (s : State) : CopyKeeps c p s s := ⟨rfl, rfl, rfl, rfl, fun _ => rfl, rfl⟩

theorem trans (h : CopyKeeps c p s t) (h' : CopyKeeps c p t u) : CopyKeeps c p s u :=
  ⟨h'.engs.trans h.engs, h'.faultQ.trans h.faultQ, h'.freeAt.trans h.freeAt, h'.now.trans h.now,
    fun x => (h'.byte x).trans (h.byte x), h'.nozzles.trans h.nozzles⟩

theorem wr (s : State) {q : Row} {x y : Nat} (hq : rowKey E.nozzles p 0 ≠ rowKey q x y) (v : Int) : CopyKeeps c p s (s.wr q v x y) :=
  ⟨rfl, rfl, rfl, rfl, fun _ => rfl, State.rd_wr _ _ _ _ _ _ _ _ hq⟩

theorem setChan (s : State) {x : Chan} (hx : x.freeAt = (s.chan c).freeAt) : CopyKeeps c p s (s.setChan c x) :=
  ⟨rfl, rfl, by simpa using hx, rfl, fun _ => rfl, rfl⟩

theorem ite {q : Prop} [Decidable q] (ht : CopyKeeps c p s t) (hu : CopyKeeps c p s u) : CopyKeeps c p s (if q then t else u) := by
  split
  · exact ht
  · exact hu

theorem foldl {α : Type} (f : State → α → State) : ∀ (l : List α) (s : State), (∀ s, ∀ x ∈ l, CopyKeeps c p s (f s x)) →
    CopyKeeps c p s (l.foldl f s)
  | [], s, _ => refl c p s
  | x :: r, s, h => (h s x List.mem_cons_self).trans (foldl f r _ fun s y hy => h s y (List.mem_cons_of_mem _ hy))

end CopyKeeps

theorem nozzles_ne_low {q : Row} {p x y : Nat} (hlow : rowKey q x y < 0x300101) : rowKey E.nozzles p 0 ≠ rowKey q x y := by
  simp only [rowKey, E.nozzles] at *
  omega

theorem ampLimits_copyKeeps (p : Nat) (hc : c < 96) (s : State) : CopyKeeps c p s (ampLimits s c) := by
  have hmin : rowKey E.nozzles p 0 ≠ rowKey E.outMin (ampLoop c) 0 := nozzles_ne_low (by simp only [rowKey, E.outMin, ampLoop]; omega)
  have hmax : rowKey E.nozzles p 0 ≠ rowKey E.outMax (ampLoop c) 0 := nozzles_ne_low (by simp only [rowKey, E.outMax, ampLoop]; omega)
  have hout : rowKey E.nozzles p 0 ≠ rowKey E.output (ampLoop c) 0 := nozzles_ne_low (by simp only [rowKey, E.output, ampLoop]; omega)
  have hgain : rowKey E.nozzles p 0 ≠ rowKey E.gain c 0 := nozzles_ne_low (by simp only [rowKey, E.gain]; omega)
  have hset (t : State) (b : Bool) (v : Int) : CopyKeeps c p t ((t.setChan c { t.chan c with ceilHit := b }).wr E.gain v c) :=
    (CopyKeeps.setChan t (x := { t.chan c with ceilHit := b }) rfl).trans (.wr _ hgain v)
  have hlimits (v w : Int) : CopyKeeps c p s ((s.wr E.outMin v (ampLoop c)).wr E.outMax w (ampLoop c)) :=
    (CopyKeeps.wr s hmin v).trans (.wr _ hmax w)
  unfold ampLimits
  split
  · exact .refl c p s
  · refine (hlimits _ _).trans (.ite ?_ (hset _ _ _))
    split
    · exact .refl ..
    · exact .ite (.refl ..) ((hset _ _ _).trans (.wr _ hout _))

/-- The tables and the health map of engine e copied to engine p. -/
def copyBlocks (s : State) (e p : Nat) : State :=
  (allTables.foldl (fun s t => copyTable e p s t) s).copyBytes (healthBase + e * tableStep) (healthBase + p * tableStep) tableStep

/-- The entries of engine e copied to engine p. -/
def copyRows (s : State) (e p : Nat) : State :=
  (List.range 9).foldl (fun s i => s.wr E.swing (s.rd E.swing e i) p i) (takeoverRows.foldl (fun s r => s.wr r (s.rd r e) p) s)

theorem copyRow_ne {r : Row} (hr : r ∈ takeoverRows.tail) (p : Nat) (hp : p < 100) : rowKey E.nozzles p 0 ≠ rowKey r p 0 := by
  have hkeys : ∀ r ∈ takeoverRows.tail, r.step = 8192 ∧ r.k0 ≠ E.nozzles.k0 ∨ 0x400000 ≤ r.k0 := by decide
  have hnozzles : E.nozzles.step = 8192 ∧ E.nozzles.k0 = 0x300101 := ⟨rfl, rfl⟩
  rcases hkeys r hr with ⟨hstep, hk⟩ | hk
  · simp only [rowKey, hstep, hnozzles.1]
    omega
  · simp only [rowKey, hnozzles]
    omega

theorem copyRows_keeps {p : Nat} (hp : p < 100) (s : State) :
    CopyKeeps c p (s.wr E.nozzles (s.rd E.nozzles e) p) (copyRows s e p) := by
  have hrows : takeoverRows = E.nozzles :: takeoverRows.tail := rfl
  have hswing (i : Nat) : rowKey E.nozzles p 0 ≠ rowKey E.swing p i := by simp only [rowKey, E.nozzles, E.swing]; omega
  rw [copyRows, hrows, List.foldl_cons]
  exact (CopyKeeps.foldl _ _ _ fun s _ hr => .wr s (copyRow_ne hr p hp) _).trans
    (CopyKeeps.foldl _ _ _ fun s i _ => .wr s (hswing i) _)

theorem copyBytes_beyondMem (s : State) (a b n : Nat) : ({ s.copyBytes a b n with mem := [] } : State) = { s with mem := [] } := rfl

theorem byte_below_health {x p : Nat} (hx : x < healthBase) :
    (s.copyBytes (healthBase + e * tableStep) (healthBase + p * tableStep) tableStep).byte x = s.byte x :=
  State.byte_copyBytes_ne _ (.inl (Nat.lt_of_lt_of_le hx (Nat.le_add_right _ _)))

theorem activeAt_lt_health {p o : Nat} {t : Table} (hp : p < 100) (ho : o < tableLen t) : activeAt p t + o < healthBase := by
  have hlt := tableOfs_add_lt ho
  simp only [activeAt, activeBase, healthBase, tableStep] at *
  omega

theorem shadowAt_lt_health {p o : Nat} {t : Table} (hp : p < 100) (ho : o < tableLen t) : shadowAt p t + o < healthBase := by
  have hlt := tableOfs_add_lt ho
  simp only [shadowAt, shadowBase, healthBase, tableStep] at *
  omega

theorem copyBlocks_leaves {p : Nat} (h : s.memWf = true) (he : e < 96) (hp : 96 ≤ p) (hp' : p < 100) (hu : u = copyBlocks s e p) :
    (∀ t o, o < tableLen t → u.byte (activeAt p t + o) = s.byte (activeAt e t + o)) ∧
      (∀ t o, o < tableLen t → u.byte (shadowAt p t + o) = s.byte (activeAt e t + o)) ∧ { u with mem := [] } = { s with mem := [] } := by
  have hrest : ({ allTables.foldl (copyTable e p) s with mem := [] } : State) = { s with mem := [] } :=
    foldl_keeps (fun s : State => { s with mem := [] }) (copyTable e p) (fun _ _ => rfl) allTables s
  obtain ⟨-, -, hactive, hshadow⟩ := copied_all h he hp hp'
  have hall (t : Table) : t ∈ [Table.wave, .tile, .shape, .stitch] := by cases t <;> simp
  unfold copyBlocks at hu
  generalize allTables.foldl (copyTable e p) s = v at *
  generalize hw : v.copyBytes (healthBase + e * tableStep) (healthBase + p * tableStep) tableStep = w at *
  have hbelow {x : Nat} (hx : x < healthBase) : w.byte x = v.byte x := by rw [← hw]; exact byte_below_health hx
  have hmem : ({ w with mem := [] } : State) = { v with mem := [] } := by
    rw [← hw, copyBytes_beyondMem]
  subst hu
  exact ⟨fun t o ho => (hbelow (activeAt_lt_health hp' ho)).trans (hactive t o (hall t) ho),
    fun t o ho => (hbelow (shadowAt_lt_health hp' ho)).trans (hshadow t o (hall t) ho), hmem.trans hrest⟩

/-- The spare at the end of its copy. -/
def copiedEng (x y : EngSt) : EngSt :=
  { x with
    stitch := .clean, shape := .clean, tile := .clean, wave := .clean, pendStitch := false, pendShape := false, pendTile := false,
    pendWave := false, foldPending := y.foldPending, swing := y.swing, divCount := y.divCount, again := y.again,
    scanFrom := y.scanFrom, copying := none }

theorem copyEngine_eq {p : Nat} (hv : v = copyRows (copyBlocks s e p) e p) :
    copyEngine s e p = v.setEng p (copiedEng (v.eng p) (v.eng e)) := by
  subst hv
  simp only [copyEngine, copyRows, copyBlocks, copyTable, copiedEng]

/-- The spare has its tables, and the channel is free from now on. -/
def copyEnd (s : State) (c p : Nat) (y : EngSt) : State :=
  let v := s.setEng p (copiedEng (s.eng p) y)
  v.setChan c { v.chan c with freeAt := nowStep v }

theorem nowStep_setEng (s : State) (e : Nat) (x : EngSt) : nowStep (s.setEng e x) = nowStep s := by
  rw [nowStep, nowStep, State.setEng_time]

/-- What the end of a copy leaves. -/
theorem copyEnd_leaves (s : State) (c p : Nat) (y : EngSt) (hu : u = copyEnd s c p y) :
    (u.eng p).copying = none ∧ (∀ t, (u.eng p).shadow t = .clean) ∧ (u.chan c).freeAt = nowStep s ∧ u.faultQ = s.faultQ ∧
      (∀ x, u.byte x = s.byte x) ∧ ∀ r i, u.rd r i = s.rd r i := by
  subst hu
  refine ⟨?_, fun t => ?_, ?_, rfl, fun _ => rfl, fun _ _ => rfl⟩
  · simp [copyEnd, copiedEng]
  · cases t <;> simp [copyEnd, copiedEng, EngSt.shadow]
  · simp [copyEnd, nowStep_setEng]

theorem copyDoneAct_ends {p : Nat} (hp : p = 96 + g) (hcopy : (s.eng p).copying = some (c, e)) (hv : v = copyEngine s e p) :
    copyDoneAct g true s = ampLimits (v.setChan c { v.chan c with freeAt := nowStep v }) c := by
  subst hp hv
  unfold copyDoneAct
  dsimp only
  rw [hcopy]
  simp only [↓reduceIte]

theorem wr_leaves (s : State) (r : Row) (x : Int) (i : Nat) : (s.wr r x i).faultQ = s.faultQ ∧ nowStep (s.wr r x i) = nowStep s ∧
    (∀ a, (s.wr r x i).byte a = s.byte a) ∧ (s.wr r x i).rd r i = x := ⟨rfl, rfl, fun _ => rfl, State.rd_wr_same ..⟩

/-- What the end of a copy leaves, of the spare, the channel and the messages. -/
theorem copyDoneAct_true_leaves {p : Nat} (hp : p = 96 + g) (hlow : 96 ≤ p) (hhigh : p < 100) (hwf : s.memWf = true)
    (hcopy : (s.eng p).copying = some (c, e)) (hc : c < 96) (he : e < 96) (hu' : u = copyDoneAct g true s) :
    (u.eng p).copying = none ∧ (∀ t, (u.eng p).shadow t = .clean) ∧
      (∀ t o, o < tableLen t → u.byte (activeAt p t + o) = s.byte (activeAt e t + o)) ∧
      (∀ t o, o < tableLen t → u.byte (shadowAt p t + o) = s.byte (activeAt e t + o)) ∧
      u.rd E.nozzles p = s.rd E.nozzles e ∧ (u.chan c).freeAt = nowStep s ∧ u.faultQ = s.faultQ := by
  generalize hb : copyBlocks s e p = b
  obtain ⟨hactive, hshadow, hrest⟩ := copyBlocks_leaves hwf he hlow hhigh hb.symm
  have hrows := copyRows_keeps (c := c) (e := e) hhigh b
  generalize hr : copyRows b e p = r at *
  have heq : copyEngine s e p = r.setEng p (copiedEng (r.eng p) (r.eng e)) := copyEngine_eq (by rw [hb, hr])
  rw [hu', copyDoneAct_ends hp hcopy heq.symm]
  have hfault : b.faultQ = s.faultQ := (congrArg State.faultQ hrest :)
  have htime : b.time = s.time := (congrArg State.time hrest :)
  have hnow : nowStep b = nowStep s := by rw [nowStep, nowStep, htime]
  have hdict : b.dict = s.dict := (congrArg State.dict hrest :)
  have hnozzles : b.rd E.nozzles e = s.rd E.nozzles e := by rw [State.rd, State.rd, hdict]
  generalize hn : b.wr E.nozzles (b.rd E.nozzles e) p = n at *
  obtain ⟨hnfault, hnnow, hnbyte, hnrd⟩ : n.faultQ = b.faultQ ∧ nowStep n = nowStep b ∧ (∀ x, n.byte x = b.byte x) ∧
      n.rd E.nozzles p = b.rd E.nozzles e := hn ▸ wr_leaves b E.nozzles _ p
  obtain ⟨hcopying, hclean, hfree, hxfault, hxbyte, hxrd⟩ := copyEnd_leaves r c p (r.eng e) rfl
  have hend : (r.setEng p (copiedEng (r.eng p) (r.eng e))).setChan c { (r.setEng p (copiedEng (r.eng p) (r.eng e))).chan c with
    freeAt := nowStep (r.setEng p (copiedEng (r.eng p) (r.eng e))) } = copyEnd r c p (r.eng e) := rfl
  rw [hend]
  generalize copyEnd r c p (r.eng e) = x at *
  have hamp := ampLimits_copyKeeps p hc x
  generalize ampLimits x c = u at *
  have heng : u.eng p = x.eng p := (congrArg (aget ({} : EngSt) p) hamp.engs :)
  have hbyte (a : Nat) : u.byte a = b.byte a := by rw [hamp.byte, hxbyte, hrows.byte, hnbyte]
  refine ⟨by rw [heng, hcopying], fun t => by rw [heng, hclean], fun t o ho => (hbyte _).trans (hactive t o ho),
    fun t o ho => (hbyte _).trans (hshadow t o ho), ?_, ?_, ?_⟩
  · rw [hamp.nozzles, hxrd, hrows.nozzles, hnrd, hnozzles]
  · rw [hamp.freeAt, hfree, hrows.now, hnnow, hnow]
  · rw [hamp.faultQ, hxfault, hrows.faultQ, hnfault, hfault]

/-- What a copy that fails leaves. -/
theorem copyDoneAct_false_leaves {p : Nat} (hp : p = 96 + g) (hcopy : (s.eng p).copying = some (c, e))
    (hu' : u = copyDoneAct g false s) :
    (u.eng p).copying = none ∧ u.rd E.servedBy c = 0xFF ∧ (u.chan c).unserved = true ∧
      u.faultQ = s.faultQ ++ [⟨p, 8, c * 2 ^ 40 + 2 ^ 39⟩] ∧ SameBut s u [rowKey E.servedBy c 0, rowKey E.channel p 0] := by
  generalize hv : (s.setEng p { s.eng p with copying := none, announce := false }).wr E.channel 0xFF p = v
  have hcopying : (v.eng p).copying = none := by rw [← hv]; simp
  have hfault : v.faultQ = s.faultQ := by rw [← hv]; rfl
  have hsamev : SameBut s v [rowKey E.channel p 0] := by
    rw [← hv]
    exact SameBut.wr (t := s.setEng p _) ⟨fun _ _ _ _ => rfl, fun _ => rfl⟩ (by simp) _
  rw [hu', copyDoneAct_fails hp hcopy hv.symm]
  obtain ⟨hserved, hunserved, hengs, hfaultw, hsame⟩ := leaveUnserved_leaves (s := v) (c := c) rfl
  generalize leaveUnserved v c = w at *
  have heng : w.eng p = v.eng p := (congrArg (aget ({} : EngSt) p) hengs :)
  refine ⟨?_, hserved, hunserved, ?_, ?_⟩
  · simpa [heng] using hcopying
  · simp [State.report, hfaultw, hfault]
  · exact ((hsamev.trans hsame).mono (by simp)).report ..

theorem takeoverMovesChannel : Obligations.TakeoverMovesChannel := by
  unfold Obligations.TakeoverMovesChannel
  refine ⟨fun p c s e h hserving hbusy he hfree => ?_,
    fun g s c e hwf hcopy hc he => ⟨_, exec_takeoverCopyDone s g true,
      copyDoneAct_true_leaves rfl (by omega) (by omega) hwf hcopy hc he rfl⟩,
    fun g s c e hcopy hc => ⟨_, exec_takeoverCopyDone s g false, copyDoneAct_false_leaves rfl hcopy rfl⟩⟩
  obtain ⟨hserved, hspare, hold, hcopying, heng, hbuilt, hissued, hasked, ⟨l, hsent⟩, hsame⟩ :=
    startTakeover_leaves c.isLt he rfl
  have hact := takeoverAct_starts hserving hbusy he hfree
  generalize startTakeover s c e false = u at *
  rw [show spareOf c.val = 96 + c.val / 24 from rfl] at *
  refine gives_of_writeIf (exec_takeoverCommand s p c) h hact okCode_ne_laterCode fun b => ?_
  refine ⟨hserved, hspare, hold, ?_, ?_, ?_, ?_, ?_, ⟨l, ?_⟩, (hsame.withStale b).answer p _ _⟩
  · simpa using hcopying
  · simpa using heng
  · simpa using hbuilt
  · simpa using hissued
  · simpa using hasked
  · simpa using hsent

end Sys2Proof.Machine
end

section
/-!
SUPPORT. The bits of a number with a field replaced.
-/
namespace Sys2Proof.Machine

variable {x v hi lo : Nat}

theorem testBit_bits (x hi lo i : Nat) : (bits x hi lo).testBit i = (decide (i < hi + 1 - lo) && x.testBit (lo + i)) := by
  rw [bits, Nat.testBit_mod_two_pow, Nat.testBit_shiftRight]

/-- A number without its bits from lo on, k of them. -/
theorem sub_and_field (x k lo : Nat) : x - (x &&& ((2 ^ k - 1) <<< lo)) = 2 ^ (lo + k) * (x / 2 ^ (lo + k)) + x % 2 ^ lo := by
  have hfield : x &&& ((2 ^ k - 1) <<< lo) = 2 ^ lo * (x / 2 ^ lo % 2 ^ k) := by
    apply Nat.eq_of_testBit_eq
    intro i
    simp only [Nat.testBit_and, Nat.testBit_shiftLeft, Nat.testBit_two_pow_sub_one, Nat.testBit_two_pow_mul,
      Nat.testBit_mod_two_pow, Nat.testBit_div_two_pow]
    by_cases hi : lo ≤ i
    · rw [show i - lo + lo = i by omega]
      simp [hi, Bool.and_comm]
    · simp [hi]
  have hlow := Nat.div_add_mod x (2 ^ lo)
  have hhigh := Nat.div_add_mod (x / 2 ^ lo) (2 ^ k)
  rw [Nat.div_div_eq_div_mul] at hhigh
  rw [hfield, Nat.pow_add, Nat.mul_assoc]
  generalize x / (2 ^ lo * 2 ^ k) = a at *
  have : 2 ^ lo * (2 ^ k * a + x / 2 ^ lo % 2 ^ k) = 2 ^ lo * (x / 2 ^ lo) := by rw [hhigh]
  rw [Nat.mul_add] at this
  omega

theorem testBit_putBits (h : lo ≤ hi) (i : Nat) :
    (putBits x hi lo v).testBit i = if lo ≤ i ∧ i ≤ hi then v.testBit (i - lo) else x.testBit i := by
  have hlt : x % 2 ^ lo < 2 ^ (lo + (hi + 1 - lo)) :=
    Nat.lt_of_lt_of_le (Nat.mod_lt _ (Nat.two_pow_pos _)) (Nat.pow_le_pow_right (by decide) (by omega))
  unfold putBits
  dsimp only
  rw [Nat.testBit_or, sub_and_field, Nat.testBit_two_pow_mul_add _ hlt, Nat.testBit_shiftLeft, Nat.testBit_mod_two_pow,
    Nat.testBit_mod_two_pow, Nat.testBit_div_two_pow, show lo + (hi + 1 - lo) = hi + 1 by omega]
  by_cases hlow : lo ≤ i
  · by_cases hhigh : i ≤ hi
    · simp [hlow, hhigh, show i < hi + 1 by omega, show ¬ i < lo by omega, show i - lo < hi + 1 - lo by omega]
    · simp [hlow, hhigh, show ¬ i < hi + 1 by omega, show ¬ i - lo < hi + 1 - lo by omega, show i - (hi + 1) + (hi + 1) = i by omega]
  · simp [hlow, show i < hi + 1 by omega, show i < lo by omega]

theorem bits_putBits_same (h : lo ≤ hi) : bits (putBits x hi lo v) hi lo = v % 2 ^ (hi + 1 - lo) := by
  apply Nat.eq_of_testBit_eq
  intro i
  rw [testBit_bits, testBit_putBits h, Nat.testBit_mod_two_pow]
  by_cases hi' : i < hi + 1 - lo
  · simp [hi', show lo + i ≤ hi by omega]
  · simp [hi']

theorem bits_putBits_apart {hi' lo' : Nat} (h : lo ≤ hi) (hapart : hi < lo' ∨ hi' < lo) :
    bits (putBits x hi lo v) hi' lo' = bits x hi' lo' := by
  apply Nat.eq_of_testBit_eq
  intro i
  rw [testBit_bits, testBit_bits, testBit_putBits h]
  by_cases hi' : i < hi' + 1 - lo'
  · rw [if_neg (by omega)]
  · simp [hi']

theorem bit_putBits_same : bit (putBits x lo lo v) lo = bit v 0 := by
  simp [bit, testBit_putBits]

theorem bits_mod (x hi lo : Nat) : bits x hi lo % 2 ^ (hi + 1 - lo) = bits x hi lo := Nat.mod_mod _ _

theorem bits_lt (x hi lo : Nat) : bits x hi lo < 2 ^ (hi + 1 - lo) := Nat.mod_lt _ (Nat.two_pow_pos _)

end Sys2Proof.Machine
end

section
/-!
CERTIFICATE. The commands of the page map (R311 to R313).
-/
namespace Sys2Proof.Machine

variable {s t u : State} {op n : Nat} {p : Port}

theorem exec_map (s : State) (p : Port) : exec (.map p) s =
    .next (writeIf s p (s.superseded noTarget) E.mapOp 0 0 1 (mapAct 1)) := rfl
theorem exec_unmap (s : State) (p : Port) : exec (.unmap p) s =
    .next (writeIf s p (s.superseded noTarget) E.mapOp 0 0 2 (mapAct 2)) := rfl
theorem exec_retire (s : State) (p : Port) : exec (.retire p) s =
    .next (writeIf s p (s.superseded noTarget) E.mapOp 0 0 3 (mapAct 3)) := rfl
theorem exec_clearPoison (s : State) (p : Port) : exec (.clearPoison p) s =
    .next (writeIf s p (s.superseded noTarget) E.mapOp 0 0 4 (mapAct 4)) := rfl

/-- An accepted write of an entry that is not stored has its effect and its answer. -/
theorem writeIf_unstored {late : Bool} {r : Row} {i j code : Nat} {v : Int} {act : State → Nat × State} (h : Accepted s p late r i j v)
    (hr : storedEntry r i = false) (ha : act s = (code, u)) (hc : code ≠ laterCode) :
    writeIf s p late r i j v act = u.answer p code := by
  rw [writeIf_of_accepted h, ha, markStale_of_not_stored s hr, reply_of_ne hc]

/-! ### An entry after a command -/

theorem pState_entryRead (s : State) (n : Nat) : pState (entryRead s n) = pageState s n := by
  unfold entryRead pageState
  split
  · exact bits_putBits_same (by decide)
  · rfl

theorem entryRead_of_state (h : pageState s n ≠ 3) : entryRead s n = pageEntry s n := by
  unfold pageState at h
  unfold entryRead
  split at h
  · exact absurd rfl h
  · rw [if_neg ‹_›]

theorem mapEffect_map (v t : Nat) : pState (mapEffect v t 1) = 1 ∧ pRank (mapEffect v t 1) = bits t 19 16 ∧
    pFrame (mapEffect v t 1) = bits t 15 5 := by
  simp only [mapEffect, ↓reduceIte, pState, pRank, pFrame]
  refine ⟨?_, ?_, ?_⟩
  · rw [bits_putBits_apart (by decide) (by decide), bits_putBits_apart (by decide) (by decide)]
    exact bits_putBits_same (by decide)
  · rw [bits_putBits_apart (by decide) (by decide), bits_putBits_same (by decide), bits_mod]
  · rw [bits_putBits_same (by decide), bits_mod]

theorem mapEffect_unmap (v t : Nat) : pState (mapEffect v t 2) = 0 := bits_putBits_same (by decide)

theorem mapEffect_retire (v t : Nat) : pState (mapEffect v t 3) = 3 ∧ pRank (mapEffect v t 3) = pRank v ∧
    pFrame (mapEffect v t 3) = pFrame v :=
  ⟨bits_putBits_same (by decide), bits_putBits_apart (by decide) (by decide), bits_putBits_apart (by decide) (by decide)⟩

theorem mapEffect_clear (v t : Nat) : pState (mapEffect v t 4) = pState v ∧ bit (mapEffect v t 4) 44 = false :=
  ⟨bits_putBits_apart (by decide) (by decide), bit_putBits_same⟩

/-! ### A command -/

/-- The page of MAP_PAGE with its new entry, MAP_RESULT 0. -/
def mapDone (s : State) (op : Nat) : State :=
  let t := s.wr E.mapResult 0
  let u := setPageEntry t (s.rdN E.mapPage) (mapEffect (entryRead s (s.rdN E.mapPage)) (s.rdN E.mapTarget) op)
  { u with memory := { u.memory with badEntries := u.memory.badEntries.filter (fun q => q != s.rdN E.mapPage) } }

theorem mapInput_rd (k : Int) : (s.wr E.mapResult k).rdN E.mapPage = s.rdN E.mapPage ∧
    (s.wr E.mapResult k).rdN E.mapTarget = s.rdN E.mapTarget := by
  simp only [State.rdN]
  rw [State.rd_wr _ _ _ _ _ _ _ _ (by decide), State.rd_wr _ _ _ _ _ _ _ _ (by decide)]
  exact ⟨rfl, rfl⟩

theorem mapAct_done (h : mapCheck s op = 0) : mapAct op s = (okCode, mapDone s op) := by
  obtain ⟨hpage, htarget⟩ := mapInput_rd (s := s) 0
  unfold mapAct
  rw [h]
  simp only [Nat.cast_zero, hpage, htarget]
  rfl

theorem mapAct_refused {k : Nat} (h : mapCheck s op = k) (hk : k ≠ 0) :
    mapAct op s = (if k = 5 then codeState else codeRange, s.wr E.mapResult k) := by
  unfold mapAct
  rw [h]
  dsimp only
  split
  · rfl
  · rfl

theorem mapDone_leaves (hn : n = s.rdN E.mapPage) (hu : u = mapDone s op) : u.rd E.mapResult = 0 ∧
    pageEntry u n = mapEffect (entryRead s n) (s.rdN E.mapTarget) op ∧ pageState u n = pState (pageEntry u n) ∧
    (∀ k, k ≠ n → pageEntry u k = pageEntry s k) ∧ u.memory.badBlocks = s.memory.badBlocks ∧ u.sent = s.sent ∧
    SameBut s u [rowKey E.mapResult 0 0] := by
  have hrd : u.rd E.mapResult = (s.wr E.mapResult 0).rd E.mapResult := hu ▸ rfl
  subst hn hu
  refine ⟨hrd.trans (State.rd_wr_same ..), aget_aput_same .., if_neg ?_, fun k hk => aget_aput_ne _ _ _ _ hk, rfl, rfl, ?_⟩
  · simp [mapDone]
  · have hsame : SameBut s (s.wr E.mapResult 0) [rowKey E.mapResult 0 0] := (SameBut.refl s _).wr (by simp) _
    exact ⟨hsame.1, hsame.2⟩

/-- A command that passes its checks, as its port sees it. -/
theorem map_gives {c : Instr} (hexec : exec c s = .next (writeIf s p (s.superseded noTarget) E.mapOp 0 0 op (mapAct op)))
    (h : Accepted s p (s.superseded noTarget) E.mapOp 0 0 op) (hcheck : mapCheck s op = 0) :
    exec c s = .next ((mapDone s op).answer p okCode) := by
  rw [hexec, writeIf_unstored h rfl (mapAct_done hcheck) okCode_ne_laterCode]

theorem mapCommandsChangePage : Obligations.MapCommandsChangePage := by
  unfold Obligations.MapCommandsChangePage
  intro p s n t hn ht
  refine ⟨fun h => ⟨fun hbusy hqueue hstate hframe hnamed hrank => ?_, fun hbusy => ?_, fun hbusy hqueue hstate => ?_⟩,
    fun h hbusy hqueue hstate => ?_, fun h hbusy hqueue hstate => ?_, fun h => ?_⟩
  · have hcheck : mapCheck s 1 = 0 := by
      simp [mapCheck, hbusy, hqueue, ← hn, ← ht, hnamed, hrank, frames, Nat.not_le.mpr hframe]
      omega
    obtain ⟨hresult, hentry, hst, hother, -, hsent, hsame⟩ := mapDone_leaves hn (op := 1) rfl
    refine ⟨_, map_gives (exec_map s p) h hcheck, ?_⟩
    generalize mapDone s 1 = u at *
    obtain ⟨hone, hpr, hpf⟩ := mapEffect_map (entryRead s n) (s.rdN E.mapTarget)
    rw [← hentry, ← ht] at *
    exact ⟨hresult, hst.trans hone, hpr, hpf, hother, by simp [hsent], hsame.answer ..⟩
  · have hcheck : mapCheck s 1 = 5 := by
      simp [mapCheck, hbusy]
    rw [exec_map, writeIf_unstored h rfl (mapAct_refused hcheck (by decide)) codeState_ne_laterCode]
    rfl
  · have hcheck : mapCheck s 1 = 1 := by
      simp [mapCheck, hbusy, hqueue, ← hn]
      omega
    rw [exec_map, writeIf_unstored h rfl (mapAct_refused hcheck (by decide)) codeRange_ne_laterCode]
    rfl
  · have hcheck : mapCheck s 2 = 0 := by
      simp [mapCheck, hbusy, hqueue, ← hn]
      omega
    obtain ⟨hresult, hentry, hst, hother, -, hsent, hsame⟩ := mapDone_leaves hn (op := 2) rfl
    refine ⟨_, map_gives (exec_unmap s p) h hcheck, ?_⟩
    generalize mapDone s 2 = u at *
    exact ⟨hresult, hst.trans (hentry ▸ mapEffect_unmap ..), hother, by simp [hsent], hsame.answer ..⟩
  · have hcheck : mapCheck s 3 = 0 := by
      simp [mapCheck, hbusy, hqueue, ← hn, hstate]
    obtain ⟨hresult, hentry, hst, hother, -, hsent, hsame⟩ := mapDone_leaves hn (op := 3) rfl
    refine ⟨_, map_gives (exec_retire s p) h hcheck, ?_⟩
    generalize mapDone s 3 = u at *
    obtain ⟨hthree, hpr, hpf⟩ := mapEffect_retire (entryRead s n) (s.rdN E.mapTarget)
    rw [← hentry, entryRead_of_state (by omega)] at *
    exact ⟨hresult, hst.trans hthree, hpr, hpf, hother, by simp [hsent], hsame.answer ..⟩
  · have hcheck : mapCheck s 4 = 0 := by simp [mapCheck]
    obtain ⟨hresult, hentry, hst, hother, hbad, hsent, hsame⟩ := mapDone_leaves hn (op := 4) rfl
    refine ⟨_, map_gives (exec_clearPoison s p) h hcheck, ?_⟩
    generalize mapDone s 4 = u at *
    obtain ⟨hpst, hbit⟩ := mapEffect_clear (entryRead s n) (s.rdN E.mapTarget)
    rw [← hentry] at hpst hbit
    exact ⟨hresult, hbit, hst.trans (hpst.trans (pState_entryRead s n)), hother, by simpa using hbad, by simp [hsent],
      hsame.answer ..⟩

end Sys2Proof.Machine
end

section
/-!
CERTIFICATE. What reads and scrubs of DRAM blocks find, spares, and MR4 (R303 to R306, R310, R314, R315, R322, R332).
-/
namespace Sys2Proof.Machine

variable {s t u : State} {rank k addr block phys : Nat} {page : Option Nat}

theorem exec_memoryReadDone (s : State) (a : Nat) (ecc mapEcc : EccResult) : exec (.memoryReadDone a ecc mapEcc) s =
    .next (memoryReadAct a ecc mapEcc s) := rfl
theorem exec_patrolScrub (s : State) (r : Rank) (f : Fin 1820) (b : Fin 8192) (ecc : EccResult) : exec (.patrolScrub r f b ecc) s =
    .next (patrolAct (2 * r.1 + r.2) f b ecc s) := rfl
theorem exec_mr4Poll (s : State) (r : Rank) (rate : Nat) (above hot : Bool) : exec (.mr4Poll r rate above hot) s =
    .next (mr4Act (2 * r.1 + r.2) rate above hot s) := rfl

/-- The rows of a rank's counts of correctable and of uncorrectable errors. -/
def ceRow (rank : Nat) : Row := if rank % 2 = 0 then E.ceCount0 else E.ceCount1
def ueRow (rank : Nat) : Row := if rank % 2 = 0 then E.ueCount0 else E.ueCount1

/-! ### The errors of a rank -/

theorem count_rd (s : State) (r : Row) (i : Nat) : (s.count r i).rd r i = min (s.rd r i + 1) (2 ^ 32 - 1) :=
  (State.rd_wr_same ..).trans (sat32_eq_min _)

theorem count_sameBut (s : State) (r : Row) (i : Nat) : SameBut s (s.count r i) [rowKey r i 0] := (SameBut.refl s _).wr (by simp) _

theorem ceLimit_count (s : State) (rank : Nat) : (s.count (ceRow rank) (rank / 2)).rdN E.ceLimit = s.rdN E.ceLimit := by
  have hkey : rowKey E.ceLimit 0 0 ≠ rowKey (ceRow rank) (rank / 2) 0 := by
    unfold ceRow
    split <;> simp only [rowKey, E.ceLimit, E.ceCount0, E.ceCount1] <;> omega
  rw [State.rdN, State.count, State.rd_wr _ _ _ _ _ _ _ _ hkey]
  rfl

/-- An error counted and reported. -/
def errorFound (s : State) (r : Row) (rank kind addr : Nat) : State := (s.count r (rank / 2)).report (rankSource rank) kind addr

theorem errorFound_leaves (r : Row) (kind : Nat) (hu : u = errorFound s r rank kind addr) :
    u.rd r (rank / 2) = min (s.rd r (rank / 2) + 1) (2 ^ 32 - 1) ∧ u.faultQ = s.faultQ ++ [⟨0x70 + rank / 2, kind, addr⟩] ∧
      u.memory = s.memory ∧ SameBut s u [rowKey r (rank / 2) 0] := by
  subst hu
  exact ⟨count_rd .., rfl, rfl, (count_sameBut ..).report ..⟩

theorem correctableRead_of_no_limit {v : State} (hlim : s.rd E.ceLimit = 0) (hv : v = errorFound s (ceRow rank) rank 1 addr) :
    correctableRead s rank addr page = v.setRank rank
      { v.rank rank with ces := v.tick :: (v.rank rank).ces.filter (fun t => decide (v.tick < t + 25000000)) } := by
  have hzero : v.rdN E.ceLimit = 0 := by
    rw [hv]
    exact (ceLimit_count s rank).trans (by rw [State.rdN, hlim]; rfl)
  subst hv
  exact if_neg fun h => h.1 hzero

/-- A correctable error that leaves its rank as it is. -/
theorem correctableRead_leaves (hlim : s.rd E.ceLimit = 0) (hu : u = correctableRead s rank addr page) :
    u.rd (ceRow rank) (rank / 2) = min (s.rd (ceRow rank) (rank / 2) + 1) (2 ^ 32 - 1) ∧
      u.faultQ = s.faultQ ++ [⟨0x70 + rank / 2, 1, addr⟩] ∧ u.memory.map = s.memory.map ∧ u.memory.badBlocks = s.memory.badBlocks ∧
      (u.rank rank).st = (s.rank rank).st ∧ SameBut s u [rowKey (ceRow rank) (rank / 2) 0] := by
  obtain ⟨hcount, hfault, hmemory, hsame⟩ := errorFound_leaves (s := s) (rank := rank) (addr := addr) (ceRow rank) 1 rfl
  rw [correctableRead_of_no_limit hlim rfl] at hu
  generalize errorFound s (ceRow rank) rank 1 addr = v at *
  have hst : (v.rank rank).st = (s.rank rank).st := by rw [State.rank, State.rank, hmemory]
  subst hu
  exact ⟨hcount, hfault, (congrArg MemSt.map hmemory :), (congrArg MemSt.badBlocks hmemory :), by simpa using hst, hsame⟩

/-- The uncorrectable reads that a rank keeps. -/
def uesAfter (s : State) (rank : Nat) : List Nat :=
  (s.tick :: (s.rank rank).ues.filter (fun t => decide (s.tick < t + 25000))).take 65

/-- The block stays uncorrectable, and the rank keeps the TICK of its read. -/
def blockLost (s : State) (rank block : Nat) : State :=
  let v := s.setRank rank { s.rank rank with ues := uesAfter s rank }
  { v with memory := { v.memory with badBlocks := block :: v.memory.badBlocks.filter (fun b => b != block) } }

theorem blockLost_leaves (hu : u = blockLost s rank block) : u.memory.badBlocks.contains block = true ∧
    u.memory.map = s.memory.map ∧ u.memory.failing = s.memory.failing ∧ (u.rank rank).st = (s.rank rank).st ∧
    u.faultQ = s.faultQ ∧ SameBut s u [] := by
  subst hu
  exact ⟨by simp [blockLost], rfl, rfl, by simp [blockLost, State.rank, State.setRank], rfl, fun _ _ _ _ => rfl, fun _ => rfl⟩

theorem uesAfter_length (h : (s.rank rank).ues.length < 64) : ¬ 64 < (uesAfter s rank).length := by
  have hle := List.length_filter_le (fun t => decide (s.tick < t + 25000)) (s.rank rank).ues
  unfold uesAfter
  rw [List.length_take, List.length_cons]
  omega

theorem uncorrectableRead_of_in_use {v : State} {p : Nat} (hst : (s.rank rank).st = 1) (hues : (s.rank rank).ues.length < 64)
    (hv : v = blockLost (errorFound s (ueRow rank) rank 2 addr) rank block) :
    uncorrectableRead s rank block addr (some p) = makeFailing v rank (some p) := by
  have hfound := errorFound_leaves (s := s) (rank := rank) (addr := addr) (ueRow rank) 2 rfl
  have hlost := blockLost_leaves (s := errorFound s (ueRow rank) rank 2 addr) (rank := rank) (block := block) rfl
  have heq : uncorrectableRead s rank block addr (some p) =
      if 64 < (uesAfter (errorFound s (ueRow rank) rank 2 addr) rank).length ∧
        ((blockLost (errorFound s (ueRow rank) rank 2 addr) rank block).rank rank).st ≠ 5 then
        loseRank ((blockLost (errorFound s (ueRow rank) rank 2 addr) rank block).setRank rank
          { (blockLost (errorFound s (ueRow rank) rank 2 addr) rank block).rank rank with ues := [] }) rank
      else if ((blockLost (errorFound s (ueRow rank) rank 2 addr) rank block).rank rank).st = 3 ∨
          ((blockLost (errorFound s (ueRow rank) rank 2 addr) rank block).rank rank).st = 4 then
        moveForward (blockLost (errorFound s (ueRow rank) rank 2 addr) rank block) p
      else makeFailing (blockLost (errorFound s (ueRow rank) rank 2 addr) rank block) rank (some p) := rfl
  obtain ⟨-, -, hmemory, -⟩ := hfound
  obtain ⟨-, -, -, hstv, -⟩ := hlost
  have hrank : (errorFound s (ueRow rank) rank 2 addr).rank rank = s.rank rank := by rw [State.rank, State.rank, hmemory]
  rw [hrank, hst] at hstv
  rw [heq, hstv, if_neg fun h => uesAfter_length (by rw [hrank]; exact hues) h.1, if_neg (by decide), hv]

theorem makeFailing_leaves (hst : (s.rank rank).st = 1) (hu : u = makeFailing s rank page) :
    u.memory.failing = s.memory.failing ++ [(rank, page)] ∧ (u.rank rank).st = 2 ∧ u.memory.map = s.memory.map ∧
      u.memory.badBlocks = s.memory.badBlocks ∧ u.faultQ = s.faultQ ∧ SameBut s u [] := by
  unfold makeFailing at hu
  rw [if_neg (by simp [hst])] at hu
  subst hu
  exact ⟨rfl, by simp [setRankState, State.rank, State.setRank], rfl, rfl, rfl, fun _ _ _ _ => rfl, fun _ => rfl⟩

/-- An uncorrectable error of a rank in use makes it failing. -/
theorem uncorrectableRead_leaves {p : Nat} (hst : (s.rank rank).st = 1) (hues : (s.rank rank).ues.length < 64)
    (hu : u = uncorrectableRead s rank block addr (some p)) :
    u.rd (ueRow rank) (rank / 2) = min (s.rd (ueRow rank) (rank / 2) + 1) (2 ^ 32 - 1) ∧
      u.faultQ = s.faultQ ++ [⟨0x70 + rank / 2, 2, addr⟩] ∧ u.memory.failing = s.memory.failing ++ [(rank, some p)] ∧
      u.memory.badBlocks.contains block = true ∧ (u.rank rank).st = 2 ∧ u.memory.map = s.memory.map ∧
      SameBut s u [rowKey (ueRow rank) (rank / 2) 0] := by
  rw [uncorrectableRead_of_in_use hst hues rfl] at hu
  obtain ⟨hcount, hfault, hmemory, hsame⟩ := errorFound_leaves (s := s) (rank := rank) (addr := addr) (ueRow rank) 2 rfl
  generalize errorFound s (ueRow rank) rank 2 addr = v at *
  obtain ⟨hbad, hmap, hfailing, hstw, hfaultw, hsamew⟩ := blockLost_leaves (s := v) (rank := rank) (block := block) rfl
  generalize blockLost v rank block = w at *
  have hrank : v.rank rank = s.rank rank := by rw [State.rank, State.rank, hmemory]
  obtain ⟨hfailing', hst', hmap', hbad', hfault', hsame'⟩ := makeFailing_leaves (by rw [hstw, hrank, hst]) hu
  rw [hmemory] at hmap hfailing
  refine ⟨?_, by rw [hfault', hfaultw, hfault], by rw [hfailing', hfailing], by rw [hbad', hbad], hst', hmap'.trans hmap,
    ((hsame.trans hsamew).trans hsame').mono (by simp)⟩
  rw [hsame'.1 _ _ _ List.not_mem_nil, hsamew.1 _ _ _ List.not_mem_nil, hcount]

/-! ### Spares -/

theorem nextPowerUp_doms (s : State) : ∃ l, nextPowerUp s = { s with doms := l } := by
  unfold nextPowerUp
  split
  · exact ⟨_, rfl⟩
  · split
    · exact ⟨_, rfl⟩
    · exact ⟨_, rfl⟩

theorem requestUp_doms (s : State) (d : Nat) : ∃ l, requestUp s d = { s with doms := l } := by
  unfold requestUp
  split
  · exact ⟨_, rfl⟩
  · obtain ⟨l, hl⟩ := nextPowerUp_doms (setWaiting s d true)
    exact ⟨l, hl⟩

theorem assignSpares_one (h : s.memory.failing = [(rank, page)]) :
    assignSpares s = assignSpare { s with memory := { s.memory with failing := [] } } (rank, page) := by
  unfold assignSpares
  rw [h, List.mergeSort_singleton]
  rfl

theorem assignSpare_none (hst : (s.rank rank).st = 2) (hfree : freeSpare s = none) :
    assignSpare s (rank, page) = s.report (rankSource rank) 4 0 := by
  simp [assignSpare, hst, hfree]

theorem freeSpare_st (h : freeSpare s = some k) : (s.rank k).st = 6 := by
  simpa using List.find?_some h

theorem nextMigration_waits {m : Migration} {r : List Migration} (hqueue : s.memory.queue = m :: r) (hbegun : m.begun = false)
    (hready : s.memory.ch4Ready = false) : nextMigration s = requestUp (setRankState s m.spare 7) 5 := by
  unfold nextMigration
  rw [hqueue]
  simp [hbegun, hready]

/-- A failing rank and its spare, before the migration. -/
def spareAssigned (s : State) (rank k : Nat) (page : Option Nat) : State :=
  setQueue (setRankState (setRankState s rank 3) k 7) (s.memory.queue ++ [⟨rank, k, page, [], false⟩])

theorem setRankState_st (s : State) (rank st : Nat) : ((setRankState s rank st).rank rank).st = st := by
  simp [setRankState]

theorem setRankState_st_ne {j : Nat} (h : j ≠ rank) (st : Nat) : (setRankState s rank st).rank j = s.rank j :=
  State.setRank_ne s j rank _ h

theorem assignSpare_eq (hst : (s.rank rank).st = 2) (hfree : freeSpare s = some k) :
    assignSpare s (rank, page) = nextMigration (spareAssigned s rank k page) := by
  unfold assignSpare
  rw [if_neg (by simp [hst]), hfree]
  rfl

theorem assignSpare_some (hst : (s.rank rank).st = 2) (hfree : freeSpare s = some k) (hqueue : s.memory.queue = [])
    (hready : s.memory.ch4Ready = false) (hu : u = assignSpare s (rank, page)) :
    (u.rank rank).st = 3 ∧ (u.rank k).st = 7 ∧ u.memory.failing = s.memory.failing ∧ u.memory.queue = [⟨rank, k, page, [], false⟩] ∧
      u.faultQ = s.faultQ := by
  have hne : rank ≠ k := fun he => by
    have := freeSpare_st hfree
    rw [← he, hst] at this
    contradiction
  rw [assignSpare_eq hst hfree] at hu
  have hq : (spareAssigned s rank k page).memory.queue = [⟨rank, k, page, [], false⟩] := congrArg (· ++ _) hqueue
  rw [nextMigration_waits hq rfl hready] at hu
  have hfailing : ((spareAssigned s rank k page).rank rank).st = 3 := by
    have hst : ((setRankState (setRankState s rank 3) k 7).rank rank).st = 3 := by rw [setRankState_st_ne hne, setRankState_st]
    exact hst
  have hrest : (spareAssigned s rank k page).memory.failing = s.memory.failing ∧ (spareAssigned s rank k page).faultQ = s.faultQ :=
    ⟨rfl, rfl⟩
  generalize spareAssigned s rank k page = v at *
  obtain ⟨l, hl⟩ := requestUp_doms (setRankState v k 7) 5
  have hk : ((setRankState v k 7).rank k).st = 7 := setRankState_st ..
  have hr : ((setRankState v k 7).rank rank).st = 3 := by rw [setRankState_st_ne hne, hfailing]
  rw [hl] at hu
  subst hu
  exact ⟨hr, hk, hrest.1, hq, hrest.2⟩

/-! ### Scrubs -/

theorem touchRank_leaves (s : State) (rank n : Nat) (write : Bool) (hu : u = touchRank s rank n write) :
    u.faultQ = s.faultQ ∧ u.memory.badBlocks = s.memory.badBlocks ∧ u.memory.map = s.memory.map ∧ SameBut s u [] ∧
      ∀ j, (u.rank j).st = (s.rank j).st := by
  subst hu
  refine ⟨rfl, rfl, rfl, ⟨fun _ _ _ _ => rfl, fun _ => rfl⟩, fun j => ?_⟩
  by_cases hj : j = rank
  · subst hj
    simp [touchRank, State.rank, State.setRank]
  · simp [touchRank, State.rank, State.setRank, aget_ains_ne _ _ _ hj]

theorem pageOfFrame_congr {j f : Nat} (h : t.memory.map = s.memory.map) : pageOfFrame t j f = pageOfFrame s j f := by
  unfold pageOfFrame pagesOn
  rw [h]

/-- The scrubber reads a block of a page. -/
theorem patrolAct_reads {f b p : Nat} {ecc : EccResult} (hperiod : s.rd E.scrubPeriod ≠ 0) (huse : rankInUse s rank = true)
    (hon : s.domOn (dramDom (rank / 2)) = true) (hf : f < s.rdN E.framesPerRank) (hpower : (s.rank rank).power < 3)
    (hpage : pageOfFrame s rank f = some p) (hv : t = touchRank s rank 256 false) : patrolAct rank f b ecc s =
      blockRead t rank (frameAt rank f + b * 256) (p * 2 ^ 21 + b * 256) (some p) ecc := by
  have hmap : pageOfFrame (touchRank s rank 256 false) rank f = some p := (pageOfFrame_congr rfl).trans hpage
  unfold patrolAct
  rw [if_neg (by simp [hperiod, huse, hon, frames, hf]), if_neg (by omega)]
  dsimp only
  rw [hmap, hv]
  rfl

theorem not_outside {a : Nat} (hon : s.domOn 3 = true) (ha : a < 2 ^ 35) : ¬ (logicalSize ≤ a ∨ s.domOn 3 = false) := by
  rintro (h | h)
  · exact Nat.not_le.mpr ha h
  · simp [hon] at h

theorem blockRead_good {ecc : EccResult} (h : s.memory.badBlocks.contains (phys / 256) = false) (hecc : ecc ≠ .uncorrectable) :
    blockRead s rank phys addr page ecc = if ecc = .corrected then correctableRead s rank addr page else s := by
  unfold blockRead
  dsimp only
  rw [if_neg (by rw [blockOf, h]; simp [hecc])]

theorem blockRead_uncorrectable : blockRead s rank phys addr page .uncorrectable = uncorrectableRead s rank (phys / 256) addr page := rfl

theorem memoryReadAct_reads {a p : Nat} {ecc : EccResult} (hon : s.domOn 3 = true) (hp : p = a / 2 ^ 21) (ha : a < 2 ^ 35)
    (hreach : reach s a = .at_ phys) : memoryReadAct a ecc .good s =
      blockRead s (pRank (pageEntry s p)) phys (a - a % 256) (some p) ecc := by
  unfold memoryReadAct
  dsimp only
  rw [if_neg (not_outside hon ha), if_neg (by decide), if_neg (by decide), hreach, hp]
  rfl

theorem memoryReadAct_badEntry {a p : Nat} {ecc : EccResult} (hon : s.domOn 3 = true) (hp : p = a / 2 ^ 21) (ha : a < 2 ^ 35)
    (hu : u = memoryReadAct a ecc .uncorrectable s) : pageState u p = 3 ∧ u.memory.map = s.memory.map ∧
      u.faultQ = s.faultQ ++ [⟨0x78, 2, p⟩] ∧ SameBut s u [] := by
  unfold memoryReadAct at hu
  dsimp only at hu
  rw [if_neg (not_outside hon ha), if_pos rfl, pageSize, ← hp] at hu
  subst hu
  exact ⟨by simp [pageState], rfl, rfl, fun _ _ _ _ => rfl, fun _ => rfl⟩

theorem mr4Act_leaves {rate : Nat} {above hot : Bool} (huse : rankInUse s rank = true) (hon : s.domOn (dramDom (rank / 2)) = true)
    (hu : u = mr4Act rank rate above hot s) : (u.rank rank).mr4 = some rate ∧ (u.rank rank).hot = above ∧
      (u.rank rank).overTemp = hot ∧ (u.rank rank).st = (s.rank rank).st ∧
      u.faultQ = (if hot then s.faultQ ++ [⟨0x70 + rank / 2, 6, 0⟩] else s.faultQ) ∧ SameBut s u [] := by
  unfold mr4Act at hu
  rw [if_neg (by simp [huse, hon])] at hu
  subst hu
  cases hot
  · exact ⟨by simp, by simp, by simp, by simp, rfl, fun _ _ _ _ => rfl, fun _ => rfl⟩
  · exact ⟨by simp, by simp, by simp, by simp, rfl, fun _ _ _ _ => rfl, fun _ => rfl⟩

theorem memoryReadsAreHandled : Obligations.MemoryReadsAreHandled := by
  unfold Obligations.MemoryReadsAreHandled
  intro s a p phys rank hon hp ha hreach hrank
  refine ⟨fun hgood hlim => ⟨_, exec_memoryReadDone .., ?_⟩, fun hst hues => ⟨_, exec_memoryReadDone .., ?_⟩, fun hfailing hst => ?_,
    ⟨_, exec_memoryReadDone .., memoryReadAct_badEntry hon hp ha rfl⟩, fun r f b hperiod huse hon' hf hpage hlim hgood => ?_,
    fun r rate above hot huse hon' => ⟨_, exec_mr4Poll .., mr4Act_leaves huse hon' rfl⟩⟩
  · rw [memoryReadAct_reads hon hp ha hreach, ← hrank, blockRead_good hgood (by decide)]
    exact correctableRead_leaves hlim rfl
  · rw [memoryReadAct_reads hon hp ha hreach, ← hrank, blockRead_uncorrectable]
    exact uncorrectableRead_leaves hst hues rfl
  · rw [assignSpares_one hfailing]
    generalize hv : ({ s with memory := { s.memory with failing := [] } } : State) = v
    obtain ⟨hranks, hq, hch, hfailed, hfault⟩ : v.memory.ranks = s.memory.ranks ∧ v.memory.queue = s.memory.queue ∧
        v.memory.ch4Ready = s.memory.ch4Ready ∧ v.memory.failing = [] ∧ v.faultQ = s.faultQ := hv ▸ ⟨rfl, rfl, rfl, rfl, rfl⟩
    have hstv (j : Nat) : v.rank j = s.rank j := by rw [State.rank, State.rank, hranks]
    have hspare : freeSpare v = freeSpare s := by simp only [freeSpare, hstv]
    refine ⟨fun hfree => ?_, fun k hfree hqueue hready => ?_⟩
    · rw [assignSpare_none (by rw [hstv, hst]) (by rw [hspare, hfree])]
      exact ⟨by rw [← hfault]; rfl, (congrArg RankSt.st (hstv rank)).trans hst, hq⟩
    · obtain ⟨hst', hk, hfail', hq', hfault'⟩ := assignSpare_some (page := some p) (by rw [hstv, hst]) (hspare.trans hfree)
        (hq.trans hqueue) (hch.trans hready) rfl
      exact ⟨hst', hk, hfail'.trans hfailed, hq', hfault'.trans hfault⟩
  · obtain ⟨hfault, hbad, hmap, hsame, hst⟩ := touchRank_leaves s (2 * r.1 + r.2) 256 false rfl
    refine ⟨fun hpower => ⟨⟨_, exec_patrolScrub .., ?_⟩, ⟨_, exec_patrolScrub .., ?_⟩⟩, fun ecc hpower => ?_⟩
    · rw [patrolAct_reads hperiod huse hon' hf hpower hpage rfl, blockRead_good (by rw [hbad]; exact hgood) (by decide)]
      exact ⟨hfault, hbad, hsame⟩
    · rw [patrolAct_reads hperiod huse hon' hf hpower hpage rfl, blockRead_good (by rw [hbad]; exact hgood) (by decide)]
      obtain ⟨-, hfault', -⟩ := correctableRead_leaves (rank := 2 * r.1 + r.2) (addr := p * 2 ^ 21 + b * 256) (page := some p)
        ((hsame.1 _ _ _ List.not_mem_nil).trans hlim) rfl
      exact hfault'.trans (by rw [hfault])
    · rw [exec_patrolScrub, patrolAct, if_neg (by simp [hperiod, huse, hon', frames, hf]), if_pos (by omega), wakeRank, if_pos hpower]

end Sys2Proof.Machine
end

section
/-!
CERTIFICATE. A migration begins, moves its pages, and ends (R316, R317, R319, R320).
-/
namespace Sys2Proof.Machine

variable {s t u v : State} {m : Migration} {rest : List Migration} {k p : Nat}

theorem exec_spareBringupDone (s : State) (a b : Bool) : exec (.spareBringupDone a b) s = .next (bringupAct a b s) := rfl
theorem exec_migPageSwitch (s : State) (l : List (Fin 8192)) : exec (.migPageSwitch l) s = .next (pageSwitchAct (l.map Fin.val) s) := rfl
theorem exec_migrationEnd (s : State) : exec .migrationEnd s = .next (migrationEndAct s) := rfl

/-! ### The page that is being copied -/

/-- An entry on its way to a spare. -/
def migratingEntry (v spare : Nat) : Nat := putBits (putBits (putBits v 47 45 2) 39 36 spare) 35 25 (pFrame v)

theorem migratingEntry_fields (v : Nat) {spare : Nat} (h : spare < 16) :
    pState (migratingEntry v spare) = 2 ∧ pDstRank (migratingEntry v spare) = spare := by
  simp only [migratingEntry, pState, pDstRank]
  refine ⟨?_, ?_⟩
  · rw [bits_putBits_apart (by decide) (by decide), bits_putBits_apart (by decide) (by decide)]
    exact bits_putBits_same (by decide)
  · rw [bits_putBits_apart (by decide) (by decide), bits_putBits_same (by decide)]
    exact Nat.mod_eq_of_lt h

theorem startPage_cons {q : Nat} {ps : List Nat} (hqueue : s.memory.queue = m :: rest) (hbegun : m.begun = true)
    (hpages : m.pages = q :: ps) : startPage s = setPageEntry s q (migratingEntry (pageEntry s q) m.spare) := by
  unfold startPage
  rw [hqueue]
  dsimp only
  rw [hbegun, hpages]
  rfl

theorem startPage_nil (hqueue : s.memory.queue = m :: rest) (hpages : m.pages = []) : startPage s = s := by
  unfold startPage
  rw [hqueue]
  dsimp only
  rw [hpages]
  split <;> trivial

theorem pageEntry_setPageEntry_same (s : State) (p v : Nat) : pageEntry (setPageEntry s p v) p = v := aget_aput_same ..
theorem pageEntry_setPageEntry_ne {j : Nat} (h : j ≠ p) (v : Nat) : pageEntry (setPageEntry s p v) j = pageEntry s j :=
  aget_aput_ne _ _ _ _ h

/-- What the begin of a page's copy leaves. -/
theorem startPage_leaves (hqueue : s.memory.queue = m :: rest) (hbegun : m.begun = true) (hspare : m.spare < 16)
    (hu : u = startPage s) : u.memory.queue = s.memory.queue ∧ u.faultQ = s.faultQ ∧ (∀ j, u.rank j = s.rank j) ∧
      u.memory.ch4Ready = s.memory.ch4Ready ∧ SameBut s u [] ∧
      (∀ q, m.pages.head? = some q → pState (pageEntry u q) = 2 ∧ pDstRank (pageEntry u q) = m.spare) ∧
      ∀ j, m.pages.head? ≠ some j → pageEntry u j = pageEntry s j := by
  rcases hpages : m.pages with _ | ⟨q, ps⟩
  · rw [startPage_nil hqueue hpages] at hu
    subst hu
    exact ⟨rfl, rfl, fun _ => rfl, rfl, SameBut.refl .., fun q hq => by simp at hq, fun _ _ => rfl⟩
  · rw [startPage_cons hqueue hbegun hpages] at hu
    subst hu
    refine ⟨rfl, rfl, fun _ => rfl, rfl, ⟨fun _ _ _ _ => rfl, fun _ => rfl⟩, fun j hj => ?_, fun j hj => ?_⟩
    · simp only [List.head?_cons, Option.some.injEq] at hj
      subst hj
      rw [pageEntry_setPageEntry_same]
      exact migratingEntry_fields _ hspare
    · exact pageEntry_setPageEntry_ne (fun h => hj (by rw [h]; rfl)) _

/-! ### The begin of a migration -/

/-- The pages of a rank, that of the first error first. -/
def migrationOrder (s : State) (m : Migration) : List Nat :=
  ((pagesOn s m.rank).map Prod.snd).filter (fun p => some p == m.first) ++
    ((pagesOn s m.rank).map Prod.snd).filter (fun p => some p != m.first)

theorem mem_migrationOrder : p ∈ migrationOrder s m ↔
    ∃ v, (p, v) ∈ s.memory.map ∧ (pState v = 1 ∨ pState v = 2) ∧ pRank v = m.rank := by
  have hpages : p ∈ (pagesOn s m.rank).map Prod.snd ↔
      ∃ v, (p, v) ∈ s.memory.map ∧ (pState v = 1 ∨ pState v = 2) ∧ pRank v = m.rank := by
    simp only [pagesOn, List.mem_map, List.mem_mergeSort, List.mem_filter, Bool.and_eq_true, Bool.or_eq_true, beq_iff_eq]
    constructor
    · rintro ⟨_, ⟨x, ⟨hx, hst, hrank⟩, rfl⟩, rfl⟩
      exact ⟨x.2, hx, hst, hrank⟩
    · rintro ⟨v, hv, hst, hrank⟩
      exact ⟨(pFrame v, p), ⟨(p, v), ⟨hv, hst, hrank⟩, rfl⟩, rfl⟩
  rw [← hpages, migrationOrder, List.mem_append, List.mem_filter, List.mem_filter]
  by_cases h : some p = m.first
  · simp [h]
  · simp [h]

theorem migrationOrder_head (hfirst : m.first = some p) (hmem : p ∈ migrationOrder s m) : (migrationOrder s m).head? = some p := by
  unfold migrationOrder at hmem ⊢
  rw [hfirst] at hmem ⊢
  generalize (pagesOn s m.rank).map Prod.snd = l at *
  have hp : p ∈ l.filter (fun q => some q == some p) := by
    rcases List.mem_append.mp hmem with h | h
    · exact h
    · simp at h
  obtain ⟨q, r, hl⟩ := List.exists_cons_of_ne_nil (List.ne_nil_of_mem hp)
  have hq : q ∈ l.filter (fun q => some q == some p) := hl ▸ List.mem_cons_self
  have heq : q = p := by simpa using (List.mem_filter.mp hq).2
  rw [hl, heq]
  rfl

/-- The failing rank and its spare at the begin of the migration. -/
def begunRanks (s : State) (m : Migration) : State :=
  ((setRankState (setRankState s m.spare 8) m.rank 4).wr E.migRank m.rank).wr E.migPagesDone 0

theorem begunRanks_leaves (hne : m.rank ≠ m.spare) (hu : u = begunRanks s m) : (u.rank m.rank).st = 4 ∧ (u.rank m.spare).st = 8 ∧
    u.rd E.migRank = m.rank ∧ u.rd E.migPagesDone = 0 ∧ u.memory.map = s.memory.map ∧ u.memory.ch4Ready = s.memory.ch4Ready ∧
    SameBut s u [rowKey E.migRank 0 0, rowKey E.migPagesDone 0 0] := by
  generalize hv : setRankState (setRankState s m.spare 8) m.rank 4 = v
  have hfail : (v.rank m.rank).st = 4 := by rw [← hv, setRankState_st]
  have hspare : (v.rank m.spare).st = 8 := by rw [← hv, setRankState_st_ne hne.symm, setRankState_st]
  have hrest : v.memory.map = s.memory.map ∧ v.memory.ch4Ready = s.memory.ch4Ready ∧ SameBut s v [] := by
    rw [← hv]
    exact ⟨rfl, rfl, fun _ _ _ _ => rfl, fun _ => rfl⟩
  unfold begunRanks at hu
  rw [hv] at hu
  subst hu
  refine ⟨hfail, hspare, ?_, State.rd_wr_same .., hrest.1, hrest.2.1, ?_⟩
  · rw [State.rd_wr _ _ _ _ _ _ _ _ (by decide), State.rd_wr_same]
  · exact (((hrest.2.2.mono (by simp)).wr (by simp) _).wr (by simp) _)

theorem nextMigration_begins (hqueue : s.memory.queue = m :: rest) (hbegun : m.begun = false) (hready : s.memory.ch4Ready = true) :
    nextMigration s = startPage (setQueue (begunRanks s m) ({ m with begun := true, pages := migrationOrder (begunRanks s m) m } :: rest)) := by
  unfold nextMigration
  rw [hqueue]
  dsimp only
  rw [if_neg (by simp [hbegun]), if_neg (by simp [hready])]
  rfl

theorem bringupAct_begins (hqueue : s.memory.queue ≠ []) (hready : s.memory.ch4Ready = false) (hon : s.domOn 5 = true)
    (hv : v = { s with memory := { s.memory with ch4Ready := true } }) : bringupAct true true s = nextMigration v := by
  have hwhole (l : List (Nat × Bool)) (hl : ∀ x ∈ l, x.2 = true) : (!l.isEmpty && l.all (fun x => !x.2)) = false := by
    rcases l with _ | ⟨x, r⟩
    · rfl
    · simp [hl x List.mem_cons_self]
  unfold bringupAct
  rw [if_neg (by simp [hqueue, hready, hon])]
  dsimp only
  rw [hwhole _ (fun x hx => by
    have := (List.mem_filter.mp hx).1
    simp only [List.mem_cons, List.not_mem_nil, or_false] at this
    rcases this with rfl | rfl <;> rfl)]
  rw [if_neg (by decide), ← hv]
  simp [trainSpare]

theorem nextMigration_begins_leaves (hqueue : s.memory.queue = m :: rest) (hbegun : m.begun = false) (hready : s.memory.ch4Ready = true)
    (hspare : m.spare < 16) (hne : m.rank ≠ m.spare) (hu : u = nextMigration s) :
    u.memory.ch4Ready = true ∧ (u.rank m.rank).st = 4 ∧ (u.rank m.spare).st = 8 ∧ u.rd E.migRank = m.rank ∧
      u.rd E.migPagesDone = 0 ∧
      (∃ ps, u.memory.queue = { m with begun := true, pages := ps } :: rest ∧
        (∀ p, p ∈ ps ↔ ∃ v, (p, v) ∈ s.memory.map ∧ (pState v = 1 ∨ pState v = 2) ∧ pRank v = m.rank) ∧
        (∀ p, m.first = some p → p ∈ ps → ps.head? = some p) ∧
        ∀ p, ps.head? = some p → pState (pageEntry u p) = 2 ∧ pDstRank (pageEntry u p) = m.spare) ∧
      SameBut s u [rowKey E.migRank 0 0, rowKey E.migPagesDone 0 0] := by
  obtain ⟨hfail, hsp, hrank, hdone, hmap, hch4, hsame⟩ := begunRanks_leaves (s := s) hne rfl
  rw [nextMigration_begins hqueue hbegun hready] at hu
  generalize begunRanks s m = v at *
  have hmem (p : Nat) := mem_migrationOrder (s := v) (m := m) (p := p)
  have hhead (p : Nat) := migrationOrder_head (s := v) (m := m) (p := p)
  rw [hmap] at hmem
  generalize migrationOrder v m = ps at *
  generalize hw : setQueue v ({ m with begun := true, pages := ps } :: rest) = w at *
  obtain ⟨hwq, hwranks, hwready, hwsame⟩ : w.memory.queue = { m with begun := true, pages := ps } :: rest ∧
      (∀ j, w.rank j = v.rank j) ∧ w.memory.ch4Ready = v.memory.ch4Ready ∧ SameBut v w [] :=
    hw ▸ ⟨rfl, fun _ => rfl, rfl, fun _ _ _ _ => rfl, fun _ => rfl⟩
  obtain ⟨hq, -, hranks, hready', hsame', hstart, -⟩ := startPage_leaves hwq rfl hspare hu
  have hall := hsame.trans (hwsame.trans hsame')
  refine ⟨by rw [hready', hwready, hch4, hready], by rw [hranks, hwranks, hfail], by rw [hranks, hwranks, hsp], ?_, ?_,
    ⟨ps, hq.trans hwq, hmem, hhead, hstart⟩, hall.mono (by simp)⟩
  · rw [hsame'.1 _ _ _ List.not_mem_nil, hwsame.1 _ _ _ List.not_mem_nil, hrank]
  · rw [hsame'.1 _ _ _ List.not_mem_nil, hwsame.1 _ _ _ List.not_mem_nil, hdone]

/-! ### A page switches -/

/-- The frame of the page copied to the spare, whose blocks are good. -/
def frameCopied (s : State) (m : Migration) (f : Nat) : State :=
  let v := (touchRank (touchRank s m.rank pageSize false) m.spare pageSize true).copyBytes (frameAt m.rank f) (frameAt m.spare f) pageSize
  { v with memory := { v.memory with
    badBlocks := v.memory.badBlocks.filter
      (fun b => decide (¬(blockOf (frameAt m.spare f) ≤ b ∧ b < blockOf (frameAt m.spare f) + 8192))) } }

theorem memDefault_frame {r f o : Nat} (hr : r < 10) (hf : f < 2048) (ho : o < 2 ^ 21) : memDefault (frameAt r f + o) = 0 := by
  have hregion : (frameAt r f + o) / 2 ^ 44 = 0 := by
    simp only [frameAt, pageSize]
    omega
  unfold memDefault
  dsimp only
  rw [hregion]
  simp

theorem touchRank_rest (s : State) (r n : Nat) (write : Bool) (hu : u = touchRank s r n write) : u.mem = s.mem ∧
    u.memory.map = s.memory.map ∧ u.faultQ = s.faultQ ∧ u.dict = s.dict := hu ▸ ⟨rfl, rfl, rfl, rfl⟩

theorem copyBytes_rest (s : State) (a b n : Nat) (hu : u = s.copyBytes a b n) : u.memory.map = s.memory.map ∧ u.faultQ = s.faultQ ∧
    ∀ r i j, u.rd r i j = s.rd r i j := hu ▸ ⟨rfl, rfl, fun _ _ _ => rfl⟩

theorem frameCopied_leaves {f : Nat} (hwf : s.memWf = true) (hr : m.rank < 10) (hsp : m.spare < 10) (hf : f < 2048)
    (hu : u = frameCopied s m f) :
    (∀ o, o < 2 ^ 21 → u.byte (frameAt m.spare f + o) = s.byte (frameAt m.rank f + o)) ∧
      (∀ x, ¬(frameAt m.spare f ≤ x ∧ x < frameAt m.spare f + 2 ^ 21) → u.byte x = s.byte x) ∧ u.memory.map = s.memory.map ∧
      u.faultQ = s.faultQ ∧ ∀ r i j, u.rd r i j = s.rd r i j := by
  obtain ⟨hmem1, hmap1, hfault1, hdict1⟩ := touchRank_rest s m.rank pageSize false rfl
  obtain ⟨hmem2, hmap2, hfault2, hdict2⟩ := touchRank_rest (touchRank s m.rank pageSize false) m.spare pageSize true rfl
  unfold frameCopied at hu
  generalize touchRank (touchRank s m.rank pageSize false) m.spare pageSize true = v at *
  have hvmem : v.mem = s.mem := hmem2.trans hmem1
  have hvdict : v.dict = s.dict := hdict2.trans hdict1
  have hvmap : v.memory.map = s.memory.map := hmap2.trans hmap1
  have hvfault : v.faultQ = s.faultQ := hfault2.trans hfault1
  have hvwf : v.memWf = s.memWf := by rw [State.memWf, State.memWf, hvmem]
  have hvbyte (x : Nat) : v.byte x = s.byte x := by rw [State.byte, State.byte, hvmem]
  have hvrd (r : Row) (i j : Nat) : v.rd r i j = s.rd r i j := by rw [State.rd, State.rd, hvdict]
  generalize hw : v.copyBytes (frameAt m.rank f) (frameAt m.spare f) pageSize = w at *
  have hwin (o : Nat) (ho : o < 2 ^ 21) : w.byte (frameAt m.spare f + o) = v.byte (frameAt m.rank f + o) :=
    hw ▸ State.byte_copyBytes (hvwf.trans hwf) ho ((memDefault_frame hsp hf ho).trans (memDefault_frame hr hf ho).symm)
  have hwout (x : Nat) (hx : ¬(frameAt m.spare f ≤ x ∧ x < frameAt m.spare f + 2 ^ 21)) : w.byte x = v.byte x :=
    hw ▸ State.byte_copyBytes_ne _ (by rw [pageSize]; omega)
  obtain ⟨hwmap, hwfault, hwrd⟩ : w.memory.map = v.memory.map ∧ w.faultQ = v.faultQ ∧ ∀ r i j, w.rd r i j = v.rd r i j :=
    copyBytes_rest v _ _ _ hw.symm
  subst hu
  exact ⟨fun o ho => (hwin o ho).trans (hvbyte _), fun x hx => (hwout x hx).trans (hvbyte x), hwmap.trans hvmap, hwfault.trans hvfault,
    fun r i j => (hwrd r i j).trans (hvrd r i j)⟩

/-- An entry that has switched to its spare. -/
def switchedEntry (v spare : Nat) : Nat := putBits (putBits (putBits v 47 45 1) 19 16 spare) 39 25 0

theorem switchedEntry_fields (v : Nat) {spare : Nat} (h : spare < 16) :
    pState (switchedEntry v spare) = 1 ∧ pRank (switchedEntry v spare) = spare ∧ pFrame (switchedEntry v spare) = pFrame v := by
  simp only [switchedEntry, pState, pRank, pFrame]
  refine ⟨?_, ?_, ?_⟩
  · rw [bits_putBits_apart (by decide) (by decide), bits_putBits_apart (by decide) (by decide)]
    exact bits_putBits_same (by decide)
  · rw [bits_putBits_apart (by decide) (by decide), bits_putBits_same (by decide)]
    exact Nat.mod_eq_of_lt h
  · rw [bits_putBits_apart (by decide) (by decide), bits_putBits_apart (by decide) (by decide), bits_putBits_apart (by decide) (by decide)]

/-- The entry switched and the page counted. -/
def pageSwitched (s : State) (p spare : Nat) : State :=
  let v := setPageEntry s p (switchedEntry (pageEntry s p) spare)
  v.wr E.migPagesDone (v.rd E.migPagesDone + 1)

theorem pageSwitchAct_eq {ps : List Nat} {f : Nat} (hqueue : s.memory.queue = m :: rest) (hbegun : m.begun = true)
    (hpages : m.pages = p :: ps) (hf : f = pFrame (pageEntry s p))
    (hgood : ∀ b ∈ s.memory.badBlocks, ¬(frameAt m.rank f / 256 ≤ b ∧ b < frameAt m.rank f / 256 + 8192)) :
    pageSwitchAct [] s = startPage (setQueue (pageSwitched (frameCopied s m f) p m.spare) ({ m with pages := ps } :: rest)) := by
  have hnone : s.memory.badBlocks.filter
      (fun b => decide (blockOf (frameAt m.rank f) ≤ b ∧ b < blockOf (frameAt m.rank f) + 8192)) = [] :=
    List.filter_eq_nil_iff.mpr fun b hb => by
      simp only [decide_eq_true_eq]
      exact hgood b hb
  subst hf
  unfold pageSwitchAct
  rw [hqueue]
  dsimp only
  rw [hbegun, hpages]
  dsimp only
  rw [hnone]
  simp only [List.map_nil, List.append_nil, List.dedup_nil, List.mergeSort_nil, List.foldl_nil]
  rfl

theorem pageSwitchAct_leaves {ps : List Nat} {f : Nat} (hqueue : s.memory.queue = m :: rest) (hr : m.rank < 10) (hsp : m.spare < 10)
    (hwf : s.memWf = true) (hbegun : m.begun = true) (hpages : m.pages = p :: ps) (hnext : ps.head? ≠ some p)
    (hf : f = pFrame (pageEntry s p))
    (hgood : ∀ b ∈ s.memory.badBlocks, ¬(frameAt m.rank f / 256 ≤ b ∧ b < frameAt m.rank f / 256 + 8192))
    (hu : u = pageSwitchAct [] s) :
    pState (pageEntry u p) = 1 ∧ pRank (pageEntry u p) = m.spare ∧ pFrame (pageEntry u p) = f ∧
      u.memory.queue = { m with pages := ps } :: rest ∧ u.rd E.migPagesDone = s.rd E.migPagesDone + 1 ∧
      (∀ o, o < 2 ^ 21 → u.byte (frameAt m.spare f + o) = s.byte (frameAt m.rank f + o)) ∧
      (∀ x, ¬(frameAt m.spare f ≤ x ∧ x < frameAt m.spare f + 2 ^ 21) → u.byte x = s.byte x) ∧ u.faultQ = s.faultQ ∧
      ∀ r i j, rowKey r i j ≠ rowKey E.migPagesDone 0 0 → u.rd r i j = s.rd r i j := by
  have hflt : f < 2048 := hf ▸ bits_lt _ 15 5
  rw [pageSwitchAct_eq hqueue hbegun hpages hf hgood] at hu
  obtain ⟨hin, hout, hmap, hfault, hrd⟩ := frameCopied_leaves hwf hr hsp hflt rfl
  generalize frameCopied s m f = v at *
  have hentry : pageEntry v p = pageEntry s p := by rw [pageEntry, pageEntry, hmap]
  generalize hw : setQueue (pageSwitched v p m.spare) ({ m with pages := ps } :: rest) = w at *
  obtain ⟨hwq, hwfault, hwbyte, hwentry, hwdone, hwrd⟩ : w.memory.queue = { m with pages := ps } :: rest ∧ w.faultQ = v.faultQ ∧
      (∀ x, w.byte x = v.byte x) ∧ pageEntry w p = switchedEntry (pageEntry v p) m.spare ∧
      w.rd E.migPagesDone = v.rd E.migPagesDone + 1 ∧
      ∀ r i j, rowKey r i j ≠ rowKey E.migPagesDone 0 0 → w.rd r i j = v.rd r i j :=
    hw ▸ ⟨rfl, rfl, fun _ => rfl, pageEntry_setPageEntry_same .., State.rd_wr_same .., fun _ _ _ h => State.rd_wr _ _ _ _ _ _ _ _ h⟩
  obtain ⟨hq, hfault', -, -, hsame, -, hother⟩ := startPage_leaves hwq hbegun (by omega : m.spare < 16) hu
  obtain ⟨hst, hrank, hframe⟩ := switchedEntry_fields (pageEntry v p) (by omega : m.spare < 16)
  have hp : pageEntry u p = switchedEntry (pageEntry v p) m.spare := (hother p hnext).trans hwentry
  refine ⟨by rw [hp, hst], by rw [hp, hrank], by rw [hp, hframe, hentry, hf], hq.trans hwq, ?_, fun o ho => ?_, fun x hx => ?_,
    by rw [hfault', hwfault, hfault], fun r i j hr => ?_⟩
  · rw [hsame.1 _ _ _ List.not_mem_nil, hwdone, hrd]
  · rw [hsame.2, hwbyte, hin o ho]
  · rw [hsame.2, hwbyte, hout x hx]
  · rw [hsame.1 _ _ _ List.not_mem_nil, hwrd r i j hr, hrd]

/-! ### The end of a migration -/

theorem tallyBurn_otp {w : Nat} (hw : bitwise w = true) (l : Nat) : ∃ o, tallyBurn s w l = { s with otp := o } := by
  unfold tallyBurn
  split
  · exact ⟨_, rfl⟩
  · have hsense : ∀ t : State, ∃ o, senseWord t w (weakOf s w) = { t with otp := o } := fun t => by
      unfold senseWord senseOf
      rw [if_pos hw]
      exact ⟨_, rfl⟩
    exact hsense _

theorem tallyRecord_otp {words : List Nat} (hw : ∀ w ∈ words, bitwise w = true) (valid fields : Nat) :
    ∃ o, tallyRecord s words valid fields = { s with otp := o } := by
  unfold tallyRecord
  split
  · exact ⟨s.otp, rfl⟩
  · exact tallyBurn_otp (hw _ (List.mem_of_find?_eq_some ‹_›)) _

theorem recordRetirement_otp (rank : Nat) (hk : k = 8 ∨ k = 9) : ∃ o, recordRetirement s rank (some k) = { s with otp := o } := by
  unfold recordRetirement
  dsimp only
  generalize rankFields rank + flag (some k).isSome 4 + flag (some k == some 9) 5 = f
  obtain ⟨o, ho⟩ := tallyRecord_otp (s := s) (words := (List.range 8).map (· + 456)) (by decide) 6 f
  rw [ho]
  obtain ⟨o', ho'⟩ := tallyRecord_otp (s := { s with otp := o }) (words := [464 + (k - 8)])
    (by rcases hk with rfl | rfl <;> decide) 4 (rankFields rank)
  exact ⟨o', ho'⟩

theorem retireRank_leaves {rank : Nat} (hk : k = 8 ∨ k = 9) (hu : u = retireRank s rank (some k)) :
    (u.rank rank).st = 5 ∧ (u.rank rank).power = 1 ∧ (∀ j, j ≠ rank → u.rank j = s.rank j) ∧
      u.faultQ = s.faultQ ++ [⟨0x70 + rank / 2, 5, 0⟩] ∧ u.memory.map = s.memory.map ∧ u.dict = s.dict := by
  unfold retireRank at hu
  generalize hv : s.setRank rank { s.rank rank with st := 5, power := 1, hot := false, overTemp := false } = v at *
  obtain ⟨hst, hpower, hother, hfault, hmap, hdict⟩ : (v.rank rank).st = 5 ∧ (v.rank rank).power = 1 ∧
      (∀ j, j ≠ rank → v.rank j = s.rank j) ∧ v.faultQ = s.faultQ ∧ v.memory.map = s.memory.map ∧ v.dict = s.dict :=
    hv ▸ ⟨by simp, by simp, fun j hj => State.setRank_ne s j rank _ hj, rfl, rfl, rfl⟩
  obtain ⟨o, ho⟩ := recordRetirement_otp (s := v) rank hk
  dsimp only at hu
  rw [ho] at hu
  subst hu
  exact ⟨hst, hpower, hother, by rw [← hfault]; rfl, hmap, hdict⟩

theorem zeroFree_leaves (rank : Nat) (hu : u = zeroFree s rank) : (∀ j, (u.rank j).st = (s.rank j).st) ∧ u.faultQ = s.faultQ ∧
    u.memory.map = s.memory.map := by
  have hstep (t : State) (f j : Nat) : (((touchRank t rank pageSize true).clearBytes (frameAt rank f) pageSize).rank j).st = (t.rank j).st := by
    obtain ⟨-, -, -, -, hst⟩ := touchRank_leaves t rank pageSize true rfl
    exact hst j
  have hranks (l : List Nat) (j : Nat) := foldl_keeps (fun t : State => (t.rank j).st)
    (fun t f => (touchRank t rank pageSize true).clearBytes (frameAt rank f) pageSize) (fun t f => hstep t f j) l s
  have hfault (l : List Nat) := foldl_keeps (fun t : State => t.faultQ)
    (fun t f => (touchRank t rank pageSize true).clearBytes (frameAt rank f) pageSize) (fun t f => rfl) l s
  have hmap (l : List Nat) := foldl_keeps (fun t : State => t.memory.map)
    (fun t f => (touchRank t rank pageSize true).clearBytes (frameAt rank f) pageSize) (fun t f => rfl) l s
  subst hu
  exact ⟨fun j => hranks _ j, hfault _, hmap _⟩

/-- The failing rank retired, its spare in use. -/
def migrationOver (s : State) (m : Migration) : State :=
  let s := zeroFree s m.spare
  let s := if (s.rank m.rank).st = 5 then s else retireRank s m.rank (some m.spare)
  let s := if (s.rank m.spare).st = 8 then setRankState s m.spare 1 else s
  s.wr E.migRank 0xFF

theorem migrationEndAct_eq (hqueue : s.memory.queue = [m]) (hbegun : m.begun = true) (hpages : m.pages = []) :
    migrationEndAct s = setQueue (migrationOver s m) [] := by
  unfold migrationEndAct
  rw [hqueue]
  dsimp only
  rw [if_neg (by simp [hbegun, hpages])]
  rfl

theorem migrationOver_leaves (hne : m.rank ≠ m.spare) (hspare : m.spare = 8 ∨ m.spare = 9) (hrank : (s.rank m.rank).st ≠ 5)
    (hst : (s.rank m.spare).st = 8) (hu : u = migrationOver s m) : (u.rank m.rank).st = 5 ∧ (u.rank m.rank).power = 1 ∧
      (u.rank m.spare).st = 1 ∧ u.rd E.migRank = 0xFF ∧ u.faultQ = s.faultQ ++ [⟨0x70 + m.rank / 2, 5, 0⟩] ∧
      u.memory.map = s.memory.map := by
  unfold migrationOver at hu
  obtain ⟨hranks, hfault, hmap⟩ := zeroFree_leaves (s := s) m.spare rfl
  generalize zeroFree s m.spare = v at *
  dsimp only at hu
  have hkept : ¬ (v.rank m.rank).st = 5 := by rw [hranks]; exact hrank
  simp only [if_neg hkept] at hu
  obtain ⟨hretired, hpower, hother, hfault', hmap', -⟩ := retireRank_leaves (s := v) (rank := m.rank) hspare rfl
  generalize retireRank v m.rank (some m.spare) = w at *
  rw [if_pos (by rw [hother _ hne.symm, hranks, hst])] at hu
  generalize hx : setRankState w m.spare 1 = x at *
  obtain ⟨hxspare, hxrank, hxfault, hxmap⟩ : (x.rank m.spare).st = 1 ∧ x.rank m.rank = w.rank m.rank ∧ x.faultQ = w.faultQ ∧
      x.memory.map = w.memory.map := hx ▸ ⟨setRankState_st .., setRankState_st_ne hne 1, rfl, rfl⟩
  subst hu
  refine ⟨(congrArg RankSt.st hxrank).trans hretired, (congrArg RankSt.power hxrank).trans hpower, hxspare, State.rd_wr_same ..,
    hxfault.trans (by rw [hfault', hfault]), hxmap.trans (hmap'.trans hmap)⟩

theorem migrationMovesPages : Obligations.MigrationMovesPages := by
  unfold Obligations.MigrationMovesPages
  intro s m rest hqueue hrank hspare hne
  have hlt : m.spare < 10 := by omega
  refine ⟨fun hbegun hready hon => ⟨_, exec_spareBringupDone .., ?_⟩,
    fun p ps f hwf hbegun hpages hnext hf hgood => ⟨_, exec_migPageSwitch .., ?_⟩,
    fun hbegun hpages hst hst' hrest => ⟨_, exec_migrationEnd .., ?_⟩⟩
  · rw [bringupAct_begins (by simp [hqueue]) hready hon rfl]
    generalize hv : ({ s with memory := { s.memory with ch4Ready := true } } : State) = v
    obtain ⟨hvq, hvready, hvmap, hvsame⟩ : v.memory.queue = s.memory.queue ∧ v.memory.ch4Ready = true ∧ v.memory.map = s.memory.map ∧
        SameBut s v [] := hv ▸ ⟨rfl, rfl, rfl, fun _ _ _ _ => rfl, fun _ => rfl⟩
    obtain ⟨hready', hfail, hsp, hmig, hdone, hpages, hsame⟩ :=
      nextMigration_begins_leaves (hvq.trans hqueue) hbegun hvready (by omega) hne rfl
    exact ⟨hready', hfail, hsp, hmig, hdone, hvmap ▸ hpages, (hvsame.trans hsame).mono (by simp)⟩
  · exact pageSwitchAct_leaves hqueue hrank hlt hwf hbegun hpages hnext hf hgood rfl
  · subst hrest
    rw [migrationEndAct_eq hqueue hbegun hpages]
    obtain ⟨hretired, hpower, hin, hmig, hfault, hmap⟩ := migrationOver_leaves hne hspare hst hst' rfl
    generalize migrationOver s m = v at *
    refine ⟨hretired, hpower, hin, rfl, hmig, ?_, fun p => congrArg (aget 0 p) hmap⟩
    rw [← hfault]
    exact List.prefix_rfl

end Sys2Proof.Machine
end

section
/-!
CERTIFICATE. A power-up of DOM_11 that still waits while the domain clears the staging SRAM is taken when the clearing ends (R47,
R338, R524).
-/
namespace Sys2Proof.Machine

theorem exec_sramClearDone (s : State) : exec .sramClearDone s = .next (sramClearAct s) := rfl

/-- DOM_11 clears its SRAM while a power-up of it waits. -/
def clearingAndWaiting : State := { Tests.up with doms := [(11, { st := 3, waiting := true })] }

/-- The waiting request makes the cleared domain power up again. -/
theorem clearingAndWaiting_powersUp : (sramClearAct clearingAndWaiting).domState 11 = 1 := by decide +kernel

/-- Refutes O27: where a power-up of DOM_11 waits while the domain clears the staging SRAM, the end of the clearing leaves the
domain powering up, not on. -/
theorem not_ranksRestAndSramGrants : ¬ Obligations.RanksRestAndSramGrants := by
  unfold Obligations.RanksRestAndSramGrants
  rintro ⟨-, -, -, hclear, -⟩
  obtain ⟨t, ht, hon, -⟩ := hclear clearingAndWaiting (by decide)
  rw [exec_sramClearDone] at ht
  obtain rfl : sramClearAct clearingAndWaiting = t := by injection ht
  rw [clearingAndWaiting_powersUp] at hon
  exact absurd hon (by decide)

end Sys2Proof.Machine
end

section
/-!
CERTIFICATE. The intake ports: address resolution, links and codewords, and the sizes of a stream (R378, R380, R384, R395, R397).
-/
namespace Sys2Proof.Machine

variable {s t u : State} {p : Nat}

theorem exec_arpRequest (s : State) (p : Fin 2) (f : Frame) (ip target : Nat) : exec (.arpRequest p f ip target) s =
    .next (arpAct p f ip target s) := rfl
theorem exec_neighbourSolicitation (s : State) (p : Fin 2) (f : Frame) (ip target : List Byte) :
    exec (.neighbourSolicitation p f ip target) s = .next (solicitAct p f ip target s) := rfl
theorem exec_linkDown (s : State) (p : Fin 2) : exec (.linkDown p) s = .next (linkDownAct p s) := rfl
theorem exec_linkUp (s : State) (p : Fin 2) (an : Bool) : exec (.linkUp p an) s = .next (linkUpAct p an s) := rfl
theorem exec_fecUncorr (s : State) (p : Fin 2) (n : Nat) : exec (.fecUncorr p n) s = .next (fecAct p n s) := rfl
theorem exec_rsEnWrite (s : State) (p : Port) (r : RingBuf) (v : Nat) : exec (.rsEnWrite p r v) s =
    .next (writeIf s p (s.superseded noTarget) E.rsEn r 0 v (rsEnAct r v)) := rfl

/-- A request that passes the checks of R378 is answered when it names the port's own address. -/
theorem arpAct_of_good {f : Frame} {ip target : Nat} (hopen : intakeOpen s p = true) (hgood : f.good = true) (hsize : sizeOk f = true)
    (hfor : frameFor s p f true = true) : arpAct p f ip target s =
      if s.rd E.ipv4Addr p ≠ 0 ∧ target = s.rdN E.ipv4Addr p then s.emit (.arpReply p f.srcMac ip (s.rdN E.macAddr p) target)
      else s := by
  unfold arpAct
  rw [if_neg (by simp [hopen]), if_neg (by simp [hgood, hsize])]
  simp [hfor]

theorem solicitAct_of_good {f : Frame} {ip target : List Byte} (hopen : intakeOpen s p = true) (hgood : f.good = true)
    (hsize : sizeOk f = true) (hfor : frameFor s p f false = true) : solicitAct p f ip target s =
      if s.bytes (ipv6At p) 16 ≠ List.replicate 16 0 ∧ target = s.bytes (ipv6At p) 16 then
        s.emit (.neighbourAdvert p f.srcMac ip (s.rdN E.macAddr p) target)
      else s := by
  unfold solicitAct
  dsimp only
  rw [if_neg (by simp [hopen]), if_neg (by simp [hgood, hsize])]
  by_cases htarget : target = s.bytes (ipv6At p) 16
  · subst htarget
    simp [hfor, noAddress]
  · simp [hfor, htarget]

theorem linkDownAct_leaves (hon : s.domOn 2 = true) (hup : (s.port p).linkUp = true) (hu : u = linkDownAct p s) :
    (u.port p).linkUp = false ∧ u.faultQ = s.faultQ ++ [⟨0xA0 + p, 1, 0⟩] ∧ u.sent = s.sent ∧ SameBut s u [] := by
  unfold linkDownAct at hu
  rw [if_pos ⟨hon, hup⟩] at hu
  subst hu
  exact ⟨by simp, rfl, rfl, fun _ _ _ _ => rfl, fun _ => rfl⟩

theorem linkUpAct_leaves {an : Bool} (hon : s.domOn 2 = true) (hen : s.rd E.portEn p = 1) (hreset : unitInReset s (0xA0 + p) = false)
    (hu : u = linkUpAct p an s) : (u.port p).linkUp = true ∧ (u.port p).anDone = (an && s.finup) ∧ u.faultQ = s.faultQ ∧
      u.sent = s.sent ∧ SameBut s u [] := by
  unfold linkUpAct at hu
  rw [if_pos ⟨hon, hen, by simp [hreset]⟩] at hu
  subst hu
  exact ⟨by simp, by simp, rfl, rfl, fun _ _ _ _ => rfl, fun _ => rfl⟩

theorem fecAct_leaves {n : Nat} (hon : s.domOn 2 = true) (hen : s.rd E.portEn p = 1) (hfinup : s.finup = false) (hu : u = fecAct p n s) :
    u.rd E.fecUncorrCnt p = min (s.rd E.fecUncorrCnt p + n) (2 ^ 32 - 1) ∧
      u.faultQ = (if 16 < n then s.faultQ ++ [⟨0xA0 + p, 2, 0⟩] else s.faultQ) ∧ SameBut s u [rowKey E.fecUncorrCnt p 0] := by
  have hsame : SameBut s (s.count E.fecUncorrCnt p n) [rowKey E.fecUncorrCnt p 0] := (SameBut.refl s _).wr (by simp) _
  have hrd : (s.count E.fecUncorrCnt p n).rd E.fecUncorrCnt p = min (s.rd E.fecUncorrCnt p + n) (2 ^ 32 - 1) :=
    (State.rd_wr_same ..).trans (sat32_eq_min _)
  have hfault : (s.count E.fecUncorrCnt p n).faultQ = s.faultQ := rfl
  unfold fecAct at hu
  rw [if_neg (by simp [hon, hen, hfinup])] at hu
  dsimp only at hu
  generalize s.count E.fecUncorrCnt p n = v at *
  rw [hu, ← hfault]
  split
  · exact ⟨hrd, rfl, hsame.report ..⟩
  · exact ⟨hrd, rfl, hsame⟩

/-- The sizes that R384 asks of a stream. -/
def streamFits (s : State) (r : Nat) : Prop :=
  s.rdN E.rsSegBytes r % 64 = 0 ∧ 64 ≤ s.rdN E.rsSegBytes r ∧ s.rdN E.rsSegBytes r ≤ 9088 ∧ 0 < s.rdN E.rsLineBytes r ∧
    s.rdN E.rsLineBytes r ≤ s.rdN E.rbStride r ∧ s.rdN E.rsLineBytes r ≤ 256 * s.rdN E.rsSegBytes r ∧
    s.rdN E.rsWindow ≤ s.rdN E.rbLines r

theorem rsEnAct_fits {r : Nat} (h : streamFits s r) (hen : s.rd E.rsEn r ≠ 1) :
    rsEnAct r 1 s = (okCode, (s.setStream r {}).wr E.rsEn 1 r) := by
  obtain ⟨hmod, hlow, hhigh, hpos, hstride, hsegs, hwindow⟩ := h
  unfold rsEnAct
  dsimp only
  rw [if_neg (by omega), Nat.cast_one, if_neg hen]

theorem rsEnAct_refuses {r : Nat} (h : s.rdN E.rsLineBytes r = 0 ∨ s.rdN E.rbStride r < s.rdN E.rsLineBytes r ∨
    s.rdN E.rsSegBytes r % 64 ≠ 0) : rsEnAct r 1 s = (codeRange, s) := by
  unfold rsEnAct
  dsimp only
  rw [if_pos ⟨rfl, by omega⟩]

theorem portsAnswerAndReport : Obligations.PortsAnswerAndReport := by
  unfold Obligations.PortsAnswerAndReport
  refine ⟨fun p f ip target s hopen hgood hsize hfor => ⟨fun hown htarget => ?_, fun h => ?_⟩,
    fun p f ip target s hopen hgood hsize hfor => ⟨fun hown htarget => ?_, fun h => ?_⟩,
    fun p s hon hup => ⟨_, exec_linkDown s p, linkDownAct_leaves hon hup rfl⟩,
    fun p an s hon hen hreset => ⟨_, exec_linkUp s p an, linkUpAct_leaves hon hen hreset rfl⟩,
    fun p n s hon hen hfinup => ⟨_, exec_fecUncorr s p n, fecAct_leaves hon hen hfinup rfl⟩,
    fun p r s h hen => ⟨fun hfits => ?_, fun hbad => ?_⟩⟩
  · rw [exec_arpRequest, arpAct_of_good hopen hgood hsize hfor, if_pos ⟨hown, htarget⟩]
    rfl
  · rw [exec_arpRequest, arpAct_of_good hopen hgood hsize hfor, if_neg (by tauto)]
  · rw [exec_neighbourSolicitation, solicitAct_of_good hopen hgood hsize hfor, if_pos ⟨hown, htarget⟩]
    rfl
  · rw [exec_neighbourSolicitation, solicitAct_of_good hopen hgood hsize hfor, if_neg (by tauto)]
  · refine gives_of_writeIf (exec_rsEnWrite s p r 1) h (rsEnAct_fits hfits hen) okCode_ne_laterCode fun b => ?_
    have hsame : SameBut (s.setStream r {}) ((s.setStream r {}).wr E.rsEn 1 r) [rowKey E.rsEn r 0] :=
      (SameBut.refl _ _).wr (by simp) _
    exact ⟨by simp, by simp, by simp, by simp, SameBut.answer (SameBut.withStale (t := (s.setStream r {}).wr E.rsEn 1 r)
      ⟨hsame.1, hsame.2⟩ b) p _ _⟩
  · exact (exec_rsEnWrite s p r 1).trans (congrArg _ (writeIf_act_refuses h (rsEnAct_refuses hbad) codeRange_ne_laterCode))

end Sys2Proof.Machine
end

section
/-!
CERTIFICATE. Frames of the Darine rings that a node forwards, keeps or cuts, and an own frame that waited (R405 to R407, R428).
-/
namespace Sys2Proof.Machine

variable {s t u : State}

theorem exec_ringFrameForward (s : State) (i : RingId) (f : RingFrame) : exec (.ringFrameForward i f) s = .next (forwardAct i f s) := rfl
theorem exec_ringInjWait (s : State) (i : RingId) : exec (.ringInjWait i) s = .next (injectAct i s) := rfl

/-! ### Bytes of a frame -/

theorem ofBytes_foldl (l : List Byte) : ∀ a, l.foldl (fun a b => a * 256 + b.toNat) a = a * 256 ^ l.length + ofBytes l := by
  induction l with
  | nil => intro a; simp [ofBytes]
  | cons b r ih =>
    intro a
    rw [ofBytes, List.foldl_cons, List.foldl_cons, ih, ih, List.length_cons, Nat.pow_succ]
    ring

theorem ofBytes_cons (b : Byte) (l : List Byte) : ofBytes (b :: l) = b.toNat * 256 ^ l.length + ofBytes l := by
  rw [ofBytes, List.foldl_cons, ofBytes_foldl]
  simp

theorem ofBytes_toBytes (n x : Nat) : ofBytes (toBytes n x) = x % 256 ^ n := by
  induction n with
  | zero => simp [toBytes, ofBytes, Nat.mod_one]
  | succ n ih =>
    rw [toBytes, ofBytes_cons, ih, length_toBytes, BitVec.toNat_ofNat, Nat.shiftRight_eq_div_pow, Nat.pow_mul,
      show (2 : Nat) ^ 8 = 256 from rfl, Nat.mod_pow_succ]
    ring

theorem frameField_append_right {a b : List Byte} {i n : Nat} (h : a.length = i) : frameField (a ++ b) i n = ofBytes (b.take n) := by
  rw [frameField, ← h, List.drop_left]

/-- A frame's bytes with HOPS replaced. -/
def hopsReplaced (l : List Byte) (hops : Nat) : List Byte := l.take 6 ++ toBytes 2 hops ++ l.drop 8

/-- A SYNC's bytes with its CORRECTION increased. -/
def corrected (l : List Byte) (extra : Int) : List Byte :=
  l.take 20 ++ toBytes 8 (unsigned 64 (signed 64 (frameField l 20 8) + extra)) ++ l.drop 28

/-- A forwarded frame without its CRC. -/
def forwardedHead (l : List Byte) (hops : Nat) (extra : Int) : List Byte :=
  let head := hopsReplaced (l.take (l.length - 4)) hops
  if frameField l 0 1 % 16 = 0 ∧ 28 ≤ head.length then corrected head extra else head

theorem forwarded_eq (l : List Byte) (hops : Nat) (extra : Int) :
    forwarded l hops extra = forwardedHead l hops extra ++ toBytes 4 (crc32c (forwardedHead l hops extra)) := rfl

section
variable {l : List Byte} {hops : Nat} {extra : Int}

theorem hopsReplaced_length (h : 8 ≤ l.length) : (hopsReplaced l hops).length = l.length := by
  simp only [hopsReplaced, List.length_append, List.length_take, List.length_drop, length_toBytes]
  omega

theorem hopsReplaced_take (h : 8 ≤ l.length) : (hopsReplaced l hops).take 6 = l.take 6 := by
  rw [hopsReplaced, List.append_assoc, List.take_append_of_le_length (by rw [List.length_take]; omega), List.take_take, min_self]

theorem hopsReplaced_drop (h : 8 ≤ l.length) : (hopsReplaced l hops).drop 8 = l.drop 8 := by
  have hlen : (l.take 6 ++ toBytes 2 hops).length = 8 := by
    rw [List.length_append, List.length_take, length_toBytes]
    omega
  rw [hopsReplaced, ← hlen, List.drop_left]

theorem hopsReplaced_field (h : 8 ≤ l.length) (hh : hops < 65536) : frameField (hopsReplaced l hops) 6 2 = hops := by
  rw [hopsReplaced, List.append_assoc, frameField_append_right (by rw [List.length_take]; omega),
    List.take_append_of_le_length (by rw [length_toBytes]), List.take_of_length_le (by rw [length_toBytes]), ofBytes_toBytes]
  exact Nat.mod_eq_of_lt hh

theorem corrected_length (h : 28 ≤ l.length) : (corrected l extra).length = l.length := by
  simp only [corrected, List.length_append, List.length_take, List.length_drop, length_toBytes]
  omega

theorem corrected_take (h : 28 ≤ l.length) {n : Nat} (hn : n ≤ 20) : (corrected l extra).take n = l.take n := by
  rw [corrected, List.append_assoc, List.take_append_of_le_length (by rw [List.length_take]; omega), List.take_take, min_eq_left hn]

theorem corrected_field (h : 28 ≤ l.length) : frameField (corrected l extra) 6 2 = frameField l 6 2 := by
  have htake : ((corrected l extra).drop 6).take 2 = (l.drop 6).take 2 := by
    rw [List.take_drop, List.take_drop, corrected_take h (by decide)]
  rw [frameField, frameField, htake]

theorem unsigned_lt (w : Nat) (x : Int) : unsigned w x < 2 ^ w := by
  have hpos : (0 : Int) < 2 ^ w := by positivity
  have hlt := Int.emod_lt_of_pos x hpos
  have hle := Int.emod_nonneg x (ne_of_gt hpos)
  rw [unsigned]
  exact_mod_cast (Int.toNat_of_nonneg hle).trans_lt hlt

theorem corrected_correction (h : 28 ≤ l.length) :
    frameField (corrected l extra) 20 8 = unsigned 64 (signed 64 (frameField l 20 8) + extra) := by
  rw [corrected, List.append_assoc, frameField_append_right (by rw [List.length_take]; omega),
    List.take_append_of_le_length (by rw [length_toBytes]), List.take_of_length_le (by rw [length_toBytes]), ofBytes_toBytes]
  exact Nat.mod_eq_of_lt (unsigned_lt 64 _)

/-- A field behind HOPS is that of the received frame. -/
theorem hopsReplaced_field_behind {i n : Nat} (hi : 8 ≤ i) (hn : i + n ≤ l.length - 4) :
    frameField (hopsReplaced (l.take (l.length - 4)) hops) i n = frameField l i n := by
  have hlen : 8 ≤ (l.take (l.length - 4)).length := by rw [List.length_take]; omega
  have hdrop : (hopsReplaced (l.take (l.length - 4)) hops).drop i = (l.take (l.length - 4)).drop i := by
    obtain ⟨k, rfl⟩ := Nat.exists_eq_add_of_le hi
    rw [← List.drop_drop, hopsReplaced_drop hlen, List.drop_drop]
  rw [frameField, hdrop, List.drop_take, List.take_take, min_eq_left (by omega), frameField]

/-- The head of a forwarded frame, field by field. -/
theorem forwardedHead_fields (hl : 16 ≤ l.length) (hh : hops < 65536) :
    (forwardedHead l hops extra).take 6 = l.take 6 ∧ frameField (forwardedHead l hops extra) 6 2 = hops ∧
      (forwardedHead l hops extra).length = l.length - 4 ∧
      (frameField l 0 1 % 16 ≠ 0 → (forwardedHead l hops extra).drop 8 = (l.take (l.length - 4)).drop 8) ∧
      (frameField l 0 1 % 16 = 0 → 32 ≤ l.length →
        frameField (forwardedHead l hops extra) 20 8 = unsigned 64 (signed 64 (frameField l 20 8) + extra)) := by
  have hbody : (l.take (l.length - 4)).length = l.length - 4 := by rw [List.length_take]; omega
  have hbody8 : 8 ≤ (l.take (l.length - 4)).length := by omega
  have htake : (hopsReplaced (l.take (l.length - 4)) hops).take 6 = l.take 6 := by
    rw [hopsReplaced_take hbody8, List.take_take, min_eq_left (by omega)]
  have hlen : (hopsReplaced (l.take (l.length - 4)) hops).length = l.length - 4 := by rw [hopsReplaced_length hbody8, hbody]
  have hfield := hopsReplaced_field hbody8 hh
  unfold forwardedHead
  dsimp only
  split
  next h =>
    refine ⟨by rw [corrected_take h.2 (by decide), htake], by rw [corrected_field h.2, hfield], by rw [corrected_length h.2, hlen],
      fun hne => absurd h.1 hne, fun _ h32 => ?_⟩
    rw [corrected_correction h.2, hopsReplaced_field_behind (by decide) (by omega)]
  next h =>
    refine ⟨htake, hfield, hlen, fun _ => hopsReplaced_drop hbody8, fun hc h32 => absurd ⟨hc, ?_⟩ h⟩
    rw [hlen]
    omega

end

/-! ### Frames in transit -/

theorem passOn_of_free (h : RingsFree s) (i : RingId) (bytes : List Byte) (cut : Bool) (hu : u = passOn s i bytes cut) :
    u.sent = .ringFrame i bytes cut :: s.sent ∧ u.rd E.txFrames i = wrap48 (s.rd E.txFrames i + 1) ∧ u.faultQ = s.faultQ ∧
      SameBut s u [rowKey E.txFrames i 0] := by
  obtain ⟨-, -, -, hlanes⟩ := h
  obtain ⟨-, hinj, -, hprbs⟩ := hlanes i (by omega)
  have hsame : SameBut s (s.wr E.txFrames (wrap48 (s.rd E.txFrames i + 1)) i) [rowKey E.txFrames i 0] :=
    (SameBut.refl s _).wr (by simp) _
  unfold passOn at hu
  rw [if_neg (by simp [hinj]), laneEmit, if_neg (by rw [Bool.not_eq_true]; exact hprbs)] at hu
  subst hu
  exact ⟨rfl, State.rd_wr_same .., rfl, hsame⟩

/-- A frame counted, or its CRC found bad. -/
def frameSeen (s : State) (i : Nat) (f : RingFrame) : State :=
  if frameGood f.bytes && !f.errorBlock then s.count48 E.rxFrames i else if f.errorBlock then s else frameCrc s i

/-- The bytes that leave again. -/
def passed (s : State) (i : RingId) (f : RingFrame) (hops : Nat) : State :=
  passOn (hopTime s).2 i (forwarded f.bytes hops ((hopTime s).2.rd E.linkDelay i + (hopTime s).1)) (!(frameGood f.bytes && !f.errorBlock))

theorem forwardAct_eq {i : RingId} {f : RingFrame} {hops : Nat} (h : RingsFree s) (hup : (s.lane i).inUp = true) (hl : 16 ≤ f.bytes.length)
    (hhops : hops = (frameField f.bytes 6 2 + 1) % 65536) (ht : t = frameSeen s i f) (hfree : RingsFree t) :
    forwardAct i f s = if keeps t f.bytes hops then t else passed t i f hops := by
  obtain ⟨hon, -, -, hlanes⟩ := h
  obtain ⟨-, -, -, hprbs⟩ := hlanes i (by omega)
  unfold forwardAct
  rw [if_neg (by simp [hon, hup, hprbs]; omega)]
  dsimp only
  rw [← hhops]
  change (if keeps (frameSeen s i f) f.bytes hops then frameSeen s i f else match outLane (frameSeen s i f) i with
    | none => frameSeen s i f
    | some out => passOn (hopTime (frameSeen s i f)).2 out (forwarded f.bytes hops ((hopTime (frameSeen s i f)).2.rd E.linkDelay i +
      (hopTime (frameSeen s i f)).1)) (!(frameGood f.bytes && !f.errorBlock))) = _
  rw [← ht, outLane_of_free hfree]
  rfl

/-! ### What a received frame leaves -/

theorem hopTime_leaves (hu : u = (hopTime s).2) : (hopTime s).1 ≤ 81920 ∧ u.sent = s.sent ∧ u.faultQ = s.faultQ ∧
    SameBut s u [] ∧ (RingsFree s → RingsFree u) ∧ u.lane = s.lane := by
  subst hu
  exact ⟨Nat.le_of_lt_succ (Nat.mod_lt _ (by decide)), rfl, rfl, ⟨fun _ _ _ _ => rfl, fun _ => rfl⟩, fun h => h, rfl⟩

theorem frameRow_ne {r : Row} (hr : r ∈ [E.rxFrames, E.crcErrors]) (i : RingId) :
    rowKey r i 0 ∉ frameKeys ∧ rowKey E.linkDelay i 0 ≠ rowKey r i 0 ∧ rowKey E.txFrames i 0 ≠ rowKey r i 0 := by
  have hkeys : ∀ i : RingId, ∀ r ∈ [E.rxFrames, E.crcErrors],
      rowKey r i 0 ∉ frameKeys ∧ rowKey E.linkDelay i 0 ≠ rowKey r i 0 ∧ rowKey E.txFrames i 0 ≠ rowKey r i 0 := by decide
  exact hkeys i r hr

/-- A write of an entry that no frame depends on leaves the rings free. -/
theorem RingsFree.wr {r : Row} {i : Nat} (h : RingsFree s) (hr : rowKey r i 0 ∉ frameKeys) (x : Int) : RingsFree (s.wr r x i) := by
  obtain ⟨hon, hup, hdown, hlanes⟩ := h
  refine ⟨hon, hup, hdown, fun k hk => ?_⟩
  have hrd {q : Row} (hq : rowKey q 0 0 ∈ frameKeys) : (s.wr r x i).rdN q = s.rdN q :=
    s.rdN_wr r q _ _ _ _ _ fun e => hr (e ▸ hq)
  have hprbs : prbsOnRing (s.wr r x i) k = prbsOnRing s k := by
    simp only [prbsOnRing, hrd (q := E.prbsSel) (by simp [frameKeys]), hrd (q := E.prbsLink) (by simp [frameKeys])]
  rw [hprbs]
  exact hlanes k hk

theorem keeps_congr {l : List Byte} {hops : Nat} (hring : t.ring = s.ring) (haddr : t.rdN E.ringAddrNow = s.rdN E.ringAddrNow) :
    keeps t l hops = keeps s l hops := by
  have hnode : nodeAddr t = nodeAddr s := by rw [nodeAddr, nodeAddr, hring, haddr]
  simp only [keeps, assigned, hnode]

theorem keeps_wr {r : Row} {i hops : Nat} {l : List Byte} (hr : rowKey r i 0 ∉ frameKeys) (x : Int) :
    keeps (s.wr r x i) l hops = keeps s l hops :=
  keeps_congr rfl (s.rdN_wr r _ _ _ _ _ _ fun e => hr (e ▸ (by simp [frameKeys])))

theorem frameSeen_good {i : RingId} {f : RingFrame} (h : frameGood f.bytes = true) (he : f.errorBlock = false) :
    frameSeen s i f = s.count48 E.rxFrames i := by
  simp [frameSeen, h, he]

/-- A frame whose CRC is bad, the first of its ring to be reported. -/
theorem frameSeen_bad {i : RingId} {f : RingFrame} (h : frameGood f.bytes = false) (he : f.errorBlock = false)
    (hcrc : (s.lane i).crcAt = none) : frameSeen s i f =
      ((s.count E.crcErrors i).setLane i { s.lane i with crcAt := some s.tick }).report (0xA8 + i) 3 0 := by
  have hall : ((s.count E.crcErrors i).lane i).crcAt.all (fun t => decide (t + 25000 ≤ (s.count E.crcErrors i).tick)) = true := by
    have hnone : ((s.count E.crcErrors i).lane i).crcAt = none := hcrc
    rw [hnone]
    rfl
  rw [frameSeen, if_neg (by simp [h]), if_neg (by simp [he]), frameCrc]
  exact if_pos hall

/-- The TICK of a bad CRC does not matter to what a lane carries. -/
theorem RingsFree.setLane {i : RingId} {x : LaneSt} (h : RingsFree s) (hbusy : x.busy = (s.lane i).busy) (hinj : x.inj = (s.lane i).inj)
    (hown : x.own = (s.lane i).own) : RingsFree (s.setLane i x) := by
  obtain ⟨hon, hup, hdown, hlanes⟩ := h
  refine ⟨hon, hup, hdown, fun k hk => ?_⟩
  by_cases hki : k = i.val
  · subst hki
    rw [State.setLane_same, hbusy, hinj, hown]
    exact hlanes _ hk
  · rw [State.setLane_ne s k i x hki]
    exact hlanes k hk

/-- What passes on leaves behind. -/
theorem passed_leaves {i : RingId} {f : RingFrame} {hops : Nat} (h : RingsFree t) (hu : u = passed t i f hops) :
    u.rd E.txFrames i = wrap48 (t.rd E.txFrames i + 1) ∧ u.faultQ = t.faultQ ∧ SameBut t u [rowKey E.txFrames i 0] ∧
      ∃ hop : Nat, hop ≤ 81920 ∧ u.sent = .ringFrame i (forwarded f.bytes hops (t.rd E.linkDelay i + hop))
        (!(frameGood f.bytes && !f.errorBlock)) :: t.sent := by
  obtain ⟨hle, hsent, hfault, hsame, hfree, -⟩ := hopTime_leaves (s := t) rfl
  unfold passed at hu
  generalize (hopTime t).1 = hop at *
  generalize (hopTime t).2 = v at *
  have hdelay : v.rd E.linkDelay i = t.rd E.linkDelay i := hsame.1 _ _ _ List.not_mem_nil
  obtain ⟨hsent', htx, hfault', hsame'⟩ := passOn_of_free (hfree h) i _ _ hu
  refine ⟨?_, hfault'.trans hfault, ?_, hop, hle, ?_⟩
  · rw [htx, hsame.1 _ _ _ List.not_mem_nil]
  · exact (hsame.trans hsame').mono (by simp)
  · rw [hsent', hsent, hdelay]

theorem injectAct_waiting {i : RingId} {b : List Byte} {rest : List (List Byte)} (hon : ringOn s = true) (hprbs : prbsOnRing s i = false)
    (hown : (s.lane i).own = b :: rest) (hinj : (s.lane i).inj = false) (hu : u = injectAct i s) :
    u.sent = .ringFrame i b false :: s.sent ∧ (u.lane i).own = rest ∧ (u.lane i).inj = true ∧ SameBut s u [rowKey E.txFrames i 0] := by
  have hsame : SameBut s (s.wr E.txFrames (wrap48 (s.rd E.txFrames i + 1)) i) [rowKey E.txFrames i 0] :=
    (SameBut.refl s _).wr (by simp) _
  have heq : injectAct i s =
      (((s.setLane i { s.lane i with own := rest, inj := true }).emit (.ringFrame i b false)).count48 E.txFrames i) := by
    unfold injectAct
    dsimp only
    rw [hown]
    dsimp only
    rw [if_neg (by simp [hinj, hon]), laneEmit, if_neg (by rw [Bool.not_eq_true]; exact hprbs)]
  rw [heq] at hu
  subst hu
  exact ⟨rfl, by simp [State.count48], by simp [State.count48], hsame⟩

theorem ringForwardsFrames : Obligations.RingForwardsFrames := by
  unfold Obligations.RingForwardsFrames
  intro i f s hops h hup hl hhops
  obtain ⟨hrx, hrxDelay, hrxTx⟩ := frameRow_ne (r := E.rxFrames) (by simp) i
  obtain ⟨hce, -, hceTx⟩ := frameRow_ne (r := E.crcErrors) (by simp) i
  have hhlt : hops < 65536 := hhops ▸ Nat.mod_lt _ (by decide)
  refine ⟨fun hgood herr hkeep => ⟨_, exec_ringFrameForward .., ?_⟩, fun hgood herr hkeep => ⟨_, exec_ringFrameForward .., ?_⟩,
    fun hbad herr hkeep hcrc => ⟨_, exec_ringFrameForward .., ?_⟩,
    fun t b rest hon hprbs hown hinj => ⟨_, exec_ringInjWait .., injectAct_waiting hon hprbs hown hinj rfl⟩⟩
  · have hfree : RingsFree (s.count48 E.rxFrames i) := h.wr hrx _
    have hkeep' : keeps (s.count48 E.rxFrames i) f.bytes hops = false := (keeps_wr hrx _).trans hkeep
    have hcount : (s.count48 E.rxFrames i).rd E.rxFrames i = wrap48 (s.rd E.rxFrames i + 1) := State.rd_wr_same ..
    have hother {r : Row} (hr : rowKey r i 0 ≠ rowKey E.rxFrames i 0) : (s.count48 E.rxFrames i).rd r i = s.rd r i :=
      State.rd_wr _ _ _ _ _ _ _ _ hr
    have hsame : SameBut s (s.count48 E.rxFrames i) [rowKey E.rxFrames i 0] := (SameBut.refl s _).wr (by simp) _
    have hrest : (s.count48 E.rxFrames i).faultQ = s.faultQ ∧ (s.count48 E.rxFrames i).sent = s.sent := ⟨rfl, rfl⟩
    rw [forwardAct_eq h hup hl hhops (frameSeen_good hgood herr).symm hfree, if_neg (by rw [Bool.not_eq_true]; exact hkeep')]
    generalize s.count48 E.rxFrames i = t at *
    obtain ⟨htx, hfault, hsame', hop, hle, hsent⟩ := passed_leaves hfree (f := f) (hops := hops) rfl
    generalize passed t i f hops = u at *
    rw [hgood, herr, hother hrxDelay, forwarded_eq] at hsent
    obtain ⟨htake, hfield, hlen, hdrop, hcorr⟩ := forwardedHead_fields (extra := s.rd E.linkDelay i + hop) hl hhlt
    refine ⟨?_, by rw [htx, hother hrxTx], hfault.trans hrest.1, hsame.trans hsame', hop, _, hle, hsent.trans (by rw [hrest.2]; rfl),
      htake, hfield, hlen, hdrop, hcorr⟩
    rw [hsame'.1 _ _ _ (by simpa using hrxTx.symm), hcount]
  · have hkeep' : keeps (s.count48 E.rxFrames i) f.bytes hops = true := (keeps_wr hrx _).trans hkeep
    rw [forwardAct_eq h hup hl hhops (frameSeen_good hgood herr).symm (h.wr hrx _), if_pos hkeep']
    exact ⟨State.rd_wr_same .., rfl, rfl, (SameBut.refl s _).wr (by simp) _⟩
  · generalize ht : frameSeen s i f = t
    have hseen := frameSeen_bad (i := i) hbad herr hcrc
    rw [ht] at hseen
    have hcount : (s.count E.crcErrors i).rd E.crcErrors i = min (s.rd E.crcErrors i + 1) (2 ^ 32 - 1) := count_rd ..
    have hfreec : RingsFree (s.count E.crcErrors i) := h.wr hce _
    have hkeepc : keeps (s.count E.crcErrors i) f.bytes hops = false := (keeps_wr hce _).trans hkeep
    have hrx' : (s.count E.crcErrors i).rd E.rxFrames i = s.rd E.rxFrames i := State.rd_wr _ _ _ _ _ _ _ _ (by fin_cases i <;> decide)
    have hrest : (s.count E.crcErrors i).faultQ = s.faultQ ∧ (s.count E.crcErrors i).sent = s.sent := ⟨rfl, rfl⟩
    have hlane : (s.count E.crcErrors i).lane i = s.lane i := rfl
    generalize s.count E.crcErrors i = v at *
    rw [← hlane] at hseen
    have hfree : RingsFree t := hseen ▸ (hfreec.setLane (x := { v.lane i with crcAt := some s.tick }) rfl rfl rfl :)
    have hkeep' : keeps t f.bytes hops = false := hseen ▸ hkeepc
    obtain ⟨hfault, hrd⟩ : t.faultQ = v.faultQ ++ [⟨0xA8 + i, 3, 0⟩] ∧ ∀ r i j, t.rd r i j = v.rd r i j :=
      hseen ▸ ⟨rfl, fun _ _ _ => rfl⟩
    have hsentt : t.sent = v.sent := hseen ▸ rfl
    rw [forwardAct_eq h hup hl hhops ht.symm hfree, if_neg (by rw [Bool.not_eq_true]; exact hkeep')]
    obtain ⟨-, hfault', hsame, hop, -, hsent⟩ := passed_leaves hfree (f := f) (hops := hops) rfl
    generalize passed t i f hops = u at *
    rw [hbad, hsentt, hrest.2] at hsent
    refine ⟨?_, by rw [hfault', hfault, hrest.1], ⟨_, hsent⟩, ?_⟩
    · rw [hsame.1 _ _ _ (by simpa using hceTx.symm), hrd, hcount]
    · rw [hsame.1 _ _ _ (by simpa using hrxTx.symm), hrd, hrx']

end Sys2Proof.Machine
end

section
/-!
CERTIFICATE. Joining the Darine rings, wrapping and unwrapping their sides (R418 to R423).
-/
namespace Sys2Proof.Machine

variable {s t u : State} {i : Nat}

theorem exec_announceSend (s : State) : exec .announceSend s = .next (announceSendAct s) := rfl
theorem exec_announceReceive (s : State) (src nonce : Nat) : exec (.announceReceive src nonce) s =
    .next (announceReceiveAct src nonce s) := rfl
theorem exec_annTimeout (s : State) : exec .annTimeout s =
    .next (if ringOn s && assigned s && s.ring.annAt.isSome then addrConflict s else s) := rfl
theorem exec_ringAbsent (s : State) : exec .ringAbsent s = .next (if s.ring.join = 1 ∧ !(s.lane 0).inUp ∧ !(s.lane 1).inUp then
    { s with ring := { s.ring with join := 3 } } else s) := rfl
theorem exec_laneDown (s : State) (i : RingId) : exec (.laneDown i) s = .next (laneDownAct i s) := rfl
theorem exec_laneUp (s : State) (i : RingId) : exec (.laneUp i) s = .next (laneUpAct i s) := rfl
theorem exec_ringHeal (s : State) (down : Bool) : exec (.ringHeal down) s = .next (ringHealAct down s) := rfl
theorem exec_linkStateReceive (s : State) (i : RingId) (up : Bool) : exec (.linkStateReceive i up) s = .next (linkStateAct i up s) := rfl
theorem exec_linkStateSend (s : State) : exec .linkStateSend s = .next (if ringOn s then linkStateSendAct s else s) := rfl

/-! ### Joining -/

/-- Whether the node has joined is all that may change. -/
theorem joinUnassigned_join (s : State) : ∃ j, joinUnassigned s = { s with ring := { s.ring with join := j } } := by
  unfold joinUnassigned joinNow
  split
  · split
    · exact ⟨_, rfl⟩
    · exact ⟨_, rfl⟩
  · exact ⟨_, rfl⟩

theorem announceSendAct_leaves (h : RingsFree s) (hassigned : assigned s = true) (hu : u = announceSendAct s) :
    u.ring.annAt = some s.tick ∧
      u.sent = [.ringFrame 1 (ringFrameBytes 8 1 0xFFFF (nodeAddr s) 0 (aget 0 8 s.ring.seqs) (toBytes 4 (s.fuse 1))) false,
        .ringFrame 0 (ringFrameBytes 8 0 0xFFFF (nodeAddr s) 0 (aget 0 8 s.ring.seqs) (toBytes 4 (s.fuse 1))) false] ++ s.sent ∧
      SameBut s u [rowKey E.txFrames 0 0, rowKey E.txFrames 1 0] := by
  have heq : announceSendAct s = sendBoth { (nextSeq s 8).2 with ring := { (nextSeq s 8).2.ring with annAt := some s.tick } } 8 0xFFFF
      (aget 0 8 s.ring.seqs) (toBytes 4 (s.fuse 1)) := by
    unfold announceSendAct
    rw [if_neg (by simp [h.1, hassigned])]
    rfl
  generalize hv : ({ (nextSeq s 8).2 with ring := { (nextSeq s 8).2.ring with annAt := some s.tick } } : State) = v at heq
  obtain ⟨hfree, hnode, hann, hsent, hsame⟩ : RingsFree v ∧ nodeAddr v = nodeAddr s ∧ v.ring.annAt = some s.tick ∧ v.sent = s.sent ∧
      SameBut s v [] := hv ▸ ⟨h, rfl, rfl, rfl, fun _ _ _ _ => rfl, fun _ => rfl⟩
  obtain ⟨hsent', hring, -, hsame'⟩ := sendBoth_leaves hfree 8 0xFFFF (aget 0 8 s.ring.seqs) (toBytes 4 (s.fuse 1)) (hu.trans heq)
  exact ⟨by rw [hring, hann], by rw [hsent', hnode, hsent], (hsame.trans hsame').mono (by simp)⟩

theorem addrConflict_leaves (hu : u = addrConflict s) : u.ring.addrConflict = true ∧ u.ring.root = false ∧ nodeAddr u = 0xFFFE ∧
    u.faultQ = s.faultQ ++ [⟨0xA8, 4, 0⟩] ∧ SameBut s u [rowKey E.rtState 0 0] := by
  unfold addrConflict at hu
  generalize hv : (if s.rdN E.rtState = 4 then s.wr E.rtState 0 else s) = v at hu
  have hsame : SameBut s v [rowKey E.rtState 0 0] := by
    rw [← hv]
    split
    · exact (SameBut.refl s _).wr (by simp) _
    · exact .refl ..
  have hfault : v.faultQ = s.faultQ := by
    rw [← hv]
    split <;> rfl
  dsimp only at hu
  obtain ⟨j, hj⟩ := joinUnassigned_join
    (({ v with ring := { v.ring with addrConflict := true, annAt := none, root := false } } : State).report 0xA8 4 0)
  rw [hj] at hu
  subst hu
  exact ⟨rfl, rfl, rfl, hfault ▸ rfl, hsame⟩

theorem announceReceiveAct_back {nonce : Nat} (hon : ringOn s = true) (hassigned : assigned s = true)
    (hnonce : nonce = s.fuse 1 % 2 ^ 32) (hready : lanesReady s = true) (hjoin : s.ring.join = 1) :
    announceReceiveAct (nodeAddr s) nonce s = { s with ring := { s.ring with annAt := none, join := 2 } } := by
  have hready' : lanesReady { s with ring := { s.ring with annAt := none } } = true := hready
  unfold announceReceiveAct
  rw [if_neg (by simp [hon, hassigned]), if_neg (by rw [hnonce]; simp)]
  dsimp only
  rw [if_pos hready', joinNow, if_pos (.inl hjoin)]

theorem announceReceiveAct_conflict {nonce : Nat} (hon : ringOn s = true) (hassigned : assigned s = true)
    (hnonce : nonce ≠ s.fuse 1 % 2 ^ 32) : announceReceiveAct (nodeAddr s) nonce s = addrConflict s := by
  unfold announceReceiveAct
  rw [if_neg (by simp [hon, hassigned]), if_pos hnonce]

/-! ### The sides -/

/-- What the wrapping of the broken sides leaves: the lanes, the entries and what was sent, and a message for each side. -/
theorem evalSides_leaves (s : State) (cause : Nat) (hu : u = evalSides s cause) : u.ring.wrapUp = (s.ring.wrapUp || upBroken s) ∧
    u.ring.wrapDown = (s.ring.wrapDown || downBroken s) ∧
    u.faultQ = s.faultQ ++ (if upBroken s && !s.ring.wrapUp then [⟨0xA8 + cause, 2, 0⟩] else []) ++
      (if downBroken s && !s.ring.wrapDown then [⟨0xA8 + cause, 2, 0⟩] else []) ∧
    u.lanes = s.lanes ∧ u.sent = s.sent ∧ SameBut s u [] := by
  unfold evalSides at hu
  generalize hv : (if upBroken s && !s.ring.wrapUp then ({ s with ring := { s.ring with wrapUp := true } } : State).report (0xA8 + cause) 2 0
    else s) = v at hu
  obtain ⟨hvup, hvdown, hvfault, hvlanes, hvsent, hvsame⟩ : v.ring.wrapUp = (s.ring.wrapUp || upBroken s) ∧
      v.ring.wrapDown = s.ring.wrapDown ∧
      v.faultQ = s.faultQ ++ (if upBroken s && !s.ring.wrapUp then [⟨0xA8 + cause, 2, 0⟩] else []) ∧ v.lanes = s.lanes ∧
      v.sent = s.sent ∧ SameBut s v [] := by
    rw [← hv]
    cases hup : upBroken s <;> cases hw : s.ring.wrapUp <;>
      exact ⟨by simp [hw], rfl, by simp [State.report], rfl, rfl, fun _ _ _ _ => rfl, fun _ => rfl⟩
  have hdown : downBroken v = downBroken s := by simp only [downBroken, State.lane, hvlanes]
  dsimp only at hu
  rw [hdown, hvdown] at hu
  generalize hw : (if downBroken s && !s.ring.wrapDown then
    ({ v with ring := { v.ring with wrapDown := true } } : State).report (0xA8 + cause) 2 0 else v) = w at hu
  obtain ⟨hwup, hwdown, hwfault, hwlanes, hwsent, hwsame⟩ : w.ring.wrapUp = v.ring.wrapUp ∧
      w.ring.wrapDown = (s.ring.wrapDown || downBroken s) ∧
      w.faultQ = v.faultQ ++ (if downBroken s && !s.ring.wrapDown then [⟨0xA8 + cause, 2, 0⟩] else []) ∧ w.lanes = v.lanes ∧
      w.sent = v.sent ∧ SameBut v w [] := by
    rw [← hw]
    cases hd : downBroken s <;> cases hx : s.ring.wrapDown <;>
      exact ⟨rfl, by simp [hvdown, hx], by simp [State.report], rfl, rfl, fun _ _ _ _ => rfl, fun _ => rfl⟩
  obtain ⟨j, hj⟩ := joinUnassigned_join w
  rw [hj] at hu
  subst hu
  exact ⟨hwup.trans hvup, hwdown, by rw [← hvfault]; exact hwfault, hwlanes.trans hvlanes, hwsent.trans hvsent, hvsame.trans hwsame⟩

theorem lane_congr (h : t.lanes = s.lanes) (k : Nat) : t.lane k = s.lane k := by rw [State.lane, State.lane, h]

/-- A ring's IN lane down: that lane, and what the neighbour reported on it. -/
theorem dropIn_lanes (s : State) (i : Nat) (hne : 1 - i ≠ i) (hu : u = dropIn s i) : (u.lane i).inUp = false ∧
    (u.lane i).heard = (s.lane i).heard ∧ (u.lane i).outOk = (s.lane i).outOk ∧ (u.lane (1 - i)).heard = false ∧
    (u.lane (1 - i)).inUp = (s.lane (1 - i)).inUp ∧ u.ring = s.ring := by
  generalize hv : s.setLane i { s.lane i with inUp := false, lost := (s.lane i).lost || (s.lane i).inUp } = v
  obtain ⟨hup, hheard, hok, hring⟩ : (v.lane i).inUp = false ∧ (v.lane i).heard = (s.lane i).heard ∧ (v.lane i).outOk = (s.lane i).outOk ∧
      v.ring = s.ring := hv ▸ ⟨by simp, by simp, by simp, rfl⟩
  have hother : v.lane (1 - i) = s.lane (1 - i) := hv ▸ State.setLane_ne s (1 - i) i _ hne
  unfold dropIn at hu
  rw [hv] at hu
  subst hu
  refine ⟨?_, ?_, ?_, by simp, by simp [hother], hring⟩
  · exact (congrArg LaneSt.inUp (State.setLane_ne v i (1 - i) _ hne.symm)).trans hup
  · exact (congrArg LaneSt.heard (State.setLane_ne v i (1 - i) _ hne.symm)).trans hheard
  · exact (congrArg LaneSt.outOk (State.setLane_ne v i (1 - i) _ hne.symm)).trans hok

/-- A lane down, counted and reported. -/
def laneLost (s : State) (i : Nat) : State := ((dropIn s i).count E.laneDowns i).report (0xA8 + i) 1 0

theorem laneLost_leaves (hu : u = laneLost s i) : u.rd E.laneDowns i = min (s.rd E.laneDowns i + 1) (2 ^ 32 - 1) ∧
    u.faultQ = s.faultQ ++ [⟨0xA8 + i, 1, 0⟩] ∧ u.lanes = (dropIn s i).lanes ∧ u.ring = s.ring ∧
    SameBut s u [rowKey E.laneDowns i 0] := by
  obtain ⟨hfault, hring, hdict, hmem⟩ : (dropIn s i).faultQ = s.faultQ ∧ (dropIn s i).ring = s.ring ∧ (dropIn s i).dict = s.dict ∧
      (dropIn s i).mem = s.mem := ⟨rfl, rfl, rfl, rfl⟩
  unfold laneLost at hu
  generalize dropIn s i = v at *
  have hrd (r : Row) (j k : Nat) : v.rd r j k = s.rd r j k := by rw [State.rd, State.rd, hdict]
  have hsame : SameBut s v [] := ⟨fun r j k _ => hrd r j k, fun a => by rw [State.byte, State.byte, hmem]⟩
  subst hu
  refine ⟨?_, hfault ▸ rfl, rfl, hring, ((hsame.mono (by simp)).wr (by simp) _).report ..⟩
  exact (count_rd v E.laneDowns i).trans (by rw [hrd])

theorem laneDownAct_eq (hon : ringOn s = true) (hup : (s.lane i).inUp = true) : laneDownAct i s = evalSides (laneLost s i) i := by
  unfold laneDownAct
  rw [if_neg (by simp [hon, hup])]
  rfl

/-- The loss of a lane that breaks one side wraps that side. -/
theorem laneDownAct_up (hon : ringOn s = true) (hup : (s.lane 0).inUp = true) (hwrap : s.ring.wrapUp = false)
    (hdown : downBroken s = false) (hu : u = laneDownAct 0 s) : (u.lane 0).inUp = false ∧ u.ring.wrapUp = true ∧
      u.rd E.laneDowns 0 = min (s.rd E.laneDowns 0 + 1) (2 ^ 32 - 1) ∧
      u.faultQ = s.faultQ ++ [⟨0xA8, 1, 0⟩, ⟨0xA8, 2, 0⟩] ∧ SameBut s u [rowKey E.laneDowns 0 0] := by
  rw [laneDownAct_eq hon hup] at hu
  obtain ⟨hin, hheard, hok, -, hin1, -⟩ := dropIn_lanes s 0 (by decide) rfl
  obtain ⟨hcount, hfault, hlanes, hring, hsame⟩ := laneLost_leaves (s := s) (i := 0) rfl
  generalize laneLost s 0 = v at *
  have hl := lane_congr hlanes
  have hbroken : upBroken v = true := by simp [upBroken, hl, hin]
  have hfine : downBroken v = false := by
    rw [← hdown]
    simp [downBroken, hl, hheard, hok, hin1]
  obtain ⟨hwu, -, hfault', hlanes', -, hsame'⟩ := evalSides_leaves v 0 hu
  refine ⟨by rw [lane_congr hlanes', hl, hin], by rw [hwu, hbroken, Bool.or_true], ?_, ?_, (hsame.trans hsame').mono (by simp)⟩
  · rw [hsame'.1 _ _ _ List.not_mem_nil, hcount]
  · rw [hfault', hfault, hbroken, hfine, hring, hwrap]
    simp

theorem laneDownAct_down (hon : ringOn s = true) (hup : (s.lane 1).inUp = true) (hwrap : s.ring.wrapDown = false)
    (hfine : upBroken s = false) (hu : u = laneDownAct 1 s) : (u.lane 1).inUp = false ∧ u.ring.wrapDown = true ∧
      u.rd E.laneDowns 1 = min (s.rd E.laneDowns 1 + 1) (2 ^ 32 - 1) ∧
      u.faultQ = s.faultQ ++ [⟨0xA9, 1, 0⟩, ⟨0xA9, 2, 0⟩] ∧ SameBut s u [rowKey E.laneDowns 1 0] := by
  rw [laneDownAct_eq hon hup] at hu
  obtain ⟨hin, hheard, hok, -, hin1, -⟩ := dropIn_lanes s 1 (by decide) rfl
  obtain ⟨hcount, hfault, hlanes, hring, hsame⟩ := laneLost_leaves (s := s) (i := 1) rfl
  generalize laneLost s 1 = v at *
  have hl := lane_congr hlanes
  have hbroken : downBroken v = true := by simp [downBroken, hl, hin]
  have hfine' : upBroken v = false := by
    rw [← hfine]
    simp only [upBroken, hl, hheard, hok]
    exact congrArg (fun b => !b || _) hin1
  obtain ⟨-, hwd, hfault', hlanes', -, hsame'⟩ := evalSides_leaves v 1 hu
  refine ⟨by rw [lane_congr hlanes', hl, hin], by rw [hwd, hbroken, Bool.or_true], ?_, ?_, (hsame.trans hsame').mono (by simp)⟩
  · rw [hsame'.1 _ _ _ List.not_mem_nil, hcount]
  · rw [hfault', hfault, hbroken, hfine', hring, hwrap]
    simp

theorem laneUpAct_leaves (hon : ringOn s = true) (hin : (s.lane i).inUp = false) (hreset : unitInReset s (0xA8 + i) = false)
    (hu : u = laneUpAct i s) : (u.lane i).inUp = true ∧ SameBut s u [] ∧ u.sent = s.sent := by
  unfold laneUpAct at hu
  rw [if_neg (by simp [hon, hin, hreset])] at hu
  generalize hv : s.setLane i { s.lane i with inUp := true, lost := false } = v at hu
  obtain ⟨hvup, hvsent, hvsame⟩ : (v.lane i).inUp = true ∧ v.sent = s.sent ∧ SameBut s v [] :=
    hv ▸ ⟨by simp, rfl, fun _ _ _ _ => rfl, fun _ => rfl⟩
  obtain ⟨-, -, -, hlanes, hsent, hsame⟩ := evalSides_leaves v (1 - i) hu
  exact ⟨by rw [lane_congr hlanes, hvup], hvsame.trans hsame, hsent.trans hvsent⟩

theorem linkStateAct_leaves {up : Bool} (hi : i < 2) (hon : ringOn s = true) (hin : (s.lane i).inUp = true)
    (hu : u = linkStateAct i up s) : (u.lane (1 - i)).outOk = up ∧ (u.lane (1 - i)).heard = true ∧ SameBut s u [] ∧ u.sent = s.sent ∧
      (up = false → (i = 1 → u.ring.wrapDown = true) ∧ (i = 0 → u.ring.wrapUp = true)) := by
  unfold linkStateAct at hu
  rw [if_neg (by simp [hon, hin])] at hu
  generalize hv : s.setLane (1 - i) { s.lane (1 - i) with heard := true, outOk := up } = v at hu
  obtain ⟨hok, hheard, hvsent, hvsame⟩ : (v.lane (1 - i)).outOk = up ∧ (v.lane (1 - i)).heard = true ∧ v.sent = s.sent ∧
      SameBut s v [] := hv ▸ ⟨by simp, by simp, rfl, fun _ _ _ _ => rfl, fun _ => rfl⟩
  obtain ⟨hwu, hwd, -, hlanes, hsent, hsame⟩ := evalSides_leaves v (1 - i) hu
  refine ⟨by rw [lane_congr hlanes, hok], by rw [lane_congr hlanes, hheard], hvsame.trans hsame, hsent.trans hvsent, fun hfalse =>
    ⟨fun h1 => ?_, fun h0 => ?_⟩⟩
  · subst h1
    rw [hwd, downBroken, hok, hheard, hfalse]
    simp
  · subst h0
    rw [hwu, upBroken, hok, hheard, hfalse]
    simp

/-! ### Unwrapping -/

theorem ringHealAct_up (h : upBroken s = false) (hu : u = ringHealAct false s) : u.ring.wrapUp = false ∧
    u.ring.wrapDown = s.ring.wrapDown ∧ u.faultQ = s.faultQ ∧ u.sent = s.sent ∧ SameBut s u [] := by
  obtain ⟨j, hj⟩ := joinUnassigned_join { s with ring := { s.ring with wrapUp := false } }
  have heq : ringHealAct false s = joinUnassigned { s with ring := { s.ring with wrapUp := false } } := by
    simp [ringHealAct, h]
  rw [heq, hj] at hu
  subst hu
  exact ⟨rfl, rfl, rfl, rfl, fun _ _ _ _ => rfl, fun _ => rfl⟩

theorem ringHealAct_down (h : downBroken s = false) (hu : u = ringHealAct true s) : u.ring.wrapDown = false ∧
    u.ring.wrapUp = s.ring.wrapUp ∧ u.faultQ = s.faultQ ∧ u.sent = s.sent ∧ SameBut s u [] := by
  obtain ⟨j, hj⟩ := joinUnassigned_join { s with ring := { s.ring with wrapDown := false } }
  have heq : ringHealAct true s = joinUnassigned { s with ring := { s.ring with wrapDown := false } } := by
    simp [ringHealAct, h]
  rw [heq, hj] at hu
  subst hu
  exact ⟨rfl, rfl, rfl, rfl, fun _ _ _ _ => rfl, fun _ => rfl⟩

/-! ### LINK_STATE -/

/-- A frame to a neighbour leaves at once on free rings. -/
theorem neighbourSend_of_free (h : RingsFree s) (out : RingId) (cls seq : Nat) (payload : List Byte) :
    neighbourSend s out cls seq payload = frameLeft s out (ringFrameBytes cls out 0x8001 (nodeAddr s) 0 seq payload) := by
  have hqueue := laneQueue_of_free h out (ringFrameBytes cls out 0x8001 (nodeAddr s) 0 seq payload)
  obtain ⟨hon, hup, -, -⟩ := h
  unfold neighbourSend
  rw [if_neg (by simp [hon, hup]), hqueue]
  rfl

theorem toBytes_flag (b : Bool) : toBytes 1 (flag b 0) = [if b then 1 else 0] := by
  cases b <;> decide

theorem linkStateSendAct_leaves (h : RingsFree s) (hu : u = linkStateSendAct s) :
    u.sent = [.ringFrame 1 (ringFrameBytes 7 1 0x8001 (nodeAddr s) 0 (aget 0 7 s.ring.seqs) [if (s.lane 0).inUp then 1 else 0]) false,
      .ringFrame 0 (ringFrameBytes 7 0 0x8001 (nodeAddr s) 0 (aget 0 7 s.ring.seqs) [if (s.lane 1).inUp then 1 else 0]) false] ++ s.sent ∧
      SameBut s u [rowKey E.txFrames 0 0, rowKey E.txFrames 1 0] := by
  have heq : linkStateSendAct s = neighbourSend (neighbourSend (nextSeq s 7).2 0 7 (aget 0 7 s.ring.seqs) (toBytes 1 (flag (s.lane 1).inUp 0)))
      1 7 (aget 0 7 s.ring.seqs) (toBytes 1 (flag (s.lane 0).inUp 0)) := rfl
  rw [toBytes_flag, toBytes_flag] at heq
  obtain ⟨hfree, hnode, hsent, hsame⟩ : RingsFree (nextSeq s 7).2 ∧ nodeAddr (nextSeq s 7).2 = nodeAddr s ∧ (nextSeq s 7).2.sent = s.sent ∧
      SameBut s (nextSeq s 7).2 [] := ⟨h, rfl, rfl, fun _ _ _ _ => rfl, fun _ => rfl⟩
  generalize (nextSeq s 7).2 = v at *
  have hfirst := neighbourSend_of_free hfree 0 7 (aget 0 7 s.ring.seqs) [if (s.lane 1).inUp then 1 else 0]
  have hsecond := neighbourSend_of_free
    (hfree.frameLeft 0 (ringFrameBytes 7 0 0x8001 (nodeAddr v) 0 (aget 0 7 s.ring.seqs) [if (s.lane 1).inUp then 1 else 0])) 1 7
    (aget 0 7 s.ring.seqs) [if (s.lane 0).inUp then 1 else 0]
  rw [nodeAddr_frameLeft, hnode] at hsecond
  rw [hnode] at hfirst
  have hboth := (hu.trans heq).trans ((congrArg (neighbourSend · 1 7 (aget 0 7 s.ring.seqs) _) hfirst).trans hsecond)
  subst hboth
  exact ⟨by rw [← hsent]; rfl, (hsame.trans ((frameLeft_sameBut v 0 _).trans (frameLeft_sameBut _ 1 _))).mono (by simp)⟩

theorem ringJoinsAndWraps : Obligations.RingJoinsAndWraps := by
  unfold Obligations.RingJoinsAndWraps
  refine ⟨fun s n h hassigned hn => ⟨_, exec_announceSend s, by subst hn; exact announceSendAct_leaves h hassigned rfl⟩,
    fun s nonce hon hassigned => ⟨fun hnonce hready hjoin => ?_, fun hnonce => ⟨_, exec_announceReceive .., ?_⟩,
      fun hann => ⟨_, exec_annTimeout s, ?_⟩⟩,
    fun s hjoin h0 h1 => by rw [exec_ringAbsent, if_pos ⟨hjoin, by simp [h0], by simp [h1]⟩],
    fun s hon => ⟨fun hup hwrap hdown => ⟨_, exec_laneDown s 0, laneDownAct_up hon hup hwrap hdown rfl⟩,
      fun hup hwrap hdown => ⟨_, exec_laneDown s 1, laneDownAct_down hon hup hwrap hdown rfl⟩,
      fun i hin hreset => ⟨_, exec_laneUp s i, laneUpAct_leaves hon hin hreset rfl⟩,
      fun i up hin => ⟨_, exec_linkStateReceive s i up, linkStateAct_leaves i.isLt hon hin rfl⟩⟩,
    fun s => ⟨fun h => ⟨_, exec_ringHeal s false, ringHealAct_up h rfl⟩, fun h => ⟨_, exec_ringHeal s true, ringHealAct_down h rfl⟩,
      fun h => ?_, fun h => ?_⟩,
    fun s n h hn => ⟨_, exec_linkStateSend s, ?_⟩⟩
  · rw [exec_announceReceive, announceReceiveAct_back hon hassigned hnonce hready hjoin]
  · rw [announceReceiveAct_conflict hon hassigned hnonce]
    exact addrConflict_leaves rfl
  · rw [if_pos (by simp [hon, hassigned, hann])]
    obtain ⟨hconflict, -, hnode, hfault, hsame⟩ := addrConflict_leaves (s := s) rfl
    exact ⟨hconflict, hnode, hfault, hsame⟩
  · simp [exec_ringHeal, ringHealAct, h]
  · simp [exec_ringHeal, ringHealAct, h]
  · rw [if_pos h.1]
    subst hn
    exact linkStateSendAct_leaves h rfl

end Sys2Proof.Machine
end

section
/-!
CERTIFICATE. Lane delays and the ring's time base (R425, R426, R428 to R431).
-/
namespace Sys2Proof.Machine

variable {s t u : State} {i : Nat}

theorem exec_delayReqSend (s : State) : exec .delayReqSend s = .next (delayReqSendAct s) := rfl
theorem exec_delayReqReceive (s : State) (i : RingId) (src seq t2 : Nat) : exec (.delayReqReceive i src seq t2) s =
    .next (delayReqAct i seq t2 s) := rfl
theorem exec_delayRespReceive (s : State) (i : RingId) (seq t2 t3 t4 : Nat) : exec (.delayRespReceive i seq t2 t3 t4) s =
    .next (delayRespAct i seq t2 t3 t4 s) := rfl
theorem exec_syncSend (s : State) : exec .syncSend s = .next (syncSendAct s) := rfl
theorem exec_syncReceive (s : State) (i : RingId) (src seq hops origin : Nat) (corr : Int) (ti : Nat) :
    exec (.syncReceive i src seq hops origin corr ti) s = .next (syncReceiveAct i src seq hops origin corr ti s) := rfl
theorem exec_syncLost (s : State) : exec .syncLost s = .next (syncLostAct s) := rfl

/-- What the time of a frame, or another open value, leaves. -/
structure OnlyDraws (s t : State) : Prop where
  sent : t.sent = s.sent
  ring : t.ring = s.ring
  lanes : t.lanes = s.lanes
  node : nodeAddr t = nodeAddr s
  free : RingsFree s → RingsFree t
  same : SameBut s t []

theorem sendTime_onlyDraws (s : State) : OnlyDraws s (sendTime s).2 :=
  ⟨rfl, rfl, rfl, rfl, fun h => h, fun _ _ _ _ => rfl, fun _ => rfl⟩

/-! ### Lane delays -/

/-- A DELAY_REQ for one lane. -/
theorem delayReqLane_leaves (h : RingsFree s) (i : RingId) (n : Nat) (out : RingId) (hout : 1 - i.val = out.val)
    (hu : u = delayReqLane n s i) : ∃ t1, (u.lane i).delayReq = some (n, t1) ∧ (∀ k, k ≠ i.val → u.lane k = s.lane k) ∧
      u.sent = .ringFrame out (ringFrameBytes 1 out 0x8001 (nodeAddr s) 0 n []) false :: s.sent ∧ nodeAddr u = nodeAddr s ∧
      RingsFree u ∧ SameBut s u [rowKey E.txFrames out 0] := by
  obtain ⟨hsent, -, hlanes, hnode, hfree, hsame⟩ := sendTime_onlyDraws s
  have heq : delayReqLane n s i = neighbourSend ((sendTime s).2.setLane i { (sendTime s).2.lane i with delayReq := some (n, (sendTime s).1) })
      (1 - i.val) 1 n [] := rfl
  rw [heq, hout] at hu
  generalize (sendTime s).1 = t1 at *
  generalize (sendTime s).2 = v at *
  have hfreev := (hfree h).setLane (i := i) (x := { v.lane i with delayReq := some (n, t1) }) rfl rfl rfl
  generalize hw : v.setLane i { v.lane i with delayReq := some (n, t1) } = w at *
  obtain ⟨hreq, hwsent, hwnode, hwsame⟩ : (w.lane i).delayReq = some (n, t1) ∧ w.sent = v.sent ∧ nodeAddr w = nodeAddr v ∧
      SameBut v w [] := hw ▸ ⟨by simp, rfl, rfl, fun _ _ _ _ => rfl, fun _ => rfl⟩
  have hother (k : Nat) (hk : k ≠ i.val) : w.lane k = s.lane k :=
    (hw ▸ State.setLane_ne v k i _ hk : w.lane k = v.lane k).trans (lane_congr hlanes k)
  rw [neighbourSend_of_free hfreev out 1 n [], hwnode, hnode] at hu
  have hfree' := hfreev.frameLeft out (ringFrameBytes 1 out 0x8001 (nodeAddr s) 0 n [])
  have hnode' := nodeAddr_frameLeft w out (ringFrameBytes 1 out 0x8001 (nodeAddr s) 0 n [])
  have hsame' := frameLeft_sameBut w out (ringFrameBytes 1 out 0x8001 (nodeAddr s) 0 n [])
  rw [← hu] at hfree' hnode' hsame'
  refine ⟨t1, hu ▸ hreq, fun k hk => hu ▸ hother k hk, ?_, by rw [hnode', hwnode, hnode], hfree',
    ((hsame.trans hwsame).trans hsame').mono (by simp)⟩
  rw [hu, ← hsent, ← hwsent]
  rfl

theorem delayReqSendAct_leaves (h : RingsFree s) (hu : u = delayReqSendAct s) :
    ∃ t0 t1 n, n = aget 0 1 s.ring.seqs ∧ (u.lane 0).delayReq = some (n, t0) ∧ (u.lane 1).delayReq = some (n, t1) ∧
      u.sent = [.ringFrame 0 (ringFrameBytes 1 0 0x8001 (nodeAddr s) 0 n []) false,
        .ringFrame 1 (ringFrameBytes 1 1 0x8001 (nodeAddr s) 0 n []) false] ++ s.sent ∧
      SameBut s u [rowKey E.txFrames 0 0, rowKey E.txFrames 1 0] := by
  have heq : delayReqSendAct s = delayReqLane (aget 0 1 s.ring.seqs) (delayReqLane (aget 0 1 s.ring.seqs) (nextSeq s 1).2 0) 1 := by
    unfold delayReqSendAct
    rw [if_neg (by simp [h.1])]
    rfl
  obtain ⟨hfree, hnode, hsent, hsame⟩ : RingsFree (nextSeq s 1).2 ∧ nodeAddr (nextSeq s 1).2 = nodeAddr s ∧ (nextSeq s 1).2.sent = s.sent ∧
      SameBut s (nextSeq s 1).2 [] := ⟨h, rfl, rfl, fun _ _ _ _ => rfl, fun _ => rfl⟩
  generalize (nextSeq s 1).2 = v at *
  rw [heq] at hu
  generalize aget 0 1 s.ring.seqs = n at *
  obtain ⟨t0, hreq0, -, hsent0, hnode0, hfree0, hsame0⟩ := delayReqLane_leaves hfree 0 n 1 rfl rfl
  obtain ⟨t1, hreq1, hother1, hsent1, -, -, hsame1⟩ := delayReqLane_leaves hfree0 1 n 0 rfl hu
  refine ⟨t0, t1, n, rfl, ?_, hreq1, ?_, ((hsame.trans hsame0).trans hsame1).mono ?_⟩
  · rw [hother1 0 (by decide)]
    exact hreq0
  · rw [hsent1, hsent0, hnode0, hnode, hsent]
    rfl
  · simp

theorem delayReqAct_leaves (h : RingsFree s) (i out : RingId) (hout : 1 - i.val = out.val) (seq t2 : Nat)
    (hup : (s.lane i).inUp = true) (hu : u = delayReqAct i seq t2 s) : ∃ t3 : Nat,
      u.sent = .ringFrame out (ringFrameBytes 2 out 0x8001 (nodeAddr s) 0 seq (timeBytes (t2 % 2 ^ 56) ++ timeBytes t3)) false :: s.sent ∧
      SameBut s u [rowKey E.txFrames out 0] := by
  obtain ⟨hsent, -, -, hnode, hfree, hsame⟩ := sendTime_onlyDraws s
  have heq : delayReqAct i seq t2 s = neighbourSend (sendTime s).2 (1 - i.val) 2 seq
      (timeBytes (t2 % 2 ^ 56) ++ timeBytes (sendTime s).1) := by
    unfold delayReqAct
    rw [if_neg (by simp [h.1, hup])]
  rw [heq, hout] at hu
  generalize (sendTime s).1 = t3 at *
  generalize (sendTime s).2 = v at *
  rw [neighbourSend_of_free (hfree h), hnode] at hu
  have hsame' := frameLeft_sameBut v out (ringFrameBytes 2 out 0x8001 (nodeAddr s) 0 seq (timeBytes (t2 % 2 ^ 56) ++ timeBytes t3))
  rw [← hu] at hsame'
  refine ⟨t3, ?_, (hsame.trans hsame').mono (by simp)⟩
  rw [hu, ← hsent]
  rfl

theorem roundWord_int (s : State) (x : Int) : roundWord s (x : Rat) = (x, s) := by
  simp [roundWord]

theorem delayRespAct_leaves {seq t1 t2 t3 t4 d : Nat} (hon : ringOn s = true) (hup : (s.lane i).inUp = true)
    (hheard : (s.lane (1 - i)).heard = false) (hreq : (s.lane i).delayReq = some (seq, t1)) (hdelays : (s.lane i).delays = [])
    (hd : sdiff56 (t4 - t1 : Int) (t3 - t2 : Int) = 2 * d) (hu : u = delayRespAct i seq t2 t3 t4 s) :
    u.rd E.linkDelay i = d ∧ (u.lane i).delayReq = none ∧ u.sent = s.sent ∧ u.faultQ = s.faultQ ∧
      SameBut s u [rowKey E.linkDelay i 0] := by
  have hmean : ((([(2 * d : Int)] : List Int).sum : Int) : Rat) / (2 * (([(2 * d : Int)] : List Int).length : Rat)) = ((d : Int) : Rat) := by
    simp
  have heq : delayRespAct i seq t2 t3 t4 s =
      (s.setLane i { s.lane i with delays := [2 * d], delayReq := none }).wr E.linkDelay d i := by
    unfold delayRespAct
    dsimp only
    rw [hreq]
    dsimp only
    rw [if_neg (by simp [hon, hup, hheard]), hdelays, hd, List.take_of_length_le (by simp), hmean, roundWord_int]
    dsimp only
    rw [max_eq_right (Int.natCast_nonneg d)]
  generalize hv : s.setLane i { s.lane i with delays := [2 * d], delayReq := none } = v at heq
  obtain ⟨hnone, hsent, hfault, hsame⟩ : (v.lane i).delayReq = none ∧ v.sent = s.sent ∧ v.faultQ = s.faultQ ∧ SameBut s v [] :=
    hv ▸ ⟨by simp, rfl, rfl, fun _ _ _ _ => rfl, fun _ => rfl⟩
  rw [heq] at hu
  subst hu
  exact ⟨State.rd_wr_same .., hnone, hsent, hfault, (hsame.mono (by simp)).wr (by simp) _⟩

/-! ### The time base -/

/-- A SYNC of the root on one ring. -/
theorem syncOn_leaves (h : RingsFree s) (n : Nat) (ring : RingId) (hu : u = syncOn n s ring) : ∃ t,
    u.sent = .ringFrame ring (ringFrameBytes 0 ring 0xFFFF (nodeAddr s) 0 n (timeBytes t ++ toBytes 8 0)) false :: s.sent ∧
      nodeAddr u = nodeAddr s ∧ RingsFree u ∧ SameBut s u [rowKey E.txFrames ring 0] := by
  obtain ⟨hsent, -, -, hnode, hfree, hsame⟩ := sendTime_onlyDraws s
  have heq : syncOn n s ring = sendFrame (sendTime s).2 ring 0 0xFFFF n (timeBytes (sendTime s).1 ++ toBytes 8 0) := rfl
  rw [heq] at hu
  generalize (sendTime s).1 = t at *
  generalize (sendTime s).2 = v at *
  rw [sendFrame_of_free (hfree h), hnode] at hu
  generalize hb : ringFrameBytes 0 ring 0xFFFF (nodeAddr s) 0 n (timeBytes t ++ toBytes 8 0) = b at *
  have hfree' := (hfree h).frameLeft ring b
  have hnode' := nodeAddr_frameLeft v ring b
  have hsame' := frameLeft_sameBut v ring b
  rw [← hu] at hfree' hnode' hsame'
  refine ⟨t, ?_, hnode'.trans hnode, hfree', (hsame.trans hsame').mono (by simp)⟩
  rw [hu, hb, ← hsent]
  rfl

theorem syncSendAct_leaves (h : RingsFree s) (hroot : s.ring.root = true) (hassigned : assigned s = true) (hu : u = syncSendAct s) :
    ∃ t0 t1 n, n = aget 0 0 s.ring.seqs ∧
      u.sent = [.ringFrame 1 (ringFrameBytes 0 1 0xFFFF (nodeAddr s) 0 n (timeBytes t1 ++ toBytes 8 0)) false,
        .ringFrame 0 (ringFrameBytes 0 0 0xFFFF (nodeAddr s) 0 n (timeBytes t0 ++ toBytes 8 0)) false] ++ s.sent ∧
      SameBut s u [rowKey E.txFrames 0 0, rowKey E.txFrames 1 0] := by
  have heq : syncSendAct s = syncOn (aget 0 0 s.ring.seqs) (syncOn (aget 0 0 s.ring.seqs) (nextSeq s 0).2 0) 1 := by
    unfold syncSendAct
    rw [if_neg (by simp [h.1, hroot, hassigned])]
    rfl
  obtain ⟨hfree, hnode, hsent, hsame⟩ : RingsFree (nextSeq s 0).2 ∧ nodeAddr (nextSeq s 0).2 = nodeAddr s ∧ (nextSeq s 0).2.sent = s.sent ∧
      SameBut s (nextSeq s 0).2 [] := ⟨h, rfl, rfl, fun _ _ _ _ => rfl, fun _ => rfl⟩
  generalize (nextSeq s 0).2 = v at *
  rw [heq] at hu
  generalize aget 0 0 s.ring.seqs = n at *
  obtain ⟨t0, hsent0, hnode0, hfree0, hsame0⟩ := syncOn_leaves hfree n 0 rfl
  obtain ⟨t1, hsent1, -, -, hsame1⟩ := syncOn_leaves hfree0 n 1 hu
  refine ⟨t0, t1, n, rfl, ?_, ((hsame.trans hsame0).trans hsame1).mono (by simp)⟩
  rw [hsent1, hsent0, hnode0, hnode, hsent]
  rfl

theorem syncLostAct_leaves (h : s.rd E.rtState = 1 ∨ s.rd E.rtState = 2) (hu : u = syncLostAct s) : u.rd E.rtState = 3 ∧
    u.faultQ = s.faultQ ++ [⟨0xA8, 6, 0⟩] ∧ u.sent = s.sent ∧ u.ring = s.ring ∧ SameBut s u [rowKey E.rtState 0 0] := by
  have hcond : s.rdN E.rtState = 1 ∨ s.rdN E.rtState = 2 := by
    simp only [State.rdN]
    omega
  unfold syncLostAct at hu
  rw [if_pos hcond] at hu
  subst hu
  exact ⟨by simp, rfl, rfl, rfl, ((SameBut.refl s _).wr (by simp) _).report ..⟩

/-- What the application of a SYNC leaves. -/
theorem applySync_leaves (s : State) (ti rti : Nat) (l : List (Nat × Nat)) (hu : u = applySync s ti rti l) : u.ring.ti = ti ∧
    u.ring.rti = rti ∧ u.ring.syncSeq = s.ring.syncSeq ∧ u.faultQ = s.faultQ ∧ u.sent = s.sent ∧
    SameBut s u [rowKey E.rtOffset 0 0, rowKey E.rtRate 0 0] := by
  unfold applySync at hu
  generalize hv : ({ s with ring := { s.ring with ti := ti, rti := rti, syncs := l.take 9 } } : State) = v at hu
  obtain ⟨hti, hrti, hseq, hfault, hsent, hsame⟩ : v.ring.ti = ti ∧ v.ring.rti = rti ∧ v.ring.syncSeq = s.ring.syncSeq ∧
      v.faultQ = s.faultQ ∧ v.sent = s.sent ∧ SameBut s v [] := hv ▸ ⟨rfl, rfl, rfl, rfl, rfl, fun _ _ _ _ => rfl, fun _ => rfl⟩
  obtain ⟨n, hn⟩ := roundWord_eq v (rateOf v.ring.syncs * 10 ^ 12)
  dsimp only at hu
  rw [hn] at hu
  generalize clampInt (-2147483648) 2147483647 (roundWord v (rateOf v.ring.syncs * 10 ^ 12)).1 = rate at hu
  subst hu
  refine ⟨hti, hrti, hseq, hfault, hsent, ?_⟩
  have hfresh : SameBut s { v with fresh := n } [rowKey E.rtOffset 0 0, rowKey E.rtRate 0 0] := hsame.mono (by simp)
  exact (hfresh.wr (by simp) _).wr (by simp) _

/-- The state in which the first SYNC of a ring is applied. -/
def firstSync (s : State) (i seq hops : Nat) : State :=
  let s := (s.setLane i { s.lane i with syncAt := some s.tick }).wr E.hopsToRoot (min hops 0xFFFF : Nat) i
  let s := s.wr E.syncSrc i
  let s := { s with ring := { s.ring with syncSeq := some seq, syncAt := s.tick } }
  { s with ring := { s.ring with good := 0, steps := 0 } }.wr E.rtState 1

/-- The entries that a first SYNC writes are apart, and none is LINK_DELAY. -/
theorem syncKeys_apart : ∀ i : RingId,
    rowKey E.syncSrc 0 0 ≠ rowKey E.hopsToRoot i 0 ∧ rowKey E.rtState 0 0 ≠ rowKey E.hopsToRoot i 0 ∧
      rowKey E.linkDelay i 0 ≠ rowKey E.hopsToRoot i 0 ∧ rowKey E.linkDelay i 0 ≠ rowKey E.syncSrc 0 0 ∧
      rowKey E.hopsToRoot i 0 ≠ rowKey E.rtOffset 0 0 ∧ rowKey E.hopsToRoot i 0 ≠ rowKey E.rtRate 0 0 := by decide

theorem syncReceiveAct_first {src seq hops origin ti : Nat} {corr : Int} (i : RingId) (hon : ringOn s = true) (hup : (s.lane i).inUp = true)
    (hroot : s.ring.root = false) (hsrc : src ≠ nodeAddr s) (hnone : s.rdN E.syncSrc = 2) (hstate : s.rd E.rtState = 0) :
    syncReceiveAct i src seq hops origin corr ti s = applySync (firstSync s i seq hops) ti (wrap56 (origin + corr + s.rd E.linkDelay i))
      [(ti, wrap56 (origin + corr + s.rd E.linkDelay i))] := by
  obtain ⟨hsrcHops, hstateHops, hdelayHops, hdelaySrc, -, -⟩ := syncKeys_apart i
  unfold syncReceiveAct
  rw [if_neg (by simp [hon, hup, hsrc])]
  dsimp only
  generalize hv : (s.setLane i { s.lane i with syncAt := some s.tick }).wr E.hopsToRoot (min hops 0xFFFF : Nat) i = v
  have hvroot : v.ring.root = false := hv ▸ hroot
  have hvsrc : v.rdN E.syncSrc = 2 := hv ▸ (State.rdN_wr _ _ _ _ _ _ _ _ hsrcHops).trans hnone
  have hvstate : v.rd E.rtState = 0 := hv ▸ (State.rd_wr _ _ _ _ _ _ _ _ hstateHops).trans hstate
  have hvdelay : v.rd E.linkDelay i = s.rd E.linkDelay i := hv ▸ State.rd_wr _ _ _ _ _ _ _ _ hdelayHops
  have hfirst : firstSync s i seq hops = { (v.wr E.syncSrc i) with ring := { v.ring with syncSeq := some seq, syncAt := v.tick, good := 0, steps := 0 } }.wr E.rtState 1 :=
    hv ▸ rfl
  rw [if_pos (by simp [hvroot]), followSync]
  rw [if_pos hvsrc, consumeSync]
  dsimp only
  have hwstate : (v.wr E.syncSrc i).rdN E.rtState = 0 := by
    rw [State.rdN_wr _ _ _ _ _ _ _ _ (by decide), State.rdN, hvstate]
    rfl
  have hwdelay : (v.wr E.syncSrc i).rd E.linkDelay i = s.rd E.linkDelay i := (State.rd_wr _ _ _ _ _ _ _ _ hdelaySrc).trans hvdelay
  rw [hwdelay, hfirst]
  exact if_pos hwstate

theorem firstSync_leaves (i : RingId) {seq hops : Nat} (hhops : hops < 65536) (hu : u = firstSync s i seq hops) :
    u.rd E.syncSrc = i.val ∧ u.rd E.rtState = 1 ∧ u.rd E.hopsToRoot i = hops ∧ u.ring.syncSeq = some seq ∧ u.faultQ = s.faultQ ∧
      u.sent = s.sent ∧ SameBut s u [rowKey E.syncSrc 0 0, rowKey E.rtState 0 0, rowKey E.hopsToRoot i 0] := by
  obtain ⟨hsrcHops, hstateHops, -, -, -, -⟩ := syncKeys_apart i
  subst hu
  generalize hv : s.setLane i { s.lane i with syncAt := some s.tick } = v
  have hsame : SameBut s v [rowKey E.syncSrc 0 0, rowKey E.rtState 0 0, rowKey E.hopsToRoot i 0] :=
    hv ▸ ⟨fun _ _ _ _ => rfl, fun _ => rfl⟩
  have hrest : v.faultQ = s.faultQ ∧ v.sent = s.sent := hv ▸ ⟨rfl, rfl⟩
  generalize hw : ((v.wr E.hopsToRoot (min hops 0xFFFF : Nat) i).wr E.syncSrc i).wr E.rtState 1 = w
  have hrd (r : Row) (j k : Nat) : (firstSync s i seq hops).rd r j k = w.rd r j k := by
    rw [← hw, ← hv]
    rfl
  have hwsame : SameBut s w [rowKey E.syncSrc 0 0, rowKey E.rtState 0 0, rowKey E.hopsToRoot i 0] :=
    hw ▸ ((hsame.wr (by simp) _).wr (by simp) _).wr (by simp) _
  refine ⟨?_, ?_, ?_, rfl, ?_, ?_, fun r j k hk => (hrd r j k).trans (hwsame.1 r j k hk), fun a => ?_⟩
  · rw [hrd, ← hw, State.rd_wr _ _ _ _ _ _ _ _ (by decide), State.rd_wr_same]
  · rw [hrd, ← hw, State.rd_wr_same]
  · rw [hrd, ← hw, State.rd_wr _ _ _ _ _ _ _ _ hstateHops.symm, State.rd_wr _ _ _ _ _ _ _ _ hsrcHops.symm, State.rd_wr_same,
      Nat.min_eq_left (by omega)]
  · exact hrest.1 ▸ hv ▸ rfl
  · exact hrest.2 ▸ hv ▸ rfl
  · exact hwsame.2 a ▸ hw ▸ hv ▸ rfl

theorem ringTimeBase : Obligations.RingTimeBase := by
  unfold Obligations.RingTimeBase
  refine ⟨fun s h => ⟨_, exec_delayReqSend s, delayReqSendAct_leaves h rfl⟩,
    fun i src seq t2 s h hup => ⟨_, exec_delayReqReceive s i src seq t2, ?_⟩,
    fun i s seq t1 t2 t3 t4 d hon hup hheard hreq hdelays hd => ⟨_, exec_delayRespReceive s i seq t2 t3 t4,
      delayRespAct_leaves hon hup hheard hreq hdelays hd rfl⟩,
    fun s h hroot hassigned => ⟨_, exec_syncSend s, syncSendAct_leaves h hroot hassigned rfl⟩,
    fun s hroot => by simp [exec_syncSend, syncSendAct, hroot],
    fun i src seq hops origin ti corr s hon hup hroot hsrc hnone hstate hhops => ⟨_, exec_syncReceive s i src seq hops origin corr ti, ?_⟩,
    fun s => ⟨fun h => ⟨_, exec_syncLost s, syncLostAct_leaves h rfl⟩, fun h => ?_⟩⟩
  · fin_cases i
    · exact delayReqAct_leaves h 0 1 rfl seq t2 hup rfl
    · exact delayReqAct_leaves h 1 0 rfl seq t2 hup rfl
  · obtain ⟨-, -, -, -, hhopsOfs, hhopsRate⟩ := syncKeys_apart i
    rw [syncReceiveAct_first i hon hup hroot hsrc hnone hstate]
    obtain ⟨hfsrc, hfstate, hfhops, hfseq, hffault, hfsent, hfsame⟩ := firstSync_leaves (s := s) i (seq := seq) hhops rfl
    generalize firstSync s i seq hops = v at *
    generalize wrap56 (origin + corr + s.rd E.linkDelay i) = rti at *
    obtain ⟨hti, hrti, hseq, hfault, hsent, hsame⟩ := applySync_leaves v ti rti [(ti, rti)] rfl
    generalize applySync v ti rti [(ti, rti)] = u at *
    refine ⟨?_, ?_, ?_, hti, hrti, hseq.trans hfseq, hfault.trans hffault, hsent.trans hfsent, (hfsame.trans hsame).mono (by simp)⟩
    · rw [hsame.1 _ _ _ (by decide), hfsrc]
    · rw [hsame.1 _ _ _ (by decide), hfstate]
    · rw [hsame.1 _ _ _ (by simp [hhopsOfs, hhopsRate]), hfhops]
  · have hcond : ¬ (s.rdN E.rtState = 1 ∨ s.rdN E.rtState = 2) := by
      simp only [State.rdN]
      omega
    rw [exec_syncLost, syncLostAct, if_neg hcond]

end Sys2Proof.Machine
end

section
/-!
CERTIFICATE. The CAN FD port: USDO, NMT, heartbeat and the error states (R437 to R440, R447).
-/
namespace Sys2Proof.Machine

variable {s t u : State} {key : Nat}

theorem exec_usdoUpload (s : State) (node index sub len : Nat) : exec (.usdoUpload node index sub len) s =
    .next (usdoGate s node (uploadAct (index % 65536 * 256 + sub % 256) len)) := rfl
theorem exec_usdoDownload (s : State) (node index sub : Nat) (b : Bool) (data : List Byte) : exec (.usdoDownload node index sub b data) s =
    .next (usdoGate s node (downloadAct (index % 65536 * 256 + sub % 256) b data)) := rfl
theorem exec_heartbeat (s : State) : exec .heartbeat s = .next (heartbeatAct s) := rfl
theorem exec_nmtStart (s : State) : exec .nmtStart s = .next (nmtSet s 0x05) := rfl
theorem exec_nmtStop (s : State) : exec .nmtStop s = .next (nmtSet s 0x04) := rfl
theorem exec_nmtEnterPreOperational (s : State) : exec .nmtEnterPreOperational s = .next (nmtSet s 0x7F) := rfl
theorem exec_nmtResetNode (s : State) : exec .nmtResetNode s = .next (nmtReset s) := rfl
theorem exec_nmtResetCommunication (s : State) : exec .nmtResetCommunication s = .next (nmtReset s) := rfl
theorem exec_canBusError (s : State) (tec rec : Nat) : exec (.canBusError tec rec) s = .next (busErrorAct tec rec s) := rfl
theorem exec_busOffRecovery (s : State) : exec .busOffRecovery s = .next (recoveryAct s) := rfl

/-! ### USDO -/

theorem usdoGate_own (hup : portUp s .canFd = true) (hreset : inReset s = false) (act : State → State) :
    usdoGate s s.can.node act = act s := by
  simp [usdoGate, hup, hreset]

theorem usdoGate_other {node : Nat} (h : node ≠ s.can.node) (act : State → State) : usdoGate s node act = s := by
  simp [usdoGate, h]

/-- The answer of an entry that is no block. -/
theorem usdoEnd_plain (h : isBlockKey key = false) (s : State) (code : Nat) (l : List Byte) :
    usdoEnd s key code l = s.answer .canFd code l := by
  simp [usdoEnd, h]

/-- A read of an entry that is no block, least significant byte first. -/
theorem uploadAct_plain {len : Nat} {l : List Byte} (hblock : isBlockKey key = false) (hsummary : key ≠ E.summary.k0)
    (hread : dictRead s key (s.rdN E.canDomOfs) len = (okCode, l)) :
    uploadAct key len s = (afterRead s key).answer .canFd okCode l.reverse := by
  have hport : portRead s .canFd key (s.rdN E.canDomOfs) len = (okCode, l, afterRead s key) := by
    unfold portRead
    rw [if_neg hsummary]
    dsimp only
    rw [hread]
  unfold uploadAct
  dsimp only
  rw [hport, usdoEnd_plain hblock, canOrder, if_neg (by simp [hblock])]

theorem uploadAct_leaves {len : Nat} {l : List Byte} (hblock : isBlockKey key = false) (hsummary : key ≠ E.summary.k0)
    (hread : dictRead s key (s.rdN E.canDomOfs) len = (okCode, l)) (hu : u = uploadAct key len s) :
    u.sent = .answer .canFd okCode l.reverse :: s.sent ∧ u.faultQ = s.faultQ ∧ SameBut s u [] := by
  rw [uploadAct_plain hblock hsummary hread] at hu
  obtain ⟨n, hn⟩ := afterRead_eq s key
  rw [hn] at hu
  subst hu
  exact ⟨by simp, by simp, SameBut.answer (t := { s with fresh := n }) ⟨fun _ _ _ _ => rfl, fun _ => rfl⟩ _ _ _⟩

theorem downloadAct_plain {data : List Byte} {code : Nat} (hblock : isBlockKey key = false) (hcode : code ≠ laterCode)
    (hwrite : anyWrite key (s.rdN E.canDomOfs) data.reverse (some .canFd) s = (code, t)) :
    downloadAct key true data s = t.answer .canFd code := by
  have horder : canOrder key (usdoBytes true data) = data.reverse := by simp [canOrder, hblock, usdoBytes]
  unfold downloadAct
  rw [horder]
  dsimp only
  rw [hwrite]
  dsimp only
  rw [if_neg hcode, usdoEnd_plain hblock]

/-! ### NMT and the error states -/

theorem nmtSet_on (hon : canOn s = true) (k : Nat) : nmtSet s k = s.wr E.canNmt k := if_pos hon

theorem nmtReset_leaves (hon : canOn s = true) (hen : s.rd E.canEn ≠ 0) (hwire : wire s 13 = false) (hu : u = nmtReset s) :
    u.rd E.canNmt = 0x7F ∧ u.can.node = s.rdN E.canNodeId ∧ u.can.status = 1 ∧
      u.sent = .canFrame (0x700 + s.rdN E.canNodeId) [0] :: s.sent ∧ u.faultQ = s.faultQ ∧
      SameBut s u [rowKey E.canNmt 0 0, rowKey E.canTec 0 0, rowKey E.canRec 0 0] := by
  rw [nmtReset, if_pos hon, canStart, if_neg (by simp [hen, hwire])] at hu
  subst hu
  have hsame : SameBut s (((s.wr E.canNmt 0x7F).wr E.canTec 0).wr E.canRec 0)
      [rowKey E.canNmt 0 0, rowKey E.canTec 0 0, rowKey E.canRec 0 0] :=
    (((SameBut.refl s _).wr (by simp) _).wr (by simp) _).wr (by simp) _
  have hnmt : (((s.wr E.canNmt 0x7F).wr E.canTec 0).wr E.canRec 0).rd E.canNmt = 0x7F := by
    rw [State.rd_wr _ _ _ _ _ _ _ _ (by decide), State.rd_wr _ _ _ _ _ _ _ _ (by decide), State.rd_wr_same]
  exact ⟨hnmt, rfl, rfl, rfl, rfl, hsame⟩

theorem heartbeatAct_on (hon : canOn s = true) (htime : s.rd E.canHbTime ≠ 0) :
    heartbeatAct s = s.emit (.canFrame (0x700 + s.can.node) (toBytes 1 (s.rdN E.canNmt))) := by
  simp [heartbeatAct, hon, htime]

/-- The error counters and the state that they give. -/
theorem errorCounts_leaves (k : Nat) (tec rec : Int)
    (hu : u = (({ s with can := { s.can with status := k } } : State).wr E.canTec tec).wr E.canRec rec) :
    u.rd E.canTec = tec ∧ u.rd E.canRec = rec ∧ u.can.status = k ∧ u.faultQ = s.faultQ ∧ u.sent = s.sent ∧
      SameBut s u [rowKey E.canTec 0 0, rowKey E.canRec 0 0] := by
  have hsame : SameBut s ((s.wr E.canTec tec).wr E.canRec rec) [rowKey E.canTec 0 0, rowKey E.canRec 0 0] :=
    ((SameBut.refl s _).wr (by simp) _).wr (by simp) _
  have htec : ((s.wr E.canTec tec).wr E.canRec rec).rd E.canTec = tec := by
    rw [State.rd_wr _ _ _ _ _ _ _ _ (by decide), State.rd_wr_same]
  subst hu
  exact ⟨htec, by simp, rfl, rfl, rfl, hsame⟩

theorem busErrorAct_leaves {tec rec : Nat} (hon : canOn s = true) (htec : tec ≤ 255) (hrec : rec ≤ 255) (hu : u = busErrorAct tec rec s) :
    u.rd E.canTec = tec ∧ u.rd E.canRec = rec ∧ u.can.status = (if 128 ≤ tec ∨ 128 ≤ rec then 2 else 1) ∧ u.faultQ = s.faultQ ∧
      u.sent = s.sent ∧ SameBut s u [rowKey E.canTec 0 0, rowKey E.canRec 0 0] := by
  rw [busErrorAct, if_pos hon, canState, if_neg (by omega), Nat.min_eq_left htec, Nat.min_eq_left hrec] at hu
  exact errorCounts_leaves _ _ _ hu

theorem recoveryAct_leaves (hon : s.domOn 1 = true) (hoff : s.can.status = 3) (hu : u = recoveryAct s) : u.can.status = 1 ∧
    u.sent = s.sent ∧ u.faultQ = s.faultQ ∧ SameBut s u [rowKey E.canTec 0 0, rowKey E.canRec 0 0] := by
  rw [recoveryAct, if_pos (by simp [hon, hoff])] at hu
  obtain ⟨-, -, hstatus, hfault, hsent, hsame⟩ := errorCounts_leaves _ _ _ hu
  exact ⟨hstatus, hsent, hfault, hsame⟩

theorem canServes : Obligations.CanServes := by
  unfold Obligations.CanServes
  refine ⟨fun index sub s key hup hreset hkey hblock => ⟨fun len l hsummary hread => ⟨_, exec_usdoUpload .., ?_⟩,
      fun data code t hcode hwrite => ?_, fun node len hnode => ?_⟩,
    fun s hon => ⟨by rw [exec_nmtStart, nmtSet_on hon]; rfl, by rw [exec_nmtStop, nmtSet_on hon]; rfl,
      by rw [exec_nmtEnterPreOperational, nmtSet_on hon]; rfl, fun hen hwire c hc => ?_,
      fun htime => by rw [exec_heartbeat, heartbeatAct_on hon htime]; rfl,
      fun tec rec htec hrec => ⟨_, exec_canBusError s tec rec, busErrorAct_leaves hon htec hrec rfl⟩⟩,
    fun s hon hoff => ⟨_, exec_busOffRecovery s, recoveryAct_leaves hon hoff rfl⟩⟩
  · rw [usdoGate_own hup hreset, ← hkey]
    exact uploadAct_leaves hblock hsummary hread rfl
  · rw [exec_usdoDownload, usdoGate_own hup hreset, ← hkey, downloadAct_plain hblock hcode hwrite]
  · rw [exec_usdoUpload, usdoGate_other hnode]
  · simp only [List.mem_cons, List.not_mem_nil, or_false] at hc
    rcases hc with rfl | rfl
    · exact ⟨_, exec_nmtResetNode s, nmtReset_leaves hon hen hwire rfl⟩
    · exact ⟨_, exec_nmtResetCommunication s, nmtReset_leaves hon hen hwire rfl⟩

end Sys2Proof.Machine
end

section
/-!
CERTIFICATE. A write of an entry without a behaviour of its own: it takes effect, or is answered with the first check that
fails (R447 to R451).
-/
namespace Sys2Proof.Machine

variable {s : State} {p : Port} {r : Row} {data : List Byte} {v : Int}

theorem exec_configWrite (s : State) (p : Port) (index sub ofs : Nat) (data : List Byte) :
    exec (.configWrite p index sub ofs data) s =
      .next (writeOn s p (index % 65536 * 256 + sub % 256) ofs data) := rfl

/-- Entries that a write sets and does no more. -/
def plainRows : List Row := [E.eventMask, E.jobId, E.pageLines, E.startDist, E.pagePitch, E.jobTrig]

/-- Entries of the device that read only. -/
def statusRows : List Row := [E.resetCause, E.eventSeq, E.configCrc, E.armCheck]

/-- The first keys of the entries whose write has a behaviour of its own. -/
def ownKeys : List Nat := (entryActs E.eventMask 0 0 none false).map Prod.fst

theorem entryActs_keys (r : Row) (i : Nat) (v : Int) (port : Option Port) (lax : Bool) :
    (entryActs r i v port lax).map Prod.fst = ownKeys := by
  simp only [ownKeys, entryActs, List.map_cons, List.map_nil]

/-- What the key of such an entry is: one of the device's or the job's, of unit 0 alone, held by no table. -/
structure DeviceRow (r : Row) : Prop where
  low : 0x200000 ≤ r.k0 ∧ r.k0 < 0x202000
  named : rowOf r.k0 = some (r, 0, 0)
  scalar : isDomain r = false
  own : r.k0 ∉ ownKeys
  table : tableRow r = none
  held : heldRows.contains r.k0 = false
  unit : ∀ s, unitExists s r 0 0 = true

set_option maxRecDepth 4000 in
theorem plainRows_device : ∀ r ∈ plainRows, DeviceRow r := by
  simp only [plainRows, List.forall_mem_cons, List.not_mem_nil, false_imp_iff, implies_true, and_true]
  refine ⟨?_, ?_, ?_, ?_, ?_, ?_⟩ <;>
    exact ⟨by decide, rfl, by decide, by decide, by decide, by decide, fun _ => rfl⟩

set_option maxRecDepth 4000 in
theorem statusRows_device : ∀ r ∈ statusRows, DeviceRow r := by
  simp only [statusRows, List.forall_mem_cons, List.not_mem_nil, false_imp_iff, implies_true, and_true]
  refine ⟨?_, ?_, ?_, ?_⟩ <;>
    exact ⟨by decide, rfl, by decide, by decide, by decide, by decide, fun _ => rfl⟩

theorem plainRows_acc : ∀ r ∈ plainRows, accOf r 0 ≠ .ro := by decide

theorem statusRows_acc : ∀ r ∈ statusRows, accOf r 0 = .ro := by decide

/-- The key of a window or port access names the entry. -/
theorem DeviceRow.key (h : DeviceRow r) : r.k0 / 256 % 65536 * 256 + r.k0 % 256 % 256 = r.k0 := by
  have := h.low
  omega

theorem rowKey_unit0 (r : Row) : rowKey r 0 0 = r.k0 := rfl

theorem DeviceRow.not_own (h : DeviceRow r) {k : Nat} (hk : k ∈ ownKeys) : r.k0 ≠ k := fun heq => h.own (heq ▸ hk)

theorem DeviceRow.noTarget (h : DeviceRow r) : targetOf r 0 = noTarget := by
  have := h.low
  simp only [targetOf]
  rw [if_neg (by omega), if_neg (by omega), if_neg (by omega), if_neg (by omega), if_neg (by omega)]

theorem DeviceRow.sectionSub (h : DeviceRow r) : sectionSub r = 0 :=
  if_neg fun hsec => absurd h.low.2 (Nat.not_lt.mpr (Nat.le_trans (by decide) hsec.1))

theorem DeviceRow.powered (h : DeviceRow r) : domainOfKey r.k0 = 0 := by
  have := h.low
  simp only [domainOfKey]
  repeat rw [if_neg (by omega)]

theorem DeviceRow.not_persona (h : DeviceRow r) : personaKey r.k0 = none :=
  if_neg fun hper => absurd h.low.2 (Nat.not_lt.mpr (Nat.le_trans (by decide) hper.1))

theorem DeviceRow.not_shadow (h : DeviceRow r) (s : State) : shadowEntry s r.k0 = none :=
  if_pos (.inl (Nat.lt_trans h.low.2 (by decide)))

theorem DeviceRow.not_discarded (h : DeviceRow r) (hlive : s.superseded Machine.noTarget = false) :
    writeDiscarded s r 0 v = false := by
  have hcommand := h.not_own (k := E.command.k0) (by decide)
  have hstart := h.not_own (k := E.start.k0) (by decide)
  have hpause := h.not_own (k := E.pause.k0) (by decide)
  rw [writeDiscarded, if_neg hcommand, if_neg (fun hs => hstart hs.1), if_neg (fun hs => hpause hs.1), h.noTarget, hlive]

/-- A write of such an entry is the checks of R449 with the length, then the value. -/
theorem DeviceRow.entryWrite (h : DeviceRow r) (hlive : s.superseded Machine.noTarget = false) :
    entryWrite r 0 0 0 data (some p) false s =
      if data.length ≠ tyBytes r.ty then (lengthCode s r 0 0, s)
      else writeCode s false r 0 0 (bytesValue r data) fun s => (okCode, s.wr r (bytesValue r data)) := by
  have hact (v : Int) : scalarAct r 0 0 v (some p) false = fun s => (okCode, s.wr r v) := by
    funext s
    have hfind : (entryActs r 0 v (some p) false).find? (fun x => x.1 == r.k0) = none := by
      refine List.find?_eq_none.mpr fun x hx heq => h.own ?_
      rw [← entryActs_keys r 0 v (some p) false, ← beq_iff_eq.mp heq]
      exact List.mem_map_of_mem hx
    rw [scalarAct, hfind]
    dsimp only
    rw [h.table, h.held]
    rfl
  unfold Machine.entryWrite
  rw [h.scalar]
  dsimp only
  rw [if_neg (not_not.mpr h.sectionSub), if_neg Bool.false_ne_true, if_neg Bool.false_ne_true, h.not_discarded hlive,
    if_neg Bool.false_ne_true, hact]
  by_cases hlen : data.length = tyBytes r.ty <;> simp [lengthBad, h.scalar, hlen]

/-- CONFIG_WRITE of such an entry. -/
theorem DeviceRow.exec (h : DeviceRow r) (hup : portUp s p = true) (hlive : s.superseded Machine.noTarget = false) :
    exec (.configWrite p (r.k0 / 256) (r.k0 % 256) 0 data) s =
      .next (if data.length ≠ tyBytes r.ty then s.reply p (lengthCode s r 0 0)
        else writeIf s p false r 0 0 (bytesValue r data) fun s => (okCode, s.wr r (bytesValue r data))) := by
  have hwrite : anyWrite r.k0 0 data (some p) s = Machine.entryWrite r 0 0 0 data (some p) false s := by
    rw [anyWrite, h.not_shadow, dictWrite, h.not_persona, h.named]
    rfl
  rw [exec_configWrite, h.key, writeOn, hwrite, h.entryWrite hlive, hup, writeIf, hup]
  by_cases hlen : data.length = tyBytes r.ty <;> simp [hlen]

/-- What R449 looks at before the value of such an entry: whether it may be written at all, then the device state. -/
theorem DeviceRow.checkEntry (h : DeviceRow r) :
    checkEntry s r 0 0 = if accOf r 0 = .ro then some codeWriteRo
      else if stateRefuses s r 0 0 then some codeState else none := by
  have hon : s.domOn 0 = true := rfl
  rw [Machine.checkEntry, h.unit, rowKey_unit0, h.powered, hon]
  rfl

theorem lengthCode_of_refused {code : Nat} (h : checkEntry s r 0 0 = some code) : lengthCode s r 0 0 = code := by
  rw [lengthCode, h]

theorem checkWrite_of_refused {code : Nat} (h : checkEntry s r 0 0 = some code) :
    checkWrite s r 0 0 v = some code := by
  rw [checkWrite, h]

/-- Where R449 refuses the entry itself, the code answers whatever the bytes. -/
theorem DeviceRow.exec_refused {code : Nat} (h : DeviceRow r) (hup : portUp s p = true)
    (hlive : s.superseded Machine.noTarget = false) (hrefused : Machine.checkEntry s r 0 0 = some code)
    (hcode : code ≠ laterCode) :
    Machine.exec (.configWrite p (r.k0 / 256) (r.k0 % 256) 0 data) s = .next (s.answer p code) := by
  rw [h.exec hup hlive, lengthCode_of_refused hrefused, writeIf_refused hup rfl (checkWrite_of_refused hrefused), ite_id,
    reply_of_ne hcode]

theorem DeviceRow.checkEntry_boot (h : DeviceRow r) (hacc : accOf r 0 ≠ .ro) (hboot : s.dev = .boot) :
    Machine.checkEntry s r 0 0 = some codeState := by
  have hserved : servedInBoot r.k0 = false := by
    have := h.low
    simp only [servedInBoot, Bool.or_eq_false_iff, Bool.and_eq_false_iff, decide_eq_false_iff_not, beq_eq_false_iff_ne]
    omega
  have hcommand : (r.k0 != E.command.k0) = true := bne_iff_ne.mpr (h.not_own (by decide))
  have hrefuses : stateRefuses s r 0 0 = true := by
    rw [stateRefuses, rowKey_unit0, hboot, hserved, hcommand]
    rfl
  rw [h.checkEntry, if_neg hacc, if_pos hrefuses]

theorem lengthCode_of_passed (h : DeviceRow r) (hpass : checkEntry s r 0 0 = none) : lengthCode s r 0 0 = codeLength := by
  have hcommand : (r.k0 == E.command.k0) = false := beq_eq_false_iff_ne.mpr (h.not_own (by decide))
  rw [lengthCode, hpass, hcommand, Bool.and_false]
  rfl

/-- Settles O41. -/
theorem dictionaryWritesAreChecked : Obligations.DictionaryWritesAreChecked := by
  unfold Obligations.DictionaryWritesAreChecked
  intro p data s hup hlive
  refine ⟨fun r hr => ?_, fun r hr => ?_, fun index sub ofs key hkey hpersona hrow hshadow => ?_⟩
  · have h := plainRows_device r hr
    have hacc : accOf r 0 ≠ .ro := plainRows_acc r hr
    refine ⟨fun v hcheck hlen hv => ?_, fun hpass hlen => ?_, fun v hpass hrange hlen hv => ?_, fun hboot => ?_⟩
    · subst hv
      rw [Gives, h.exec hup hlive, if_neg (not_not.mpr hlen)]
      obtain ⟨b, hb⟩ := writeIf_accepted (act := fun s => (okCode, s.wr r (bytesValue r data)))
        (show Accepted s p false r 0 0 (bytesValue r data) from ⟨hup, rfl, hcheck⟩)
      rw [reply_ok] at hb
      exact ⟨_, rfl, b, hb⟩
    · rw [h.exec hup hlive, if_pos hlen, lengthCode_of_passed h hpass, reply_of_ne (by decide)]
    · subst hv
      have hcheck : checkWrite s r 0 0 (bytesValue r data) = some codeRange := by
        rw [checkWrite, hpass, hrange]
        rfl
      rw [h.exec hup hlive, if_neg (not_not.mpr hlen), writeIf_refused hup rfl hcheck, reply_of_ne codeRange_ne_laterCode]
    · exact h.exec_refused hup hlive (h.checkEntry_boot hacc hboot) codeState_ne_laterCode
  · have h := statusRows_device r hr
    have hacc : accOf r 0 = .ro := statusRows_acc r hr
    exact h.exec_refused hup hlive (by rw [h.checkEntry, if_pos hacc]) (by decide)
  · have hwrite : anyWrite key ofs data (some p) s = (codeNoObject, s) := by
      rw [anyWrite, hshadow, dictWrite, hpersona, hrow]
      rfl
    rw [exec_configWrite, ← hkey, writeOn, hwrite, hup, ← reply_of_ne (by decide)]
    rfl

end Sys2Proof.Machine
end

section
/-!
CERTIFICATE. SUMMARY and its snapshots, and the window of the local host port (R455, R456, R485, R486).
-/
namespace Sys2Proof.Machine

variable {s : State} {p : Port}

/-! ### SUMMARY -/

theorem length_bitmap (n : Nat) (f : Nat → Bool) : (bitmap n f).length = n := length_toBytes _ _

/-- Bytes of one value of each unit: as many for every unit. -/
theorem length_flatMap_const {α : Type} {f : α → List Byte} {k : Nat} (hf : ∀ x, (f x).length = k) (l : List α) :
    (l.flatMap f).length = l.length * k := by
  rw [List.length_flatMap, List.map_congr_left fun x _ => hf x, List.map_const', List.sum_replicate, smul_eq_mul]

theorem length_summaryHead (s : State) : (summaryHead s).length = 144 := by
  unfold summaryHead
  simp only [List.length_append, length_toBytes, length_bitmap, List.length_replicate]

theorem length_summaryTail (s : State) : (summaryTail s).length = 876 := by
  unfold summaryTail
  simp only [List.length_append, length_toBytes, length_bitmap, List.length_replicate, List.length_range,
    length_flatMap_const (fun _ => length_toBytes _ _), List.length_cons, List.length_nil]

theorem summaryBytes_eq (s : State) :
    summaryBytes s = (summaryHead s ++ summaryTail s) ++ toBytes 4 (crc32c (summaryHead s ++ summaryTail s)) := rfl

theorem length_summaryBody (s : State) : (summaryHead s ++ summaryTail s).length = 1020 := by
  rw [List.length_append, length_summaryHead, length_summaryTail]

theorem length_summaryBytes (s : State) : (summaryBytes s).length = 1024 := by
  rw [summaryBytes_eq, List.length_append, length_summaryBody, length_toBytes]

theorem summaryHead_first (s : State) : ∃ l, summaryHead s = 1 :: BitVec.ofNat 8 (devCode s.dev) :: l := by
  unfold summaryHead
  simp only [List.append_assoc]
  exact ⟨_, rfl⟩

theorem summaryBytes_form (s : State) :
    (summaryBytes s).length = 1024 ∧ (summaryBytes s).take 2 = [1, BitVec.ofNat 8 (devCode s.dev)] ∧
      (summaryBytes s).drop 1020 = toBytes 4 (crc32c ((summaryBytes s).take 1020)) := by
  have hbody := length_summaryBody s
  obtain ⟨l, hhead⟩ := summaryHead_first s
  refine ⟨length_summaryBytes s, ?_, ?_⟩
  · rw [summaryBytes_eq, hhead]
    rfl
  · rw [summaryBytes_eq, List.drop_left' hbody, List.take_left' hbody]

/-- A read within a block gives its bytes (R453). -/
theorem partOf_within {l : List Byte} {ofs : Nat} (h : ofs < l.length) (n : Nat) :
    partOf l ofs n = (okCode, (l.drop ofs).take n) := if_neg (Nat.not_le.mpr h)

theorem exec_summaryRead (s : State) (p : Port) (ofs n : Nat) :
    exec (.summaryRead p ofs n) s = .next (readOn s p E.summary.k0 ofs n) := rfl

/-- A read of SUMMARY within the snapshot of the port. -/
theorem exec_summaryRead_of_snapshot {l : List Byte} {t : State} {ofs n : Nat} (hup : portUp s p = true)
    (hreset : inReset s = false) (hsnap : summarySnapshot s p ofs = (l, t)) (hofs : ofs < l.length) :
    exec (.summaryRead p ofs n) s = .next (t.answer p okCode ((l.drop ofs).take n)) := by
  rw [exec_summaryRead, readOn, hup, hreset, portRead, if_pos rfl]
  dsimp only
  rw [hsnap]
  dsimp only
  rw [partOf_within hofs]
  rfl

/-! ### Registers of the window -/

/-- The window takes an access of the port that is up, outside a reset, while none runs (R456). -/
structure WindowFree (s : State) : Prop where
  up : portUp s .lhp = true
  noReset : inReset s = false
  idle : s.lhp.busy = false

theorem WindowFree.gate (h : WindowFree s) (act : State → State) : lhpGate s act = act s := by
  rw [lhpGate, h.up, h.noReset, h.idle]
  rfl

theorem lhpGate_busy (hup : portUp s .lhp = true) (hreset : inReset s = false) (hbusy : s.lhp.busy = true)
    (act : State → State) : lhpGate s act = { s with lhp := { s.lhp with overrun := true } } := by
  rw [lhpGate, hup, hreset, hbusy]
  rfl

theorem exec_lhpRegisterWrite (s : State) (reg : Fin 16) (v : Nat) :
    exec (.lhpRegisterWrite reg v) s = .next (lhpGate s (lhpRegisterAct reg (v % 65536))) := rfl
theorem exec_lhpRead (s : State) (cmd : Nat) : exec (.lhpRead cmd) s = .next (lhpGate s (lhpReadAct cmd)) := rfl
theorem exec_lhpWrite (s : State) (cmd : Nat) : exec (.lhpWrite cmd) s = .next (lhpGate s (lhpWriteAct cmd)) := rfl

/-- A write of LHP_CMD starts the access of its code (R455). -/
theorem WindowFree.exec_command (h : WindowFree s) {v : Nat} (hv : v < 65536) :
    exec (.lhpRegisterWrite 7 v) s =
      if v % 16 = 1 then exec (.lhpRead v) s else if v % 16 = 2 then exec (.lhpWrite v) s
      else .next { s with lhp := { s.lhp with cmd := v, overrun := false } } := by
  have hstart : lhpStart v s = { s with lhp := { s.lhp with cmd := v, overrun := false } } := by
    rw [lhpStart, Nat.mod_eq_of_lt hv]
  have hact : lhpRegisterAct (7 : Fin 16) v s =
    if v % 16 = 1 then lhpReadAct v s else if v % 16 = 2 then lhpWriteAct v s else lhpStart v s := rfl
  rw [exec_lhpRegisterWrite, exec_lhpRead, exec_lhpWrite, h.gate, h.gate, h.gate, Nat.mod_eq_of_lt hv, hact, hstart]
  split
  · rfl
  · split <;> rfl

/-- The registers that show the outcome, and the reserved ones, take nothing (R455). -/
theorem lhpRegisterAct_outcome {reg : Nat} (h : 8 ≤ reg) (v : Nat) : lhpRegisterAct reg v s = s := by
  obtain ⟨n, rfl⟩ := Nat.exists_eq_add_of_le' h
  rfl

/-! ### Values of the window -/

theorem ofBytes_zeros (n : Nat) (l : List Byte) : ofBytes (List.replicate n 0 ++ l) = ofBytes l := by
  induction n with
  | zero => rfl
  | succ n ih => rw [List.replicate_succ, List.cons_append, ofBytes_cons, ih, show (0 : Byte).toNat = 0 from rfl, Nat.zero_mul,
      Nat.zero_add]

/-- The three value registers spell the six bytes. -/
theorem setLhpBytes_value (x : LhpSt) {l : List Byte} (h : l.length = 6) :
    (setLhpBytes x l).data2 * 2 ^ 32 + (setLhpBytes x l).data1 * 2 ^ 16 + (setLhpBytes x l).data0 = ofBytes l := by
  obtain ⟨a, b, c, d, e, f, rfl⟩ : ∃ a b c d e f, l = [a, b, c, d, e, f] := by
    match l, h with
    | [a, b, c, d, e, f], _ => exact ⟨a, b, c, d, e, f, rfl⟩
  simp only [setLhpBytes, ofBytes, List.take, List.drop, List.foldl]
  omega

/-- A value of an unsigned type stands right-aligned in the window (R456). -/
theorem lhpValue_unsigned {key : Nat} {r : Row} {i j : Nat} {l : List Byte} (hblock : isBlockKey key = false)
    (hrow : rowOf key = some (r, i, j)) (hsigned : tySigned r.ty = false) (hlen : l.length ≤ 6) :
    lhpValue key l = List.replicate (6 - l.length) 0 ++ l := by
  rw [lhpValue, hblock, hrow]
  dsimp only
  rw [hsigned, Nat.sub_eq_zero_of_le hlen]
  rfl

theorem lhpFinish_leaves (t : State) (code moved : Nat) (l : List Byte) {u : State} (hu : u = lhpFinish t code moved l) :
    u.lhp.data2 = t.lhp.data2 ∧ u.lhp.data1 = t.lhp.data1 ∧ u.lhp.data0 = t.lhp.data0 ∧ u.lhp.code = code ∧
      u.lhp.busy = false ∧ u.lhp.overrun = t.lhp.overrun ∧ u.sent = .answer .lhp code l :: t.sent ∧ u.dict = t.dict ∧
      u.mem = t.mem := by
  subst hu
  exact ⟨rfl, rfl, rfl, rfl, rfl, rfl, rfl, rfl, rfl⟩

theorem sameBut_of_store {s t : State} (hdict : t.dict = s.dict) (hmem : t.mem = s.mem) : SameBut s t [] := by
  refine ⟨fun r i j _ => ?_, fun a => ?_⟩
  · rw [State.rd, State.rd, hdict]
  · rw [State.byte, State.byte, hmem]

theorem WindowFree.reads (h : WindowFree s) {cmd : Nat} {key : Nat} {r : Row} {i j : Nat} {l : List Byte}
    (hkey : key = lhpKey s.lhp) (hblock : isBlockKey key = false) (hsummary : key ≠ E.summary.k0)
    (hrow : rowOf key = some (r, i, j)) (hsigned : tySigned r.ty = false) (hlen : l.length ≤ 6)
    (hread : dictRead (lhpStart cmd s) key (lhpOfs s.lhp) (bits cmd 11 8) = (okCode, l)) :
    Gives (.lhpRead cmd) s fun u => u.lhp.data2 * 2 ^ 32 + u.lhp.data1 * 2 ^ 16 + u.lhp.data0 = ofBytes l ∧
      u.lhp.code = okCode ∧ u.lhp.busy = false ∧ u.lhp.overrun = false ∧ u.sent = .answer .lhp okCode l :: s.sent ∧
      SameBut s u [] := by
  obtain ⟨fresh, hfresh⟩ := afterRead_eq (lhpStart cmd s) key
  have hact : lhpReadAct cmd s = lhpFinish
      { lhpStart cmd s with fresh := fresh, lhp := setLhpBytes (lhpStart cmd s).lhp (lhpValue key l) } okCode 0 l := by
    have hwindow : lhpKey (lhpStart cmd s).lhp = key ∧ lhpOfs (lhpStart cmd s).lhp = lhpOfs s.lhp := ⟨hkey.symm, rfl⟩
    have hport : portRead (lhpStart cmd s) .lhp key (lhpOfs s.lhp) (bits cmd 11 8) =
        (okCode, l, { lhpStart cmd s with fresh := fresh }) := by
      rw [portRead, if_neg hsummary, hread, hfresh]
    have hcount : lhpCountBad key cmd = false := by rw [lhpCountBad, hblock, Bool.false_and]
    unfold lhpReadAct
    dsimp only
    rw [hwindow.1, hwindow.2, hcount, hport, hblock]
    rfl
  have hvalue := lhpValue_unsigned hblock hrow hsigned hlen
  have hsix : (lhpValue key l).length = 6 := by
    rw [hvalue, List.length_append, List.length_replicate, Nat.sub_add_cancel hlen]
  refine ⟨_, rfl, ?_⟩
  rw [h.gate]
  generalize hu : lhpReadAct cmd s = u
  obtain ⟨h2, h1, h0, hcode, hbusy, hover, hsent, hdict, hmem⟩ := lhpFinish_leaves _ _ _ _ (hu.symm.trans hact)
  refine ⟨?_, hcode, hbusy, hover, hsent, sameBut_of_store hdict hmem⟩
  rw [h2, h1, h0, setLhpBytes_value _ hsix, hvalue, ofBytes_zeros]

theorem WindowFree.writes (h : WindowFree s) {cmd : Nat} {key : Nat} (hkey : key = lhpKey s.lhp)
    (hblock : isBlockKey key = false) {code : Nat} {t : State} (hcode : code ≠ laterCode)
    (hwrite : anyWrite key (lhpOfs s.lhp) (lhpTaken key s.lhp) (some .lhp) (lhpStart cmd s) = (code, t)) :
    Gives (.lhpWrite cmd) s fun u => u.lhp.code = code ∧ u.lhp.busy = false ∧ u.sent = .answer .lhp code [] :: t.sent ∧
      SameBut t u [] := by
  have hact : lhpWriteAct cmd s = lhpFinish t code 0 [] := by
    have hwindow : lhpKey (lhpStart cmd s).lhp = key ∧ lhpOfs (lhpStart cmd s).lhp = lhpOfs s.lhp ∧
        lhpTaken key (lhpStart cmd s).lhp = lhpTaken key s.lhp := ⟨hkey.symm, rfl, rfl⟩
    obtain ⟨hk, hofs, htaken⟩ := hwindow
    have hcount : lhpCountBad key cmd = false := by rw [lhpCountBad, hblock, Bool.false_and]
    unfold lhpWriteAct
    dsimp only
    rw [hk, hofs, hcount, hblock, htaken]
    simp only [Bool.false_eq_true, if_false, hwrite, if_neg hcode]
  refine ⟨_, rfl, ?_⟩
  rw [h.gate]
  generalize hu : lhpWriteAct cmd s = u
  obtain ⟨-, -, -, hcode, hbusy, -, hsent, hdict, hmem⟩ := lhpFinish_leaves _ _ _ _ (hu.symm.trans hact)
  exact ⟨hcode, hbusy, hsent, sameBut_of_store hdict hmem⟩

/-- Settles O42. -/
theorem portsReadTheDictionary : Obligations.PortsReadTheDictionary := by
  unfold Obligations.PortsReadTheDictionary
  refine ⟨summaryBytes_form, fun p n ofs s hup hreset hofs => ?_, fun reg v cmd s hup hreset => ⟨fun hbusy c hc => ?_,
    fun hidle => ?_⟩, fun cmd s key hup hreset hidle hkey hblock hsummary => ?_⟩
  · have hsize := length_summaryBytes s
    refine ⟨fun hring => ?_, fun hcan => ?_, fun hlhp => ?_, fun l hcan hsnap hpos hin => ?_⟩
    · have hsnap : summarySnapshot s p ofs = (summaryBytes s, s) := by
        rcases hring with rfl | rfl <;> rfl
      exact exec_summaryRead_of_snapshot hup hreset hsnap (by omega)
    · subst hcan
      exact exec_summaryRead_of_snapshot hup hreset rfl (hsize.symm ▸ by decide)
    · subst hlhp
      exact exec_summaryRead_of_snapshot hup hreset rfl (hsize.symm ▸ by decide)
    · subst hcan
      have hkept : summarySnapshot s .canFd ofs = (l, s) := by
        rw [summarySnapshot]
        dsimp only
        rw [if_neg (by omega), hsnap]
        rfl
      exact exec_summaryRead_of_snapshot hup hreset hkept hin
  · simp only [List.mem_cons, List.not_mem_nil, or_false] at hc
    rcases hc with rfl | rfl | rfl
    · rw [exec_lhpRegisterWrite, lhpGate_busy hup hreset hbusy]
    · rw [exec_lhpRead, lhpGate_busy hup hreset hbusy]
    · rw [exec_lhpWrite, lhpGate_busy hup hreset hbusy]
  · have h : WindowFree s := ⟨hup, hreset, hidle⟩
    have hreg (reg : Fin 16) (v : Nat) : exec (.lhpRegisterWrite reg v) s = .next (lhpRegisterAct reg (v % 65536) s) := by
      rw [exec_lhpRegisterWrite, h.gate]
    exact ⟨hreg 0 v, hreg 1 v, hreg 2 v, hreg 3 v, hreg 4 v, hreg 5 v, hreg 6 v, h.exec_command,
      fun hout => by rw [hreg, lhpRegisterAct_outcome hout]⟩
  · have h : WindowFree s := ⟨hup, hreset, hidle⟩
    exact ⟨fun r i j hrow l hsigned hlen hread => h.reads hkey hblock hsummary hrow hsigned hlen hread,
      fun code t hcode hwrite => h.writes hkey hblock hcode hwrite⟩

end Sys2Proof.Machine
end

section
/-!
CERTIFICATE. The COMMAND entry and ARM (R457, R466 to R468).
-/
namespace Sys2Proof.Machine

variable {s t u : State} {p : Port} {c : Nat}

/-! ### COMMAND -/

/-- COMMAND is not a stored entry (R478). -/
theorem storedEntry_command : storedEntry E.command 0 = false := storedEntry_of_acc (by decide) (by decide) 0

theorem commandWord_plain (k : Nat) : ((commandWord k 0 : Nat) : Int) = k * 2 ^ 40 := by simp [commandWord]

section
variable {late : Bool} {code arg k : Nat} {here : State → Bool} {args : List Nat} {effect : State → Nat × State}

theorem commandAct_refused (h : here s = false) : commandAct k arg here args effect s = (codeState, s) := by
  rw [commandAct, h]
  rfl

theorem commandAct_done (h : here s = true) (ha : args.contains arg = true) (he : effect s = (code, u)) :
    commandAct k arg here args effect s = (code, noteCommand (commandWord k arg) code u) := by
  rw [commandAct, h, ha, he]
  rfl

/-- A command without argument that is accepted: refused by the device state, or its effect and its answer. -/
theorem writeIf_command_refused (hacc : Accepted s p late E.command 0 0 ((commandWord k arg : Nat) : Int)) (h : here s = false) :
    writeIf s p late E.command 0 0 (commandWord k arg : Nat) (commandAct k arg here args effect) = s.answer p codeState :=
  writeIf_act_refuses hacc (commandAct_refused h) codeState_ne_laterCode

theorem writeIf_command_done (hacc : Accepted s p late E.command 0 0 ((commandWord k arg : Nat) : Int)) (h : here s = true)
    (ha : args.contains arg = true) (he : effect s = (code, u)) (hc : code ≠ laterCode) :
    writeIf s p late E.command 0 0 (commandWord k arg : Nat) (commandAct k arg here args effect) =
      (noteCommand (commandWord k arg) code u).answer p code :=
  writeIf_unstored hacc storedEntry_command (commandAct_done h ha he) hc
end

/-- A command that is refused leaves CMD_LAST and CMD_RESULT (R468). -/
theorem noteCommand_refused {v code : Nat} (h : code ≠ okCode) (h' : code ≠ codeNothing) : noteCommand v code s = s :=
  if_neg (not_or.mpr ⟨h, h'⟩)

theorem noteCommand_shown {v code : Nat} (h : code = okCode ∨ code = codeNothing) :
    noteCommand v code s = (s.wr E.cmdLast v).wr E.cmdResult code := if_pos h

theorem noteCommand_leaves {v code : Nat} (h : code = okCode ∨ code = codeNothing) (hu : u = noteCommand v code s) :
    u.rd E.cmdLast = v ∧ u.rd E.cmdResult = code ∧ SameBut s u [rowKey E.cmdLast 0 0, rowKey E.cmdResult 0 0] := by
  rw [noteCommand_shown h] at hu
  subst hu
  exact ⟨(State.rd_wr _ _ _ _ _ _ _ _ (by decide)).trans (State.rd_wr_same ..), State.rd_wr_same ..,
    ((SameBut.refl s _).wr (by simp) _).wr (by simp) _⟩

/-! ### A channel at the beginning of a job -/

/-- Nothing of an earlier job is left on the channel (R466). -/
def Chan.AtStart (x : Chan) : Prop :=
  x.page = 0 ∧ x.inPage = false ∧ x.fired = none ∧ x.locked = [] ∧ x.slots = []

/-- What preparing channel c changes: the channel, and its count of lines waited for. -/
structure Prepares (c : Nat) (s t : State) : Prop where
  start : (s.chan c).AtStart → (t.chan c).AtStart
  others : ∀ d, d ≠ c → t.chan d = s.chan d
  low : ∀ r i j, rowKey r i j < E.feedWaits.k0 → t.rd r i j = s.rd r i j
  bytes : ∀ a, t.byte a = s.byte a
  job : t.job = s.job

namespace Prepares

theorem trans (h : Prepares c s t) (h' : Prepares c t u) : Prepares c s u where
  start := h'.start ∘ h.start
  others d hd := (h'.others d hd).trans (h.others d hd)
  low r i j hk := (h'.low r i j hk).trans (h.low r i j hk)
  bytes a := (h'.bytes a).trans (h.bytes a)
  job := h'.job.trans h.job

theorem refl (c : Nat) (s : State) : Prepares c s s := ⟨id, fun _ _ => rfl, fun _ _ _ _ => rfl, fun _ => rfl, rfl⟩

theorem setChan (s : State) {x : Chan} (hx : (s.chan c).AtStart → x.AtStart) : Prepares c s (s.setChan c x) where
  start h := by
    rw [State.setChan_same]
    exact hx h
  others d hd := State.setChan_ne _ _ _ _ hd
  low _ _ _ _ := rfl
  bytes _ := rfl
  job := rfl

theorem report (c : Nat) (s : State) (src kind addr : Nat) : Prepares c s (s.report src kind addr) :=
  ⟨id, fun _ _ => rfl, fun _ _ _ _ => rfl, fun _ => rfl, rfl⟩

theorem countWaits (c : Nat) (s : State) : Prepares c s (s.count E.feedWaits c) where
  start := id
  others _ _ := rfl
  low r i j hk := by
    have hne : rowKey r i j ≠ rowKey E.feedWaits c 0 :=
      Nat.ne_of_lt (Nat.lt_of_lt_of_le hk (Nat.le_trans (Nat.le_add_right _ _) (Nat.le_add_right _ _)))
    exact State.rd_wr _ _ _ _ _ _ _ _ hne
  bytes _ := rfl
  job := rfl

theorem askLine (c : Nat) (s : State) (n : Nat) : Prepares c s (askLine s c n) := by
  have hset : Prepares c s (s.setChan c { s.chan c with asked := (s.chan c).asked ++ [n], askNext := n + 1 }) :=
    setChan s id
  unfold Machine.askLine
  dsimp only
  split
  · exact hset.trans (countWaits c _)
  · split
    · exact hset.trans (countWaits c _)
    · exact hset

theorem askUpTo (c : Nat) (s : State) (n : Nat) : Prepares c s (askUpTo s c n) := by
  unfold Machine.askUpTo
  exact foldl_preserves (P := Prepares c s) _ (fun t k h => h.trans (askLine c t _)) _ _ (refl c s)

theorem reportLanes (c : Nat) (s : State) : Prepares c s (reportLanes s c) := by
  have hdown : Prepares c s (if (s.chan c).lockEver || legacy s c then s else linkDownMsg s c (!(s.chan c).bridgeUp)) := by
    split
    · exact refl c s
    · exact report c s _ _ _
  unfold Machine.reportLanes
  dsimp only
  split
  · exact hdown
  · exact hdown.trans (report c _ _ _ _)

end Prepares

/-- A prepared channel is at the beginning, and is asked for lines then (R466). -/
theorem prepareChannel_prepares (s : State) (c : Nat) :
    ∃ x : Chan, x.AtStart ∧ Prepares c (s.setChan c x) (prepareChannel s c) := by
  refine ⟨{ s.chan c with
    page := 0, inPage := false, next := 0, pagesPassed := 0, fired := none, locked := [], lastFire := none, inOver := false,
    lateRun := 0, taking := 0, askNext := 0, asked := [], issued := [], slots := [], built := none,
    freeAt := nowStep s, cycle := none, prevCycle := none }, ⟨rfl, rfl, rfl, rfl, rfl⟩, ?_⟩
  unfold prepareChannel
  dsimp only
  split
  · exact .refl c _
  · split
    · exact .refl c _
    · exact .askUpTo c _ _

/-- What preparing channels changes beyond them: counts of lines waited for alone. -/
structure ChannelsOnly (s t : State) : Prop where
  low : ∀ r i j, rowKey r i j < E.feedWaits.k0 → t.rd r i j = s.rd r i j
  bytes : ∀ a, t.byte a = s.byte a
  job : t.job = s.job

theorem ChannelsOnly.trans (h : ChannelsOnly s t) (h' : ChannelsOnly t u) : ChannelsOnly s u :=
  ⟨fun r i j hk => (h'.low r i j hk).trans (h.low r i j hk), fun a => (h'.bytes a).trans (h.bytes a), h'.job.trans h.job⟩

theorem readyChannel_leaves (hu : u = reportLanes (prepareChannel s c) c) :
    (u.chan c).AtStart ∧ (∀ d, d ≠ c → u.chan d = s.chan d) ∧ ChannelsOnly s u := by
  subst hu
  obtain ⟨x, hx, hprep⟩ := prepareChannel_prepares s c
  have h := hprep.trans (.reportLanes c _)
  have hset : ((s.setChan c x).chan c).AtStart := by
    rw [State.setChan_same]
    exact hx
  exact ⟨h.start hset, fun d hd => (h.others d hd).trans (State.setChan_ne _ _ _ _ hd), h.low, h.bytes, h.job⟩

theorem readyChannels_leave (chs : List Nat) (s : State)
    (hu : u = chs.foldl (fun s c => reportLanes (prepareChannel s c) c) s) :
    (∀ c ∈ chs, (u.chan c).AtStart) ∧ ChannelsOnly s u := by
  have hall : ∀ (l : List Nat) (s : State), (∀ d, d ∈ l ∨ (s.chan d).AtStart →
      ((l.foldl (fun s c => reportLanes (prepareChannel s c) c) s).chan d).AtStart) ∧
      ChannelsOnly s (l.foldl (fun s c => reportLanes (prepareChannel s c) c) s) := by
    intro l
    induction l with
    | nil => exact fun s => ⟨fun d hd => hd.resolve_left List.not_mem_nil, ⟨fun _ _ _ _ => rfl, fun _ => rfl, rfl⟩⟩
    | cons c l ih =>
      intro s
      obtain ⟨hstart, hothers, honly⟩ := readyChannel_leaves (s := s) (c := c) rfl
      obtain ⟨hrest, honly'⟩ := ih (reportLanes (prepareChannel s c) c)
      refine ⟨fun d hd => hrest d ?_, honly.trans honly'⟩
      by_cases hdc : d = c
      · exact .inr (hdc ▸ hstart)
      · rw [hothers d hdc]
        exact hd.imp_left fun hmem => (List.mem_cons.mp hmem).resolve_left hdc
  subst hu
  exact ⟨fun c hc => (hall chs s).1 c (.inl hc), (hall chs s).2⟩

/-- A calibration run of the drive link that is discarded (R562). -/
theorem calDiscard_channelsOnly (s : State) : ChannelsOnly s (if (s.cal 1).running then calDiscard s 1 else s) := by
  have hdone : ChannelsOnly s (calDiscard s 1) := by
    refine ⟨fun r i j hk => ?_, fun _ => rfl, rfl⟩
    have hne : rowKey r i j ≠ rowKey E.calState 1 0 := Nat.ne_of_lt (Nat.lt_trans hk (by decide))
    have hwr : calDiscard s 1 = ((s.setCal 1 { s.cal 1 with pending := true, running := false, old := [] }).wr
        E.calState 4 1).report 0xF0 1 (calAddr 1 0xFF 0xFF) := rfl
    rw [hwr]
    exact (State.rd_wr (s.setCal 1 { s.cal 1 with pending := true, running := false, old := [] }) E.calState r 4 1 0 i j hne :)
  split
  · exact hdone
  · exact ⟨fun _ _ _ _ => rfl, fun _ => rfl, rfl⟩

theorem beginJob_leaves (chs : List Nat) (hu : u = beginJob s chs) : (∀ c ∈ chs, (u.chan c).AtStart) ∧ u.job = s.job ∧
    (∀ a, u.byte a = s.byte a) ∧ u.rd E.armCheck = 0 ∧
    ∀ r i j, rowKey r i j < E.feedWaits.k0 → rowKey r i j ≠ rowKey E.armCheck 0 0 → u.rd r i j = s.rd r i j := by
  have hstale : ∃ b, (if s.rd E.prbsSel = 0 then s else s.stale) = s.withStale b := by
    split
    · exact ⟨s.store.crcStale, rfl⟩
    · exact ⟨true, rfl⟩
  obtain ⟨b, hb⟩ := hstale
  unfold beginJob at hu
  dsimp only at hu
  rw [hb] at hu
  generalize hv : ((s.withStale b).wr E.prbsSel 0).wr E.armCheck 0 = v at hu
  obtain ⟨hshown, hjob, hbyte, hrest⟩ : v.rd E.armCheck = 0 ∧ v.job = s.job ∧ (∀ a, v.byte a = s.byte a) ∧
      ∀ r i j, rowKey r i j < E.feedWaits.k0 → rowKey r i j ≠ rowKey E.armCheck 0 0 → v.rd r i j = s.rd r i j := by
    subst hv
    refine ⟨State.rd_wr_same .., rfl, fun _ => rfl, fun r i j hk hne => ?_⟩
    have hprbs : rowKey r i j ≠ rowKey E.prbsSel 0 0 := Nat.ne_of_lt (Nat.lt_trans hk (by decide))
    rw [State.rd_wr _ _ _ _ _ _ _ _ hne, State.rd_wr _ _ _ _ _ _ _ _ hprbs]
    rfl
  obtain ⟨hstart, honly⟩ := readyChannels_leave chs _ hu
  have h := (calDiscard_channelsOnly v).trans honly
  exact ⟨hstart, h.job.trans hjob, fun a => (h.bytes a).trans (hbyte a), (h.low _ _ _ (by decide)).trans hshown,
    fun r i j hk hne => (h.low r i j hk).trans (hrest r i j hk hne)⟩

/-! ### ARM -/

theorem emptyTrigger_leaves (s : State) (n : Nat) (hu : u = emptyTrigger s n) : ∀ a, u.byte a = s.byte a := by
  subst hu
  unfold emptyTrigger
  split <;> exact fun _ => rfl

theorem enterArmed_leaves (s : State) (chs : List Nat) (hu : u = enterArmed s chs) : u.dev = .armed ∧ u.rd E.armCheck = 0 ∧
    u.rd E.jobPage = 0 ∧ u.rd E.pagesDone = 0 ∧ u.rd E.pageStart = 0 ∧ u.job = {} ∧ (∀ a, u.byte a = s.byte a) ∧
    ∀ c ∈ chs, (u.chan c).AtStart := by
  unfold enterArmed at hu
  dsimp only at hu
  have hempty := emptyTrigger_leaves s (s.rdN E.jobTrig) rfl
  generalize emptyTrigger s (s.rdN E.jobTrig) = v at hu hempty
  generalize hw : ((({ v with job := {} } : State).wr E.jobPage 0).wr E.pagesDone 0).wr E.pageStart 0 = w at hu
  obtain ⟨hpage, hdone, hpos, hjob, hbyte⟩ : w.rd E.jobPage = 0 ∧ w.rd E.pagesDone = 0 ∧ w.rd E.pageStart = 0 ∧ w.job = {} ∧
      ∀ a, w.byte a = s.byte a := by
    subst hw
    refine ⟨?_, ?_, State.rd_wr_same .., rfl, hempty⟩
    · rw [State.rd_wr _ _ _ _ _ _ _ _ (by decide), State.rd_wr _ _ _ _ _ _ _ _ (by decide)]
      exact State.rd_wr_same ..
    · rw [State.rd_wr _ _ _ _ _ _ _ _ (by decide)]
      exact State.rd_wr_same ..
  generalize hx : beginJob w chs = x at hu
  obtain ⟨hstart, hxjob, hxbyte, hcheck, hrest⟩ := beginJob_leaves chs hx.symm
  obtain ⟨hsame, hdev⟩ := setDev_same x .armed
  rw [← hu] at hsame hdev
  have hkept {r : Row} (hk : rowKey r 0 0 < E.feedWaits.k0) (hne : rowKey r 0 0 ≠ rowKey E.armCheck 0 0)
      (hevent : rowKey r 0 0 ∉ [rowKey E.eventSeq 0 0, rowKey E.txFrames 0 0, rowKey E.txFrames 1 0]) :
      u.rd r = w.rd r := (hsame.rd _ _ _ hevent).trans (hrest _ _ _ hk hne)
  refine ⟨hdev, (hsame.rd _ _ _ (by decide)).trans hcheck, (hkept (by decide) (by decide) (by decide)).trans hpage,
    (hkept (by decide) (by decide) (by decide)).trans hdone, (hkept (by decide) (by decide) (by decide)).trans hpos,
    hsame.job.trans (hxjob.trans hjob), fun a => ?_, fun c hc => ?_⟩
  · rw [State.byte, hsame.mem]
    exact (hxbyte a).trans (hbyte a)
  · rw [State.chan, hsame.chans]
    exact hstart c hc

theorem exec_arm (s : State) (p : Port) : exec (.arm p 0) s =
    .next (writeIf s p (s.startSuperseded .job) E.command 0 0 (commandWord 1 0 : Nat) (armCommand 0)) := rfl

theorem armAct_eq (s t : State) (ht : t = idleSwaps s) (k : Nat) (hk : k = armCheckOf t (enabledChs t) (t.rdN E.jobTrig)) :
    armAct s = if k ≠ 0 then (codeNotPrintable, s.wr E.armCheck k) else (okCode, enterArmed t (enabledChs t)) := by
  subst ht hk
  rfl

/-- Settles O43. -/
theorem armChecksAndArms : Obligations.ArmChecksAndArms := by
  unfold Obligations.ArmChecksAndArms
  intro p s hacc
  have hword : (0x01 * 2 ^ 40 : Int) = ((commandWord 1 0 : Nat) : Int) := (commandWord_plain 1).symm
  rw [hword] at hacc
  refine ⟨fun hdev => ?_, fun hdev t k ht hk => ?_⟩
  · rw [exec_arm, armCommand, writeIf_command_refused (here := fun s => s.dev == .ready) hacc (beq_eq_false_iff_ne.mpr hdev)]
  have hready : (s.dev == .ready) = true := beq_iff_eq.mpr hdev
  have hact := armAct_eq s t ht k hk
  refine ⟨fun hbad => ?_, fun hgood => ?_⟩
  · rw [if_pos hbad] at hact
    rw [exec_arm, armCommand, writeIf_command_done (here := fun s => s.dev == .ready) hacc hready (by decide) hact (by decide),
      noteCommand_refused (by decide) (by decide)]
  · rw [if_neg (not_not.mpr hgood)] at hact
    refine ⟨_, by rw [exec_arm, armCommand, writeIf_command_done (here := fun s => s.dev == .ready) hacc hready (by decide) hact okCode_ne_laterCode], ?_⟩
    generalize hv : enterArmed t (enabledChs t) = v
    obtain ⟨hdev, hcheck, hpage, hdone, hstart, hjob, hbyte, hchans⟩ := enterArmed_leaves t (enabledChs t) hv.symm
    generalize hw : noteCommand (commandWord 1 0) okCode v = w
    have hnoted := noteCommand_shown (v := commandWord 1 0) (s := v) (.inl rfl)
    obtain ⟨hlast, hresult, hsame⟩ := noteCommand_leaves (.inl rfl) hw.symm
    obtain ⟨hwdev, hwjob, hwchans⟩ : w.dev = v.dev ∧ w.job = v.job ∧ w.chans = v.chans := by
      subst hw
      rw [hnoted]
      exact ⟨rfl, rfl, rfl⟩
    refine ⟨hwdev.trans hdev, (hsame.1 _ _ _ (by decide)).trans hcheck, (hsame.1 _ _ _ (by decide)).trans hpage,
      (hsame.1 _ _ _ (by decide)).trans hdone, (hsame.1 _ _ _ (by decide)).trans hstart, hlast.trans (commandWord_plain 1),
      hresult, hwjob.trans hjob, rfl, fun x => (hsame.2 x).trans (hbyte x), fun c hc => ?_⟩
    have hchan : (w.answer p okCode).chan c = v.chan c := by
      rw [State.answer_chan, State.chan, hwchans]
      rfl
    rw [hchan]
    exact hchans c hc

end Sys2Proof.Machine
end

section
/-!
CERTIFICATE. START, trigger edges and page starts (R79 to R82, R457, R462).
-/
namespace Sys2Proof.Machine

variable {s t u : State} {p : Port} {c : Nat}

theorem exec_start (s : State) (p : Port) : exec (.start p 0) s =
    .next (writeIf s p (s.startSuperseded .job) E.command 0 0 (commandWord 2 0 : Nat) (startCommand 0)) := rfl
theorem exec_triggerEdge (s : State) (n : Fin 8) (rising : Bool) (t : Nat) :
    exec (.triggerEdge n rising t) s = .next (triggerAct n rising t s) := rfl
theorem exec_pageStart (s : State) (c : Ch) : exec (.pageStart c) s = .next (pageStartAct c s) := rfl

/-- A word is less than one away from the number that it delivers (log entry 7). -/
theorem roundWord_near (s : State) (x : Rat) : |((roundWord s x).1 : Rat) - x| < 1 := by
  have hlow := Int.floor_le x
  have hhigh := Int.lt_floor_add_one x
  have hfloor : x.floor = ⌊x⌋ := rfl
  unfold roundWord
  rw [hfloor]
  split
  next heq =>
    dsimp only
    rw [← heq, sub_self, abs_zero]
    exact zero_lt_one
  next hne =>
    have hlt : (⌊x⌋ : Rat) < x := lt_of_le_of_ne hlow (Ne.symm hne)
    dsimp only
    rw [abs_lt]
    split
    · push_cast
      constructor <;> linarith
    · push_cast
      constructor <;> linarith

/-! ### Enabled channels -/

/-- Whether a channel is enabled depends on the fuses, the domains, the personas and a few entries. -/
theorem enabledCh_congr (hotp : t.otp = s.otp) (hdoms : t.doms = s.doms) (hpersonas : t.personas = s.personas)
    (hrd : ∀ r ∈ [E.engEnable, E.chDisable, E.servedBy], t.rd r c = s.rd r c) (hpersona : t.rd E.persona = s.rd E.persona) :
    enabledCh t c = enabledCh s c := by
  have hfuse (w : Nat) : t.fuse w = s.fuse w := by rw [State.fuse, State.fuse, hotp]
  have hpresent : t.chPresent c = s.chPresent c := by
    rw [State.chPresent, State.chPresent, State.engPresent, State.engPresent, State.grade, State.grade, hfuse, hotp]
  have hserving : serving t c = serving s c := by
    rw [serving, serving, hpresent, State.rdN, State.rdN, hrd E.servedBy (by simp)]
  have hfinup : t.finup = s.finup := by rw [State.finup, State.finup, State.rdN, State.rdN, hpersona]
  have hserves : personaServes t c = personaServes s c := by
    simp only [personaServes, personaOn, hfinup, State.persona, hpersonas]
  have hon (d : Nat) : t.domOn d = s.domOn d := by
    rw [State.domOn, State.domOn, State.domState, State.domState, hdoms]
  rw [enabledCh, enabledCh, hpresent, hserving, hserves, hon, hrd E.engEnable (by simp), hrd E.chDisable (by simp)]

theorem startsOf_native (h : s.finup = false) (c : Nat) : startsOf s c = s.job.starts := by
  rw [startsOf, h]
  rfl

/-! ### The start of a page -/

/-- The entries that a page start shows, with those of its events. -/
def startKeys : List Nat :=
  [rowKey E.jobPage 0 0, rowKey E.pagesDone 0 0, rowKey E.pageStart 0 0, rowKey E.eventSeq 0 0, rowKey E.txFrames 0 0,
    rowKey E.txFrames 1 0]

/-- JOB_PAGE, PAGES_DONE and PAGE_START alone follow. -/
theorem updateJob_leaves (s : State) : (∃ d, updateJob s = { s with dict := d }) ∧
    SameBut s (updateJob s) [rowKey E.jobPage 0 0, rowKey E.pagesDone 0 0, rowKey E.pageStart 0 0] := by
  unfold updateJob
  dsimp only
  split
  · exact ⟨⟨s.dict, rfl⟩, .refl s _⟩
  · exact ⟨⟨_, rfl⟩, (((SameBut.refl s _).wr (by simp) _).wr (by simp) _).wr (by simp) _⟩

/-- What a page start leaves as it was. -/
structure PageWorks (s t : State) : Prop where
  trigs : t.trigs = s.trigs
  faultQ : t.faultQ = s.faultQ
  otp : t.otp = s.otp
  doms : t.doms = s.doms
  personas : t.personas = s.personas

theorem PageWorks.trans (h : PageWorks s t) (h' : PageWorks t u) : PageWorks s u :=
  ⟨h'.trigs.trans h.trigs, h'.faultQ.trans h.faultQ, h'.otp.trans h.otp, h'.doms.trans h.doms, h'.personas.trans h.personas⟩

/-- A page start that is taken is known, and the first one starts the printing (R457, R462). -/
theorem takeStart_leaves (s : State) (pos : Nat) (hbusy : s.busyJob = true) (hu : u = takeStart s pos) :
    u.dev = .printing ∧ u.job = { s.job with starts := s.job.starts ++ [pos] } ∧ u.chans = s.chans ∧ PageWorks s u ∧
      SameBut s u startKeys := by
  have hevent := maskedEvent_same { s with job := { s.job with starts := s.job.starts ++ [pos] } } 6 0x2010 7 s.job.starts.length
  unfold takeStart at hu
  dsimp only at hu
  generalize maskedEvent { s with job := { s.job with starts := s.job.starts ++ [pos] } } 6 0x2010 7 s.job.starts.length = v
    at hu hevent
  obtain ⟨hsame, hdev⟩ := hevent
  have hdev : v.dev = s.dev := hdev
  have hstate : SameExceptEvents v (if v.dev = .armed then setDev v .printing else v) ∧
      (if v.dev = .armed then setDev v .printing else v).dev = .printing := by
    split
    · exact setDev_same v .printing
    next hne =>
      refine ⟨.refl v, ?_⟩
      rw [hdev] at hne ⊢
      simpa [State.busyJob, hne] using hbusy
  generalize (if v.dev = .armed then setDev v .printing else v) = w at hu hstate
  obtain ⟨hsame', hprinting⟩ := hstate
  have hall := hsame.trans hsame'
  obtain ⟨⟨d, hd⟩, hshown⟩ := updateJob_leaves w
  rw [← hu] at hd hshown
  refine ⟨?_, ?_, ?_, ⟨?_, ?_, ?_, ?_, ?_⟩, fun r i j hk => ?_, fun a => ?_⟩
  · rw [hd]
    exact hprinting
  · rw [hd]
    exact hall.job
  · rw [hd]
    exact hall.chans
  · rw [hd]
    exact hall.trigs
  · rw [hd]
    exact hall.faultQ
  · rw [hd]
    exact hall.otp
  · rw [hd]
    exact hall.doms
  · rw [hd]
    exact hall.personas
  · simp only [startKeys, List.mem_cons, List.not_mem_nil, or_false, not_or] at hk
    obtain ⟨h1, h2, h3, h4, h5, h6⟩ := hk
    exact (hshown.1 r i j (by simp [h1, h2, h3])).trans (hall.rd r i j (by simp [h4, h5, h6]))
  · refine (hshown.2 a).trans ?_
    rw [State.byte, hall.mem]
    rfl

/-! ### Channels that begin their page -/

/-- What the beginning of pages leaves as it was: all but the channels and their last lines. -/
structure Begins (s t : State) : Prop where
  dev : t.dev = s.dev
  job : t.job = s.job
  works : PageWorks s t
  bytes : ∀ a, t.byte a = s.byte a
  rd : ∀ r i j, rowKey r i j < E.lastLine.k0 ∨ E.lastLine.k0 + 96 ≤ rowKey r i j → t.rd r i j = s.rd r i j

theorem Begins.refl (s : State) : Begins s s := ⟨rfl, rfl, ⟨rfl, rfl, rfl, rfl, rfl⟩, fun _ => rfl, fun _ _ _ _ => rfl⟩

theorem Begins.trans (h : Begins s t) (h' : Begins t u) : Begins s u :=
  ⟨h'.dev.trans h.dev, h'.job.trans h.job, h.works.trans h'.works, fun a => (h'.bytes a).trans (h.bytes a),
    fun r i j hk => (h'.rd r i j hk).trans (h.rd r i j hk)⟩

/-- An enabled channel is one of the 96 (R2). -/
theorem channel_lt_of_enabled (h : enabledCh s c = true) : c < 96 := by
  have hpresent : s.chPresent c = true := by simpa using (Bool.and_eq_true_iff.mp (Bool.and_eq_true_iff.mp
    (Bool.and_eq_true_iff.mp (Bool.and_eq_true_iff.mp (Bool.and_eq_true_iff.mp h).1).1).1).1).1
  exact of_decide_eq_true (Bool.and_eq_true_iff.mp (Bool.and_eq_true_iff.mp hpresent).1).1

/-- A channel waits for a page whose start is known (R463). -/
def pageWaits (s : State) (c : Nat) : Bool :=
  enabledCh s c && !(s.chan c).inPage && decide ((s.chan c).page < (startsOf s c).length) && hasPage s (s.chan c).page

/-- The state in which channel c has begun its page. -/
def begun (s : State) (c : Nat) : State :=
  (s.setChan c { s.chan c with inPage := true, next := 0, fired := none }).wr E.lastLine 0 c

theorem beginPage_eq (s : State) (c : Nat) : beginPage s c = if pageWaits s c then begun s c else s := rfl

theorem lastLine_key (hc : c < 96) : E.lastLine.k0 ≤ rowKey E.lastLine c 0 ∧ rowKey E.lastLine c 0 < E.lastLine.k0 + 96 := by
  simp only [rowKey, E.lastLine]
  omega

theorem begun_begins (s : State) (hc : c < 96) : Begins s (begun s c) := by
  have hkey := lastLine_key hc
  refine ⟨rfl, rfl, ⟨rfl, rfl, rfl, rfl, rfl⟩, fun _ => rfl, fun r i j hk => ?_⟩
  have hne : rowKey r i j ≠ rowKey E.lastLine c 0 := by omega
  exact State.rd_wr _ _ _ _ _ _ _ _ hne

theorem pageWaits_lt (h : pageWaits s c = true) : c < 96 :=
  channel_lt_of_enabled (Bool.and_eq_true_iff.mp (Bool.and_eq_true_iff.mp (Bool.and_eq_true_iff.mp h).1).1).1

theorem beginPage_begins (s : State) (c : Nat) : Begins s (beginPage s c) := by
  rw [beginPage_eq]
  split
  next h => exact begun_begins s (pageWaits_lt h)
  · exact .refl s

theorem beginPages_begins (s : State) : Begins s (beginPages s) :=
  foldl_preserves (P := Begins s) beginPage (fun _ d h => h.trans (beginPage_begins _ d)) _ _ (.refl s)

/-- An entry of an engine or a global one stays. -/
theorem Begins.enabledCh (h : Begins s t) (c : Nat) : enabledCh t c = enabledCh s c := by
  refine enabledCh_congr h.works.otp h.works.doms h.works.personas (fun r hr => h.rd r c 0 (.inr ?_)) (h.rd _ _ _ (.inl (by decide)))
  have hlow : E.lastLine.k0 + 96 ≤ r.k0 := by
    revert r
    decide
  exact Nat.le_trans hlow (Nat.le_trans (Nat.le_add_right _ _) (Nat.le_add_right _ _))

theorem Begins.finup (h : Begins s t) : t.finup = s.finup := by
  rw [State.finup, State.finup, State.rdN, State.rdN, h.rd _ _ _ (.inl (by decide))]

theorem Begins.hasPage (h : Begins s t) (k : Nat) : hasPage t k = hasPage s k := by
  rw [Machine.hasPage, Machine.hasPage, h.finup, State.rdN, State.rdN, h.rd _ _ _ (.inl (by decide))]

theorem Begins.startsOf (h : Begins s t) (c : Nat) : startsOf t c = startsOf s c := by
  rw [Machine.startsOf, Machine.startsOf, h.finup, h.job, State.persona, State.persona, h.works.personas]

theorem Begins.pageWaits (h : Begins s t) (hchan : t.chan c = s.chan c) : pageWaits t c = pageWaits s c := by
  rw [Machine.pageWaits, Machine.pageWaits, h.enabledCh, h.startsOf, h.hasPage, hchan]

/-- Channel c is at the beginning of its page. -/
def atPageStart (s : State) (c : Nat) : Prop :=
  (s.chan c).inPage = true ∧ (s.chan c).next = 0 ∧ (s.chan c).fired = none ∧ s.rd E.lastLine c = 0

theorem begun_atPageStart (s : State) (c : Nat) : atPageStart (begun s c) c :=
  have hchan : (begun s c).chan c = { s.chan c with inPage := true, next := 0, fired := none } := State.setChan_same ..
  ⟨by rw [hchan], by rw [hchan], by rw [hchan], State.rd_wr_same ..⟩

theorem begun_other (s : State) {d : Nat} (h : c ≠ d) :
    (begun s d).chan c = s.chan c ∧ (begun s d).rd E.lastLine c = s.rd E.lastLine c := by
  have hne : rowKey E.lastLine c 0 ≠ rowKey E.lastLine d 0 := by
    simp only [rowKey, E.lastLine]
    omega
  exact ⟨State.setChan_ne _ _ _ _ h, State.rd_wr _ _ _ _ _ _ _ _ hne⟩

theorem beginPage_other (s : State) {d : Nat} (h : c ≠ d) :
    (beginPage s d).chan c = s.chan c ∧ (beginPage s d).rd E.lastLine c = s.rd E.lastLine c := by
  rw [beginPage_eq]
  split
  · exact begun_other s h
  · exact ⟨rfl, rfl⟩

/-- A channel that waits for its page begins it, and keeps it. -/
theorem beginPage_reaches (d : Nat) (h : pageWaits s c = true ∨ atPageStart s c) :
    (pageWaits (beginPage s d) c = true ∧ c ≠ d) ∨ atPageStart (beginPage s d) c := by
  by_cases hd : c = d
  · subst hd
    rw [beginPage_eq]
    rcases h with h | h
    · rw [if_pos h]
      exact .inr (begun_atPageStart s c)
    · rw [if_neg (by simp [pageWaits, h.1])]
      exact .inr h
  · obtain ⟨hchan, hlast⟩ := beginPage_other s hd
    rcases h with h | ⟨hin, hnext, hfired, hline⟩
    · exact .inl ⟨((beginPage_begins s d).pageWaits hchan).trans h, hd⟩
    · exact .inr ⟨by rw [hchan, hin], by rw [hchan, hnext], by rw [hchan, hfired], hlast.trans hline⟩

theorem foldl_beginPage_reaches : ∀ (l : List Nat) (s : State), (pageWaits s c = true ∧ c ∈ l) ∨ atPageStart s c →
    atPageStart (l.foldl beginPage s) c
  | [], _, h => h.resolve_left fun h => List.not_mem_nil h.2
  | d :: l, s, h => foldl_beginPage_reaches l _ <|
      (beginPage_reaches d (h.imp_left And.left)).elim
        (fun hw => (em (atPageStart s c)).elim
          (fun hat => ((beginPage_reaches d (.inr hat)).imp_left fun hw' => absurd hw'.1 (by
            simp [pageWaits, (beginPage_other s hw.2).1, hat.1])))
          (fun hnot => .inl ⟨hw.1, (List.mem_cons.mp (h.resolve_right hnot).2).resolve_left hw.2⟩))
        .inr

/-- A channel that waits for its page is at its beginning once the pages begin. -/
theorem beginPages_begun (h : pageWaits s c = true) : atPageStart (beginPages s) c := by
  have henabled : enabledCh s c = true :=
    (Bool.and_eq_true_iff.mp (Bool.and_eq_true_iff.mp (Bool.and_eq_true_iff.mp h).1).1).1
  exact foldl_beginPage_reaches _ _ (.inl ⟨h, List.mem_filter.mpr ⟨List.mem_range.mpr (channel_lt_of_enabled henabled), henabled⟩⟩)

/-! ### START -/

theorem startAct_eq (s v : State) (hv : v = (roundWord s ((s.rd E.posEst : Rat) + ahead s s.time)).2) :
    startAct s = (okCode, beginPages (takeStart v
      (wrap48 ((roundWord s ((s.rd E.posEst : Rat) + ahead s s.time)).1 + v.rd E.startDist)))) := by
  subst hv
  rfl

theorem start_prints (hacc : Accepted s p (s.startSuperseded .job) E.command 0 0 ((commandWord 2 0 : Nat) : Int))
    (hdev : s.dev = .armed) (htrig : s.rd E.jobTrig = 0xFF) (hfinup : s.finup = false) :
    Gives (.start p 0) s fun u =>
      u.dev = .printing ∧ u.rd E.cmdLast = 0x02 * 2 ^ 40 ∧ u.sent.head? = some (.answer p okCode []) ∧
      ∃ q : Int, |(q : Rat) - ((s.rd E.posEst : Rat) + ahead s s.time)| < 1 ∧
        u.job.starts = s.job.starts ++ [wrap48 (q + s.rd E.startDist)] := by
  have hhere : (s.dev == .armed && s.rd E.jobTrig == 0xFF && !s.finup) = true := by simp [hdev, htrig, hfinup]
  have hnear := roundWord_near s ((s.rd E.posEst : Rat) + ahead s s.time)
  obtain ⟨n, hn⟩ := roundWord_eq s ((s.rd E.posEst : Rat) + ahead s s.time)
  have hact := startAct_eq s _ rfl
  generalize (roundWord s ((s.rd E.posEst : Rat) + ahead s s.time)).1 = q at hact hnear
  rw [hn] at hact
  generalize hpos : wrap48 (q + ({ s with fresh := n } : State).rd E.startDist) = pos at hact
  have hpos : wrap48 (q + s.rd E.startDist) = pos := hpos
  have hbusy : ({ s with fresh := n } : State).busyJob = true := by simp [State.busyJob, hdev]
  generalize hv : takeStart { s with fresh := n } pos = v at hact
  obtain ⟨hprinting, hjob, -, -, -⟩ := takeStart_leaves { s with fresh := n } pos hbusy hv.symm
  have hbegins := beginPages_begins v
  generalize beginPages v = w at hact hbegins
  refine ⟨_, by rw [exec_start, startCommand, writeIf_command_done
    (here := fun s => s.dev == .armed && s.rd E.jobTrig == 0xFF && !s.finup) hacc hhere (by decide) hact okCode_ne_laterCode], ?_⟩
  generalize hu : noteCommand (commandWord 2 0) okCode w = u
  obtain ⟨hlast, -, -⟩ := noteCommand_leaves (.inl rfl) hu.symm
  rw [noteCommand_shown (.inl rfl)] at hu
  obtain ⟨hudev, hujob⟩ : u.dev = w.dev ∧ u.job = w.job := by
    subst hu
    exact ⟨rfl, rfl⟩
  refine ⟨hudev.trans (hbegins.dev.trans hprinting), hlast.trans (commandWord_plain 2), rfl, q, hnear, ?_⟩
  rw [State.answer_job, hujob, hbegins.job, hjob, hpos]

/-! ### Trigger edges -/

/-- An edge of the polarity that is not selected shows its level alone (R79). -/
theorem triggerAct_other {n : Nat} {rising : Bool} {t : Nat}
    (h : s.rd E.trigEdge n = 0 ∨ (s.rd E.trigEdge n = 1 ∧ rising = false) ∨ (s.rd E.trigEdge n = 2 ∧ rising = true)) :
    triggerAct n rising t s = s.setTrig n { s.trig n with level := rising } := by
  have hedge (x : TrigSt) : (s.setTrig n x).rd E.trigEdge n = s.rd E.trigEdge n := rfl
  have hnot : acceptTrigger n rising t s = (none, s.setTrig n { s.trig n with level := rising }) := by
    unfold acceptTrigger
    dsimp only
    rw [hedge, if_pos (by rcases h with h | ⟨h, rfl⟩ | ⟨h, rfl⟩ <;> simp [h])]
  rw [triggerAct, hnot]

/-- The trigger's edge has been held off (R80). -/
def heldOff (s : State) (n pos : Nat) : Prop :=
  (s.trig n).seen = true ∧ sdiff48 pos (s.rd E.trigLastPos n) < s.rd E.trigHoldoff n

/-- An edge of the selected polarity is held off and counted, or recorded (R79, R80). -/
theorem acceptTrigger_selected {n : Nat} {rising : Bool} {t : Nat} (hon : s.domOn 10 = true)
    (h : (s.rd E.trigEdge n = 1 ∧ rising = true) ∨ (s.rd E.trigEdge n = 2 ∧ rising = false)) :
    ∃ (q : Int) (k : Nat) (v : State), |(q : Rat) - ((s.rd E.posEst : Rat) + ahead s t)| < 1 ∧
      v = { s.setTrig n { s.trig n with level := rising } with fresh := k } ∧
      (heldOff s n (wrap48 q) → acceptTrigger n rising t s = (none, v.count E.trigReject n)) ∧
      (¬heldOff s n (wrap48 q) → acceptTrigger n rising t s = (some (wrap48 q),
        ((v.wr E.trigLastTs t n).wr E.trigLastPos (wrap48 q : Nat) n).setTrig n
          { s.trig n with level := rising, seen := true })) := by
  generalize hw : s.setTrig n { s.trig n with level := rising } = w
  obtain ⟨hedge, hdom, hpos, htrig⟩ : (∀ r i j, w.rd r i j = s.rd r i j) ∧ w.domOn 10 = s.domOn 10 ∧
      (w.rd E.posEst : Rat) + ahead w t = (s.rd E.posEst : Rat) + ahead s t ∧
      w.trig n = { s.trig n with level := rising } := by
    subst hw
    exact ⟨fun _ _ _ => rfl, rfl, rfl, State.setTrig_same ..⟩
  obtain ⟨k, hk⟩ := roundWord_eq w ((s.rd E.posEst : Rat) + ahead s t)
  refine ⟨(roundWord w ((s.rd E.posEst : Rat) + ahead s t)).1, k, { w with fresh := k }, roundWord_near w _, rfl, ?_⟩
  have hact : acceptTrigger n rising t s =
      (let pos := wrap48 (roundWord w ((s.rd E.posEst : Rat) + ahead s t)).1
      if (w.trig n).seen && decide (sdiff48 pos (w.rd E.trigLastPos n) < w.rd E.trigHoldoff n) then
        (none, ({ w with fresh := k } : State).count E.trigReject n)
      else (some pos, ((({ w with fresh := k } : State).wr E.trigLastTs t n).wr E.trigLastPos pos n).setTrig n
        { w.trig n with seen := true })) := by
    have hsel : (!w.domOn 10 || w.rd E.trigEdge n == 0 || (w.rd E.trigEdge n == 1) != rising) = false := by
      rw [hdom, hon, hedge]
      rcases h with ⟨h, rfl⟩ | ⟨h, rfl⟩ <;> simp [h]
    unfold acceptTrigger
    dsimp only
    rw [hw, hsel, hpos, hk]
    rfl
  dsimp only at hact
  rw [htrig, hedge, hedge] at hact
  refine ⟨fun hheld => ?_, fun hfree => ?_⟩
  · obtain ⟨hseen, hnear⟩ := hheld
    rw [hact, if_pos (by simp [hseen, hnear])]
  · have hcond : ¬((s.trig n).seen && decide (sdiff48 (wrap48 (roundWord w ((s.rd E.posEst : Rat) + ahead s t)).1 : Nat)
        (s.rd E.trigLastPos n) < s.rd E.trigHoldoff n)) = true := fun hb =>
      hfree ((Bool.and_eq_true_iff.mp hb).imp_right of_decide_eq_true)
    rw [hact, if_neg hcond]

theorem queueTrigger_full {n pos : Nat} (h : 4 ≤ (s.trig n).queue.length) :
    queueTrigger n pos s = s.report 0xB8 7 (s.rdN E.posEst) := if_pos h

theorem queueTrigger_free {n pos : Nat} (h : ¬4 ≤ (s.trig n).queue.length) : queueTrigger n pos s =
    (s.setTrig n { s.trig n with queue := (s.trig n).queue ++ [wrap48 (pos + s.rd E.trigOffset n)] }).wr E.trigQueued
      ((s.trig n).queue ++ [wrap48 (pos + s.rd E.trigOffset n)]).length n := if_neg h

theorem trigKeys_apart (n : Nat) : rowKey E.trigLastTs n 0 ≠ rowKey E.trigLastPos n 0 ∧
    rowKey E.trigLastTs n 0 ≠ rowKey E.trigQueued n 0 ∧ rowKey E.trigLastPos n 0 ≠ rowKey E.trigQueued n 0 ∧
    rowKey E.trigLastPos n 0 ≠ rowKey E.trigReject n 0 ∧ rowKey E.trigOffset n 0 ≠ rowKey E.trigLastPos n 0 ∧
    rowKey E.trigOffset n 0 ≠ rowKey E.trigLastTs n 0 := by
  simp only [rowKey, E.trigLastTs, E.trigLastPos, E.trigQueued, E.trigReject, E.trigOffset]
  omega

/-- A recorded edge is queued four deep (R81). -/
theorem queueTrigger_leaves (s : State) (n pos : Nat) (hu : u = queueTrigger n pos s) :
    (u.trig n).level = (s.trig n).level ∧ (u.trig n).seen = (s.trig n).seen ∧ (∀ x, u.byte x = s.byte x) ∧ u.sent = s.sent ∧
      u.rd E.trigLastTs n = s.rd E.trigLastTs n ∧ u.rd E.trigLastPos n = s.rd E.trigLastPos n ∧
      if 4 ≤ (s.trig n).queue.length then (u.trig n).queue = (s.trig n).queue ∧ u.faultQ = s.faultQ ++ [⟨0xB8, 7, s.rdN E.posEst⟩]
      else (u.trig n).queue = (s.trig n).queue ++ [wrap48 (pos + s.rd E.trigOffset n)] ∧ u.faultQ = s.faultQ := by
  obtain ⟨-, hts, hlast, -⟩ := trigKeys_apart n
  by_cases hfull : 4 ≤ (s.trig n).queue.length
  · rw [queueTrigger_full hfull] at hu
    subst hu
    rw [if_pos hfull]
    exact ⟨rfl, rfl, fun _ => rfl, rfl, rfl, rfl, rfl, rfl⟩
  · rw [queueTrigger_free hfull] at hu
    rw [if_neg hfull]
    generalize (s.trig n).queue ++ [wrap48 (pos + s.rd E.trigOffset n)] = q at hu
    have htrig : u.trig n = { s.trig n with queue := q } := by
      subst hu
      exact State.setTrig_same ..
    subst hu
    exact ⟨by rw [htrig], by rw [htrig], fun _ => rfl, rfl, State.rd_wr _ _ _ _ _ _ _ _ hts, State.rd_wr _ _ _ _ _ _ _ _ hlast,
      by rw [htrig], rfl⟩

theorem triggerAct_selected (n : Fin 8) {rising : Bool} {t : Nat} (hon : s.domOn 10 = true)
    (h : (s.rd E.trigEdge n = 1 ∧ rising = true) ∨ (s.rd E.trigEdge n = 2 ∧ rising = false)) (hfinup : s.finup = false) :
    Gives (.triggerEdge n rising t) s fun u => ∃ (q : Int) (pos : Nat),
      |(q : Rat) - ((s.rd E.posEst : Rat) + ahead s t)| < 1 ∧ pos = wrap48 q ∧ (u.trig n).level = rising ∧
      (∀ x, u.byte x = s.byte x) ∧ u.sent = s.sent ∧
      if (s.trig n).seen = true ∧ sdiff48 pos (s.rd E.trigLastPos n) < s.rd E.trigHoldoff n then
        u.rd E.trigReject n = min (s.rd E.trigReject n + 1) (2 ^ 32 - 1) ∧ (u.trig n).queue = (s.trig n).queue ∧
        u.rd E.trigLastPos n = s.rd E.trigLastPos n ∧ u.faultQ = s.faultQ
      else u.rd E.trigLastTs n = t ∧ u.rd E.trigLastPos n = pos ∧ (u.trig n).seen = true ∧
        if 4 ≤ (s.trig n).queue.length then
          (u.trig n).queue = (s.trig n).queue ∧ u.faultQ = s.faultQ ++ [⟨0xB8, 7, s.rdN E.posEst⟩]
        else (u.trig n).queue = (s.trig n).queue ++ [wrap48 (pos + s.rd E.trigOffset n)] ∧ u.faultQ = s.faultQ := by
  obtain ⟨q, k, v, hnear, hv, hheld, hfree⟩ := acceptTrigger_selected (n := n.val) (t := t) hon h
  obtain ⟨htslast, -, -, hlastreject, hoffsetlast, hoffsetts⟩ := trigKeys_apart n
  obtain ⟨hvtrig, hvrd, hvbyte, hvsent, hvfault, hvfinup⟩ : v.trig n = { s.trig n with level := rising } ∧
      (∀ r i j, v.rd r i j = s.rd r i j) ∧ (∀ x, v.byte x = s.byte x) ∧ v.sent = s.sent ∧ v.faultQ = s.faultQ ∧
      v.finup = s.finup := by
    subst hv
    exact ⟨State.setTrig_same .., fun _ _ _ => rfl, fun _ => rfl, rfl, rfl, rfl⟩
  refine ⟨_, exec_triggerEdge s n rising t, q, wrap48 q, hnear, rfl, ?_⟩
  by_cases hoff : heldOff s n (wrap48 q)
  · have hu : triggerAct n rising t s = v.count E.trigReject n := by rw [triggerAct, hheld hoff]
    have htrig : (v.count E.trigReject n).trig n = v.trig n := rfl
    unfold heldOff at hoff
    rw [hu, if_pos hoff, htrig, hvtrig]
    refine ⟨rfl, hvbyte, hvsent, (count_rd ..).trans (by rw [hvrd]), rfl, ?_, hvfault⟩
    exact (State.rd_wr _ _ _ _ _ _ _ _ hlastreject).trans (hvrd ..)
  · generalize hw : ((v.wr E.trigLastTs t n).wr E.trigLastPos (wrap48 q : Nat) n).setTrig n
      { s.trig n with level := rising, seen := true } = w at hfree
    obtain ⟨hwtrig, hwts, hwlast, hwoffset, hwest, hwbyte, hwsent, hwfault, hwfinup⟩ :
        w.trig n = { s.trig n with level := rising, seen := true } ∧ w.rd E.trigLastTs n = t ∧
        w.rd E.trigLastPos n = (wrap48 q : Nat) ∧ w.rd E.trigOffset n = s.rd E.trigOffset n ∧ w.rdN E.posEst = s.rdN E.posEst ∧
        (∀ x, w.byte x = s.byte x) ∧ w.sent = s.sent ∧ w.faultQ = s.faultQ ∧ w.finup = false := by
      have hlow {r : Row} (hr : rowKey r 0 0 < 0x212000 ∨ 0x2128FF < rowKey r 0 0) : w.rd r = s.rd r := by
        have h1 : rowKey r 0 0 ≠ rowKey E.trigLastPos n 0 := by
          simp only [rowKey, E.trigLastPos] at *
          omega
        have h2 : rowKey r 0 0 ≠ rowKey E.trigLastTs n 0 := by
          simp only [rowKey, E.trigLastTs] at *
          omega
        subst hw
        exact (State.rd_wr _ _ _ _ _ _ _ _ h1).trans ((State.rd_wr _ _ _ _ _ _ _ _ h2).trans (hvrd ..))
      refine ⟨?_, ?_, ?_, ?_, ?_, ?_, ?_, ?_, ?_⟩
      · subst hw
        exact State.setTrig_same ..
      · subst hw
        exact (State.rd_wr _ _ _ _ _ _ _ _ htslast).trans (State.rd_wr_same ..)
      · subst hw
        exact State.rd_wr_same ..
      · subst hw
        exact (State.rd_wr _ _ _ _ _ _ _ _ hoffsetlast).trans ((State.rd_wr _ _ _ _ _ _ _ _ hoffsetts).trans (hvrd ..))
      · rw [State.rdN, State.rdN, hlow (by decide)]
      · subst hw
        exact hvbyte
      · subst hw
        exact hvsent
      · subst hw
        exact hvfault
      · rw [State.finup, State.rdN, hlow (by decide)]
        exact hfinup
    have hu : triggerAct n rising t s = queueTrigger n (wrap48 q) w := by
      rw [triggerAct, hfree hoff]
      dsimp only
      rw [hwfinup]
      rfl
    obtain ⟨hlevel, hseen, hbyte, hsent, hts, hlast, hqueue⟩ := queueTrigger_leaves w n (wrap48 q) hu
    rw [hwtrig] at hlevel hseen hqueue
    rw [hwoffset, hwest, hwfault] at hqueue
    unfold heldOff at hoff
    rw [if_neg hoff]
    exact ⟨hlevel, fun x => (hbyte x).trans (hwbyte x), hsent.trans hwsent, hts.trans hwts, hlast.trans hwlast, hseen, hqueue⟩

/-! ### PAGE_START -/

theorem takeTrigger_eq {n a : Nat} {r : List Nat} (hn : n = s.rdN E.jobTrig) (hqueue : (s.trig n).queue = a :: r) :
    takeTrigger s = takeStart ((s.setTrig n { s.trig n with queue := r }).wr E.trigQueued r.length n) a := by
  subst hn
  unfold takeTrigger
  dsimp only
  rw [hqueue]

/-- Page starts do not touch what makes a channel enabled. -/
theorem PageWorks.enabledCh (h : PageWorks s t) (hsame : SameBut s t startKeys) (c : Nat) : enabledCh t c = enabledCh s c := by
  refine enabledCh_congr h.otp h.doms h.personas (fun r hr => hsame.1 r c 0 ?_) (hsame.1 _ _ _ (by decide))
  simp only [List.mem_cons, List.not_mem_nil, or_false] at hr
  simp only [startKeys, rowKey, List.mem_cons, List.not_mem_nil, or_false, E.jobPage, E.pagesDone, E.pageStart, E.eventSeq, E.txFrames]
  rcases hr with rfl | rfl | rfl <;> simp only [E.engEnable, E.chDisable, E.servedBy] <;> omega

theorem trigQueued_apart (n : Fin 8) {r : Row} (hr : r ∈ [E.persona, E.jobPages]) : rowKey r 0 0 ≠ rowKey E.trigQueued n 0 := by
  revert r
  decide +revert

theorem trigQueued_engine (n : Fin 8) (c : Nat) {r : Row} (hr : r ∈ [E.engEnable, E.chDisable, E.servedBy]) :
    rowKey r c 0 ≠ rowKey E.trigQueued n 0 := by
  simp only [List.mem_cons, List.not_mem_nil, or_false] at hr
  rcases hr with rfl | rfl | rfl <;> simp only [rowKey, E.engEnable, E.chDisable, E.servedBy, E.trigQueued] <;> omega

theorem pageStart_takes (c : Ch) {n a : Nat} {r : List Nat} (hbusy : s.busyJob = true) (hfinup : s.finup = false)
    (hstart : s.startSuperseded .job = false) (hopen : s.noLocks = false) (hin : (s.chan c).inPage = false)
    (henabled : enabledCh s c = true) (hnext : s.job.starts.length = (s.chan c).page) (hpage : hasPage s (s.chan c).page = true)
    (hn : n = s.rdN E.jobTrig) (hlt : n < 8) (hqueue : (s.trig n).queue = a :: r) :
    Gives (.pageStart c) s fun u => u.dev = .printing ∧ u.job.starts = s.job.starts ++ [a] ∧ (u.trig n).queue = r ∧
      u.rd E.trigQueued n = r.length ∧ (u.chan c).inPage = true ∧ (u.chan c).next = 0 ∧ (u.chan c).fired = none ∧
      u.rd E.lastLine c = 0 ∧ u.faultQ = s.faultQ := by
  have hact : pageStartAct c s = beginPages (takeTrigger s) := by
    have hblocked : (!s.busyJob || s.finup || s.startSuperseded .job || s.noLocks || (s.chan c).inPage || !enabledCh s c) = false := by
      simp [hbusy, hfinup, hstart, hopen, hin, henabled]
    have hwanted : (s.job.starts.length == (s.chan c).page && hasPage s (s.chan c).page && decide (s.rdN E.jobTrig < 8)) = true := by
      simp [hnext, hpage, ← hn, hlt]
    unfold pageStartAct
    dsimp only
    rw [hblocked, if_neg Bool.false_ne_true, if_pos hwanted]
  refine ⟨_, exec_pageStart s c, ?_⟩
  rw [hact, takeTrigger_eq hn hqueue]
  generalize hv : (s.setTrig n { s.trig n with queue := r }).wr E.trigQueued r.length n = v
  obtain ⟨hvtrig, hvqueued, hvchans, hvjob, hvbusy, hvworks, hvrd⟩ : v.trig n = { s.trig n with queue := r } ∧
      v.rd E.trigQueued n = r.length ∧ v.chans = s.chans ∧ v.job = s.job ∧ v.busyJob = true ∧
      (v.faultQ = s.faultQ ∧ v.otp = s.otp ∧ v.doms = s.doms ∧ v.personas = s.personas) ∧
      ∀ q i j, rowKey q i j ≠ rowKey E.trigQueued n 0 → v.rd q i j = s.rd q i j := by
    subst hv
    exact ⟨State.setTrig_same .., State.rd_wr_same .., rfl, rfl, hbusy, ⟨rfl, rfl, rfl, rfl⟩,
      fun q i j hq => State.rd_wr _ _ _ _ _ _ _ _ hq⟩
  obtain ⟨hvfault, hvotp, hvdoms, hvpersonas⟩ := hvworks
  generalize hw : takeStart v a = w
  obtain ⟨hprinting, hjob, hchans, hworks, hsame⟩ := takeStart_leaves v a hvbusy hw.symm
  have hvfinup : v.finup = false := by
    rw [State.finup, State.rdN, hvrd _ _ _ (trigQueued_apart ⟨n, hlt⟩ (by simp))]
    exact hfinup
  have hwaits : pageWaits w c = true := by
    have hchan : w.chan c = s.chan c := by rw [State.chan, hchans, hvchans, State.chan]
    have hwfinup : w.finup = false := by
      rw [State.finup, State.rdN, hsame.1 _ _ _ (by decide)]
      exact hvfinup
    have hwenabled : enabledCh w c = true := by
      rw [hworks.enabledCh hsame, enabledCh_congr hvotp hvdoms hvpersonas
        (fun q hq => hvrd _ _ _ (trigQueued_engine ⟨n, hlt⟩ c hq)) (hvrd _ _ _ (trigQueued_apart ⟨n, hlt⟩ (by simp))), henabled]
    have hwpage : hasPage w (s.chan c).page = true := by
      have hpages : w.rdN E.jobPages = s.rdN E.jobPages := by
        rw [State.rdN, hsame.1 _ _ _ (by decide), hvrd _ _ _ (trigQueued_apart ⟨n, hlt⟩ (by simp))]
        rfl
      rw [hasPage, hwfinup, hpages, ← hfinup]
      exact hpage
    have hlater : (s.chan c).page < (startsOf w c).length := by
      rw [startsOf_native hwfinup, hjob, hvjob, List.length_append, hnext]
      exact Nat.lt_succ_self _
    rw [pageWaits, hwenabled, hchan, hin, hwpage, decide_eq_true hlater]
    rfl
  have hbegins := beginPages_begins w
  obtain ⟨huin, hunext, hufired, huline⟩ := beginPages_begun hwaits
  generalize beginPages w = u at *
  have hutrig : u.trig n = { s.trig n with queue := r } := by
    rw [State.trig, hbegins.works.trigs, hworks.trigs]
    exact hvtrig
  have hkey : rowKey E.trigQueued n 0 < E.lastLine.k0 ∧ rowKey E.trigQueued n 0 ∉ startKeys := by
    simp only [startKeys, rowKey, List.mem_cons, List.not_mem_nil, or_false, E.jobPage, E.pagesDone, E.pageStart, E.eventSeq,
      E.txFrames, E.trigQueued, E.lastLine]
    omega
  refine ⟨hbegins.dev.trans hprinting, by rw [hbegins.job, hjob, hvjob], by rw [hutrig],
    (hbegins.rd _ _ _ (.inl hkey.1)).trans ((hsame.1 _ _ _ hkey.2).trans hvqueued), huin, hunext, hufired, huline,
    hbegins.works.faultQ.trans (hworks.faultQ.trans hvfault)⟩

/-- Settles O44. -/
theorem pagesStart : Obligations.PagesStart := by
  unfold Obligations.PagesStart
  refine ⟨fun p s hacc => ⟨fun hdev htrig hfinup => ?_, fun hdev => ?_⟩, fun n rising t s hon =>
    ⟨fun hother => ?_, fun hsel hfinup => triggerAct_selected n hon hsel hfinup⟩,
    fun c s n a r hbusy hfinup hstart hopen hin henabled hnext hpage hn hlt hqueue =>
      pageStart_takes c hbusy hfinup hstart hopen hin henabled hnext hpage hn hlt hqueue⟩
  · have hword : (0x02 * 2 ^ 40 : Int) = ((commandWord 2 0 : Nat) : Int) := (commandWord_plain 2).symm
    exact start_prints (hword ▸ hacc) hdev htrig hfinup
  · have hword : (0x02 * 2 ^ 40 : Int) = ((commandWord 2 0 : Nat) : Int) := (commandWord_plain 2).symm
    rw [hword] at hacc
    have hhere : (s.dev == .armed && s.rd E.jobTrig == 0xFF && !s.finup) = false := by simp [hdev]
    rw [exec_start, startCommand,
      writeIf_command_refused (here := fun s => s.dev == .armed && s.rd E.jobTrig == 0xFF && !s.finup) hacc hhere]
  · rw [exec_triggerEdge, triggerAct_other hother]

end Sys2Proof.Machine
end

section
/-!
CERTIFICATE. The ends of a job: STOP, HALT, ABORT and RELEASE (R457 to R460, R468, R470).
-/
namespace Sys2Proof.Machine

variable {s t u : State} {p : Port} {c : Nat}

theorem exec_stop (s : State) (p : Port) : exec (.stop p 0) s =
    .next (writeIf s p (s.superseded .job) E.command 0 0 (commandWord 3 0 : Nat) (stopCommand 0)) := rfl
theorem exec_abort (s : State) (p : Port) : exec (.abort p 0) s =
    .next (writeIf s p (s.superseded .job) E.command 0 0 (commandWord 4 0 : Nat) (abortCommand 0)) := rfl
theorem exec_release (s : State) (p : Port) : exec (.release p 0) s =
    .next (writeIf s p (s.superseded .job) E.command 0 0 (commandWord 5 0 : Nat) (releaseCommand 0)) := rfl
theorem exec_haltEntry (s : State) : exec .haltEntry s = .next (haltAct s) := rfl

/-! ### Events -/

/-- Frames add nothing to the event log. -/
theorem sendFrame_events (s : State) (ring cls dst seq : Nat) (payload : List Byte) :
    (sendFrame s ring cls dst seq payload).events = s.events := by
  have hemit (s : State) (out : Nat) (l : List Byte) : (laneEmit s out l false).events = s.events := by
    unfold laneEmit
    split <;> rfl
  have hqueue (s : State) (out : Nat) (l : List Byte) : (laneQueue s out l).events = s.events := by
    unfold laneQueue
    dsimp only
    split
    · rfl
    · exact hemit ..
  unfold sendFrame laneSend
  split
  · split
    · rfl
    · exact hqueue ..
  · rfl

/-- An event other than of kind 5 stands at the head of the log (R469, R471). -/
theorem raiseEvent_head {kind : Nat} (s : State) (index sub value : Nat) (hkind : kind ≠ 5) :
    ∃ e, (raiseEvent s kind index sub value).events.head? = some e ∧ e.kind = kind ∧ e.index = index ∧ e.sub = sub ∧
      e.value = value % 2 ^ 48 := by
  refine ⟨⟨(s.rdN E.eventSeq + 1) % 2 ^ 48, index, sub, kind, value % 2 ^ 48,
    if ringTimeValid s then ringTimeNow s else s.time, !ringTimeValid s⟩, ?_, rfl, rfl, rfl, rfl⟩
  have hkeep (w : State) (cls dst seq : Nat) (l : List Byte) :
      (if assigned w then sendBoth w cls dst seq l else w).events = w.events := by
    split
    · rw [sendBoth, sendFrame_events, sendFrame_events]
    · rfl
  unfold raiseEvent
  refine (congrArg List.head? (hkeep _ _ _ _ _)).trans ?_
  rw [if_neg hkind]
  rfl

theorem maskedEvent_head {kind : Nat} (s : State) (index sub value : Nat) (hkind : kind ≠ 5)
    (hmask : bit (s.rdN E.eventMask) (kind - 1) = true) :
    ∃ e, (maskedEvent s kind index sub value).events.head? = some e ∧ e.kind = kind ∧ e.index = index ∧ e.sub = sub ∧
      e.value = value % 2 ^ 48 := by
  unfold maskedEvent
  rw [if_pos hmask]
  exact raiseEvent_head s index sub value hkind

/-! ### Channels at rest -/

/-- No line is locked, built or asked for on the channel. -/
def Chan.Rests (x : Chan) : Prop := x.locked = [] ∧ x.built = none ∧ x.asked = []

theorem sendBuilt_other {d : Nat} (s : State) (upTo : Option Nat) (h : c ≠ d) : (sendBuilt s d upTo).chan c = s.chan c := by
  unfold sendBuilt sendShift sendBlocks
  dsimp only
  split
  · rfl
  · split
    · rfl
    · split <;> split
      · rfl
      · exact State.setChan_ne _ _ _ _ h
      · rfl
      · exact State.setChan_ne _ _ _ _ h

/-- Channel c stops sending and abandons its lines (R459). -/
def abandonOne (s : State) (c : Nat) : State :=
  (sendBuilt s c (some (nowStep s))).setChan c (abandonLines ((sendBuilt s c (some (nowStep s))).chan c))

theorem abandonAll_eq (s : State) (p : Nat → Bool) :
    abandonAll s p = ((s.chans.map Prod.fst).filter p).foldl abandonOne s := rfl

/-- What channels that abandon their lines leave: nothing but themselves and what is sent of their lines. -/
theorem abandonOne_leaves (s : State) (c : Nat) : beyondFire (abandonOne s c) = beyondFire s ∧
    (abandonOne s c).faultQ = s.faultQ ∧ (abandonOne s c).engs = s.engs ∧ ((abandonOne s c).chan c).Rests ∧
    ∀ d, d ≠ c → (abandonOne s c).chan d = s.chan d := by
  obtain ⟨hbeyond, -, hengs, hfault, -⟩ := sendBuilt_sends s c (some (nowStep s))
  have hother (d : Nat) (h : d ≠ c) := sendBuilt_other s (some (nowStep s)) h
  unfold abandonOne
  generalize sendBuilt s c (some (nowStep s)) = v at *
  refine ⟨hbeyond, hfault, hengs, ?_, fun d h => (State.setChan_ne _ _ _ _ h).trans (hother d h)⟩
  rw [State.setChan_same]
  exact ⟨rfl, rfl, rfl⟩

theorem foldl_abandonOne : ∀ (l : List Nat) (s : State), beyondFire (l.foldl abandonOne s) = beyondFire s ∧
    (l.foldl abandonOne s).faultQ = s.faultQ ∧ (l.foldl abandonOne s).engs = s.engs ∧
    ∀ d, d ∈ l ∨ (s.chan d).Rests → ((l.foldl abandonOne s).chan d).Rests
  | [], _ => ⟨rfl, rfl, rfl, fun _ h => h.resolve_left List.not_mem_nil⟩
  | c :: l, s => by
    obtain ⟨hbeyond, hfault, hengs, hrests, hother⟩ := abandonOne_leaves s c
    obtain ⟨hbeyond', hfault', hengs', hrests'⟩ := foldl_abandonOne l (abandonOne s c)
    refine ⟨hbeyond'.trans hbeyond, hfault'.trans hfault, hengs'.trans hengs, fun d h => hrests' d ?_⟩
    by_cases hd : d = c
    · exact .inr (hd ▸ hrests)
    · rw [hother d hd]
      exact h.imp_left fun hmem => (List.mem_cons.mp hmem).resolve_left hd

/-- Every channel abandons its lines (R459). -/
theorem abandonAll_rests (s : State) (hu : u = abandonAll s fun _ => true) : beyondFire u = beyondFire s ∧ u.faultQ = s.faultQ ∧
    u.engs = s.engs ∧ ∀ c, (u.chan c).Rests := by
  rw [abandonAll_eq, List.filter_eq_self.mpr fun _ _ => rfl] at hu
  obtain ⟨hbeyond, hfault, hengs, hrests⟩ := foldl_abandonOne (s.chans.map Prod.fst) s
  rw [← hu] at hbeyond hfault hengs hrests
  refine ⟨hbeyond, hfault, hengs, fun c => hrests c ?_⟩
  by_cases hmem : c ∈ s.chans.map Prod.fst
  · exact .inl hmem
  · refine .inr ?_
    rw [State.chan, aget_of_notMem fun x hx heq => hmem (List.mem_map.mpr ⟨x, hx, heq⟩)]
    exact ⟨rfl, rfl, rfl⟩

/-! ### Learn scans -/

/-- What the end of learn scans leaves as it was, and channels that rest stay at rest. -/
structure LearnEnds (s t : State) : Prop where
  rests : ∀ c, (s.chan c).Rests → (t.chan c).Rests
  rest : ∃ engs chans dict, t = { s with engs := engs, chans := chans, dict := dict }
  rd : ∀ r i j, (∀ e, rowKey r i j ≠ rowKey E.learnStatus e 0) → t.rd r i j = s.rd r i j

theorem LearnEnds.refl (s : State) : LearnEnds s s := ⟨fun _ => id, ⟨_, _, _, rfl⟩, fun _ _ _ _ => rfl⟩

theorem LearnEnds.trans (h : LearnEnds s t) (h' : LearnEnds t u) : LearnEnds s u := by
  obtain ⟨e, c, d, ht⟩ := h.rest
  obtain ⟨e', c', d', hu⟩ := h'.rest
  exact ⟨fun x => h'.rests x ∘ h.rests x, ⟨e', c', d', by rw [hu, ht]⟩, fun r i j hk => (h'.rd r i j hk).trans (h.rd r i j hk)⟩

theorem dropLearn_ends (s : State) (e : Nat) : LearnEnds s (dropLearn s e) := by
  unfold dropLearn
  dsimp only
  split
  · exact ⟨fun _ => id, ⟨_, _, _, rfl⟩, fun _ _ _ _ => rfl⟩
  next d _ =>
    refine ⟨fun c hc => ?_, ⟨_, _, _, rfl⟩, fun _ _ _ _ => rfl⟩
    by_cases hcd : c = d
    · subst hcd
      obtain ⟨hlocked, hbuilt, hasked⟩ := hc
      rw [State.setChan_same]
      exact ⟨hlocked, congrArg (Option.map _) hbuilt, hasked⟩
    · rw [State.setChan_ne _ _ _ _ hcd]
      exact hc

theorem discardLearn_ends (s : State) (e : Nat) : LearnEnds s (discardLearn s e) := by
  have h := dropLearn_ends s e
  unfold discardLearn
  split
  · exact .refl s
  · refine h.trans ⟨fun _ => id, ⟨_, _, _, rfl⟩, fun r i j hk => State.rd_wr _ _ _ _ _ _ _ _ (hk e)⟩

theorem discardLearns_ends (s : State) : LearnEnds s (discardLearns s) :=
  foldl_preserves (P := LearnEnds s) discardLearn (fun _ e h => h.trans (discardLearn_ends _ e)) _ _ (.refl s)

/-! ### The end of a job -/

/-- The entries of the speed request. -/
def restKeys : List Nat :=
  [rowKey E.speedReq 0 0, rowKey E.output 1 0, rowKey E.limiter 0 0, rowKey E.linesAhead 0 0, rowKey E.rBuf 0 0]

theorem restSpeed_leaves (s : State) : (restSpeed s).job = s.job ∧ (restSpeed s).chans = s.chans ∧
    (restSpeed s).faultQ = s.faultQ ∧ (restSpeed s).rd E.speedReq = 0 ∧ SameBut s (restSpeed s) restKeys := by
  refine ⟨by simp [restSpeed], by simp [restSpeed], by simp [restSpeed], ?_, ?_⟩
  · unfold restSpeed
    rw [State.rd_wr _ _ _ _ _ _ _ _ (by decide), State.rd_wr _ _ _ _ _ _ _ _ (by decide), State.rd_wr _ _ _ _ _ _ _ _ (by decide),
      State.rd_wr _ _ _ _ _ _ _ _ (by decide)]
    exact State.rd_wr_same ..
  · unfold restSpeed
    exact (((((SameBut.refl s _).wr (by simp [restKeys]) _).wr (by simp [restKeys]) _).wr (by simp [restKeys]) _).wr
      (by simp [restKeys]) _).wr (by simp [restKeys]) _

/-- The entries that an event shows. -/
def eventKeys : List Nat := [rowKey E.eventSeq 0 0, rowKey E.txFrames 0 0, rowKey E.txFrames 1 0]

/-- What the end of a job leaves (R457, R459, R470). -/
theorem endJob_leaves (s : State) (d : DevState) (hu : u = endJob s d) : u.dev = d ∧ u.job.stopping = false ∧
    (∀ c, (u.chan c).Rests) ∧ u.rd E.speedReq = 0 ∧ (∀ x, u.byte x = s.byte x) ∧ u.faultQ = s.faultQ ∧
    (∀ r i j, rowKey r i j ∉ restKeys → rowKey r i j ∉ eventKeys → (∀ e, rowKey r i j ≠ rowKey E.learnStatus e 0) →
      u.rd r i j = s.rd r i j) ∧
    (bit (s.rdN E.eventMask) 6 = true → ∃ e, u.events.head? = some e ∧ e.kind = 7 ∧ e.index = 0x2010 ∧ e.sub = 1 ∧
      e.value = s.rdN E.jobId % 2 ^ 48) := by
  unfold endJob at hu
  dsimp only at hu
  generalize hv : abandonAll s (fun _ => true) = v at hu
  obtain ⟨hvbeyond, hvfault, -, hvrests⟩ := abandonAll_rests s hv.symm
  have hvbyte : ∀ x, v.byte x = s.byte x := fun x => (congrArg (State.byte · x) hvbeyond :)
  have hvrd := rd_of_beyondFire hvbeyond
  have hlearn := discardLearns_ends { v with job := { v.job with stopping := false } }
  generalize discardLearns { v with job := { v.job with stopping := false } } = w at hu hlearn
  obtain ⟨engs, chans, dict, hw⟩ := hlearn.rest
  obtain ⟨hwstop, hwbyte, hwfault⟩ : w.job.stopping = false ∧ (∀ x, w.byte x = v.byte x) ∧ w.faultQ = v.faultQ := by
    subst hw
    exact ⟨rfl, fun _ => rfl, rfl⟩
  have hwrests : ∀ c, (w.chan c).Rests := fun c => hlearn.rests c (hvrests c)
  obtain ⟨hxjob, hxchans, hxfault, hspeed, hxsame⟩ := restSpeed_leaves w
  generalize restSpeed w = x at hu hxjob hxchans hxfault hspeed hxsame
  obtain ⟨hysame, hydev⟩ := setDev_same x d
  generalize setDev x d = y at hu hysame hydev
  obtain ⟨husame, hudev⟩ := maskedEvent_same y 7 0x2010 1 (y.rdN E.jobId)
  have hevent := maskedEvent_head y 0x2010 1 (y.rdN E.jobId) (kind := 7) (by decide)
  rw [← hu] at husame hudev hevent
  have hall := hysame.trans husame
  have hchain (r : Row) (i j : Nat) (hrest : rowKey r i j ∉ restKeys)
      (hstatus : ∀ e, rowKey r i j ≠ rowKey E.learnStatus e 0) : x.rd r i j = s.rd r i j :=
    (hxsame.1 r i j hrest).trans ((hlearn.rd r i j hstatus).trans (hvrd r i j))
  have hlow (r : Row) (hkey : rowKey r 0 0 < 0x420000) (e : Nat) : rowKey r 0 0 ≠ rowKey E.learnStatus e 0 := by
    simp only [rowKey, E.learnStatus] at *
    omega
  have hy (r : Row) (hrest : rowKey r 0 0 ∉ restKeys) (hevent : rowKey r 0 0 ∉ eventKeys) (hkey : rowKey r 0 0 < 0x420000) :
      y.rdN r = s.rdN r := by
    rw [State.rdN, hysame.rd _ _ _ hevent, hchain _ _ _ hrest (hlow r hkey)]
    rfl
  rw [hy E.eventMask (by decide) (by decide) (by decide), hy E.jobId (by decide) (by decide) (by decide)] at hevent
  refine ⟨hudev.trans hydev, by rw [hall.job, hxjob, hwstop], fun c => ?_, (hall.rd _ _ _ (by decide)).trans hspeed, fun a => ?_,
    hall.faultQ.trans (hxfault.trans (hwfault.trans hvfault)), fun r i j hrest hev hstatus => ?_, hevent⟩
  · rw [State.chan, hall.chans, hxchans]
    exact hwrests c
  · rw [State.byte, hall.mem]
    exact (hxsame.2 a).trans ((hwbyte a).trans (hvbyte a))
  · exact (hall.rd r i j hev).trans (hchain r i j hrest hstatus)

/-- RB_WR of no ring buffer is among what the end of a job writes. -/
theorem rbWr_kept (r : Nat) : rowKey E.rbWr r 0 ∉ restKeys ∧ rowKey E.rbWr r 0 ∉ eventKeys ∧
    ∀ e, rowKey E.rbWr r 0 ≠ rowKey E.learnStatus e 0 := by
  simp only [restKeys, eventKeys, List.mem_cons, List.not_mem_nil, or_false, rowKey, E.rbWr, E.speedReq, E.output, E.limiter,
    E.linesAhead, E.rBuf, E.eventSeq, E.txFrames, E.learnStatus]
  exact ⟨by omega, by omega, fun e => by omega⟩

/-! ### The commands -/

theorem stopJob_armed (h : s.dev = .armed) : stopJob s = endJob (s.act .job .abort) .halt := by
  have hdev : (s.act .job .abort).dev = .armed := h
  rw [stopJob, if_pos hdev]

theorem stopJob_printing (h : s.dev = .printing) :
    stopJob s = { s.act .job .abort with job := { s.job with stopping := true } } := by
  have hdev : (s.act .job .abort).dev = .printing := h
  rw [stopJob, if_neg (by rw [hdev]; decide), if_pos hdev]
  rfl

theorem busyJob_iff : s.busyJob = true ↔ s.dev = .armed ∨ s.dev = .printing := by simp [State.busyJob]

/-- What noting a command leaves as it was. -/
theorem noteCommand_rest {v code : Nat} (hu : u = noteCommand v code s) :
    u.dev = s.dev ∧ u.job = s.job ∧ u.chans = s.chans ∧ u.faultQ = s.faultQ ∧ u.sent = s.sent ∧
      SameBut s u [rowKey E.cmdLast 0 0, rowKey E.cmdResult 0 0] := by
  by_cases h : code = okCode ∨ code = codeNothing
  · have hsame := (noteCommand_leaves h hu).2.2
    rw [noteCommand_shown h] at hu
    subst hu
    exact ⟨rfl, rfl, rfl, rfl, rfl, hsame⟩
  · rw [noteCommand, if_neg h] at hu
    subst hu
    exact ⟨rfl, rfl, rfl, rfl, rfl, .refl _ _⟩

/-- A job that a command has ended, with the command noted and answered. -/
theorem endJob_noted (s t : State) (d : DevState) (w code : Nat) (hs : s.mem = t.mem ∧ s.dict = t.dict ∧ s.faultQ = t.faultQ)
    (hu : u = (noteCommand w code (endJob s d)).answer p code) : u.dev = d ∧ (∀ c, (u.chan c).Rests) ∧ u.rd E.speedReq = 0 ∧
      (∀ x, u.byte x = t.byte x) ∧ u.faultQ = t.faultQ ∧ (∀ r, u.rd E.rbWr r = t.rd E.rbWr r) ∧
      u.sent.head? = some (.answer p code []) := by
  obtain ⟨hmem, hdict, hfault⟩ := hs
  generalize hv : endJob s d = v at hu
  obtain ⟨hvdev, -, hvrests, hvspeed, hvbyte, hvfault, hvrd, -⟩ := endJob_leaves s d hv.symm
  generalize hx : noteCommand w code v = x at hu
  obtain ⟨hxdev, -, hxchans, hxfault, -, hxsame⟩ := noteCommand_rest hx.symm
  subst hu
  refine ⟨hxdev.trans hvdev, fun c => ?_, (hxsame.1 _ _ _ (by decide)).trans hvspeed, fun a => (hxsame.2 a).trans ((hvbyte a).trans ?_),
    hxfault.trans (hvfault.trans hfault), fun r => ?_, rfl⟩
  · rw [State.answer_chan, State.chan, hxchans]
    exact hvrests c
  · rw [State.byte, State.byte, hmem]
  · obtain ⟨hrest, hevent, hstatus⟩ := rbWr_kept r
    have hkey : rowKey E.rbWr r 0 ∉ [rowKey E.cmdLast 0 0, rowKey E.cmdResult 0 0] := by
      simp only [rowKey, E.rbWr, E.cmdLast, E.cmdResult, List.mem_cons, List.not_mem_nil, or_false]
      omega
    refine (hxsame.1 _ _ _ hkey).trans ((hvrd _ _ _ hrest hevent hstatus).trans ?_)
    rw [State.rd, State.rd, hdict]

theorem haltAct_waits (h : ∃ x ∈ s.chans, x.2.locked ≠ []) : haltAct s = s := by
  obtain ⟨x, hx, hlocked⟩ := h
  have hdrained : drained s = false := by
    rw [drained, List.all_eq_false]
    exact ⟨x, hx, by simpa using hlocked⟩
  rw [haltAct, hdrained, Bool.and_false]
  rfl

theorem haltAct_ends (hbusy : s.busyJob = true) (hstop : s.job.stopping = true) (h : ∀ x ∈ s.chans, x.2.locked = []) :
    haltAct s = endJob s .halt := by
  have hdrained : drained s = true := List.all_eq_true.mpr fun x hx => by rw [h x hx]; rfl
  rw [haltAct, hbusy, hstop, hdrained]
  rfl

/-- Settles O45. -/
theorem jobsEnd : Obligations.JobsEnd := by
  unfold Obligations.JobsEnd
  intro p s
  have hword (k : Nat) : (k * 2 ^ 40 : Int) = ((commandWord k 0 : Nat) : Int) := (commandWord_plain k).symm
  refine ⟨fun hacc => ?_, fun hbusy hstop => ⟨fun hlocked => ?_, fun hdrained => ?_⟩, fun hacc => ?_, fun hacc hdev => ?_⟩
  · have hacc : Accepted s p (s.superseded .job) E.command 0 0 ((commandWord 3 0 : Nat) : Int) := hword 3 ▸ hacc
    have hstep (hbusy : s.busyJob = true) : exec (.stop p 0) s =
        .next ((noteCommand (commandWord 3 0) okCode (stopJob s)).answer p okCode) := by
      rw [exec_stop, stopCommand, writeIf_command_done (effect := fun s => (okCode, stopJob s)) hacc hbusy (by decide) rfl
        okCode_ne_laterCode]
    refine ⟨fun hdev => ?_, fun hdev => ?_, fun hidle => ?_⟩
    · refine ⟨_, hstep (busyJob_iff.mpr (.inl hdev)), ?_⟩
      rw [stopJob_armed hdev]
      obtain ⟨hudev, hrests, hspeed, hbyte, -, -, hsent⟩ := endJob_noted (s.act .job .abort) s .halt _ _ ⟨rfl, rfl, rfl⟩ rfl
      exact ⟨hudev, hsent, fun c => (hrests c).1, hspeed, hbyte⟩
    · refine ⟨_, hstep (busyJob_iff.mpr (.inr hdev)), ?_⟩
      rw [stopJob_printing hdev]
      generalize hu : noteCommand (commandWord 3 0) okCode { s.act .job .abort with job := { s.job with stopping := true } } = u
      obtain ⟨hudev, hjob, hchans, -, hsent, hsame⟩ := noteCommand_rest hu.symm
      obtain ⟨hlast, hresult, -⟩ := noteCommand_leaves (.inl rfl) hu.symm
      exact ⟨hudev.trans hdev, congrArg JobSt.stopping hjob, hchans, hlast.trans (hword 3).symm, hresult,
        congrArg (List.cons _) hsent, hsame⟩
    · rw [exec_stop, stopCommand, writeIf_command_refused hacc hidle]
  · rw [exec_haltEntry, haltAct_waits hlocked]
  · refine ⟨_, exec_haltEntry s, ?_⟩
    obtain ⟨hudev, hustop, -, hspeed, hbyte, -, -, hevent⟩ := endJob_leaves s .halt (haltAct_ends hbusy hstop hdrained)
    exact ⟨hudev, hustop, hspeed, hbyte, hevent⟩
  · have hacc : Accepted s p (s.superseded .job) E.command 0 0 ((commandWord 4 0 : Nat) : Int) := hword 4 ▸ hacc
    refine ⟨fun hbusy => ?_, fun hdev => ?_⟩
    · have hhere : (s.dev != .boot && s.dev != .safe) = true := by
        rcases busyJob_iff.mp hbusy with h | h <;> rw [h] <;> rfl
      have hact : abortAct s = (okCode, endJob (s.act .job .abort) .ready) := if_pos hbusy
      refine ⟨_, by rw [exec_abort, abortCommand, writeIf_command_done (here := fun s => s.dev != .boot && s.dev != .safe)
        hacc hhere (by decide) hact okCode_ne_laterCode], ?_⟩
      obtain ⟨hudev, hrests, -, hbyte, hfault, hwr, hsent⟩ := endJob_noted (s.act .job .abort) s .ready _ _ ⟨rfl, rfl, rfl⟩ rfl
      exact ⟨hudev, fun c => (hrests c).1, fun c => (hrests c).2.1, fun c => (hrests c).2.2, hwr, hbyte, hfault, hsent⟩
    · have hhere : (s.dev != .boot && s.dev != .safe) = true := by
        rcases hdev with h | h | h <;> rw [h] <;> rfl
      have hidle : ¬s.busyJob = true := by
        rcases hdev with h | h | h <;> simp [State.busyJob, h]
      have hact : abortAct s = (codeNothing, s) := if_neg hidle
      refine ⟨_, by rw [exec_abort, abortCommand, writeIf_command_done (here := fun s => s.dev != .boot && s.dev != .safe)
        hacc hhere (by decide) hact codeNothing_ne_laterCode], ?_⟩
      generalize hu : noteCommand (commandWord 4 0) codeNothing s = u
      obtain ⟨hudev, -, -, -, hsent, hsame⟩ := noteCommand_rest hu.symm
      obtain ⟨-, hresult, -⟩ := noteCommand_leaves (.inr rfl) hu.symm
      exact ⟨hudev, hresult, congrArg (List.cons _) hsent, hsame⟩
  · have hacc : Accepted s p (s.superseded .job) E.command 0 0 ((commandWord 5 0 : Nat) : Int) := hword 5 ▸ hacc
    have hhere : (s.dev == .halt) = true := beq_iff_eq.mpr hdev
    refine ⟨fun hfrozen => ?_, fun hfree => ?_⟩
    · have hact : releaseAct s = (codeState, s) := if_pos hfrozen
      rw [exec_release, releaseCommand, writeIf_command_done (here := fun s => s.dev == .halt) hacc hhere (by decide) hact
        codeState_ne_laterCode, noteCommand_refused (by decide) (by decide)]
    · have hact : releaseAct s = (okCode, setDev s .ready) := if_neg (by rw [hfree]; exact Bool.false_ne_true)
      refine ⟨_, by rw [exec_release, releaseCommand, writeIf_command_done (here := fun s => s.dev == .halt) hacc hhere
        (by decide) hact okCode_ne_laterCode], ?_⟩
      obtain ⟨hsame, hready⟩ := setDev_same s .ready
      generalize setDev s .ready = v at hsame hready
      generalize hu : noteCommand (commandWord 5 0) okCode v = u
      obtain ⟨hudev, -, -, hfault, -, hnoted⟩ := noteCommand_rest hu.symm
      refine ⟨hudev.trans hready, rfl, hfault.trans hsame.faultQ, fun a => (hnoted.2 a).trans ?_⟩
      rw [State.byte, State.byte, hsame.mem]

end Sys2Proof.Machine
end

section
/-!
SUPPORT. Power domains: the order in which they power up, and what one that loses its state leaves alone (R45, R524).
-/
namespace Sys2Proof.Machine

variable {s t u : State} {c d : Nat}

/-! ### States and requests of domains -/

theorem domState_setDom (s : State) (st : Nat) (hd : d ≠ 0) : (setDom s d st).domState d = st := by
  rw [State.domState, if_neg hd, setDom, aget_ains_same]

theorem domState_setDom_ne (s : State) (st : Nat) {x : Nat} (h : x ≠ d) : (setDom s d st).domState x = s.domState x := by
  rw [State.domState, State.domState, setDom, aget_ains_ne _ _ _ h]

theorem domWaiting_setDom (s : State) (st x : Nat) : domWaiting (setDom s d st) x = domWaiting s x := by
  by_cases h : x = d
  · subst h
    rw [domWaiting, setDom, aget_ains_same]
    rfl
  · rw [domWaiting, setDom, aget_ains_ne _ _ _ h, domWaiting]

theorem domState_setWaiting (s : State) (w : Bool) (x : Nat) : (setWaiting s d w).domState x = s.domState x := by
  by_cases h : x = d
  · subst h
    rw [State.domState, State.domState, setWaiting, aget_ains_same]
  · rw [State.domState, State.domState, setWaiting, aget_ains_ne _ _ _ h]

theorem domWaiting_setWaiting (s : State) (w : Bool) : domWaiting (setWaiting s d w) d = w := by
  rw [domWaiting, setWaiting, aget_ains_same]

theorem domWaiting_setWaiting_ne (s : State) (w : Bool) {x : Nat} (h : x ≠ d) :
    domWaiting (setWaiting s d w) x = domWaiting s x := by
  rw [domWaiting, setWaiting, aget_ains_ne _ _ _ h, domWaiting]

theorem domOn_setWaiting (s : State) (w : Bool) (x : Nat) : (setWaiting s d w).domOn x = s.domOn x := by
  rw [State.domOn, State.domOn, domState_setWaiting]

theorem brownout_setWaiting (s : State) (w : Bool) : brownout (setWaiting s d w) = brownout s := by
  have hon (m : Nat) : monitorOn (setWaiting s d w) m = monitorOn s m := by
    rw [monitorOn, monitorOn, domOn_setWaiting, domState_setWaiting]
  rw [brownout, brownout]
  exact congrArg (List.any s.sup.low) (funext hon)

/-! ### The next power-up -/

/-- The next power-up is that of a domain that waits and is not on its way down (R524). -/
theorem nextPowerUp_leaves (s : State) (hu : u = nextPowerUp s) : (∃ l, u = { s with doms := l }) ∧
    ∀ x, domWaiting s x = false ∨ s.domState x = 4 → u.domState x = s.domState x := by
  refine ⟨hu ▸ nextPowerUp_doms s, fun x hx => ?_⟩
  subst hu
  unfold nextPowerUp
  split
  · rfl
  · split
    · rfl
    next y hy =>
      have hwaits := List.find?_some hy
      have hne : x ≠ y := by
        rintro rfl
        rcases hx with hx | hx <;> simp [hx] at hwaits
      rw [domState_setDom_ne _ _ hne, domState_setWaiting]

/-- A request whose domain may power up at once (R523, R524): it needs no other, no other powers up or waits. -/
theorem requestUp_starts (hlt : d < 12) (hzero : d ≠ 0) (hoff : s.domState d = 0)
    (hfree : ∀ x, x < 12 → s.domState x ≠ 1 ∧ domWaiting s x = false) (hneeds : (prerequisites d).all s.domOn = true)
    (hbrown : brownout s = false) (hshut : s.shut = none) (hdev : s.dev ≠ .safe) (hu : u = requestUp s d) :
    (∃ l, u = { s with doms := l }) ∧ u.domState d = 1 ∧ ∀ x, x ≠ d → u.domState x = s.domState x := by
  have hon : s.domOn d = false := by rw [State.domOn, hoff]; rfl
  have hrequest : requestUp s d = nextPowerUp (setWaiting s d true) := if_neg (by simp [hoff, hon])
  have hquiet : (List.range 12).any (fun x => (setWaiting s d true).domState x == 1) = false := by
    refine List.any_eq_false.mpr fun x hx => ?_
    rw [domState_setWaiting]
    simpa using (hfree x (List.mem_range.mp hx)).1
  have hfind : (List.range 12).find? (fun x => domWaiting (setWaiting s d true) x && (setWaiting s d true).domState x != 4 &&
      (prerequisites x).all (setWaiting s d true).domOn) = some d := by
    have hothers : ∀ x < 12, x ≠ d → domWaiting (setWaiting s d true) x = false := fun x hx hne =>
      (domWaiting_setWaiting_ne s true hne).trans (hfree x hx).2
    have hself : (domWaiting (setWaiting s d true) d && (setWaiting s d true).domState d != 4 &&
        (prerequisites d).all (setWaiting s d true).domOn) = true := by
      have hall : (prerequisites d).all (setWaiting s d true).domOn = true := by
        rw [funext (domOn_setWaiting s true)]
        exact hneeds
      rw [domWaiting_setWaiting, domState_setWaiting, hoff, hall]
      rfl
    refine List.find?_eq_some_iff_getElem.mpr ⟨hself, d, by simpa using hlt, List.getElem_range .., fun j hj => ?_⟩
    rw [List.getElem_range, hothers j (Nat.lt_trans hj hlt) (Nat.ne_of_lt hj)]
    rfl
  have hnext : nextPowerUp (setWaiting s d true) = setDom (setWaiting (setWaiting s d true) d false) d 1 := by
    have hblocked : ¬(brownout (setWaiting s d true) = true ∨ 6 ≤ (setWaiting s d true).shutStep ∨
        (setWaiting s d true).dev = .safe ∨
        (List.range 12).any (fun x => (setWaiting s d true).domState x == 1) = true) := by
      have hstep : (setWaiting s d true).shutStep = 0 := by
        rw [State.shutStep, show (setWaiting s d true).shut = s.shut from rfl, hshut]
        rfl
      rw [brownout_setWaiting, hbrown, hstep, hquiet]
      simpa using hdev
    unfold nextPowerUp
    rw [if_neg hblocked, hfind]
  rw [hrequest, hnext] at hu
  subst hu
  refine ⟨⟨_, rfl⟩, domState_setDom _ _ hzero, fun x hx => ?_⟩
  rw [domState_setDom_ne _ _ hx, domState_setWaiting, domState_setWaiting]

/-! ### What a domain that loses its state leaves alone -/

/-- What no domain holds: the trace, the messages, the other domains, shutdowns, supplies, fuses, the flash and the device. -/
structure DomainRest (s t : State) : Prop where
  dev : t.dev = s.dev
  sent : t.sent = s.sent
  faultQ : t.faultQ = s.faultQ
  doms : t.doms = s.doms
  shut : t.shut = s.shut
  sup : t.sup = s.sup
  otp : t.otp = s.otp
  store : ∃ b, t.store = { s.store with crcStale := b }

namespace DomainRest

theorem refl (s : State) : DomainRest s s := ⟨rfl, rfl, rfl, rfl, rfl, rfl, rfl, _, rfl⟩

theorem trans (h : DomainRest s t) (h' : DomainRest t u) : DomainRest s u := by
  obtain ⟨b, hb⟩ := h.store
  obtain ⟨b', hb'⟩ := h'.store
  exact ⟨h'.dev.trans h.dev, h'.sent.trans h.sent, h'.faultQ.trans h.faultQ, h'.doms.trans h.doms, h'.shut.trans h.shut,
    h'.sup.trans h.sup, h'.otp.trans h.otp, b', by rw [hb', hb]⟩

theorem wr (s : State) (q : Row) (v : Int) (i j : Nat) : DomainRest s (s.wr q v i j) :=
  ⟨rfl, rfl, rfl, rfl, rfl, rfl, rfl, _, rfl⟩

theorem setLoop (s : State) (l : Nat) (x : LoopSt) : DomainRest s (s.setLoop l x) :=
  ⟨rfl, rfl, rfl, rfl, rfl, rfl, rfl, _, rfl⟩

theorem dict (s : State) (l : List (Nat × Int)) : DomainRest s ({ s with dict := l } : State).stale :=
  ⟨rfl, rfl, rfl, rfl, rfl, rfl, rfl, _, rfl⟩

theorem setHistory (v : Int) : ∀ (n k : Nat) (s : State), DomainRest s (setHistory v n k s)
  | 0, _, s => refl s
  | n + 1, k, s => by
    have hset : DomainRest s (s.setSec k { s.sec k with x1 := v, x2 := v }) := ⟨rfl, rfl, rfl, rfl, rfl, rfl, rfl, _, rfl⟩
    exact hset.trans (setHistory v n (k + 1) _)

end DomainRest

/-! ### The units of a domain -/

/-- What the units of a domain do not hold: what no domain does, and the entries. -/
structure UnitsRest (s t : State) : Prop where
  rest : DomainRest s t
  dict : t.dict = s.dict

namespace UnitsRest

theorem refl (s : State) : UnitsRest s s := ⟨.refl s, rfl⟩

theorem trans (h : UnitsRest s t) (h' : UnitsRest t u) : UnitsRest s u := ⟨h.rest.trans h'.rest, h'.dict.trans h.dict⟩

theorem clearBytes (s : State) (a n : Nat) : UnitsRest s (s.clearBytes a n) :=
  ⟨⟨rfl, rfl, rfl, rfl, rfl, rfl, rfl, _, rfl⟩, rfl⟩

theorem memory (s : State) (m : MemSt) : UnitsRest s { s with memory := m } :=
  ⟨⟨rfl, rfl, rfl, rfl, rfl, rfl, rfl, _, rfl⟩, rfl⟩

theorem clearGroupSpace (base g : Nat) (s : State) : UnitsRest s (clearGroupSpace base g s) :=
  (clearBytes s _ _).trans (clearBytes _ _ _)

theorem clearGroup (g : Nat) (s : State) : UnitsRest s (clearGroup g s) := by
  have hspaces := ((clearGroupSpace shadowBase g s).trans (clearGroupSpace activeBase g _)).trans (clearGroupSpace healthBase g _)
  unfold Machine.clearGroup
  generalize Machine.clearGroupSpace healthBase g
    (Machine.clearGroupSpace activeBase g (Machine.clearGroupSpace shadowBase g s)) = v at *
  exact hspaces.trans ⟨⟨rfl, rfl, rfl, rfl, rfl, rfl, rfl, _, rfl⟩, rfl⟩

theorem clearRanks (a n : Nat) (keep : Bool) (s : State) : UnitsRest s (clearRanks a n keep s) :=
  (clearBytes s _ _).trans (memory _ _)

theorem clearUnits (d : Nat) (s : State) : UnitsRest s (clearUnits d s) := by
  unfold Machine.clearUnits
  split
  · exact ⟨⟨rfl, rfl, rfl, rfl, rfl, rfl, rfl, _, rfl⟩, rfl⟩
  · split
    · exact ⟨⟨rfl, rfl, rfl, rfl, rfl, rfl, rfl, _, rfl⟩, rfl⟩
    · split
      · exact (clearRanks ..).trans (memory _ _)
      · split
        · exact clearRanks ..
        · split
          · exact (clearRanks ..).trans (memory _ _)
          · split
            · exact clearGroup ..
            · split
              · exact ⟨⟨rfl, rfl, rfl, rfl, rfl, rfl, rfl, _, rfl⟩, rfl⟩
              · split
                · have hspaces := (clearBytes s sramBase sramSize).trans (clearBytes _ linkBase 0x10000)
                  generalize (s.clearBytes sramBase sramSize).clearBytes linkBase 0x10000 = v at *
                  exact hspaces.trans ⟨⟨rfl, rfl, rfl, rfl, rfl, rfl, rfl, _, rfl⟩, rfl⟩
                · exact refl s

end UnitsRest

/-! ### Heaters of a group that is off -/

theorem setHistory_dict (v : Int) : ∀ (n k : Nat) (s : State), (setHistory v n k s).dict = s.dict
  | 0, _, _ => rfl
  | n + 1, k, _ => setHistory_dict v n (k + 1) _

/-- The rows of a heater loop that switching it off writes. -/
def heaterRows : List Row := [E.refTarget, E.output, E.y1, E.y2, E.hofs, E.refNow]

theorem heaterStart_eq (s : State) (c : Nat) : ∃ x v w, v = s.setLoop (98 + c) x ∧
    w = setHistory 0 (chainLen v (98 + c) true) (chainFirst v (98 + c) true) (v.wr E.output 0 (98 + c)) ∧
    heaterStart s c = (((w.wr E.y1 0 (98 + c)).wr E.y2 0 (98 + c)).wr E.hofs 0 (98 + c)).wr E.refNow (w.chan c).ownTemp (98 + c) :=
  ⟨_, _, _, rfl, rfl, rfl⟩

/-- A heater loop is switched off: its output is 0 (R275). -/
theorem heaterStart_leaves (s : State) (c : Nat) (hu : u = heaterStart s c) : DomainRest s u ∧ u.rd E.output (98 + c) = 0 ∧
    ∀ r i j, rowKey r i j ∉ [E.output, E.y1, E.y2, E.hofs, E.refNow].map (fun q => rowKey q (98 + c) 0) →
      u.rd r i j = s.rd r i j := by
  obtain ⟨x, v, w, hv, hw, heq⟩ := heaterStart_eq s c
  rw [heq] at hu
  have hrest : DomainRest s v := hv ▸ .setLoop s _ _
  have hvrd : ∀ r i j, v.rd r i j = s.rd r i j := hv ▸ fun _ _ _ => rfl
  have hhist := DomainRest.setHistory 0 (chainLen v (98 + c) true) (chainFirst v (98 + c) true) (v.wr E.output 0 (98 + c))
  have hdict := setHistory_dict 0 (chainLen v (98 + c) true) (chainFirst v (98 + c) true) (v.wr E.output 0 (98 + c))
  rw [← hw] at hhist hdict
  have hwrd (r : Row) (i j : Nat) : w.rd r i j = (v.wr E.output 0 (98 + c)).rd r i j := by rw [State.rd, hdict, State.rd]
  generalize (w.chan c).ownTemp = temp at hu
  subst hu
  refine ⟨(((((hrest.trans (.wr _ _ _ _ _)).trans hhist).trans (.wr _ _ _ _ _)).trans (.wr _ _ _ _ _)).trans
    (.wr _ _ _ _ _)).trans (.wr _ _ _ _ _), ?_, fun r i j hk => ?_⟩
  · have h1 : rowKey E.output (98 + c) 0 ≠ rowKey E.refNow (98 + c) 0 := by simp only [rowKey, E.output, E.refNow]; omega
    have h2 : rowKey E.output (98 + c) 0 ≠ rowKey E.hofs (98 + c) 0 := by simp only [rowKey, E.output, E.hofs]; omega
    have h3 : rowKey E.output (98 + c) 0 ≠ rowKey E.y2 (98 + c) 0 := by simp only [rowKey, E.output, E.y2]; omega
    have h4 : rowKey E.output (98 + c) 0 ≠ rowKey E.y1 (98 + c) 0 := by simp only [rowKey, E.output, E.y1]; omega
    rw [State.rd_wr _ _ _ _ _ _ _ _ h1, State.rd_wr _ _ _ _ _ _ _ _ h2, State.rd_wr _ _ _ _ _ _ _ _ h3,
      State.rd_wr _ _ _ _ _ _ _ _ h4, hwrd]
    exact State.rd_wr_same ..
  · simp only [List.map_cons, List.map_nil, List.mem_cons, List.not_mem_nil, or_false, not_or] at hk
    obtain ⟨h1, h2, h3, h4, h5⟩ := hk
    rw [State.rd_wr _ _ _ _ _ _ _ _ h5, State.rd_wr _ _ _ _ _ _ _ _ h4, State.rd_wr _ _ _ _ _ _ _ _ h3,
      State.rd_wr _ _ _ _ _ _ _ _ h2, hwrd, State.rd_wr _ _ _ _ _ _ _ _ h1, hvrd]

/-- The heater of a channel whose domain is off: switched off, with the set point that the domain has lost (R215, R275). -/
def heaterLost (s : State) (c : Nat) : State := heaterStart (s.wr E.refTarget (s.rd E.heaterSet c) (98 + c)) c

theorem heaterLost_leaves (s : State) (c : Nat) (hu : u = heaterLost s c) : DomainRest s u ∧ u.rd E.output (98 + c) = 0 ∧
    u.rd E.refTarget (98 + c) = s.rd E.heaterSet c ∧
    ∀ r i j, rowKey r i j ∉ heaterRows.map (fun q => rowKey q (98 + c) 0) → u.rd r i j = s.rd r i j := by
  obtain ⟨hrest, hout, hrd⟩ := heaterStart_leaves _ c hu
  refine ⟨(DomainRest.wr s _ _ _ _).trans hrest, hout, ?_, fun r i j hk => ?_⟩
  · refine (hrd _ _ _ ?_).trans (State.rd_wr_same ..)
    simp only [List.map_cons, List.map_nil, List.mem_cons, List.not_mem_nil, or_false, rowKey, E.refTarget, E.output, E.y1, E.y2,
      E.hofs, E.refNow]
    omega
  · simp only [heaterRows, List.map_cons, List.map_nil, List.mem_cons, List.not_mem_nil, or_false, not_or] at hk
    obtain ⟨h1, h2, h3, h4, h5, h6⟩ := hk
    exact (hrd r i j (by simp [h2, h3, h4, h5, h6])).trans (State.rd_wr _ _ _ _ _ _ _ _ h1)

/-- Loop rows of two heaters have no key in common, and none is a channel's set point. -/
theorem heaterKey_apart {e : Nat} (h : c ≠ e) {r : Row} (hr : r ∈ [E.output, E.refTarget]) :
    rowKey r (98 + c) 0 ∉ heaterRows.map (fun q => rowKey q (98 + e) 0) := by
  simp only [List.mem_cons, List.not_mem_nil, or_false] at hr
  simp only [heaterRows, List.map_cons, List.map_nil, List.mem_cons, List.not_mem_nil, or_false, rowKey, E.refTarget, E.output,
    E.y1, E.y2, E.hofs, E.refNow]
  rcases hr with rfl | rfl <;> simp only [E.output, E.refTarget] <;> omega

theorem heaterSet_apart {e : Nat} (h : c < 96) (he : e < 96) : rowKey E.heaterSet c 0 ∉ heaterRows.map (fun q => rowKey q (98 + e) 0) := by
  simp only [heaterRows, List.map_cons, List.map_nil, List.mem_cons, List.not_mem_nil, or_false, rowKey, E.heaterSet, E.refTarget,
    E.output, E.y1, E.y2, E.hofs, E.refNow, not_or]
  refine ⟨?_, ?_, ?_, ?_, ?_, ?_⟩ <;> omega

theorem foldl_heaterLost : ∀ (l : List Nat) (s : State), (∀ e ∈ l, e < 96) → DomainRest s (l.foldl heaterLost s) ∧
    (∀ c, c < 96 → c ∈ l ∨ (s.rd E.output (98 + c) = 0 ∧ s.rd E.refTarget (98 + c) = s.rd E.heaterSet c) →
      (l.foldl heaterLost s).rd E.output (98 + c) = 0 ∧ (l.foldl heaterLost s).rd E.refTarget (98 + c) = s.rd E.heaterSet c) ∧
    ∀ r i j, rowKey r i j ∉ l.flatMap (fun c => heaterRows.map (fun q => rowKey q (98 + c) 0)) →
      (l.foldl heaterLost s).rd r i j = s.rd r i j
  | [], s, _ => ⟨.refl s, fun _ _ h => h.resolve_left List.not_mem_nil, fun _ _ _ _ => rfl⟩
  | e :: l, s, hl => by
    obtain ⟨hrest, hout, htarget, hrd⟩ := heaterLost_leaves s e rfl
    obtain ⟨hrest', hoff', hrd'⟩ := foldl_heaterLost l (heaterLost s e) fun x hx => hl x (List.mem_cons_of_mem _ hx)
    refine ⟨hrest.trans hrest', fun c hc h => ?_, fun r i j hk => ?_⟩
    · have hset : (heaterLost s e).rd E.heaterSet c = s.rd E.heaterSet c := hrd _ _ _ (heaterSet_apart hc (hl e List.mem_cons_self))
      rw [← hset]
      refine hoff' c hc ?_
      by_cases hce : c = e
      · subst hce
        exact .inr ⟨hout, htarget.trans hset.symm⟩
      · rw [hrd _ _ _ (heaterKey_apart hce (by simp)), hrd _ _ _ (heaterKey_apart hce (by simp)), hset]
        exact h.imp_left fun hm => (List.mem_cons.mp hm).resolve_left hce
    · rw [List.flatMap_cons, List.mem_append, not_or] at hk
      exact (hrd' r i j hk.2).trans (hrd r i j hk.1)

theorem groupHeaters_eq (g : Nat) (s : State) : groupHeaters g s =
    if s.domOn 10 then ((List.range 24).map (24 * g + ·)).foldl heaterLost s else s := by
  unfold groupHeaters
  rw [List.foldl_map]
  cases s.domOn 10 <;> rfl

theorem heaterKeys_group (hlow : 6 ≤ d) (hhigh : d ≤ 9) :
    heaterKeys d = ((List.range 24).map (24 * (d - 6) + ·)).flatMap (fun c => heaterRows.map (fun q => rowKey q (98 + c) 0)) := by
  rw [heaterKeys, if_pos ⟨hlow, hhigh⟩, List.flatMap_map]
  simp only [Nat.add_assoc, heaterRows]

/-! ### A domain loses its state -/

/-- The keys that a domain's loss of its state resets. -/
def lostKey (d k : Nat) : Bool := domainOfKey k == d && !fusedKey k

theorem rd_filtered (s : State) (p : Nat × Int → Bool) (r : Row) (i j : Nat) (b : Bool) (hp : ∀ v, p (rowKey r i j, v) = b) :
    (({ s with dict := s.dict.filter p } : State).stale).rd r i j = if b then s.rd r i j else r.dflt i j := by
  cases b with
  | true => exact aget_filter hp s.dict
  | false =>
    refine aget_of_notMem fun x hx heq => ?_
    have hkept := (List.mem_filter.mp hx).2
    rw [← Prod.mk.eta (p := x), heq, hp] at hkept
    exact Bool.false_ne_true hkept

/-- The entries of head care and the Drive link, by channel (R45). -/
theorem domainOfKey_channel {k : Nat} (h : 0x2320 ≤ k / 256 ∧ k / 256 ≤ 0x2331) : domainOfKey k = engDom (k % 256 - 1) := by
  unfold domainOfKey
  dsimp only
  rw [if_neg (by omega), if_neg (by omega), if_pos h]

theorem rowFind_below {r : Row} {k : Nat} (h : k < r.k0) : rowFind r k = none := if_pos h

theorem rowFind_beyond {r : Row} {k : Nat} (h : r.units ≤ (k - r.k0) / r.step) : rowFind r k = none := by
  unfold rowFind
  split
  · rfl
  · exact if_neg fun hlt => Nat.not_lt.mpr h hlt.1

/-- HEATER_SET is no fused setting. -/
theorem fusedKey_heaterSet (hc : c < 96) : fusedKey (rowKey E.heaterSet c 0) = false := by
  have hring : ∀ r ∈ [E.ringAddr, E.ringAddrLeft, E.ringAddrNow], r.k0 + 256 ≤ 0x232701 ∧ r.step = 256 ∧ r.units = 1 := by decide
  have hengine : ∀ r ∈ [E.chDisable, E.chDisableLeft], 0x232701 + 96 ≤ r.k0 := by decide
  have hkey : rowKey E.heaterSet c 0 = 0x232701 + c := by simp [rowKey, E.heaterSet]
  have hnone (r : Row) (hr : r ∈ [E.ringAddr, E.ringAddrLeft, E.ringAddrNow] ++ [E.chDisable, E.chDisableLeft]) :
      rowFind r (rowKey E.heaterSet c 0) = none := by
    rw [hkey]
    rcases List.mem_append.mp hr with hr | hr
    · obtain ⟨hlow, hstep, hunits⟩ := hring r hr
      refine rowFind_beyond ?_
      rw [hunits, hstep]
      omega
    · have hhigh := hengine r hr
      exact rowFind_below (by omega)
  exact List.any_eq_false.mpr fun r hr => by simp [hnone r hr]

/-- A domain that loses its state (R45): its entries read their defaults; of the others only those of the heater loops of its
group change. -/
theorem clearDomain_leaves (d : Nat) (s : State) (hu : u = clearDomain d s) : DomainRest s u ∧
    (∀ r i j, (domainOfKey (rowKey r i j) ≠ d → rowKey r i j ∉ heaterKeys d → u.rd r i j = s.rd r i j) ∧
      (domainOfKey (rowKey r i j) = d → fusedKey (rowKey r i j) = false → u.rd r i j = r.dflt i j)) ∧
    (6 ≤ d → d ≤ 9 → s.domOn 10 = true → ∀ c, c < 96 → d = 6 + groupOf c →
      u.rd E.output (98 + c) = 0 ∧ u.rd E.refTarget (98 + c) = E.heaterSet.dflt c 0) := by
  unfold clearDomain at hu
  obtain ⟨hunits, hdict⟩ := UnitsRest.clearUnits d s
  generalize clearUnits d s = v at hu hunits hdict
  have hvrd (r : Row) (i j : Nat) : v.rd r i j = s.rd r i j := by rw [State.rd, hdict, State.rd]
  dsimp only at hu
  have hcleared : ∀ r i j, (({ v with dict := v.dict.filter (fun x => domainOfKey x.1 != d || fusedKey x.1) } : State).stale).rd r i j =
      if domainOfKey (rowKey r i j) != d || fusedKey (rowKey r i j) then s.rd r i j else r.dflt i j := fun r i j => by
    rw [rd_filtered v _ r i j (domainOfKey (rowKey r i j) != d || fusedKey (rowKey r i j)) fun _ => rfl, hvrd]
  have hrest := hunits.trans (.dict v (v.dict.filter (fun x => domainOfKey x.1 != d || fusedKey x.1)))
  generalize ({ v with dict := v.dict.filter (fun x => domainOfKey x.1 != d || fusedKey x.1) } : State).stale = w at *
  have hkept (r : Row) (i j : Nat) (h : domainOfKey (rowKey r i j) ≠ d) : w.rd r i j = s.rd r i j := by
    rw [hcleared, if_pos (by simp [h])]
  have hlost (r : Row) (i j : Nat) (h : domainOfKey (rowKey r i j) = d) (hf : fusedKey (rowKey r i j) = false) :
      w.rd r i j = r.dflt i j := by
    rw [hcleared, if_neg (by simp [h, hf])]
  have hon : w.domOn 10 = s.domOn 10 := by rw [State.domOn, State.domState, hrest.doms, State.domOn, State.domState]
  by_cases hgroup : 6 ≤ d ∧ d ≤ 9
  · rw [if_pos hgroup, groupHeaters_eq, hon] at hu
    obtain ⟨hlow, hhigh⟩ := hgroup
    have hkeys := heaterKeys_group hlow hhigh
    obtain ⟨hfrest, hfoff, hfrd⟩ := foldl_heaterLost ((List.range 24).map (24 * (d - 6) + ·)) w fun e he => by
      obtain ⟨k, hk, rfl⟩ := List.mem_map.mp he
      have hk := List.mem_range.mp hk
      omega
    rw [← hkeys] at hfrd
    have hapart {r : Row} {i j : Nat} (h : domainOfKey (rowKey r i j) = d) : rowKey r i j ∉ heaterKeys d := by
      intro hm
      rw [hkeys] at hm
      obtain ⟨c, hc, hm⟩ := List.mem_flatMap.mp hm
      obtain ⟨k, hk, rfl⟩ := List.mem_map.mp hc
      have hk := List.mem_range.mp hk
      obtain ⟨q, hq, hkey⟩ := List.mem_map.mp hm
      have hten : domainOfKey (rowKey q (98 + (24 * (d - 6) + k)) 0) = 10 := by
        have hrange : 0x2100 ≤ rowKey q (98 + (24 * (d - 6) + k)) 0 / 256 ∧ rowKey q (98 + (24 * (d - 6) + k)) 0 / 256 ≤ 0x22FF := by
          simp only [heaterRows, List.mem_cons, List.not_mem_nil, or_false] at hq
          rcases hq with rfl | rfl | rfl | rfl | rfl | rfl <;>
            simp only [rowKey, E.refTarget, E.output, E.y1, E.y2, E.hofs, E.refNow] <;> omega
        simp only [domainOfKey]
        rw [if_neg (by omega), if_pos hrange]
      rw [hkey, h] at hten
      omega
    refine ⟨?_, fun r i j => ⟨fun hne hk => ?_, fun heq hf => ?_⟩, fun _ _ hten c hc hd => ?_⟩
    · rw [hu]
      split
      · exact hrest.trans hfrest
      · exact hrest
    · rw [hu]
      split
      · exact (hfrd r i j hk).trans (hkept r i j hne)
      · exact hkept r i j hne
    · rw [hu]
      split
      · exact (hfrd r i j (hapart heq)).trans (hlost r i j heq hf)
      · exact hlost r i j heq hf
    · rw [if_pos hten] at hu
      have hmem : c ∈ (List.range 24).map (24 * (d - 6) + ·) := by
        refine List.mem_map.mpr ⟨c % 24, List.mem_range.mpr (Nat.mod_lt _ (by decide)), ?_⟩
        simp only [groupOf] at hd
        omega
      obtain ⟨hout, htarget⟩ := hfoff c hc (.inl hmem)
      have hset : w.rd E.heaterSet c = E.heaterSet.dflt c 0 := by
        refine hlost _ _ _ ?_ ?_
        · have hx : rowKey E.heaterSet c 0 / 256 = 0x2327 ∧ rowKey E.heaterSet c 0 % 256 = c + 1 := by
            simp only [rowKey, E.heaterSet]
            omega
          rw [domainOfKey_channel (by omega), hx.2, Nat.add_sub_cancel, engDom, engGroup, if_pos hc, hd, groupOf]
        · exact fusedKey_heaterSet hc
      rw [hu]
      exact ⟨hout, htarget.trans hset⟩
  · rw [if_neg hgroup] at hu
    subst hu
    exact ⟨hrest, fun r i j => ⟨fun hne _ => hkept r i j hne, hlost r i j⟩, fun hlow hhigh => absurd ⟨hlow, hhigh⟩ hgroup⟩

end Sys2Proof.Machine
end

section
/-!
CERTIFICATE. Power domains switch (R45, R47, R522 to R524).
-/
namespace Sys2Proof.Machine

variable {s t u : State} {p : Port}

theorem exec_domReqWrite (s : State) (p : Port) (d : Dom) (v : Nat) : exec (.domReqWrite p d v) s =
    .next (writeIf s p (s.superseded noTarget) E.domReq d 0 v (domReqAct d v)) := rfl
theorem exec_domPowerUpDone (s : State) (d : Dom) (bad : List Eng) :
    exec (.domPowerUpDone d bad) s = .next (powerUpAct d (bad.map Fin.val) s) := rfl
theorem exec_domFail (s : State) (d : Dom) : exec (.domFail d) s = .next (domFailAct d s) := rfl
theorem exec_domPowerDownDone (s : State) (d : Dom) : exec (.domPowerDownDone d) s = .next (powerDownAct d s) := rfl

/-- The entries and bytes go by the dictionary and the memories alone. -/
theorem sameBut_of_doms {keys : List Nat} {l : List (Nat × DomSt)} (h : SameBut s t keys) (hu : u = { t with doms := l }) :
    SameBut s u keys := by
  subst hu
  exact h

/-! ### Requests -/

theorem domReqAct_refused {d v : Nat} (h : domReqRefused s d v = true) : domReqAct d v s = (codeState, s) := if_pos h

theorem domReqAct_down {d : Nat} (h : domReqRefused s d 0 = false) :
    domReqAct d 0 s = (okCode, nextPowerUp (beginDown (s.wr E.domReq (0 : Nat) d) d)) := by
  rw [domReqAct, h]
  rfl

theorem domReqAct_up {d : Nat} (h : domReqRefused s d 1 = false) :
    domReqAct d 1 s = (okCode, requestUp (s.wr E.domReq (1 : Nat) d) d) := by
  rw [domReqAct, h]
  rfl

theorem not_zero_of_unrefused {d v : Nat} (h : domReqRefused s d v = false) : d ≠ 0 := by
  rintro rfl
  exact absurd h (by simp [domReqRefused])

theorem domReq_down (d : Dom) (hacc : Accepted s p (s.superseded noTarget) E.domReq d 0 0) (h : domReqRefused s d 0 = false)
    (hon : s.domOn d = true) : Gives (.domReqWrite p d 0) s fun u => u.rd E.domReq d = 0 ∧ u.domState d = 4 ∧
      u.sent = .answer p okCode [] :: s.sent ∧ u.faultQ = s.faultQ ∧ SameBut s u [rowKey E.domReq d 0] := by
  have hdown : beginDown (s.wr E.domReq (0 : Nat) d) d = setDom (s.wr E.domReq (0 : Nat) d) d 4 := if_pos hon
  refine gives_of_writeIf (exec_domReqWrite s p d 0) hacc (domReqAct_down h) okCode_ne_laterCode fun b => ?_
  rw [hdown]
  generalize hv : nextPowerUp (setDom (s.wr E.domReq (0 : Nat) d) d 4) = v
  obtain ⟨⟨l, hl⟩, hstate⟩ := nextPowerUp_leaves _ hv.symm
  have hfour : (setDom (s.wr E.domReq (0 : Nat) d) d 4).domState d = 4 := domState_setDom _ _ (not_zero_of_unrefused h)
  have hsame : SameBut s (setDom (s.wr E.domReq (0 : Nat) d) d 4) [rowKey E.domReq d 0] := (SameBut.refl s _).wr (by simp) _
  have hzero : (setDom (s.wr E.domReq (0 : Nat) d) d 4).rd E.domReq d = 0 := State.rd_wr_same ..
  have hrest : (setDom (s.wr E.domReq (0 : Nat) d) d 4).sent = s.sent ∧ (setDom (s.wr E.domReq (0 : Nat) d) d 4).faultQ = s.faultQ :=
    ⟨rfl, rfl⟩
  have hdone := (hstate d (.inr hfour)).trans hfour
  generalize setDom (s.wr E.domReq (0 : Nat) d) d 4 = w at *
  subst hl
  exact ⟨hzero, hdone, congrArg (List.cons _) hrest.1, hrest.2, ((sameBut_of_doms hsame rfl).withStale b).answer p okCode []⟩

theorem domReq_up (d : Dom) (hacc : Accepted s p (s.superseded noTarget) E.domReq d 0 1) (h : domReqRefused s d 1 = false)
    (hoff : s.domState d = 0) (hfree : ∀ x, x < 12 → s.domState x ≠ 1 ∧ domWaiting s x = false)
    (hneeds : (prerequisites d).all s.domOn = true) (hbrown : brownout s = false) (hshut : s.shut = none) :
    Gives (.domReqWrite p d 1) s fun u => u.rd E.domReq d = 1 ∧ u.domState d = 1 ∧
      (∀ x, x ≠ d.val → u.domState x = s.domState x) ∧ u.sent = .answer p okCode [] :: s.sent ∧ u.faultQ = s.faultQ ∧
      SameBut s u [rowKey E.domReq d 0] := by
  have hsafe : s.dev ≠ .safe := by
    have hup := (Bool.and_eq_true_iff.mp hacc.1).1
    exact bne_iff_ne.mp hup
  refine gives_of_writeIf (exec_domReqWrite s p d 1) hacc (domReqAct_up h) okCode_ne_laterCode fun b => ?_
  generalize hv : requestUp (s.wr E.domReq (1 : Nat) d) d = v
  obtain ⟨⟨l, hl⟩, hone, hothers⟩ := requestUp_starts (s := s.wr E.domReq (1 : Nat) d) d.isLt (not_zero_of_unrefused h) hoff hfree
    hneeds hbrown hshut hsafe hv.symm
  have hsame : SameBut s (s.wr E.domReq (1 : Nat) d) [rowKey E.domReq d 0] := (SameBut.refl s _).wr (by simp) _
  have hset : (s.wr E.domReq (1 : Nat) d).rd E.domReq d = 1 := State.rd_wr_same ..
  have hrest : (s.wr E.domReq (1 : Nat) d).sent = s.sent ∧ (s.wr E.domReq (1 : Nat) d).faultQ = s.faultQ := ⟨rfl, rfl⟩
  have hstate (x : Nat) : (s.wr E.domReq (1 : Nat) d).domState x = s.domState x := rfl
  simp only [hstate] at hothers
  generalize s.wr E.domReq (1 : Nat) d = w at *
  subst hl
  exact ⟨hset, hone, hothers, congrArg (List.cons _) hrest.1, hrest.2, ((sameBut_of_doms hsame rfl).withStale b).answer p okCode []⟩

/-! ### A domain that has powered up -/

theorem powerUpAct_done {d : Nat} {bad : List Nat} (h : s.domState d = 1) :
    powerUpAct d bad s = nextPowerUp (domainUp d bad s) := if_pos h

theorem domainUp_native {d : Nat} {bad : List Nat} {v : State} (hv : v = startDomain d bad (setDom s d (if d = 11 then 3 else 2)))
    (h : v.finup = false) : domainUp d bad s = v := by
  unfold domainUp
  dsimp only
  rw [← hv, if_neg (by simp [h])]

/-- A domain that has powered up keeps its code while the next one begins. -/
theorem powerUpAct_leaves {d : Nat} {bad : List Nat} {v : State} (hd : d ≠ 0) (h : s.domState d = 1) (hwaits : domWaiting s d = false)
    (hv : v = startDomain d bad (setDom s d (if d = 11 then 3 else 2))) (hdoms : v.doms = (setDom s d (if d = 11 then 3 else 2)).doms)
    (hfinup : v.finup = false) (hu : u = powerUpAct d bad s) :
    (∃ l, u = { v with doms := l }) ∧ u.domState d = if d = 11 then 3 else 2 := by
  rw [powerUpAct_done h, domainUp_native hv hfinup] at hu
  obtain ⟨hl, hstate⟩ := nextPowerUp_leaves _ hu
  have hcode : v.domState d = if d = 11 then 3 else 2 := by
    rw [← domState_setDom s (if d = 11 then 3 else 2) hd, State.domState, State.domState, hdoms]
  have hquiet : domWaiting v d = false := by
    rw [domWaiting, hdoms]
    exact (domWaiting_setDom s _ d).trans hwaits
  exact ⟨hl, (hstate d (.inl hquiet)).trans hcode⟩

/-- A domain whose units begin with nothing in them (R47, R524). -/
theorem powerUp_plain (d : Dom) (bad : List Eng) (h : s.domState d = 1) (hwaits : domWaiting s d = false)
    (hfinup : s.finup = false) (hplain : d.val = 3 ∨ d.val = 4 ∨ d.val = 5 ∨ d.val = 11) :
    Gives (.domPowerUpDone d bad) s fun u => u.domState d = (if d.val = 11 then 3 else 2) ∧ u.faultQ = s.faultQ ∧ u.sent = s.sent ∧
      SameBut s u [] := by
  have hv : setDom s d (if d.val = 11 then 3 else 2) =
      startDomain d (bad.map Fin.val) (setDom s d (if d.val = 11 then 3 else 2)) := by
    rw [startDomain, if_neg (show ¬d.val = 1 by omega), if_neg (show ¬d.val = 2 by omega),
      if_neg (show ¬(6 ≤ d.val ∧ d.val ≤ 9) by omega), if_neg (show ¬d.val = 10 by omega)]
  refine ⟨_, exec_domPowerUpDone s d bad, ?_⟩
  generalize hu : powerUpAct d (bad.map Fin.val) s = u
  obtain ⟨⟨l, hl⟩, hcode⟩ := powerUpAct_leaves (by omega) h hwaits hv rfl hfinup hu.symm
  refine ⟨hcode, ?_, ?_, ?_⟩
  · rw [hl]
    rfl
  · rw [hl]
    rfl
  · rw [hl]
    exact ⟨fun _ _ _ _ => rfl, fun _ => rfl⟩

/-- The ports begin with the addresses of fuse word 2 (0xA000 + p.02). -/
theorem powerUp_ports (d : Dom) (bad : List Eng) (h : s.domState d = 1) (hwaits : domWaiting s d = false)
    (hfinup : s.finup = false) (hd : d.val = 2) :
    Gives (.domPowerUpDone d bad) s fun u => u.domState 2 = 2 ∧ u.rd E.macAddr 0 = s.fuse 2 ∧ u.rd E.macAddr 1 = s.fuse 2 + 1 ∧
      u.faultQ = s.faultQ ∧ u.sent = s.sent ∧ SameBut s u [rowKey E.macAddr 0 0, rowKey E.macAddr 1 0] := by
  rw [hd] at h hwaits
  generalize hv : ((setDom s 2 2).wr E.macAddr ((setDom s 2 2).fuse 2) 0).wr E.macAddr ((setDom s 2 2).fuse 2 + 1 : Nat) 1 = v
  have hstart : v = startDomain 2 (bad.map Fin.val) (setDom s 2 (if (2 : Nat) = 11 then 3 else 2)) := hv ▸ rfl
  obtain ⟨hfuse, hfuse1, hvfinup, hvdoms, hvfault, hvsent, hsame⟩ : v.rd E.macAddr 0 = s.fuse 2 ∧ v.rd E.macAddr 1 = s.fuse 2 + 1 ∧
      v.finup = s.finup ∧ v.doms = (setDom s 2 2).doms ∧ v.faultQ = s.faultQ ∧ v.sent = s.sent ∧
      SameBut s v [rowKey E.macAddr 0 0, rowKey E.macAddr 1 0] := by
    have hdom : SameBut s (setDom s 2 2) [rowKey E.macAddr 0 0, rowKey E.macAddr 1 0] := ⟨fun _ _ _ _ => rfl, fun _ => rfl⟩
    have hrd : (setDom s 2 2).fuse 2 = s.fuse 2 := rfl
    rw [hrd] at hv
    have hsame := (hdom.wr (q := E.macAddr) (x := 0) (y := 0) (by simp) (s.fuse 2 : Nat)).wr (q := E.macAddr) (x := 1) (y := 0)
      (by simp) ((s.fuse 2 + 1 : Nat) : Int)
    rw [hv] at hsame
    refine ⟨?_, ?_, ?_, hv ▸ rfl, hv ▸ rfl, hv ▸ rfl, hsame⟩
    · rw [← hv, State.rd_wr _ _ _ _ _ _ _ _ (by decide)]
      exact State.rd_wr_same ..
    · rw [← hv]
      exact State.rd_wr_same ..
    · rw [State.finup, State.finup, hsame.rdN (by decide)]
  refine ⟨_, exec_domPowerUpDone s d bad, ?_⟩
  rw [hd]
  generalize hu : powerUpAct 2 (bad.map Fin.val) s = u
  obtain ⟨⟨l, hl⟩, hcode⟩ := powerUpAct_leaves (by decide) h hwaits hstart hvdoms (hvfinup.trans hfinup) hu.symm
  refine ⟨hcode, ?_⟩
  subst hl
  exact ⟨hfuse, hfuse1, hvfault, hvsent, hsame⟩

/-! ### A group that has powered up -/

/-- The state without its channels and its entries: what follows a waveform table keeps this. -/
def beyondAmp (s : State) : State := { s with chans := [], dict := [] }

/-- What the values of drive-amplitude loops leave as it was (R274). -/
structure AmpKeeps (s t : State) : Prop where
  beyond : beyondAmp t = beyondAmp s
  rd : ∀ r i j, rowKey r i j < 0x210000 ∨ 0x233000 ≤ rowKey r i j → t.rd r i j = s.rd r i j

namespace AmpKeeps

theorem refl (s : State) : AmpKeeps s s := ⟨rfl, fun _ _ _ _ => rfl⟩

theorem trans (h : AmpKeeps s t) (h' : AmpKeeps t u) : AmpKeeps s u :=
  ⟨h'.beyond.trans h.beyond, fun r i j hk => (h'.rd r i j hk).trans (h.rd r i j hk)⟩

theorem wr (s : State) {q : Row} {i j : Nat} (hq : 0x210000 ≤ rowKey q i j ∧ rowKey q i j < 0x233000) (v : Int) :
    AmpKeeps s (s.wr q v i j) := by
  refine ⟨rfl, fun r x y hk => ?_⟩
  have hne : rowKey r x y ≠ rowKey q i j := by omega
  exact State.rd_wr _ _ _ _ _ _ _ _ hne

theorem setChan (s : State) (c : Nat) (x : Chan) : AmpKeeps s (s.setChan c x) := ⟨rfl, fun _ _ _ _ => rfl⟩

theorem ite {q : Prop} [Decidable q] (ht : AmpKeeps s t) (hu : AmpKeeps s u) : AmpKeeps s (if q then t else u) := by
  split
  · exact ht
  · exact hu

theorem loopKey {c : Nat} (hc : c < 96) {r : Row} (hr : r ∈ [E.refTarget, E.outMin, E.outMax, E.output]) :
    0x210000 ≤ rowKey r (ampLoop c) 0 ∧ rowKey r (ampLoop c) 0 < 0x233000 := by
  simp only [List.mem_cons, List.not_mem_nil, or_false] at hr
  rcases hr with rfl | rfl | rfl | rfl <;> simp only [rowKey, ampLoop, E.refTarget, E.outMin, E.outMax, E.output] <;> omega

theorem gainKey {c : Nat} (hc : c < 96) : 0x210000 ≤ rowKey E.gain c 0 ∧ rowKey E.gain c 0 < 0x233000 := by
  simp only [rowKey, E.gain]
  omega

theorem ampLimits {c : Nat} (hc : c < 96) (s : State) : AmpKeeps s (ampLimits s c) := by
  have hset (t : State) (b : Bool) (v : Int) : AmpKeeps t ((t.setChan c { t.chan c with ceilHit := b }).wr E.gain v c) :=
    (setChan t c _).trans (wr _ (gainKey hc) v)
  have hlimits (v w : Int) : AmpKeeps s ((s.wr E.outMin v (ampLoop c)).wr E.outMax w (ampLoop c)) :=
    (wr s (loopKey hc (by simp)) v).trans (wr _ (loopKey hc (by simp)) w)
  unfold Machine.ampLimits
  split
  · exact refl s
  · refine (hlimits _ _).trans (.ite ?_ (hset _ _ _))
    split
    · exact refl _
    · exact .ite (refl _) ((hset _ _ _).trans (wr _ (loopKey hc (by simp)) _))

theorem ampTarget {c : Nat} (hc : c < 96) (s : State) : AmpKeeps s (ampTarget s c) := by
  unfold Machine.ampTarget
  split
  · exact refl s
  · exact wr s (loopKey hc (by simp)) _

theorem foldl {f : State → Nat → State} (hf : ∀ s c, c < 96 → AmpKeeps s (f s c)) : ∀ (l : List Nat) (s : State),
    (∀ c ∈ l, c < 96) → AmpKeeps s (l.foldl f s)
  | [], s, _ => refl s
  | c :: l, s, h => (hf s c (h c List.mem_cons_self)).trans (foldl hf l _ fun x hx => h x (List.mem_cons_of_mem _ hx))

theorem allAmpLimits (s : State) : AmpKeeps s (allAmpLimits s) :=
  foldl (fun s _ hc => ampLimits hc s) _ _ fun _ => List.mem_range.mp

theorem allAmpSettings (s : State) : AmpKeeps s (allAmpSettings s) :=
  foldl (fun s _ hc => (ampTarget hc s).trans (ampLimits hc _)) _ _ fun _ => List.mem_range.mp

end AmpKeeps

/-- What the start of a group leaves as it was once a spare serves channel c. -/
structure SpareKept (c p : Nat) (s t : State) : Prop where
  servedBy : t.rd E.servedBy c = s.rd E.servedBy c
  channel : t.rd E.channel p = s.rd E.channel p
  disable : t.rd E.chDisable c = s.rd E.chDisable c
  persona : t.rd E.persona = s.rd E.persona
  engs : t.engs = s.engs
  doms : t.doms = s.doms
  mem : t.mem = s.mem

namespace SpareKept

variable {c p : Nat}

theorem refl (c p : Nat) (s : State) : SpareKept c p s s := ⟨rfl, rfl, rfl, rfl, rfl, rfl, rfl⟩

theorem trans (h : SpareKept c p s t) (h' : SpareKept c p t u) : SpareKept c p s u :=
  ⟨h'.servedBy.trans h.servedBy, h'.channel.trans h.channel, h'.disable.trans h.disable, h'.persona.trans h.persona,
    h'.engs.trans h.engs, h'.doms.trans h.doms, h'.mem.trans h.mem⟩

theorem of_ampKeeps (h : AmpKeeps s t) (c p : Nat) : SpareKept c p s t where
  servedBy := h.rd _ _ _ (.inr (by simp only [rowKey, E.servedBy]; omega))
  channel := h.rd _ _ _ (.inr (by simp only [rowKey, E.channel]; omega))
  disable := h.rd _ _ _ (.inr (by simp only [rowKey, E.chDisable]; omega))
  persona := h.rd _ _ _ (.inl (by decide))
  engs := (congrArg State.engs h.beyond :)
  doms := (congrArg State.doms h.beyond :)
  mem := (congrArg State.mem h.beyond :)

/-- Another channel's server, or another engine's channel, is written. -/
theorem wr (s : State) {q : Row} {x : Nat} (hq : (q = E.servedBy ∧ x ≠ c) ∨ (q = E.channel ∧ x ≠ p)) (v : Int) :
    SpareKept c p s (s.wr q v x) := by
  have hne : rowKey E.servedBy c 0 ≠ rowKey q x 0 ∧ rowKey E.channel p 0 ≠ rowKey q x 0 ∧
      rowKey E.chDisable c 0 ≠ rowKey q x 0 ∧ rowKey E.persona 0 0 ≠ rowKey q x 0 := by
    rcases hq with ⟨rfl, hx⟩ | ⟨rfl, hx⟩ <;> simp only [rowKey, E.servedBy, E.channel, E.chDisable, E.persona] <;> omega
  obtain ⟨h1, h2, h3, h4⟩ := hne
  exact ⟨State.rd_wr _ _ _ _ _ _ _ _ h1, State.rd_wr _ _ _ _ _ _ _ _ h2, State.rd_wr _ _ _ _ _ _ _ _ h3,
    State.rd_wr _ _ _ _ _ _ _ _ h4, rfl, rfl, rfl⟩

/-- Channels that CH_DISABLE disables lose their engines (R111). -/
theorem dropDisabled (hp : 96 ≤ p) (s : State) (h : s.rd E.chDisable c = 0) (x : Nat) : SpareKept c p s (dropDisabled s x) := by
  unfold Machine.dropDisabled
  dsimp only
  split
  · exact refl c p s
  next hx =>
    have hne : x ≠ c := fun hxc => hx (.inl (hxc ▸ h))
    split
    next hlt => exact (wr s (.inl ⟨rfl, hne⟩) _).trans (wr _ (.inr ⟨rfl, Nat.ne_of_lt (Nat.lt_of_lt_of_le hlt hp)⟩) _)
    · exact wr s (.inl ⟨rfl, hne⟩) _

theorem foldl_dropDisabled (hp : 96 ≤ p) : ∀ (l : List Nat) (s : State), s.rd E.chDisable c = 0 →
    SpareKept c p s (l.foldl Machine.dropDisabled s)
  | [], s, _ => refl c p s
  | x :: l, s, h =>
    have hstep := dropDisabled hp s h x
    hstep.trans (foldl_dropDisabled hp l _ (hstep.disable.trans h))

end SpareKept

/-- An engine that passes its self-test stays in service. -/
theorem engineTest_sound {g : Nat} {bad : List Nat} {e : Nat} (h : bad.contains e = false) : engineTest g bad s e = s :=
  if_pos (by rw [h]; simp)

theorem foldl_engineTest_sound {g : Nat} {bad : List Nat} : ∀ (l : List Nat) (s : State), (∀ e ∈ l, bad.contains e = false) →
    l.foldl (engineTest g bad) s = s
  | [], _, _ => rfl
  | e :: l, s, h => by
    rw [List.foldl_cons, engineTest_sound (h e List.mem_cons_self)]
    exact foldl_engineTest_sound l s fun x hx => h x (List.mem_cons_of_mem _ hx)

/-- A burn of the Tally changes the fuses and messages alone. -/
theorem tallyRecord_spareKept (c p : Nat) (s : State) (l : List Nat) (valid fields : Nat) :
    SpareKept c p s (tallyRecord s l valid fields) := by
  have hburn (w k : Nat) : SpareKept c p s (tallyBurn s w k) := by
    unfold tallyBurn
    split
    · exact ⟨rfl, rfl, rfl, rfl, rfl, rfl, rfl⟩
    · unfold senseWord
      dsimp only
      split
      · exact ⟨rfl, rfl, rfl, rfl, rfl, rfl, rfl⟩
      · split
        · exact ⟨rfl, rfl, rfl, rfl, rfl, rfl, rfl⟩
        · exact ⟨rfl, rfl, rfl, rfl, rfl, rfl, rfl⟩
  unfold tallyRecord
  split
  · exact .refl c p s
  · exact hburn _ _

/-- What a group's start needs to give channel c of an engine that fails its self-test to the spare (R551). -/
structure SpareTakes (s : State) (c : Ch) : Prop where
  record : spareRecord s (groupOf c) = none
  present : s.engPresent c = true
  spare : s.engPresent (96 + groupOf c) = true
  grade : s.grade ≠ 3
  own : (s.eng c).replaced = false
  fresh : s.eng (96 + groupOf c) = {}
  free : channelOf s (96 + groupOf c) = none
  on : s.domOn (6 + groupOf c) = true
  enabled : s.rd E.chDisable c = 0

/-- The state in which the spare serves the channel of an engine that has failed (R551). -/
def spareServes (s : State) (c : Nat) : State :=
  tallyRecord (bootSpare (s.setEng c { s.eng c with failedBist := true }) c c (96 + groupOf c)) [466 + groupOf c] 7 (channelFields c)

theorem SpareTakes.engineTest {c : Ch} (h : SpareTakes s c) : engineTest (groupOf c) [c.val] s c = spareServes s c := by
  have hc := c.isLt
  have hne : 96 + groupOf c ≠ c.val := by omega
  have hfree : spareFree (s.setEng c { s.eng c with failedBist := true }) c = true := by
    have hdom : engDom (96 + groupOf c) = 6 + groupOf c := by
      rw [engDom, engGroup, if_neg (by omega), Nat.add_sub_cancel_left]
    have hon : (s.setEng c { s.eng c with failedBist := true }).domOn (6 + groupOf c) = true := h.on
    have hpresent : (s.setEng c { s.eng c with failedBist := true }).engPresent (96 + groupOf c) = true := h.spare
    have hchannel : channelOf (s.setEng c { s.eng c with failedBist := true }) (96 + groupOf c) = none := h.free
    have hgrade : ((s.setEng c { s.eng c with failedBist := true }).grade == 3) = false := beq_eq_false_iff_ne.mpr h.grade
    unfold spareFree spareOf
    dsimp only
    rw [State.setEng_ne _ _ _ _ hne, h.fresh, hdom, hon, hpresent, hchannel, hgrade]
    rfl
  have htest : (!s.engPresent c || !([c.val].contains c.val) || (s.eng c).replaced) = false := by simp [h.present, h.own]
  have hspare : ([c.val].contains (96 + groupOf c)) = false := by simpa using hne
  unfold Machine.engineTest
  rw [htest, if_neg Bool.false_ne_true]
  dsimp only
  rw [hfree, hspare]
  rfl

theorem groupChannels_split (c : Ch) : ∃ a b : List Nat, (List.range 24).map (· + 24 * groupOf c) = a ++ c.val :: b ∧ c.val ∉ a ∧ c.val ∉ b := by
  have hmem : c.val ∈ (List.range 24).map (· + 24 * groupOf c) := by
    refine List.mem_map.mpr ⟨c.val % 24, List.mem_range.mpr (Nat.mod_lt _ (by decide)), ?_⟩
    simp only [groupOf]
    omega
  have hnodup : ((List.range 24).map (· + 24 * groupOf c)).Nodup := List.nodup_range.map (add_left_injective _)
  obtain ⟨a, b, hab⟩ := List.append_of_mem hmem
  rw [hab, List.nodup_append] at hnodup
  obtain ⟨-, hb, hdisjoint⟩ := hnodup
  exact ⟨a, b, hab, fun ha => hdisjoint _ ha _ List.mem_cons_self rfl, (List.nodup_cons.mp hb).1⟩

theorem SpareTakes.startGroup {c : Ch} (h : SpareTakes s c) : ∃ l : List Nat, startGroup (groupOf c) [c.val] s =
    l.foldl dropDisabled (spareServes s c) := by
  have hne : ([c.val].contains (96 + groupOf c)) = false := by
    have hc := c.isLt
    simpa using (show 96 + groupOf c ≠ c.val by omega)
  obtain ⟨a, b, hab, ha, hb⟩ := groupChannels_split c
  have hsound (l : List Nat) (hl : c.val ∉ l) : ∀ e ∈ l, [c.val].contains e = false := fun e he => by
    simpa using fun hec : e = c.val => hl (hec ▸ he)
  have hfold : ((List.range 24).map (· + 24 * groupOf c)).foldl (Machine.engineTest (groupOf c) [c.val]) s = spareServes s c := by
    rw [hab, List.foldl_append, List.foldl_cons, foldl_engineTest_sound a s (hsound a ha), h.engineTest,
      foldl_engineTest_sound b _ (hsound b hb)]
  refine ⟨(List.range 24).map (· + 24 * groupOf c), ?_⟩
  unfold Machine.startGroup
  dsimp only
  rw [hne, if_neg Bool.false_ne_true, h.record]
  dsimp only
  rw [hfold]

theorem spareServes_leaves (s : State) (c : Ch) (hu : u = spareServes s c) : u.rd E.servedBy c = 96 + groupOf c ∧
    u.rd E.channel (96 + groupOf c) = c.val ∧ (u.eng c).failedBist = true ∧ u.rd E.chDisable c = s.rd E.chDisable c ∧
    u.rd E.persona = s.rd E.persona ∧ u.doms = s.doms ∧ u.mem = s.mem := by
  have hc := c.isLt
  have hkept := tallyRecord_spareKept c (96 + groupOf c)
    (bootSpare (s.setEng c { s.eng c with failedBist := true }) c c (96 + groupOf c)) [466 + groupOf c] 7 (channelFields c)
  have heng : (s.setEng c { s.eng c with failedBist := true }).eng c = { s.eng c with failedBist := true } := State.setEng_same ..
  have hrd (r : Row) (i j : Nat) : (s.setEng c { s.eng c with failedBist := true }).rd r i j = s.rd r i j := rfl
  have hrest : (s.setEng c { s.eng c with failedBist := true }).doms = s.doms ∧
      (s.setEng c { s.eng c with failedBist := true }).mem = s.mem := ⟨rfl, rfl⟩
  have hu : u = tallyRecord (bootSpare (s.setEng c { s.eng c with failedBist := true }) c c (96 + groupOf c)) [466 + groupOf c] 7
      (channelFields c) := hu
  generalize s.setEng c { s.eng c with failedBist := true } = v at *
  generalize hw : bootSpare v c c (96 + groupOf c) = w at *
  obtain ⟨hserved, hchannel, hdisable, hpersona, hwengs, hwdoms, hwmem⟩ : w.rd E.servedBy c = 96 + groupOf c ∧
      w.rd E.channel (96 + groupOf c) = c.val ∧ w.rd E.chDisable c = v.rd E.chDisable c ∧
      w.rd E.persona = v.rd E.persona ∧ w.engs = v.engs ∧ w.doms = v.doms ∧ w.mem = v.mem := by
    have h1 : rowKey E.servedBy c 0 ≠ rowKey E.channel c 0 := by simp only [rowKey, E.servedBy, E.channel]; omega
    have h2 : rowKey E.channel (96 + groupOf c) 0 ≠ rowKey E.channel c 0 := by simp only [rowKey, E.channel]; omega
    have h3 : rowKey E.channel (96 + groupOf c) 0 ≠ rowKey E.servedBy c 0 := by simp only [rowKey, E.channel, E.servedBy]; omega
    have h4 : rowKey E.chDisable c 0 ≠ rowKey E.channel c 0 ∧ rowKey E.chDisable c 0 ≠ rowKey E.servedBy c 0 ∧
        rowKey E.chDisable c 0 ≠ rowKey E.channel (96 + groupOf c) 0 := by
      simp only [rowKey, E.channel, E.servedBy, E.chDisable]
      omega
    have h5 : rowKey E.persona 0 0 ≠ rowKey E.channel c 0 ∧ rowKey E.persona 0 0 ≠ rowKey E.servedBy c 0 ∧
        rowKey E.persona 0 0 ≠ rowKey E.channel (96 + groupOf c) 0 := by
      simp only [rowKey, E.channel, E.servedBy, E.persona]
      omega
    subst hw
    unfold bootSpare
    refine ⟨(State.rd_wr _ _ _ _ _ _ _ _ h1).trans ((State.rd_wr_same ..).trans (by push_cast; rfl)),
      (State.rd_wr _ _ _ _ _ _ _ _ h2).trans ((State.rd_wr _ _ _ _ _ _ _ _ h3).trans (State.rd_wr_same ..)),
      (State.rd_wr _ _ _ _ _ _ _ _ h4.1).trans ((State.rd_wr _ _ _ _ _ _ _ _ h4.2.1).trans (State.rd_wr _ _ _ _ _ _ _ _ h4.2.2)),
      (State.rd_wr _ _ _ _ _ _ _ _ h5.1).trans ((State.rd_wr _ _ _ _ _ _ _ _ h5.2.1).trans (State.rd_wr _ _ _ _ _ _ _ _ h5.2.2)),
      rfl, rfl, rfl⟩
  rw [← hu] at hkept
  refine ⟨hkept.servedBy.trans hserved, hkept.channel.trans hchannel, ?_, hkept.disable.trans (hdisable.trans (hrd ..)),
    hkept.persona.trans (hpersona.trans (hrd ..)), hkept.doms.trans (hwdoms.trans hrest.1), hkept.mem.trans (hwmem.trans hrest.2)⟩
  have hueng : u.eng c = v.eng c := by rw [State.eng, hkept.engs, hwengs, State.eng]
  rw [hueng, heng]

/-- A group whose engine fails its self-test starts with the spare in its place (R550, R551). -/
theorem powerUp_group (d : Dom) (bad : List Eng) (c : Ch) (h : s.domState d = 1) (hwaits : domWaiting s d = false)
    (hfinup : s.finup = false) (hd : d.val = 6 + groupOf c) (hbad : bad.map Fin.val = [c.val])
    (hrecord : spareRecord s (groupOf c) = none) (hpresent : s.engPresent c = true)
    (hspare : s.engPresent (96 + groupOf c) = true) (hgrade : s.grade ≠ 3) (hown : (s.eng c).replaced = false)
    (hfresh : s.eng (96 + groupOf c) = {}) (hfree : channelOf s (96 + groupOf c) = none) (henabled : s.rd E.chDisable c = 0) :
    Gives (.domPowerUpDone d bad) s fun u => u.domState d = 2 ∧ u.rd E.servedBy c = 96 + groupOf c ∧
      u.rd E.channel (96 + groupOf c) = c.val ∧ (u.eng c).failedBist = true ∧ ∀ x, u.byte x = s.byte x := by
  have hgroup : groupOf c ≤ 3 := by
    have hc := c.isLt
    simp only [groupOf]
    omega
  have hnot : ¬d.val = 11 := by omega
  have hon : (setDom s d 2).domOn (6 + groupOf c) = true := by
    rw [State.domOn, ← hd, domState_setDom _ _ (by omega)]
    rfl
  have htakes : SpareTakes (setDom s d 2) c := ⟨hrecord, hpresent, hspare, hgrade, hown, hfresh, hfree, hon, henabled⟩
  obtain ⟨l, hl⟩ := htakes.startGroup
  obtain ⟨hserved, hchannel, hfailed, hdisable, hpersona, hdoms, hmem⟩ := spareServes_leaves (setDom s d 2) c rfl
  have hdropped := SpareKept.foldl_dropDisabled (p := 96 + groupOf c) (Nat.le_add_right _ _) l _ (hdisable.trans henabled)
  generalize spareServes (setDom s d 2) c = v at *
  rw [← hl] at hdropped
  have hamp := SpareKept.of_ampKeeps (AmpKeeps.allAmpSettings (startGroup (groupOf c) [c.val] (setDom s d 2))) c (96 + groupOf c)
  have hkept := hdropped.trans hamp
  generalize hw : allAmpSettings (startGroup (groupOf c) [c.val] (setDom s d 2)) = w at *
  have hstart : w = startDomain d (bad.map Fin.val) (setDom s d (if d.val = 11 then 3 else 2)) := by
    rw [if_neg hnot, hbad, startDomain, if_neg (show ¬d.val = 1 by omega), if_neg (show ¬d.val = 2 by omega),
      if_pos (show 6 ≤ d.val ∧ d.val ≤ 9 by omega), ← hw, hd, Nat.add_sub_cancel_left]
  have hwdoms : w.doms = (setDom s d (if d.val = 11 then 3 else 2)).doms := by
    rw [if_neg hnot, hkept.doms, hdoms]
  have hwfinup : w.finup = false := by
    rw [State.finup, State.rdN, hkept.persona, hpersona]
    exact hfinup
  refine ⟨_, exec_domPowerUpDone s d bad, ?_⟩
  generalize hu : powerUpAct d (bad.map Fin.val) s = u
  obtain ⟨⟨k, hk⟩, hcode⟩ := powerUpAct_leaves (by omega) h hwaits hstart hwdoms hwfinup hu.symm
  rw [if_neg hnot] at hcode
  refine ⟨hcode, ?_⟩
  have hweng : (w.eng c).failedBist = true := by
    rw [State.eng, hkept.engs]
    exact hfailed
  have hwbyte (x : Nat) : w.byte x = s.byte x := by
    rw [State.byte, hkept.mem, hmem]
    rfl
  subst hk
  exact ⟨hkept.servedBy.trans hserved, hkept.channel.trans hchannel, hweng, hwbyte⟩

/-! ### A domain that fails or has powered down -/

theorem brownoutless_domOn (s : State) (d st x : Nat) (h : x ≠ d) : (setDom s d st).domOn x = s.domOn x := by
  rw [State.domOn, State.domOn, domState_setDom_ne _ _ h]

/-- A domain whose code is set and which loses its state. -/
theorem domainLost_leaves (s : State) (d st : Nat) (hzero : d ≠ 0) (hu : u = clearDomain d (setDom s d st)) :
    u.domState d = st ∧ domWaiting u d = domWaiting s d ∧ u.faultQ = s.faultQ ∧ u.sent = s.sent ∧ u.shut = s.shut ∧
    (6 ≤ d → d ≤ 9 → s.domOn 10 = true → ∀ c : Ch, d = 6 + groupOf c →
      u.rd E.output (98 + c.val) = 0 ∧ u.rd E.refTarget (98 + c.val) = E.heaterSet.dflt c 0) ∧
    ∀ r i j, (domainOfKey (rowKey r i j) ≠ d → rowKey r i j ∉ heaterKeys d → u.rd r i j = s.rd r i j) ∧
      (domainOfKey (rowKey r i j) = d → fusedKey (rowKey r i j) = false → u.rd r i j = r.dflt i j) := by
  obtain ⟨hrest, hrd, hheat⟩ := clearDomain_leaves d _ hu
  refine ⟨?_, ?_, hrest.faultQ, hrest.sent, hrest.shut, fun hlow hhigh hten c hc => ?_, hrd⟩
  · rw [← domState_setDom s st hzero, State.domState, State.domState, hrest.doms]
  · rw [domWaiting, hrest.doms]
    exact domWaiting_setDom s st d
  · exact hheat hlow hhigh ((brownoutless_domOn s d st 10 (by omega)).trans hten) c c.isLt hc

theorem domFailAct_fails {d : Nat} (hzero : d ≠ 0) (h : s.domState d = 1) :
    domFailAct d s = nextPowerUp ((clearDomain d (setDom s d 6)).report (0xD1 + d) 2 0) := if_pos ⟨hzero, .inl h⟩

theorem powerDownAct_waits {d : Nat} (h : s.domState d ≠ 4) : powerDownAct d s = s := if_pos h

theorem powerDownAct_done {d : Nat} (h : s.domState d = 4) {v : State} (hv : v = clearDomain d (setDom s d 0)) (hshut : s.shut = none) :
    powerDownAct d s = nextPowerUp v := by
  have hstep : s.shutStep = 0 := by rw [State.shutStep, hshut]; rfl
  unfold powerDownAct
  rw [if_neg (not_not.mpr h)]
  dsimp only
  rw [← hv, State.shutStep, hv, (clearDomain_leaves d _ rfl).1.shut]
  exact if_neg (by rw [show ((setDom s d 0).shut.map Shutdown.step).getD 0 = s.shutStep from rfl, hstep]; decide)

/-- A domain that fails, or that has powered down, holds its code and has lost its state (R47, R524). -/
structure DomainGone (s u : State) (d : Dom) (st : Nat) : Prop where
  code : u.domState d = st
  sent : u.sent = s.sent
  heaters : 6 ≤ d.val → d.val ≤ 9 → s.domOn 10 = true → ∀ c : Ch, d.val = 6 + groupOf c →
    u.rd E.output (98 + c.val) = 0 ∧ u.rd E.refTarget (98 + c.val) = E.heaterSet.dflt c 0
  rd : ∀ r i j, (domainOfKey (rowKey r i j) ≠ d.val → rowKey r i j ∉ heaterKeys d → u.rd r i j = s.rd r i j) ∧
    (domainOfKey (rowKey r i j) = d.val → fusedKey (rowKey r i j) = false → u.rd r i j = r.dflt i j)

theorem domFail_gone (d : Dom) (hd : d.val ≠ 0) (h : s.domState d = 1) (hwaits : domWaiting s d = false)
    (hu : u = domFailAct d s) : DomainGone s u d 6 ∧ u.faultQ = s.faultQ ++ [⟨0xD1 + d, 2, 0⟩] := by
  rw [domFailAct_fails hd h] at hu
  generalize hv : clearDomain d (setDom s d 6) = v at hu
  obtain ⟨hcode, hquiet, hfault, hsent, -, hheat, hrd⟩ := domainLost_leaves s d 6 hd hv.symm
  obtain ⟨⟨l, rfl⟩, hkept⟩ := nextPowerUp_leaves _ hu
  have hstays := hkept d (.inl (show domWaiting v d = false from hquiet.trans hwaits))
  exact ⟨⟨hstays.trans hcode, hsent, hheat, hrd⟩, congrArg (· ++ _) hfault⟩

theorem powerDown_gone (d : Dom) (hd : d.val ≠ 0) (h : s.domState d = 4) (hshut : s.shut = none) (hwaits : domWaiting s d = false)
    (hu : u = powerDownAct d s) : DomainGone s u d 0 ∧ u.faultQ = s.faultQ := by
  generalize hv : clearDomain d (setDom s d 0) = v
  rw [powerDownAct_done h hv.symm hshut] at hu
  obtain ⟨hcode, hquiet, hfault, hsent, -, hheat, hrd⟩ := domainLost_leaves s d 0 hd hv.symm
  obtain ⟨⟨l, rfl⟩, hkept⟩ := nextPowerUp_leaves _ hu
  have hstays := hkept d (.inl (hquiet.trans hwaits))
  exact ⟨⟨hstays.trans hcode, hsent, hheat, hrd⟩, hfault⟩

/-- Domain 0 is on: it neither powers down nor fails. -/
theorem not_zero_of_domState {d n : Nat} (h : s.domState d = n) (hn : n ≠ 2) : d ≠ 0 := by
  rintro rfl
  exact hn h.symm

/-- Settles O52: each request, end of a power-up, failure and end of a power-down by the rule of its function. -/
theorem domainsSwitch : Obligations.DomainsSwitch := by
  unfold Obligations.DomainsSwitch
  refine ⟨fun p d s => ⟨fun hacc => ⟨fun hd => ?_, fun h hon => domReq_down d hacc h hon⟩,
    fun hacc h hoff hfree hneeds hbrown hshut => domReq_up d hacc h hoff hfree hneeds hbrown hshut⟩,
    fun d bad s h hwaits hfinup => ⟨fun hd => ?_, fun hd => ?_, powerUp_ports d bad h hwaits hfinup,
      fun c hd hbad hrecord hpresent hspare hgrade hown hfresh hfree henabled =>
        powerUp_group d bad c h hwaits hfinup hd hbad hrecord hpresent hspare hgrade hown hfresh hfree henabled⟩,
    fun d s hd h hwaits => ?_, fun d s => ⟨fun h => ?_, fun h hshut hwaits => ?_⟩⟩
  · have hrefused : domReqRefused s d 0 = true := by
      rcases hd with hd | hd <;> simp [domReqRefused, hd]
    rw [exec_domReqWrite]
    exact congrArg _ (writeIf_act_refuses hacc (domReqAct_refused hrefused) (by decide))
  · have hplain := powerUp_plain d bad h hwaits hfinup (by omega)
    rwa [if_neg (show ¬d.val = 11 by omega)] at hplain
  · have hplain := powerUp_plain d bad h hwaits hfinup (by omega)
    rwa [if_pos hd, hd] at hplain
  · obtain ⟨⟨hcode, hsent, hheat, hrd⟩, hfault⟩ := domFail_gone d hd h hwaits rfl
    exact ⟨_, exec_domFail s d, hcode, hfault, hsent, hheat, hrd⟩
  · rw [exec_domPowerDownDone, powerDownAct_waits h]
  · obtain ⟨⟨hcode, hsent, hheat, hrd⟩, hfault⟩ := powerDown_gone d (not_zero_of_domState h (by decide)) h hshut hwaits rfl
    exact ⟨_, exec_domPowerDownDone s d, hcode, hfault, hsent, hheat, hrd⟩

end Sys2Proof.Machine
end

section
/-!
CERTIFICATE. Shutdowns (R458, R510 to R512, R514, R515).
-/
namespace Sys2Proof.Machine

variable {s t u : State} {p : Port}

theorem exec_shutdown (s : State) (p : Port) : exec (.shutdown p) s =
    .next (writeIf s p (s.superseded .job) E.command 0 0 (commandWord 0x20 0) (shutdownCommand 0)) := rfl
theorem exec_shutdownImmediate (s : State) (p : Port) : exec (.shutdownImmediate p) s =
    .next (writeIf s p (s.superseded .job) E.command 0 0 (commandWord 0x20 1) (shutdownCommand 1)) := rfl
theorem exec_shutdownStepEnd (s : State) : exec .shutdownStepEnd s = .next (stepEndAct s) := rfl
theorem exec_shutdownBudget (s : State) : exec .shutdownBudget s = .next (ignoredReset s) := rfl

/-! ### The outputs are forced safe -/

/-- The state without its entries, loops and sections: what switches a heater off keeps this. -/
def beyondHeaters (s : State) : State := { s with dict := [], loops := [], secs := [] }

theorem setHistory_beyondHeaters (v : Int) : ∀ (n k : Nat) (s : State), beyondHeaters (setHistory v n k s) = beyondHeaters s
  | 0, _, _ => rfl
  | n + 1, k, s => setHistory_beyondHeaters v n (k + 1) (s.setSec k { s.sec k with x1 := v, x2 := v })

@[simp] theorem wr_beyondHeaters (s : State) (q : Row) (v : Int) (i j : Nat) : beyondHeaters (s.wr q v i j) = beyondHeaters s := rfl
@[simp] theorem setLoop_beyondHeaters (s : State) (l : Nat) (x : LoopSt) : beyondHeaters (s.setLoop l x) = beyondHeaters s := rfl

theorem heaterStart_beyond (s : State) (c : Nat) : beyondHeaters (heaterStart s c) = beyondHeaters s := by
  obtain ⟨x, v, w, hv, hw, heq⟩ := heaterStart_eq s c
  rw [heq, wr_beyondHeaters, wr_beyondHeaters, wr_beyondHeaters, wr_beyondHeaters, hw, setHistory_beyondHeaters, wr_beyondHeaters,
    hv, setLoop_beyondHeaters]

/-- The heater of channel c is off, and its loop's output is 0. -/
def HeaterOut (c : Nat) (s : State) : Prop := s.rd E.heaterDuty c = 0 ∧ s.rd E.output (98 + c) = 0

theorem heaterForce_off {e : Nat} (he : e < 96) (hoff : s.outputsOff = true) (hu : u = heaterForce s e) :
    beyondHeaters u = beyondHeaters s ∧ HeaterOut e u ∧ ∀ c, c < 96 → c ≠ e → HeaterOut c s → HeaterOut c u := by
  have hheater : (!heaterOff s e) = false := by rw [heaterOff, hoff, Bool.or_true]; rfl
  generalize hv : (s.wr E.output 0 (98 + e)).wr E.heaterDuty 0 e = v
  obtain ⟨hbeyond, hout, hothers⟩ : beyondHeaters v = beyondHeaters s ∧ HeaterOut e v ∧
      ∀ c, c < 96 → c ≠ e → HeaterOut c s → HeaterOut c v := by
    have h1 : rowKey E.output (98 + e) 0 ≠ rowKey E.heaterDuty e 0 := by simp only [rowKey, E.output, E.heaterDuty]; omega
    subst hv
    refine ⟨rfl, ⟨State.rd_wr_same .., (State.rd_wr _ _ _ _ _ _ _ _ h1).trans (State.rd_wr_same ..)⟩, fun c hc hne hout => ?_⟩
    have h2 : rowKey E.heaterDuty c 0 ≠ rowKey E.heaterDuty e 0 ∧ rowKey E.heaterDuty c 0 ≠ rowKey E.output (98 + e) 0 := by
      simp only [rowKey, E.output, E.heaterDuty]; omega
    have h3 : rowKey E.output (98 + c) 0 ≠ rowKey E.heaterDuty e 0 ∧ rowKey E.output (98 + c) 0 ≠ rowKey E.output (98 + e) 0 := by
      simp only [rowKey, E.output, E.heaterDuty]; omega
    exact ⟨(State.rd_wr _ _ _ _ _ _ _ _ h2.1).trans ((State.rd_wr _ _ _ _ _ _ _ _ h2.2).trans hout.1),
      (State.rd_wr _ _ _ _ _ _ _ _ h3.1).trans ((State.rd_wr _ _ _ _ _ _ _ _ h3.2).trans hout.2)⟩
  have hu : u = if (s.loop (98 + e)).forced then v else heaterStart v e := by
    rw [hu, ← hv]
    unfold heaterForce
    dsimp only
    rw [hheater, if_neg Bool.false_ne_true]
  split at hu
  · subst hu
    exact ⟨hbeyond, hout, hothers⟩
  · obtain ⟨-, hzero, hrd⟩ := heaterStart_leaves v e hu
    have hkeep (c : Nat) (hc : c < 96) : u.rd E.heaterDuty c = v.rd E.heaterDuty c := hrd _ _ _ (by
      simp only [List.map_cons, List.map_nil, List.mem_cons, List.not_mem_nil, or_false, rowKey, E.heaterDuty, E.output, E.y1,
        E.y2, E.hofs, E.refNow]
      omega)
    have hkeepOut (c : Nat) (hc : c < 96) (hne : c ≠ e) : u.rd E.output (98 + c) = v.rd E.output (98 + c) := hrd _ _ _ (by
      simp only [List.map_cons, List.map_nil, List.mem_cons, List.not_mem_nil, or_false, rowKey, E.output, E.y1,
        E.y2, E.hofs, E.refNow]
      omega)
    refine ⟨?_, ⟨(hkeep e he).trans hout.1, hzero⟩, fun c hc hne hc' => ?_⟩
    · rw [hu, heaterStart_beyond, hbeyond]
    · obtain ⟨hduty, hzero'⟩ := hothers c hc hne hc'
      exact ⟨(hkeep c hc).trans hduty, (hkeepOut c hc hne).trans hzero'⟩

theorem outputsOff_of_beyond (h : beyondHeaters t = beyondHeaters s) : t.outputsOff = s.outputsOff :=
  (congrArg State.outputsOff h :)

theorem foldl_heaterForce : ∀ (l : List Nat) (s : State), (∀ e ∈ l, e < 96) → s.outputsOff = true →
    beyondHeaters (l.foldl heaterForce s) = beyondHeaters s ∧
    ∀ c, c < 96 → c ∈ l ∨ HeaterOut c s → HeaterOut c (l.foldl heaterForce s)
  | [], _, _, _ => ⟨rfl, fun _ _ h => h.resolve_left List.not_mem_nil⟩
  | e :: l, s, hl, hoff => by
    generalize hv : heaterForce s e = v
    obtain ⟨hbeyond, hout, hothers⟩ := heaterForce_off (hl e List.mem_cons_self) hoff hv.symm
    obtain ⟨hrest, hall⟩ := foldl_heaterForce l v (fun x hx => hl x (List.mem_cons_of_mem _ hx)) ((outputsOff_of_beyond hbeyond).trans hoff)
    rw [List.foldl_cons, hv]
    refine ⟨hrest.trans hbeyond, fun c hc h => hall c hc ?_⟩
    by_cases hce : c = e
    · exact .inr (hce ▸ hout)
    · rcases h with h | h
      · exact .inl ((List.mem_cons.mp h).resolve_left hce)
      · exact .inr (hothers c hc hce h)

theorem pwmStart_off (h : s.outputsOff = true) (hu : u = pwmStart s) : u.gov.pwm = none ∧ ∃ g o, u = { s with gov := g, sent := o } := by
  have hlow : speedLimLow s = true := by simp [speedLimLow, h]
  rw [pwmStart, if_pos hlow, restPin, hlow, Bool.true_and] at hu
  split at hu
  · subst hu
    exact ⟨rfl, _, _, rfl⟩
  · next hnone =>
    subst hu
    exact ⟨Option.not_isSome_iff_eq_none.mp hnone, _, _, rfl⟩

/-- What the safe outputs are, and what they leave as it was (R511, R512). -/
structure OutputsSafe (s u : State) : Prop where
  shut : u.shut = s.shut
  dev : u.dev = s.dev
  faultQ : u.faultQ = s.faultQ
  mem : u.mem = s.mem
  unlocked : ∀ c, (u.chan c).locked = []
  heaters : ∀ c : Ch, u.rd E.heaterDuty c = 0 ∧ u.rd E.output (98 + c.val) = 0
  pwm : u.gov.pwm = none

theorem outputsSafe_leaves (s : State) (hoff : s.outputsOff = true) (hu : u = outputsSafe s) : OutputsSafe s u := by
  generalize hv : abandonAll s (fun _ => true) = v
  obtain ⟨hbeyond, hfault, -, hrests⟩ := abandonAll_rests s hv.symm
  have hvoff : v.outputsOff = true := ((congrArg State.outputsOff hbeyond :) : v.outputsOff = s.outputsOff).trans hoff
  generalize hw : (List.range 96).foldl heaterForce v = w
  obtain ⟨hheaters, hout⟩ := foldl_heaterForce (List.range 96) v (fun _ => List.mem_range.mp) hvoff
  rw [hw] at hheaters hout
  have hu : u = pwmStart w := by rw [hu, outputsSafe, ← hw, ← hv]
  obtain ⟨hpwm, g, o, rfl⟩ := pwmStart_off ((outputsOff_of_beyond hheaters).trans hvoff) hu
  have hchans : w.chans = v.chans := (congrArg State.chans hheaters :)
  refine ⟨(congrArg State.shut hheaters :).trans (congrArg State.shut hbeyond :),
    (congrArg State.dev hheaters :).trans (congrArg State.dev hbeyond :), (congrArg State.faultQ hheaters :).trans hfault,
    (congrArg State.mem hheaters :).trans (congrArg State.mem hbeyond :), fun c => ?_,
    fun c => hout c c.isLt (.inl (List.mem_range.mpr c.isLt)), hpwm⟩
  obtain ⟨hlocked, -, -⟩ := hrests c
  rw [State.chan, hchans]
  exact hlocked

theorem OutputsSafe.byte (h : OutputsSafe s u) (a : Nat) : u.byte a = s.byte a := by rw [State.byte, h.mem, State.byte]

/-! ### Step 5 -/

theorem shutStep_of (x : Shutdown) (h : s.shut = some x) : s.shutStep = x.step := by rw [State.shutStep, h]; rfl

theorem setStep_of (x : Shutdown) (n : Nat) (h : s.shut = some x) : setStep s n = { s with shut := some { x with step := n } } := by
  rw [setStep, h]
  rfl

/-- The outputs are not yet safe: step 5 begins with that (R512). -/
theorem stepFive_early {x : Shutdown} (h : s.shut = some x) (hstep : x.step ≤ 3) (htrip : x.trip = false) (hu : u = stepFive s) :
    OutputsSafe (setStep s 5) u ∧ u.shut = some { x with step := 5 } := by
  have hshut : (setStep s 5).shut = some { x with step := 5 } := by rw [setStep_of x 5 h]
  have hoff : (setStep s 5).outputsOff = true := by
    rw [State.outputsOff, shutStep_of _ hshut]
    rfl
  generalize hv : outputsSafe (setStep s 5) = v
  have hsafe := outputsSafe_leaves _ hoff hv.symm
  have hvshut := hsafe.shut.trans hshut
  have hvstep : setStep v 5 = v := by
    rw [setStep_of _ 5 hvshut]
    exact congrArg (fun y => { v with shut := y }) hvshut.symm
  have hu : u = v := by
    rw [hu, stepFive, shutStep_of x h, if_pos hstep, hv, hvstep, hvshut]
    exact if_neg (by simp [htrip])
  exact hu ▸ ⟨hsafe, hvshut⟩

theorem stepFive_late {x : Shutdown} (h : s.shut = some x) (hstep : x.step = 4) (htrip : x.trip = false) :
    stepFive s = { s with shut := some { x with step := 5 } } := by
  have hlate : ¬x.step ≤ 3 := by omega
  rw [stepFive, shutStep_of x h, if_neg hlate, setStep_of x 5 h]
  exact if_neg (by simp [htrip])

/-! ### The command -/

theorem modeImmediate_normal (h : s.rd E.shutdownMode = 0) : modeImmediate s = false := by rw [modeImmediate, h]; rfl

theorem not_safe_of_accepted {late : Bool} {r : Row} {i j : Nat} {v : Int} (hacc : Accepted s p late r i j v) : s.dev ≠ .safe :=
  bne_iff_ne.mp (Bool.and_eq_true_iff.mp hacc.1).1

/-- A cause in normal mode begins step 1 (R510, R511). -/
theorem shutdownCause_begins {trip : Bool} (hsafe : s.dev ≠ .safe) (hshut : s.shut = none) (hbudget : s.rd E.shutdownBudget ≠ 0) :
    shutdownCause s trip false = { s with shut := some ⟨1, trip, s.tick⟩ } := by
  have hbegun : (false || ({ s with shut := some ⟨1, trip, s.tick⟩ } : State).rd E.shutdownBudget == 0) = false :=
    beq_eq_false_iff_ne.mpr hbudget
  unfold shutdownCause
  simp only [hsafe, hshut, hbegun, if_false, Bool.false_eq_true]

/-- A cause in immediate mode begins step 5 (R510, R512). -/
theorem shutdownCause_immediate {trip : Bool} (hsafe : s.dev ≠ .safe) (hshut : s.shut = none) :
    shutdownCause s trip true = stepFive { s with shut := some ⟨1, trip, s.tick⟩ } := by
  unfold shutdownCause
  simp only [hsafe, hshut, Bool.true_or, if_true, if_false]

/-! ### DMA channels in steps 4 and 5 -/

/-- What the end of DMA channels in a shutdown leaves as it was. -/
structure DmaEnds (s t : State) : Prop where
  shut : t.shut = s.shut
  dev : t.dev = s.dev
  same : SameBut s t []

theorem DmaEnds.refl (s : State) : DmaEnds s s := ⟨rfl, rfl, .refl s _⟩

theorem DmaEnds.trans (h : DmaEnds s t) (h' : DmaEnds t u) : DmaEnds s u :=
  ⟨h'.shut.trans h.shut, h'.dev.trans h.dev, h.same.trans h'.same⟩

/-- Steps that each end one channel, and keep the others, end every channel of a list. -/
theorem foldl_dmaEnds {Ends : DmaSt → Prop} {f : State → Nat → State}
    (hf : ∀ s n, DmaEnds s (f s n) ∧ Ends ((f s n).dma n) ∧ ∀ m, m ≠ n → (f s n).dma m = s.dma m) :
    ∀ (l : List Nat) (s : State), DmaEnds s (l.foldl f s) ∧ ∀ n, n ∈ l ∨ Ends (s.dma n) → Ends ((l.foldl f s).dma n)
  | [], s => ⟨.refl s, fun _ h => h.resolve_left List.not_mem_nil⟩
  | m :: l, s => by
    obtain ⟨hends, hm, hothers⟩ := hf s m
    obtain ⟨hrest, hall⟩ := foldl_dmaEnds hf l (f s m)
    refine ⟨hends.trans hrest, fun n h => hall n ?_⟩
    by_cases hnm : n = m
    · exact .inr (hnm ▸ hm)
    · exact h.imp (fun h => (List.mem_cons.mp h).resolve_left hnm) fun h => hothers n hnm ▸ h

theorem dmaAborted_dmaEnds (s : State) (n : Nat) : DmaEnds s (dmaAborted s n) ∧ ((dmaAborted s n).dma n).st = .idle ∧
    ∀ m, m ≠ n → (dmaAborted s n).dma m = s.dma m := by
  obtain ⟨hidle, -, hothers, -, -, hsame⟩ := dmaAborted_ends s n
  exact ⟨⟨rfl, rfl, hsame⟩, hidle, hothers⟩

theorem dmaAbortAct_ends (s : State) (n : Nat) : DmaEnds s (dmaAbortAct n s).2 ∧
    (((dmaAbortAct n s).2.dma n).st = .idle ∨ ((dmaAbortAct n s).2.dma n).st = .aborting) ∧
    ∀ m, m ≠ n → (dmaAbortAct n s).2.dma m = s.dma m := by
  have hact : DmaEnds s (s.act (.dma n) .abort) := ⟨rfl, rfl, (SameBut.refl s _).act _ _⟩
  have hdma (m : Nat) : (s.act (.dma n) .abort).dma m = s.dma m := rfl
  unfold dmaAbortAct
  dsimp only
  split
  case h_1 h => exact ⟨hact, .inl h, fun _ _ => rfl⟩
  case h_2 h => exact ⟨hact, .inr h, fun _ _ => rfl⟩
  case h_5 =>
    obtain ⟨hends, hidle, hothers⟩ := dmaAborted_dmaEnds (s.act (.dma n) .abort) n
    exact ⟨hact.trans hends, .inl hidle, hothers⟩
  all_goals
    exact ⟨hact.trans ⟨rfl, rfl, (SameBut.refl _ _).setDma n _⟩, .inr (by rw [State.setDma_same]),
      fun m hm => State.setDma_ne _ _ _ _ hm⟩

theorem drainUnits_leaves (s : State) (hu : u = drainUnits s) : DmaEnds s u ∧ u.store.storing = none ∧
    ∀ n : DmaCh, (u.dma n).st = .idle ∨ (u.dma n).st = .aborting := by
  obtain ⟨hends, hall⟩ := foldl_dmaEnds (Ends := fun x => x.st = .idle ∨ x.st = .aborting) (f := fun s n => (dmaAbortAct n s).2)
    dmaAbortAct_ends (List.range 16) s
  have hu : u = { (List.range 16).foldl (fun s n => (dmaAbortAct n s).2) s with
    store := { ((List.range 16).foldl (fun s n => (dmaAbortAct n s).2) s).store with storing := none } } := hu
  generalize (List.range 16).foldl (fun s n => (dmaAbortAct n s).2) s = v at *
  subst hu
  exact ⟨⟨hends.shut, hends.dev, hends.same⟩, rfl, fun n => hall n (.inl (List.mem_range.mpr n.isLt))⟩

/-- An abort that runs is over (R357). -/
def endAbort (s : State) (n : Nat) : State := if (s.dma n).st = .aborting then dmaAborted s n else s

theorem endAbort_ends (s : State) (n : Nat) : DmaEnds s (endAbort s n) ∧ ((endAbort s n).dma n).st ≠ .aborting ∧
    ∀ m, m ≠ n → (endAbort s n).dma m = s.dma m := by
  unfold endAbort
  split
  · obtain ⟨hends, hidle, hothers⟩ := dmaAborted_dmaEnds s n
    exact ⟨hends, by rw [hidle]; decide, hothers⟩
  · next h => exact ⟨.refl s, h, fun _ _ => rfl⟩

/-! ### Domains in steps 6 and 7 -/

theorem setDom_rest (s : State) (d n : Nat) : (setDom s d n).dev = s.dev ∧ (setDom s d n).shut = s.shut := ⟨rfl, rfl⟩

/-- A domain that loses its state has the code that was set. -/
theorem clearDomain_domState (s : State) {d : Nat} (hd : d ≠ 0) (n : Nat) (hu : u = clearDomain d (setDom s d n)) :
    u.dev = s.dev ∧ u.shut = s.shut ∧ u.domState d = n ∧ ∀ x, x ≠ d → u.domState x = s.domState x := by
  obtain ⟨hrest, -, -⟩ := clearDomain_leaves d _ hu
  have hcode (x : Nat) : u.domState x = (setDom s d n).domState x := by rw [State.domState, State.domState, hrest.doms]
  exact ⟨hrest.dev, hrest.shut, (hcode d).trans (domState_setDom _ _ hd), fun x hx => (hcode x).trans (domState_setDom_ne _ _ hx)⟩

/-- Steps that each settle one domain's code, and keep the others', settle those of a list. -/
theorem foldl_domStates {Settled : Nat → Prop} {f : State → Nat → State} (hf : ∀ s d, d ≠ 0 → (f s d).dev = s.dev ∧
      (f s d).shut = s.shut ∧ Settled ((f s d).domState d) ∧ ∀ x, x ≠ d → (f s d).domState x = s.domState x) :
    ∀ (l : List Nat) (s : State), (∀ d ∈ l, d ≠ 0) → (l.foldl f s).dev = s.dev ∧ (l.foldl f s).shut = s.shut ∧
      ∀ d, d ∈ l ∨ Settled (s.domState d) → Settled ((l.foldl f s).domState d)
  | [], _, _ => ⟨rfl, rfl, fun _ h => h.resolve_left List.not_mem_nil⟩
  | e :: l, s, hl => by
    obtain ⟨hdev, hshut, he, hothers⟩ := hf s e (hl e List.mem_cons_self)
    obtain ⟨hdev', hshut', hall⟩ := foldl_domStates hf l (f s e) fun x hx => hl x (List.mem_cons_of_mem _ hx)
    refine ⟨hdev'.trans hdev, hshut'.trans hshut, fun d h => hall d ?_⟩
    by_cases hde : d = e
    · exact .inr (hde ▸ he)
    · exact h.imp (fun h => (List.mem_cons.mp h).resolve_left hde) fun h => hothers d hde ▸ h

theorem downOrder_nonzero : ∀ d ∈ downOrder, d ≠ 0 := by decide
theorem mem_downOrder {d : Nat} (h : 1 ≤ d) (h' : d < 12) : d ∈ downOrder := by
  interval_cases d <;> decide

theorem dropPowerUp_settles (s : State) (d : Nat) (hd : d ≠ 0) : (dropPowerUp s d).dev = s.dev ∧ (dropPowerUp s d).shut = s.shut ∧
    (dropPowerUp s d).domState d ≠ 1 ∧ ∀ x, x ≠ d → (dropPowerUp s d).domState x = s.domState x := by
  unfold dropPowerUp
  split
  · obtain ⟨hdev, hshut, hcode, hothers⟩ := clearDomain_domState s hd 0 rfl
    exact ⟨hdev, hshut, by rw [hcode]; decide, hothers⟩
  · next h => exact ⟨rfl, rfl, h, fun _ _ => rfl⟩

/-- Step 6: no power-up is under way any more (R511). -/
theorem downNext_leaves (s : State) (hu : u = downNext s) :
    u.dev = s.dev ∧ u.shut = s.shut ∧ ∀ d, d < 12 → u.domState d ≠ 1 := by
  obtain ⟨hdev, hshut, hall⟩ := foldl_domStates (Settled := fun n => n ≠ 1) dropPowerUp_settles downOrder s downOrder_nonzero
  unfold downNext at hu
  dsimp only at hu
  generalize downOrder.foldl dropPowerUp s = v at *
  have hquiet (d : Nat) (hd : d < 12) : v.domState d ≠ 1 := by
    rcases Nat.eq_zero_or_pos d with rfl | hpos
    · exact (by decide : (2 : Nat) ≠ 1)
    · exact hall d (.inl (mem_downOrder hpos hd))
  split at hu
  · subst hu
    exact ⟨hdev, hshut, hquiet⟩
  · next d hfind =>
    split at hu
    · subst hu
      exact ⟨hdev, hshut, hquiet⟩
    · next hnone =>
      have hmem := List.mem_of_find?_eq_some hfind
      have hfour : (v.domState d == 4) = false := by
        rw [Bool.not_eq_true, List.any_eq_false] at hnone
        exact Bool.not_eq_true _ ▸ hnone d hmem
      have hon : v.domOn d = true := by
        have hsome := List.find?_some hfind
        rwa [hfour, Bool.or_false] at hsome
      have hu : u = setDom v d 4 := hu.trans (if_pos hon)
      subst hu
      refine ⟨hdev, hshut, fun x hx => ?_⟩
      by_cases hxd : x = d
      · rw [hxd, domState_setDom _ _ (downOrder_nonzero d hmem)]
        decide
      · rw [domState_setDom_ne _ _ hxd]
        exact hquiet x hx

/-- A domain is off at the end of a shutdown, or has failed. -/
def endDomain (s : State) (d : Nat) : State :=
  let s := setWaiting s d false
  if s.domState d = 0 ∨ s.domState d = 6 then s else clearDomain d (setDom s d 0)

theorem enterSafe_eq (s : State) : enterSafe s = setDev { downOrder.foldl endDomain s with shut := none } .safe := rfl

theorem endDomain_settles (s : State) (d : Nat) (hd : d ≠ 0) : (endDomain s d).dev = s.dev ∧ (endDomain s d).shut = s.shut ∧
    ((endDomain s d).domState d = 0 ∨ (endDomain s d).domState d = 6) ∧
    ∀ x, x ≠ d → (endDomain s d).domState x = s.domState x := by
  unfold endDomain
  dsimp only
  have hcode (x : Nat) : (setWaiting s d false).domState x = s.domState x := domState_setWaiting s false x
  have hrest : (setWaiting s d false).dev = s.dev ∧ (setWaiting s d false).shut = s.shut := ⟨rfl, rfl⟩
  generalize setWaiting s d false = w at *
  split
  · next h => exact ⟨hrest.1, hrest.2, h, fun x _ => hcode x⟩
  · obtain ⟨hdev, hshut, hzero, hothers⟩ := clearDomain_domState w hd 0 rfl
    exact ⟨hdev.trans hrest.1, hshut.trans hrest.2, .inl hzero, fun x hx => (hothers x hx).trans (hcode x)⟩

theorem enterSafe_leaves (s : State) (hu : u = enterSafe s) : u.dev = .safe ∧ u.shut = none ∧
    ∀ d, 1 ≤ d → d < 12 → u.domState d = 0 ∨ u.domState d = 6 := by
  obtain ⟨-, -, hall⟩ := foldl_domStates (Settled := fun n => n = 0 ∨ n = 6) endDomain_settles downOrder s downOrder_nonzero
  rw [enterSafe_eq] at hu
  generalize downOrder.foldl endDomain s = v at *
  obtain ⟨hsame, hdev⟩ := setDev_same { v with shut := none } .safe
  rw [← hu] at hsame hdev
  refine ⟨hdev, hsame.shut, fun d hlow hhigh => ?_⟩
  rw [State.domState, hsame.doms]
  exact hall d (.inl (mem_downOrder hlow hhigh))

/-! ### The obligation -/

/-- What an accepted SHUTDOWN does (R510). -/
def shutdownEffect (arg : Nat) (s : State) : Nat × State :=
  (okCode, shutdownCause (s.act .job .abort) false (arg == 1 || modeImmediate s))

theorem shutdownCommand_done {arg : Nat} (hacc : Accepted s p (s.superseded .job) E.command 0 0 ((commandWord 0x20 arg : Nat) : Int))
    (hboot : s.dev ≠ .boot) (harg : [0, 1].contains arg = true) (he : shutdownEffect arg s = (okCode, u)) :
    writeIf s p (s.superseded .job) E.command 0 0 (commandWord 0x20 arg : Nat) (shutdownCommand arg) =
      (noteCommand (commandWord 0x20 arg) okCode u).answer p okCode := by
  have hsafe : s.dev ≠ .safe := not_safe_of_accepted hacc
  exact writeIf_command_done (here := fun s => s.dev != .boot && s.dev != .safe) (effect := shutdownEffect arg) hacc
    (by simp [hboot, hsafe]) harg he okCode_ne_laterCode

theorem shutdown_begins (hshut : s.shut = none) (hacc : Accepted s p (s.superseded .job) E.command 0 0 (0x20 * 2 ^ 40))
    (hboot : s.dev ≠ .boot) (hmode : s.rd E.shutdownMode = 0) (hbudget : s.rd E.shutdownBudget ≠ 0) :
    Gives (.shutdown p) s fun u => u.shut = some ⟨1, false, s.tick⟩ ∧ u.noLocks = true ∧ u.dev = s.dev ∧ u.chans = s.chans ∧
      u.rd E.cmdLast = 0x20 * 2 ^ 40 ∧ u.rd E.cmdResult = 0 ∧ u.sent = .answer p okCode [] :: s.sent ∧
      SameBut s u [rowKey E.cmdLast 0 0, rowKey E.cmdResult 0 0] := by
  have hacc : Accepted s p (s.superseded .job) E.command 0 0 ((commandWord 0x20 0 : Nat) : Int) := hacc
  have hsafe := not_safe_of_accepted hacc
  have heffect : shutdownEffect 0 s = (okCode, { s.act .job .abort with shut := some ⟨1, false, s.tick⟩ }) := by
    rw [shutdownEffect, modeImmediate_normal hmode]
    exact congrArg _ (shutdownCause_begins (s := s.act .job .abort) hsafe hshut hbudget)
  have hdone := shutdownCommand_done hacc hboot (by decide) heffect
  refine ⟨_, (exec_shutdown s p).trans (congrArg _ hdone), ?_⟩
  have hsame : SameBut s { s.act .job .abort with shut := some ⟨1, false, s.tick⟩ } [] := ⟨fun _ _ _ _ => rfl, fun _ => rfl⟩
  have hrest : ({ s.act .job .abort with shut := some ⟨1, false, s.tick⟩ } : State).dev = s.dev ∧
      ({ s.act .job .abort with shut := some ⟨1, false, s.tick⟩ } : State).chans = s.chans ∧
      ({ s.act .job .abort with shut := some ⟨1, false, s.tick⟩ } : State).sent = s.sent ∧
      ({ s.act .job .abort with shut := some ⟨1, false, s.tick⟩ } : State).shut = some ⟨1, false, s.tick⟩ := ⟨rfl, rfl, rfl, rfl⟩
  generalize ({ s.act .job .abort with shut := some ⟨1, false, s.tick⟩ } : State) = v at *
  obtain ⟨hdev, hchans, hsent, hvshut⟩ := hrest
  generalize hu : noteCommand (commandWord 0x20 0) okCode v = u
  obtain ⟨hlast, hresult, hnote⟩ := noteCommand_leaves (.inl rfl) hu.symm
  obtain ⟨hushut, hudev, huchans, husent⟩ : u.shut = v.shut ∧ u.dev = v.dev ∧ u.chans = v.chans ∧ u.sent = v.sent := by
    rw [noteCommand_shown (.inl rfl)] at hu
    subst hu
    exact ⟨rfl, rfl, rfl, rfl⟩
  have hbegun := hushut.trans hvshut
  refine ⟨hbegun, ?_, hudev.trans hdev, huchans.trans hchans, hlast.trans (commandWord_plain 0x20), hresult,
    congrArg (List.cons _) (husent.trans hsent), (hsame.trans hnote).answer p okCode []⟩
  show (u.job.stopping || u.shut.isSome) = true
  rw [hbegun, Option.isSome_some, Bool.or_true]

theorem shutdownImmediate_safe (hshut : s.shut = none) (hacc : Accepted s p (s.superseded .job) E.command 0 0 (0x20 * 2 ^ 40 + 1))
    (hboot : s.dev ≠ .boot) : Gives (.shutdownImmediate p) s fun u => u.shut = some ⟨5, false, s.tick⟩ ∧ u.outputsOff = true ∧
      u.dev = s.dev ∧ (∀ c, (u.chan c).locked = []) ∧ (∀ c : Ch, u.rd E.heaterDuty c = 0 ∧ u.rd E.output (98 + c.val) = 0) ∧
      u.gov.pwm = none ∧ u.sent.head? = some (.answer p okCode []) ∧ u.faultQ = s.faultQ ∧ ∀ x, u.byte x = s.byte x := by
  have hacc : Accepted s p (s.superseded .job) E.command 0 0 ((commandWord 0x20 1 : Nat) : Int) := hacc
  have hsafe := not_safe_of_accepted hacc
  have heffect : shutdownEffect 1 s = (okCode, stepFive { s.act .job .abort with shut := some ⟨1, false, s.tick⟩ }) := by
    rw [shutdownEffect, beq_self_eq_true, Bool.true_or]
    exact congrArg _ (shutdownCause_immediate (s := s.act .job .abort) hsafe hshut)
  have hdone := shutdownCommand_done hacc hboot (by decide) heffect
  refine ⟨_, (exec_shutdownImmediate s p).trans (congrArg _ hdone), ?_⟩
  obtain ⟨w, hw, hset⟩ : ∃ w, w = ({ s.act .job .abort with shut := some ⟨1, false, s.tick⟩ } : State) ∧
      (setStep w 5).dev = s.dev ∧ (setStep w 5).faultQ = s.faultQ ∧ (setStep w 5).mem = s.mem ∧ w.shut = some ⟨1, false, s.tick⟩ :=
    ⟨_, rfl, rfl, rfl, rfl, rfl⟩
  rw [← hw]
  obtain ⟨hdev, hfault, hmem, hwshut⟩ := hset
  generalize hv : stepFive w = v
  obtain ⟨hout, hvshut⟩ := stepFive_early hwshut (show 1 ≤ 3 by decide) rfl hv.symm
  generalize hu : noteCommand (commandWord 0x20 1) okCode v = u
  obtain ⟨-, -, hnote⟩ := noteCommand_leaves (.inl rfl) hu.symm
  rw [noteCommand_shown (.inl rfl)] at hu
  have hrest : u.shut = v.shut ∧ u.dev = v.dev ∧ u.chans = v.chans ∧ u.gov = v.gov ∧ u.faultQ = v.faultQ := by
    subst hu
    exact ⟨rfl, rfl, rfl, rfl, rfl⟩
  obtain ⟨hushut, hudev, huchans, hugov, hufault⟩ := hrest
  refine ⟨hushut.trans hvshut, ?_, hudev.trans (hout.dev.trans hdev), fun c => ?_, fun c => ?_, ?_, rfl,
    hufault.trans (hout.faultQ.trans hfault), fun x => (hnote.2 x).trans ?_⟩
  · have hstep : u.shutStep = 5 := shutStep_of _ (hushut.trans hvshut)
    show (decide (3 ≤ u.shutStep) || u.dev == .safe) = true
    rw [hstep]
    rfl
  · show (aget ({} : Chan) c u.chans).locked = []
    rw [huchans]
    exact hout.unlocked c
  · obtain ⟨hduty, hzero⟩ := hout.heaters c
    refine ⟨(hnote.1 _ _ _ ?_).trans hduty, (hnote.1 _ _ _ ?_).trans hzero⟩ <;>
    · simp only [List.mem_cons, List.not_mem_nil, or_false, rowKey, E.heaterDuty, E.output, E.cmdLast, E.cmdResult]
      omega
  · show u.gov.pwm = none
    rw [hugov]
    exact hout.pwm
  · rw [State.byte, hout.mem, hmem, State.byte]

/-- Settles O53: the command by its mode, and each step's end by what it begins. -/
theorem shutdownRunsToSafe : Obligations.ShutdownRunsToSafe := by
  unfold Obligations.ShutdownRunsToSafe
  refine ⟨fun p s hshut => ⟨fun hacc => ⟨fun hboot => ?_, shutdown_begins hshut hacc⟩, shutdownImmediate_safe hshut⟩,
    fun s x h => ?_⟩
  · have hacc : Accepted s p (s.superseded .job) E.command 0 0 ((commandWord 0x20 0 : Nat) : Int) := hacc
    rw [exec_shutdown]
    exact congrArg _ (writeIf_command_refused hacc (by simp [hboot]))
  have hstep := shutStep_of x h
  refine ⟨fun hx hd => ?_, fun hx hd => ?_, fun hx => ?_, fun hx => ?_, fun hx htrip => ?_, fun hx => ?_, fun hx => ?_,
    fun hlow hhigh htrip => ?_, fun hx => ?_⟩
  · rw [exec_shutdownStepEnd, stepEndAct, hstep, hx]
    exact congrArg _ ((if_pos hd).trans (setStep_of x 2 h))
  · rw [exec_shutdownStepEnd, stepEndAct, hstep, hx]
    exact congrArg _ (if_neg (by simp [hd]))
  · refine ⟨outputsSafe (setStep s 3), by rw [exec_shutdownStepEnd, stepEndAct, hstep, hx]; rfl, ?_⟩
    rw [setStep_of x 3 h]
    have hoff : ({ s with shut := some { x with step := 3 } } : State).outputsOff = true := rfl
    generalize hu : outputsSafe { s with shut := some { x with step := 3 } } = u
    have hsafe := outputsSafe_leaves _ hoff hu.symm
    refine ⟨hsafe.shut, ?_, hsafe.unlocked, fun c => (hsafe.heaters c).1, hsafe.pwm, hsafe.dev, hsafe.faultQ, hsafe.byte⟩
    rw [State.outputsOff, shutStep_of _ hsafe.shut]
    rfl
  · refine ⟨drainUnits (setStep s 4), by rw [exec_shutdownStepEnd, stepEndAct, hstep, hx]; rfl, ?_⟩
    rw [setStep_of x 4 h]
    obtain ⟨hends, hstoring, hdma⟩ := drainUnits_leaves { s with shut := some { x with step := 4 } } rfl
    exact ⟨hends.shut, hstoring, hdma, hends.dev, hends.same⟩
  · refine ⟨stepFive ((List.range 16).foldl endAbort s), by rw [exec_shutdownStepEnd, stepEndAct, hstep, hx]; rfl, ?_⟩
    obtain ⟨hends, hall⟩ := foldl_dmaEnds (Ends := fun y => y.st ≠ .aborting) endAbort_ends (List.range 16) s
    generalize (List.range 16).foldl endAbort s = v at *
    rw [stepFive_late (hends.shut.trans h) hx htrip]
    exact ⟨rfl, fun n => hall n (.inl (List.mem_range.mpr n.isLt)), hends.dev, hends.same⟩
  · refine ⟨downNext (setStep s 6), by rw [exec_shutdownStepEnd, stepEndAct, hstep, hx]; rfl, ?_⟩
    obtain ⟨hdev, hshut, hquiet⟩ := downNext_leaves (setStep s 6) rfl
    have hsix : (setStep s 6).shut = some { x with step := 6 } := by rw [setStep_of x 6 h]
    exact ⟨shutStep_of _ (hshut.trans hsix), hdev, hquiet⟩
  · exact ⟨enterSafe s, by rw [exec_shutdownStepEnd, stepEndAct, hstep, hx]; rfl, enterSafe_leaves s rfl⟩
  · have hcause : ignoredReset s = stepFive s := if_pos ⟨by omega, by omega⟩
    refine ⟨stepFive s, by rw [exec_shutdownBudget, hcause], ?_⟩
    by_cases hfour : x.step = 4
    · rw [stepFive_late h hfour htrip]
      exact ⟨rfl, rfl, rfl, fun _ => rfl⟩
    · generalize hu : stepFive s = u
      obtain ⟨hsafe, hshut⟩ := stepFive_early h (by omega) htrip hu.symm
      refine ⟨hshut, ?_, hsafe.dev, hsafe.byte⟩
      rw [State.outputsOff, shutStep_of _ hshut]
      rfl
  · rw [exec_shutdownBudget, ignoredReset, if_neg (by omega)]

end Sys2Proof.Machine
end

section
/-!
CERTIFICATE. Clearing faults (R22, R497, R499 to R501, R503): a clear reports a lasting condition again even in the TICK of a
message of its source.
-/
namespace Sys2Proof.Machine

theorem exec_stickyClear (s : State) (p : Port) (src v : Nat) : exec (.stickyClear p src v) s =
    .next (writeIf s p (s.superseded noTarget) E.sticky src 0 v (stickyClearAct src)) := rfl

/-- The supply of domain 0 is low, and a message of its source, 0xD1, was sampled in this TICK. -/
def sampledWhileLow : State := { Tests.up with acted := [(.source 0xD1, .done)], sup := { low := [0] } }

theorem sampledWhileLow_accepts : Accepted sampledWhileLow .fw (sampledWhileLow.superseded noTarget) E.sticky 0xD1 0 0 := by
  unfold Accepted
  decide +kernel

/-- The low supply lasts: the clear reports it again (R500). -/
theorem lasting_sampledWhileLow : lasting sampledWhileLow 0xD1 = [(1, 0)] := by decide +kernel

/-- The bit stays set in the TICK of the message (R499), and the condition is reported all the same. -/
theorem stickyClearAct_sampledWhileLow : stickyClearAct 0xD1 sampledWhileLow = (okCode, sampledWhileLow.report 0xD1 1 0) := by
  have hset : clearSticky sampledWhileLow 0xD1 = sampledWhileLow := if_pos (by decide)
  rw [stickyClearAct, clearSource, lasting_sampledWhileLow, hset]
  rfl

/-- Refutes O50: a write of 0 to STICKY in the TICK of a message of its source leaves the bit, and reports a lasting condition
again (R499, R500); the statement says that only the answer is left. The counterexample: a supply is low. -/
theorem not_faultsAreCleared : ¬Obligations.FaultsAreCleared := by
  unfold Obligations.FaultsAreCleared
  rintro ⟨-, hclear, -⟩
  obtain ⟨h, -⟩ := hclear .fw 0xD1 sampledWhileLow sampledWhileLow_accepts
  obtain ⟨u, hexec, rfl⟩ := h (by decide)
  obtain ⟨w, hw, hfault⟩ := gives_of_writeIf (P := fun w => w.faultQ = [⟨0xD1, 1, 0⟩])
    (exec_stickyClear sampledWhileLow .fw 0xD1 0) sampledWhileLow_accepts stickyClearAct_sampledWhileLow okCode_ne_laterCode
    fun b => rfl
  rw [← Host.Outcome.next.inj (hexec.symm.trans hw)] at hfault
  exact absurd hfault (by decide)

end Sys2Proof.Machine
end

section
/-!
CERTIFICATE. Fault messages are collected (R492 to R498).
-/
namespace Sys2Proof.Machine

variable {s t u : State}

theorem exec_faultMessage (s : State) (m : FaultMsg) : exec (.faultMessage m) s = .next (faultAct m s) := rfl

/-! ### What the collector records -/

/-- What the record of a message leaves as it was. -/
structure NoteRest (s t : State) : Prop where
  windows : t.windows = s.windows
  tick : t.tick = s.tick
  dev : t.dev = s.dev
  shut : t.shut = s.shut
  job : t.job = s.job
  chans : t.chans = s.chans
  dmas : t.dmas = s.dmas
  engs : t.engs = s.engs
  faultQ : t.faultQ = s.faultQ
  mem : t.mem = s.mem
  die : t.die = s.die

namespace NoteRest

theorem refl (s : State) : NoteRest s s := ⟨rfl, rfl, rfl, rfl, rfl, rfl, rfl, rfl, rfl, rfl, rfl⟩

theorem trans (h : NoteRest s t) (h' : NoteRest t u) : NoteRest s u :=
  ⟨h'.windows.trans h.windows, h'.tick.trans h.tick, h'.dev.trans h.dev, h'.shut.trans h.shut, h'.job.trans h.job,
    h'.chans.trans h.chans, h'.dmas.trans h.dmas, h'.engs.trans h.engs, h'.faultQ.trans h.faultQ, h'.mem.trans h.mem,
    h'.die.trans h.die⟩

theorem wr (s : State) (q : Row) (v : Int) (i j : Nat) : NoteRest s (s.wr q v i j) := ⟨rfl, rfl, rfl, rfl, rfl, rfl, rfl, rfl, rfl, rfl, rfl⟩
theorem act (s : State) (x : Target) (a : Act) : NoteRest s (s.act x a) := ⟨rfl, rfl, rfl, rfl, rfl, rfl, rfl, rfl, rfl, rfl, rfl⟩
theorem stale (s : State) : NoteRest s s.stale := ⟨rfl, rfl, rfl, rfl, rfl, rfl, rfl, rfl, rfl, rfl, rfl⟩
theorem personaFault (s : State) : NoteRest s (personaFault s) := ⟨rfl, rfl, rfl, rfl, rfl, rfl, rfl, rfl, rfl, rfl, rfl⟩

theorem maskedEvent (s : State) (kind index sub value : Nat) : NoteRest s (maskedEvent s kind index sub value) := by
  obtain ⟨h, hdev⟩ := maskedEvent_same s kind index sub value
  exact ⟨h.windows, h.tick, hdev, h.shut, h.job, h.chans, h.dmas, h.engs, h.faultQ, h.mem, h.die⟩

end NoteRest

/-- The keys of the entries of a source that a message sets. -/
def sourceKeys (src : Nat) : List Nat :=
  [rowKey E.sticky src 0, rowKey E.lastKind src 0, rowKey E.lastAddr src 0, rowKey E.msgCount src 0, rowKey E.stickyClass src 0]

/-- The state with the entries of a source that show its latest message. -/
def noteFault (s : State) (m : FaultMsg) : State :=
  ((s.wr E.sticky 1 m.src).wr E.lastKind m.kind m.src).wr E.lastAddr (sentAddr s m % 2 ^ 48) m.src

/-- The state with the message counted and the source's class raised, in order of the writes. -/
def countFault (s : State) (m : FaultMsg) (cls : Nat) : State :=
  (s.count E.msgCount m.src).wr E.stickyClass (max (s.rdN E.stickyClass m.src) cls) m.src

/-- The state with a source's entries set, before the event of its first message. -/
def stickyState (s : State) (m : FaultMsg) : State :=
  let v := (countFault (noteFault s m) m (classOf s m.src m.kind)).act (.source m.src) .done
  if 3 ≤ classOf s m.src m.kind ∧ ¬(stickySet s m.src = true ∧ 3 ≤ s.rdN E.stickyClass m.src) then personaFault v else v

theorem recordFault_eq (s : State) (m : FaultMsg) : recordFault s m = if stickySet s m.src then stickyState s m else
    maskedEvent ((stickyState s m).wr E.faultLast (m.src * 256 + m.kind : Nat)).stale 3 0x2000 0x0B (m.src * 256 + m.kind) := rfl

theorem noteFault_leaves (s : State) (m : FaultMsg) (hu : u = noteFault s m) : NoteRest s u ∧ u.sent = s.sent ∧
    u.rd E.sticky m.src = 1 ∧ u.rd E.lastKind m.src = m.kind ∧ u.rd E.lastAddr m.src = (sentAddr s m % 2 ^ 48 : Nat) ∧
    SameBut s u [rowKey E.sticky m.src 0, rowKey E.lastKind m.src 0, rowKey E.lastAddr m.src 0] := by
  have h1 : rowKey E.sticky m.src 0 ≠ rowKey E.lastAddr m.src 0 := by simp only [rowKey, E.sticky, E.lastAddr]; omega
  have h2 : rowKey E.sticky m.src 0 ≠ rowKey E.lastKind m.src 0 := by simp only [rowKey, E.sticky, E.lastKind]; omega
  have h3 : rowKey E.lastKind m.src 0 ≠ rowKey E.lastAddr m.src 0 := by simp only [rowKey, E.lastKind, E.lastAddr]; omega
  subst hu
  refine ⟨((NoteRest.wr s _ _ _ _).trans (.wr _ _ _ _ _)).trans (.wr _ _ _ _ _), rfl, ?_, ?_, ?_,
    (((SameBut.refl s _).wr (by simp) _).wr (by simp) _).wr (by simp) _⟩
  · exact (State.rd_wr _ _ _ _ _ _ _ _ h1).trans ((State.rd_wr _ _ _ _ _ _ _ _ h2).trans (State.rd_wr_same ..))
  · exact (State.rd_wr _ _ _ _ _ _ _ _ h3).trans (State.rd_wr_same ..)
  · exact (State.rd_wr_same ..).trans (Int.natCast_mod ..).symm

theorem countFault_leaves (s : State) (m : FaultMsg) (cls : Nat) (hu : u = countFault s m cls) : NoteRest s u ∧ u.sent = s.sent ∧
    u.rd E.msgCount m.src = min (s.rd E.msgCount m.src + 1) (2 ^ 32 - 1) ∧
    u.rdN E.stickyClass m.src = max (s.rdN E.stickyClass m.src) cls ∧
    SameBut s u [rowKey E.msgCount m.src 0, rowKey E.stickyClass m.src 0] := by
  have h1 : rowKey E.msgCount m.src 0 ≠ rowKey E.stickyClass m.src 0 := by simp only [rowKey, E.msgCount, E.stickyClass]; omega
  subst hu
  refine ⟨(NoteRest.wr s _ _ _ _).trans (.wr _ _ _ _ _), rfl, (State.rd_wr _ _ _ _ _ _ _ _ h1).trans (rd_count_same ..),
    (State.rdN_wr_same ..).trans ?_, ((SameBut.refl s _).count (by simp)).wr (by simp) _⟩
  omega

/-- The entries of the source of a message that has been sampled (R492). -/
structure Noted (s : State) (m : FaultMsg) (u : State) : Prop where
  rest : NoteRest s u
  sticky : u.rd E.sticky m.src = 1
  kind : u.rd E.lastKind m.src = m.kind
  addr : u.rd E.lastAddr m.src = (sentAddr s m % 2 ^ 48 : Nat)
  count : u.rd E.msgCount m.src = min (s.rd E.msgCount m.src + 1) (2 ^ 32 - 1)
  cls : u.rdN E.stickyClass m.src = max (s.rdN E.stickyClass m.src) (classOf s m.src m.kind)

theorem Noted.congr {m : FaultMsg} (h : Noted s m t) (hrest : NoteRest t u) (hrd : ∀ r, rowKey r m.src 0 ∈ sourceKeys m.src →
    u.rd r m.src = t.rd r m.src) : Noted s m u :=
  ⟨h.rest.trans hrest, (hrd _ (by simp [sourceKeys])).trans h.sticky, (hrd _ (by simp [sourceKeys])).trans h.kind,
    (hrd _ (by simp [sourceKeys])).trans h.addr, (hrd _ (by simp [sourceKeys])).trans h.count, by
      rw [State.rdN, hrd _ (by simp [sourceKeys]), ← State.rdN, h.cls]⟩

theorem stickyState_leaves (s : State) (m : FaultMsg) (hu : u = stickyState s m) : Noted s m u ∧ u.sent = s.sent ∧
    SameBut s u (sourceKeys m.src) := by
  generalize hv : noteFault s m = v
  obtain ⟨hrest, hsent, hsticky, hkind, haddr, hsame⟩ := noteFault_leaves s m hv.symm
  generalize hw : countFault v m (classOf s m.src m.kind) = w
  obtain ⟨hrest', hsent', hcount, hclass, hsame'⟩ := countFault_leaves v m _ hw.symm
  have hcounted : v.rd E.msgCount m.src = s.rd E.msgCount m.src := hsame.1 _ _ _ (by
    simp only [List.mem_cons, List.not_mem_nil, or_false, rowKey, E.msgCount, E.sticky, E.lastKind, E.lastAddr]; omega)
  have hclassed : v.rdN E.stickyClass m.src = s.rdN E.stickyClass m.src := hsame.rdN (by
    simp only [List.mem_cons, List.not_mem_nil, or_false, rowKey, E.stickyClass, E.sticky, E.lastKind, E.lastAddr]; omega)
  have hkept (r : Row) (hr : r ∈ [E.sticky, E.lastKind, E.lastAddr]) : w.rd r m.src = v.rd r m.src := hsame'.1 _ _ _ (by
    simp only [List.mem_cons, List.not_mem_nil, or_false] at hr
    rcases hr with rfl | rfl | rfl <;>
    · simp only [List.mem_cons, List.not_mem_nil, or_false, rowKey, E.msgCount, E.sticky, E.lastKind, E.lastAddr, E.stickyClass]
      omega)
  have hnoted : Noted s m w := ⟨hrest.trans hrest', (hkept _ (by simp)).trans hsticky, (hkept _ (by simp)).trans hkind,
    (hkept _ (by simp)).trans haddr, by rw [hcount, hcounted], by rw [hclass, hclassed]⟩
  have hsame : SameBut s w (sourceKeys m.src) := (hsame.trans hsame').mono (by simp [sourceKeys])
  have hu : u = if 3 ≤ classOf s m.src m.kind ∧ ¬(stickySet s m.src = true ∧ 3 ≤ s.rdN E.stickyClass m.src) then
      personaFault (w.act (.source m.src) .done) else w.act (.source m.src) .done := by rw [hu, stickyState, hv, hw]
  split at hu
  · subst hu
    exact ⟨hnoted.congr ((NoteRest.act ..).trans (.personaFault _)) fun _ _ => rfl, hsent'.trans hsent, hsame⟩
  · subst hu
    exact ⟨hnoted.congr (.act ..) fun _ _ => rfl, hsent'.trans hsent, hsame⟩

/-- What the collector records of a message (R492). -/
theorem recordFault_leaves (s : State) (m : FaultMsg) (hu : u = recordFault s m) : Noted s m u ∧
    (s.rd E.sticky m.src ≠ 1 → u.rd E.faultLast = (m.src * 256 + m.kind : Nat)) ∧
    (s.rd E.sticky m.src = 1 → u.sent = s.sent ∧ u.rd E.faultLast = s.rd E.faultLast) ∧
    SameBut s u (sourceKeys m.src ++ rowKey E.faultLast 0 0 :: eventKeys) := by
  generalize hv : stickyState s m = v
  obtain ⟨hnoted, hsent, hsame⟩ := stickyState_leaves s m hv.symm
  rw [recordFault_eq, hv] at hu
  have hlast : rowKey E.faultLast 0 0 ∉ sourceKeys m.src := by
    simp only [sourceKeys, List.mem_cons, List.not_mem_nil, or_false, rowKey, E.msgCount, E.sticky, E.lastKind, E.lastAddr,
      E.stickyClass, E.faultLast]
    omega
  split at hu
  · next hset =>
    have hone : s.rd E.sticky m.src = 1 := beq_iff_eq.mp hset
    subst hu
    exact ⟨hnoted, fun h => absurd hone h, fun _ => ⟨hsent, hsame.1 _ _ _ hlast⟩, hsame.mono (by simp +contextual)⟩
  · next hset =>
    have hne : s.rd E.sticky m.src ≠ 1 := fun h => hset (beq_iff_eq.mpr h)
    generalize hw : (v.wr E.faultLast (m.src * 256 + m.kind : Nat)).stale = w at hu
    obtain ⟨hwrest, hwlast, hwsame⟩ : NoteRest v w ∧ w.rd E.faultLast = (m.src * 256 + m.kind : Nat) ∧
        SameBut v w [rowKey E.faultLast 0 0] := by
      subst hw
      exact ⟨(NoteRest.wr v _ _ _ _).trans (.stale _), State.rd_wr_same .., (SameBut.refl v _).wr (by simp) _⟩
    obtain ⟨hevent, hdev⟩ := maskedEvent_same w 3 0x2000 0x0B (m.src * 256 + m.kind)
    have hurest := NoteRest.maskedEvent w 3 0x2000 0x0B (m.src * 256 + m.kind)
    rw [← hu] at hevent hurest
    have husame : SameBut w u eventKeys := ⟨hevent.rd, fun x => by rw [State.byte, hevent.mem, State.byte]⟩
    have hall : SameBut v u (rowKey E.faultLast 0 0 :: eventKeys) := (hwsame.trans husame).mono (by simp)
    refine ⟨hnoted.congr (hwrest.trans hurest) fun r hr => hall.1 _ _ _ fun hmem => ?_,
      fun _ => (husame.1 _ _ _ (by decide)).trans hwlast, fun h => absurd h hne, (hsame.trans hall).mono (by simp)⟩
    simp only [sourceKeys, eventKeys, List.mem_cons, List.not_mem_nil, or_false, rowKey, E.msgCount, E.sticky, E.lastKind, E.lastAddr,
      E.stickyClass, E.faultLast, E.eventSeq, E.txFrames] at hr hmem
    omega

/-! ### What a fence leaves of the collector -/

/-- STICKY of a source and the count of fences, by their subindices. -/
abbrev watched (k : Nat) : Prop := 0x700000 ≤ k ∧ (k % 256 = 7 ∨ k % 256 = 0x12)

/-- What the reset of a fenced unit leaves as it was. -/
structure FenceKeeps (s t : State) : Prop where
  windows : t.windows = s.windows
  tick : t.tick = s.tick
  rd : ∀ r i j, watched (rowKey r i j) → t.rd r i j = s.rd r i j

namespace FenceKeeps

theorem refl (s : State) : FenceKeeps s s := ⟨rfl, rfl, fun _ _ _ _ => rfl⟩

theorem trans (h : FenceKeeps s t) (h' : FenceKeeps t u) : FenceKeeps s u :=
  ⟨h'.windows.trans h.windows, h'.tick.trans h.tick, fun r i j hk => (h'.rd r i j hk).trans (h.rd r i j hk)⟩

theorem wr (s : State) {q : Row} {i j : Nat} (hq : ¬watched (rowKey q i j)) (v : Int) : FenceKeeps s (s.wr q v i j) :=
  ⟨rfl, rfl, fun _ _ _ hk => State.rd_wr _ _ _ _ _ _ _ _ fun h => hq (h ▸ hk)⟩

theorem setEng (s : State) (e : Nat) (x : EngSt) : FenceKeeps s (s.setEng e x) := ⟨rfl, rfl, fun _ _ _ _ => rfl⟩
theorem setChan (s : State) (c : Nat) (x : Chan) : FenceKeeps s (s.setChan c x) := ⟨rfl, rfl, fun _ _ _ _ => rfl⟩
theorem act (s : State) (x : Target) (a : Act) : FenceKeeps s (s.act x a) := ⟨rfl, rfl, fun _ _ _ _ => rfl⟩
theorem report (s : State) (src kind addr : Nat) : FenceKeeps s (s.report src kind addr) := ⟨rfl, rfl, fun _ _ _ _ => rfl⟩

theorem of_beyondFire (h : beyondFire t = beyondFire s) : FenceKeeps s t :=
  ⟨(congrArg State.windows h :), (congrArg State.tick h :), fun r i j _ => rd_of_beyondFire h r i j⟩

theorem of_events (h : SameExceptEvents s t) : FenceKeeps s t := by
  refine ⟨h.windows, h.tick, fun r i j hk => h.rd r i j fun hmem => ?_⟩
  simp only [List.mem_cons, List.not_mem_nil, or_false] at hmem
  rcases hmem with hmem | hmem | hmem <;> rw [hmem] at hk <;> exact absurd hk (by decide)

theorem foldl {β : Type} {f : State → β → State} (hf : ∀ s x, FenceKeeps s (f s x)) : ∀ (l : List β) (s : State), FenceKeeps s (l.foldl f s)
  | [], s => refl s
  | x :: l, s => (hf s x).trans (foldl hf l (f s x))

end FenceKeeps

/-- An entry of the engines, or one that an earlier part of the dictionary lists, is not watched. -/
theorem not_watched_servedBy (c : Nat) : ¬watched (rowKey E.servedBy c 0) := by
  simp only [watched, rowKey, E.servedBy]
  omega
theorem not_watched_channel (e : Nat) : ¬watched (rowKey E.channel e 0) := by
  simp only [watched, rowKey, E.channel]
  omega
theorem not_watched_learnStatus (e : Nat) : ¬watched (rowKey E.learnStatus e 0) := by
  simp only [watched, rowKey, E.learnStatus]
  omega

/-! ### Engines -/

theorem answerLater_fenceKeeps (s : State) (p : Port) (key code : Nat) : FenceKeeps s (answerLater s p key code) := by
  have hans : FenceKeeps s (s.answer p code) := ⟨rfl, rfl, fun _ _ _ _ => rfl⟩
  unfold answerLater
  dsimp only
  generalize s.answer p code = v at *
  have hring (l : List RingReq) (i : Nat) (hi : i ≤ 1) (q : RingReq) :
      FenceKeeps s (answerWrite { v with ring := { v.ring with queue := l } } i q code) := by
    have hqueue : FenceKeeps v (keepWrite { v with ring := { v.ring with queue := l } } q code) := ⟨rfl, rfl, fun _ _ _ _ => rfl⟩
    unfold answerWrite sendResp
    generalize keepWrite { v with ring := { v.ring with queue := l } } q code = w at *
    exact (hans.trans hqueue).trans (.of_events (sendFrame_same w i _ _ _ _ hi).1)
  have hcan : FenceKeeps s (canEnded { v with can := { v.can with waiting := none } }) := by
    have hwaits : FenceKeeps v { v with can := { v.can with waiting := none } } := ⟨rfl, rfl, fun _ _ _ _ => rfl⟩
    generalize { v with can := { v.can with waiting := none } } = w at *
    have hstale : FenceKeeps (w.wr E.canDomOfs 0) (w.wr E.canDomOfs 0).stale := ⟨rfl, rfl, fun _ _ _ _ => rfl⟩
    unfold canEnded
    split
    · exact hans.trans hwaits
    · exact ((hans.trans hwaits).trans (.wr w (q := E.canDomOfs) (by decide) 0)).trans hstale
  split
  · split
    · exact hans
    · exact hring _ 0 (by decide) _
  · split
    · exact hans
    · exact hring _ 1 (by decide) _
  · split
    · exact hcan
    · exact hans
  · split
    · exact hans.trans ⟨rfl, rfl, fun _ _ _ _ => rfl⟩
    · exact hans
  · exact hans

theorem leaveUnserved_fenceKeeps (s : State) (c : Nat) (hu : u = leaveUnserved s c) : FenceKeeps s u ∧ u.engs = s.engs := by
  have hsends := sendBuilt_sends (s.wr E.servedBy 0xFF c) c (some (nowStep s))
  have hwr := FenceKeeps.wr s (not_watched_servedBy c) 0xFF
  have hengs : (s.wr E.servedBy 0xFF c).engs = s.engs := rfl
  unfold leaveUnserved at hu
  dsimp only at hu
  generalize s.wr E.servedBy 0xFF c = v at *
  generalize sendBuilt v c (some (nowStep s)) = w at *
  subst hu
  exact ⟨(hwr.trans (.of_beyondFire hsends.beyond)).trans (.setChan ..), hsends.engs.trans hengs⟩

/-- A fenced engine stays fenced while its spare takes over. -/
theorem startTakeover_fenceKeeps (s : State) (c e : Nat) (b : Bool) (hu : u = startTakeover s c e b) : FenceKeeps s u ∧
    ∀ x, (s.eng x).fenced = true → (u.eng x).fenced = true := by
  have hsends := sendBuilt_sends s c (some (nowStep s))
  unfold startTakeover at hu
  dsimp only at hu
  generalize sendBuilt s c (some (nowStep s)) = v at *
  generalize hw : v.setEng (spareOf c) { v.eng (spareOf c) with copying := some (c, e), announce := true } = w at hu
  obtain ⟨hwkeeps, hwfenced⟩ : FenceKeeps v w ∧ ∀ x, (v.eng x).fenced = true → (w.eng x).fenced = true := by
    subst hw
    refine ⟨.setEng .., fun x hx => ?_⟩
    by_cases hxp : x = spareOf c
    · subst hxp
      rwa [State.setEng_same]
    · rwa [State.setEng_ne _ _ _ _ hxp]
  have hrows : FenceKeeps w (((w.wr E.channel c (spareOf c)).wr E.servedBy (spareOf c) c).wr E.channel 0xFF e) :=
    ((FenceKeeps.wr w (not_watched_channel _) _).trans (.wr _ (not_watched_servedBy _) _)).trans (.wr _ (not_watched_channel _) _)
  have hengs : (((w.wr E.channel c (spareOf c)).wr E.servedBy (spareOf c) c).wr E.channel 0xFF e).engs = w.engs := rfl
  generalize ((w.wr E.channel c (spareOf c)).wr E.servedBy (spareOf c) c).wr E.channel 0xFF e = x at *
  subst hu
  refine ⟨(((FenceKeeps.of_beyondFire hsends.beyond).trans hwkeeps).trans hrows).trans (.setChan ..), fun y hy => ?_⟩
  have hy : (v.eng y).fenced = true := by rwa [State.eng, hsends.engs]
  have hy := hwfenced y hy
  rw [State.eng] at hy ⊢
  rwa [← hengs] at hy

theorem yieldSpare_fenceKeeps (s : State) (c e : Nat) : FenceKeeps s (yieldSpare s c e) := by
  unfold yieldSpare
  dsimp only
  split
  · exact .refl s
  · split
    · have hset : FenceKeeps s (s.setEng (spareOf c) { s.eng (spareOf c) with copying := none, announce := false }) := .setEng ..
      generalize s.setEng (spareOf c) { s.eng (spareOf c) with copying := none, announce := false } = v at *
      exact (hset.trans (.wr v (not_watched_channel _) _)).trans (leaveUnserved_fenceKeeps _ _ rfl).1
    · exact .refl s

theorem leavePair_fenceKeeps (s : State) (e : Nat) : FenceKeeps s (leavePair s e) := .foldl (fun _ _ => .setEng ..) _ s

/-- A shadow write that a fence finds held is answered "superseded" (R41). -/
def supersedeHeld (s : State) (h : HeldWrite) : State :=
  match h.port with
  | none => s
  | some p => answerLater s p (shadowKey h.addr) codeSuperseded

/-- The spare is taken back for a lower source (R154). -/
def fenceYields (c : Option Nat) (wants : Bool) (e : Nat) (s : State) : State :=
  match c with
  | some c => if wants then yieldSpare s c e else s
  | none => s

/-- The channel of a fenced engine goes to the spare, or is left unserved (R148, R149). -/
def fenceChannel (c : Option Nat) (takes : Bool) (e : Nat) (s : State) : State :=
  match c with
  | none => s
  | some c => if takes then startTakeover s c e true else leaveUnserved (s.wr E.channel 0xFF e) c

theorem fenceEngine_eq (s : State) (e kind : Nat) (h : (s.eng e).fenced = false) : ∃ c wants takes held x, x.fenced = true ∧
    fenceEngine s e kind =
      fenceChannel c takes e ((leavePair (List.foldl supersedeHeld (fenceYields c wants e s) held) e).setEng e x) := by
  unfold fenceEngine
  rw [if_neg (by simp [h])]
  exact ⟨_, _, _, _, _, rfl, rfl⟩

theorem supersedeHeld_fenceKeeps (s : State) (h : HeldWrite) : FenceKeeps s (supersedeHeld s h) := by
  unfold supersedeHeld
  split
  · exact .refl s
  · exact answerLater_fenceKeeps ..

theorem fenceYields_fenceKeeps (c : Option Nat) (wants : Bool) (e : Nat) (s : State) : FenceKeeps s (fenceYields c wants e s) := by
  unfold fenceYields
  split
  · split
    · exact yieldSpare_fenceKeeps ..
    · exact .refl s
  · exact .refl s

theorem fenceChannel_fenceKeeps (c : Option Nat) (takes : Bool) (e : Nat) (h : (s.eng e).fenced = true)
    (hu : u = fenceChannel c takes e s) : FenceKeeps s u ∧ (u.eng e).fenced = true := by
  unfold fenceChannel at hu
  split at hu
  · subst hu
    exact ⟨.refl _, h⟩
  · split at hu
    · obtain ⟨hkeeps, hfenced⟩ := startTakeover_fenceKeeps s _ _ _ hu
      exact ⟨hkeeps, hfenced e h⟩
    · obtain ⟨hkeeps, hengs⟩ := leaveUnserved_fenceKeeps _ _ hu
      refine ⟨(FenceKeeps.wr s (not_watched_channel e) _).trans hkeeps, ?_⟩
      rw [State.eng, hengs]
      exact h

/-- An engine that is fenced is isolated, and its channel goes on or is left unserved (R148 to R152). -/
theorem fenceEngine_fenceKeeps (s : State) (e kind : Nat) (h : (s.eng e).fenced = false) (hu : u = fenceEngine s e kind) :
    FenceKeeps s u ∧ (u.eng e).fenced = true := by
  obtain ⟨c, wants, takes, held, x, hx, heq⟩ := fenceEngine_eq s e kind h
  rw [heq] at hu
  have hyields := fenceYields_fenceKeeps c wants e s
  generalize fenceYields c wants e s = v at *
  have hheld := FenceKeeps.foldl supersedeHeld_fenceKeeps held v
  generalize held.foldl supersedeHeld v = w at *
  have hpair := leavePair_fenceKeeps w e
  generalize leavePair w e = y at *
  obtain ⟨hkeeps, hfenced⟩ := fenceChannel_fenceKeeps c takes e (s := y.setEng e x) (by rw [State.setEng_same, hx]) hu
  exact ⟨(((hyields.trans hheld).trans hpair).trans (.setEng ..)).trans hkeeps, hfenced⟩

/-! ### Ports, lanes and stops -/

theorem evalSides_fenceKeeps (s : State) (i : Nat) : FenceKeeps s (evalSides s i) := by
  have hwrap (t : State) (b : Bool) (r : RingSt) : FenceKeeps t (if b then ({ t with ring := r } : State).report (0xA8 + i) 2 0 else t) := by
    split
    · exact ⟨rfl, rfl, fun _ _ _ _ => rfl⟩
    · exact .refl t
  have hjoin (t : State) : FenceKeeps t (joinUnassigned t) := by
    unfold joinUnassigned joinNow
    split
    · split
      · exact ⟨rfl, rfl, fun _ _ _ _ => rfl⟩
      · exact .refl t
    · exact .refl t
  exact ((hwrap s _ _).trans (hwrap _ _ _)).trans (hjoin _)

theorem fenceLane_fenceKeeps (s : State) (i : Nat) : FenceKeeps s (fenceLane s i) := by
  have hset (t : State) (k : Nat) (x : LaneSt) : FenceKeeps t (t.setLane k x) := ⟨rfl, rfl, fun _ _ _ _ => rfl⟩
  exact (((hset s _ _).trans (hset _ _ _)).trans (hset _ _ _)).trans (evalSides_fenceKeeps _ i)

theorem endJob_fenceKeeps (s : State) (d : DevState) (hu : u = endJob s d) : FenceKeeps s u := by
  unfold endJob at hu
  dsimp only at hu
  generalize hv : abandonAll s (fun _ => true) = v at hu
  obtain ⟨hbeyond, -, -, -⟩ := abandonAll_rests s hv.symm
  have hjob : FenceKeeps v { v with job := { v.job with stopping := false } } := ⟨rfl, rfl, fun _ _ _ _ => rfl⟩
  have hlearn := discardLearns_ends { v with job := { v.job with stopping := false } }
  generalize ({ v with job := { v.job with stopping := false } } : State) = w at *
  have hdiscard : FenceKeeps w (discardLearns w) := by
    obtain ⟨engs, chans, dict, hw⟩ := hlearn.rest
    exact ⟨(congrArg State.windows hw :), (congrArg State.tick hw :), fun r i j hk => hlearn.rd r i j fun e he =>
      not_watched_learnStatus e (he ▸ hk)⟩
  generalize discardLearns w = x at *
  have hrest : FenceKeeps x (restSpeed x) := by
    unfold restSpeed
    exact ((((FenceKeeps.wr x (by decide) _).trans (.wr _ (by decide) _)).trans (.wr _ (by decide) _)).trans
      (.wr _ (by decide) _)).trans (.wr _ (by decide) _)
  generalize restSpeed x = y at *
  have hdev := FenceKeeps.of_events (setDev_same y d).1
  generalize setDev y d = z at *
  rw [hu]
  exact (((((FenceKeeps.of_beyondFire hbeyond).trans hjob).trans hdiscard).trans hrest).trans hdev).trans
    (.of_events (maskedEvent_same z _ _ _ _).1)

theorem stopJob_fenceKeeps (s : State) : FenceKeeps s (stopJob s) := by
  have hact := FenceKeeps.act s .job .abort
  unfold stopJob
  dsimp only
  generalize s.act .job .abort = v at *
  split
  · exact hact.trans (endJob_fenceKeeps v _ rfl)
  · split
    · exact hact.trans ⟨rfl, rfl, fun _ _ _ _ => rfl⟩
    · exact hact

theorem openWindow_leaves (s : State) (src : Nat) (hu : u = openWindow s src) : (⟨src, s.tick⟩ : Window) ∈ u.windows ∧ u.tick = s.tick ∧
    u.rd E.sticky src = s.rd E.sticky src ∧ u.rd E.fences = min (s.rd E.fences + 1) (2 ^ 32 - 1) ∧ u.engs = s.engs ∧
    u.dmas = s.dmas ∧ u.mem = s.mem := by
  have hkey : rowKey E.sticky src 0 ≠ rowKey E.fences 0 0 := by simp only [rowKey, E.sticky, E.fences]; omega
  subst hu
  unfold openWindow
  refine ⟨List.mem_append_right _ List.mem_cons_self, rfl, ?_, ?_, rfl, rfl, rfl⟩
  · exact State.rd_wr _ _ _ _ _ _ _ _ hkey
  · exact rd_count_same ..

/-- A source whose fence has opened a window is in it. -/
theorem inWindow_of_mem {src kind : Nat} (h : (⟨src, s.tick⟩ : Window) ∈ s.windows) : inWindow s src kind = true := by
  refine List.any_eq_true.mpr ⟨_, h, ?_⟩
  have hopen : windowOpen s ⟨src, s.tick⟩ = true := decide_eq_true (Nat.lt_add_of_pos_right (by decide))
  rw [hopen]
  simp

/-- A fence opens its window, is counted, and keeps what is watched (R495, R497). -/
theorem fence_leaves (s : State) (src kind : Nat) (h : src ≤ 0x63 → (s.eng src).fenced = false) (hu : u = fence s src kind) :
    FenceKeeps (openWindow s src) u ∧ (src ≤ 0x63 → (u.eng src).fenced = true) := by
  have heng : (openWindow s src).eng src = s.eng src := rfl
  unfold fence at hu
  generalize openWindow s src = v at *
  split at hu
  · next hle =>
    have hfree := h hle
    rw [if_neg (by simp [hfree])] at hu
    generalize hw : fenceEngine v src kind = w at hu
    obtain ⟨hkeeps, hfenced⟩ := fenceEngine_fenceKeeps v src kind (heng ▸ hfree) hw.symm
    dsimp only at hu
    split at hu
    · subst hu
      exact ⟨hkeeps.trans (.act ..), fun _ => hfenced⟩
    · subst hu
      exact ⟨(hkeeps.trans (.act ..)).trans (.act ..), fun _ => hfenced⟩
  · next hgt =>
    refine ⟨?_, fun hle => absurd hle hgt⟩
    subst hu
    split
    · exact ⟨rfl, rfl, fun _ _ _ _ => rfl⟩
    · split
      · exact ⟨rfl, rfl, fun _ _ _ _ => rfl⟩
      · split
        · exact (fenceLane_fenceKeeps v _).trans (.act ..)
        · exact stopJob_fenceKeeps v

theorem fence_dma (s : State) {src : Nat} (kind : Nat) (hlow : 0x80 ≤ src) (hhigh : src ≤ 0x8F) :
    fence s src kind = (fenceDma (openWindow s src) (src - 0x80)).act (.dma (src - 0x80)) .fence := by
  rw [fence, if_neg (by omega), if_pos ⟨hlow, hhigh⟩]

/-! ### The obligation -/

section

variable {m : FaultMsg}

/-- The state in which the message has left its unit. -/
def taken (s : State) (m : FaultMsg) : State := { s with faultQ := s.faultQ.erase m }

theorem faultAct_discards (hsrc : sourceExists m.src = true) (hkind : kindExists m.src m.kind = true)
    (h : s.actedOn .device [.reset, .trip] = true) : faultAct m s = taken s m := by
  rw [faultAct, if_neg (by simp [hsrc, hkind]), if_pos h]
  rfl

theorem faultAct_collects (hsrc : sourceExists m.src = true) (hkind : kindExists m.src m.kind = true)
    (h : s.actedOn .device [.reset, .trip] = false) : faultAct m s = collect (taken s m) m := by
  rw [faultAct, if_neg (by simp [hsrc, hkind]), if_neg (by simp [h])]
  rfl

theorem collect_lost (h : inWindow s m.src m.kind = true) : collect s m = loseFault s := if_pos h

theorem collect_reacts (h : inWindow s m.src m.kind = false) :
    collect s m = react (recordFault s m) m.src m.kind (classOf s m.src m.kind) := if_neg (by simp [h])

theorem react_none {src kind cls : Nat} (h : cls ≤ 1) : react s src kind cls = s := by
  rw [react, if_neg (by omega), if_neg (by omega), if_neg (by omega)]

theorem loseFault_leaves (s : State) (hu : u = loseFault s) : u.rd E.lostInReaction = 1 ∧
    u.rd E.lostCount = min (s.rd E.lostCount + 1) (2 ^ 32 - 1) ∧ u.faultQ = s.faultQ ∧ u.sent = s.sent ∧
    SameBut s u [rowKey E.lostInReaction 0 0, rowKey E.lostCount 0 0] := by
  have hlost : (s.wr E.lostInReaction 1).rd E.lostCount = s.rd E.lostCount := State.rd_wr _ _ _ _ _ _ _ _ (by decide)
  have hone : (s.wr E.lostInReaction 1).rd E.lostInReaction = 1 := State.rd_wr_same ..
  have hsame : SameBut s (s.wr E.lostInReaction 1) [rowKey E.lostInReaction 0 0, rowKey E.lostCount 0 0] :=
    (SameBut.refl s _).wr (by simp) 1
  have hrest : (s.wr E.lostInReaction 1).faultQ = s.faultQ ∧ (s.wr E.lostInReaction 1).sent = s.sent := ⟨rfl, rfl⟩
  unfold loseFault at hu
  generalize s.wr E.lostInReaction 1 = v at *
  have hstale : v.stale.rd E.lostCount = v.rd E.lostCount ∧ v.stale.rd E.lostInReaction = v.rd E.lostInReaction ∧
      v.stale.faultQ = v.faultQ ∧ v.stale.sent = v.sent ∧ SameBut v v.stale [] := ⟨rfl, rfl, rfl, rfl, fun _ _ _ _ => rfl, fun _ => rfl⟩
  generalize v.stale = w at *
  obtain ⟨hcount, hset, hfault, hsent, hstale⟩ := hstale
  subst hu
  refine ⟨(State.rd_wr _ _ _ _ _ _ _ _ (by decide)).trans (hset.trans hone), ?_, hfault.trans hrest.1, hsent.trans hrest.2,
    ((hsame.trans hstale).mono (by simp)).count (by simp)⟩
  rw [rd_count_same, hcount, hlost]
  rfl

end

/-- Settles O49: what is recorded, and the reaction by its class. -/
theorem faultMessagesAreCollected : Obligations.FaultMessagesAreCollected := by
  unfold Obligations.FaultMessagesAreCollected
  intro m s cls hsrc hkind hcls hle
  refine ⟨fun h => congrArg _ (faultAct_discards hsrc hkind h), fun h => ?_⟩
  have hcollect := faultAct_collects hsrc hkind h
  have hclass : classOf (taken s m) m.src m.kind = cls := hcls.symm
  generalize hv : recordFault (taken s m) m = v
  obtain ⟨hnoted, hfirst, hagain, hsame⟩ := recordFault_leaves (taken s m) m hv.symm
  have hsameS : SameBut s v (sourceKeys m.src ++ rowKey E.faultLast 0 0 :: eventKeys) := hsame
  have hreacts (hw : inWindow s m.src m.kind = false) : exec (.faultMessage m) s = .next (react v m.src m.kind cls) := by
    rw [exec_faultMessage, hcollect, collect_reacts (show inWindow (taken s m) m.src m.kind = false from hw), hv, hclass]
  have hbyte (a : Nat) : v.byte a = s.byte a := hsameS.2 a
  have hfences : v.rd E.fences = s.rd E.fences := hsameS.1 _ _ _ (by
    simp only [sourceKeys, eventKeys, List.cons_append, List.nil_append, List.mem_cons, List.not_mem_nil, or_false, rowKey, E.msgCount,
      E.sticky, E.lastKind, E.lastAddr, E.stickyClass, E.faultLast, E.eventSeq, E.txFrames, E.fences]
    omega)
  refine ⟨fun hw => ?_, fun hw hone => ?_, fun hw hthree hdev => ?_, fun hw hfour hsafe hshut hmode hbudget => ?_,
    fun hw htwo hfree => ?_, fun hw htwo hlow hhigh => ?_⟩
  · refine ⟨loseFault (taken s m), ?_, ?_⟩
    · rw [exec_faultMessage, hcollect, collect_lost (show inWindow (taken s m) m.src m.kind = true from hw)]
    · exact loseFault_leaves (taken s m) rfl
  · refine ⟨v, by rw [hreacts hw, react_none hone], hnoted.sticky, hnoted.kind, hnoted.addr, hnoted.count, ?_, hnoted.rest.faultQ,
      hnoted.rest.dev, hfirst, hagain, hsameS.mono (by simp [sourceKeys, eventKeys])⟩
    rw [hnoted.cls, hclass]
    rfl
  · have hstop : react v m.src m.kind cls = stopJob v := by
      rw [react, hthree]
      rfl
    refine ⟨stopJob v, by rw [hreacts hw, hstop], ?_⟩
    rw [stopJob_printing (hnoted.rest.dev.trans hdev)]
    exact ⟨hnoted.sticky, hnoted.rest.dev.trans hdev, rfl, hnoted.rest.chans, hbyte⟩
  · have hlow (r : Row) (hr : r = E.shutdownMode ∨ r = E.shutdownBudget) : v.rd r = s.rd r := hsameS.1 _ _ _ (by
      simp only [sourceKeys, eventKeys, List.cons_append, List.nil_append, List.mem_cons, List.not_mem_nil, or_false]
      rcases hr with rfl | rfl <;>
      · simp only [rowKey, E.msgCount, E.sticky, E.lastKind, E.lastAddr, E.stickyClass, E.faultLast, E.eventSeq, E.txFrames,
          E.shutdownMode, E.shutdownBudget]
        omega)
    have hcause : react v m.src m.kind cls = shutdownCause v false (modeImmediate v) := by
      rw [react, hfour]
      rfl
    have hbegin := shutdownCause_begins (s := v) (trip := false) (hnoted.rest.dev.symm ▸ hsafe) (hnoted.rest.shut.trans hshut)
      ((hlow _ (.inr rfl)).symm ▸ hbudget)
    refine ⟨{ v with shut := some ⟨1, false, v.tick⟩ }, ?_, hnoted.sticky, ?_, hnoted.rest.dev, hnoted.rest.chans, hbyte⟩
    · rw [hreacts hw, hcause, modeImmediate_normal ((hlow _ (.inl rfl)).trans hmode), hbegin]
    · exact congrArg (fun n => some (⟨1, false, n⟩ : Shutdown)) hnoted.rest.tick
  · have hfence : react v m.src m.kind cls = fence v m.src m.kind := by
      rw [react, htwo]
      rfl
    refine ⟨_, by rw [hreacts hw, hfence], ?_⟩
    have hvfree : m.src ≤ 0x63 → (v.eng m.src).fenced = false := fun hle => by
      rw [State.eng, hnoted.rest.engs]
      exact hfree hle
    generalize hu : fence v m.src m.kind = u
    obtain ⟨hkeeps, hfenced⟩ := fence_leaves v m.src m.kind hvfree hu.symm
    generalize hy : openWindow v m.src = y at hkeeps
    obtain ⟨hmem, htick, hsticky, hcount, -, -, -⟩ := openWindow_leaves v m.src hy.symm
    refine ⟨?_, ?_, inWindow_of_mem ?_, hfenced⟩
    · rw [hkeeps.rd _ _ _ (by simp only [watched, rowKey, E.sticky]; omega), hsticky, hnoted.sticky]
    · rw [hkeeps.rd _ _ _ (by decide), hcount, hfences]
    · rw [hkeeps.tick, htick, hkeeps.windows]
      exact hmem
  · have hfence : react v m.src m.kind cls = (fenceDma (openWindow v m.src) (m.src - 0x80)).act (.dma (m.src - 0x80)) .fence := by
      rw [react, htwo, if_pos rfl, fence_dma v m.kind hlow hhigh]
    refine ⟨_, by rw [hreacts hw, hfence], ?_⟩
    generalize hy : openWindow v m.src = y
    obtain ⟨hmem, htick, hsticky, hcount, -, hdmas, hmem'⟩ := openWindow_leaves v m.src hy.symm
    obtain ⟨hidle, hresult, hothers, -, -, hsame'⟩ := dmaAborted_ends y (m.src - 0x80)
    have hwindow : (dmaAborted y (m.src - 0x80)).windows = y.windows ∧ (dmaAborted y (m.src - 0x80)).tick = y.tick := ⟨rfl, rfl⟩
    generalize hz : (fenceDma y (m.src - 0x80)).act (.dma (m.src - 0x80)) .fence = z
    have hzd : z.windows = y.windows ∧ z.tick = y.tick ∧ z.dmas = (dmaAborted y (m.src - 0x80)).dmas ∧
        SameBut (dmaAborted y (m.src - 0x80)) z [] := by
      subst hz
      exact ⟨rfl, rfl, rfl, fun _ _ _ _ => rfl, fun _ => rfl⟩
    obtain ⟨hzwindows, hztick, hzdmas, hzsame⟩ := hzd
    have hzdma (n : Nat) : z.dma n = (dmaAborted y (m.src - 0x80)).dma n := by rw [State.dma, hzdmas, State.dma]
    have hall := hsame'.trans hzsame
    refine ⟨?_, ?_, inWindow_of_mem ?_, ?_, ?_, fun n hn => ?_, fun x => ?_⟩
    · rw [hall.1 _ _ _ (by simp), hsticky, hnoted.sticky]
    · rw [hall.1 _ _ _ (by simp), hcount, hfences]
    · rw [hztick, htick, hzwindows]
      exact hmem
    · rw [hzdma, hidle]
    · rw [hzdma, hresult]
    · rw [hzdma, hothers n hn, State.dma, hdmas, hnoted.rest.dmas]
      rfl
    · rw [hall.2 x, State.byte, hmem']
      exact hbyte x

end Sys2Proof.Machine
end

section
/-!
CERTIFICATE. The die diode and the supplies (R505 to R507, R519, R520).
-/
namespace Sys2Proof.Machine

variable {s t u : State} {keys : List Nat}

theorem exec_dieTempRound (s : State) (temp : Int) (raw : Nat) : exec (.dieTempRound temp raw) s = .next (dieRoundAct temp raw s) := rfl
theorem exec_dieTrip (s : State) : exec .dieTrip s = .next (tripAct s) := rfl
theorem exec_supplyWarn (s : State) (m : Dom) (mV : Nat) : exec (.supplyWarn m mV) s = .next (supplyWarnAct m mV s) := rfl
theorem exec_supplyRecover (s : State) : exec .supplyRecover s = .next (supplyRecoverAct s) := rfl

/-! ### The die diode -/

/-- What a part of the diode's round leaves as it was, the entries aside. -/
structure RoundKeeps (keys : List Nat) (s t : State) : Prop where
  die : t.die = s.die
  faultQ : t.faultQ = s.faultQ
  sent : t.sent = s.sent
  same : SameBut s t keys

namespace RoundKeeps

theorem refl (s : State) : RoundKeeps keys s s := ⟨rfl, rfl, rfl, .refl s _⟩

theorem trans {keys' : List Nat} (h : RoundKeeps keys s t) (h' : RoundKeeps keys' t u) : RoundKeeps (keys ++ keys') s u :=
  ⟨h'.die.trans h.die, h'.faultQ.trans h.faultQ, h'.sent.trans h.sent, h.same.trans h'.same⟩

theorem next (h : RoundKeeps keys s t) (h' : RoundKeeps keys t u) : RoundKeeps keys s u :=
  ⟨h'.die.trans h.die, h'.faultQ.trans h.faultQ, h'.sent.trans h.sent, (h.same.trans h'.same).mono (by simp)⟩

theorem wr (s : State) {q : Row} {i j : Nat} (h : rowKey q i j ∈ keys) (v : Int) : RoundKeeps keys s (s.wr q v i j) :=
  ⟨rfl, rfl, rfl, (SameBut.refl s _).wr h v⟩

theorem foldl {f : State → Nat → State} (hf : ∀ s, ∀ x < n, RoundKeeps keys s (f s x)) : ∀ (l : List Nat) (s : State), (∀ x ∈ l, x < n) →
    RoundKeeps keys s (l.foldl f s)
  | [], s, _ => refl s
  | x :: l, s, hl => (hf s x (hl x List.mem_cons_self)).next (foldl hf l (f s x) fun y hy => hl y (List.mem_cons_of_mem _ hy))

end RoundKeeps

/-- The entries of the traffic of the memory channels. -/
def trafficKeys : List Nat := (List.range 5).flatMap fun ch => [rowKey E.bwRead ch 0, rowKey E.bwWrite ch 0]

/-- The entries of the calibrations' states. -/
def calKeys : List Nat := (List.range 4).map fun k => rowKey E.calState k 0

/-- The traffic of a memory channel is shown (0x6010 + ch.0A, .0B). -/
def latchChannel (s : State) (ch : Nat) : State :=
  let x := aget (0, 0) ch s.memory.traffic
  (s.wr E.bwRead (x.1 / 1000 : Nat) ch).wr E.bwWrite (x.2 / 1000 : Nat) ch

theorem latchTraffic_eq (s : State) : ∃ m, latchTraffic s = { (List.range 5).foldl latchChannel s with memory := m } := ⟨_, rfl⟩

theorem latchChannel_leaves (s : State) {ch : Nat} (h : ch < 5) : RoundKeeps trafficKeys s (latchChannel s ch) := by
  have hread : rowKey E.bwRead ch 0 ∈ trafficKeys := List.mem_flatMap.mpr ⟨ch, List.mem_range.mpr h, by simp⟩
  have hwrite : rowKey E.bwWrite ch 0 ∈ trafficKeys := List.mem_flatMap.mpr ⟨ch, List.mem_range.mpr h, by simp⟩
  exact (RoundKeeps.wr s hread _).next (.wr _ hwrite _)

theorem latchTraffic_leaves (s : State) (hu : u = latchTraffic s) : RoundKeeps trafficKeys s u := by
  obtain ⟨m, hm⟩ := latchTraffic_eq s
  have hfold := RoundKeeps.foldl (fun t ch hch => latchChannel_leaves t hch) (List.range 5) s fun _ => List.mem_range.mp
  rw [hm] at hu
  generalize (List.range 5).foldl latchChannel s = v at *
  subst hu
  exact ⟨hfold.die, hfold.faultQ, hfold.sent, hfold.same⟩

theorem calTrigger_leaves (s : State) {k : Nat} (hk : k < 4) : RoundKeeps calKeys s (calTrigger s k) := by
  have hset : RoundKeeps calKeys s (s.setCal k { s.cal k with pending := true }) := ⟨rfl, rfl, rfl, fun _ _ _ _ => rfl, fun _ => rfl⟩
  have hkey : rowKey E.calState k 0 ∈ calKeys := List.mem_map.mpr ⟨k, List.mem_range.mpr hk, rfl⟩
  unfold calTrigger
  dsimp only
  split
  · exact hset
  · exact hset.next (.wr _ hkey _)

theorem calTemperature_leaves (s : State) (hu : u = calTemperature s) : RoundKeeps calKeys s u := by
  subst hu
  unfold calTemperature
  split
  · exact .refl s
  · refine .foldl (n := 4) (fun t k hk => ?_) (List.range 4) s fun _ => List.mem_range.mp
    split
    · exact calTrigger_leaves t hk
    · exact .refl t

/-- The rounds in a row that a raw code has stood (R506). -/
def rawRunOf (s : State) (raw : Nat) : Nat := if s.die.rawLast = some raw then min 64 (s.die.rawRun + 1) else 1

/-- The raw code of the round is kept. -/
def keepRaw (s : State) (raw : Nat) : State := { s with die := { s.die with rawLast := some raw, rawRun := rawRunOf s raw } }

theorem diodeStep_eq (s : State) (temp : Int) (raw : Nat) : diodeStep s temp raw =
    if !s.die.broken && (decide (temp < -880 ∨ 2720 < temp) || rawRunOf s raw == 64) then
      (({ keepRaw s raw with die := { (keepRaw s raw).die with broken := true } } : State).wr E.diodeState
        ((if decide (temp < -880 ∨ 2720 < temp) then 1 else 2 : Nat) : Nat)).report 0xD0 2
        ((if decide (temp < -880 ∨ 2720 < temp) then 1 else 2) * 2 ^ 16 + raw % 2 ^ 16)
    else keepRaw s raw := rfl

/-- A reading within the range of a working diode, whose raw code has not stood for 64 rounds (R506). -/
theorem diodeStep_good {temp : Int} {raw : Nat} (hlow : -880 ≤ temp) (hhigh : temp ≤ 2720)
    (hrun : s.die.rawLast ≠ some raw ∨ s.die.rawRun < 63) : diodeStep s temp raw = keepRaw s raw := by
  have houtside : decide (temp < -880 ∨ 2720 < temp) = false := decide_eq_false (by omega)
  have hstands : (rawRunOf s raw == 64) = false := by
    refine beq_eq_false_iff_ne.mpr ?_
    unfold rawRunOf
    rcases hrun with hrun | hrun
    · rw [if_neg hrun]
      decide
    · split <;> omega
  rw [diodeStep_eq, houtside, hstands]
  exact if_neg (by simp)

/-- A reading out of range, or a raw code that has stood for 64 rounds, breaks the diode (R506). -/
theorem diodeStep_breaks {temp : Int} {raw : Nat} (hsound : s.die.broken = false)
    (h : temp < -880 ∨ 2720 < temp ∨ (s.die.rawLast = some raw ∧ s.die.rawRun = 63)) (hu : u = diodeStep s temp raw) :
    u.die.broken = true ∧ u.rd E.diodeState = (if temp < -880 ∨ 2720 < temp then 1 else 2) ∧
    u.faultQ = s.faultQ ++ [⟨0xD0, 2, (if temp < -880 ∨ 2720 < temp then 1 else 2) * 2 ^ 16 + raw % 2 ^ 16⟩] ∧ u.sent = s.sent ∧
    SameBut s u [rowKey E.diodeState 0 0] := by
  have hbreaks : (!s.die.broken && (decide (temp < -880 ∨ 2720 < temp) || rawRunOf s raw == 64)) = true := by
    rw [hsound, Bool.not_false, Bool.true_and, Bool.or_eq_true]
    rcases h with h | h | ⟨hlast, hrun⟩
    · exact .inl (decide_eq_true (.inl h))
    · exact .inl (decide_eq_true (.inr h))
    · refine .inr (beq_iff_eq.mpr ?_)
      rw [rawRunOf, if_pos hlast, hrun]
      rfl
  rw [diodeStep_eq, if_pos hbreaks] at hu
  simp only [decide_eq_true_eq] at hu
  obtain ⟨v, hv⟩ : ∃ v, v = ({ keepRaw s raw with die := { (keepRaw s raw).die with broken := true } } : State) := ⟨_, rfl⟩
  obtain ⟨hbroken, hfault, hsent, hsame⟩ : v.die.broken = true ∧ v.faultQ = s.faultQ ∧ v.sent = s.sent ∧ SameBut s v [] := by
    subst hv
    exact ⟨rfl, rfl, rfl, fun _ _ _ _ => rfl, fun _ => rfl⟩
  rw [← hv] at hu
  subst hu
  refine ⟨hbroken, (State.rd_wr_same ..).trans ?_, congrArg (· ++ _) hfault, hsent, (hsame.mono (by simp)).wr (by simp) _⟩
  split <;> rfl

/-! ### The reading and the trip -/

theorem dieReading_good {temp : Int} {first : Bool} (h : s.die.broken = false) (hu : u = dieReading s temp first) :
    RoundKeeps [rowKey E.dieTemp 0 0, rowKey E.dieTempMax 0 0] s u ∧ u.rd E.dieTemp = temp ∧
    (first = false → u.rd E.dieTempMax = max (s.rd E.dieTempMax) temp) := by
  have hgood : dieReading s temp first =
      (s.wr E.dieTemp temp).wr E.dieTempMax (if first then temp else max (s.rd E.dieTempMax) temp) := if_neg (by simp [h])
  rw [hgood] at hu
  subst hu
  refine ⟨(RoundKeeps.wr s (by simp) temp).next (.wr _ (by simp) _),
    (State.rd_wr _ _ _ _ _ _ _ _ (by decide)).trans (State.rd_wr_same ..), fun hfirst => (State.rd_wr_same ..).trans ?_⟩
  rw [hfirst]
  rfl

theorem dieReading_broken {temp : Int} {first : Bool} (h : s.die.broken = true) : dieReading s temp first = s.wr E.dieTemp 0x7FFF :=
  if_pos h

/-- A round at or above the trip level (R507). -/
theorem tripStep_hot (h : s.die.broken = true ∨ 2240 ≤ s.rd E.dieTemp) (hu : u = tripStep s) :
    u.rd E.tripRun = (min 3 (s.rdN E.tripRun + 1) : Nat) ∧ u.die.due = (s.die.due || s.rdN E.tripRun == 2) ∧
    u.die.broken = s.die.broken ∧ u.faultQ = s.faultQ ∧ u.sent = s.sent ∧ SameBut s u [rowKey E.tripRun 0 0] := by
  have hhot : s.die.broken = true ∨ dieTrip ≤ s.rd E.dieTemp := h
  unfold tripStep at hu
  rw [if_pos hhot] at hu
  dsimp only at hu
  by_cases htwo : s.rdN E.tripRun = 2
  · rw [if_pos htwo] at hu
    subst hu
    refine ⟨State.rd_wr_same .., ?_, rfl, rfl, rfl, SameBut.wr (s := s) ⟨fun _ _ _ _ => rfl, fun _ => rfl⟩ (by simp) _⟩
    rw [htwo]
    simp
  · rw [if_neg htwo] at hu
    subst hu
    refine ⟨State.rd_wr_same .., ?_, rfl, rfl, rfl, (SameBut.refl s _).wr (by simp) _⟩
    have hnot : (s.rdN E.tripRun == 2) = false := beq_eq_false_iff_ne.mpr htwo
    rw [hnot, Bool.or_false]
    rfl

theorem tripStep_cool (h : s.die.broken = false) (ht : s.rd E.dieTemp < 2240) : tripStep s = s.wr E.tripRun 0 := by
  unfold tripStep
  rw [if_neg]
  rintro (hb | hle)
  · rw [h] at hb
    exact Bool.false_ne_true hb
  · exact absurd (show (2240 : Int) ≤ s.rd E.dieTemp from hle) (by omega)

/-- A round of a sound diode counts the rounds in a row at or above the trip level (R507). -/
theorem tripStep_counts {temp : Int} (h : s.die.broken = false) (ht : s.rd E.dieTemp = temp) (hu : u = tripStep s) :
    u.rd E.tripRun = (if 2240 ≤ temp then (min 3 (s.rdN E.tripRun + 1) : Nat) else 0) ∧
    u.die.due = (s.die.due || (decide (2240 ≤ temp) && s.rdN E.tripRun == 2)) ∧ u.die.broken = false ∧ u.faultQ = s.faultQ ∧
    u.sent = s.sent ∧ SameBut s u [rowKey E.tripRun 0 0] := by
  by_cases hot : 2240 ≤ temp
  · obtain ⟨hrun, hdue, hbroken, hrest⟩ := tripStep_hot (.inr (ht.symm ▸ hot)) hu
    rw [if_pos hot, decide_eq_true hot, Bool.true_and]
    exact ⟨hrun, hdue, hbroken.trans h, hrest⟩
  · rw [tripStep_cool h (by omega)] at hu
    rw [if_neg hot, decide_eq_false hot, Bool.false_and, Bool.or_false]
    subst hu
    exact ⟨State.rd_wr_same .., rfl, h, rfl, rfl, (SameBut.refl s _).wr (by simp) _⟩

theorem dieRound_good (s : State) {temp : Int} {raw : Nat} (hsound : s.die.broken = false) (hlow : -880 ≤ temp) (hhigh : temp ≤ 2720)
    (hrun : s.die.rawLast ≠ some raw ∨ s.die.rawRun < 63) (hu : u = dieRoundAct temp raw s) :
    u.rd E.dieTemp = temp ∧ (s.die.rawLast.isSome = true → u.rd E.dieTempMax = max (s.rd E.dieTempMax) temp) ∧
    u.rd E.tripRun = (if 2240 ≤ temp then (min 3 (s.rdN E.tripRun + 1) : Nat) else 0) ∧
    u.die.due = (s.die.due || (decide (2240 ≤ temp) && s.rdN E.tripRun == 2)) ∧ u.die.broken = false ∧
    u.faultQ = s.faultQ ∧ u.sent = s.sent ∧
    SameBut s u ([rowKey E.dieTemp 0 0, rowKey E.dieTempMax 0 0, rowKey E.tripRun 0 0] ++ trafficKeys ++ calKeys) := by
  unfold dieRoundAct at hu
  dsimp only at hu
  generalize hv : latchTraffic s = v at hu
  have hlatch := latchTraffic_leaves s hv.symm
  rw [diodeStep_good hlow hhigh (hlatch.die ▸ hrun)] at hu
  obtain ⟨hkdie, hkdue, hkeep⟩ : (keepRaw v raw).die.broken = v.die.broken ∧ (keepRaw v raw).die.due = v.die.due ∧
      (keepRaw v raw).faultQ = v.faultQ ∧ (keepRaw v raw).sent = v.sent ∧ SameBut v (keepRaw v raw) [] :=
    ⟨rfl, rfl, rfl, rfl, fun _ _ _ _ => rfl, fun _ => rfl⟩
  obtain ⟨hkfault, hksent, hksame⟩ := hkeep
  generalize keepRaw v raw = k at *
  generalize hr : dieReading k temp s.die.rawLast.isNone = r at hu
  obtain ⟨hread, htemp, hmax⟩ := dieReading_good ((hkdie.trans (congrArg DieSt.broken hlatch.die)).trans hsound) hr.symm
  have hrsound : r.die.broken = false := by rw [hread.die, hkdie, hlatch.die, hsound]
  have hrdue : r.die.due = s.die.due := by rw [hread.die, hkdue, hlatch.die]
  generalize ht : tripStep r = t at hu
  obtain ⟨hcount, hdue, hbroken, hfault, hsent, hsame⟩ := tripStep_counts hrsound htemp ht.symm
  have hcal := calTemperature_leaves t hu
  have hbefore : SameBut s k trafficKeys := (hlatch.same.trans hksame).mono (by simp)
  have hkmax : k.rd E.dieTempMax = s.rd E.dieTempMax := hbefore.1 _ _ _ (by decide)
  have hrtrip : r.rdN E.tripRun = s.rdN E.tripRun := (hread.same.rdN (by decide)).trans (hbefore.rdN (by decide))
  have hafter (q : Row) (h : rowKey q 0 0 ∉ calKeys) (h' : rowKey q 0 0 ∉ [rowKey E.tripRun 0 0]) : u.rd q = r.rd q :=
    (hcal.same.1 _ _ _ h).trans (hsame.1 _ _ _ h')
  refine ⟨(hafter _ (by decide) (by decide)).trans htemp, fun hsome => ?_, ?_, ?_, ?_, ?_, ?_, ?_⟩
  · rw [hafter _ (by decide) (by decide), hmax (by rw [← Option.not_isSome, hsome]; rfl), hkmax]
  · rw [hcal.same.1 _ _ _ (by decide), hcount, hrtrip]
  · rw [hcal.die, hdue, hrdue, hrtrip]
  · rw [hcal.die, hbroken]
  · rw [hcal.faultQ, hfault, hread.faultQ, hkfault, hlatch.faultQ]
  · rw [hcal.sent, hsent, hread.sent, hksent, hlatch.sent]
  · exact (((hbefore.trans hread.same).trans hsame).trans hcal.same).mono (by
      intro k hk
      simp only [List.mem_append, List.mem_cons, List.not_mem_nil, or_false] at hk ⊢
      tauto)

theorem dieRound_breaks (s : State) {temp : Int} {raw : Nat} (hsound : s.die.broken = false)
    (h : temp < -880 ∨ 2720 < temp ∨ (s.die.rawLast = some raw ∧ s.die.rawRun = 63)) (hu : u = dieRoundAct temp raw s) :
    u.die.broken = true ∧ u.rd E.dieTemp = 0x7FFF ∧ u.rd E.tripRun = (min 3 (s.rdN E.tripRun + 1) : Nat) ∧
    u.rd E.diodeState = (if temp < -880 ∨ 2720 < temp then 1 else 2) ∧
    u.faultQ = s.faultQ ++ [⟨0xD0, 2, (if temp < -880 ∨ 2720 < temp then 1 else 2) * 2 ^ 16 + raw % 2 ^ 16⟩] ∧ u.sent = s.sent := by
  unfold dieRoundAct at hu
  dsimp only at hu
  generalize hv : latchTraffic s = v at hu
  have hlatch := latchTraffic_leaves s hv.symm
  generalize hk : diodeStep v temp raw = k at hu
  obtain ⟨hbroken, hstate, hkfault, hksent, hksame⟩ :=
    diodeStep_breaks ((congrArg DieSt.broken hlatch.die).trans hsound) (hlatch.die.symm ▸ h) hk.symm
  rw [dieReading_broken hbroken] at hu
  obtain ⟨hrdie, htemp, hrfault, hrsent, hrsame⟩ : (k.wr E.dieTemp 0x7FFF).die = k.die ∧ (k.wr E.dieTemp 0x7FFF).rd E.dieTemp = 0x7FFF ∧
      (k.wr E.dieTemp 0x7FFF).faultQ = k.faultQ ∧ (k.wr E.dieTemp 0x7FFF).sent = k.sent ∧
      SameBut k (k.wr E.dieTemp 0x7FFF) [rowKey E.dieTemp 0 0] :=
    ⟨rfl, State.rd_wr_same .., rfl, rfl, (SameBut.refl k _).wr (by simp) _⟩
  generalize k.wr E.dieTemp 0x7FFF = r at *
  generalize ht : tripStep r = t at hu
  obtain ⟨hcount, -, htbroken, hfault, hsent, hsame⟩ := tripStep_hot (.inl (by rw [hrdie, hbroken])) ht.symm
  have hcal := calTemperature_leaves t hu
  have hrtrip : r.rdN E.tripRun = s.rdN E.tripRun :=
    ((hrsame.rdN (by decide)).trans (hksame.rdN (by decide))).trans (hlatch.same.rdN (by decide))
  refine ⟨by rw [hcal.die, htbroken, hrdie, hbroken], ?_, ?_, ?_, ?_, ?_⟩
  · rw [hcal.same.1 _ _ _ (by decide), hsame.1 _ _ _ (by decide), htemp]
  · rw [hcal.same.1 _ _ _ (by decide), hcount, hrtrip]
  · rw [hcal.same.1 _ _ _ (by decide), hsame.1 _ _ _ (by decide), hrsame.1 _ _ _ (by decide), hstate]
  · rw [hcal.faultQ, hfault, hrfault, hkfault, hlatch.faultQ]
  · rw [hcal.sent, hsent, hrsent, hksent, hlatch.sent]

/-- The trip that a round has made due (R507, R510). -/
theorem dieTrip_begins (s : State) (hdue : s.die.due = true) (hsafe : s.dev ≠ .safe) (hshut : s.shut = none)
    (hmode : s.rd E.shutdownMode = 0) (hbudget : s.rd E.shutdownBudget ≠ 0) (hu : u = tripAct s) :
    u.die.due = false ∧ u.rd E.sticky 0xD0 = 1 ∧ u.rd E.lastKind 0xD0 = 1 ∧ u.rd E.lastAddr 0xD0 = (unsigned 16 (s.rd E.dieTemp) : Nat) ∧
    u.shut = some ⟨1, true, s.tick⟩ ∧ u.dev = s.dev ∧ u.superseded .job = true ∧ u.faultQ = s.faultQ ∧
    ∀ x, u.byte x = s.byte x := by
  obtain ⟨w, hw⟩ : ∃ w, w = ({ s with die := { s.die with due := false } } : State) := ⟨_, rfl⟩
  obtain ⟨hwdue, hwrest⟩ : w.die.due = false ∧ w.tick = s.tick ∧ w.dev = s.dev ∧ w.shut = s.shut ∧ w.faultQ = s.faultQ ∧ SameBut s w [] := by
    subst hw
    exact ⟨rfl, rfl, rfl, rfl, rfl, fun _ _ _ _ => rfl, fun _ => rfl⟩
  obtain ⟨hwtick, hwdev, hwshut, hwfault, hwsame⟩ := hwrest
  generalize hm : (⟨0xD0, 1, unsigned 16 (s.rd E.dieTemp)⟩ : FaultMsg) = m
  have hsrc : m.src = 0xD0 := by rw [← hm]
  have hkind : m.kind = 1 := by rw [← hm]
  have haddr : sentAddr w m % 2 ^ 48 = unsigned 16 (s.rd E.dieTemp) := by
    have hlt : unsigned 16 (s.rd E.dieTemp) < 2 ^ 16 := by
      simp only [unsigned]
      omega
    have hshown : m.addr = unsigned 16 (s.rd E.dieTemp) := by rw [← hm]
    rw [sentAddr, hsrc, if_neg (by decide), hshown]
    exact Nat.mod_eq_of_lt (by omega)
  generalize hv : recordFault w m = v
  obtain ⟨hnoted, -, -, hsame⟩ := recordFault_leaves w m hv.symm
  rw [hsrc] at hsame
  have hvdue : v.die.due = false := by rw [hnoted.rest.die, hwdue]
  have hvmode : v.rd E.shutdownMode = 0 := by rw [hsame.1 _ _ _ (by decide), hwsame.1 _ _ _ (by decide), hmode]
  have hvbudget : v.rd E.shutdownBudget ≠ 0 := by
    rw [hsame.1 _ _ _ (by decide), hwsame.1 _ _ _ (by decide)]
    exact hbudget
  have hvsafe : v.dev ≠ .safe := by
    rw [hnoted.rest.dev, hwdev]
    exact hsafe
  have hvshut : v.shut = none := by rw [hnoted.rest.shut, hwshut, hshut]
  have hact : tripAct s = (shutdownCause v true (modeImmediate v)).act .device .trip := by
    rw [tripAct, hdue, if_neg (by decide), ← hv, ← hm, hw]
  rw [hact, modeImmediate_normal hvmode, shutdownCause_begins hvsafe hvshut hvbudget] at hu
  obtain ⟨hsticky, hlast, hat⟩ := (⟨hnoted.sticky, hnoted.kind, hnoted.addr⟩ : v.rd E.sticky m.src = 1 ∧ v.rd E.lastKind m.src = m.kind ∧
    v.rd E.lastAddr m.src = (sentAddr w m % 2 ^ 48 : Nat))
  rw [hsrc] at hsticky hlast hat
  rw [hkind] at hlast
  rw [haddr] at hat
  subst hu
  refine ⟨hvdue, hsticky, hlast, hat, ?_, hnoted.rest.dev.trans hwdev, ?_, hnoted.rest.faultQ.trans hwfault,
    fun x => (hsame.2 x).trans (hwsame.2 x)⟩
  · exact congrArg (fun n => some (⟨1, true, n⟩ : Shutdown)) (hnoted.rest.tick.trans hwtick)
  · exact Bool.or_eq_true_iff.mpr (.inl (List.any_eq_true.mpr ⟨_, List.mem_cons_self, by decide⟩))

/-! ### Supplies -/

/-- The reading of a rail below its warning level (0x7210 + m.01, .02). -/
def railRead (s : State) (m mV : Nat) : State := (s.wr E.supV mV m).wr E.supMin (min (s.rd E.supMin m) mV) m

theorem railRead_leaves (s : State) (m mV : Nat) (hu : u = railRead s m mV) : u.rd E.supV m = mV ∧
    u.rd E.supMin m = min (s.rd E.supMin m) mV ∧ u.sup = s.sup ∧ u.faultQ = s.faultQ ∧ u.otp = s.otp ∧ u.doms = s.doms ∧
    SameBut s u [rowKey E.supV m 0, rowKey E.supMin m 0] := by
  have hkey : rowKey E.supV m 0 ≠ rowKey E.supMin m 0 := by simp only [rowKey, E.supV, E.supMin]; omega
  subst hu
  exact ⟨(State.rd_wr _ _ _ _ _ _ _ _ hkey).trans (State.rd_wr_same ..), State.rd_wr_same .., rfl, rfl, rfl, rfl,
    ((SameBut.refl s _).wr (by simp) _).wr (by simp) _⟩

/-- A dip is counted, for its domain and in all (0x7210 + m.04, 0x7220.02). -/
def dipCount (s : State) (m : Nat) : State := (s.count E.warnCount m).count E.brownouts

theorem dipCount_leaves (s : State) (m : Nat) (hu : u = dipCount s m) :
    u.rd E.warnCount m = min (s.rd E.warnCount m + 1) (2 ^ 32 - 1) ∧ u.rd E.brownouts = min (s.rd E.brownouts + 1) (2 ^ 32 - 1) ∧
    u.faultQ = s.faultQ ∧ u.otp = s.otp ∧ u.sup = s.sup ∧ u.doms = s.doms ∧
    SameBut s u [rowKey E.warnCount m 0, rowKey E.brownouts 0 0] := by
  have hapart : rowKey E.warnCount m 0 ≠ rowKey E.brownouts 0 0 := by simp only [rowKey, E.warnCount, E.brownouts]; omega
  have hfirst : (s.count E.warnCount m).rd E.brownouts = s.rd E.brownouts := State.rd_wr _ _ _ _ _ _ _ _ hapart.symm
  have hwarn : (s.count E.warnCount m).rd E.warnCount m = min (s.rd E.warnCount m + 1) (2 ^ 32 - 1) := rd_count_same ..
  have hsame : SameBut s (s.count E.warnCount m) [rowKey E.warnCount m 0, rowKey E.brownouts 0 0] := (SameBut.refl s _).count (by simp)
  have hrest : (s.count E.warnCount m).faultQ = s.faultQ ∧ (s.count E.warnCount m).otp = s.otp ∧ (s.count E.warnCount m).sup = s.sup ∧
      (s.count E.warnCount m).doms = s.doms := ⟨rfl, rfl, rfl, rfl⟩
  unfold dipCount at hu
  generalize s.count E.warnCount m = v at *
  subst hu
  refine ⟨(State.rd_wr _ _ _ _ _ _ _ _ hapart).trans hwarn, (rd_count_same ..).trans ?_, hrest.1, hrest.2.1, hrest.2.2.1, hrest.2.2.2,
    hsame.count (by simp)⟩
  rw [hfirst]
  rfl

theorem supplyWarnAct_watched {m mV : Nat} (hlt : mV < 65536) (hon : monitorOn s m = true) : supplyWarnAct m mV s =
    if (railRead s m mV).sup.low.contains m then railRead s m mV
    else otpBrownout ((dipCount { railRead s m mV with
      sup := { (railRead s m mV).sup with low := (railRead s m mV).sup.low ++ [m] } } m).report (0xD1 + m) 1 mV) := by
  unfold supplyWarnAct
  have hmod : (mV : Int) % 65536 = mV := by omega
  rw [if_neg (by simp [hon]), Nat.mod_eq_of_lt hlt, hmod]
  rfl

theorem monitorOn_of_on {m : Nat} (h : s.domOn m = true) : monitorOn s m = true := by rw [monitorOn, h, Bool.true_or]

theorem supplyWarn_low {m mV : Nat} (hlt : mV < 65536) (hon : s.domOn m = true) (hlow : s.sup.low.contains m = true) :
    supplyWarnAct m mV s = railRead s m mV := by
  rw [supplyWarnAct_watched hlt (monitorOn_of_on hon)]
  exact if_pos hlow

/-- The start of a dip (R519): counted and reported once. -/
theorem supplyWarn_begins {m mV : Nat} (hm : m < 12) (hlt : mV < 65536) (hon : s.domOn m = true) (hlow : s.sup.low.contains m = false)
    (hop : s.otp.op = none) (hu : u = supplyWarnAct m mV s) : u.rd E.supV m = mV ∧ u.rd E.supMin m = min (s.rd E.supMin m) mV ∧
    brownout u = true ∧ u.rd E.warnCount m = min (s.rd E.warnCount m + 1) (2 ^ 32 - 1) ∧
    u.rd E.brownouts = min (s.rd E.brownouts + 1) (2 ^ 32 - 1) ∧ u.faultQ = s.faultQ ++ [⟨0xD1 + m, 1, mV⟩] ∧ u.otp = s.otp ∧
    SameBut s u [rowKey E.supV m 0, rowKey E.supMin m 0, rowKey E.warnCount m 0, rowKey E.brownouts 0 0] := by
  rw [supplyWarnAct_watched hlt (monitorOn_of_on hon)] at hu
  generalize hv : railRead s m mV = v at hu
  obtain ⟨hvolt, hmin, hsup, hfault, hotp, hdoms, hsame⟩ := railRead_leaves s m mV hv.symm
  rw [if_neg (by rw [hsup, hlow]; decide)] at hu
  obtain ⟨w, hw⟩ : ∃ w, w = ({ v with sup := { v.sup with low := v.sup.low ++ [m] } } : State) := ⟨_, rfl⟩
  obtain ⟨hwlow, hwfault, hwotp, hwdoms, hwsame⟩ : w.sup.low = v.sup.low ++ [m] ∧ w.faultQ = v.faultQ ∧ w.otp = v.otp ∧
      w.doms = v.doms ∧ SameBut v w [] := by
    subst hw
    exact ⟨rfl, rfl, rfl, rfl, fun _ _ _ _ => rfl, fun _ => rfl⟩
  rw [← hw] at hu
  generalize hy : dipCount w m = y at hu
  obtain ⟨hwarn, hbrown, hyfault, hyotp, hysup, hydoms, hysame⟩ := dipCount_leaves w m hy.symm
  have hquiet : otpBrownout (y.report (0xD1 + m) 1 mV) = y.report (0xD1 + m) 1 mV := by
    have hidle : (y.report (0xD1 + m) 1 mV).otp.op = none := by
      show y.otp.op = none
      rw [hyotp, hwotp, hotp, hop]
    rw [otpBrownout, hidle]
  have hall : SameBut s y [rowKey E.supV m 0, rowKey E.supMin m 0, rowKey E.warnCount m 0, rowKey E.brownouts 0 0] :=
    ((hsame.trans hwsame).trans hysame).mono (by simp)
  have hkeep (q : Row) (hq : q = E.supV ∨ q = E.supMin) : y.rd q m = v.rd q m := by
    refine (hysame.1 _ _ _ ?_).trans (hwsame.1 _ _ _ (by simp))
    rcases hq with rfl | rfl <;>
    · simp only [List.mem_cons, List.not_mem_nil, or_false, rowKey, E.supV, E.supMin, E.warnCount, E.brownouts]
      omega
  have hwatched : w.rd E.warnCount m = s.rd E.warnCount m ∧ w.rd E.brownouts = s.rd E.brownouts := by
    refine ⟨(hwsame.1 _ _ _ (by simp)).trans (hsame.1 _ _ _ ?_), (hwsame.1 _ _ _ (by simp)).trans (hsame.1 _ _ _ ?_)⟩ <;>
    · simp only [List.mem_cons, List.not_mem_nil, or_false, rowKey, E.warnCount, E.brownouts, E.supV, E.supMin]
      omega
  have hdip : brownout y = true := by
    refine List.any_eq_true.mpr ⟨m, ?_, monitorOn_of_on ?_⟩
    · rw [hysup, hwlow]
      exact List.mem_append_right _ List.mem_cons_self
    · rw [State.domOn, State.domState, hydoms, hwdoms, hdoms]
      exact hon
  rw [hquiet] at hu
  subst hu
  refine ⟨(hkeep _ (.inl rfl)).trans hvolt, (hkeep _ (.inr rfl)).trans hmin, hdip, hwarn.trans (by rw [hwatched.1]),
    hbrown.trans (by rw [hwatched.2]), congrArg (· ++ _) (hyfault.trans (hwfault.trans hfault)), hyotp.trans (hwotp.trans hotp),
    hall.report _ _ _⟩

/-! ### The recovery -/

/-- What sensing and programming fuses leave as it was. -/
structure FuseKeeps (s t : State) : Prop where
  sup : t.sup = s.sup
  doms : t.doms = s.doms
  sent : t.sent = s.sent
  queue : t.otp.queue = s.otp.queue
  waiting : t.otp.waiting = s.otp.waiting
  same : SameBut s t []
  bits : ∀ w b, (fuseWord s w).data.testBit b = true → (fuseWord t w).data.testBit b = true

namespace FuseKeeps

theorem refl (s : State) : FuseKeeps s s := ⟨rfl, rfl, rfl, rfl, rfl, .refl s _, fun _ _ h => h⟩

theorem trans (h : FuseKeeps s t) (h' : FuseKeeps t u) : FuseKeeps s u :=
  ⟨h'.sup.trans h.sup, h'.doms.trans h.doms, h'.sent.trans h.sent, h'.queue.trans h.queue, h'.waiting.trans h.waiting,
    h.same.trans h'.same, fun w b hb => h'.bits w b (h.bits w b hb)⟩

theorem brownout (h : FuseKeeps s t) : brownout t = brownout s := by
  unfold Machine.brownout monitorOn State.domOn State.domState
  rw [h.sup, h.doms]

theorem foldl {β : Type} {f : State → β → State} (hf : ∀ s x, FuseKeeps s (f s x)) : ∀ (l : List β) (s : State), FuseKeeps s (l.foldl f s)
  | [], s => refl s
  | x :: l, s => (hf s x).trans (foldl hf l (f s x))

theorem setFuseWord (s : State) (w : Nat) (x : OtpWord) (h : ∀ b, (fuseWord s w).data.testBit b = true → x.data.testBit b = true) :
    FuseKeeps s (setFuseWord s w x) := by
  refine ⟨rfl, rfl, rfl, rfl, rfl, ⟨fun _ _ _ _ => rfl, fun _ => rfl⟩, fun k b hb => ?_⟩
  have hword : fuseWord (Machine.setFuseWord s w x) k = aget {} k (ains w x s.otp.words) := rfl
  rw [hword]
  by_cases hk : k = w
  · subst hk
    rw [aget_ains_same]
    exact h b hb
  · rw [aget_ains_ne _ _ _ hk]
    exact hb

theorem blow (s : State) (w mask : Nat) : FuseKeeps s (blow s w mask) :=
  setFuseWord s w _ fun b hb => by simp [Nat.testBit_or, hb]

theorem blowBit (s : State) (w b : Nat) : FuseKeeps s (blowBit s w b) := by
  unfold Machine.blowBit
  split
  · exact blow s w _
  · split
    · exact setFuseWord s w _ fun _ hb => hb
    · exact refl s

theorem senseWord (s : State) (w : Nat) (weak : Bool) : FuseKeeps s (senseWord s w weak) := by
  have hsense (l : List (Nat × OtpShadow)) : FuseKeeps s { s with otp := { s.otp with shadows := l } } :=
    ⟨rfl, rfl, rfl, rfl, rfl, ⟨fun _ _ _ _ => rfl, fun _ => rfl⟩, fun _ _ h => h⟩
  have hreport (t : State) (kind : Nat) : FuseKeeps t (t.report 0xC8 kind w) :=
    ⟨rfl, rfl, rfl, rfl, rfl, ⟨fun _ _ _ _ => rfl, fun _ => rfl⟩, fun _ _ h => h⟩
  unfold Machine.senseWord
  dsimp only
  split
  · exact (hsense _).trans (hreport _ _)
  · split
    · exact (hsense _).trans (hreport _ _)
    · exact hsense _

theorem tallyBurn (s : State) (w l : Nat) (h : Machine.brownout s = false) : FuseKeeps s (tallyBurn s w l) := by
  have hburn : Machine.tallyBurn s w l = Machine.senseWord (Machine.blow s w (tripled l)) w (weakOf s w) := if_neg (by simp [h])
  rw [hburn]
  exact (blow s w _).trans (senseWord _ _ _)

end FuseKeeps

theorem testBit_blowBit {w b : Nat} (h : b < 48) : (fuseWord (blowBit s w b) w).data.testBit b = true := by
  have hword : fuseWord (blow s w (2 ^ b)) w = { fuseWord s w with data := (fuseWord s w).data ||| 2 ^ b } := aget_ains_same ..
  rw [blowBit, if_pos h, hword]
  simp [Nat.testBit_or]

/-- A queued bit is reinforced, and its word sensed (R520). -/
def reinforceBit (s : State) (x : Nat × Nat) : State := senseWord (blowBit s x.1 x.2) x.1 (weakOf s x.1)

theorem reinforceBit_keeps (s : State) (x : Nat × Nat) : FuseKeeps s (reinforceBit s x) :=
  (FuseKeeps.blowBit s x.1 x.2).trans (.senseWord _ _ _)

theorem foldl_reinforceBit : ∀ (l : List (Nat × Nat)) (s : State), ∀ x ∈ l, x.2 < 48 →
    (fuseWord (l.foldl reinforceBit s) x.1).data.testBit x.2 = true
  | [], _, _, hx, _ => absurd hx List.not_mem_nil
  | y :: l, s, x, hx, hlt => by
    rcases List.mem_cons.mp hx with rfl | hx
    · refine (FuseKeeps.foldl reinforceBit_keeps l (reinforceBit s x)).bits _ _ ?_
      exact (FuseKeeps.senseWord _ _ _).bits _ _ (testBit_blowBit hlt)
    · exact foldl_reinforceBit l (reinforceBit s y) x hx hlt

theorem foldl_tallyBurn : ∀ (l : List (Nat × Nat)) (s : State), brownout s = false →
    FuseKeeps s (l.foldl (fun s x => tallyBurn s x.1 x.2) s)
  | [], s, _ => .refl s
  | x :: l, s, h => by
    have hburn := FuseKeeps.tallyBurn s x.1 x.2 h
    exact hburn.trans (foldl_tallyBurn l _ (hburn.brownout.trans h))

theorem otpRecover_eq (s : State) : otpRecover s = s.otp.waiting.foldl (fun s x => tallyBurn s x.1 x.2)
    (s.otp.queue.foldl reinforceBit { s with otp := { s.otp with queue := [], waiting := [] } }) := rfl

theorem otpRecover_leaves (s : State) (h : brownout s = false) (hu : u = otpRecover s) :
    FuseKeeps { s with otp := { s.otp with queue := [], waiting := [] } } u ∧
    ∀ x ∈ s.otp.queue, x.2 < 48 → (fuseWord u x.1).data.testBit x.2 = true := by
  rw [otpRecover_eq] at hu
  have hempty : brownout { s with otp := { s.otp with queue := [], waiting := [] } } = false := h
  generalize ({ s with otp := { s.otp with queue := [], waiting := [] } } : State) = v at *
  have hqueue := FuseKeeps.foldl reinforceBit_keeps s.otp.queue v
  have hbits := foldl_reinforceBit s.otp.queue v
  generalize s.otp.queue.foldl reinforceBit v = w at *
  have htally := foldl_tallyBurn s.otp.waiting w (hqueue.brownout.trans hempty)
  rw [← hu] at htally
  exact ⟨hqueue.trans htally, fun x hx hlt => htally.bits _ _ (hbits x hx hlt)⟩

/-- Every rail has recovered (R520). -/
theorem supplyRecover_leaves (s : State) (h : s.sup.low ≠ []) (hu : u = supplyRecoverAct s) : brownout u = false ∧ u.otp.queue = [] ∧
    u.otp.waiting = [] ∧ (∀ x ∈ s.otp.queue, x.2 < 48 → (fuseWord u x.1).data.testBit x.2 = true) ∧ u.sent = s.sent ∧
    SameBut s u [] := by
  have hact : supplyRecoverAct s = nextPowerUp (otpRecover { s with sup := { s.sup with low := [] } }) := if_neg (by simpa using h)
  rw [hact] at hu
  have hquiet : brownout { s with sup := { s.sup with low := [] } } = false := rfl
  generalize hv : otpRecover { s with sup := { s.sup with low := [] } } = v at hu
  obtain ⟨hkeeps, hbits⟩ := otpRecover_leaves _ hquiet hv.symm
  obtain ⟨⟨l, hl⟩, -⟩ := nextPowerUp_leaves v hu
  have hlow : v.sup.low = [] := by rw [hkeeps.sup]
  have hqueue : v.otp.queue = [] := hkeeps.queue
  have hwaiting : v.otp.waiting = [] := hkeeps.waiting
  have hsent : v.sent = s.sent := hkeeps.sent
  have hsame : SameBut s v [] := hkeeps.same
  subst hl
  refine ⟨?_, hqueue, hwaiting, hbits, hsent, hsame⟩
  show v.sup.low.any _ = false
  rw [hlow]
  rfl

/-- Settles O51: each round, trip, warning and recovery by the rule of its function. -/
theorem dieAndSuppliesAreWatched : Obligations.DieAndSuppliesAreWatched := by
  unfold Obligations.DieAndSuppliesAreWatched
  refine ⟨fun temp raw s hsound => ⟨fun hlow hhigh hrun => ?_, fun h => ?_⟩, fun s => ⟨fun h => ?_, fun hdue hsafe hshut hmode hbudget => ?_⟩,
    fun m mV s hlt => ⟨fun hoff hstate => ?_, fun hon hlow => ?_, fun hon hlow hop => ?_⟩, fun s => ⟨fun h => ?_, fun h => ?_⟩⟩
  · exact ⟨_, exec_dieTempRound s temp raw, dieRound_good s hsound hlow hhigh hrun rfl⟩
  · exact ⟨_, exec_dieTempRound s temp raw, dieRound_breaks s hsound h rfl⟩
  · rw [exec_dieTrip, tripAct, h]
    rfl
  · exact ⟨_, exec_dieTrip s, dieTrip_begins s hdue hsafe hshut hmode hbudget rfl⟩
  · have hignored : monitorOn s m = false := by rw [monitorOn, hoff, Bool.false_or, beq_eq_false_iff_ne.mpr hstate]
    rw [exec_supplyWarn, supplyWarnAct, hignored]
    rfl
  · obtain ⟨hvolt, hmin, hsup, hfault, -, -, hsame⟩ := railRead_leaves s m mV rfl
    exact ⟨_, by rw [exec_supplyWarn, supplyWarn_low hlt hon hlow], hvolt, hmin, hsup, hfault, hsame⟩
  · exact ⟨_, exec_supplyWarn s m mV, supplyWarn_begins m.isLt hlt hon hlow hop rfl⟩
  · rw [exec_supplyRecover, supplyRecoverAct, h]
    rfl
  · exact ⟨_, exec_supplyRecover s, supplyRecover_leaves s h rfl⟩

end Sys2Proof.Machine
end

section
/-!
CERTIFICATE. Fuse operations (R537 to R542).
-/
namespace Sys2Proof.Machine

variable {s t u : State} {p : Port}

theorem exec_otpProgram (s : State) (p : Port) (pin : Bool) : exec (.otpProgram p pin) s =
    .next (writeIf s p (s.superseded noTarget) E.otpOp 0 0 (1 : Nat) (otpAct 1 pin (some p))) := rfl
theorem exec_otpSeal (s : State) (p : Port) (pin : Bool) : exec (.otpSeal p pin) s =
    .next (writeIf s p (s.superseded noTarget) E.otpOp 0 0 (2 : Nat) (otpAct 2 pin (some p))) := rfl
theorem exec_otpReinforce (s : State) (p : Port) (pin : Bool) : exec (.otpReinforce p pin) s =
    .next (writeIf s p (s.superseded noTarget) E.otpOp 0 0 (3 : Nat) (otpAct 3 pin (some p))) := rfl
theorem exec_otpSense (s : State) (p : Port) : exec (.otpSense p) s =
    .next (writeIf s p (s.superseded noTarget) E.otpOp 0 0 (4 : Nat) (otpAct 4 false (some p))) := rfl
theorem exec_otpOpComplete (s : State) (f : Option (Fin 56)) (weak : Bool) :
    exec (.otpOpComplete f weak) s = .next (otpCompleteAct (f.map Fin.val) weak s) := rfl

/-- A write whose answer comes later leaves what its meaning leaves. -/
theorem writeIf_later {late : Bool} {r : Row} {i j : Nat} {v : Int} {act : State → Nat × State} (h : Accepted s p late r i j v)
    (hr : storedEntry r i = false) (ha : act s = (laterCode, u)) : writeIf s p late r i j v act = u := by
  rw [writeIf_of_accepted h, ha, markStale_of_not_stored s hr]
  exact if_pos rfl

/-! ### Requests -/

section

variable {op : Nat} {pin : Bool} {port : Option Port}

theorem otpAct_range (hbit : bitwise (s.rdN E.otpWord) = true) (hd : 2 ^ 16 ≤ s.rdN E.otpData) :
    otpAct 1 pin port s = (codeRange, s) := if_pos ⟨rfl, hbit, hd⟩

theorem otpAct_busyJob (hle : op ≤ 2) (hr : ¬(op = 1 ∧ bitwise (s.rdN E.otpWord) = true ∧ 2 ^ 16 ≤ s.rdN E.otpData)) (h : s.busyJob = true) :
    otpAct op pin port s = (codeState, s) := by
  unfold otpAct
  dsimp only
  rw [if_neg hr, if_pos hle, if_pos h]

theorem otpAct_refused {r : Nat} (hle : op ≤ 2) (hr : ¬(op = 1 ∧ bitwise (s.rdN E.otpWord) = true ∧ 2 ^ 16 ≤ s.rdN E.otpData))
    (h : s.busyJob = false) (href : otpRefusal s op (s.rdN E.otpWord) (s.rdN E.otpData) = some r) :
    otpAct op pin port s = (okCode, s.wr E.otpResult r) := by
  unfold otpAct
  dsimp only
  rw [if_neg hr, if_pos hle, if_neg (by simp [h]), href]

/-- What an operation that may go on programs. -/
def otpMask (s : State) (op : Nat) : Nat :=
  if op = 1 then programMask (s.rdN E.otpWord) (s.rdN E.otpData) (fuseShadow s (s.rdN E.otpWord)) else 0

theorem otpAct_free (hr : ¬(op = 1 ∧ bitwise (s.rdN E.otpWord) = true ∧ 2 ^ 16 ≤ s.rdN E.otpData)) (h : op ≤ 2 → s.busyJob = false)
    (href : op ≤ 2 → otpRefusal s op (s.rdN E.otpWord) (s.rdN E.otpData) = none) :
    otpAct op pin port s = if otpBusy s op then (codeBusy, s) else otpStart s op (s.rdN E.otpWord) (otpMask s op) pin port := by
  unfold otpAct
  dsimp only
  rw [if_neg hr]
  by_cases hle : op ≤ 2
  · rw [if_pos hle, if_neg (by simp [h hle]), href hle]
    rfl
  · have hnot : ¬op = 1 := by omega
    rw [if_neg hle, otpMask, if_neg hnot]

theorem otpStart_dry {w mask : Nat} (hop : op ≠ 4) (hpin : pin = false) (hwire : wire s 11 = true) :
    otpStart s op w mask pin port = (okCode, (s.wr E.vppSrc 0).wr E.otpResult 8) := if_pos ⟨hop, hpin, hwire⟩

/-- An operation that starts (R538). -/
theorem otpStart_begins {w mask : Nat} (h : pin = true ∨ wire s 11 = false ∨ op = 4) : ∃ u, otpStart s op w mask pin port = (laterCode, u) ∧
    u.otp = { s.otp with op := some (op, w, mask), opPort := port } ∧ u.rd E.otpResult = 1 ∧ u.sent = s.sent ∧
    (op = 4 → SameBut s u [rowKey E.otpResult 0 0]) ∧
    (op ≠ 4 → u.rd E.vppSrc = (if pin then 1 else 2) ∧ SameBut s u [rowKey E.otpResult 0 0, rowKey E.vppSrc 0 0]) := by
  have hgoes : ¬(op ≠ 4 ∧ pin = false ∧ wire s 11 = true) := by
    rintro ⟨hop, hpin, hwire⟩
    rcases h with h | h | h
    · exact Bool.false_ne_true (hpin.symm.trans h)
    · exact Bool.false_ne_true (h.symm.trans hwire)
    · exact hop h
  unfold otpStart
  rw [if_neg hgoes]
  refine ⟨_, rfl, ?_⟩
  by_cases hop : op = 4
  · rw [if_pos hop]
    refine ⟨rfl, State.rd_wr_same .., rfl, fun _ => ?_, fun h => absurd hop h⟩
    exact SameBut.wr (s := s) ⟨fun _ _ _ _ => rfl, fun _ => rfl⟩ (by simp) _
  · rw [if_neg hop]
    refine ⟨rfl, State.rd_wr_same .., rfl, fun h => absurd h hop, fun _ => ⟨?_, ?_⟩⟩
    · exact (State.rd_wr _ _ _ _ _ _ _ _ (by decide)).trans (State.rd_wr_same ..)
    · have hvpp : SameBut s (s.wr E.vppSrc (if pin then 1 else 2)) [rowKey E.otpResult 0 0, rowKey E.vppSrc 0 0] :=
        (SameBut.refl s _).wr (by simp) _
      generalize s.wr E.vppSrc (if pin then 1 else 2) = v at *
      exact SameBut.wr (s := s) ⟨hvpp.1, hvpp.2⟩ (by simp) _

end

/-! ### Completion -/

theorem fuseWord_setFuseWord (s : State) (w : Nat) (x : OtpWord) : fuseWord (setFuseWord s w x) w = x := aget_ains_same ..

theorem fuseWord_setFuseWord_ne (s : State) {w k : Nat} (x : OtpWord) (h : k ≠ w) : fuseWord (setFuseWord s w x) k = fuseWord s k :=
  aget_ains_ne _ _ _ h

theorem senseOf_sound {w : Nat} {x : OtpWord} (h : bitwise w = true ∨ x.sealed = false ∨ x.syn = 0) (weak : Bool) :
    (senseOf w x weak).corrected = false ∧ (senseOf w x weak).uncorr = false := by
  unfold senseOf
  split
  · exact ⟨rfl, rfl⟩
  · next hnot =>
    have hplain : (!x.sealed) = true ∨ x.syn = 0 := (h.resolve_left hnot).imp (fun h => by rw [h]; rfl) id
    rw [if_pos hplain]
    exact ⟨rfl, rfl⟩

/-- Sensing a word changes its shadow, and reports an error that it finds (R535 to R537). -/
theorem senseWord_leaves (s : State) (w : Nat) (weak : Bool) (hu : u = senseWord s w weak) : ∃ q,
    ((senseOf w (fuseWord s w) weak).corrected = false → (senseOf w (fuseWord s w) weak).uncorr = false → q = []) ∧
    u = { s with
      otp := { s.otp with shadows := aput {} w (senseOf w (fuseWord s w) weak) s.otp.shadows }, faultQ := s.faultQ ++ q } := by
  unfold senseWord at hu
  dsimp only at hu
  split at hu
  · next h => exact ⟨[⟨0xC8, 1, w⟩], fun hc => absurd (hc.symm.trans h) (by decide), hu⟩
  · split at hu
    · next h => exact ⟨[⟨0xC8, 2, w⟩], fun _ hc => absurd (hc.symm.trans h) (by decide), hu⟩
    · refine ⟨[], fun _ _ => rfl, ?_⟩
      rw [List.append_nil]
      exact hu

theorem fuseShadow_of_put {w : Nat} {x : OtpShadow} (h : t.otp.shadows = aput {} w x s.otp.shadows) :
    fuseShadow t w = x ∧ ∀ k, k ≠ w → fuseShadow t k = fuseShadow s k := by
  refine ⟨?_, fun k hk => ?_⟩
  · rw [fuseShadow, h]
    exact aget_aput_same ..
  · rw [fuseShadow, h]
    exact aget_aput_ne _ _ _ _ hk

/-- The end of an operation that the firmware has requested: its word is sensed, its result shown, its write answered
(R537, R539). -/
structure OtpEnded (s : State) (w result : Nat) (weak : Bool) (u : State) : Prop where
  words : u.otp.words = s.otp.words
  shadow : fuseShadow u w = senseOf w (fuseWord s w) weak
  shadows : ∀ k, k ≠ w → fuseShadow u k = fuseShadow s k
  op : u.otp.op = none
  result : u.rd E.otpResult = result
  faultQ : bitwise w = true ∨ (fuseWord s w).sealed = false ∨ (fuseWord s w).syn = 0 → u.faultQ = s.faultQ
  sent : u.sent = .answer .fw okCode [] :: s.sent
  same : SameBut s u [rowKey E.otpResult 0 0]

theorem otpEnd_leaves (s : State) (w result : Nat) (weak : Bool) (h : s.otp.opPort = some .fw) (hu : u = otpEnd s w result weak) :
    OtpEnded s w result weak u := by
  unfold otpEnd at hu
  rw [h] at hu
  dsimp only at hu
  generalize hv : ({ s with otp := { s.otp with op := none, opPort := none } } : State).wr E.otpResult result = v at hu
  obtain ⟨hwords, hshadows, hop, hfault, hsent, hresult, hsame⟩ : v.otp.words = s.otp.words ∧ v.otp.shadows = s.otp.shadows ∧
      v.otp.op = none ∧ v.faultQ = s.faultQ ∧ v.sent = s.sent ∧ v.rd E.otpResult = result ∧
      SameBut s v [rowKey E.otpResult 0 0] := by
    subst hv
    exact ⟨rfl, rfl, rfl, rfl, rfl, State.rd_wr_same .., SameBut.wr (s := s) ⟨fun _ _ _ _ => rfl, fun _ => rfl⟩ (by simp) _⟩
  have hword : fuseWord v w = fuseWord s w := by rw [fuseWord, hwords, fuseWord]
  generalize hx : senseWord v w weak = x at hu
  obtain ⟨q, hquiet, hxeq⟩ := senseWord_leaves v w weak hx.symm
  rw [hword] at hquiet hxeq
  have hput : x.otp.shadows = aput {} w (senseOf w (fuseWord s w) weak) s.otp.shadows := by rw [hxeq, ← hshadows]
  obtain ⟨hself, hothers⟩ := fuseShadow_of_put hput
  obtain ⟨hxwords, hxop, hxfault, hxsent, hxresult, hxsame⟩ : x.otp.words = v.otp.words ∧ x.otp.op = v.otp.op ∧
      x.faultQ = v.faultQ ++ q ∧ x.sent = v.sent ∧ x.rd E.otpResult = v.rd E.otpResult ∧ SameBut v x [] := by
    subst hxeq
    exact ⟨rfl, rfl, rfl, rfl, rfl, fun _ _ _ _ => rfl, fun _ => rfl⟩
  have hu : u = x.answer .fw okCode := hu
  subst hu
  refine ⟨hxwords.trans hwords, hself, hothers, hxop.trans hop, hxresult.trans hresult, fun hsound => ?_,
    congrArg (List.cons _) (hxsent.trans hsent), ((hsame.trans hxsame).mono (by simp)).answer _ _ _⟩
  obtain ⟨hc, hun⟩ := senseOf_sound hsound weak
  have hx : x.faultQ = s.faultQ := by rw [hxfault, hquiet hc hun, List.append_nil, hfault]
  exact hx

theorem OtpEnded.fuseWord {w result : Nat} {weak : Bool} (h : OtpEnded s w result weak u) (k : Nat) : fuseWord u k = fuseWord s k := by
  rw [Machine.fuseWord, h.words, Machine.fuseWord]

/-- A word that is set before an operation ends. -/
theorem otpEnd_set (s : State) (w result : Nat) (weak : Bool) (x : OtpWord) (h : s.otp.opPort = some .fw)
    (hu : u = otpEnd (setFuseWord s w x) w result weak) : fuseWord u w = x ∧ ∀ k, k ≠ w → fuseWord u k = fuseWord s k := by
  have hend := otpEnd_leaves (setFuseWord s w x) w result weak h hu
  exact ⟨(hend.fuseWord w).trans (fuseWord_setFuseWord ..), fun k hk => (hend.fuseWord k).trans (fuseWord_setFuseWord_ne _ _ hk)⟩

/-! ### The obligation -/

section

variable {op : Nat}

theorem otpRefusal_clears {w d : Nat} (h : (fuseShadow s w).data &&& d ≠ (fuseShadow s w).data) : otpRefusal s 1 w d = some 4 :=
  if_pos ⟨rfl, h⟩

theorem otpRefusal_sealed {w d : Nat} (hkeep : op = 1 → (fuseShadow s w).data &&& d = (fuseShadow s w).data)
    (h : (fuseShadow s w).sealed = true ∨ (op = 2 ∧ bitwise w = true)) : otpRefusal s op w d = some 3 := by
  unfold otpRefusal
  dsimp only
  rw [if_neg fun hc => hc.2 (hkeep hc.1), if_pos h]

theorem otpRefusal_open {w d : Nat} (hkeep : op = 1 → (fuseShadow s w).data &&& d = (fuseShadow s w).data)
    (hsealed : (fuseShadow s w).sealed = false) (hbit : op = 2 → bitwise w = false) :
    otpRefusal s op w d = if lockedWord s w || deviceWord w then some 2 else none := by
  have hnot : ¬((fuseShadow s w).sealed = true ∨ (op = 2 ∧ bitwise w = true)) := by
    rintro (h | ⟨hop, h⟩)
    · exact Bool.false_ne_true (hsealed.symm.trans h)
    · exact Bool.false_ne_true ((hbit hop).symm.trans h)
  unfold otpRefusal
  dsimp only
  rw [if_neg fun hc => hc.2 (hkeep hc.1), if_neg hnot]

theorem otpBusy_of {op : Nat} (hop : op ≠ 4) (h : brownout s = true ∨ (op ≤ 2 ∧ 16 ≤ s.otp.queue.length)) : otpBusy s op = true := by
  unfold otpBusy
  rcases h with h | ⟨hle, h⟩
  · simp [hop, h]
  · simp [hle, h]

end

theorem storedEntry_otpOp : storedEntry E.otpOp 0 = false := by decide

/-- An operation that may start begins with its word, its bits and its supply (R538). -/
theorem otpOp_begins {op : Nat} {pin : Bool} {c : Instr} (hexec : exec c s =
      .next (writeIf s p (s.superseded noTarget) E.otpOp 0 0 (op : Nat) (otpAct op pin (some p))))
    (hacc : Accepted s p (s.superseded noTarget) E.otpOp 0 0 (op : Nat))
    (hr : ¬(op = 1 ∧ bitwise (s.rdN E.otpWord) = true ∧ 2 ^ 16 ≤ s.rdN E.otpData)) (hjob : op ≤ 2 → s.busyJob = false)
    (href : op ≤ 2 → otpRefusal s op (s.rdN E.otpWord) (s.rdN E.otpData) = none) (hbusy : otpBusy s op = false)
    (hpower : pin = true ∨ wire s 11 = false ∨ op = 4) : Gives c s fun u =>
      u.otp.op = some (op, s.rdN E.otpWord, otpMask s op) ∧ u.otp.opPort = some p ∧ u.rd E.otpResult = 1 ∧
      (op ≠ 4 → u.rd E.vppSrc = if pin then 1 else 2) ∧ u.otp.words = s.otp.words ∧ u.sent = s.sent ∧
      SameBut s u (if op = 4 then [rowKey E.otpResult 0 0] else [rowKey E.otpResult 0 0, rowKey E.vppSrc 0 0]) := by
  obtain ⟨u, hu, hotp, hresult, hsent, hsense, hother⟩ := otpStart_begins (s := s) (w := s.rdN E.otpWord) (mask := otpMask s op)
    (port := some p) hpower
  have hact : otpAct op pin (some p) s = (laterCode, u) := by
    rw [otpAct_free hr hjob href, if_neg (by simp [hbusy]), hu]
  refine ⟨u, hexec.trans (congrArg _ (writeIf_later hacc storedEntry_otpOp hact)), ?_⟩
  refine ⟨by rw [hotp], by rw [hotp], hresult, fun h => (hother h).1, by rw [hotp], hsent, ?_⟩
  split
  · next h => exact hsense h
  · next h => exact (hother h).2

theorem otpProgram_answers (pin : Bool) (hacc : Accepted s p (s.superseded noTarget) E.otpOp 0 0 (1 : Nat))
    (hd : bitwise (s.rdN E.otpWord) = false ∨ s.rdN E.otpData < 2 ^ 16) :
    (s.busyJob = true → exec (.otpProgram p pin) s = .next (s.answer p codeState)) ∧
    (∀ r, s.busyJob = false → otpRefusal s 1 (s.rdN E.otpWord) (s.rdN E.otpData) = some r →
      exec (.otpProgram p pin) s = .next ((s.wr E.otpResult r).answer p okCode)) := by
  have hr : ¬(1 = 1 ∧ bitwise (s.rdN E.otpWord) = true ∧ 2 ^ 16 ≤ s.rdN E.otpData) := by
    rintro ⟨-, hbit, hle⟩
    rcases hd with hd | hd
    · exact Bool.false_ne_true (hd.symm.trans hbit)
    · omega
  refine ⟨fun hjob => ?_, fun r hjob href => ?_⟩
  · rw [exec_otpProgram, writeIf_act_refuses hacc (otpAct_busyJob (by decide) hr hjob) (by decide)]
  · rw [exec_otpProgram, writeIf_act_unstored hacc storedEntry_otpOp (otpAct_refused (by decide) hr hjob href)]

/-- A program that may go on: busy, without a supply, or begun (R538, R539). -/
theorem otpProgram_goes (pin : Bool) (hacc : Accepted s p (s.superseded noTarget) E.otpOp 0 0 (1 : Nat))
    (hd : bitwise (s.rdN E.otpWord) = false ∨ s.rdN E.otpData < 2 ^ 16) (hjob : s.busyJob = false)
    (href : otpRefusal s 1 (s.rdN E.otpWord) (s.rdN E.otpData) = none) :
    (brownout s = true ∨ 16 ≤ s.otp.queue.length → exec (.otpProgram p pin) s = .next (s.answer p codeBusy)) ∧
    (otpBusy s 1 = false → pin = false → wire s 11 = true →
      exec (.otpProgram p pin) s = .next (((s.wr E.vppSrc 0).wr E.otpResult 8).answer p okCode)) ∧
    (otpBusy s 1 = false → pin = true ∨ wire s 11 = false → Gives (.otpProgram p pin) s fun u =>
      u.otp.op = some (1, s.rdN E.otpWord, programMask (s.rdN E.otpWord) (s.rdN E.otpData) (fuseShadow s (s.rdN E.otpWord))) ∧
      u.otp.opPort = some p ∧ u.rd E.otpResult = 1 ∧ u.rd E.vppSrc = (if pin then 1 else 2) ∧ u.otp.words = s.otp.words ∧
      u.sent = s.sent ∧ SameBut s u [rowKey E.otpResult 0 0, rowKey E.vppSrc 0 0]) := by
  have hr : ¬(1 = 1 ∧ bitwise (s.rdN E.otpWord) = true ∧ 2 ^ 16 ≤ s.rdN E.otpData) := by
    rintro ⟨-, hbit, hle⟩
    rcases hd with hd | hd
    · exact Bool.false_ne_true (hd.symm.trans hbit)
    · omega
  have hact := otpAct_free (pin := pin) (port := some p) hr (fun _ => hjob) fun _ => href
  refine ⟨fun hbusy => ?_, fun hbusy hpin hwire => ?_, fun hbusy hpower => ?_⟩
  · rw [if_pos (otpBusy_of (by decide) (hbusy.imp id fun h => ⟨by decide, h⟩))] at hact
    rw [exec_otpProgram, writeIf_act_refuses hacc hact (by decide)]
  · rw [if_neg (by simp [hbusy]), otpStart_dry (by decide) hpin hwire] at hact
    rw [exec_otpProgram, writeIf_act_unstored hacc storedEntry_otpOp hact]
  · obtain ⟨u, hexec, hop, hport, hresult, hvpp, hwords, hsent, hsame⟩ :=
      otpOp_begins (exec_otpProgram s p pin) hacc hr (fun _ => hjob) (fun _ => href) hbusy (hpower.imp id .inl)
    exact ⟨u, hexec, hop, hport, hresult, hvpp (by decide), hwords, hsent, hsame⟩

/-- A seal (R538, R540). -/
theorem otpSeal_answers (pin : Bool) (hacc : Accepted s p (s.superseded noTarget) E.otpOp 0 0 (2 : Nat)) (hjob : s.busyJob = false) :
    (bitwise (s.rdN E.otpWord) = true ∨ (fuseShadow s (s.rdN E.otpWord)).sealed = true →
      exec (.otpSeal p pin) s = .next ((s.wr E.otpResult 3).answer p okCode)) ∧
    (bitwise (s.rdN E.otpWord) = false → (fuseShadow s (s.rdN E.otpWord)).sealed = false → lockedWord s (s.rdN E.otpWord) = false →
      deviceWord (s.rdN E.otpWord) = false → otpBusy s 2 = false → pin = true → Gives (.otpSeal p pin) s fun u =>
      u.otp.op = some (2, s.rdN E.otpWord, 0) ∧ u.rd E.otpResult = 1 ∧ u.otp.words = s.otp.words ∧ u.sent = s.sent ∧
      SameBut s u [rowKey E.otpResult 0 0, rowKey E.vppSrc 0 0]) := by
  have hr : ¬(2 = 1 ∧ bitwise (s.rdN E.otpWord) = true ∧ 2 ^ 16 ≤ s.rdN E.otpData) := fun h => absurd h.1 (by decide)
  have hkeep (h : 2 = 1) : (fuseShadow s (s.rdN E.otpWord)).data &&& s.rdN E.otpData = (fuseShadow s (s.rdN E.otpWord)).data :=
    absurd h (by decide)
  refine ⟨fun h => ?_, fun hbit hsealed hlock hdevice hbusy hpin => ?_⟩
  · have href := otpRefusal_sealed (d := s.rdN E.otpData) hkeep (h.symm.imp id fun h => ⟨rfl, h⟩)
    rw [exec_otpSeal, writeIf_act_unstored hacc storedEntry_otpOp (otpAct_refused (by decide) hr hjob href)]
    rfl
  · have href := otpRefusal_open (d := s.rdN E.otpData) hkeep hsealed fun _ => hbit
    rw [hlock, hdevice] at href
    obtain ⟨u, hexec, hop, -, hresult, -, hwords, hsent, hsame⟩ :=
      otpOp_begins (exec_otpSeal s p pin) hacc hr (fun _ => hjob) (fun _ => href) hbusy (.inl hpin)
    exact ⟨u, hexec, hop, hresult, hwords, hsent, hsame⟩

/-- A reinforcement (R541). -/
theorem otpReinforce_answers (pin : Bool) (hacc : Accepted s p (s.superseded noTarget) E.otpOp 0 0 (3 : Nat)) :
    (brownout s = true → exec (.otpReinforce p pin) s = .next (s.answer p codeBusy)) ∧
    (otpBusy s 3 = false → pin = true → Gives (.otpReinforce p pin) s fun u => u.otp.op = some (3, s.rdN E.otpWord, 0) ∧
      u.rd E.otpResult = 1 ∧ u.otp.words = s.otp.words ∧ u.sent = s.sent ∧
      SameBut s u [rowKey E.otpResult 0 0, rowKey E.vppSrc 0 0]) := by
  have hr : ¬(3 = 1 ∧ bitwise (s.rdN E.otpWord) = true ∧ 2 ^ 16 ≤ s.rdN E.otpData) := fun h => absurd h.1 (by decide)
  have hhigh {q : Prop} (h : 3 ≤ 2) : q := absurd h (by decide)
  have hact := otpAct_free (pin := pin) (port := some p) hr hhigh hhigh
  refine ⟨fun hbrown => ?_, fun hbusy hpin => ?_⟩
  · rw [if_pos (otpBusy_of (by decide) (.inl hbrown))] at hact
    rw [exec_otpReinforce, writeIf_act_refuses hacc hact (by decide)]
  · obtain ⟨u, hexec, hop, -, hresult, -, hwords, hsent, hsame⟩ :=
      otpOp_begins (exec_otpReinforce s p pin) hacc hr hhigh hhigh hbusy (.inl hpin)
    exact ⟨u, hexec, hop, hresult, hwords, hsent, hsame⟩

/-- A sensing (R541). -/
theorem otpSense_begins (hacc : Accepted s p (s.superseded noTarget) E.otpOp 0 0 (4 : Nat)) (hbusy : otpBusy s 4 = false) :
    Gives (.otpSense p) s fun u => u.otp.op = some (4, s.rdN E.otpWord, 0) ∧ u.rd E.otpResult = 1 ∧ u.otp.words = s.otp.words ∧
      u.sent = s.sent ∧ SameBut s u [rowKey E.otpResult 0 0] := by
  have hr : ¬(4 = 1 ∧ bitwise (s.rdN E.otpWord) = true ∧ 2 ^ 16 ≤ s.rdN E.otpData) := fun h => absurd h.1 (by decide)
  have hhigh {q : Prop} (h : 4 ≤ 2) : q := absurd h (by decide)
  obtain ⟨u, hexec, hop, -, hresult, -, hwords, hsent, hsame⟩ :=
    otpOp_begins (exec_otpSense s p) hacc hr hhigh hhigh hbusy (.inr (.inr rfl))
  exact ⟨u, hexec, hop, hresult, hwords, hsent, hsame⟩

/-- The completion of a program, its bits sound or one failing (R538, R539). -/
theorem otpComplete_program (weak : Bool) {w mask : Nat} (hport : s.otp.opPort = some .fw) (h : s.otp.op = some (1, w, mask))
    (hsealed : (fuseWord s w).sealed = false) :
    (Gives (.otpOpComplete none weak) s fun u => fuseWord u w = { fuseWord s w with data := (fuseWord s w).data ||| mask } ∧
      (∀ k, k ≠ w → fuseWord u k = fuseWord s k ∧ fuseShadow u k = fuseShadow s k) ∧
      fuseShadow u w = senseOf w (fuseWord u w) weak ∧ u.otp.op = none ∧ u.rd E.otpResult = 0 ∧ u.faultQ = s.faultQ ∧
      u.sent = .answer .fw okCode [] :: s.sent ∧ SameBut s u [rowKey E.otpResult 0 0]) ∧
    ∀ f : Fin 56, bit mask f = true → Gives (.otpOpComplete (some f) weak) s fun u =>
      fuseWord u w = { fuseWord s w with data := (fuseWord s w).data ||| mask % 2 ^ f.val } ∧
      (∀ k, k ≠ w → fuseWord u k = fuseWord s k) ∧ u.otp.op = none ∧ u.rd E.otpResult = 5 ∧
      u.faultQ = s.faultQ ++ [⟨0xC8, 5, w + f * 2 ^ 16⟩] ∧ SameBut s u [rowKey E.otpResult 0 0] := by
  have hsound (m : Nat) : bitwise w = true ∨ (fuseWord (blow s w m) w).sealed = false ∨ (fuseWord (blow s w m) w).syn = 0 := by
    rw [blow, fuseWord_setFuseWord]
    exact .inr (.inl hsealed)
  refine ⟨⟨otpEnd (blow s w mask) w 0 weak, ?_, ?_⟩, fun f hf => ⟨progFail (otpEnd (blow s w (mask % 2 ^ f.val)) w 5 weak) w f, ?_, ?_⟩⟩
  · rw [exec_otpOpComplete, otpCompleteAct, h]
    rfl
  · generalize hu : otpEnd (blow s w mask) w 0 weak = u
    obtain ⟨hself, hothers⟩ := otpEnd_set s w 0 weak _ hport hu.symm
    have hend := otpEnd_leaves (blow s w mask) w 0 weak hport hu.symm
    refine ⟨hself, fun k hk => ⟨hothers k hk, hend.shadows k hk⟩, ?_, hend.op, hend.result, hend.faultQ (hsound mask), hend.sent, hend.same⟩
    rw [hend.shadow, hend.fuseWord]
  · rw [exec_otpOpComplete, otpCompleteAct, h]
    exact congrArg _ (if_pos hf)
  · generalize hu : otpEnd (blow s w (mask % 2 ^ f.val)) w 5 weak = u
    obtain ⟨hself, hothers⟩ := otpEnd_set s w 5 weak _ hport hu.symm
    have hend := otpEnd_leaves (blow s w (mask % 2 ^ f.val)) w 5 weak hport hu.symm
    exact ⟨hself, hothers, hend.op, hend.result, congrArg (· ++ _) (hend.faultQ (hsound _)), hend.same.report _ _ _⟩

/-- The completion of a seal (R540). -/
theorem otpComplete_seal (weak : Bool) {w mask : Nat} (hport : s.otp.opPort = some .fw) (h : s.otp.op = some (2, w, mask)) :
    Gives (.otpOpComplete none weak) s fun u => fuseWord u w = { data := (fuseWord s w).data, syn := 0, sealed := true } ∧
      (∀ k, k ≠ w → fuseWord u k = fuseWord s k) ∧ u.otp.op = none ∧ u.rd E.otpResult = 0 ∧ u.faultQ = s.faultQ ∧
      SameBut s u [rowKey E.otpResult 0 0] := by
  refine ⟨otpEnd (setFuseWord s w { fuseWord s w with sealed := true, syn := 0 }) w 0 weak, ?_, ?_⟩
  · rw [exec_otpOpComplete, otpCompleteAct, h]
    rfl
  · generalize hu : otpEnd (setFuseWord s w { fuseWord s w with sealed := true, syn := 0 }) w 0 weak = u
    obtain ⟨hself, hothers⟩ := otpEnd_set s w 0 weak _ hport hu.symm
    have hend := otpEnd_leaves (setFuseWord s w { fuseWord s w with sealed := true, syn := 0 }) w 0 weak hport hu.symm
    exact ⟨hself, hothers, hend.op, hend.result, hend.faultQ (.inr (.inr (by rw [fuseWord_setFuseWord]))), hend.same⟩

/-- The completion of a sensing (R541). -/
theorem otpComplete_sense (weak : Bool) {w mask : Nat} (hport : s.otp.opPort = some .fw) (h : s.otp.op = some (4, w, mask)) :
    Gives (.otpOpComplete none weak) s fun u => u.otp.words = s.otp.words ∧ fuseShadow u w = senseOf w (fuseWord s w) weak ∧
      u.otp.op = none ∧ u.rd E.otpResult = 0 ∧ SameBut s u [rowKey E.otpResult 0 0] := by
  refine ⟨otpEnd s w 0 weak, ?_, ?_⟩
  · rw [exec_otpOpComplete, otpCompleteAct, h]
    rfl
  · have hend := otpEnd_leaves s w 0 weak hport rfl
    exact ⟨hend.words, hend.shadow, hend.op, hend.result, hend.same⟩

/-- Settles O54: the requests by their grounds, and the completions by their operation. -/
theorem fuseOperations : Obligations.FuseOperations := by
  unfold Obligations.FuseOperations
  refine ⟨fun p pin s w d hw hd => ?_, fun weak s w mask hport => ⟨otpComplete_program weak hport, otpComplete_seal weak hport,
    otpComplete_sense weak hport, fun h => ?_⟩⟩
  · subst hw hd
    refine ⟨fun hacc => ?_, fun hacc => otpSeal_answers pin hacc, fun hacc => otpReinforce_answers pin hacc, fun hacc => otpSense_begins hacc⟩
    have hacc : Accepted s p (s.superseded noTarget) E.otpOp 0 0 ((1 : Nat) : Int) := hacc
    refine ⟨fun hbit hle => ?_, fun hrange => ?_⟩
    · rw [exec_otpProgram, writeIf_act_refuses hacc (otpAct_range hbit hle) (by decide)]
    · obtain ⟨hstate, hrefused⟩ := otpProgram_answers pin hacc hrange
      refine ⟨hstate, fun hjob hne => hrefused 4 hjob (otpRefusal_clears hne),
        fun hjob heq hsealed => hrefused 3 hjob (otpRefusal_sealed (fun _ => heq) (.inl hsealed)),
        fun hjob heq hsealed => ⟨fun hlocked => hrefused 2 hjob ?_, fun hlocked hdevice => otpProgram_goes pin hacc hrange hjob ?_⟩⟩
      · rw [otpRefusal_open (fun _ => heq) hsealed fun h => absurd h (by decide), if_pos (Bool.or_eq_true_iff.mpr hlocked)]
      · rw [otpRefusal_open (fun _ => heq) hsealed fun h => absurd h (by decide), hlocked, hdevice]
        rfl
  · rw [exec_otpOpComplete, otpCompleteAct, h]

end Sys2Proof.Machine
end

section
/-!
CERTIFICATE. Counted settings (R472 to R475, R545 to R547).
-/
namespace Sys2Proof.Machine

variable {s t u : State} {p : Port}

theorem exec_countedSettingWrite (s : State) (p : Port) (key v : Nat) {r : Row} {i : Nat} (h : countedRow key = some (r, i)) :
    exec (.countedSettingWrite p (key / 256) (key % 256) v) s =
      .next (writeIf s p (s.superseded noTarget) r i 0 v (countedAct r i v (some p))) := by
  have hkey : key / 256 * 256 + key % 256 = key := Nat.div_add_mod' key 256
  have hexec : exec (.countedSettingWrite p (key / 256) (key % 256) v) s =
      .next (match countedRow (key / 256 * 256 + key % 256) with
        | none => s
        | some (r, i) => writeIf s p (s.superseded noTarget) r i 0 v (countedAct r i v (some p))) := rfl
  rw [hexec, hkey, h]

theorem exec_countedChangeDone (s : State) (key : Nat) : exec (.countedChangeDone (key / 256) (key % 256)) s =
    .next (countedDoneAct key s) := by
  have hkey : key / 256 * 256 + key % 256 = key := Nat.div_add_mod' key 256
  have hexec : exec (.countedChangeDone (key / 256) (key % 256)) s = .next (countedDoneAct (key / 256 * 256 + key % 256) s) := rfl
  rw [hexec, hkey]

/-! ### The counted entries by key -/

theorem countedRow_chDisable {c : Nat} (h : c < 96) : countedRow (rowKey E.chDisable c 0) = some (E.chDisable, c) := by
  have hring : rowFind E.ringAddr (rowKey E.chDisable c 0) = none := rowFind_beyond (by
    simp only [rowKey, E.chDisable, E.ringAddr]
    omega)
  have hceil : rowFind E.headVCeil (rowKey E.chDisable c 0) = none := rowFind_beyond (by
    simp only [rowKey, E.chDisable, E.headVCeil]
    omega)
  have hpersona : rowFind E.personaDefault (rowKey E.chDisable c 0) = none := rowFind_below (by
    simp only [rowKey, E.chDisable, E.personaDefault]
    omega)
  have hself : rowFind E.chDisable (rowKey E.chDisable c 0) = some (c, 0) := by
    have hnot : ¬rowKey E.chDisable c 0 < E.chDisable.k0 := by simp only [rowKey]; omega
    have hdiv : (rowKey E.chDisable c 0 - E.chDisable.k0) / E.chDisable.step = c ∧
        (rowKey E.chDisable c 0 - E.chDisable.k0) % E.chDisable.step = 0 := by
      simp only [rowKey, E.chDisable]
      omega
    unfold rowFind
    dsimp only
    rw [if_neg hnot, hdiv.1, hdiv.2, if_pos ⟨show c < 100 by omega, show 0 < 1 by decide⟩]
  simp only [countedRow, List.findSome?_cons, hring, hceil, hpersona, hself, Option.map_none, Option.map_some]

/-- The entries of a counted setting. -/
def CountedEntry (r : Row) (i : Nat) : Prop :=
  (r = E.ringAddr ∧ i = 0) ∨ (r = E.headVCeil ∧ i = 0) ∨ (r = E.personaDefault ∧ i = 0) ∨ (r = E.chDisable ∧ i < 96)

theorem CountedEntry.row {r : Row} {i : Nat} (h : CountedEntry r i) : countedRow (rowKey r i 0) = some (r, i) := by
  rcases h with ⟨rfl, rfl⟩ | ⟨rfl, rfl⟩ | ⟨rfl, rfl⟩ | ⟨rfl, hi⟩
  · rfl
  · rfl
  · rfl
  · exact countedRow_chDisable hi

theorem CountedEntry.not_stored {r : Row} {i : Nat} (h : CountedEntry r i) : storedEntry r i = false := by
  have hacc : accOf r i = .cnt ∨ accOf r i = .ro := by
    have hcnt : r.acc = .cnt := by rcases h with ⟨rfl, -⟩ | ⟨rfl, -⟩ | ⟨rfl, -⟩ | ⟨rfl, -⟩ <;> rfl
    unfold accOf
    split
    · exact .inr rfl
    · exact .inl hcnt
  have hplain : (accOf r i == .rw || accOf r i == .rws) = false := by rcases hacc with hacc | hacc <;> rw [hacc] <;> rfl
  unfold storedEntry
  dsimp only
  rw [hplain]
  simp

/-! ### Writes -/

section

variable {r : Row} {i v : Nat} {port : Option Port}

theorem countedAct_changing (h : s.otp.counted.any (fun x => x.1 == rowKey r i 0) = true) :
    countedAct r i v port s = (codeBusy, s) := if_pos h

theorem countedAct_idle (h : s.otp.counted = []) : countedAct r i v port s =
    if s.rd r i = v then (okCode, s) else if brownout s then (codeBusy, s) else if leftOf s r i = 0 then (codeNoChanges, s)
    else (laterCode, { s with otp := { s.otp with counted := [(rowKey r i 0, v, port)] } }) := by
  unfold countedAct
  dsimp only
  rw [h]
  rfl

end

theorem countedSettingWrite_answers {r : Row} {i v : Nat} (hr : CountedEntry r i) (hacc : Accepted s p (s.superseded noTarget) r i 0 v)
    {c : Instr} (hc : c = .countedSettingWrite p (rowKey r i 0 / 256) (rowKey r i 0 % 256) v) :
    (s.otp.counted.any (fun x => x.1 == rowKey r i 0) = true → exec c s = .next (s.answer p codeBusy)) ∧
    (s.otp.counted = [] → s.rd r i = v → exec c s = .next (s.answer p okCode)) ∧
    (s.otp.counted = [] → s.rd r i ≠ v → brownout s = true → exec c s = .next (s.answer p codeBusy)) ∧
    (s.otp.counted = [] → s.rd r i ≠ v → brownout s = false → leftOf s r i = 0 → exec c s = .next (s.answer p codeNoChanges)) ∧
    (s.otp.counted = [] → s.rd r i ≠ v → brownout s = false → leftOf s r i ≠ 0 →
      exec c s = .next { s with otp := { s.otp with counted := [(rowKey r i 0, v, some p)] } }) := by
  rw [hc, exec_countedSettingWrite s p _ v hr.row]
  refine ⟨fun h => ?_, fun h heq => ?_, fun h hne hb => ?_, fun h hne hb hl => ?_, fun h hne hb hl => ?_⟩
  · rw [writeIf_act_refuses hacc (countedAct_changing h) (by decide)]
  · rw [writeIf_act_refuses hacc ((countedAct_idle h).trans (if_pos heq)) (by decide)]
  · rw [writeIf_act_refuses hacc ((countedAct_idle h).trans ((if_neg hne).trans (if_pos hb))) (by decide)]
  · have hquiet : ¬brownout s = true := by simp [hb]
    rw [writeIf_act_refuses hacc ((countedAct_idle h).trans ((if_neg hne).trans ((if_neg hquiet).trans (if_pos hl)))) (by decide)]
  · have hquiet : ¬brownout s = true := by simp [hb]
    rw [writeIf_later hacc hr.not_stored ((countedAct_idle h).trans ((if_neg hne).trans ((if_neg hquiet).trans (if_neg hl))))]

/-! ### Records -/

theorem filter_range_zero {n : Nat} {q : Nat → Bool} (h0 : q 0 = true) (h : ∀ j, 0 < j → q j = false) (hn : 0 < n) :
    (List.range n).filter q = [0] := by
  obtain ⟨m, rfl⟩ := Nat.exists_eq_succ_of_ne_zero hn.ne'
  rw [List.range_succ_eq_map, List.filter_cons_of_pos h0, List.filter_eq_nil_iff.mpr]
  intro j hj
  obtain ⟨k, -, rfl⟩ := List.mem_map.mp hj
  simp [h (k + 1) (Nat.succ_pos k)]

theorem length_filter_range {n : Nat} {q : Nat → Bool} (h0 : q 0 = false) (h : ∀ j, 0 < j → j < n → q j = true) :
    ((List.range n).filter q).length = n - 1 := by
  cases n with
  | zero => rfl
  | succ m =>
    rw [List.range_succ_eq_map, List.filter_cons_of_neg (by simp [h0]), List.filter_eq_self.mpr]
    · simp
    · intro j hj
      obtain ⟨k, hk, rfl⟩ := List.mem_map.mp hj
      exact h (k + 1) (Nat.succ_pos k) (Nat.succ_lt_succ (List.mem_range.mp hk))

/-- What the three counted settings with records have in common (R532, R545). -/
structure RecordWords (k : Counted) : Prop where
  plain : ∀ j, j < k.num → bitwise (k.first + j) = false
  slot : bitwise k.slot = true
  apart : k.first + k.num ≤ k.slot
  nonempty : 0 < k.num
  changes : 1 ≤ k.max_ ∧ k.max_ ≤ k.num
  row : countedRow (rowKey k.row 0 0) = some (k.row, 0)
  keys : rowKey k.row 0 0 ≠ rowKey k.left 0 0
  find : countedRecords.find? (fun x => x.row.k0 == k.row.k0) = some k
  not_disable : k.row.k0 ≠ E.chDisable.k0

theorem recordWords {k : Counted} (h : k ∈ countedRecords) : RecordWords k := by
  simp only [countedRecords, List.mem_cons, List.not_mem_nil, or_false] at h
  rcases h with rfl | rfl | rfl
  · exact ⟨by decide, by decide, by decide, by decide, by decide, rfl, by decide, rfl, by decide⟩
  · exact ⟨by decide, by decide, by decide, by decide, by decide, rfl, by decide, rfl, by decide⟩
  · exact ⟨by decide, by decide, by decide, by decide, by decide, rfl, by decide, rfl, by decide⟩

/-- A word without an error that is set and sensed. -/
theorem senseWord_set (s : State) (w : Nat) (x : OtpWord) (weak : Bool) (hx : bitwise w = true ∨ x.sealed = false ∨ x.syn = 0)
    (hu : u = senseWord (setFuseWord s w x) w weak) :
    (∃ words shadows, u = { s with otp := { s.otp with words := words, shadows := shadows } }) ∧
    fuseWord u w = x ∧ (∀ k, k ≠ w → fuseWord u k = fuseWord s k) ∧
    fuseShadow u w = senseOf w x weak ∧ ∀ k, k ≠ w → fuseShadow u k = fuseShadow s k := by
  have hself := fuseWord_setFuseWord s w x
  have hothers (k : Nat) (hk : k ≠ w) := fuseWord_setFuseWord_ne s x hk
  obtain ⟨words, hwords⟩ : ∃ words, setFuseWord s w x = { s with otp := { s.otp with words := words } } := ⟨_, rfl⟩
  have hshadows : (setFuseWord s w x).otp.shadows = s.otp.shadows := rfl
  generalize setFuseWord s w x = v at *
  obtain ⟨q, hquiet, hueq⟩ := senseWord_leaves v w weak hu
  rw [hself] at hquiet hueq
  obtain ⟨hc, hun⟩ := senseOf_sound hx weak
  rw [hquiet hc hun, List.append_nil] at hueq
  have hput : u.otp.shadows = aput {} w (senseOf w x weak) s.otp.shadows := by rw [hueq, ← hshadows]
  have huword (k : Nat) : fuseWord u k = fuseWord v k := by rw [hueq]; rfl
  obtain ⟨hsense, hsenses⟩ := fuseShadow_of_put hput
  refine ⟨⟨words, u.otp.shadows, ?_⟩, (huword w).trans hself, fun k hk => (huword k).trans (hothers k hk), hsense, hsenses⟩
  rw [hueq, hwords]

/-- The record words of a counted setting of which no change has been made, and its slot word, are blank. -/
structure RecordsBlank (s : State) (k : Counted) : Prop where
  words : ∀ j, j < k.num → fuseWord s (k.first + j) = {} ∧ fuseShadow s (k.first + j) = {}
  slot : fuseWord s k.slot = {}
  slotShadow : fuseShadow s k.slot = {}

/-- The first record of a counted setting is programmed, sealed, and its slot bit set (R474, R545). -/
theorem programRecord_first {k : Counted} (hk : RecordWords k) (hblank : RecordsBlank s k) (v : Nat) (hu : u = programRecord s k v) :
    (∃ words shadows, u = { s with otp := { s.otp with words := words, shadows := shadows } }) ∧
    fuseWord u k.first = ⟨v, 0, true⟩ ∧ (fuseWord u k.slot).data = 7 ∧
    (∀ w, w ≠ k.first → w ≠ k.slot → fuseWord u w = fuseWord s w) ∧
    (completeRecords u k = [0]) ∧ (fuseShadow u k.first).data = v ∧ (blankRecords u k).length = k.num - 1 := by
  have hall : blankRecords s k = List.range k.num := List.filter_eq_self.mpr fun j hj => by
    rw [blank, (hblank.words j (List.mem_range.mp hj)).2]
    rfl
  obtain ⟨m, hm⟩ := Nat.exists_eq_succ_of_ne_zero hk.nonempty.ne'
  have hfirst : bitwise k.first = false := hk.plain 0 hk.nonempty
  have hne : k.slot ≠ k.first := by
    have := hk.apart
    have := hk.nonempty
    omega
  unfold programRecord at hu
  rw [hall, hm, List.range_succ_eq_map] at hu
  dsimp only at hu
  rw [Nat.add_zero, (show fuseWord s k.first = {} from (hblank.words 0 hk.nonempty).1)] at hu
  rw [show ((({} : OtpWord).data ||| v : Nat)) = v from Nat.zero_or v] at hu
  generalize hx : senseWord (setFuseWord s k.first ⟨v, 0, true⟩) k.first (weakOf s k.first) = x at hu
  obtain ⟨⟨words, shadows, hxeq⟩, hxself, hxothers, hxsense, hxsenses⟩ := senseWord_set s k.first ⟨v, 0, true⟩ _ (.inr (.inr rfl)) hx.symm
  have hxslot : fuseWord x k.slot = {} := (hxothers _ hne).trans hblank.slot
  have hblow : blow x k.slot (tripled (2 ^ 0)) = setFuseWord x k.slot ⟨7, 0, false⟩ := by
    rw [blow, hxslot]
    rfl
  rw [hblow] at hu
  obtain ⟨⟨words', shadows', hueq⟩, huself, huothers, husense, husenses⟩ := senseWord_set x k.slot ⟨7, 0, false⟩ _ (.inl hk.slot) hu
  have hslotdata : (fuseShadow u k.slot).data = 1 := by
    have hseven : majority 7 = 1 := by decide
    rw [husense, senseOf, if_pos hk.slot]
    exact hseven
  have hfirstshadow : fuseShadow u k.first = { raw := v, data := v, sealed := true, weak := weakOf s k.first } := by
    rw [husenses _ hne.symm, hxsense, senseOf, if_neg (by simp [hfirst])]
    rfl
  refine ⟨⟨words', shadows', by rw [hueq, hxeq]⟩, (huothers _ hne.symm).trans hxself, by rw [huself], fun w hw hw' =>
    (huothers w hw').trans (hxothers w hw), ?_, by rw [hfirstshadow], ?_⟩
  · refine filter_range_zero ?_ (fun j hj => ?_) hk.nonempty
    · rw [recordComplete, hslotdata, Nat.add_zero, hfirstshadow]
      rfl
    · have hbit : bit 1 j = false :=
        Bool.eq_false_iff.mpr fun h => hj.ne' (Nat.testBit_one_eq_true_iff_self_eq_zero.mp h)
      rw [recordComplete, hslotdata, hbit, Bool.false_and]
  · refine length_filter_range ?_ fun j hj hlt => ?_
    · rw [Nat.add_zero, hfirstshadow]
      simp [blank]
    · have hapart := hk.apart
      rw [husenses _ (by omega), hxsenses _ (by omega), (hblank.words j hlt).2]
      rfl

/-- A change that is done: no brown-out holds it, and it is the only one (R474). -/
theorem countedDoneAct_eq {key v : Nat} {r : Row} {i : Nat} (hb : brownout s = false) (hc : s.otp.counted = [(key, v, some .fw)])
    (hr : countedRow key = some (r, i)) : countedDoneAct key s =
      (countedEffect { s with otp := { s.otp with counted := [] } } r i v).answer .fw okCode := by
  have hfind : List.find? (fun x : Nat × Nat × Option Port => x.1 == key) [(key, v, some .fw)] = some (key, v, some .fw) := by simp
  have hnone : List.filter (fun x : Nat × Nat × Option Port => x.1 != key) [(key, v, some .fw)] = [] := by simp
  unfold countedDoneAct
  rw [if_neg (by simp [hb]), hc, hfind, hr]
  dsimp only
  rw [hnone]
  rfl

theorem countedEffect_record {k : Counted} (hk : RecordWords k) (v : Nat) : countedEffect s k.row 0 v =
    if k.row.k0 = E.headVCeil.k0 then allAmpLimits (showRecord (programRecord s k v) k) else showRecord (programRecord s k v) k := by
  unfold countedEffect
  rw [if_neg hk.not_disable, hk.find]

/-- The entry of a counted setting lies beyond what its effect on the amplitude loops writes. -/
theorem counted_beyondAmp {k : Counted} (h : k ∈ countedRecords) (hceil : k.row.k0 = E.headVCeil.k0) :
    0x233000 ≤ rowKey k.row 0 0 ∧ 0x233000 ≤ rowKey k.left 0 0 := by
  simp only [countedRecords, List.mem_cons, List.not_mem_nil, or_false] at h
  rcases h with rfl | rfl | rfl
  · exact absurd hceil (by decide)
  · decide
  · exact absurd hceil (by decide)

/-- A change of a counted setting with records (R474, R475, R545). -/
theorem countedEffect_first {k : Counted} (h : k ∈ countedRecords) (hblank : RecordsBlank s k) (v : Nat)
    (hu : u = countedEffect s k.row 0 v) : u.rd k.row = v ∧ u.rd k.left = k.max_ - 1 ∧ u.otp.counted = s.otp.counted ∧
    fuseWord u k.first = ⟨v, 0, true⟩ ∧ (fuseWord u k.slot).data = 7 ∧
    (∀ w, w ≠ k.first → w ≠ k.slot → fuseWord u w = fuseWord s w) ∧ u.sent = s.sent ∧ u.faultQ = s.faultQ ∧ u.mem = s.mem := by
  have hk := recordWords h
  rw [countedEffect_record hk] at hu
  generalize hx : programRecord s k v = x at hu
  obtain ⟨⟨words, shadows, hxeq⟩, hfirst, hslot, hothers, hcomplete, hdata, hleft⟩ := programRecord_first hk hblank v hx.symm
  have hvalue : recordValue x k = v := by
    rw [recordValue, hcomplete]
    exact congrArg _ hdata
  have hchanges : (changesLeft x k : Int) = k.max_ - 1 := by
    rw [changesLeft, hcomplete, hleft, List.length_singleton]
    have := hk.changes
    omega
  generalize hy : showRecord x k = y at hu
  obtain ⟨hyrow, hyleft, hyotp, hysent, hyfault, hymem⟩ : y.rd k.row = v ∧ y.rd k.left = k.max_ - 1 ∧ y.otp = x.otp ∧ y.sent = x.sent ∧
      y.faultQ = x.faultQ ∧ y.mem = x.mem := by
    rw [showRecord, hvalue, hchanges] at hy
    subst hy
    exact ⟨(State.rd_wr _ _ _ _ _ _ _ _ hk.keys).trans (State.rd_wr_same ..), State.rd_wr_same .., rfl, rfl, rfl, rfl⟩
  have hfacts (z : State) (hrow : z.rd k.row = y.rd k.row) (hleft : z.rd k.left = y.rd k.left) (hotp : z.otp = y.otp)
      (hsent : z.sent = y.sent) (hfault : z.faultQ = y.faultQ) (hmem : z.mem = y.mem) : z.rd k.row = v ∧ z.rd k.left = k.max_ - 1 ∧
      z.otp.counted = s.otp.counted ∧ fuseWord z k.first = ⟨v, 0, true⟩ ∧ (fuseWord z k.slot).data = 7 ∧
      (∀ w, w ≠ k.first → w ≠ k.slot → fuseWord z w = fuseWord s w) ∧ z.sent = s.sent ∧ z.faultQ = s.faultQ ∧ z.mem = s.mem := by
    have hword (w : Nat) : fuseWord z w = fuseWord x w := by rw [fuseWord, hotp, hyotp, fuseWord]
    refine ⟨hrow.trans hyrow, hleft.trans hyleft, ?_, (hword _).trans hfirst, ?_, fun w hw hw' => (hword w).trans (hothers w hw hw'), ?_, ?_, ?_⟩
    · rw [hotp, hyotp, hxeq]
    · rw [hword, hslot]
    · rw [hsent, hysent, hxeq]
    · rw [hfault, hyfault, hxeq]
    · rw [hmem, hymem, hxeq]
  split at hu
  · next hceil =>
    have hamp : AmpKeeps y (allAmpLimits y) := .allAmpLimits y
    obtain ⟨hrow, hleft⟩ := counted_beyondAmp h hceil
    rw [← hu] at hamp
    exact hfacts u (hamp.rd _ _ _ (.inr hrow)) (hamp.rd _ _ _ (.inr hleft)) (congrArg State.otp hamp.beyond :)
      (congrArg State.sent hamp.beyond :) (congrArg State.faultQ hamp.beyond :) (congrArg State.mem hamp.beyond :)
  · subst hu
    exact hfacts _ rfl rfl rfl rfl rfl rfl

/-! ### A channel that is disabled -/

theorem tripled_one (j : Fin 16) : tripled (2 ^ j.val) = 7 * 2 ^ (3 * j.val) ∧ bit (majority (7 * 2 ^ (3 * j.val))) j.val = true := by
  revert j
  decide +kernel

theorem countedEffect_disable {c v : Nat} : countedEffect s E.chDisable c v = dropDisabled (showDisable
    (senseWord (blow s (413 + c / 16) (tripled (2 ^ (c % 16)))) (413 + c / 16)
      (weakOf s (413 + c / 16))) c) c := if_pos rfl

theorem bitwise_disable {c : Nat} (h : c < 96) : bitwise (413 + c / 16) = true := by
  have hlow : decide (410 ≤ 413 + c / 16) = true := decide_eq_true (by omega)
  have hhigh : decide (413 + c / 16 ≤ 418) = true := decide_eq_true (by omega)
  rw [bitwise, hlow, hhigh]
  simp

/-- The disable bit of a channel, programmed and sensed (R547). -/
theorem disableBit_programmed {c : Nat} (h : c < 96) (hblank : fuseWord s (413 + c / 16) = {})
    (hu : u = senseWord (blow s (413 + c / 16) (tripled (2 ^ (c % 16)))) (413 + c / 16) (weakOf s (413 + c / 16))) :
    (∃ words shadows, u = { s with otp := { s.otp with words := words, shadows := shadows } }) ∧
    (fuseWord u (413 + c / 16)).data = 7 * 2 ^ (3 * (c % 16)) ∧
    bit (fuseShadow u (disableBit c).1).data (disableBit c).2 = true := by
  have htripled := (tripled_one ⟨c % 16, Nat.mod_lt _ (by decide)⟩).1
  have hmajority := (tripled_one ⟨c % 16, Nat.mod_lt _ (by decide)⟩).2
  dsimp only at htripled hmajority
  have hblow : blow s (413 + c / 16) (tripled (2 ^ (c % 16))) = setFuseWord s (413 + c / 16) ⟨7 * 2 ^ (3 * (c % 16)), 0, false⟩ := by
    rw [blow, hblank, htripled]
    exact congrArg (fun n => setFuseWord s (413 + c / 16) ⟨n, 0, false⟩) (Nat.zero_or _)
  rw [hblow] at hu
  obtain ⟨hfields, hword, -, hshadow, -⟩ := senseWord_set s (413 + c / 16) _ _ (.inl (bitwise_disable h)) hu
  refine ⟨hfields, by rw [hword], ?_⟩
  rw [disableBit, hshadow, senseOf, if_pos (bitwise_disable h)]
  exact hmajority

/-- CH_DISABLE and its changes left show the bit (R547). -/
theorem showDisable_set {c : Nat} (h : bit (fuseShadow s (disableBit c).1).data (disableBit c).2 = true) (hu : u = showDisable s c) :
    u.rd E.chDisable c = 1 ∧ u.rd E.chDisableLeft c = 0 ∧ u.otp = s.otp ∧ u.sent = s.sent ∧ u.faultQ = s.faultQ := by
  have hkey : rowKey E.chDisable c 0 ≠ rowKey E.chDisableLeft c 0 := by simp only [rowKey, E.chDisable, E.chDisableLeft]; omega
  unfold showDisable at hu
  dsimp only at hu
  rw [h] at hu
  subst hu
  exact ⟨(State.rd_wr _ _ _ _ _ _ _ _ hkey).trans (State.rd_wr_same ..), State.rd_wr_same .., rfl, rfl, rfl⟩

/-- A channel that CH_DISABLE disables is served by no engine (R111). -/
theorem dropDisabled_leaves {c : Nat} (h : s.rd E.chDisable c = 1) (hu : u = dropDisabled s c) : u.rd E.chDisable c = 1 ∧
    u.rd E.chDisableLeft c = s.rd E.chDisableLeft c ∧ u.rd E.servedBy c = 0xFF ∧ u.otp = s.otp ∧ u.sent = s.sent ∧
    u.faultQ = s.faultQ := by
  have hdisable : ¬rowKey E.chDisable c 0 = rowKey E.servedBy c 0 := by simp only [rowKey, E.chDisable, E.servedBy]; omega
  have hleft : ¬rowKey E.chDisableLeft c 0 = rowKey E.servedBy c 0 := by simp only [rowKey, E.chDisableLeft, E.servedBy]; omega
  have hchannel (e : Nat) : rowKey E.chDisable c 0 ≠ rowKey E.channel e 0 ∧ rowKey E.chDisableLeft c 0 ≠ rowKey E.channel e 0 ∧
      rowKey E.servedBy c 0 ≠ rowKey E.channel e 0 := by
    simp only [rowKey, E.chDisable, E.servedBy, E.chDisableLeft, E.channel]
    omega
  unfold dropDisabled at hu
  dsimp only at hu
  split at hu
  · next hnone =>
    have hserved : s.rdN E.servedBy c = 0xFF := hnone.resolve_left (by rw [h]; decide)
    have hrd : s.rd E.servedBy c = 0xFF := by
      rw [State.rdN] at hserved
      omega
    subst hu
    exact ⟨h, rfl, hrd, rfl, rfl, rfl⟩
  · have hcleared : (s.wr E.servedBy 0xFF c).rd E.chDisable c = 1 ∧ (s.wr E.servedBy 0xFF c).rd E.chDisableLeft c = s.rd E.chDisableLeft c ∧
        (s.wr E.servedBy 0xFF c).rd E.servedBy c = 0xFF ∧ (s.wr E.servedBy 0xFF c).otp = s.otp ∧
        (s.wr E.servedBy 0xFF c).sent = s.sent ∧ (s.wr E.servedBy 0xFF c).faultQ = s.faultQ :=
      ⟨(State.rd_wr _ _ _ _ _ _ _ _ hdisable).trans h, State.rd_wr _ _ _ _ _ _ _ _ hleft, State.rd_wr_same .., rfl, rfl, rfl⟩
    generalize s.wr E.servedBy 0xFF c = v at *
    obtain ⟨h1, h2, h3, h4, h5, h6⟩ := hcleared
    split at hu
    · obtain ⟨k1, k2, k3⟩ := hchannel (s.rdN E.servedBy c)
      subst hu
      exact ⟨(State.rd_wr _ _ _ _ _ _ _ _ k1).trans h1, (State.rd_wr _ _ _ _ _ _ _ _ k2).trans h2,
        (State.rd_wr _ _ _ _ _ _ _ _ k3).trans h3, h4, h5, h6⟩
    · subst hu
      exact ⟨h1, h2, h3, h4, h5, h6⟩

/-- The disable of a channel takes effect at once (R472, R547). -/
theorem countedChange_disables (c : Ch) (hb : brownout s = false) (hc : s.otp.counted = [(rowKey E.chDisable c 0, 1, some .fw)])
    (hblank : fuseWord s (413 + c.val / 16) = {}) :
    Gives (.countedChangeDone (rowKey E.chDisable c 0 / 256) (rowKey E.chDisable c 0 % 256)) s fun u => u.rd E.chDisable c = 1 ∧
      u.rd E.chDisableLeft c = 0 ∧ u.rd E.servedBy c = 0xFF ∧ enabledCh u c = false ∧
      (fuseWord u (413 + c.val / 16)).data = 7 * 2 ^ (3 * (c.val % 16)) ∧ u.otp.counted = [] ∧
      u.sent = .answer .fw okCode [] :: s.sent ∧ u.faultQ = s.faultQ := by
  refine ⟨_, (exec_countedChangeDone s _).trans (congrArg _ (countedDoneAct_eq hb hc (countedRow_chDisable c.isLt))), ?_⟩
  rw [countedEffect_disable]
  obtain ⟨s', hs'⟩ : ∃ s', s' = ({ s with otp := { s.otp with counted := [] } } : State) := ⟨_, rfl⟩
  obtain ⟨hempty, hsent, hfault, hblank'⟩ : s'.otp.counted = [] ∧ s'.sent = s.sent ∧ s'.faultQ = s.faultQ ∧
      fuseWord s' (413 + c.val / 16) = {} := by
    subst hs'
    exact ⟨rfl, rfl, rfl, hblank⟩
  rw [← hs']
  generalize hx : senseWord (blow s' (413 + c.val / 16) (tripled (2 ^ (c.val % 16)))) (413 + c.val / 16) (weakOf s' (413 + c.val / 16)) = x
  obtain ⟨⟨words, shadows, hxeq⟩, hdata, hbit⟩ := disableBit_programmed c.isLt hblank' hx.symm
  generalize hy : showDisable x c = y
  obtain ⟨hdisable, hleft, hyotp, hysent, hyfault⟩ := showDisable_set hbit hy.symm
  generalize hz : dropDisabled y c = z
  obtain ⟨hzdisable, hzleft, hzserved, hzotp, hzsent, hzfault⟩ := dropDisabled_leaves hdisable hz.symm
  have hotp : z.otp = x.otp := hzotp.trans hyotp
  have habsent : enabledCh (z.answer .fw okCode) c = false := by
    have hone : (z.answer .fw okCode).rd E.chDisable c = 1 := hzdisable
    rw [enabledCh, hone]
    simp
  refine ⟨hzdisable, hzleft.trans hleft, hzserved, habsent, ?_, ?_, ?_, ?_⟩
  · have hword : fuseWord (z.answer .fw okCode) (413 + c.val / 16) = fuseWord x (413 + c.val / 16) := by
      rw [fuseWord, fuseWord, ← hotp]
      rfl
    rw [hword, hdata]
  · have hcounted : z.otp.counted = [] := by rw [hotp, hxeq, ← hempty]
    exact hcounted
  · have hzs : z.sent = s.sent := by rw [hzsent, hysent, hxeq, ← hsent]
    exact congrArg (List.cons _) hzs
  · have hzf : z.faultQ = s.faultQ := by rw [hzfault, hyfault, hxeq, ← hfault]
    exact hzf

/-- The first change of a counted setting with records (R474, R475, R545, R546). -/
theorem countedChange_first {k : Counted} {v : Nat} (h : k ∈ countedRecords) (hb : brownout s = false)
    (hc : s.otp.counted = [(rowKey k.row 0 0, v, some .fw)]) (hblank : RecordsBlank s k) :
    Gives (.countedChangeDone (rowKey k.row 0 0 / 256) (rowKey k.row 0 0 % 256)) s fun u => u.rd k.row = v ∧
      u.rd k.left = k.max_ - 1 ∧ u.otp.counted = [] ∧ fuseWord u k.first = ⟨v, 0, true⟩ ∧ (fuseWord u k.slot).data = 7 ∧
      (∀ w, w ≠ k.first → w ≠ k.slot → fuseWord u w = fuseWord s w) ∧ u.sent = .answer .fw okCode [] :: s.sent ∧
      u.faultQ = s.faultQ ∧ ∀ x, u.byte x = s.byte x := by
  refine ⟨_, (exec_countedChangeDone s _).trans (congrArg _ (countedDoneAct_eq hb hc (recordWords h).row)), ?_⟩
  have hblank' : RecordsBlank { s with otp := { s.otp with counted := [] } } k := ⟨hblank.words, hblank.slot, hblank.slotShadow⟩
  generalize hu : countedEffect { s with otp := { s.otp with counted := [] } } k.row 0 v = u
  obtain ⟨hrow, hleft, hcounted, hfirst, hslot, hothers, hsent, hfault, hmem⟩ := countedEffect_first h hblank' v hu.symm
  exact ⟨hrow, hleft, hcounted, hfirst, hslot, hothers, congrArg (List.cons _) hsent, hfault, fun x => (congrArg (Memory.get · x) hmem :)⟩

/-- Settles O55: the writes by the checks of R473, the changes by their records and bits. -/
theorem countedSettingsChange : Obligations.CountedSettingsChange := by
  unfold Obligations.CountedSettingsChange
  refine ⟨fun r i v p s hr hacc c hc => countedSettingWrite_answers hr hacc hc, fun k v s h hb _ hc hwords hslot hshadow =>
    countedChange_first h hb hc ⟨hwords, hslot, hshadow⟩, fun c s hb hc hblank => countedChange_disables c hb hc hblank, fun index sub s hb => ?_⟩
  exact congrArg _ (show countedDoneAct (index * 256 + sub) s = s from if_pos hb)

end Sys2Proof.Machine
end

section
/-!
CERTIFICATE. Resets in a shutdown (R514, R516): a supply reset that a shutdown ignores sends it to step 5, in SAFE too.
-/
namespace Sys2Proof.Machine

theorem exec_supplyReset (s : State) (m : Dom) (b : Bool) : exec (.supplyReset m b) s = .next (supplyResetAct m b s) := rfl

/-- A shutdown is recorded in its step 4 while the device is in SAFE. -/
def safeInStepFour : State := { State.reset with dev := .safe, shut := some ⟨4, false, 0⟩ }

/-- The reset that is ignored sends the shutdown to step 5 (R512, R514). -/
theorem supplyReset_safeInStepFour :
    exec (.supplyReset 0 false) safeInStepFour = .next { safeInStepFour with shut := some ⟨5, false, 0⟩ } := by
  have hact : supplyResetAct 0 false safeInStepFour = stepFive safeInStepFour := rfl
  rw [exec_supplyReset]
  exact congrArg _ (hact.trans (stepFive_late (x := ⟨4, false, 0⟩) rfl rfl rfl))

/-- Refutes O59: the statement says that in SAFE a supply reset changes nothing while a shutdown is recorded; one whose step is
below 5 goes to step 5. The counterexample: SAFE, with a shutdown in step 4. -/
theorem not_resetsLeaveBoot : ¬Obligations.ResetsLeaveBoot := by
  unfold Obligations.ResetsLeaveBoot
  intro h
  obtain ⟨-, -, -, hignored⟩ := h safeInStepFour
  obtain ⟨-, -, hsupply⟩ := hignored (.inr rfl)
  have hstep := congrArg State.shutStep (Host.Outcome.next.inj ((supplyReset_safeInStepFour.symm).trans (hsupply rfl 0)))
  exact absurd hstep (by decide)

end Sys2Proof.Machine
end

section
/-!
CERTIFICATE. Start-up (R535, R552): the boot firmware reinforces a weak word, which may set a bit of it.
-/
namespace Sys2Proof.Machine

variable {s t u : State}

theorem exec_otpSensingDone (s : State) (weak : List (Fin 512)) :
    exec (.otpSensingDone weak) s = .next (sensingAct (weak.map Fin.val) s) := rfl

/-! ### Sensing the array -/

theorem senseOf_weak (w : Nat) (x : OtpWord) (weak : Bool) : (senseOf w x weak).weak = weak := by
  unfold senseOf
  split
  · rfl
  · split
    · rfl
    · split <;> rfl

/-- Sensing words changes their shadows, by their bits, and reports the errors found. -/
theorem foldl_senseWord (f : Nat → Bool) : ∀ (l : List Nat) (s : State), (∃ shadows q,
      l.foldl (fun s w => senseWord s w (f w)) s = { s with otp := { s.otp with shadows := shadows }, faultQ := q }) ∧
    ∀ w, fuseShadow (l.foldl (fun s w => senseWord s w (f w)) s) w =
      if w ∈ l then senseOf w (fuseWord s w) (f w) else fuseShadow s w
  | [], s => ⟨⟨_, _, rfl⟩, fun _ => rfl⟩
  | k :: l, s => by
    generalize hv : senseWord s k (f k) = v
    obtain ⟨q, -, hveq⟩ := senseWord_leaves s k (f k) hv.symm
    have hput : v.otp.shadows = aput {} k (senseOf k (fuseWord s k) (f k)) s.otp.shadows := by rw [hveq]
    obtain ⟨hself, hothers⟩ := fuseShadow_of_put hput
    have hword (w : Nat) : fuseWord v w = fuseWord s w := by
      rw [hveq]
      rfl
    obtain ⟨⟨shadows, q', hrest⟩, hall⟩ := foldl_senseWord f l v
    rw [List.foldl_cons, hv]
    refine ⟨⟨shadows, q', by rw [hrest, hveq]⟩, fun w => ?_⟩
    rw [hall w, hword w]
    by_cases hw : w ∈ l
    · rw [if_pos hw, if_pos (List.mem_cons_of_mem k hw)]
    · rw [if_neg hw]
      by_cases hwk : w = k
      · subst hwk
        rw [hself, if_pos List.mem_cons_self]
      · rw [hothers w hwk, if_neg (by simp [hwk, hw])]

/-- What the reports after the sensing leave as they were. -/
structure SensedAs (s t : State) : Prop where
  words : t.otp.words = s.otp.words
  shadows : t.otp.shadows = s.otp.shadows
  wires : t.otp.wires = s.otp.wires
  sup : t.sup = s.sup

theorem reportWeak_sensedAs (s : State) : SensedAs s (reportWeak s) := by
  unfold reportWeak
  split <;> exact ⟨rfl, rfl, rfl, rfl⟩

theorem reportUnsealed_sensedAs (s : State) : SensedAs s (reportUnsealed s) := by
  unfold reportUnsealed
  split <;> exact ⟨rfl, rfl, rfl, rfl⟩

theorem SensedAs.trans (h : SensedAs s t) (h' : SensedAs t u) : SensedAs s u :=
  ⟨h'.words.trans h.words, h'.shadows.trans h.shadows, h'.wires.trans h.wires, h'.sup.trans h.sup⟩

/-! ### The counterexample -/

/-- After a reset; of the three cells of the first bit of word 410 one is left partly programmed (R603). -/
def partlyBurnt : State := { State.reset with otp := { words := factoryOtp ++ [(410, { data := 3 })], wires := 0x8080, partly := [410] } }

theorem fuse_eq (s : State) (w : Nat) : s.fuse w = (fuseShadow s w).data := rfl

/-- The array is sensed, its partly programmed words as weak ones, and its findings are reported (R535, R536, R603). -/
theorem senseArray_reported (s : State) (hu : u = reportUnsealed (reportWeak (senseArray [] s))) : u.otp.words = s.otp.words ∧
    u.otp.wires = s.otp.wires ∧ u.sup = s.sup ∧ ∀ w, w < 512 → fuseShadow u w = senseOf w (fuseWord s w) (s.otp.partly.contains w) := by
  obtain ⟨hwords, hshadows, hwires, hsup⟩ := (reportWeak_sensedAs (senseArray [] s)).trans (reportUnsealed_sensedAs _)
  rw [← hu] at hwords hshadows hwires hsup
  obtain ⟨s', hs'⟩ : ∃ s', s' = ({ s with acted := [], otp := { s.otp with sensed := true, partly := [] } } : State) := ⟨_, rfl⟩
  have harray : senseArray [] s = allWords.foldl (fun t w => senseWord t w (s.otp.partly.contains w)) s' := hs' ▸ rfl
  obtain ⟨⟨shadows, q, heq⟩, hall⟩ := foldl_senseWord (fun w => s.otp.partly.contains w) allWords s'
  rw [← harray] at heq hall
  generalize senseArray [] s = v at *
  obtain ⟨hvwords, hvwires, hvsup⟩ : v.otp.words = s.otp.words ∧ v.otp.wires = s.otp.wires ∧ v.sup = s.sup := by
    rw [heq, hs']
    exact ⟨rfl, rfl, rfl⟩
  have hword (w : Nat) : fuseWord s' w = fuseWord s w := by
    rw [hs']
    rfl
  refine ⟨hwords.trans hvwords, hwires.trans hvwires, hsup.trans hvsup, fun w hw => ?_⟩
  have hshadow : fuseShadow u w = fuseShadow v w := by rw [fuseShadow, hshadows, fuseShadow]
  have hmem : w ∈ allWords := List.mem_range.mpr hw
  rw [hshadow, hall w, if_pos hmem, hword]

theorem sound_partlyBurnt (hwires : u.otp.wires = partlyBurnt.otp.wires) (hshadow : ∀ w, w < 512 →
      fuseShadow u w = senseOf w (fuseWord partlyBurnt w) (partlyBurnt.otp.partly.contains w)) :
    wiresSound u = true ∧ variantSound u = true := by
  have hwire : wire u = bit 0x8080 := funext fun j => by
    rw [wire, hwires]
    rfl
  have hzero := hshadow 0 (by decide)
  have hsense : senseOf 0 (fuseWord partlyBurnt 0) (partlyBurnt.otp.partly.contains 0) =
      { raw := 0x01015F000000, data := 0x01015F000000, sealed := true } := by decide
  rw [hsense] at hzero
  have hfuse : u.fuse 0 = 0x01015F000000 := by rw [fuse_eq, hzero]
  constructor
  · simp only [wiresSound, hwire]
    decide
  · simp only [variantSound, State.grade, hfuse, hzero, hwire]
    decide

/-- The one weak word. -/
theorem weak_partlyBurnt (h : t.otp.shadows = u.otp.shadows) (hu : ∀ w, w < 512 →
      fuseShadow u w = senseOf w (fuseWord partlyBurnt w) (partlyBurnt.otp.partly.contains w)) : allWords.filter (weakOf t) = [410] := by
  have hweak : ∀ w ∈ allWords, weakOf t w = (w == 410) := fun w hw => by
    have hshadow : fuseShadow t w = fuseShadow u w := by rw [fuseShadow, h, fuseShadow]
    rw [weakOf, hshadow, hu w (List.mem_range.mp hw), senseOf_weak]
    exact Bool.or_false _
  have hcount : List.count 410 allWords = 1 := List.count_eq_one_of_mem List.nodup_range (List.mem_range.mpr (by decide))
  rw [List.filter_congr hweak, List.filter_beq, hcount]
  rfl

/-- Its reinforcement sets the third cell (R541, R552). -/
theorem reinforceWeak_sets (hword : fuseWord s 410 = { data := 3 }) (hshadow : (fuseShadow s 410).data = 1) :
    (fuseWord (reinforceWeak s 410) 410).data = 7 := by
  have hreinforce : reinforce s 410 = setFuseWord s 410 { data := 7 } := by
    have hblow : reinforce s 410 = blow s 410 (tripled (fuseShadow s 410).data) := by
      unfold reinforce
      exact if_pos (by decide)
    rw [hblow, hshadow, blow, hword]
    rfl
  unfold reinforceWeak
  rw [hreinforce]
  have hset : fuseWord (setFuseWord s 410 { data := 7 }).draw.2 410 = { data := 7 } := fuseWord_setFuseWord ..
  have hsensed (v : State) (b : Bool) : fuseWord (senseWord v 410 b) 410 = fuseWord v 410 := by
    obtain ⟨q, -, heq⟩ := senseWord_leaves v 410 b rfl
    rw [heq]
    rfl
  exact (congrArg OtpWord.data ((hsensed _ _).trans hset) :)

/-- The checks of the boot firmware change no fuse but by a reinforcement (R552). -/
theorem fuseChecks_words (s : State) (hb : brownout s = false) (hu : u = fuseChecks s) : ∃ t, t.otp.words = s.otp.words ∧
    t.otp.shadows = s.otp.shadows ∧ u.otp.words = (((allWords.filter (weakOf t)).take 16).foldl reinforceWeak t).otp.words := by
  have hreports (f : State → Nat → State) (hf : ∀ s w, (f s w).otp = s.otp ∧ (f s w).sup = s.sup ∧ (f s w).doms = s.doms) (l : List Nat)
      (s : State) : (l.foldl f s).otp = s.otp ∧ (l.foldl f s).sup = s.sup ∧ (l.foldl f s).doms = s.doms :=
    ⟨foldl_keeps State.otp f (fun s w => (hf s w).1) l s, foldl_keeps State.sup f (fun s w => (hf s w).2.1) l s,
      foldl_keeps State.doms f (fun s w => (hf s w).2.2) l s⟩
  have hwire := hreports (fun s w => s.report 0xC8 4 w) (fun _ _ => ⟨rfl, rfl, rfl⟩) (mismatchedWords s)
    { s with otp := { s.otp with mismatch := !(mismatchedWords s).isEmpty } }
  have htrim := hreports (fun s w => if unusable s true w then s.report 0xC8 2 w else s)
    (fun s w => by split <;> exact ⟨rfl, rfl, rfl⟩) ((List.range 10).map (· + 6))
  have hkey := hreports (fun s w => if unusable s false w then s.report 0xC8 2 w else s)
    (fun s w => by split <;> exact ⟨rfl, rfl, rfl⟩) ((List.range 7).map (· + 16))
  unfold fuseChecks at hu
  dsimp only at hu
  generalize (mismatchedWords s).foldl (fun s w => s.report 0xC8 4 w)
    { s with otp := { s.otp with mismatch := !(mismatchedWords s).isEmpty } } = t at *
  obtain ⟨hotp, hsup, hdoms⟩ := hwire
  have hquiet : brownout t = false := by
    rw [← hb]
    unfold brownout monitorOn State.domOn State.domState
    rw [hsup, hdoms]
  rw [hquiet, if_neg Bool.false_ne_true] at hu
  refine ⟨t, by rw [hotp], by rw [hotp], ?_⟩
  rw [hu, (hkey _).1, (htrim _).1]

/-- Refutes O60: the statement says that sensing changes no fuse; the boot firmware then reinforces a weak word (R552). The
counterexample: word 410 was left with two of the three cells of its first bit programmed. -/
theorem not_startUpReachesReady : ¬Obligations.StartUpReachesReady := by
  unfold Obligations.StartUpReachesReady
  rintro ⟨hsense, -⟩
  obtain ⟨u, hexec, -, -, hfuses, -⟩ := hsense partlyBurnt rfl rfl
  generalize hv : reportUnsealed (reportWeak (senseArray [] partlyBurnt)) = v
  obtain ⟨hwords, hwires, hsup, hshadow⟩ := senseArray_reported partlyBurnt hv.symm
  obtain ⟨hwire, hvariant⟩ := sound_partlyBurnt hwires hshadow
  have hact : sensingAct [] partlyBurnt = fuseChecks v := by
    have hchecks : sensingAct [] partlyBurnt = if !wiresSound (reportUnsealed (reportWeak (senseArray [] partlyBurnt))) ||
        !variantSound (reportUnsealed (reportWeak (senseArray [] partlyBurnt))) then
        integritySafe (reportUnsealed (reportWeak (senseArray [] partlyBurnt)))
      else fuseChecks (reportUnsealed (reportWeak (senseArray [] partlyBurnt))) := if_neg (by decide)
    rw [hchecks, hv, hwire, hvariant]
    rfl
  have hquiet : brownout v = false := by
    rw [brownout, hsup]
    rfl
  obtain ⟨t, htwords, htshadows, htu⟩ := fuseChecks_words v hquiet rfl
  rw [weak_partlyBurnt htshadows hshadow] at htu
  have hword : fuseWord t 410 = { data := 3 } := by
    rw [fuseWord, htwords, hwords]
    decide
  have hdata : (fuseShadow t 410).data = 1 := by
    have hone : fuseShadow t 410 = fuseShadow v 410 := by rw [fuseShadow, htshadows, fuseShadow]
    rw [hone, hshadow 410 (by decide)]
    decide
  have hseven := reinforceWeak_sets hword hdata
  have hu : u = fuseChecks v := by rw [← hact]; exact (Host.Outcome.next.inj hexec).symm
  have hthree := hfuses 410
  have hthen : fuseWord u 410 = fuseWord (reinforceWeak t 410) 410 := by
    rw [fuseWord, hu, htu]
    rfl
  rw [hthen] at hthree
  rw [hthree] at hseven
  exact absurd hseven (by decide)

end Sys2Proof.Machine
end

section
/-!
CERTIFICATE. The register maps of the Finup personas and their image frames (R574 to R578, R583, R586, R590 to R592).
-/
namespace Sys2Proof.Machine

variable {s t u : State} {p : Persona} {v : Nat}

/-! ### The local host port -/

theorem mapRead_open (h : personaPort s p = true) {w : Nat} : mapRead s p w =
    if w = 3 then (s.answer .lhp okCode (toBytes 2 (wordRead s p w))).setPersona p { s.persona p with latched := 0 }
    else if w = 0x0E then (s.answer .lhp okCode (toBytes 2 (wordRead s p w))).setPersona p { s.persona p with frameErr := 0 }
    else if w = 0x0F then (s.answer .lhp okCode (toBytes 2 (wordRead s p w))).setPersona p { s.persona p with skips := 0 }
    else s.answer .lhp okCode (toBytes 2 (wordRead s p w)) := by
  rw [mapRead, h]
  rfl

theorem mapWrite_open (h : personaPort s p = true) (hs : s.superseded noTarget = false) {w : Nat} :
    mapWrite s p w v = wordWrite s p w v := by
  rw [mapWrite, h, hs]
  rfl

/-! ### Words -/

/-- A word that nothing sets does nothing. -/
theorem wordWrite_fixed {w : Nat} (hctrl : w ≠ 2) (h : wordFixed w = true) : wordWrite s p w v = s := by
  rw [wordWrite, if_neg hctrl, if_pos h]

theorem wordWrite_refused {w : Nat} (hctrl : w ≠ 2) (hfixed : wordFixed w = false) (hv : v < 65536)
    (h : wordRange w v = false ∨ (wordHeld w = true ∧ (s.persona p).run = true)) :
    wordWrite s p w v = wrIgnored s p := by
  have hcond : (!wordRange w v || (wordHeld w && (s.persona p).run)) = true := by
    rcases h with h | ⟨h, h'⟩ <;> simp [*]
  rw [wordWrite, if_neg hctrl, hfixed, Nat.mod_eq_of_lt hv, hcond]
  rfl

theorem wordWrite_taken {w : Nat} (hctrl : w ≠ 2) (hfixed : wordFixed w = false) (hv : v < 65536)
    (hrange : wordRange w v = true) (hfree : wordHeld w = false ∨ (s.persona p).run = false) :
    wordWrite s p w v = if w = 0x15 then waveDataAct s p v else if w = 0x17 then setWord s p w (v % 2)
      else (wordEffect (setWord s p w v) p w).stale := by
  have hcond : (!wordRange w v || (wordHeld w && (s.persona p).run)) = false := by
    rcases hfree with h | h <;> simp [h, hrange]
  rw [wordWrite, if_neg hctrl, hfixed, Nat.mod_eq_of_lt hv, hcond]
  rfl

/-- A word without an effect of its own is stored. -/
theorem wordWrite_stored {w : Nat} (hplain : wordFixed w = false ∧ wordHeld w = false ∧ w ∉ [2, 0x15, 0x17]) (hv : v < 65536)
    (hrange : wordRange w v = true) : wordWrite s p w v = (setWord s p w v).stale := by
  obtain ⟨hfixed, hheld, hw⟩ := hplain
  simp only [List.mem_cons, List.not_mem_nil, or_false, not_or] at hw
  obtain ⟨hctrl, hwave, hext⟩ := hw
  have heffect (t : State) : wordEffect t p w = t := by
    have hne : w ≠ 5 ∧ w ≠ 6 ∧ w ≠ 7 ∧ w ≠ 8 ∧ w ≠ 0x0B ∧ w ≠ 0x0C := by
      refine ⟨?_, ?_, ?_, ?_, ?_, ?_⟩ <;> rintro rfl <;> revert hheld <;> decide
    simp [wordEffect, hne]
  rw [wordWrite_taken hctrl hfixed hv hrange (.inl hheld), if_neg hwave, if_neg hext, heffect]

theorem pWord_setWord (s : State) (p w v : Nat) : pWord (setWord s p w v) p w = v := by
  rw [pWord, setWord, State.setPersona_same]
  exact aget_ains_same ..

/-- A word of a delay is plain (R583). -/
theorem delayWord_plain (i : Fin 32) : (wordFixed (0x20 + i) = false ∧ wordHeld (0x20 + i) = false ∧
    0x20 + i.val ∉ [2, 0x15, 0x17]) ∧ ∀ v, wordRange (0x20 + i) v = true := by
  refine ⟨by revert i; decide, fun v => ?_⟩
  fin_cases i <;> rfl

/-- LINE_PITCH alone follows the words (R570). -/
theorem personaPitch_eq (s : State) : personaPitch s = s ∨ ∃ v, personaPitch s = (s.wr E.linePitch v).stale := by
  unfold personaPitch
  split
  · exact .inl rfl
  · dsimp only
    generalize (if personaOn s s.obs.active then pWord s s.obs.active 6 else 10) = d
    split
    · exact .inl rfl
    · exact .inr ⟨_, rfl⟩

theorem personaPitch_leaves (s : State) (hu : u = personaPitch s) : u.personas = s.personas ∧ u.otp = s.otp ∧
    SameBut s u [rowKey E.linePitch 0 0] := by
  rcases personaPitch_eq s with h | ⟨v, h⟩ <;> rw [h] at hu <;> subst hu
  · exact ⟨rfl, rfl, .refl _ _⟩
  · exact ⟨rfl, rfl, ((SameBut.refl s _).wr (by simp) _).withStale true⟩

theorem pWord_congr (hpersonas : t.personas = s.personas) (hotp : t.otp = s.otp) (p w : Nat) : pWord t p w = pWord s p w := by
  have hfuse (w : Nat) : t.fuse w = s.fuse w := by rw [State.fuse, State.fuse, hotp]
  simp only [pWord, wordReset, hfuse, State.persona, hpersonas]

theorem wordEffect_encDiv (s : State) (p : Nat) : wordEffect s p 6 = personaPitch s :=
  (if_neg (by decide)).trans (if_pos rfl)

/-- ENC_DIV is stored, and LINE_PITCH follows it (R570, R574). -/
theorem encDiv_stored (h : personaPort s p = true) (hs : s.superseded noTarget = false) (hv : v < 65536)
    (hrun : (s.persona p).run = false) (hlow : 1 ≤ v) (hhigh : v ≤ 4095) :
    Gives (.finupRegisterWrite p 6 v) s fun u => pWord u p 6 = v ∧ (u.persona p).latched = (s.persona p).latched ∧
      SameBut s u [rowKey E.linePitch 0 0] := by
  have hrange : wordRange 6 v = true := decide_eq_true ⟨hlow, hhigh⟩
  have hw : mapWrite s p 6 v = (personaPitch (setWord s p 6 v)).stale := by
    rw [mapWrite_open h hs, wordWrite_taken (by decide) rfl hv hrange (.inr hrun), if_neg (by decide), if_neg (by decide),
      wordEffect_encDiv]
  generalize hx : personaPitch (setWord s p 6 v) = x at hw
  obtain ⟨hpersonas, hotp, hsame⟩ := personaPitch_leaves (setWord s p 6 v) hx.symm
  have hword : pWord (setWord s p 6 v) p 6 = v := pWord_setWord s p 6 v
  have hlatched : ((setWord s p 6 v).persona p).latched = (s.persona p).latched := by rw [setWord, State.setPersona_same]
  have hset : SameBut s (setWord s p 6 v) [rowKey E.linePitch 0 0] := .refl s _
  generalize setWord s p 6 v = w at hpersonas hotp hsame hword hlatched hset
  refine ⟨_, congrArg Host.Outcome.next hw, ?_, ?_, ?_⟩
  · exact (pWord_congr (t := x.stale) hpersonas hotp p 6).trans hword
  · rw [← hlatched, State.persona, State.persona, ← hpersonas]
    rfl
  · exact (hset.trans hsame).mono (by simp) |>.withStale true

/-! ### Waveform samples -/

/-- A sample of one channel that is not the last one is stored, and the address advances (R586). -/
theorem waveDataAct_one {ch a : Nat} (hch : ch = pWord s p 0x13) (hlt : ch < 32) (ha : a = pWord s p 0x14) (ha' : a < 255) :
    waveDataAct s p v = setWord (s.setBytes (personaWave p ch + 2 * a) (toBytes 2 v)) p 0x14 (a + 1) := by
  have hne : ch ≠ 0x20 := by omega
  have hlast : a ≠ 255 := by omega
  have hnext : (a + 1) % 256 = a + 1 := Nat.mod_eq_of_lt (by omega)
  unfold waveDataAct
  rw [← hch, ← ha]
  dsimp only
  rw [if_neg hne, if_neg hlast, hnext]
  rfl

theorem waveSample_stored (h : personaPort s p = true) (hs : s.superseded noTarget = false) (hv : v < 1024) {ch a : Nat}
    (hch : ch = pWord s p 0x13) (hlt : ch < 32) (ha : a = pWord s p 0x14) (ha' : a < 255) :
    Gives (.waveDataWrite p v) s fun u => pWord u p 0x14 = a + 1 ∧ u.bytes (personaWave p ch + 2 * a) 2 = toBytes 2 v ∧
      (∀ x, ¬(personaWave p ch + 2 * a ≤ x ∧ x < personaWave p ch + 2 * a + 2) → u.byte x = s.byte x) ∧
      u.engs = s.engs ∧ ∀ r i j, u.rd r i j = s.rd r i j := by
  have hrange : wordRange 0x15 v = true := decide_eq_true hv
  have hw : mapWrite s p 0x15 v = setWord (s.setBytes (personaWave p ch + 2 * a) (toBytes 2 v)) p 0x14 (a + 1) :=
    ((mapWrite_open h hs).trans (wordWrite_taken (by decide) rfl (by omega) hrange (.inl rfl))).trans
      (waveDataAct_one hch hlt ha ha')
  refine ⟨_, congrArg Host.Outcome.next hw, pWord_setWord _ _ _ _, ?_, fun x hx => ?_, rfl, fun _ _ _ => rfl⟩
  · exact State.bytes_setBytes _ _ _ _ (length_toBytes ..)
  · exact State.byte_setBytes _ _ _ _ hx

/-! ### CTRL -/

/-- CTRL reads DROP2 and RUN (R575). -/
theorem ctrlHeld_eq (s : State) (p : Nat) : ctrlHeld s p = flag (s.persona p).drop2 1 + flag (s.persona p).run 0 := rfl

theorem dropAct_held (s : State) (p : Nat) : dropAct s p (s.persona p).drop2 = s := if_pos rfl

/-- The bits of CTRL. -/
theorem ctrlBits : ∀ b0 b1 b2 b3 : Bool, (fun w => w < 16 ∧ bit w 0 = b0 ∧ bit w 1 = b1 ∧ bit w 2 = b2 ∧ bit w 3 = b3)
    (flag b0 0 + flag b1 1 + flag b2 2 + flag b3 3) := by decide

/-- A write of CTRL that keeps DROP2: RESET_BUF, RUN and SOFT_TRIG in this order (R575). -/
theorem ctrlAct_kept {w : Nat} {b0 b2 b3 : Bool} (hw : w = flag b0 0 + flag (s.persona p).drop2 1 + flag b2 2 + flag b3 3)
    (ht : t = if b3 then resetBufAct s p else s)
    (hu : u = if b0 then (if (s.persona p).run && s.busyJob then t else runAct t p)
      else if (s.persona p).run then stopRun t p else t) :
    mapWrite s p 2 w = if !personaPort s p || s.superseded noTarget then s
      else ((if b2 then softTrig u p else u).stale) := by
  obtain ⟨hlt, h0, h1, h2, h3⟩ : w < 16 ∧ bit w 0 = b0 ∧ bit w 1 = (s.persona p).drop2 ∧ bit w 2 = b2 ∧ bit w 3 = b3 :=
    hw ▸ ctrlBits b0 (s.persona p).drop2 b2 b3
  have hkept : (t.persona p).run = (s.persona p).run ∧ t.busyJob = s.busyJob := by
    subst ht
    split
    · exact ⟨by rw [resetBufAct, State.setPersona_same], rfl⟩
    · exact ⟨rfl, rfl⟩
  have hmod : w % 65536 = w := Nat.mod_eq_of_lt (by omega)
  have hwrite : wordWrite s p 2 w = (if b2 then softTrig u p else u).stale := by
    rw [wordWrite, if_pos rfl, hmod, ctrlAct, if_neg (by omega), h1, dropAct_held, h0, h2, h3]
    dsimp only
    rw [← ht, hkept.1, hkept.2, ← hu]
  rw [mapWrite, hwrite]

theorem resetBuf_empties (h : personaPort s p = true) (hs : s.superseded noTarget = false)
    (hrest : (s.persona p).run = false ∨ s.busyJob = true) : exec (.resetBuf p) s = .next ((s.setPersona p { s.persona p with
      loadReady := false, endWait := false }).withStale true) := by
  have hbits : ctrlHeld s p ||| 8 =
      flag (s.persona p).run 0 + flag (s.persona p).drop2 1 + flag false 2 + flag true 3 := by
    rw [ctrlHeld_eq]
    generalize (s.persona p).run = b0
    generalize (s.persona p).drop2 = b1
    revert b0 b1
    decide
  have hwrite := ctrlAct_kept hbits rfl rfl
  rw [h, hs] at hwrite
  refine congrArg Host.Outcome.next (hwrite.trans ?_)
  rcases hrest with hrun | hbusy
  · simp [hrun, resetBufAct, State.stale, State.withStale]
  · rw [hbusy]
    cases (s.persona p).run <;> rfl

/-! ### Image frames -/

theorem execFrame_eq (s : State) (p : Persona) (f : Frame) (d : List Byte) : exec (.finupImageFrame p f d) s =
    .next (if framesArrive s p && imageFor s p f then imageFrame s p (imageOk f) d else s) := rfl

/-- A frame that is damaged, of another type or late is discarded (R591). -/
theorem imageFrame_dropped {ok : Bool} {d : List Byte} (h : ok = false ∨ (s.persona p).loadReady = true ∨ d.length < 12 ∨
    field d 0 1 = 0x12) : imageFrame s p ok d = dropImage s p := by
  by_cases hshort : (!ok || d.length < 12) = true
  · unfold imageFrame
    rw [if_pos hshort]
  · simp only [Bool.or_eq_true, Bool.not_eq_true', decide_eq_true_eq, not_or] at hshort
    obtain ⟨hok, hlen⟩ := hshort
    have hrest : (s.persona p).loadReady = true ∨ field d 0 1 = 0x12 :=
      (h.resolve_left hok).imp_right (·.resolve_left hlen)
    unfold imageFrame
    dsimp only
    rw [if_neg (by simp [hok, hlen])]
    rcases hrest with hload | htype
    · rw [endPageFrame, if_pos hload, if_pos hload]
      split
      · rfl
      · split <;> rfl
    · rw [htype, if_neg (by decide), if_pos (.inl (by decide))]

/-- Line data with an open load buffer goes to memory, or waits for it (R591, R592). -/
theorem imageFrame_lands {d : List Byte} {n a : Nat} (hload : (s.persona p).loadReady = false) (hn : n = field d 8 2)
    (hlen : 12 + n ≤ d.length) (htype : field d 0 1 = 0x10) (hline : field d 2 4 < pWord s p 8) (hofs : field d 6 2 + n ≤ 512)
    (ha : a = imageAddr s p (field d 2 4) (field d 1 1 % 32) (field d 6 2)) (hreach : reachAll s a n ≠ .refused) :
    imageFrame s p true d = (if reachAll s a n = .silent then holdWrite s ⟨a, (d.drop 12).take n, none⟩
      else logicalWrite s a ((d.drop 12).take n)).count48 E.framesOk p := by
  have hgood : ¬((!true || d.length < 12) = true) := by simp; omega
  have hfits : ¬(field d 0 1 ≠ 0x10 ∨ pWord s p 8 ≤ field d 2 4 ∨ 512 < field d 6 2 + field d 8 2 ∨
      d.length < 12 + field d 8 2) := by omega
  unfold imageFrame
  dsimp only
  rw [if_neg hgood, if_neg (by omega), if_neg hfits, if_neg (by simp [hload]), ← ha, ← hn]
  split
  next h => exact absurd h hreach
  next h => rw [if_pos h]
  next h => rw [if_neg (by simp [h])]

/-- The state without its memories. -/
def beyondDram (s : State) : State := { s with mem := [], memory := {} }

theorem touchRank_beyondDram (s : State) (k n : Nat) (w : Bool) : beyondDram (touchRank s k n w) = beyondDram s := rfl
theorem dramWrite_beyondDram (s : State) (a : Nat) (l : List Byte) : beyondDram (dramWrite s a l) = beyondDram s := rfl

theorem logicalPut_beyondDram (s : State) (a : Nat) (l : List Byte) : beyondDram (logicalPut s a l) = beyondDram s := by
  unfold logicalPut
  split
  · dsimp only
    split <;> simp only [dramWrite_beyondDram, touchRank_beyondDram]
  · rfl

/-- A write of memory changes the memories alone (R308). -/
theorem logicalWrite_beyondDram (s : State) (a : Nat) (l : List Byte) : beyondDram (logicalWrite s a l) = beyondDram s :=
  foldl_keeps beyondDram _ (fun s (r : Nat × Nat) => logicalPut_beyondDram s r.1 _) _ s

theorem imageFrame_leaves {d : List Byte} {n a : Nat} (hlands : imageFrame s p true d =
    (if reachAll s a n = .silent then holdWrite s ⟨a, (d.drop 12).take n, none⟩
      else logicalWrite s a ((d.drop 12).take n)).count48 E.framesOk p) (hu : u = imageFrame s p true d) :
    (u.mem = if reachAll s a n = .silent then s.mem else (logicalWrite s a ((d.drop 12).take n)).mem) ∧
    (reachAll s a n = .silent → u.memory.waiting = s.memory.waiting ++ [⟨a, (d.drop 12).take n, none⟩]) ∧
    u.rd E.framesOk p = wrap48 (s.rd E.framesOk p + 1) ∧ u.persona p = s.persona p ∧ u.faultQ = s.faultQ ∧
    ∀ r i j, rowKey r i j ≠ rowKey E.framesOk p 0 → u.rd r i j = s.rd r i j := by
  have hbeyond := logicalWrite_beyondDram s a ((d.drop 12).take n)
  generalize (d.drop 12).take n = l at hlands hbeyond ⊢
  generalize logicalWrite s a l = w at hlands hbeyond ⊢
  obtain ⟨v, hv⟩ : ∃ v, v = if reachAll s a n = .silent then holdWrite s ⟨a, l, none⟩ else w := ⟨_, rfl⟩
  rw [← hv] at hlands
  obtain ⟨hmem, hwait, hsame⟩ : (v.mem = if reachAll s a n = .silent then s.mem else w.mem) ∧
      (reachAll s a n = .silent → v.memory.waiting = s.memory.waiting ++ [⟨a, l, none⟩]) ∧ beyondDram v = beyondDram s := by
    subst hv
    split
    · exact ⟨rfl, fun _ => rfl, rfl⟩
    next h => exact ⟨rfl, fun h' => absurd h' h, hbeyond⟩
  obtain ⟨hdict, hpersonas, hfault⟩ : v.dict = s.dict ∧ v.personas = s.personas ∧ v.faultQ = s.faultQ :=
    ⟨(congrArg State.dict hsame :), (congrArg State.personas hsame :), (congrArg State.faultQ hsame :)⟩
  have hrd (r : Row) (i j : Nat) : v.rd r i j = s.rd r i j := by rw [State.rd, State.rd, hdict]
  rw [hu, hlands]
  refine ⟨hmem, hwait, ?_, ?_, hfault, fun r i j hk => (State.rd_wr _ _ _ _ _ _ _ _ hk).trans (hrd ..)⟩
  · exact (State.rd_wr_same ..).trans (by rw [hrd]; rfl)
  · exact (congrArg (fun l => aget _ p.val l) hpersonas :)

theorem dropImage_shown (s : State) (p : Persona) : dropImage s p = s.setPersona p { s.persona p with
    frameErr := min 65535 ((s.persona p).frameErr + 1), latched := (s.persona p).latched ||| 16 } := rfl

/-! ### The load buffer -/

theorem exec_loadReady (s : State) (p : Persona) : exec (.loadReady p) s = .next (loadReadyAct s p) := rfl
theorem exec_endOfPage (s : State) (p : Persona) :
    exec (.endOfPage p) s = .next (if framesArrive s p then endPageFrame s p else s) := rfl

theorem personaOn_of_port (h : personaPort s p = true) : personaOn s p = true :=
  (Bool.and_eq_true_iff.mp (Bool.and_eq_true_iff.mp h).1).2

theorem loadReadyAct_waits (h : (s.persona p).endWait = false ∨ frameWaits s p = true) : loadReadyAct s p = s := by
  rw [loadReadyAct]
  rcases h with h | h <;> exact if_neg (by simp [h])

theorem loadReadyAct_ready (hon : personaOn s p = true) (h : (s.persona p).endWait = true) (hw : frameWaits s p = false) :
    loadReadyAct s p = s.setPersona p { s.persona p with loadReady := true, endWait := false } := by
  rw [loadReadyAct]
  exact if_pos (by simp [h, hon, hw])

/-- Settles O58. -/
theorem personaRegistersAndFrames : Obligations.PersonaRegistersAndFrames := by
  unfold Obligations.PersonaRegistersAndFrames
  intro p s hport
  have hread (w : Nat) := mapRead_open hport (w := w)
  refine ⟨congrArg Host.Outcome.next (hread 3), congrArg Host.Outcome.next (hread 0x0E), congrArg Host.Outcome.next (hread 0x0F),
    fun hs v hv => ?_, fun harrive => ?_, fun hwait hfree => ?_, fun h => ?_⟩
  · have hwrite (w : Nat) : mapWrite s p w v = wordWrite s p w v := mapWrite_open hport hs
    refine ⟨fun w hw => ?_, ?_, fun h => ?_, fun hrun => encDiv_stored hport hs hv hrun, fun i => ?_,
      fun ch a hv' hch hlt ha ha' => waveSample_stored hport hs hv' hch hlt ha ha', resetBuf_empties hport hs⟩
    · have hfixed : w.val ≠ 2 ∧ wordFixed w = true := by
        revert w
        decide
      exact congrArg Host.Outcome.next ((hwrite w).trans (wordWrite_fixed hfixed.1 hfixed.2))
    · exact congrArg Host.Outcome.next ((hwrite 4).trans (wordWrite_stored (by decide) hv rfl))
    · refine congrArg Host.Outcome.next ((hwrite 6).trans (wordWrite_refused (by decide) rfl hv ?_))
      refine h.elim (fun hrun => .inr ⟨rfl, hrun⟩) fun h => .inl (decide_eq_false ?_)
      omega
    · obtain ⟨hplain, hrange⟩ := delayWord_plain i
      exact congrArg Host.Outcome.next ((hwrite (0x20 + i)).trans (wordWrite_stored hplain hv (hrange v)))
  · refine ⟨fun hload => ?_, fun f d hfor => ?_, fun f d hfor hbad => ?_, fun f d n a hfor hok hload hn hlen htype hline hofs ha hreach => ?_⟩
    · rw [exec_endOfPage, harrive, if_pos rfl, endPageFrame, hload]
      rfl
    · rw [execFrame_eq, hfor, Bool.and_false]
      rfl
    · rw [execFrame_eq, hfor, harrive, imageFrame_dropped hbad, dropImage_shown]
      rfl
    · rw [Gives, execFrame_eq, hfor, harrive, hok]
      exact ⟨_, rfl, imageFrame_leaves (imageFrame_lands hload hn hlen htype hline hofs ha hreach) rfl⟩
  · rw [exec_loadReady, loadReadyAct_ready (personaOn_of_port hport) hwait hfree]
  · rw [exec_loadReady, loadReadyAct_waits h]

end Sys2Proof.Machine
end

section
/-!
CERTIFICATE. Runs and pages of the Finup personas (R579 to R583, R585).
-/
namespace Sys2Proof.Machine

variable {s t u : State} {p : Persona}

/-! ### What leaves the personas -/

theorem persona_congr (h : t.personas = s.personas) (p : Nat) : t.persona p = s.persona p := by
  rw [State.persona, State.persona, h]

/-- The personas are as they were. -/
structure PersonasKept (s t : State) : Prop where
  personas : t.personas = s.personas

namespace PersonasKept

theorem refl (s : State) : PersonasKept s s := ⟨rfl⟩

theorem trans (h : PersonasKept s t) (h' : PersonasKept t u) : PersonasKept s u := ⟨h'.personas.trans h.personas⟩

theorem ite {q : Prop} [Decidable q] (ht : PersonasKept s t) (hu : PersonasKept s u) : PersonasKept s (if q then t else u) := by
  split <;> assumption

theorem foldl {α : Type} (f : State → α → State) (hf : ∀ s x, PersonasKept s (f s x)) :
    ∀ (l : List α) (s : State), PersonasKept s (l.foldl f s)
  | [], s => .refl s
  | x :: r, s => (hf s x).trans (foldl f hf r _)

theorem wr (s : State) (q : Row) (v : Int) (x y : Nat) : PersonasKept s (s.wr q v x y) := ⟨rfl⟩
theorem setChan (s : State) (c : Nat) (x : Chan) : PersonasKept s (s.setChan c x) := ⟨rfl⟩
theorem setEng (s : State) (e : Nat) (x : EngSt) : PersonasKept s (s.setEng e x) := ⟨rfl⟩
theorem report (s : State) (src kind addr : Nat) : PersonasKept s (s.report src kind addr) := ⟨rfl⟩
theorem setBytes (s : State) (a : Nat) (l : List Byte) : PersonasKept s (s.setBytes a l) := ⟨rfl⟩
theorem copyBytes (s : State) (a b n : Nat) : PersonasKept s (s.copyBytes a b n) := ⟨rfl⟩
theorem stale (s : State) : PersonasKept s s.stale := ⟨rfl⟩

theorem roundWord (s : State) (x : Rat) : PersonasKept s (roundWord s x).2 := by
  obtain ⟨n, hn⟩ := roundWord_eq s x
  exact hn ▸ ⟨rfl⟩

theorem swings (s : State) (e : Nat) : PersonasKept s (swings s e) := by
  unfold Machine.swings
  exact (setEng s _ _).trans (.foldl _ (fun t x => (roundWord t _).trans (.wr _ _ _ _ _)) _ _)

theorem applyMarks (s : State) (e : Nat) : PersonasKept s (applyMarks s e) := by
  unfold Machine.applyMarks
  refine (setEng s _ _).trans (.foldl _ (fun t x => ?_) _ _)
  refine .ite (.refl t) (.ite (trans ?_ (.report _ _ _ _)) (.setBytes t _ _))
  exact (setBytes t _ _).trans (.wr _ _ _ _ _)

theorem ampSettings (s : State) {c : Nat} (hc : c < 96) : PersonasKept s (ampSettings s c) :=
  ⟨(congrArg State.personas ((AmpKeeps.ampTarget hc s).trans (AmpKeeps.ampLimits hc _)).beyond :)⟩

theorem swapTable (s : State) (e : Nat) (tb : Table) (k : Nat) : PersonasKept s (swapTable s e tb k) := by
  have hbase (x : EngSt) := (((copyBytes s (shadowAt e tb) (activeAt e tb) (tableLen tb)).trans (.setEng _ e x)).trans
    (.wr _ E.commitLine k e 0)).trans (.stale _)
  unfold Machine.swapTable
  dsimp only
  cases tb with
  | stitch => exact (hbase _).trans (((setEng _ _ _).trans (.wr _ _ _ _ _)).trans (applyMarks _ _))
  | wave =>
    dsimp only
    split
    · exact (hbase _).trans (swings _ _)
    next d hd => exact ((hbase _).trans (swings _ _)).trans (ampSettings _ (channelOf_lt hd))
  | shape => exact hbase _
  | tile => exact hbase _

theorem lineBoundary (s : State) (e : Nat) (at_ : Nat × Nat) : PersonasKept s (lineBoundary s e at_) :=
  .foldl _ (fun t _ => .ite (swapTable t _ _ _) (.refl t)) _ s

theorem idleSwaps (s : State) : PersonasKept s (idleSwaps s) := by
  refine .foldl _ (fun t x => ?_) _ s
  unfold idleSwap
  exact .ite (trans (.ite (setEng _ _ _) (.refl t)) (lineBoundary _ _ _)) (.refl t)

theorem askUpTo (s : State) (c n : Nat) : PersonasKept s (askUpTo s c n) := by
  refine .foldl _ (fun t k => ?_) _ s
  unfold askLine
  exact .ite ((setChan t _ _).trans (.wr _ _ _ _ _)) (setChan t _ _)

theorem prepareChannel (s : State) (c : Nat) : PersonasKept s (prepareChannel s c) := by
  unfold Machine.prepareChannel
  dsimp only
  split
  · exact setChan _ _ _
  · exact .ite (setChan _ _ _) ((setChan _ _ _).trans (askUpTo _ _ _))

theorem reportLanes (s : State) (c : Nat) : PersonasKept s (reportLanes s c) := by
  have hdown : PersonasKept s (if (s.chan c).lockEver || legacy s c then s else linkDownMsg s c (!(s.chan c).bridgeUp)) :=
    .ite (.refl s) (.report _ _ _ _)
  unfold Machine.reportLanes
  exact .ite hdown (hdown.trans (.report _ _ _ _))

theorem beginJob (s : State) (chs : List Nat) : PersonasKept s (beginJob s chs) := by
  have hshown : PersonasKept s (((if s.rd E.prbsSel = 0 then s else s.stale).wr E.prbsSel 0).wr E.armCheck 0) :=
    (trans (.ite (.refl s) (.stale s)) (.wr _ _ _ _ _)).trans (.wr _ _ _ _ _)
  have hcal (t : State) : PersonasKept t (if (t.cal 1).running then calDiscard t 1 else t) := .ite ⟨rfl⟩ (.refl t)
  unfold Machine.beginJob
  exact (hshown.trans (hcal _)).trans (.foldl _ (fun t c => (prepareChannel t c).trans (reportLanes _ c)) _ _)

theorem enterArmed (s : State) (chs : List Nat) : PersonasKept s (enterArmed s chs) := by
  have hempty : PersonasKept s (emptyTrigger s (s.rdN E.jobTrig)) := .ite ⟨rfl⟩ (.refl s)
  have hclear (t : State) : PersonasKept t { t with job := {} } := ⟨rfl⟩
  unfold Machine.enterArmed
  exact ((((hempty.trans (hclear _)).trans (.wr _ _ _ _ _)).trans (.wr _ _ _ _ _)).trans (.wr _ _ _ _ _)).trans
    ((beginJob _ chs).trans ⟨(setDev_same _ .armed).1.personas⟩)

end PersonasKept

/-! ### Image buffers -/

/-- Entries of Intake and Feed alone differ. -/
structure IntakeOnly (s t : State) : Prop where
  dict : ∃ d, t = { s with dict := d }
  rd : ∀ r i j, rowKey r i j < 0x690000 → t.rd r i j = s.rd r i j

namespace IntakeOnly

theorem refl (s : State) : IntakeOnly s s := ⟨⟨s.dict, rfl⟩, fun _ _ _ _ => rfl⟩

theorem wr (h : IntakeOnly s t) {q : Row} (hq : 0x690000 ≤ q.k0) (v : Int) (x : Nat) : IntakeOnly s (t.wr q v x) := by
  obtain ⟨⟨d, rfl⟩, hrd⟩ := h
  refine ⟨⟨_, rfl⟩, fun r i j hk => ?_⟩
  have hne : rowKey r i j ≠ rowKey q x 0 := by
    unfold rowKey at *
    omega
  exact (State.rd_wr _ _ _ _ _ _ _ _ hne).trans (hrd r i j hk)

theorem personaBuffers (s : State) (p : Nat) : IntakeOnly s (personaBuffers s p) := by
  unfold Machine.personaBuffers
  refine foldl_preserves (P := IntakeOnly s) _ (fun t c h => ?_) _ _ (foldl_preserves (P := IntakeOnly s) _ (fun t b h => ?_) _ _ (refl s))
  · exact (h.wr (by decide) _ _).wr (by decide) _ _
  · exact (((h.wr (by decide) _ _).wr (by decide) _ _).wr (by decide) _ _).wr (by decide) _ _

end IntakeOnly

/-- The buffer that prints from a page start on (R580). -/
def nextBuf (x : PersonaSt) : Nat := if x.loadReady then 1 - x.printBuf else x.printBuf

/-- A persona whose buffers have swapped, or that prints the same buffer again (R580). -/
def PersonaSt.swap (x : PersonaSt) : PersonaSt :=
  { x with printBuf := nextBuf x, loadReady := false, latched := if x.loadReady then x.latched else x.latched ||| 32 }

theorem swap_eq (x : PersonaSt) : x.swap =
    if x.loadReady then { x with printBuf := 1 - x.printBuf, loadReady := false } else { x with latched := x.latched ||| 32 } := by
  rcases hload : x.loadReady
  · cases x
    simp only at hload
    subst hload
    rfl
  · simp [PersonaSt.swap, nextBuf, hload]

/-- RB_WR of the buffer that prints covers the page (R580). -/
theorem swapBuffers_eq (s : State) (p : Nat) : ∃ t, IntakeOnly (s.setPersona p (s.persona p).swap) t ∧
    swapBuffers s p = t.wr E.rbWr (((s.persona p).starts.length + 1) * pWord s p 8 : Nat) (2 * p + nextBuf (s.persona p)) := by
  obtain ⟨v, hv⟩ : ∃ v, v = s.setPersona p (s.persona p).swap := ⟨_, rfl⟩
  have hswap : (if (s.persona p).loadReady then
      s.setPersona p { s.persona p with printBuf := 1 - (s.persona p).printBuf, loadReady := false } else latch s p 32) = v := by
    rw [hv, swap_eq]
    split <;> rfl
  have honly := IntakeOnly.personaBuffers v p
  refine ⟨personaBuffers v p, hv ▸ honly, ?_⟩
  unfold swapBuffers
  dsimp only
  rw [hswap]
  generalize personaBuffers v p = w at honly ⊢
  obtain ⟨⟨d, rfl⟩, -⟩ := honly
  have hpersona : ({ v with dict := d } : State).persona p = (s.persona p).swap :=
    (persona_congr rfl p).trans (hv ▸ State.setPersona_same ..)
  have hword : pWord ({ v with dict := d } : State) p 8 = pWord s p 8 := by
    rw [pWord, hpersona]
    rfl
  rw [hword, hpersona]
  rfl

/-! ### Page starts -/

/-- The persona in the page that has started at count n (R580 to R583, R585). -/
def PersonaSt.start (x : PersonaSt) (start : Nat) (n : Int) (on : Bool) (delays : List (Nat × Nat)) : PersonaSt :=
  { x with inPage := true, landOn := on, starts := x.starts ++ [start], startCount := n, edges := [], delays := delays }

/-- The working delays of a page (R583). -/
def workingDelays (s : State) (p : Nat) : List (Nat × Nat) := (List.range 32).map (fun i => (i, pWord s p (0x20 + i)))

theorem pWord_of_words {p k : Nat} (hwords : (t.persona p).words = (s.persona p).words) (hotp : t.otp = s.otp) :
    pWord t p k = pWord s p k := by
  have hfuse (w : Nat) : t.fuse w = s.fuse w := by rw [State.fuse, State.fuse, hotp]
  simp only [pWord, wordReset, hfuse, hwords]

theorem aget_workingDelays {i : Nat} (hi : i < 32) : aget 0 i (workingDelays s p) = pWord s p (0x20 + i) := by
  have h : ∀ f : Nat → Nat, aget 0 i ((List.range 32).map (fun k => (k, f k))) = f i := by
    intro f
    interval_cases i <;> rfl
  exact h fun k => pWord s p (0x20 + k)

/-- The first page start of a job begins the printing (R457). -/
theorem printing_begins (s : State) (hbusy : s.busyJob = true) :
    SameExceptEvents s (if s.dev = .armed then setDev s .printing else s) ∧
      (if s.dev = .armed then setDev s .printing else s).dev = .printing := by
  split
  · exact setDev_same s .printing
  next hne => exact ⟨.refl s, (busyJob_iff.mp hbusy).resolve_left hne⟩

/-- A page that starts of a persona that runs and is in none (R580 to R583). -/
theorem personaStart_eq (s : State) (p pos : Nat) (hon : personaOn s p = true) (hrun : (s.persona p).run = true)
    (hbusy : s.busyJob = true) (hlocks : s.noLocks = false) (hstart : s.startSuperseded .job = false)
    (hin : (s.persona p).inPage = false) : ∃ (a : Nat) (v w : State), v = (swapBuffers s p).stale ∧
      w = v.setPersona p { v.persona p with
        inPage := true, landOn := landingOn s p, starts := (s.persona p).starts ++ [a], startCount := v.rd E.encCount p, edges := [],
        delays := workingDelays v p } ∧
      personaStart s p pos = updateJob (beginPages
        (if (maskedEvent w 6 0x2010 7 (s.persona p).starts.length).dev = .armed then
          setDev (maskedEvent w 6 0x2010 7 (s.persona p).starts.length) .printing
        else maskedEvent w 6 0x2010 7 (s.persona p).starts.length)) := by
  refine ⟨wrap48 (pos + (swapBuffers s p).stale.rd E.trigOffset p + pWord (swapBuffers s p).stale p 6 * 256), _, _, rfl, rfl, ?_⟩
  unfold personaStart
  dsimp only
  rw [if_neg (by simp [hon, hrun, hbusy, hlocks, hstart]), if_neg (by simp [hin])]
  rfl

theorem rbWr_apart (k : Nat) : rowKey E.rbWr k 0 ∉ eventKeys ∧ E.lastLine.k0 + 96 ≤ rowKey E.rbWr k 0 ∧
    rowKey E.rbWr k 0 ∉ [rowKey E.jobPage 0 0, rowKey E.pagesDone 0 0, rowKey E.pageStart 0 0] := by
  simp only [eventKeys, List.mem_cons, List.not_mem_nil, or_false, rowKey, E.rbWr, E.lastLine, E.jobPage, E.pagesDone, E.pageStart,
    E.eventSeq, E.txFrames]
  omega

/-- What a page start leaves: the persona in its page, RB_WR and the device state (R457, R580 to R583, R585). -/
theorem personaStart_leaves (s : State) {p : Nat} (hp : p < 3) (pos : Nat) (hon : personaOn s p = true)
    (hrun : (s.persona p).run = true) (hbusy : s.busyJob = true) (hlocks : s.noLocks = false)
    (hstart : s.startSuperseded .job = false) (hin : (s.persona p).inPage = false) (hu : u = personaStart s p pos) : u.dev = .printing ∧ u.faultQ = s.faultQ ∧
      (∀ x, u.byte x = s.byte x) ∧
      (∃ a, u.persona p = (s.persona p).swap.start a (s.rd E.encCount p) (landingOn s p) (workingDelays s p)) ∧
      u.rd E.rbWr (2 * p + nextBuf (s.persona p)) = ((s.persona p).starts.length + 1) * pWord s p 8 := by
  obtain ⟨a, v, w, hv, hw, heq⟩ := personaStart_eq s p pos hon hrun hbusy hlocks hstart hin
  obtain ⟨t, ⟨⟨d, ht⟩, hlow⟩, hswap⟩ := swapBuffers_eq s p
  generalize hn : ((s.persona p).starts.length + 1) * pWord s p 8 = n at hswap
  generalize nextBuf (s.persona p) = b at hswap ⊢
  rw [hswap] at hv
  obtain ⟨hvdev, hvfault, hvbyte, hvpersona, hvotp⟩ : v.dev = s.dev ∧ v.faultQ = s.faultQ ∧ (∀ x, v.byte x = s.byte x) ∧
      v.persona p = (s.persona p).swap ∧ v.otp = s.otp := by
    subst hv ht
    exact ⟨rfl, rfl, fun _ => rfl, State.setPersona_same .., rfl⟩
  have hcount : v.rd E.encCount p = s.rd E.encCount p := by
    have hkey : rowKey E.encCount p 0 < 0x690000 := by
      simp only [rowKey, E.encCount]
      omega
    have hne : rowKey E.encCount p 0 ≠ rowKey E.rbWr (2 * p + b) 0 := by
      simp only [rowKey, E.encCount, E.rbWr]
      omega
    rw [hv]
    exact (State.rd_wr t _ _ _ _ _ _ _ hne).trans (hlow _ _ _ hkey)
  have hdelays : workingDelays v p = workingDelays s p :=
    congrArg (fun f : Nat → Nat => (List.range 32).map fun i => (i, f (0x20 + i)))
      (funext fun k => pWord_of_words (by rw [hvpersona]; rfl) hvotp)
  have hvwr : v.rd E.rbWr (2 * p + b) = n := by
    rw [hv]
    exact State.rd_wr_same ..
  rw [hvpersona, hcount, hdelays] at hw
  obtain ⟨hwdev, hwfault, hwbyte, hwpersona, hwwr⟩ : w.dev = s.dev ∧ w.faultQ = s.faultQ ∧ (∀ x, w.byte x = s.byte x) ∧
      w.persona p = (s.persona p).swap.start a (s.rd E.encCount p) (landingOn s p) (workingDelays s p) ∧
      w.rd E.rbWr (2 * p + b) = n := by
    subst hw
    exact ⟨hvdev, hvfault, hvbyte, State.setPersona_same .., hvwr⟩
  obtain ⟨hsame, hdev⟩ := maskedEvent_same w 6 0x2010 7 (s.persona p).starts.length
  generalize maskedEvent w 6 0x2010 7 (s.persona p).starts.length = e at heq hsame hdev
  have hebusy : e.busyJob = true := by rwa [State.busyJob, hdev, hwdev]
  obtain ⟨hsame', hprinting⟩ := printing_begins e hebusy
  generalize (if e.dev = .armed then setDev e .printing else e) = y at heq hsame' hprinting
  have hall := hsame.trans hsame'
  have hbegins := beginPages_begins y
  generalize beginPages y = z at heq hbegins
  obtain ⟨⟨d', hd⟩, hshown⟩ := updateJob_leaves z
  rw [← heq, ← hu] at hd hshown
  obtain ⟨hevent, hline, hjob⟩ := rbWr_apart (2 * p + b)
  refine ⟨?_, ?_, fun x => ?_, ⟨a, ?_⟩, ?_⟩
  · rw [hd]
    exact hbegins.dev.trans hprinting
  · rw [hd]
    exact hbegins.works.faultQ.trans (hall.faultQ.trans hwfault)
  · rw [hshown.2, hbegins.bytes, State.byte, hall.mem]
    exact hwbyte x
  · have hpersonas : u.personas = w.personas := by
      rw [hd]
      exact hbegins.works.personas.trans hall.personas
    rw [persona_congr hpersonas, hwpersona]
  · rw [hshown.1 _ _ _ hjob, hbegins.rd _ _ _ (.inr hline), hall.rd _ _ _ hevent, hwwr, ← hn]
    push_cast
    rfl

/-! ### Runs -/

theorem finupRun_runs (h : personaPort s p = true) (hs : s.superseded noTarget = false) (hrun : (s.persona p).run = false) :
    exec (.finupRun p) s = .next (runAct s p).stale := by
  have hbits : ctrlHeld s p ||| 1 = flag true 0 + flag (s.persona p).drop2 1 + flag false 2 + flag false 3 := by
    rw [ctrlHeld_eq, hrun]
    generalize (s.persona p).drop2 = b
    revert b
    decide
  have hwrite := ctrlAct_kept hbits rfl rfl
  rw [h, hs, hrun] at hwrite
  exact congrArg Host.Outcome.next hwrite

theorem finupStop_stops (h : personaPort s p = true) (hs : s.superseded noTarget = false) (hrun : (s.persona p).run = true) :
    exec (.finupStop p) s = .next (stopRun s p).stale := by
  have hbits : ctrlHeld s p &&& 2 = flag false 0 + flag (s.persona p).drop2 1 + flag false 2 + flag false 3 := by
    rw [ctrlHeld_eq, hrun]
    generalize (s.persona p).drop2 = b
    revert b
    decide
  have hwrite := ctrlAct_kept hbits rfl rfl
  rw [h, hs, hrun] at hwrite
  exact congrArg Host.Outcome.next hwrite

theorem softTrig_starts (h : personaPort s p = true) (hs : s.superseded noTarget = false) (hrun : (s.persona p).run = true)
    (hbusy : s.busyJob = true) : exec (.softTrig p) s = .next (softTrig s p).stale := by
  have hbits : ctrlHeld s p ||| 4 = flag true 0 + flag (s.persona p).drop2 1 + flag true 2 + flag false 3 := by
    rw [ctrlHeld_eq, hrun]
    generalize (s.persona p).drop2 = b
    revert b
    decide
  have hwrite := ctrlAct_kept hbits rfl rfl
  rw [h, hs, hrun, hbusy] at hwrite
  exact congrArg Host.Outcome.next hwrite

/-- A RUN in READY runs the checks of ARM for the persona's channels (R579). -/
theorem runAct_ready (hstart : s.startSuperseded .job = false) (hdev : s.dev = .ready) {k : Nat} (ht : t = idleSwaps (runReset s p))
    (hk : k = armCheckOf t ((enabledChs t).filter (fun c => personaOf c == p.val)) p) : runAct s p = if k ≠ 0
      then refuseRun (s.wr E.armCheck k) p
      else noteCommand (commandWord 1 0) okCode (enterArmed t ((enabledChs t).filter (fun c => personaOf c == p.val))) := by
  have hbusy : s.busyJob = false := by
    rw [State.busyJob, hdev]
    rfl
  subst ht hk
  unfold runAct
  dsimp only
  rw [hstart, if_neg (by decide), if_neg (by simp [hdev]), hbusy, Bool.false_and]
  rfl

/-- RUN 0 of the only persona that runs is the ABORT command (R579). -/
theorem stopRun_alone (hstart : s.startSuperseded .job = false) (hbusy : s.busyJob = true) (hother : otherRuns s p = false)
    (ht : t = noteCommand (commandWord 4 0) okCode (endJob (s.act .job .abort) .ready)) :
    stopRun s p = t.setPersona p { t.persona p with run := false, inPage := false } := by
  have hlate : s.superseded .job = false := (Bool.or_eq_false_iff.mp hstart).1
  subst ht
  unfold stopRun
  dsimp only
  rw [hlate, hother, abortAct, hbusy]
  rfl

theorem refuseRun_persona (s : State) (p : Nat) : (refuseRun s p).persona p =
    { s.persona p with run := false, latched := (s.persona p).latched ||| 256 } := by
  rw [refuseRun, latch, State.setPersona_same, State.setPersona_same]

theorem refuseRun_leaves (s : State) (p : Nat) (hu : u = (refuseRun s p).stale) :
    u.dict = s.dict ∧ u.mem = s.mem ∧ u.dev = s.dev ∧ u.sent = s.sent := by
  subst hu
  simp only [refuseRun, latch, State.stale, State.setPersona_dict, State.setPersona_mem, State.setPersona_dev,
    State.setPersona_sent, and_self]

/-- A RUN that is refused shows why, and latches ARM_FAIL (R579). -/
theorem run_refused (s : State) (p : Persona) (k : Nat) (hu : u = (refuseRun (s.wr E.armCheck k) p).stale) :
    u.persona p = { s.persona p with run := false, latched := (s.persona p).latched ||| 256 } ∧ u.rd E.armCheck = k ∧
      u.dev = s.dev ∧ u.sent = s.sent ∧ SameBut s u [rowKey E.armCheck 0 0] := by
  have hpersona : u.persona p = (refuseRun (s.wr E.armCheck k) p).persona p := by rw [hu]; rfl
  rw [refuseRun_persona] at hpersona
  obtain ⟨hdict, hmem, hdev, hsent⟩ := refuseRun_leaves _ _ hu
  obtain ⟨v, hv⟩ : ∃ v, v = s.wr E.armCheck k := ⟨_, rfl⟩
  have hshown : v.rd E.armCheck = k := hv ▸ State.rd_wr_same ..
  have hsame : SameBut s v [rowKey E.armCheck 0 0] := hv ▸ (SameBut.refl s _).wr (by simp) _
  obtain ⟨hvdev, hvsent⟩ : v.dev = s.dev ∧ v.sent = s.sent := by rw [hv]; exact ⟨rfl, rfl⟩
  rw [← hv] at hdict hmem hdev hsent
  have hrd (r : Row) (i j : Nat) : u.rd r i j = v.rd r i j := by rw [State.rd, State.rd, hdict]
  refine ⟨hpersona, (hrd ..).trans hshown, hdev.trans hvdev, hsent.trans hvsent, fun r i j hk => (hrd ..).trans (hsame.1 r i j hk),
    fun x => ?_⟩
  rw [State.byte, hmem]
  exact hsame.2 x

theorem runReset_persona (s : State) (p : Nat) : (runReset s p).persona p =
    { s.persona p with run := true, inPage := false, starts := [], edges := [] } :=
  State.setPersona_same ..

/-- The run of a persona that arms the job (R579). -/
theorem run_arms {chs : List Nat} (ht : t = idleSwaps (runReset s p))
    (hu : u = (noteCommand (commandWord 1 0) okCode (enterArmed t chs)).stale) :
    u.dev = .armed ∧ (u.persona p).run = true ∧ (u.persona p).starts = [] ∧ u.rd E.armCheck = 0 ∧ u.rd E.cmdLast = 2 ^ 40 ∧
      ∀ x, u.byte x = t.byte x := by
  have hpersona : (enterArmed t chs).persona p = { s.persona p with run := true, inPage := false, starts := [], edges := [] } := by
    rw [persona_congr (PersonasKept.enterArmed t chs).personas, ht, persona_congr (PersonasKept.idleSwaps _).personas, runReset_persona]
  generalize hv : enterArmed t chs = v at hu hpersona
  obtain ⟨hdev, hcheck, -, -, -, -, hbyte, -⟩ := enterArmed_leaves t chs hv.symm
  generalize hw : noteCommand (commandWord 1 0) okCode v = w at hu
  obtain ⟨hlast, -, hsame⟩ := noteCommand_leaves (.inl rfl) hw.symm
  have hnoted := noteCommand_shown (v := commandWord 1 0) (s := v) (.inl rfl)
  rw [hw] at hnoted
  obtain ⟨hudev, hupersona⟩ : u.dev = v.dev ∧ u.persona p = v.persona p := by
    subst hu hnoted
    exact ⟨rfl, rfl⟩
  obtain ⟨hurd, hubyte⟩ : (∀ r i j, u.rd r i j = w.rd r i j) ∧ ∀ x, u.byte x = w.byte x := by
    subst hu
    exact ⟨fun _ _ _ => rfl, fun _ => rfl⟩
  refine ⟨hudev.trans hdev, by rw [hupersona, hpersona], by rw [hupersona, hpersona], ?_, ?_, fun x => ?_⟩
  · rw [hurd, hsame.1 _ _ _ (by decide), hcheck]
  · rw [hurd, hlast]
    rfl
  · rw [hubyte, hsame.2, hbyte]

/-- The run that ends with the job (R459, R579). -/
theorem stop_ends (ht : t = noteCommand (commandWord 4 0) okCode (endJob (s.act .job .abort) .ready))
    (hu : u = (t.setPersona p { t.persona p with run := false, inPage := false }).stale) :
    u.dev = .ready ∧ (u.persona p).run = false ∧ (u.persona p).inPage = false ∧ (∀ c, (u.chan c).locked = []) ∧
      u.rd E.cmdLast = 4 * 2 ^ 40 ∧ u.rd E.cmdResult = 0 ∧ u.rd E.speedReq = 0 ∧ ∀ x, u.byte x = s.byte x := by
  generalize hv : endJob (s.act .job .abort) .ready = v at ht
  obtain ⟨hdev, -, hrests, hspeed, hbyte, -, -, -⟩ := endJob_leaves _ _ hv.symm
  obtain ⟨hlast, hresult, -⟩ := noteCommand_leaves (.inl rfl) ht
  obtain ⟨htdev, -, htchans, -, -, htsame⟩ := noteCommand_rest ht
  have hpersona : u.persona p = { t.persona p with run := false, inPage := false } := hu ▸ State.setPersona_same ..
  obtain ⟨hudev, huchans, hurd, hubyte⟩ : u.dev = t.dev ∧ u.chans = t.chans ∧ (∀ r i j, u.rd r i j = t.rd r i j) ∧
      ∀ x, u.byte x = t.byte x := by
    subst hu
    exact ⟨rfl, rfl, fun _ _ _ => rfl, fun _ => rfl⟩
  refine ⟨hudev.trans (htdev.trans hdev), by rw [hpersona], by rw [hpersona], fun c => ?_, ?_, ?_, ?_, fun x => ?_⟩
  · rw [State.chan, huchans, htchans]
    exact (hrests c).1
  · rw [hurd, hlast]
    rfl
  · rw [hurd, hresult]
    rfl
  · rw [hurd, htsame.1 _ _ _ (by decide), hspeed]
  · rw [hubyte, htsame.2, hbyte]
    rfl

theorem softTrig_inPage (hon : personaOn s p = true) (hrun : (s.persona p).run = true) (hbusy : s.busyJob = true)
    (hlocks : s.noLocks = false) (hstart : s.startSuperseded .job = false) (hin : (s.persona p).inPage = true) :
    softTrig s p = latch s p 2 := by
  unfold softTrig personaStart
  rw [if_neg (by simp [hon, hrun, hbusy, hlocks, hstart]), if_pos hin]

/-- Settles O57. -/
theorem personasRunPages : Obligations.PersonasRunPages := by
  unfold Obligations.PersonasRunPages
  intro p s hport hs hstart
  have hon := personaOn_of_port hport
  refine ⟨fun hrun hdev t k ht hk => ⟨fun hbad => ?_, fun hgood => ?_⟩, fun hrun hbusy hother => ?_, fun hrun hbusy hlocks hin => ?_,
    fun b hrun hbusy hlocks hin _ _ hb => ?_⟩
  · rw [Gives, finupRun_runs hport hs hrun, runAct_ready hstart hdev ht hk, if_pos hbad]
    obtain ⟨hpersona, hcheck, hudev, hrest⟩ := run_refused s p k rfl
    exact ⟨_, rfl, hpersona, hcheck, hudev.trans hdev, hrest⟩
  · rw [Gives, finupRun_runs hport hs hrun, runAct_ready hstart hdev ht hk, if_neg (not_not.mpr hgood)]
    exact ⟨_, rfl, run_arms ht rfl⟩
  · rw [Gives, finupStop_stops hport hs hrun, stopRun_alone hstart hbusy hother rfl]
    exact ⟨_, rfl, stop_ends rfl rfl⟩
  · rw [softTrig_starts hport hs hrun hbusy, softTrig_inPage hon hrun hbusy hlocks hstart hin]
    rfl
  · rw [Gives, softTrig_starts hport hs hrun hbusy]
    generalize hu : softTrig s p = u
    obtain ⟨hdev, hfault, hbyte, ⟨a, hpersona⟩, hwr⟩ :=
      personaStart_leaves s p.isLt _ hon hrun hbusy hlocks hstart hin hu.symm
    have hbuf : b = nextBuf (s.persona p) := hb
    have hpersona : u.stale.persona p = _ := hpersona
    refine ⟨_, rfl, hdev, ?_, ?_, ?_, ?_, ?_, hbuf ▸ hwr, ?_, fun i hi => ?_, ?_, hfault, hbyte⟩
    · rw [hpersona]
      rfl
    · rw [hpersona, hbuf]
      rfl
    · rw [hpersona]
      rfl
    · rw [hpersona]
      exact List.length_append ..
    · rw [hpersona]
      rfl
    · rw [hpersona]
      rfl
    · rw [hpersona]
      exact aget_workingDelays hi
    · rw [hpersona]
      rfl

end Sys2Proof.Machine
end

section
/-!
CERTIFICATE. The end of a TICK (R27, R73).
-/
namespace Sys2Proof.Machine

/-- DOM_10 is on and has a power-up waiting, rank 0 has become failing, and the channel of its spare is not trained. -/
def clockWaiting : State :=
  { State.reset with
    doms := [(10, { st := 2, waiting := true })],
    memory := { failing := [(0, none)], ranks := [(0, { st := 2 }), (8, { st := 6 })] } }

/-- The end of the TICK asks for the spare's channel, and the domain that waits powers up first: it is DOM_10, which is not on
any more when TIME would advance (R315, R524). -/
theorem clockWaiting_stands : clockWaiting.domOn 10 = true ∧ (endTick clockWaiting).time = 0 := by decide +kernel

/-- Refutes O2: where DOM_10 is on and a power-up of it waits, the spare's bring-up in the same TICK powers DOM_10 up again,
and TIME does not advance. -/
theorem not_idleStepEndsTick : ¬ Obligations.IdleStepEndsTick := by
  unfold Obligations.IdleStepEndsTick
  intro h
  obtain ⟨t, hstep, -, -, htime⟩ := h clockWaiting rfl
  have ht : t = endTick clockWaiting := (Host.Outcome.next.inj hstep).symm
  obtain ⟨hon, hstands⟩ := clockWaiting_stands
  rw [ht, hstands, hon] at htime
  exact absurd htime (by decide)

end Sys2Proof.Machine
end

section
/-!
CERTIFICATE. Calibration runs (R558 to R563).
-/
namespace Sys2Proof.Machine

/-- A vernier run that began at a die temperature of 7 / 16 degrees Celsius. -/
def vernierRuns : State := { State.reset with cals := [(3, { running := true, temp0 := 7 })] }

/-- CAL_STATE has the units 0 to 3; counted on to 259 its key is that of CAL_TEMP_3, which the end of the run writes. -/
theorem vernierRuns_ends : (calCompleteAct 3 ⟨[], false⟩ vernierRuns).rd E.calState 259 = 7 ∧ vernierRuns.rd E.calState 259 = 0 := by
  decide +kernel

/-- Refutes O56: the frame of a completed run claims CAL_STATE_j unchanged for every other number j, and for j = 259, which is no
calibration, that is the key of CAL_TEMP_3. -/
theorem not_calibrationsAndPatterns : ¬ Obligations.CalibrationsAndPatterns := by
  unfold Obligations.CalibrationsAndPatterns
  rintro ⟨-, -, -, hcomplete, -⟩
  obtain ⟨u, hexec, -, -, -, -, hothers⟩ := hcomplete 3 ⟨[], false⟩ vernierRuns rfl rfl
  have hu : u = calCompleteAct 3 ⟨[], false⟩ vernierRuns := (Host.Outcome.next.inj hexec).symm
  obtain ⟨hends, hbefore⟩ := vernierRuns_ends
  have hstands := (hothers 259 (by decide)).2.2
  rw [hu, hends, hbefore] at hstands
  exact absurd hstands (by decide)

end Sys2Proof.Machine
end

section
/-!
CERTIFICATE. The health map's entries, failures, and the scores of probes (R140, R234 to R242, R246 to R248).
-/
namespace Sys2Proof.Machine

variable {s t u v : State} {e n c score : Nat}

/-! ### Entries of the health map -/

theorem bits_mod_two_pow {x k hi lo : Nat} (h : hi < k) : bits (x % 2 ^ k) hi lo = bits x hi lo := by
  apply Nat.eq_of_testBit_eq
  intro i
  rw [testBit_bits, testBit_bits, Nat.testBit_mod_two_pow]
  by_cases hi' : i < hi + 1 - lo
  · rw [decide_eq_true (show lo + i < k by omega), Bool.true_and]
  · simp [hi']

theorem bit_mod_two_pow {x k i : Nat} (h : i < k) : bit (x % 2 ^ k) i = bit x i := by
  rw [bit, bit, Nat.testBit_mod_two_pow, decide_eq_true h, Bool.true_and]

theorem bit_putBits_apart {x w hi lo i : Nat} (h : lo ≤ hi) (hapart : hi < i ∨ i < lo) : bit (putBits x hi lo w) i = bit x i := by
  rw [bit, bit, testBit_putBits h, if_neg (by omega)]

theorem health_setHealth (s : State) (e n x : Nat) : (s.setHealth e n x).health e n = x % 2 ^ 48 := by
  rw [State.health, State.word, State.setHealth, State.bytes_setBytes _ _ _ _ (length_toBytes ..), ofBytes_toBytes]
  rfl

/-- Another byte stays. -/
theorem byte_setHealth (s : State) {e n x a : Nat} (ha : ¬(healthAt e n ≤ a ∧ a < healthAt e n + 6)) :
    (s.setHealth e n x).byte a = s.byte a :=
  State.byte_setBytes _ _ _ _ (by simpa using ha)

/-- Another nozzle's entry stays. -/
theorem health_setHealth_ne (s : State) {e n m x : Nat} (h : m ≠ n) : (s.setHealth e n x).health e m = s.health e m := by
  have hbytes : (s.setHealth e n x).bytes (healthAt e m) 6 = s.bytes (healthAt e m) 6 := by
    refine List.map_congr_left fun i hi => byte_setHealth s ?_
    have hlt := List.mem_range.mp hi
    unfold healthAt
    omega
  rw [State.health, State.health, State.word, State.word, hbytes]

theorem health_of_mem (h : u.mem = s.mem) (e n : Nat) : u.health e n = s.health e n := by
  rw [State.health, State.health, State.word, State.word, State.bytes, State.bytes, h]

/-! ### Failures -/

/-- What a new failure changes where a shadow concerned is not CLEAN: engines alone (R140). -/
theorem noteFailure_waits (h : (s.eng e).stitch ≠ .clean) (hu : u = noteFailure s c e n) :
    (∃ l, u = { s with engs := l }) ∧ (u.eng e).foldPending = true := by
  have hpend : ∀ (l : List Nat) (t : State), (∃ g, t = { s with engs := g }) → (t.eng e).foldPending = true →
      (∃ g, l.foldl (fun s z => s.setEng z { s.eng z with foldPending := true }) t = { s with engs := g }) ∧
        ((l.foldl (fun s z => s.setEng z { s.eng z with foldPending := true }) t).eng e).foldPending = true := by
    intro l
    induction l with
    | nil => exact fun t ht hp => ⟨ht, hp⟩
    | cons z l ih =>
      intro t ht hp
      refine ih _ ?_ ?_
      · obtain ⟨g, rfl⟩ := ht
        exact ⟨_, rfl⟩
      · by_cases hz : e = z
        · subst hz
          rw [State.setEng_same]
        · rw [State.setEng_ne _ _ _ _ hz]
          exact hp
  unfold noteFailure at hu
  dsimp only at hu
  rw [if_neg (by simp [h])] at hu
  subst hu
  rw [List.foldl_cons]
  exact hpend _ _ ⟨_, rfl⟩ (by rw [State.setEng_same])

/-- A failure that waits for a shadow is counted and reported (R140, R241). -/
theorem nozzleFails_leaves (h : (s.eng e).stitch ≠ .clean) (hu : u = nozzleFails s c e n) :
    (u.eng e).foldPending = true ∧ u.rd E.failedCount e = min (s.rd E.failedCount e + 1) 65535 ∧ u.rd E.lastFailed e = n ∧
      u.faultQ = s.faultQ ++ [⟨e, 0xD, c * 2 ^ 40 + n⟩] ∧ u.mem = s.mem ∧ u.sent = s.sent ∧
      ∀ r i j, rowKey r i j ∉ [rowKey E.failedCount e 0, rowKey E.lastFailed e 0] → u.rd r i j = s.rd r i j := by
  obtain ⟨v, hv⟩ : ∃ v, v = ((s.count16 E.failedCount e).wr E.lastFailed n e).report e 0xD (c * 2 ^ 40 + n) := ⟨_, rfl⟩
  have hne : rowKey E.failedCount e 0 ≠ rowKey E.lastFailed e 0 := by
    simp only [rowKey, E.failedCount, E.lastFailed]
    omega
  obtain ⟨hcount, hlast, hfault, hmem, hsent, hengs, hrd⟩ : v.rd E.failedCount e = min (s.rd E.failedCount e + 1) 65535 ∧
      v.rd E.lastFailed e = n ∧ v.faultQ = s.faultQ ++ [⟨e, 0xD, c * 2 ^ 40 + n⟩] ∧ v.mem = s.mem ∧ v.sent = s.sent ∧
      v.engs = s.engs ∧ ∀ r i j, rowKey r i j ∉ [rowKey E.failedCount e 0, rowKey E.lastFailed e 0] → v.rd r i j = s.rd r i j := by
    subst hv
    refine ⟨(State.rd_wr _ _ _ _ _ _ _ _ hne).trans (State.rd_wr_same ..), State.rd_wr_same .., rfl, rfl, rfl, rfl,
      fun r i j hk => ?_⟩
    simp only [List.mem_cons, List.not_mem_nil, or_false, not_or] at hk
    exact (State.rd_wr _ _ _ _ _ _ _ _ hk.2).trans (State.rd_wr _ _ _ _ _ _ _ _ hk.1)
  have hstitch : (v.eng e).stitch ≠ .clean := by rwa [State.eng, hengs]
  have hfails : u = noteFailure v c e n := by rw [hu, hv]; rfl
  obtain ⟨⟨l, hl⟩, hpending⟩ := noteFailure_waits hstitch hfails
  refine ⟨hpending, ?_⟩
  rw [hl]
  exact ⟨hcount, hlast, hfault, hmem, hsent, hrd⟩

/-! ### A score that a fold writes over -/

/-- A confirmation probe of nozzle 21846 of engine 0, whose line fired. -/
def strayProbe : Probe := ⟨21846, 0, false, ⟨0, 0, 4096, 0, 0, [], 0, 0, 0⟩, .confirm, false⟩

/-- The nozzle stands at its second strike, and nozzle 5 of the engine has failed and designates a nozzle of channel 1, whose
SERVED_BY names an engine that has its shadow where the health map of engine 1 stands. -/
def strayFold : State :=
  (((({ Tests.up with mem := [(healthAt 0 5, 0x80), (healthAt 0 5 + 2, 0x01), (healthAt 0 21846, 0x70)] } : State).setEng 0
    { probes := [strayProbe] }).wr E.servedBy (3 * 2 ^ 27 + 1) 1).wr E.probeTaps 0 0).wr E.templateValid 1 0

/-- The probe may be scored, and its score is 0. -/
theorem strayFold_meets : (strayFold.eng 0).probes = [strayProbe] ∧ channelOf strayFold 0 = some 0 ∧
    (strayFold.eng 0).learn = none ∧ probeWindow strayFold 0 0 strayProbe.cycle = some [] ∧
    bit (strayFold.rdN E.templateValid 0) 0 = true ∧
    scoreOf [] ((List.range (strayFold.rdN E.probeTaps 0)).map (templateWord strayFold 0 0)) strayProbe.cycle.gain
      (strayFold.rdN E.aTol 0) = 0 ∧
    hFailed (strayFold.health 0 21846) = false ∧ hState (strayFold.health 0 21846) ≠ 6 := by
  decide +kernel

/-- The fold of the failure's commit writes column 5 over the nozzle's LAST_SCORE. -/
theorem strayFold_ends : bits ((probeScoreAct 0 false strayFold).health 0 21846) 39 32 = 5 := by decide +kernel

/-- Refutes O47: where SERVED_BY of a channel names an engine far above the 100, the commit that the S96 requests for a third
strike folds into the health map, and the nozzle's LAST_SCORE is not its score. -/
theorem not_probeScoresNozzles : ¬ Obligations.ProbeScoresNozzles := by
  unfold Obligations.ProbeScoresNozzles
  intro h
  obtain ⟨hprobes, hchan, hlearn, hwindow, hvalid, hscore, hfail, hexempt⟩ := strayFold_meets
  obtain ⟨-, -, hscored⟩ := h 0 0 strayFold strayProbe [] hprobes hchan
  obtain ⟨u, hexec, hlast, -⟩ := hscored [] 21846 0 0 _ rfl rfl hlearn hwindow rfl rfl hvalid hscore.symm rfl hfail hexempt
  have hu : u = probeScoreAct 0 false strayFold := (Host.Outcome.next.inj hexec).symm
  have hends := strayFold_ends
  rw [← hu] at hends
  exact absurd (hends.symm.trans hlast) (by decide)

end Sys2Proof.Machine
end

section
/-!
CERTIFICATE. Learn scans, HEALTH_EN and writes of the health map (R243 to R245, R247).
-/
namespace Sys2Proof.Machine

variable {s t u v : State} {p : Port} {e : Eng} {c n : Nat}

/-! ### Learn scans that start and are discarded -/

theorem spent_ne_learn (k : ProbeKind) : k.spent ≠ .learn := by cases k <;> decide

/-- Responses of an earlier learn scan belong to no scan (R243). -/
def PastLearn (s t : State) (c e : Nat) : Prop :=
  (t.chan c).built = (s.chan c).built.map (fun b => { b with kind := b.kind.spent }) ∧
    (t.eng e).probes = (s.eng e).probes.map (fun p => { p with kind := p.kind.spent })

theorem PastLearn.inFlight (h : PastLearn s t c e) : inFlight t c e .learn = [] := by
  have hbuilt : (t.chan c).built.filter (fun b => b.kind == .learn) = none := by
    rw [h.1]
    cases (s.chan c).built with
    | none => rfl
    | some b => simp [spent_ne_learn]
  have hprobes : (t.eng e).probes.filter (fun p => p.kind == .learn) = [] := by
    rw [h.2, List.filter_eq_nil_iff]
    intro q hq
    obtain ⟨x, -, rfl⟩ := List.mem_map.mp hq
    simp [spent_ne_learn]
  rw [Machine.inFlight, hbuilt, hprobes]
  rfl

theorem dropLearn_leaves (hchan : channelOf s e = some c) (hu : u = dropLearn s e) : PastLearn s u c e ∧ (u.eng e).learn = none ∧
    u.dict = s.dict ∧ u.mem = s.mem ∧ u.sent = s.sent ∧ u.faultQ = s.faultQ := by
  obtain ⟨v, hv⟩ : ∃ v, v = s.setEng e { s.eng e with
    learn := none, probes := (s.eng e).probes.map (fun p => { p with kind := p.kind.spent }) } := ⟨_, rfl⟩
  have heng : v.eng e = _ := hv ▸ State.setEng_same ..
  have hchan' : channelOf v e = some c := by rw [hv]; exact hchan
  have hdrop : u = v.setChan c { v.chan c with built := (v.chan c).built.map (fun b => { b with kind := b.kind.spent }) } := by
    rw [hu, dropLearn]
    dsimp only
    rw [← hv, hchan']
  obtain ⟨hvchans, hvdict, hvmem, hvsent, hvfault⟩ : v.chans = s.chans ∧ v.dict = s.dict ∧ v.mem = s.mem ∧ v.sent = s.sent ∧
      v.faultQ = s.faultQ := by
    subst hv
    exact ⟨rfl, rfl, rfl, rfl, rfl⟩
  have hueng : u.eng e = v.eng e := by rw [hdrop]; rfl
  have huchan : u.chan c = { v.chan c with built := (v.chan c).built.map (fun b => { b with kind := b.kind.spent }) } :=
    hdrop ▸ State.setChan_same ..
  refine ⟨⟨?_, ?_⟩, ?_, ?_⟩
  · rw [huchan, State.chan, hvchans]
    rfl
  · rw [hueng, heng]
  · rw [hueng, heng]
  · rw [hdrop]
    exact ⟨hvdict, hvmem, hvsent, hvfault⟩

theorem exec_learnStart (s : State) (p : Port) (e : Eng) : exec (.learnStart p e) s =
    .next (writeIf s p (s.superseded (.engine e)) E.probeLearn e 0 1 (learnStartAct e)) := rfl
theorem exec_learnCancel (s : State) (p : Port) (e : Eng) : exec (.learnCancel p e) s =
    .next (writeIf s p (s.superseded (.engine e)) E.probeLearn e 0 2 (learnCancelAct e)) := rfl

theorem storedEntry_probeLearn (e : Nat) : storedEntry E.probeLearn e = false := storedEntry_of_acc (by decide) (by decide) e

/-- A learn scan that may not start shows why (R244). -/
theorem learnStart_refused (h : Accepted s p (s.superseded (.engine e)) E.probeLearn e 0 1) {k : Nat} (hk : learnRefusal s e = k)
    (hne : k ≠ 0) : exec (.learnStart p e) s = .next ((s.wr E.learnStatus k e).answer p okCode) := by
  have hact : learnStartAct e s = (okCode, s.wr E.learnStatus k e) := by
    rw [learnStartAct, hk]
    exact if_pos hne
  rw [exec_learnStart, writeIf_unstored h (storedEntry_probeLearn e) hact okCode_ne_laterCode]

/-- The scan that starts (R243). -/
def newLearn (rate : Nat) : Learn := ⟨0, [], 0, [], 0, rate, 0, 0⟩

theorem learnStart_starts (h : Accepted s p (s.superseded (.engine e)) E.probeLearn e 0 1) (hchan : channelOf s e = some c)
    (hk : learnRefusal s e = 0) : Gives (.learnStart p e) s fun u =>
      (u.eng e).learn = some (newLearn (s.chan c).rateInt) ∧ inFlight u c e .learn = [] ∧ u.rd E.learnStatus e = 1 ∧
      u.sent = .answer p okCode [] :: s.sent ∧ u.faultQ = s.faultQ ∧ SameBut s u [rowKey E.learnStatus e 0] := by
  generalize hv : dropLearn s e = v
  obtain ⟨⟨hbuilt, hprobes⟩, -, hdict, hmem, hsent, hfault⟩ := dropLearn_leaves hchan hv.symm
  have hact : learnStartAct e s =
      (okCode, (v.setEng e { v.eng e with learn := some (newLearn (s.chan c).rateInt) }).wr E.learnStatus 1 e) := by
    rw [learnStartAct, hk, hchan, ← hv]
    rfl
  refine ⟨_, by rw [exec_learnStart, writeIf_unstored h (storedEntry_probeLearn e) hact okCode_ne_laterCode], ?_⟩
  obtain ⟨w, hw⟩ : ∃ w, w = v.setEng e { v.eng e with learn := some (newLearn (s.chan c).rateInt) } := ⟨_, rfl⟩
  rw [← hw]
  have heng : w.eng e = { v.eng e with learn := some (newLearn (s.chan c).rateInt) } := hw ▸ State.setEng_same ..
  obtain ⟨hwchan, hwsame, hwsent, hwfault⟩ : w.chan c = v.chan c ∧ SameBut s w [rowKey E.learnStatus e 0] ∧ w.sent = s.sent ∧
      w.faultQ = s.faultQ := by
    rw [hw]
    exact ⟨rfl, ⟨fun r i j _ => congrArg (fun d => aget _ _ d) hdict, fun x => congrArg (Memory.get · x) hmem⟩, hsent, hfault⟩
  have hpast : PastLearn s ((w.wr E.learnStatus 1 e).answer p okCode) c e := by
    refine ⟨?_, ?_⟩
    · rw [State.answer_chan, State.wr_chan, hwchan, hbuilt]
    · have hueng : ((w.wr E.learnStatus 1 e).answer p okCode).eng e = w.eng e := rfl
      rw [hueng, heng, hprobes]
  refine ⟨?_, hpast.inFlight, by rw [State.answer_rd, State.rd_wr_same], congrArg (List.cons _) hwsent, hwfault,
    (hwsame.wr (by simp) _).answer p okCode []⟩
  have hueng : ((w.wr E.learnStatus 1 e).answer p okCode).eng e = w.eng e := rfl
  rw [hueng, heng]

/-- A learn scan that is discarded (R244). -/
theorem learnCancel_discards (h : Accepted s p (s.superseded (.engine e)) E.probeLearn e 0 2) (hlearn : (s.eng e).learn.isSome = true)
    (hchan : channelOf s e = some c) : Gives (.learnCancel p e) s fun u =>
      (u.eng e).learn = none ∧ inFlight u c e .learn = [] ∧ u.rd E.learnStatus e = 6 ∧
      u.sent = .answer p okCode [] :: s.sent ∧ u.faultQ = s.faultQ ∧ SameBut s u [rowKey E.learnStatus e 0] := by
  generalize hv : dropLearn s e = v
  obtain ⟨⟨hbuilt, hprobes⟩, hnone, hdict, hmem, hsent, hfault⟩ := dropLearn_leaves hchan hv.symm
  have hact : learnCancelAct e s = (okCode, v.wr E.learnStatus 6 e) := by
    rw [learnCancelAct, discardLearn, if_neg (by simpa [Option.isSome_iff_ne_none] using hlearn), hv]
  refine ⟨_, by rw [exec_learnCancel, writeIf_unstored h (storedEntry_probeLearn e) hact okCode_ne_laterCode], ?_⟩
  have hpast : PastLearn s ((v.wr E.learnStatus 6 e).answer p okCode) c e := ⟨hbuilt, hprobes⟩
  have hsame : SameBut s v [rowKey E.learnStatus e 0] :=
    ⟨fun r i j _ => congrArg (fun d => aget _ _ d) hdict, fun x => congrArg (Memory.get · x) hmem⟩
  exact ⟨hnone, hpast.inFlight, by rw [State.answer_rd, State.rd_wr_same], congrArg (List.cons _) hsent, hfault, (hsame.wr (by simp) _).answer p okCode []⟩

theorem learnCancel_none (h : Accepted s p (s.superseded (.engine e)) E.probeLearn e 0 2) (hlearn : (s.eng e).learn = none) :
    exec (.learnCancel p e) s = .next (s.answer p okCode) := by
  have hact : learnCancelAct e s = (okCode, s) := by
    rw [learnCancelAct, discardLearn, hlearn]
    rfl
  rw [exec_learnCancel, writeIf_unstored h (storedEntry_probeLearn e) hact okCode_ne_laterCode]

/-! ### The end of a learn scan -/

/-- What learning a template changes beside the state that rounding draws from: bytes, and TEMPLATE_VALID, of which no bit
clears (R243). -/
structure TemplateKeeps (e : Nat) (s t : State) : Prop where
  rest : ∃ m d n, t = { s with mem := m, dict := d, fresh := n }
  rd : ∀ r i j, rowKey r i j ≠ rowKey E.templateValid e 0 → t.rd r i j = s.rd r i j
  valid : ∀ k, bit (s.rdN E.templateValid e) k = true → bit (t.rdN E.templateValid e) k = true

theorem templateValue_fresh (s : State) (x : Rat) (num : Nat) : ∃ n, (templateValue s x num).2 = { s with fresh := n } := by
  obtain ⟨n, hn⟩ := roundWord_eq s (x * 4 / num)
  unfold templateValue
  dsimp only
  split
  · exact ⟨n, hn⟩
  · rw [hn]
    exact ⟨_, rfl⟩

/-- The bytes of a template (R236, R243). -/
theorem templateBytes_rest (s : State) (e k : Nat) (sums : List Rat) (num : Nat) : ∃ m n,
    (List.range sums.length).foldl (fun s j =>
      let (v, s) := templateValue s ((sums[j]?).getD 0) num
      s.setBytes (templateAt e k + 2 * j) (toBytes 2 v)) s = { s with mem := m, fresh := n } := by
  refine foldl_preserves (P := fun t => ∃ m n, t = { s with mem := m, fresh := n }) _ (fun t j ht => ?_) _ _ ⟨_, _, rfl⟩
  obtain ⟨m, n, rfl⟩ := ht
  obtain ⟨n', hn'⟩ := templateValue_fresh { s with mem := m, fresh := n } ((sums[j]?).getD 0) num
  dsimp only
  rw [hn']
  exact ⟨_, _, rfl⟩

/-- A template with too few responses is not learned (R243). -/
theorem learnTemplate_few {k num : Nat} {sums : List Rat} (h : num < 256) : learnTemplate s e k sums num = s := if_pos h

theorem learnTemplate_learns (s : State) (e k : Nat) (sums : List Rat) (num : Nat) (hu : u = learnTemplate s e k sums num) :
    TemplateKeeps e s u ∧ (256 ≤ num → bit (u.rdN E.templateValid e) k = true) := by
  by_cases hfew : num < 256
  · rw [learnTemplate, if_pos hfew] at hu
    subst hu
    exact ⟨⟨⟨_, _, _, rfl⟩, fun _ _ _ _ => rfl, fun _ => id⟩, fun h => absurd h (Nat.not_le.mpr hfew)⟩
  · obtain ⟨m, n, hbytes⟩ := templateBytes_rest s e k sums num
    rw [learnTemplate, if_neg hfew] at hu
    dsimp only at hu hbytes
    rw [hbytes] at hu
    have hvalid : u.rdN E.templateValid e = s.rdN E.templateValid e ||| 2 ^ k := by
      rw [hu, State.rdN, State.rd_wr_same]
      rfl
    refine ⟨⟨?_, fun r i j hk => ?_, fun j hj => ?_⟩, fun _ => ?_⟩
    · rw [hu]
      exact ⟨_, _, _, rfl⟩
    · rw [hu]
      exact State.rd_wr _ _ _ _ _ _ _ _ hk
    · rw [hvalid, bit, Nat.testBit_or]
      rw [bit] at hj
      rw [hj, Bool.true_or]
    · rw [hvalid, bit, Nat.testBit_or, Nat.testBit_two_pow_self, Bool.or_true]

theorem exec_learnScanEnd (s : State) (e : Eng) : exec (.learnScanEnd e) s = .next (learnEndAct e s) := rfl

/-- The scan has probed every nozzle, and its rate is shown (R243). -/
theorem learnEnd_ends {l : Learn} (hlearn : (s.eng e).learn = some l) (hchan : channelOf s e = some c) (hall : learnNozzle s e l = none)
    (hfly : inFlight s c e .learn = []) (hu : u = learnEndAct e s)
    (hw : v = learnTemplate (learnTemplate (s.setEng e { s.eng e with learn := none }) e 0 l.sum0 l.num0) e 1 l.sum1 l.num1) :
    ∃ (r : Int) (n : Nat), u = ((({ v with fresh := n } : State).wr E.learnRate r e).wr E.learnStatus
      (if l.num0 < 256 ∨ l.num1 < 256 then 7 else 2) e).stale := by
  obtain ⟨x, hx⟩ : ∃ x : Rat, x = if l.rateNum = 0 then ((v.chan c).rateInt : Rat) else (l.rateSum : Rat) / l.rateNum := ⟨_, rfl⟩
  obtain ⟨n, hn⟩ := roundWord_eq v x
  refine ⟨clampInt 0 120000 (roundWord v x).1, n, ?_⟩
  unfold learnEndAct at hu
  dsimp only at hu
  rw [hlearn, hchan] at hu
  dsimp only at hu
  rw [if_neg (by simp [hall, hfly]), ← hw, ← hx, hn] at hu
  exact hu

theorem learnScan_ends {l : Learn} (hlearn : (s.eng e).learn = some l) (hchan : channelOf s e = some c)
    (hall : learnNozzle s e l = none) (hfly : inFlight s c e .learn = []) (hu : u = learnEndAct e s) : (u.eng e).learn = none ∧
      u.rd E.learnStatus e = (if l.num0 < 256 ∨ l.num1 < 256 then 7 else 2) ∧
      (256 ≤ l.num0 → bit (u.rdN E.templateValid e) 0 = true) ∧ (256 ≤ l.num1 → bit (u.rdN E.templateValid e) 1 = true) ∧
      u.faultQ = s.faultQ ∧ u.sent = s.sent ∧ (l.num0 < 256 → l.num1 < 256 → ∀ x, u.byte x = s.byte x) ∧
      ∀ r i j, rowKey r i j ∉ [rowKey E.learnStatus e 0, rowKey E.templateValid e 0, rowKey E.learnRate e 0] →
        u.rd r i j = s.rd r i j := by
  obtain ⟨w, hw⟩ : ∃ w, w = s.setEng e { s.eng e with learn := none } := ⟨_, rfl⟩
  have hweng : w.eng e = { s.eng e with learn := none } := hw ▸ State.setEng_same ..
  obtain ⟨hwbyte, hwfault, hwsent, hwrd⟩ : (∀ x, w.byte x = s.byte x) ∧ w.faultQ = s.faultQ ∧ w.sent = s.sent ∧
      ∀ r i j, w.rd r i j = s.rd r i j := by
    subst hw
    exact ⟨fun _ => rfl, rfl, rfl, fun _ _ _ => rfl⟩
  obtain ⟨rate, n, hend⟩ := learnEnd_ends hlearn hchan hall hfly hu rfl
  rw [← hw] at hend
  have hfew (h0 : l.num0 < 256) (h1 : l.num1 < 256) : learnTemplate (learnTemplate w e 0 l.sum0 l.num0) e 1 l.sum1 l.num1 = w := by
    rw [learnTemplate_few h1, learnTemplate_few h0]
  obtain ⟨hkeeps0, hbit0⟩ := learnTemplate_learns w e 0 l.sum0 l.num0 rfl
  generalize learnTemplate w e 0 l.sum0 l.num0 = x at hend hfew hkeeps0 hbit0
  obtain ⟨hkeeps1, hbit1⟩ := learnTemplate_learns x e 1 l.sum1 l.num1 rfl
  generalize learnTemplate x e 1 l.sum1 l.num1 = y at hend hfew hkeeps1 hbit1
  obtain ⟨⟨mx, dx, nx, hx⟩, hxrd, -⟩ := hkeeps0
  obtain ⟨⟨my, dy, ny, hy⟩, hyrd, hvalid⟩ := hkeeps1
  obtain ⟨hyeng, hyfault, hysent⟩ : y.engs = w.engs ∧ y.faultQ = w.faultQ ∧ y.sent = w.sent := by
    rw [hy, hx]
    exact ⟨rfl, rfl, rfl⟩
  obtain ⟨code, hcode⟩ : ∃ code : Int, code = if l.num0 < 256 ∨ l.num1 < 256 then 7 else 2 := ⟨_, rfl⟩
  rw [← hcode] at hend ⊢
  have hshown : u.rd E.learnStatus e = code := by
    rw [hend]
    exact State.rd_wr_same ({ y with fresh := n }.wr E.learnRate rate e) ..
  have hframe (r : Row) (i j : Nat) (hstatus : rowKey r i j ≠ rowKey E.learnStatus e 0)
      (hrate : rowKey r i j ≠ rowKey E.learnRate e 0) : u.rd r i j = y.rd r i j := by
    rw [hend]
    exact (State.rd_wr _ _ _ _ _ _ _ _ hstatus).trans (State.rd_wr _ _ _ _ _ _ _ _ hrate)
  have htemplate : u.rdN E.templateValid e = y.rdN E.templateValid e := by
    refine congrArg Int.toNat (hframe _ _ _ ?_ ?_) <;> simp only [rowKey, E.templateValid, E.learnStatus, E.learnRate] <;> omega
  obtain ⟨hueng, hufault, husent, hubyte⟩ : u.eng e = y.eng e ∧ u.faultQ = y.faultQ ∧ u.sent = y.sent ∧ ∀ a, u.byte a = y.byte a := by
    rw [hend]
    exact ⟨rfl, rfl, rfl, fun _ => rfl⟩
  refine ⟨?_, hshown, fun h0 => ?_, fun h1 => ?_, hufault.trans (hyfault.trans hwfault), husent.trans (hysent.trans hwsent),
    fun h0 h1 a => ?_, fun r i j hk => ?_⟩
  · rw [hueng, State.eng, hyeng, ← State.eng, hweng]
  · rw [htemplate]
    exact hvalid 0 (hbit0 h0)
  · rw [htemplate]
    exact hbit1 h1
  · rw [hubyte, hfew h0 h1, hwbyte]
  · simp only [List.mem_cons, List.not_mem_nil, or_false, not_or] at hk
    obtain ⟨hstatus, hvalidKey, hrate⟩ := hk
    rw [hframe r i j hstatus hrate, hyrd r i j hvalidKey, hxrd r i j hvalidKey, hwrd]

/-! ### HEALTH_EN -/

theorem exec_healthEnWrite (s : State) (p : Port) (e : Eng) : exec (.healthEnWrite p e 1) s =
    .next (writeIf s p (s.superseded (.engine e)) E.healthEn e 0 1 (healthEnAct e 1)) := rfl

theorem healthEn_refused (h : Accepted s p (s.superseded (.engine e)) E.healthEn e 0 1) (hvalid : s.rd E.templateValid e ≠ 3) :
    exec (.healthEnWrite p e 1) s = .next (s.answer p codeRange) := by
  have hact : healthEnAct e 1 s = (codeRange, s) := if_pos ⟨rfl, hvalid⟩
  rw [exec_healthEnWrite, writeIf_act_refuses h hact codeRange_ne_laterCode]

theorem healthEn_enables (h : Accepted s p (s.superseded (.engine e)) E.healthEn e 0 1) (hvalid : s.rd E.templateValid e = 3) :
    Gives (.healthEnWrite p e 1) s fun u => u.rd E.healthEn e = 1 ∧ u.sent = .answer p okCode [] :: s.sent ∧ u.faultQ = s.faultQ ∧
      SameBut s u [rowKey E.healthEn e 0] := by
  obtain ⟨v, hv⟩ : ∃ v, v = if (1 : Nat) = 1 ∧ s.rd E.healthEn e = 0 then s.setEng e { s.eng e with scanFrom := s.tick } else s :=
    ⟨_, rfl⟩
  have hact : healthEnAct e 1 s = (okCode, v.wr E.healthEn 1 e) := by
    rw [healthEnAct, if_neg (by simp [hvalid]), hv]
    rfl
  obtain ⟨hsame, hsent, hfault⟩ : SameBut s v [rowKey E.healthEn e 0] ∧ v.sent = s.sent ∧ v.faultQ = s.faultQ := by
    subst hv
    split
    · exact ⟨.refl s _, rfl, rfl⟩
    · exact ⟨.refl s _, rfl, rfl⟩
  refine gives_of_writeIf (exec_healthEnWrite s p e) h hact okCode_ne_laterCode fun b => ?_
  have hshown : ((v.wr E.healthEn 1 e).withStale b).rd E.healthEn e = 1 := State.rd_wr_same v E.healthEn 1 e 0
  exact ⟨by rw [State.answer_rd, hshown], congrArg (List.cons _) hsent, hfault, ((hsame.wr (by simp) _).withStale b).answer p okCode []⟩

/-! ### The health map -/

theorem exec_healthMapWrite (s : State) (p : Port) (e : Eng) (ofs : Nat) (d : List Byte) : exec (.healthMapWrite p e ofs d) s =
    .next (writeIf s p (s.superseded (.engine e)) E.healthMap e 0 0 (blockAct E.healthMap e ofs d (healthMapAct e ofs d))) := rfl

/-- The first byte of an entry, written alone (R247). -/
theorem healthMapAct_first (s : State) (e n : Nat) (b : Byte) :
    healthMapAct e (6 * n) [b] s = (okCode, mapEntryWrite s e n (6 * n) [b]) := by
  have hfirst : 6 * n / 6 = n := by omega
  have hlast : (6 * n + [b].length - 1) / 6 = n := by
    rw [List.length_singleton]
    omega
  have hwidth : 6 * (n + 1) - 6 * n = 6 := by omega
  have hone : (List.range (n + 1 - n)).map (· + n) = [n] := by
    rw [Nat.add_sub_cancel_left]
    simp
  rw [healthMapAct, hfirst, hlast, hone, mapEntriesWrite, hwidth]
  rfl

/-- A state in which a nozzle whose STATE is written is not to be probed again, unless it is forced failed. -/
def dropAgain (s : State) (e n st : Nat) : State :=
  s.setEng e { s.eng e with again := (s.eng e).again.filter (fun m => m != n || st == 5) }

/-- What an entry whose STATE has been written leaves beside it. -/
theorem dropAgain_leaves {e st x : Nat} (hu : u = dropAgain (s.setHealth e n x) e n st) : u.health e n = x % 2 ^ 48 ∧
    (∀ m, m ≠ n → u.health e m = s.health e m) ∧ u.sent = s.sent ∧ u.faultQ = s.faultQ ∧ (∀ r i j, u.rd r i j = s.rd r i j) ∧
    (u.eng e).stitch = (s.eng e).stitch := by
  obtain ⟨v, hv⟩ : ∃ v, v = s.setHealth e n x := ⟨_, rfl⟩
  have hentry : v.health e n = x % 2 ^ 48 := by rw [hv, health_setHealth]
  have hothers : ∀ m, m ≠ n → v.health e m = s.health e m := fun m hm => by rw [hv, health_setHealth_ne s hm]
  obtain ⟨hsent, hfault, hdict, hengs⟩ : v.sent = s.sent ∧ v.faultQ = s.faultQ ∧ v.dict = s.dict ∧ v.engs = s.engs := by
    rw [hv, State.setHealth]
    exact ⟨State.setBytes_sent .., State.setBytes_faultQ .., State.setBytes_dict .., State.setBytes_engs ..⟩
  rw [← hv, dropAgain] at hu
  have heng : (u.eng e).stitch = (s.eng e).stitch := by
    rw [hu, State.setEng_same, State.eng, hengs]
    rfl
  obtain ⟨hmem, husent, hufault, hudict⟩ : u.mem = v.mem ∧ u.sent = v.sent ∧ u.faultQ = v.faultQ ∧ u.dict = v.dict := by
    subst hu
    exact ⟨rfl, rfl, rfl, rfl⟩
  refine ⟨by rw [health_of_mem hmem, hentry], fun m hm => by rw [health_of_mem hmem, hothers m hm], husent.trans hsent,
    hufault.trans hfault, fun r i j => ?_, heng⟩
  rw [State.rd, State.rd, hudict, hdict]

/-- What the STATE bits of a byte do to an entry (R247). -/
theorem mapEntryWrite_first (s : State) (e n : Nat) (b : Byte) {st : Nat} (hst : b.toNat / 32 = st) :
    (st = 6 → mapEntryWrite s e n (6 * n) [b] = dropAgain (s.setHealth e n (putBits (s.health e n) 47 45 6)) e n 6) ∧
    (st = 7 → mapEntryWrite s e n (6 * n) [b] = dropAgain (s.setHealth e n (putBits (s.health e n) 47 41 0)) e n 7) ∧
    (st = 5 → hFailed (s.health e n) = false → channelOf s e = some c → mapEntryWrite s e n (6 * n) [b] =
      nozzleFails (dropAgain (s.setHealth e n (putBits (s.health e n) 47 45 5)) e n 5) c e n) := by
  have hbits : bits b.toNat 7 5 = st := by
    have hlt : b.toNat < 256 := b.isLt
    rw [bits, Nat.shiftRight_eq_div_pow, ← hst]
    exact Nat.mod_eq_of_lt (by omega)
  have hfirst : 6 * n ≤ 6 * n ∧ 6 * n < 6 * n + [b].length := ⟨Nat.le_refl _, by simp⟩
  have hout (i : Nat) (hi : 1 ≤ i) : ¬(6 * n ≤ 6 * n + i ∧ 6 * n + i < 6 * n + [b].length) := by
    rw [List.length_singleton]
    omega
  have hstate : (if 6 * n ≤ 6 * n ∧ 6 * n < 6 * n + [b].length then bits (([b][6 * n - 6 * n]?).getD 0).toNat 7 5 else 0) = st := by
    rw [if_pos hfirst, Nat.sub_self]
    exact hbits
  unfold mapEntryWrite
  dsimp only
  rw [hstate, if_neg (hout 2 (by decide)), if_neg (hout 3 (by decide)), if_neg (hout 4 (by decide))]
  refine ⟨fun h => ?_, fun h => ?_, fun h hfail hchan => ?_⟩
  · subst h
    rfl
  · subst h
    rfl
  · subst h
    obtain ⟨h4, h5⟩ : hState (s.health e n) ≠ 4 ∧ hState (s.health e n) ≠ 5 := by simpa [hFailed] using hfail
    have hchan' : channelOf (dropAgain (s.setHealth e n (putBits (s.health e n) 47 45 5)) e n 5) e = some c := by
      obtain ⟨-, -, -, -, hrd, -⟩ := dropAgain_leaves (s := s) (e := e) (n := n) (st := 5) rfl
      rw [channelOf, State.rdN, hrd]
      exact hchan
    rw [if_pos ⟨rfl, h5⟩, if_neg h4]
    change (match channelOf (dropAgain (s.setHealth e n (putBits (s.health e n) 47 45 5)) e n 5) e with
      | some c => nozzleFails (dropAgain (s.setHealth e n (putBits (s.health e n) 47 45 5)) e n 5) c e n
      | none => _) = _
    rw [hchan']

/-- A field within one that has been cleared. -/
theorem bits_putBits_zero {x hi lo hi' lo' : Nat} (h : lo ≤ hi) (hlo : lo ≤ lo') (hhi : hi' ≤ hi) :
    bits (putBits x hi lo 0) hi' lo' = 0 := by
  apply Nat.eq_of_testBit_eq
  intro i
  rw [testBit_bits, testBit_putBits h, Nat.zero_testBit, Nat.zero_testBit]
  by_cases hi'' : i < hi' + 1 - lo'
  · rw [if_pos (by omega), Bool.and_false]
  · simp [hi'']

/-- A write of the first byte of an entry gives what the entry's change and its answer give (R247). -/
theorem healthMapWrite_gives (h : Accepted s p (s.superseded (.engine e)) E.healthMap e 0 0) {b : Byte} (hn : n < 12288)
    (hact : mapEntryWrite s e n (6 * n) [b] = u) {P : State → Prop} (hP : ∀ b, P ((u.withStale b).answer p okCode)) :
    Gives (.healthMapWrite p e (6 * n) [b]) s P := by
  have hfits : ¬ tyBytes E.healthMap.ty < 6 * n + [b].length := by
    have hlen : tyBytes E.healthMap.ty = 73728 := rfl
    rw [hlen, List.length_singleton]
    omega
  have hblock : ∃ b', blockAct E.healthMap e (6 * n) [b] (healthMapAct e (6 * n) [b]) s = (okCode, u.withStale b') := by
    rw [blockAct, if_neg hfits, healthMapAct_first, hact]
    dsimp only
    split
    · exact ⟨true, rfl⟩
    · exact ⟨u.store.crcStale, rfl⟩
  obtain ⟨b', hb⟩ := hblock
  exact gives_of_writeIf (exec_healthMapWrite s p e (6 * n) [b]) h hb okCode_ne_laterCode fun b => hP b

/-- Settles O48. -/
theorem learnAndHealthWrites : Obligations.LearnAndHealthWrites := by
  unfold Obligations.LearnAndHealthWrites
  intro p e s
  refine ⟨fun h c hchan => ?_, fun h => ⟨fun c hlearn hchan => learnCancel_discards h hlearn hchan, learnCancel_none h⟩,
    fun l c hlearn hchan hall hfly => ⟨_, exec_learnScanEnd s e, learnScan_ends hlearn hchan hall hfly rfl⟩,
    fun h => ⟨healthEn_refused h, healthEn_enables h⟩, fun h n b hn => ?_⟩
  · have hrefusal : learnRefusal s e = if s.dev ≠ .printing then 3 else if !(s.chan c).rxUp then 4
        else if s.rd E.hlMode e = 1 then 5 else if !(s.chan c).calDone then 8 else 0 := by
      rw [learnRefusal, hchan]
    refine ⟨fun hdev => ?_, fun hdev hrx => ?_, fun hdev hrx hmode => ?_, fun hdev hrx hmode hcal => ?_⟩
    · exact learnStart_refused h (hrefusal.trans (if_pos hdev)) (by decide)
    · exact learnStart_refused h (hrefusal.trans (by simp [hdev, hrx])) (by decide)
    · exact learnStart_refused h (hrefusal.trans (by simp [hdev, hrx, hmode])) (by decide)
    · exact learnStart_starts h hchan (hrefusal.trans (by simp [hdev, hrx, hmode, hcal]))
  · obtain ⟨hexempt, hunknown, -⟩ := mapEntryWrite_first (c := 0) s e n b rfl
    refine ⟨fun hst => ?_, fun hst => ?_, fun c hst hfail hchan hstitch => ?_⟩
    · obtain ⟨v, hv⟩ : ∃ v, v = dropAgain (s.setHealth e n (putBits (s.health e n) 47 45 6)) e n 6 := ⟨_, rfl⟩
      obtain ⟨hentry, hothers, hsent, hfault, hrd, -⟩ := dropAgain_leaves hv
      have hact : mapEntryWrite s e n (6 * n) [b] = v := hv ▸ hexempt hst
      have hmem (b : Bool) : ((v.withStale b).answer p okCode).mem = v.mem := rfl
      refine healthMapWrite_gives h hn hact fun b => ⟨?_, fun m hm => ?_, congrArg (List.cons _) hsent, hfault, hrd⟩
      · rw [health_of_mem (hmem b), hentry, hState, bits_mod_two_pow (by decide)]
        exact bits_putBits_same (by decide)
      · rw [health_of_mem (hmem b), hothers m hm]
    · obtain ⟨v, hv⟩ : ∃ v, v = dropAgain (s.setHealth e n (putBits (s.health e n) 47 41 0)) e n 7 := ⟨_, rfl⟩
      obtain ⟨hentry, hothers, hsent, hfault, hrd, -⟩ := dropAgain_leaves hv
      have hact : mapEntryWrite s e n (6 * n) [b] = v := hv ▸ hunknown hst
      have hmem (b : Bool) : ((v.withStale b).answer p okCode).mem = v.mem := rfl
      refine healthMapWrite_gives h hn hact fun b => ⟨?_, ?_, ?_, fun m hm => ?_, congrArg (List.cons _) hsent, hfault, hrd⟩
      · rw [health_of_mem (hmem b), hentry, hState, bits_mod_two_pow (by decide)]
        exact bits_putBits_zero (by decide) (by decide) (by decide)
      · rw [health_of_mem (hmem b), hentry, hStrikes, bits_mod_two_pow (by decide)]
        exact bits_putBits_zero (by decide) (by decide) (by decide)
      · rw [health_of_mem (hmem b), hentry, hResolved, bit_mod_two_pow (by decide), bit, testBit_putBits (by decide),
          if_pos (by decide), Nat.zero_testBit]
      · rw [health_of_mem (hmem b), hothers m hm]
    · obtain ⟨v, hv⟩ : ∃ v, v = dropAgain (s.setHealth e n (putBits (s.health e n) 47 45 5)) e n 5 := ⟨_, rfl⟩
      obtain ⟨hentry, hothers, hsent, hfault, hrd, hkept⟩ := dropAgain_leaves hv
      have hact : mapEntryWrite s e n (6 * n) [b] = nozzleFails v c e n := by
        rw [hv]
        exact (mapEntryWrite_first s e n b rfl).2.2 hst hfail hchan
      generalize hw : nozzleFails v c e n = w at hact
      obtain ⟨-, hcount, hlast, hwfault, hwmem, hwsent, -⟩ := nozzleFails_leaves (hkept.symm ▸ hstitch) hw.symm
      rw [hrd] at hcount
      rw [hfault] at hwfault
      have hmem (b : Bool) : ((w.withStale b).answer p okCode).mem = v.mem := hwmem
      refine healthMapWrite_gives h hn hact fun b => ⟨?_, fun m hm => ?_, ?_, ?_, hwfault, congrArg (List.cons _) (hwsent.trans hsent)⟩
      · rw [health_of_mem (hmem b), hentry, hState, bits_mod_two_pow (by decide)]
        exact bits_putBits_same (by decide)
      · rw [health_of_mem (hmem b), hothers m hm]
      · rw [State.answer_rd, withStale_rd, hcount]
      · rw [State.answer_rd, withStale_rd, hlast]

end Sys2Proof.Machine
end

section
/-!
SUPPORT. The writes of RESTORE's records leave the slots of the flash as they are (R482, R483).
-/
namespace Sys2Proof.Machine

variable {s t u : State}

/-! ### What leaves the store -/

/-- The store is as it was, but that CONFIG_CRC may be stale (R484). -/
structure StoreKept (s t : State) : Prop where
  store : ∃ b, t.store = { s.store with crcStale := b }

namespace StoreKept

theorem same (h : t.store = s.store) : StoreKept s t := ⟨s.store.crcStale, h⟩

theorem refl (s : State) : StoreKept s s := same rfl

theorem trans (h : StoreKept s t) (h' : StoreKept t u) : StoreKept s u := by
  obtain ⟨b, hb⟩ := h.store
  obtain ⟨b', hb'⟩ := h'.store
  exact ⟨b', by rw [hb', hb]⟩

theorem slotA (h : StoreKept s t) : t.store.slotA = s.store.slotA := by
  obtain ⟨b, hb⟩ := h.store
  rw [hb]

theorem slotB (h : StoreKept s t) : t.store.slotB = s.store.slotB := by
  obtain ⟨b, hb⟩ := h.store
  rw [hb]

theorem ite {q : Prop} [Decidable q] (ht : StoreKept s t) (hu : StoreKept s u) : StoreKept s (if q then t else u) := by
  split <;> assumption

/-- A write that a condition chooses. -/
theorem pick {q : Prop} [Decidable q] {x y : Nat × State} (hx : StoreKept s x.2) (hy : StoreKept s y.2) :
    StoreKept s (if q then x else y).2 := by
  split <;> assumption

theorem foldl {α : Type} (f : State → α → State) (hf : ∀ s x, StoreKept s (f s x)) :
    ∀ (l : List α) (s : State), StoreKept s (l.foldl f s)
  | [], s => .refl s
  | x :: r, s => (hf s x).trans (foldl f hf r _)

theorem wr (s : State) (q : Row) (v : Int) (x y : Nat) : StoreKept s (s.wr q v x y) := same (s.wr_store q v x y)
theorem wrHeld (s : State) (q : Row) (v : Int) (x y : Nat) : StoreKept s (s.wrHeld q v x y) := ⟨_, rfl⟩
theorem setEng (s : State) (e : Nat) (x : EngSt) : StoreKept s (s.setEng e x) := same (s.setEng_store e x)
theorem setBytes (s : State) (a : Nat) (l : List Byte) : StoreKept s (s.setBytes a l) := same (s.setBytes_store a l)
theorem report (s : State) (src kind addr : Nat) : StoreKept s (s.report src kind addr) := same (s.report_store src kind addr)
theorem emit (s : State) (o : Out) : StoreKept s (s.emit o) := same (s.emit_store o)
theorem count (s : State) (r : Row) (i n : Nat) : StoreKept s (s.count r i n) := wr _ _ _ _ _
theorem stale (s : State) : StoreKept s s.stale := ⟨true, rfl⟩

theorem skipRecord (s : State) : StoreKept s (skipRecord s) := count _ _ _ _

/-! ### Engines and their tables -/

theorem swings (s : State) (e : Nat) : StoreKept s (swings s e) := by
  have hround (t : State) (x : Rat) : StoreKept t (roundWord t x).2 := by
    obtain ⟨n, hn⟩ := roundWord_eq t x
    exact hn ▸ same rfl
  unfold Machine.swings
  exact (setEng s _ _).trans (.foldl _ (fun t x => (hround t _).trans (.wr _ _ _ _ _)) _ _)

theorem ampKeeps (h : AmpKeeps s t) : StoreKept s t := same (congrArg State.store h.beyond :)

theorem allAmpSettings (s : State) : StoreKept s (allAmpSettings s) := ampKeeps (.allAmpSettings s)
theorem allAmpLimits (s : State) : StoreKept s (allAmpLimits s) := ampKeeps (.allAmpLimits s)

theorem ampLimits (s : State) (c : Nat) : StoreKept s (ampLimits s c) := by
  have hset (t : State) (b : Bool) (v : Int) : StoreKept t ((t.setChan c { t.chan c with ceilHit := b }).wr E.gain v c) := same rfl
  unfold Machine.ampLimits
  split
  · exact refl s
  · refine ((wr s _ _ _ _).trans (wr _ _ _ _ _)).trans (.ite ?_ (hset _ _ _))
    split
    · exact refl _
    · exact .ite (refl _) ((hset _ _ _).trans (wr _ _ _ _ _))

theorem ampSettings (s : State) (c : Nat) : StoreKept s (ampSettings s c) := by
  refine trans ?_ (ampLimits _ _)
  unfold Machine.ampTarget
  split
  · exact refl s
  · exact wr _ _ _ _ _

theorem shadowWrite (s : State) (e : Nat) (tb : Table) (ofs : Nat) (data : List Byte) (port : Option Port) :
    StoreKept s (shadowWrite s e tb ofs data port).2 := by
  unfold Machine.shadowWrite
  exact pick (setEng _ _ _) ((setBytes _ _ _).trans (setEng _ _ _))

theorem beginFold (s : State) (e : Nat) : StoreKept s (beginFold s e) := by
  have hrun (g : Nat) (set : List Nat) : StoreKept s (runFold s g set).st := same (congrArg State.store (runFold_foldRest s g set) :)
  unfold Machine.beginFold
  exact ((hrun _ _).trans (.foldl _ (fun t y => setEng t _ _) _ _)).trans (.foldl _ (fun t y => setEng t _ _) _ _)

theorem noteFailure (s : State) (c e n : Nat) : StoreKept s (noteFailure s c e n) := by
  unfold Machine.noteFailure
  refine .ite ?_ (.foldl _ (fun t z => setEng t _ _) _ _)
  unfold requestStitch
  exact .ite (setEng _ _ _) ((setEng _ _ _).trans (beginFold _ _))

theorem setHealth (s : State) (e n h : Nat) : StoreKept s (s.setHealth e n h) := setBytes _ _ _

/-- A nozzle that fails is counted and reported. -/
theorem failReport (s : State) (e : Nat) (n : Int) (kind addr : Nat) :
    StoreKept s (((s.count16 E.failedCount e).wr E.lastFailed n e).report e kind addr) :=
  ((wr _ _ _ _ _).trans (wr _ _ _ _ _)).trans (report _ _ _ _)

theorem nozzleFails (s : State) (c e n : Nat) : StoreKept s (nozzleFails s c e n) :=
  (failReport s e n 0xD _).trans (noteFailure _ _ _ _)

theorem mapEntryWrite (s : State) (e n ofs : Nat) (data : List Byte) : StoreKept s (mapEntryWrite s e n ofs data) := by
  have hput (h : Nat) (x : State → EngSt) : StoreKept s ((s.setHealth e n h).setEng e (x (s.setHealth e n h))) :=
    (setHealth s e n h).trans (setEng _ _ _)
  have hfail (v : State) : StoreKept v (match channelOf v e with
      | some c => Machine.nozzleFails v c e n
      | none => ((v.count16 E.failedCount e).wr E.lastFailed n e).report e 0xD (0xFF * 2 ^ 40 + n)) := by
    split
    · exact nozzleFails _ _ _ _
    · exact failReport _ _ _ _ _
  unfold Machine.mapEntryWrite
  refine .ite ?_ (.ite (hput _ fun t => _) (.ite (hput _ fun t => _) (setHealth s _ _ _)))
  exact trans (hput _ fun t => _) (.ite (refl _) (hfail _))

theorem mapEntriesWrite (e : Nat) : ∀ (l : List Nat) (ofs : Nat) (data : List Byte) (s : State),
    StoreKept s (mapEntriesWrite e l ofs data s)
  | [], _, _, s => refl s
  | _ :: r, _, _, s => (mapEntryWrite s _ _ _ _).trans (mapEntriesWrite e r _ _ _)

theorem healthMapAct (s : State) (e ofs : Nat) (data : List Byte) : StoreKept s (healthMapAct e ofs data s).2 :=
  mapEntriesWrite e _ _ _ s

theorem templateAct (s : State) (e k ofs : Nat) (data : List Byte) : StoreKept s (templateAct e k ofs data s).2 :=
  (setBytes _ _ _).trans (wr _ _ _ _ _)

theorem ampEntryAct (s : State) (r : Row) (v : Int) : StoreKept s (ampEntryAct r v s).2 := by
  have hlimits := allAmpLimits (s.wr r v)
  unfold Machine.ampEntryAct
  dsimp only
  exact (wr s r v 0 0).trans hlimits

theorem ampScaleAct (s : State) (v : Int) (c : Nat) : StoreKept s (Machine.ampSettings (s.wr E.ampScale v c) c) :=
  (wr s _ _ _ _).trans (ampSettings _ _)

theorem scoreAct (s : State) (lax : Bool) (r : Row) (e : Nat) (v : Int) : StoreKept s (scoreAct lax r e v s).2 := by
  unfold Machine.scoreAct
  exact pick (refl s) (wr _ _ _ _ _)

theorem healthEnAct (s : State) (e v : Nat) : StoreKept s (healthEnAct e v s).2 := by
  have hset : StoreKept s (if v = 1 ∧ s.rd E.healthEn e = 0 then s.setEng e { s.eng e with scanFrom := s.tick } else s) :=
    .ite (setEng s _ _) (refl s)
  unfold Machine.healthEnAct
  exact pick (refl s) (hset.trans (wr _ _ _ _ _))

/-! ### Position, heads and outputs -/

theorem srcPrimaryAct (s : State) (v : Nat) : StoreKept s (srcPrimaryAct v s).2 := same rfl

theorem srcSecondaryAct (s : State) (v : Nat) : StoreKept s (srcSecondaryAct v s).2 := wr _ _ _ _ _

theorem encConfigAct (s : State) (n : Nat) (f : EncField) (v : Nat) : StoreKept s (encConfigAct n f v s).2 := by
  unfold Machine.encConfigAct
  exact pick (refl s) (.ite (same rfl) (same rfl))

theorem ringPosNodeAct (s : State) (v : Nat) : StoreKept s (ringPosNodeAct v s).2 := by
  unfold Machine.ringPosNodeAct
  exact pick (refl s) (.ite (same rfl) (same rfl))

theorem handoverEntryAct (s : State) (r : Row) (l : Nat) (v : Int) : StoreKept s (handoverEntryAct r l v s).2 := by
  unfold Machine.handoverEntryAct
  exact pick (refl s) (wr _ _ _ _ _)

theorem heaterForce (s : State) (c : Nat) : StoreKept s (heaterForce s c) := by
  have hloop (x : LoopSt) : StoreKept s (s.setLoop (98 + c) x) := same rfl
  have hoff : StoreKept s ((s.wr E.output 0 (98 + c)).wr E.heaterDuty 0 c) := (wr _ _ _ _ _).trans (wr _ _ _ _ _)
  have hstart (t : State) : StoreKept t (heaterStart t c) := ⟨(heaterStart_leaves t c rfl).1.store⟩
  unfold Machine.heaterForce
  exact .ite (hloop _) (.ite hoff (hoff.trans (hstart _)))

theorem heaterSetAct (s : State) (lax : Bool) (c : Nat) (v : Int) : StoreKept s (heaterSetAct lax c v s).2 := by
  unfold Machine.heaterSetAct
  exact pick (refl s) (((wr s _ _ _ _).trans (wrHeld _ _ _ _ _)).trans (heaterForce _ _))

theorem otThreshAct (s : State) (lax : Bool) (v : Int) : StoreKept s (otThreshAct lax v s).2 := by
  unfold Machine.otThreshAct
  exact pick (refl s) (wr _ _ _ _ _)

theorem speedLimFreqAct (s : State) (v : Nat) : StoreKept s (speedLimFreqAct v s).2 := by
  have hrest (t : State) : StoreKept t (restPin t) := .ite (same rfl) (refl t)
  have hstart (t : State) : StoreKept t (pwmStart t) := .ite (hrest t) (same rfl)
  exact (wr s E.speedLimFreq v 0 0).trans (hstart _)

theorem sendPattern (s : State) : StoreKept s (sendPattern s) := .ite (emit _ _) (refl s)

theorem prbsSelAct (s : State) (v : Nat) : StoreKept s (prbsSelAct v s).2 := by
  unfold Machine.prbsSelAct
  exact pick (refl s) (((wr s _ _ _ _).trans (wr _ _ _ _ _)).trans (sendPattern _))

theorem prbsLinkAct (s : State) (v : Nat) : StoreKept s (prbsLinkAct v s).2 := by
  unfold Machine.prbsLinkAct
  exact pick (refl s) (((wr s _ _ _ _).trans (wr _ _ _ _ _)).trans (sendPattern _))

/-! ### Loops, sections and the log -/

theorem logEnAct (s : State) (v : Nat) : StoreKept s (logEnAct v s).2 := by
  unfold Machine.logEnAct
  exact pick (refl s) (wr _ _ _ _ _)

theorem loopEnAct (s : State) (l v : Nat) : StoreKept s (loopEnAct l v s).2 := by
  unfold Machine.loopEnAct
  refine pick (refl s) (pick ?_ (pick (refl s) (pick (refl s) ((wr _ _ _ _ _).trans (wr _ _ _ _ _)))))
  exact .ite ((wr _ _ _ _ _).trans (ampSettings _ _)) (wr _ _ _ _ _)

theorem chainWriteAct (s : State) (r : Row) (l v : Nat) : StoreKept s (chainWriteAct r l v s).2 := by
  unfold Machine.chainWriteAct
  exact pick (wr _ _ _ _ _) (pick (refl s) (pick (wr _ _ _ _ _) (refl s)))

theorem sourceWriteAct (s : State) (r : Row) (l v : Nat) : StoreKept s (sourceWriteAct r l v s).2 := by
  unfold Machine.sourceWriteAct
  exact pick (wr _ _ _ _ _) (refl s)

theorem outLimitAct (s : State) (lax : Bool) (r : Row) (l : Nat) (v : Int) : StoreKept s (outLimitAct lax r l v s).2 := by
  unfold Machine.outLimitAct limitWriteAct
  exact pick (wrHeld _ _ _ _ _) (pick (wrHeld _ _ _ _ _) (refl s))

theorem releaseEcc (s : State) : StoreKept s (releaseEcc s) := same rfl

theorem sectionWriteAct (s : State) (k sub ofs : Nat) (data : List Byte) : StoreKept s (sectionWriteAct k sub ofs data s).2 := by
  have hset (x : Section) : StoreKept s (s.setSec k x) := same (s.setSec_store k x)
  have hnote (t : State) : StoreKept t (noteRewrite t k) := same rfl
  unfold Machine.sectionWriteAct
  exact pick (pick (refl s) (.ite ((hset _).trans (hnote _)) (hset _))) (pick (refl s) (pick (refl s) (hset _)))

theorem sectionCode (s : State) (k sub ofs : Nat) (data : List Byte) : StoreKept s (sectionCode s k sub ofs data).2 := by
  have hwrite := sectionWriteAct s k sub ofs data
  unfold Machine.sectionCode
  exact pick (refl s) (pick (refl s) (pick (refl s) (pick (refl s) (pick (refl s) (pick (refl s) (hwrite.trans (stale _)))))))

/-! ### Ring buffers, ports and faults -/

theorem geometryAct (s : State) (r : Nat) (f : GeoField) (v : Nat) : StoreKept s (geometryAct r f v s).2 :=
  (wr _ _ _ _ _).trans (wr _ _ _ _ _)

theorem portEnAct (s : State) (p v : Nat) : StoreKept s (portEnAct p v s).2 := by
  unfold Machine.portEnAct
  exact .ite (same rfl) (same rfl)

theorem rsEnAct (s : State) (r v : Nat) : StoreKept s (rsEnAct r v s).2 := by
  have hstream : StoreKept s (if s.rd E.rsEn r = v then s else s.setStream r {}) := .ite (refl s) (same (s.setStream_store r {}))
  unfold Machine.rsEnAct
  exact pick (refl s) (hstream.trans (wr _ _ _ _ _))

theorem clearSource (s : State) (src : Nat) : StoreKept s (clearSource s src) := by
  have hnote (t : State) : StoreKept t (noteCleared t) := same rfl
  have hclear : StoreKept s (clearSticky s src) := by
    unfold clearSticky
    have hword : StoreKept s ((s.wr E.sticky 0 src).wr E.stickyClass 0 src) := (wr _ _ _ _ _).trans (wr _ _ _ _ _)
    have hstop (x : EngSt) := hword.trans (.ite (q := src ≤ 0x63) (setEng _ src x) (refl _))
    exact .ite (refl s) (.ite ((hstop _).trans (hnote _)) (hstop _))
  exact hclear.trans (.foldl _ (fun t x => report t _ _ _) _ _)

theorem stickyClearAct (s : State) (src : Nat) : StoreKept s (stickyClearAct src s).2 := clearSource s src

theorem lostClearAct (s : State) : StoreKept s (lostClearAct s).2 := wr _ _ _ _ _

end StoreKept

/-! ### The write of an entry -/

/-- Entries that no image holds and that a write acts on, and DOM_REQ, whose records are applied before the others (R478, R483). -/
def runKeys : List Nat :=
  [E.command.k0, E.changeover.k0, E.tableCommit.k0, E.takeover.k0, E.probeLearn.k0, E.loopCmd.k0, E.mapOp.k0, E.start.k0, E.abort.k0,
    E.pause.k0, E.dmaDone.k0, E.rbWr.k0, E.clearAll.k0, E.domReq.k0, E.otpOp.k0, E.calCmd.k0, E.ringAddr.k0, E.headVCeil.k0,
    E.personaDefault.k0, E.chDisable.k0]

/-- A behaviour that leaves the store, of an entry that an image may hold. -/
def ActKept (x : Nat × (State → Nat × State)) : Prop := x.1 ∉ runKeys → ∀ s, StoreKept s (x.2 s).2

theorem actKept_run {k : Nat} {f : State → Nat × State} (h : k ∈ runKeys) : ActKept (k, f) := fun hk => absurd h hk

theorem actKept {k : Nat} {f : State → Nat × State} (h : ∀ s, StoreKept s (f s).2) : ActKept (k, f) := fun _ => h

theorem entryActs_kept (r : Row) (i : Nat) (v : Int) (port : Option Port) (lax : Bool) : ∀ x ∈ entryActs r i v port lax, ActKept x := by
  have hrun {k : Nat} {f : State → Nat × State} (h : k ∈ runKeys) : ActKept (k, f) := actKept_run h
  unfold entryActs
  simp only [List.forall_mem_cons, List.not_mem_nil, false_implies, implies_true, and_true]
  refine ⟨hrun (by decide), hrun (by decide), actKept fun s => .srcPrimaryAct s _, actKept fun s => .srcSecondaryAct s _,
    actKept fun s => .encConfigAct s _ _ _, actKept fun s => .encConfigAct s _ _ _, actKept fun s => .encConfigAct s _ _ _,
    actKept fun s => .ringPosNodeAct s _, actKept fun s => .speedLimFreqAct s _, hrun (by decide), hrun (by decide),
    actKept fun s => .ampScaleAct s _ _, actKept fun s => .ampEntryAct s _ _, actKept fun s => .ampEntryAct s _ _,
    actKept fun s => .ampEntryAct s _ _, actKept fun s => .heaterSetAct s _ _ _, actKept fun s => .otThreshAct s _ _,
    actKept fun s => .scoreAct s _ _ _ _, actKept fun s => .scoreAct s _ _ _ _, actKept fun s => .healthEnAct s _ _, hrun (by decide),
    actKept fun s => .logEnAct s _, actKept fun s => .loopEnAct s _ _, hrun (by decide), actKept fun s => .chainWriteAct s _ _ _,
    actKept fun s => .chainWriteAct s _ _ _, actKept fun s => .chainWriteAct s _ _ _, actKept fun s => .chainWriteAct s _ _ _,
    actKept fun s => .sourceWriteAct s _ _ _, actKept fun s => .sourceWriteAct s _ _ _, actKept fun s => .sourceWriteAct s _ _ _,
    actKept fun s => .outLimitAct s _ _ _ _, actKept fun s => .outLimitAct s _ _ _ _, actKept fun s => .handoverEntryAct s _ _ _,
    actKept fun s => .handoverEntryAct s _ _ _, hrun (by decide), hrun (by decide), hrun (by decide), hrun (by decide),
    hrun (by decide), hrun (by decide), actKept fun s => .geometryAct s _ _ _, actKept fun s => .geometryAct s _ _ _,
    actKept fun s => .geometryAct s _ _ _, actKept fun s => .portEnAct s _ _, actKept fun s => .rsEnAct s _ _,
    actKept fun s => .stickyClearAct s _, hrun (by decide), actKept fun s => .lostClearAct s, hrun (by decide), hrun (by decide),
    hrun (by decide), actKept fun s => .prbsSelAct s _, actKept fun s => .prbsLinkAct s _, hrun (by decide), hrun (by decide),
    hrun (by decide), hrun (by decide)⟩

namespace StoreKept

theorem scalarAct (s : State) {r : Row} (hr : r.k0 ∉ runKeys) (i j : Nat) (v : Int) (port : Option Port) (lax : Bool) :
    StoreKept s (scalarAct r i j v port lax s).2 := by
  unfold Machine.scalarAct
  split
  next x hx =>
    have hkey : x.1 = r.k0 := by simpa using List.find?_some hx
    exact entryActs_kept r i v port lax x (List.mem_of_find?_eq_some hx) (hkey ▸ hr) s
  · split
    · exact shadowWrite _ _ _ _ _ _
    · exact .ite (wrHeld _ _ _ _ _) (wr _ _ _ _ _)

theorem bytesAct (s : State) (r : Row) (i ofs : Nat) (data : List Byte) (port : Option Port) :
    StoreKept s (bytesAct r i ofs data port s).2 := by
  unfold Machine.bytesAct
  split
  · exact shadowWrite _ _ _ _ _ _
  · refine pick (healthMapAct _ _ _ _) (pick (templateAct _ _ _ _ _) (pick (templateAct _ _ _ _ _) (pick (refl s) ?_)))
    split
    · exact setBytes _ _ _
    · exact refl s

theorem blockAct (s : State) (r : Row) (i ofs : Nat) (data : List Byte) {act : State → Nat × State} (h : StoreKept s (act s).2) :
    StoreKept s (blockAct r i ofs data act s).2 := by
  unfold Machine.blockAct
  exact pick (refl s) (.ite (h.trans (stale _)) h)

theorem writeCode (s : State) (late : Bool) (r : Row) (i j : Nat) (v : Int) {act : State → Nat × State}
    (h : StoreKept s (act s).2) : StoreKept s (writeCode s late r i j v act).2 := by
  unfold Machine.writeCode
  refine pick (refl s) ?_
  split
  · exact refl s
  · exact h.trans (.ite (stale _) (refl _))

theorem entryWrite (s : State) {r : Row} (hr : r.k0 ∉ runKeys) (i j ofs : Nat) (data : List Byte) (port : Option Port) (lax : Bool) :
    StoreKept s (entryWrite r i j ofs data port lax s).2 := by
  unfold Machine.entryWrite
  refine pick (sectionCode _ _ _ _ _) (pick (refl s) (pick (refl s) (writeCode _ _ _ _ _ _ ?_)))
  split
  · exact blockAct _ _ _ _ _ (bytesAct _ _ _ _ _ _)
  · exact scalarAct _ hr _ _ _ _ _

/-! ### Records and passes -/

theorem tableRecord (s : State) (r : Row) (tb : Table) (e j : Nat) (data : List Byte) : StoreKept s (tableRecord s r tb e j data) := by
  have hcopies (a b : Nat) (x : EngSt) : StoreKept s (((s.setBytes a data).setBytes b data).setEng e x) :=
    ((setBytes _ _ _).trans (setBytes _ _ _)).trans (setEng _ _ _)
  unfold Machine.tableRecord
  refine .ite (skipRecord s) ?_
  cases tb with
  | stitch => exact (hcopies _ _ _).trans (wr _ _ _ _ _)
  | wave => exact ((hcopies _ _ _).trans (swings _ _)).trans (allAmpSettings _)
  | shape => exact hcopies _ _ _
  | tile => exact hcopies _ _ _

/-- Nothing of `runKeys` but DOM_REQ is stored (R478). -/
theorem not_stored_of_run : ∀ r ∈ rowTable, r.k0 ∈ runKeys → r.k0 ≠ E.domReq.k0 → (r.acc ≠ .rw ∧ r.acc ≠ .rws) ∨
    (0x6800 ≤ r.k0 / 256 ∧ r.k0 / 256 < 0x6900) ∨ r.k0 ∈ [E.rbWr.k0, E.dmaDone.k0] ∨ r.k0 / 256 = 0x6101 := by
  decide +kernel

end StoreKept

theorem storedEntry_not_run {r : Row} {i : Nat} (hr : r ∈ rowTable) (hstored : storedEntry r i = true)
    (hdom : r.k0 ≠ E.domReq.k0) : r.k0 ∉ runKeys := by
  intro hrun
  suffices storedEntry r i = false by simp [this] at hstored
  rcases StoreKept.not_stored_of_run r hr hrun hdom with ⟨hrw, hrws⟩ | hdma | hlist | hmap
  · exact storedEntry_of_acc hrw hrws i
  · simp [storedEntry, hdma]
  · simp only [storedEntry, List.contains_iff_mem.mpr hlist, Bool.not_true, Bool.and_false, Bool.false_and]
  · simp [storedEntry, hmap]

theorem rowOf_mem {key i j : Nat} {r : Row} (h : rowOf key = some (r, i, j)) : r ∈ rowTable := by
  obtain ⟨q, hq, hfound⟩ := List.exists_of_findSome?_eq_some h
  obtain ⟨x, -, hx⟩ := Option.map_eq_some_iff.mp hfound
  cases hx
  exact hq

namespace StoreKept

theorem applyRecord (lax : Bool) (s : State) (x : ParamRec) : StoreKept s (applyRecord lax s x) := by
  unfold Machine.applyRecord
  split
  · exact skipRecord s
  next r i j hrow =>
    split
    · exact refl s
    next hdom =>
      split
      · exact tableRecord _ _ _ _ _ _
      · split
        · exact skipRecord s
        next hstored =>
          have hrun := storedEntry_not_run (rowOf_mem hrow) (by simpa using hstored) hdom
          have hwrite := entryWrite s hrun i j 0 (if r.k0 = E.healthMap.k0 then releasing s i x.data else x.data) none lax
          dsimp only
          exact .ite hwrite (hwrite.trans (skipRecord _))

theorem foldl_on {α : Type} {f : State → α → State} : ∀ {l : List α} (_ : ∀ x ∈ l, ∀ s, StoreKept s (f s x)) (s : State),
    StoreKept s (l.foldl f s)
  | [], _, s => .refl s
  | x :: _, hf, s => (hf x List.mem_cons_self s).trans (foldl_on (fun y hy => hf y (List.mem_cons_of_mem _ hy)) _)

theorem passDisable (s : State) : StoreKept s (passDisable s) := by
  have hrows : ∀ r ∈ [E.healthEn, E.logEn, E.loopEn, E.rsEn], r.k0 ∉ runKeys := by decide
  refine foldl_on (fun x hx t => ?_) s
  obtain ⟨r, hr, hmem⟩ := List.mem_flatMap.mp hx
  obtain ⟨i, -, rfl⟩ := List.mem_map.mp hmem
  exact .ite (entryWrite t (hrows r hr) _ _ _ _ _ _) (refl t)

theorem passRecords (l : List ParamRec) (s : State) : StoreKept s (passRecords l s) :=
  (foldl _ (applyRecord true) _ s).trans (foldl _ (applyRecord false) _ _)

theorem toDefault (s : State) {act : Int → State → Nat × State} (h : ∀ v, StoreKept s (act v s).2) (r : Row) (i : Nat) :
    StoreKept s (toDefault act r i s) := (h _).trans (skipRecord _)

theorem checkScores (s : State) (e : Nat) : StoreKept s (checkScores s e) := by
  unfold Machine.checkScores
  exact .ite ((toDefault s (fun v => scoreAct _ _ _ _ _) _ _).trans (toDefault _ (fun v => scoreAct _ _ _ _ _) _ _)) (refl s)

theorem checkHeaters (s : State) : StoreKept s (checkHeaters s) := by
  have hoff (l : List Nat) (t : State) : StoreKept t
      (l.foldl (fun s c => Machine.toDefault (Machine.heaterSetAct true c) E.heaterSet c s) t) :=
    foldl _ (fun t c => toDefault t (fun v => heaterSetAct _ _ _ _) _ _) l t
  unfold Machine.checkHeaters
  dsimp only
  split
  · exact refl s
  · exact ((hoff _ s).trans (toDefault _ (fun v => otThreshAct _ _ _) _ _)).trans (hoff _ _)

theorem checkLimits (s : State) (l : Nat) : StoreKept s (checkLimits s l) := by
  unfold Machine.checkLimits
  exact .ite ((toDefault s (fun v => outLimitAct _ _ _ _ _) _ _).trans (toDefault _ (fun v => outLimitAct _ _ _ _ _) _ _)) (refl s)

theorem passChecks (s : State) : StoreKept s (passChecks s) :=
  ((foldl _ checkScores _ s).trans (checkHeaters _)).trans (foldl _ checkLimits _ _)

theorem restorePasses (m : Option Image) (s : State) : StoreKept s (restorePasses m s) :=
  ((passDisable s).trans (passRecords _ _)).trans (passChecks _)

end StoreKept

end Sys2Proof.Machine
end

section
/-!
CERTIFICATE. STORE, RESTORE and CONFIG_CRC (R479 to R484).
-/
namespace Sys2Proof.Machine

variable {s t u : State} {p : Port}

/-! ### The end of a RESTORE -/

/-- The STORE event with its status (R470). -/
theorem storeEvent_leaves (s : State) (k : Nat) (hu : u = storeEvent s k) : u.store = s.store ∧ u.mem = s.mem ∧
    u.rd E.storeStatus = k ∧ u.rd E.imageSeq = s.rd E.imageSeq := by
  obtain ⟨hsame, -⟩ := maskedEvent_same (s.wr E.storeStatus k) 8 0x2000 8 k
  have heq : u = maskedEvent (s.wr E.storeStatus k) 8 0x2000 8 k := hu
  rw [← heq] at hsame
  refine ⟨hsame.store, hsame.mem, ?_, ?_⟩
  · rw [hsame.rd _ _ _ (by decide), State.rd_wr_same]
  · rw [hsame.rd _ _ _ (by decide), State.rd_wr _ _ _ _ _ _ _ _ (by decide)]

theorem restoreEnd_ends {m : Option Image} {k : Nat} (hrest : s.store.restoring = some (m, k)) (hdev : s.dev = .config)
    (hswitch : switching s = false) : exec .restoreEnd s = .next (restoreOutcome (m, k) (restorePasses m s)) := by
  have hend : restoreEndAct s = restoreOutcome (m, k) (restorePasses m s) := by
    unfold restoreEndAct
    rw [hrest]
    exact if_neg (by simp [hdev, hswitch])
  exact congrArg Host.Outcome.next hend

theorem restoreOutcome_leaves (m : Option Image) (k : Nat) (hu : u = restoreOutcome (m, k) s) : u.store.restoring = none ∧
    u.rd E.storeStatus = k ∧ u.rd E.imageSeq = (m.elim 0 Image.seq : Nat) ∧ u.store.slotA = s.store.slotA ∧
    u.store.slotB = s.store.slotB := by
  obtain ⟨hstore, -, hstatus, hseq⟩ := storeEvent_leaves _ k hu
  rw [hstore]
  exact ⟨rfl, hstatus, hseq.trans (State.rd_wr_same ..), rfl, rfl⟩

/-! ### The end of a STORE -/

theorem storeEnd_ends {x : Image} {b : Bool} (hstore : s.store.storing = some (x, b)) (hbrown : brownout s = false) :
    exec (.storeEnd true) s = .next (storeEvent (((setSlot { s with store := { s.store with storing := none } } b (some x)).wr
      E.imageSeq x.seq).wr E.storeProgress 100) 3) ∧
    exec (.storeEnd false) s = .next (storeEvent { s with store := { s.store with storing := none } } 5) := by
  have hend (verified : Bool) : storeEndAct verified s = if verified then
      storeEvent (((setSlot { s with store := { s.store with storing := none } } b (some x)).wr E.imageSeq x.seq).wr E.storeProgress 100) 3
      else storeEvent { s with store := { s.store with storing := none } } 5 := by
    unfold storeEndAct
    rw [hstore]
    exact if_neg (by simp [hbrown])
  exact ⟨congrArg Host.Outcome.next (hend true), congrArg Host.Outcome.next (hend false)⟩

theorem setSlot_leaves (s : State) (b : Bool) (x : Option Image) (hu : u = setSlot s b x) :
    (if b then u.store.slotB else u.store.slotA) = x ∧ (if b then u.store.slotA = s.store.slotA else u.store.slotB = s.store.slotB) ∧
      u.store.storing = s.store.storing ∧ u.mem = s.mem ∧ u.dict = s.dict := by
  subst hu
  cases b <;> exact ⟨rfl, rfl, rfl, rfl, rfl⟩

theorem storeEnd_verified (s : State) (x : Image) (b : Bool) (hu : u = storeEvent (((setSlot { s with store :=
    { s.store with storing := none } } b (some x)).wr E.imageSeq x.seq).wr E.storeProgress 100) 3) : u.store.storing = none ∧
    (if b then u.store.slotB else u.store.slotA) = some x ∧ u.rd E.imageSeq = x.seq ∧ u.rd E.storeStatus = 3 ∧ ∀ a, u.byte a = s.byte a := by
  obtain ⟨v, hv⟩ : ∃ v, v = setSlot { s with store := { s.store with storing := none } } b (some x) := ⟨_, rfl⟩
  obtain ⟨hslot, -, hstoring, hmem, -⟩ := setSlot_leaves _ _ _ hv
  rw [← hv] at hu
  obtain ⟨hstore, humem, hstatus, hseq⟩ := storeEvent_leaves _ _ hu
  rw [State.rd_wr _ _ _ _ _ _ _ _ (by decide), State.rd_wr_same] at hseq
  rw [hstore]
  exact ⟨hstoring, hslot, hseq, hstatus, fun a => by rw [State.byte, humem]; exact congrArg (Memory.get · a) hmem⟩

theorem storeEnd_failed (s : State) (hu : u = storeEvent { s with store := { s.store with storing := none } } 5) :
    u.store.storing = none ∧ u.store.slotA = s.store.slotA ∧ u.store.slotB = s.store.slotB ∧ u.rd E.storeStatus = 5 ∧
      u.rd E.imageSeq = s.rd E.imageSeq := by
  obtain ⟨hstore, -, hstatus, hseq⟩ := storeEvent_leaves _ _ hu
  rw [hstore]
  exact ⟨rfl, rfl, rfl, hstatus, hseq⟩

/-! ### CONFIG_CRC -/

theorem crcAct_leaves (s : State) (hu : u = crcAct s) : u.rd E.configCrc = crc32c (payload (imageRecs s)) ∧
    u.store.crcStale = false ∧ u.sent = s.sent ∧ u.faultQ = s.faultQ ∧ SameBut s u [rowKey E.configCrc 0 0] := by
  obtain ⟨n, hn⟩ : ∃ n, n = crc32c (payload (imageRecs s)) := ⟨_, rfl⟩
  unfold crcAct at hu
  rw [← hn] at hu ⊢
  subst hu
  exact ⟨State.rd_wr_same .., rfl, rfl, rfl, (SameBut.refl s _).wr (by simp) _⟩

/-! ### The beginning of a STORE -/

/-- What a STORE that begins leaves (R481). -/
structure StoreBegins (s u : State) (m : Image) (b : Bool) : Prop where
  image : ∃ x : Image, u.store.storing = some (x, !b) ∧ x.seq = (m.seq + 1) % 2 ^ 32 ∧ x.recs = imageRecs s ∧ x.payOk = true
  slots : if b then u.store.slotB = s.store.slotB ∧ u.store.slotA = none else u.store.slotA = s.store.slotA ∧ u.store.slotB = none
  status : u.rd E.storeStatus = 1
  progress : u.rd E.storeProgress = 0
  sent : u.sent = s.sent
  same : SameBut s u [rowKey E.storeStatus 0 0, rowKey E.storeProgress 0 0, rowKey E.cmdLast 0 0, rowKey E.cmdResult 0 0]

theorem storeAct_begins {m : Image} {b : Bool} (hstoring : s.store.storing = none) (hrest : s.store.restoring = none)
    (hflash : s.store.flashOk = true) (hnew : newestImage s = some (m, b)) :
    ∃ u, storeAct s = (okCode, u) ∧ StoreBegins s u m b := by
  have himage : newImage s = ({ seq := (m.seq + 1) % 2 ^ 32, dieId := s.fuse 1, grade := s.grade, recs := imageRecs s }, !b) := by
    unfold newImage
    rw [hnew]
  obtain ⟨l, hl⟩ : ∃ l, l = imageRecs s := ⟨_, rfl⟩
  rw [← hl] at himage
  have hfree : storeBusy s = false := by rw [storeBusy, hstoring, hrest]; rfl
  unfold storeAct
  rw [hfree, hflash, himage]
  refine ⟨_, rfl, ⟨⟨_, rfl, rfl, hl, rfl⟩, ?_, ?_, State.rd_wr_same .., ?_, ?_⟩⟩
  · cases b <;> exact ⟨rfl, rfl⟩
  · exact (State.rd_wr _ _ _ _ _ _ _ _ (by decide)).trans (State.rd_wr_same ..)
  · cases b <;> rfl
  · exact (SameBut.wr ⟨fun _ _ _ _ => by cases b <;> rfl, fun _ => by cases b <;> rfl⟩ (by simp) _).wr (by simp) _

theorem StoreBegins.noted {m : Image} {b : Bool} {w : Nat} (h : StoreBegins s t m b) (hu : u = noteCommand w okCode t) :
    StoreBegins s u m b := by
  have hnote := (noteCommand_leaves (.inl rfl) hu).2.2
  have hrd (r : Row) (h : rowKey r 0 0 ∉ [rowKey E.cmdLast 0 0, rowKey E.cmdResult 0 0]) : u.rd r = t.rd r := hnote.1 r 0 0 h
  rw [noteCommand_shown (.inl rfl)] at hu
  obtain ⟨hstore, hsent⟩ : u.store = t.store ∧ u.sent = t.sent := hu ▸ ⟨rfl, rfl⟩
  exact ⟨by rw [hstore]; exact h.image, by rw [hstore]; exact h.slots, (hrd _ (by decide)).trans h.status,
    (hrd _ (by decide)).trans h.progress, hsent.trans h.sent, (h.same.trans hnote).mono (by decide)⟩

/-! ### The beginning of a RESTORE -/

/-- What the switching of the domains leaves (R483). -/
structure DomainsSwitched (s t : State) : Prop where
  dev : t.dev = s.dev
  kept : StoreKept s t
  status : t.rd E.storeStatus = s.rd E.storeStatus

namespace DomainsSwitched

theorem refl (s : State) : DomainsSwitched s s := ⟨rfl, .refl s, rfl⟩

theorem trans (h : DomainsSwitched s t) (h' : DomainsSwitched t u) : DomainsSwitched s u :=
  ⟨h'.dev.trans h.dev, h.kept.trans h'.kept, h'.status.trans h.status⟩

theorem ite {q : Prop} [Decidable q] (ht : DomainsSwitched s t) (hu : DomainsSwitched s u) :
    DomainsSwitched s (if q then t else u) := by
  split <;> assumption

theorem doms (l : List (Nat × DomSt)) : DomainsSwitched s { s with doms := l } := ⟨rfl, .same rfl, rfl⟩

theorem wr (s : State) {r : Row} {i : Nat} (hr : rowKey E.storeStatus 0 0 ≠ rowKey r i 0) (v : Int) :
    DomainsSwitched s (s.wr r v i) := ⟨rfl, .wr s r v i 0, State.rd_wr _ _ _ _ _ _ _ _ hr⟩

theorem foldl {f : State → Nat → State} : ∀ {l : List Nat} (_ : ∀ d ∈ l, ∀ s, DomainsSwitched s (f s d)) (s : State),
    DomainsSwitched s (l.foldl f s)
  | [], _, s => refl s
  | d :: _, hf, s => (hf d List.mem_cons_self s).trans (foldl (fun x hx => hf x (List.mem_cons_of_mem _ hx)) _)

variable {d : Nat}

theorem storeStatus_apart : ∀ d ∈ downOrder, domainOfKey (rowKey E.storeStatus 0 0) ≠ d ∧ rowKey E.storeStatus 0 0 ∉ heaterKeys d := by
  decide +kernel

theorem clearDomain (hd : d ∈ downOrder) (s : State) : DomainsSwitched s (clearDomain d s) := by
  obtain ⟨hrest, hrd, -⟩ := clearDomain_leaves d s rfl
  obtain ⟨hkey, hheater⟩ := storeStatus_apart d hd
  exact ⟨hrest.dev, ⟨hrest.store⟩, (hrd _ _ _).1 hkey hheater⟩

theorem nextPowerUp (s : State) : DomainsSwitched s (nextPowerUp s) := by
  obtain ⟨l, hl⟩ := nextPowerUp_doms s
  exact hl ▸ doms l

theorem requestUp (s : State) (d : Nat) : DomainsSwitched s (requestUp s d) := by
  obtain ⟨l, hl⟩ := requestUp_doms s d
  exact hl ▸ doms l

theorem beginDown (hd : d ∈ downOrder) (s : State) : DomainsSwitched s (beginDown s d) := by
  have hdrop : DomainsSwitched s (dropPowerUp s d) := .ite ((doms _).trans (clearDomain hd _)) (refl s)
  unfold Machine.beginDown
  exact .ite (doms _) (hdrop.trans (doms _))

theorem domReqAct (hd : d ∈ downOrder) (s : State) (v : Nat) : DomainsSwitched s (domReqAct d v s).2 := by
  have hkey : ∀ d ∈ downOrder, rowKey E.storeStatus 0 0 ≠ rowKey E.domReq d 0 := by decide
  have hwrite := wr s (hkey d hd) v
  unfold Machine.domReqAct
  split
  · exact refl s
  · exact hwrite.trans (.ite ((beginDown hd _).trans (nextPowerUp _)) (requestUp _ _))

theorem writeCode (s : State) (late : Bool) (r : Row) (i j : Nat) (v : Int) {act : State → Nat × State}
    (h : DomainsSwitched s (act s).2) : DomainsSwitched s (writeCode s late r i j v act).2 := by
  have hstale (t : State) : DomainsSwitched t t.stale := ⟨rfl, .stale t, rfl⟩
  unfold Machine.writeCode
  split
  · exact refl s
  · split
    · exact refl s
    · exact h.trans (.ite (hstale _) (refl _))

theorem applyDom (hd : d ∈ downOrder) (m : Option Image) (want : Nat) (s : State) : DomainsSwitched s (applyDom m want s d) := by
  have hskip (t : State) : DomainsSwitched t (skipRecord t) := wr t (by decide) _
  unfold Machine.applyDom
  split
  · exact refl s
  next v hv =>
    have hwrite := writeCode s false E.domReq d 0 v (domReqAct hd s v)
    dsimp only
    exact .ite (refl s) (.ite hwrite (hwrite.trans (hskip _)))

theorem restoreDomains (m : Option Image) (s : State) : DomainsSwitched s (restoreDomains m s) :=
  (foldl (fun _ hd t => applyDom hd m 0 t) s).trans (foldl (fun _ hd t => applyDom (List.mem_reverse.mp hd) m 1 t) _)

end DomainsSwitched

theorem restorePlan_congr (h : t.store = s.store) (defaults : Bool) : restorePlan t defaults = restorePlan s defaults := by
  unfold restorePlan newestImage
  rw [h]

/-- What a RESTORE that begins leaves (R457, R482, R483). -/
theorem restoreBegin_leaves (defaults : Bool) (s : State) (hu : u = restoreBegin defaults s) : u.dev = s.dev ∧
    u.rd E.storeStatus = 2 ∧ u.store.restoring = some (restorePlan s defaults) := by
  obtain ⟨x, hx⟩ : ∃ x, x = restorePlan s defaults := ⟨_, rfl⟩
  unfold restoreBegin at hu
  rw [← hx] at hu ⊢
  obtain ⟨v, hv⟩ : ∃ v, v = (({ s with store := { s.store with restoring := some x } } : State).wr E.storeStatus 2).wr E.restoreSkips 0 :=
    ⟨_, rfl⟩
  obtain ⟨hdev, hrestoring, hstatus⟩ : v.dev = s.dev ∧ v.store.restoring = some x ∧ v.rd E.storeStatus = 2 := by
    subst hv
    exact ⟨rfl, rfl, (State.rd_wr _ _ _ _ _ _ _ _ (by decide)).trans (State.rd_wr_same ..)⟩
  have hu : u = restoreDomains x.1 v := hv ▸ hu
  have hswitched := hu ▸ DomainsSwitched.restoreDomains x.1 v
  obtain ⟨b, hb⟩ := hswitched.kept.store
  exact ⟨hswitched.dev.trans hdev, hswitched.status.trans hstatus, by rw [hb]; exact hrestoring⟩

theorem restore_begins {arg : Nat} (harg : [0, 1].contains arg = true) (hdev : s.dev = .config ∨ s.dev = .ready)
    (hstoring : s.store.storing = none) (hrest : s.store.restoring = none)
    (hacc : Accepted s p (s.superseded noTarget) E.command 0 0 ((commandWord 0x11 arg : Nat) : Int)) (hu : u = restoreWrite s p arg) :
    u.dev = .config ∧ u.rd E.storeStatus = 2 ∧ u.store.restoring = some (restorePlan s (arg == 1)) ∧
      u.sent.head? = some (.answer p okCode []) := by
  obtain ⟨v, hv⟩ : ∃ v, v = restoreBegin (arg == 1) (setDev s .config) := ⟨_, rfl⟩
  have hfree : storeBusy s = false := by rw [storeBusy, hstoring, hrest]; rfl
  have hact : (if storeBusy s then (codeBusy, s) else (okCode, restoreBegin (arg == 1) (setDev s .config))) = (okCode, v) := by
    rw [hfree, hv]
    rfl
  have hhere : (s.dev == .config || s.dev == .ready) = true := by rcases hdev with h | h <;> rw [h] <;> rfl
  have heq := writeIf_command_done (here := fun s => s.dev == .config || s.dev == .ready)
    (effect := fun s => if storeBusy s then (codeBusy, s) else (okCode, restoreBegin (arg == 1) (setDev s .config))) hacc hhere harg
    hact okCode_ne_laterCode
  obtain ⟨w, hw⟩ : ∃ w, w = noteCommand (commandWord 0x11 arg) okCode v := ⟨_, rfl⟩
  have hu : u = w.answer p okCode := hu.trans (heq.trans (hw ▸ rfl))
  obtain ⟨hsame, hconfig⟩ := setDev_same s .config
  obtain ⟨hvdev, hvstatus, hvplan⟩ := restoreBegin_leaves _ _ hv
  have hnote := (noteCommand_leaves (.inl rfl) hw).2.2
  rw [noteCommand_shown (.inl rfl)] at hw
  obtain ⟨hwdev, hwstore⟩ : w.dev = v.dev ∧ w.store = v.store := hw ▸ ⟨rfl, rfl⟩
  have hwstatus : w.rd E.storeStatus = 2 := (hnote.1 _ _ _ (by decide)).trans hvstatus
  rw [restorePlan_congr hsame.store] at hvplan
  rw [← hwstore] at hvplan
  subst hu
  exact ⟨hwdev.trans (hvdev.trans hconfig), hwstatus, hvplan, rfl⟩

theorem store_begins {m : Image} {b : Bool} (hacc : Accepted s p (s.superseded noTarget) E.command 0 0 (0x10 * 2 ^ 40))
    (hdev : s.dev = .config ∨ s.dev = .ready ∨ s.dev = .halt) (hstoring : s.store.storing = none) (hrest : s.store.restoring = none)
    (hflash : s.store.flashOk = true) (hnew : newestImage s = some (m, b)) :
    ∃ u, exec (.store p 0) s = .next (u.answer p okCode) ∧ StoreBegins s u m b := by
  have hacc : Accepted s p (s.superseded noTarget) E.command 0 0 ((commandWord 0x10 0 : Nat) : Int) := hacc
  have hhere : (s.dev == .config || s.dev == .ready || s.dev == .halt) = true := by rcases hdev with h | h | h <;> rw [h] <;> rfl
  obtain ⟨v, hact, hbegins⟩ := storeAct_begins hstoring hrest hflash hnew
  refine ⟨_, congrArg Host.Outcome.next (writeIf_command_done (here := fun s => s.dev == .config || s.dev == .ready || s.dev == .halt)
    hacc hhere (by decide) hact okCode_ne_laterCode), hbegins.noted rfl⟩

/-- Settles O46. -/
theorem storeAndRestore : Obligations.StoreAndRestore := by
  unfold Obligations.StoreAndRestore
  refine ⟨fun p s hacc hdev hstoring hrest hflash m b hnew => ?_, fun s x b hstoring hbrown => ?_, fun p s hdev hstoring hrest => ?_,
    fun s m k hrest hdev hswitch => ?_, fun s => ⟨_, rfl, crcAct_leaves s rfl⟩⟩
  · obtain ⟨u, hexec, ⟨⟨x, himage, hseq, hrecs, hpay⟩, hslots, hstatus, hprogress, hsent, hsame⟩⟩ :=
      store_begins hacc hdev hstoring hrest hflash hnew
    exact ⟨_, hexec, x, himage, hseq, hrecs, hpay, hslots, hstatus, hprogress, congrArg (List.cons _) hsent,
      hsame.answer p okCode []⟩
  · obtain ⟨hverified, hfailed⟩ := storeEnd_ends hstoring hbrown
    exact ⟨⟨_, hverified, storeEnd_verified s x b rfl⟩, _, hfailed, storeEnd_failed s rfl⟩
  · exact ⟨fun hacc => ⟨_, rfl, restore_begins (arg := 0) (by decide) hdev hstoring hrest hacc rfl⟩,
      fun hacc => ⟨_, rfl, restore_begins (arg := 1) (by decide) hdev hstoring hrest hacc rfl⟩⟩
  · have hkept := StoreKept.restorePasses m s
    obtain ⟨hdone, hstatus, hseq, hA, hB⟩ := restoreOutcome_leaves m k (s := restorePasses m s) rfl
    exact ⟨_, restoreEnd_ends hrest hdev hswitch, hdone, hstatus, hseq, hA.trans hkept.slotA, hB.trans hkept.slotB⟩

end Sys2Proof.Machine
end
